-- ==== Sys2Proof/Word.lean ====
section
/-! DEFINITION. The word types of the Kiloon machine (00 R6, 01 R10, 06 R123). -/
namespace Sys2Proof

/-- A byte of memory. -/
abbrev Byte := BitVec 8
/-- A 32-bit word: an s register, a lane, a slot word. -/
abbrev Word := BitVec 32
/-- A pointer register or an effective address (R10, R84). -/
abbrev Ptr := BitVec 64
/-- The 256 lanes of a d, a or b register (R10, R123). -/
abbrev Lanes := Vector Word 256
/-- A 256-bit lane mask: l, ma and mb registers (R10, R123). -/
abbrev Mask := BitVec 256
/-- The 128 words of an accumulator row or of an o row (R141, R162). -/
abbrev OWords := Vector Word 128

end Sys2Proof
end

