-- ==== Sys2Proof/Syntax.lean ====
section
/-! DEFINITION. The instructions of Kiloon and the steps of the TS-384, one constructor of `Instr` for each row of
the opcode table: the slot instructions carry the fields of their format (02 R30, R32, R34, R37, R39, R41); the 93 other
steps have no encoding, and what each acts on stands in the pending step that it executes (Machine/Work.lean). -/
namespace Sys2Proof

/-! ### Field records of the slot formats (raw fields, before any extension) -/

/-- S.R, three-register (R30). -/
structure SR where
  sd : Nat
  sa : Nat
  sb : Nat
  g : Nat
  neg : Bool
  fn : Nat
deriving DecidableEq, Repr

/-- S.I, immediate (R30). -/
structure SI where
  sd : Nat
  sa : Nat
  imm : Nat
deriving DecidableEq, Repr

/-- S.U, upper (R30). -/
structure SU where
  sd : Nat
  imm : Nat
deriving DecidableEq, Repr

/-- S.B, branch (R30); `off` is the raw 20-bit field. -/
structure SB where
  g : Nat
  neg : Bool
  off : Nat
deriving DecidableEq, Repr

/-- S.L, loop (R30); `len` is the body length minus 1, `cnt` the low 14 bits. -/
structure SL where
  level : Nat
  len : Nat
  cnt : Nat
deriving DecidableEq, Repr

/-- S.Y, system (R30); `sel` is select14. -/
structure SY where
  sd : Nat
  sa : Nat
  sel : Nat
deriving DecidableEq, Repr

/-- L.M, memory (R32). -/
structure LM where
  tg : Nat
  ptr : Nat
  off : Nat
  g : Nat
  neg : Bool
deriving DecidableEq, Repr

/-- L.P, pointer (R32). -/
structure LP where
  pd : Nat
  pa : Nat
  imm : Nat
deriving DecidableEq, Repr

/-- L.X, indexed (R32); `rsv` is the reserved field [9:4]. -/
structure LX where
  tg : Nat
  ptr : Nat
  idx : Nat
  lm : Nat
  rsv : Nat
  g : Nat
  neg : Bool
deriving DecidableEq, Repr

/-- L.A, atomic and tagged (R32). -/
structure LA where
  tg : Nat
  ptr : Nat
  opd : Nat
  off : Nat
  g : Nat
  neg : Bool
deriving DecidableEq, Repr

/-- L.G, generator (R32). -/
structure LG where
  tg : Nat
  ag : Nat
  size : Nat
  imm : Nat
  g : Nat
  neg : Bool
deriving DecidableEq, Repr

/-- V.R, three-operand (R34). -/
structure VR where
  vd : Nat
  va : Nat
  vb : Nat
  mask : Nat
  rnd : Nat
  sub : Nat
deriving DecidableEq, Repr

/-- V.F, fused (R34). -/
structure VF where
  vd : Nat
  va : Nat
  vb : Nat
  vc : Nat
  mask : Nat
  rnd : Nat
deriving DecidableEq, Repr

/-- V.I, immediate (R34). -/
structure VI where
  vd : Nat
  va : Nat
  imm : Nat
  mask : Nat
deriving DecidableEq, Repr

/-- V.U, upper (R34). -/
structure VU where
  vd : Nat
  imm : Nat
  mask : Nat
deriving DecidableEq, Repr

/-- The copy format (R37). -/
structure XC where
  dfile : Nat
  dreg : Nat
  sfile : Nat
  sreg : Nat
  aux : Nat
deriving DecidableEq, Repr

/-- The MX format (R39). -/
structure MXF where
  qa : Nat
  pa : Bool
  qb : Nat
  pb : Bool
  fmt : Nat
  flags : Nat
deriving DecidableEq, Repr

/-- The TE format (R41). -/
structure TEF where
  h : Nat
  lead : Nat
deriving DecidableEq, Repr

/-- Every row of the opcode table. -/
inductive Instr where
  /-- An all-zero slot word does nothing (R28). -/
  | nop
  /-- sd := sa + sb. (R62) -/
  | add (f : SR)
  /-- sd := sa - sb. (R62) -/
  | sub (f : SR)
  /-- Bitwise and. (R62) -/
  | and (f : SR)
  /-- Bitwise or. (R62) -/
  | or (f : SR)
  /-- Bitwise exclusive or. (R62) -/
  | xor (f : SR)
  /-- Left shift by sb[4:0]. (R62) -/
  | shl (f : SR)
  /-- Logical right shift by sb[4:0]. (R62) -/
  | shr (f : SR)
  /-- Arithmetic right shift by sb[4:0]. (R62) -/
  | sar (f : SR)
  /-- Signed minimum. (R62) -/
  | min (f : SR)
  /-- Signed maximum. (R62) -/
  | max (f : SR)
  /-- Unsigned minimum. (R62) -/
  | minu (f : SR)
  /-- Unsigned maximum. (R62) -/
  | maxu (f : SR)
  /-- Count leading zeros of sa. (R62) -/
  | clz (f : SR)
  /-- Count one bits of sa. (R62) -/
  | popc (f : SR)
  /-- sd := selecting guard ? sa : sb. (R68) -/
  | sel (f : SR)
  /-- Low word of the product at t+3. (R64) -/
  | mul (f : SR)
  /-- Signed high word of the product at t+3. (R64) -/
  | mulh (f : SR)
  /-- Unsigned high word of the product at t+3. (R64) -/
  | mulhu (f : SR)
  /-- Signed quotient at t+12. (R64) -/
  | div (f : SR)
  /-- Unsigned quotient at t+12. (R64) -/
  | divu (f : SR)
  /-- Signed remainder at t+12. (R64) -/
  | rem (f : SR)
  /-- Unsigned remainder at t+12. (R64) -/
  | remu (f : SR)
  /-- sd := sa + sign-extended imm14. (R63) -/
  | addi (f : SI)
  /-- sd := sa and zero-extended imm14. (R63) -/
  | andi (f : SI)
  /-- sd := sa or zero-extended imm14. (R63) -/
  | ori (f : SI)
  /-- sd := sa xor zero-extended imm14. (R63) -/
  | xori (f : SI)
  /-- Left shift by an immediate. (R63) -/
  | shli (f : SI)
  /-- Logical right shift by an immediate. (R63) -/
  | shri (f : SI)
  /-- Arithmetic right shift by an immediate. (R63) -/
  | sari (f : SI)
  /-- sd := imm19 << 13. (R63) -/
  | lui (f : SU)
  /-- Guard := sa equals the immediate. (R65) -/
  | cmpiEq (f : SI)
  /-- Guard := sa differs from the immediate. (R65) -/
  | cmpiNe (f : SI)
  /-- Guard := signed sa below the immediate. (R65) -/
  | cmpiLt (f : SI)
  /-- Guard := signed sa at or above the immediate. (R65) -/
  | cmpiGe (f : SI)
  /-- Guard := unsigned sa below the immediate. (R65) -/
  | cmpiLtu (f : SI)
  /-- Guard := unsigned sa at or above the immediate. (R65) -/
  | cmpiGeu (f : SI)
  /-- Guarded compare, equal. (R65) -/
  | cmpEq (f : SR)
  /-- Guarded compare, not equal. (R65) -/
  | cmpNe (f : SR)
  /-- Guarded compare, signed less. (R65) -/
  | cmpLt (f : SR)
  /-- Guarded compare, signed greater or equal. (R65) -/
  | cmpGe (f : SR)
  /-- Guarded compare, unsigned less. (R65) -/
  | cmpLtu (f : SR)
  /-- Guarded compare, unsigned greater or equal. (R65) -/
  | cmpGeu (f : SR)
  /-- Guard := and of two optionally inverted guards. (R66) -/
  | gand (f : SR)
  /-- Guard := or of two optionally inverted guards. (R66) -/
  | gor (f : SR)
  /-- Guard := xor of two optionally inverted guards. (R66) -/
  | gxor (f : SR)
  /-- Copy the guard file into sd bits [7:0]. (R67) -/
  | gtos (f : SR)
  /-- Set guards 1–7 from sa bits. (R67) -/
  | stog (f : SR)
  /-- Branch after two delay bundles. (R69) -/
  | br (f : SB)
  /-- Branch and write the return index to s31. (R69) -/
  | call (f : SB)
  /-- Branch to the bundle index in s31. (R69) -/
  | ret (f : SB)
  /-- Discard the successor and expand and enter another segment. (R71) -/
  | segj (f : SB)
  /-- Start a hardware loop level with a count from a register. (R73) -/
  | loop (f : SL)
  /-- Start a hardware loop level with an immediate count. (R73) -/
  | loopi (f : SL)
  /-- Read a special register into sd at t+2, latching high words where defined. (R16) -/
  | rdsr (f : SY)
  /-- Write sa to a writable special register at t+1. (R16) -/
  | wrsr (f : SY)
  /-- Read a pigeonhole's latched or live word into sd at t+2. (R79) -/
  | pgrd (f : SY)
  /-- Write sa to an out-pigeonhole's live word at t+1. (R80) -/
  | pgwr (f : SY)
  /-- Raise fault 0x02 with a code at issue. (R81) -/
  | trap (f : SY)
  /-- Stop the core after its bundle takes effect. (R82) -/
  | endI (f : SY)
  /-- Write the low or high word of TTC to sd at t+1. (R199) -/
  | trd (f : SY)
  /-- Wait until TTC reaches the 64-bit target, closing any solo region. (R204) -/
  | twait (f : SR)
  /-- Fault if TTC has passed the 64-bit bound; a sign of life. (R200) -/
  | tchk (f : SR)
  /-- Open a solo region with a solo-bank mask. (R201) -/
  | solo (f : SY)
  /-- Set a barrier's expected count at t+1. (R206) -/
  | binit (f : SY)
  /-- Send one arrival to a barrier of a target rank. (R207) -/
  | barr (f : SY)
  /-- Check a barrier's counts, resetting on match or faulting on mismatch. (R208) -/
  | bchk (f : SY)
  /-- Start an ended sibling core with arguments at SPWE's entry. (R213) -/
  | spawn (f : SY)
  /-- Acquire an empty stage slot for writing. (R211) -/
  | acqsW (f : SY)
  /-- Acquire a full stage slot owned by this stage for reading. (R211) -/
  | acqsR (f : SY)
  /-- Release a written stage slot as full. (R211) -/
  | relsW (f : SY)
  /-- Release a read stage slot as empty. (R211) -/
  | relsR (f : SY)
  /-- Mark a unanimous, quiet checkpoint line and take duplicates. (R330) -/
  | ckpt (f : SY)
  /-- Read a word of the retained syndrome into sd at t+2. (R328) -/
  | fsyn (f : SY)
  /-- Insert a 16-bit immediate at halfword k of pd. (R89) -/
  | plil (f : LP)
  /-- pd := imm16 << 48. (R89) -/
  | plih (f : LP)
  /-- pd := pa + pb. (R89) -/
  | padd (f : LP)
  /-- pd := pa + sign-extended imm16. (R89) -/
  | paddi (f : LP)
  /-- pd := pa. (R89) -/
  | pmov (f : LP)
  /-- Load a word into lane 0 of d. (R90) -/
  | ldw (f : LM)
  /-- Load a 256-byte row into d. (R90) -/
  | ldr (f : LM)
  /-- Load a 512-byte half-vector into d. (R90) -/
  | ldh (f : LM)
  /-- Load a 1024-byte vector into d. (R90) -/
  | ldv (f : LM)
  /-- Store lane 0 of d. (R90) -/
  | stw (f : LM)
  /-- Store lanes 0–63 of d. (R90) -/
  | str (f : LM)
  /-- Store lanes 0–127 of d. (R90) -/
  | sth (f : LM)
  /-- Store all 256 lanes of d. (R90) -/
  | stv (f : LM)
  /-- Load a 256-byte row into an input queue. (R92) -/
  | ldq (f : LM)
  /-- Load a row with a tile-tag check. (R93) -/
  | ldt (f : LA)
  /-- Store 1024 bytes to device memory outside timed order. (R249) -/
  | stnt (f : LM)
  /-- Cover outstanding STNTs with a completion check at t+2048. (R250) -/
  | drain (f : LM)
  /-- Gather selected words by index in four lane groups. (R94) -/
  | ldg (f : LX)
  /-- Scatter selected words by index. (R94) -/
  | stg (f : LX)
  /-- Scatter selected halfwords by index. (R94) -/
  | stg16 (f : LX)
  /-- Atomic add on a word, returning the old value. (R96) -/
  | amoAdd (f : LA)
  /-- Atomic signed minimum on a word. (R96) -/
  | amoMin (f : LA)
  /-- Atomic signed maximum on a word. (R96) -/
  | amoMax (f : LA)
  /-- Atomic swap on a word. (R96) -/
  | amoSwap (f : LA)
  /-- Atomic compare and swap on a word. (R96) -/
  | amoCas (f : LA)
  /-- Load an address generator from lanes 0–7 of d. (R298) -/
  | agset (f : LG)
  /-- Advance a generator's position by an immediate. (R299) -/
  | agadv (f : LG)
  /-- Load at the generator's arena address with a PMAX check. (R300) -/
  | lda (f : LG)
  /-- Store at the generator's arena address with a PMAX check. (R300) -/
  | sta (f : LG)
  /-- Lane-wise FP32 add. (R128) -/
  | fadd (f : VR)
  /-- Lane-wise FP32 subtract. (R128) -/
  | fsub (f : VR)
  /-- Lane-wise FP32 multiply. (R128) -/
  | fmul (f : VR)
  /-- Lane-wise FP32 minimum. (R130) -/
  | fmin (f : VR)
  /-- Lane-wise FP32 maximum. (R130) -/
  | fmax (f : VR)
  /-- Clear the sign bit. (R131) -/
  | fabs (f : VR)
  /-- Invert the sign bit. (R131) -/
  | fneg (f : VR)
  /-- Copy the sign of vb onto va. (R131) -/
  | fcps (f : VR)
  /-- Mask bit := va equals vb. (R132) -/
  | fcmpEq (f : VR)
  /-- Mask bit := va differs from vb or either is NaN. (R132) -/
  | fcmpNe (f : VR)
  /-- Mask bit := va less than vb. (R132) -/
  | fcmpLt (f : VR)
  /-- Mask bit := va at most vb. (R132) -/
  | fcmpLe (f : VR)
  /-- Mask bit := either operand is NaN. (R132) -/
  | fcmpUn (f : VR)
  /-- Write a one-hot class word per lane. (R133) -/
  | fclass (f : VR)
  /-- Select va or vb per lane by a mask. (R134) -/
  | fsel (f : VR)
  /-- Fused va × vb + vc. (R129) -/
  | fma (f : VF)
  /-- Fused va × vb − vc. (R129) -/
  | fms (f : VF)
  /-- Fused −(va × vb) + vc. (R129) -/
  | fnma (f : VF)
  /-- Lane-wise integer add. (R135) -/
  | iadd (f : VR)
  /-- Lane-wise integer subtract. (R135) -/
  | isub (f : VR)
  /-- Lane-wise low product. (R135) -/
  | imul (f : VR)
  /-- Lane-wise signed high product. (R135) -/
  | imulh (f : VR)
  /-- Lane-wise signed minimum. (R135) -/
  | imin (f : VR)
  /-- Lane-wise signed maximum. (R135) -/
  | imax (f : VR)
  /-- Lane-wise and. (R135) -/
  | iand (f : VR)
  /-- Lane-wise or. (R135) -/
  | ior (f : VR)
  /-- Lane-wise exclusive or. (R135) -/
  | ixor (f : VR)
  /-- Lane-wise left shift. (R135) -/
  | ishl (f : VR)
  /-- Lane-wise logical right shift. (R135) -/
  | ishr (f : VR)
  /-- Lane-wise arithmetic right shift. (R135) -/
  | isar (f : VR)
  /-- Mask bit := lanes equal. (R137) -/
  | icmpEq (f : VR)
  /-- Mask bit := lanes differ. (R137) -/
  | icmpNe (f : VR)
  /-- Mask bit := signed less. (R137) -/
  | icmpLt (f : VR)
  /-- Mask bit := signed greater or equal. (R137) -/
  | icmpGe (f : VR)
  /-- Mask bit := unsigned less. (R137) -/
  | icmpLtu (f : VR)
  /-- Mask bit := unsigned greater or equal. (R137) -/
  | icmpGeu (f : VR)
  /-- Lane-wise add of a sign-extended immediate. (R136) -/
  | iaddi (f : VI)
  /-- Lane-wise and with an immediate. (R136) -/
  | iandi (f : VI)
  /-- Lane-wise or with an immediate. (R136) -/
  | iori (f : VI)
  /-- Lane-wise xor with an immediate. (R136) -/
  | ixori (f : VI)
  /-- Lane-wise left shift by an immediate. (R136) -/
  | ishli (f : VI)
  /-- Lane-wise logical right shift by an immediate. (R136) -/
  | ishri (f : VI)
  /-- Lane-wise arithmetic right shift by an immediate. (R136) -/
  | isari (f : VI)
  /-- Selected lanes := imm16 << 16. (R138) -/
  | vli (f : VU)
  /-- Selected lane i := i. (R138) -/
  | viota (f : VR)
  /-- Permute lanes of va by the indices in vb. (R138) -/
  | vperm (f : VR)
  /-- Rotate lanes towards lower indices by n. (R138) -/
  | vrot (f : VI)
  /-- Broadcast lane n to the selected lanes. (R138) -/
  | vbcastl (f : VI)
  /-- Pairwise-tree sum of the selected lanes into every lane. (R154) -/
  | vrsum (f : VR)
  /-- Tree maximum of the selected lanes. (R154) -/
  | vrmax (f : VR)
  /-- Tree minimum of the selected lanes. (R154) -/
  | vrmin (f : VR)
  /-- Tree sums over lane groups of 2^(sub+3). (R154) -/
  | vrsumg (f : VR)
  /-- Mean and variance of each lane group. (R155) -/
  | vstat (f : VR)
  /-- Narrow FP32 lanes to packed BF16. (R113) -/
  | cvtBf16F32 (f : VR)
  /-- Widen packed BF16 to FP32. (R113) -/
  | cvtF32Bf16 (f : VR)
  /-- Narrow FP32 lanes to packed E4M3. (R113) -/
  | cvtE4m3F32 (f : VR)
  /-- Widen packed E4M3 to FP32. (R113) -/
  | cvtF32E4m3 (f : VR)
  /-- Narrow FP32 lanes to packed E5M2. (R113) -/
  | cvtE5m2F32 (f : VR)
  /-- Widen packed E5M2 to FP32. (R113) -/
  | cvtF32E5m2 (f : VR)
  /-- Convert FP32 lanes to INT32. (R113) -/
  | cvtI32F32 (f : VR)
  /-- Convert INT32 lanes to FP32. (R113) -/
  | cvtF32I32 (f : VR)
  /-- Convert 256 FP32 lanes to MXFP8 register layout. (R117) -/
  | cvtmx8 (f : VR)
  /-- Convert 256 FP32 lanes to MXFP4 register layout. (R117) -/
  | cvtmx4 (f : VR)
  /-- Expand an MX register into FP32 lanes. (R118) -/
  | unmx (f : VR)
  /-- Decode CB4 indices through a codebook to FP32. (R120) -/
  | cb4dec (f : VR)
  /-- Encode FP32 lanes as codebook indices. (R121) -/
  | cb4enc (f : VR)
  /-- Correctly rounded e^x per lane at t+12. (R148) -/
  | exp (f : VR)
  /-- Correctly rounded natural logarithm per lane. (R148) -/
  | log (f : VR)
  /-- Correctly rounded reciprocal per lane. (R148) -/
  | rcp (f : VR)
  /-- Correctly rounded reciprocal square root per lane. (R148) -/
  | rsq (f : VR)
  /-- Load a TIE table from a register image. (R152) -/
  | tiel (f : VR)
  /-- Evaluate a TIE table on each selected lane. (R153) -/
  | tiev (f : VR)
  /-- Draw 256 counter-based random words and advance the counter by 256. (R158) -/
  | vrng (f : VR)
  /-- Set the slot's random key from lanes 0–1. (R159) -/
  | vrngk (f : VR)
  /-- Set the slot's random counter from lanes 0–3. (R159) -/
  | vrngc (f : VR)
  /-- Add lanes 0–3 to the slot's random counter. (R159) -/
  | vskip (f : VR)
  /-- Mask := and of two masks. (R139) -/
  | mand (f : VR)
  /-- Mask := or of two masks. (R139) -/
  | mor (f : VR)
  /-- Mask := not of a mask. (R139) -/
  | mnot (f : VR)
  /-- Every lane := population count of a mask. (R139) -/
  | mpop (f : VR)
  /-- Copy a whole 256-lane register between d, a and b files. (R140) -/
  | cpy (f : XC)
  /-- Copy one lane of a vector register to a scalar register. (R140) -/
  | cpyl (f : XC)
  /-- Broadcast a scalar register to every lane. (R140) -/
  | cbc (f : XC)
  /-- Copy 256 mask bits between l, ma and mb files. (R140) -/
  | cpm (f : XC)
  /-- Remove a queue's head row into a register quarter or half. (R143) -/
  | qpop (f : XC)
  /-- Copy a queue's head row into a register without removing it. (R143) -/
  | qpeek (f : XC)
  /-- Append a register quarter as a row to a q queue. (R144) -/
  | qpush (f : XC)
  /-- Form a pointer from a pair of scalar registers. (R140) -/
  | cpyp (f : XC)
  /-- Write a queue row into a shadow-plane row and set its latch. (R168) -/
  | slatch (f : MXF)
  /-- Exchange the active and shadow planes. (R169) -/
  | sswap (f : MXF)
  /-- Stream a row through the score array and emit 64 scores. (R171) -/
  | spush (f : MXF)
  /-- A keyless beat within an open chain block. (R172) -/
  | sshift (f : MXF)
  /-- Rank-r outer-product update of the value array. (R173) -/
  | vopa (f : MXF)
  /-- Clear the accumulators and DP. (R174) -/
  | vzero (f : MXF)
  /-- Drain accumulator row DP to an o queue. (R174) -/
  | vdrain (f : MXF)
  /-- Paired beat: one score row and one value-array rank update. (R176) -/
  | svpair (f : MXF)
  /-- Load a codebook from a queue row. (R175) -/
  | cbld (f : MXF)
  /-- Latch the chain configuration and reset the chain. (R180) -/
  | chs (f : MXF)
  /-- One chain key beat: scores, mask and a later value read and update. (R181) -/
  | chb (f : MXF)
  /-- Normalise accumulator row DP into an o queue. (R186) -/
  | chn (f : MXF)
  /-- Save a row's chain state to an o queue. (R187) -/
  | chsv (f : MXF)
  /-- Load a row's chain state from a queue row. (R187) -/
  | chld (f : MXF)
  /-- Load a shape register from 16 bytes of scratchpad. (R280) -/
  | shp (f : TEF)
  /-- Write the engine tag register ETAG at t+1. (R281) -/
  | tagset (f : TEF)
  /-- Copy shaped elements from a far space into local scratchpad. (R286) -/
  | xfer (f : TEF)
  /-- Copy shaped rows from a far space into a q queue. (R287) -/
  | xferq (f : TEF)
  /-- Copy packed local elements out to a far space. (R288) -/
  | xstore (f : TEF)
  /-- Run a list of transfer commands from scratchpad. (R290) -/
  | tlist (f : TEF)
  /-- Add FP32 words into an accumulate window. (R292) -/
  | xred (f : TEF)
  /-- Read a window's accumulators out as FP32 or status, optionally clearing it. (R293) -/
  | xacc (f : TEF)
  /-- Multicast rows to a q queue of several cluster cores. (R294) -/
  | xmc (f : TEF)
  /-- Load the chain configuration record. (R295) -/
  | mkcfg (f : TEF)
  /-- Build the ancestry matrix from a parent-pointer table. (R297) -/
  | pptld (f : TEF)
  /-- Load part of the validity bitmap. (R296) -/
  | vbmld (f : TEF)
  /-- Issue a near-memory command held in a shape-register pair. (R305) -/
  | nmc (f : TEF)
  /-- Fault if an earlier near-memory command of this core is still outstanding. (R307) -/
  | nmfence (f : TEF)
  /-- Send rows over a torus port to the neighbour's member. (R386) -/
  | lsend (f : TEF)
  /-- Forward rows from a link queue over a torus port. (R387) -/
  | lfwd (f : TEF)
  /-- A running core issues the bundle that the issue rules name at each TTC value. (R7) -/
  | bundleIssue
  /-- The expansion of a segment into the free half of the loop buffer completes E cycles after it began. (R48) -/
  | segmentExpansion
  /-- A pending register, flag or mask write lands at the start of its cycle W. (R13) -/
  | registerWrite
  /-- At t+1 the effective address of an LD access is checked for space, alignment, translation and permission. (R84) -/
  | ldAddressCheck
  /-- A scratchpad access performs in its bank cycle, reading or writing its bytes. (R88) -/
  | bankAccess
  /-- An LDQ row is appended to its input queue at t+6, or raises a queue fault when the queue is full. (R92) -/
  | queueLoadAppend
  /-- A QPUSH row is appended to its q queue at t+2, or raises a queue fault when the queue is full. (R144) -/
  | queuePushAppend
  /-- A PGWR or STW to a pigeonhole performs on the live word, and same-cycle writes conflict. (R80) -/
  | pigeonholeWrite
  /-- At each memory slot the channel controller runs its timeline words and pairs arriving requests with the column word. (R264) -/
  | memorySlot
  /-- A device-memory write performs 100 cycles after its WR command. (R230) -/
  | deviceWritePerform
  /-- A unit of a non-temporal store is written in the earliest available open slot of its pseudo-channel. (R251) -/
  | stntUnitWrite
  /-- At t+2048 a DRAIN completes and raises a timeline fault for any covered unit not yet performed. (R250) -/
  | drainCompletion
  /-- A host or office unit is committed to a usable open slot that no STNT unit takes, and is served there. (R265) -/
  | openSlotService
  /-- A BARR arrival performs at the target core and adds 1 to the barrier's arrival count. (R207) -/
  | barrierArrival
  /-- A refused barrier arrival or spawn raises delivery fault 0x40 on the sender at its reply cycle. (R329) -/
  | deliveryFault
  /-- At t+16 a spawn writes the target's arguments and starts expanding its entry segment, or raises a fault. (R213) -/
  | spawnDelivery
  /-- A stage-ring instruction checks and changes its slot at t+4, raising a stage fault if its requirement fails. (R211) -/
  | stagePerform
  /-- When TTC reaches a TWAIT's target, the next bundle issues and any open solo region closes. (R204) -/
  | twaitEnd
  /-- At its start cycle S a transfer-engine command checks every element before any element moves. (R279) -/
  | teCommandStart
  /-- An engine element claims its issue cycle and makes its read, with a timing fault if two elements claim one cycle. (R284) -/
  | engineElementIssue
  /-- An inbound element's data is written to the bank, queue, bitmap or local words at its arrival cycle. (R282) -/
  | engineElementArrival
  /-- An outbound element's write performs at its far target. (R283) -/
  | engineFarWrite
  /-- A transfer list entry is read at S+i and acts as a command issued then. (R290) -/
  | tlistEntryRead
  /-- An XRED element's FP32 words are converted exactly and added into the window's integer accumulators. (R292) -/
  | windowAddition
  /-- An XMC row is delivered in one cycle to every destination queue, or to none if any destination fails. (R242) -/
  | multicastDelivery
  /-- MKCFG writes the 64-byte chain configuration record at S+2. (R295) -/
  | configWrite
  /-- At S+1088 a PPTLD replaces the whole ancestry matrix built from its parent-pointer table. (R297) -/
  | ancestryReplace
  /-- At S the near-memory unit checks the whole command and window before touching any block. (R306) -/
  | nmcStart
  /-- Block k's source blocks are read at S + 24 + 3k. (R309) -/
  | nmBlockRead
  /-- Block k's result is written to the destination at S + 40 + 3k, poisoned when a source failed. (R309) -/
  | nmBlockWrite
  /-- Twelve cycles after a poisoned block write, the issuing core takes near-memory data fault 0x31. (R311) -/
  | nmDataFault
  /-- A SLATCH writes its row and the latch into the shadow plane at t+2. (R168) -/
  | shadowRowWrite
  /-- An SSWAP exchanges the active and shadow planes with their latches at t+2. (R169) -/
  | planeExchange
  /-- An SPUSH or SVPAIR appends its 64 scores as an o row at t+192. (R171) -/
  | scoreRowAppend
  /-- A VOPA or SVPAIR rank update is added to every accumulator at t+4. (R173) -/
  | accumulatorUpdate
  /-- A VZERO sets every accumulator to +0 and DP to 0 at t+1. (R174) -/
  | accumulatorClear
  /-- A VDRAIN appends accumulator row DP as an o row at t+6. (R174) -/
  | drainRowAppend
  /-- A CBLD writes 16 BF16 entries into its codebook at t+2. (R175) -/
  | codebookWrite
  /-- At t+1 after CHS every row state, accumulator and chain counter is reset. (R180) -/
  | chainReset
  /-- At t+248 a key beat takes its value row from queue B, with tag and empty-queue checks. (R181) -/
  | chainValueRead
  /-- At t+252 a key's probability column rescales and updates the row states and accumulators. (R185) -/
  | chainUpdate
  /-- A CHN appends the normalised row DP and its empty-row status at t+8. (R186) -/
  | normalisedRowAppend
  /-- A CHSV appends a row's state as an o row at t+4. (R187) -/
  | rowStateSaveAppend
  /-- A CHLD writes words 0–4 of its row into a row state at t+2. (R187) -/
  | rowStateLoad
  /-- An LSEND element reads its row at S+e and opens its flit window at the departure port. (R386) -/
  | linkSendElement
  /-- An LFWD element removes or peeks its link-queue row at S+e and sends it at S+e+4. (R387) -/
  | linkForwardElement
  /-- A flit takes the first free slot of its group in its window, or raises link data fault 0x32. (R384) -/
  | flitSlotPlacement
  /-- A flit lands in the facing link queue or completes its remote access at its landing cycle. (R388) -/
  | flitLanding
  /-- Wander beyond 16 cycles overruns a port's elastic buffer and raises slip subcode 3 in every group on the port. (R390) -/
  | elasticOverrun
  /-- Each other member of a link group recesses 190 cycles per hop after a member's fault. (R391) -/
  | groupRecess
  /-- At every GTC multiple of 4032 the bell marks a new period. (R2) -/
  | bell
  /-- A partition in which no core issued TCHK or END for 4096 periods is recessed and fails. (R350) -/
  | hangDetected
  /-- A launch that has stood at a queue head for 64 periods moves to the next more urgent level. (R218) -/
  | queuePromotion
  /-- At the start bell the partition starter releases every core at TTC 0 in its launch condition. (R24) -/
  | partitionStart
  /-- Once the whole image has been read, the registrar checks it and queues or refuses the launch. (R215) -/
  | submissionCheck
  /-- When all cores have ended and all operations performed, the registrar posts the completion word. (R221) -/
  | launchRetirement
  /-- At GTC(E) + 3072 the roll call completes, and unacknowledged engines fail the launch. (R342) -/
  | rollCallComplete
  /-- A failed launch has its report card written, then its completion word with OUT = 2 posted. (R351) -/
  | launchFailure
  /-- Contexts move to shadow storage in 840 cycles when the cores are given to another launch. (R344) -/
  | contextMove
  /-- Scratchpads, duplicates and undo logs move to or return from the parking area in 15 053 cycles. (R344) -/
  | storePark
  /-- A stack's temperature crosses a band threshold, changing its refresh and duty behaviour. (R268) -/
  | stackBandChange
  /-- A die's hottest site crosses 95 °C or 110 °C, imposing duty or shutdown. (R405) -/
  | dieBandChange
  /-- Input below 46 V for 100 µs is logged and shuts the package down. (R404) -/
  | undervoltage
  /-- A bank or unit that reaches 16 corrections or a second uncorrectable error in 60 s is marked lasting. (R267) -/
  | errorLasting
  /-- The prefect parks, march-tests and restores a bank of an unowned channel group. (R270) -/
  | selfTest
  /-- A prefect-ordered core reset takes a core from any state to idle. (R23) -/
  | coreReset
  /-- The prefect gates or ungates a core that belongs to no admitted launch. (R23) -/
  | coreGating
  /-- Office core 3 verifies a staged firmware image and accepts or refuses it. (R355) -/
  | imageStage
  /-- A management order to replace moves a service from STAGED to QUIESCE. (R358) -/
  | handoverOrder
  /-- The old image completes its handover record and the core restarts in the new image. (R356) -/
  | handoverRecordComplete
  /-- A record not complete within 30 ms abandons the handover. (R358) -/
  | quiesceTimeout
  /-- A write to HBEAT is a heartbeat that advances the handover state. (R360) -/
  | heartbeat
  /-- A missed heartbeat deadline makes the monitor fall back to the old image or fail the service. (R360) -/
  | heartbeatDeadline
  /-- The new image asks to abandon its probation, which causes a fallback. (R358) -/
  | abandonRequest
  /-- A state change during probation is appended to the journal; a full journal fails the probation. (R357) -/
  | journalAppend
  /-- Two seconds after the first heartbeat the handover commits and the measurement log is extended. (R358) -/
  | probationCommit
  /-- A tenant's nonce returns a signed quote of the measurement log and partition configuration. (R363) -/
  | quoteRequest
  /-- A write with GO = 1 submits a launch from the host's image, or refuses bad fields. (R397) -/
  | submissionGo
  /-- The host reports how far it has read the event ring; a write ahead of EVHEAD is discarded. (R395) -/
  | evtailWrite
  /-- A host write to words 0–63 of a pigeonhole page sets the live in-pigeonhole. (R399) -/
  | pigeonholePageWrite
  /-- A host BAR2 read is decrypted through its host map and served in open slots. (R400) -/
  | deviceWindowRead
  /-- A host BAR2 write is encrypted and served in open slots, with partial and poisoned units treated specially. (R400) -/
  | deviceWindowWrite
  /-- A write to a control-window register that has no row of its own. (R396) -/
  | hostRegisterWrite
  /-- The registrars of a link group agree over office messages and choose a common start bell. (R401) -/
  | groupAgreement
  /-- At power-on the office verifies its images and records, trains memory and links, and sets READY. (R402) -/
  | bringUp
  /-- A management command creates a tenant. (R403) -/
  | createTenant
  /-- A management command assigns host functions to a tenant. (R403) -/
  | assignFunction
  /-- A management command sets a function's host-map entries. (R400) -/
  | setHostMap
  /-- A management command fills a tenant's key slot. (R239) -/
  | provisionKeySlot
  /-- The prefect assigns a tenant its set of channel groups through the management port. (R409) -/
  | assignChannelGroups
  /-- A management command returns telemetry. (R403) -/
  | readTelemetry
  /-- A management command returns the flash log. (R403) -/
  | readFlashLog
  /-- A management-port command sets the link IDE keys of the host port. (R393) -/
  | setIdeKeys
deriving DecidableEq, Repr

end Sys2Proof
end

