-- ==== Sys2Proof/WellFormed.lean ====
section
/-! DEFINITION. Which instructions are well formed: every field within its format, every unused field zero, every
number within its range (02 R28, R29, and the maps R31 to R42). -/
namespace Sys2Proof

def SR.ok (f : SR) : Bool :=
  decide (f.sd < 32) && decide (f.sa < 32) && decide (f.sb < 32) && decide (f.g < 8) && decide (f.fn < 32)
def SI.ok (f : SI) : Bool := decide (f.sd < 32) && decide (f.sa < 32) && decide (f.imm < 16384)
def SU.ok (f : SU) : Bool := decide (f.sd < 32) && decide (f.imm < 524288)
def SB.ok (f : SB) : Bool := decide (f.g < 8) && decide (f.off < 1048576)
def SL.ok (f : SL) : Bool := decide (f.level < 4) && decide (f.len < 256) && decide (f.cnt < 16384)
def SY.ok (f : SY) : Bool := decide (f.sd < 32) && decide (f.sa < 32) && decide (f.sel < 16384)
def LM.ok (f : LM) : Bool :=
  decide (f.tg < 16) && decide (f.ptr < 16) && decide (f.off < 4096) && decide (f.g < 8)
def LP.ok (f : LP) : Bool := decide (f.pd < 16) && decide (f.pa < 16) && decide (f.imm < 65536)
def LX.ok (f : LX) : Bool :=
  decide (f.tg < 16) && decide (f.ptr < 16) && decide (f.idx < 16) && decide (f.lm < 4) && decide (f.rsv < 64) &&
    decide (f.g < 8)
def LA.ok (f : LA) : Bool :=
  decide (f.tg < 16) && decide (f.ptr < 16) && decide (f.opd < 16) && decide (f.off < 256) && decide (f.g < 8)
def LG.ok (f : LG) : Bool :=
  decide (f.tg < 16) && decide (f.ag < 4) && decide (f.size < 4) && decide (f.imm < 4096) && decide (f.g < 8)
def VR.ok (f : VR) : Bool :=
  decide (f.vd < 32) && decide (f.va < 32) && decide (f.vb < 32) && decide (f.mask < 8) && decide (f.rnd < 8) &&
    decide (f.sub < 8)
def VF.ok (f : VF) : Bool :=
  decide (f.vd < 32) && decide (f.va < 32) && decide (f.vb < 32) && decide (f.vc < 32) && decide (f.mask < 4) &&
    decide (f.rnd < 4)
def VI.ok (f : VI) : Bool := decide (f.vd < 32) && decide (f.va < 32) && decide (f.imm < 2048) && decide (f.mask < 8)
def VU.ok (f : VU) : Bool := decide (f.vd < 32) && decide (f.imm < 65536) && decide (f.mask < 8)
def XC.ok (f : XC) : Bool :=
  decide (f.dfile < 8) && decide (f.dreg < 32) && decide (f.sfile < 8) && decide (f.sreg < 32) && decide (f.aux < 256)
def MXF.ok (f : MXF) : Bool :=
  decide (f.qa < 16) && decide (f.qb < 16) && decide (f.fmt < 8) && decide (f.flags < 2048)
def TEF.ok (f : TEF) : Bool := decide (f.h < 16) && decide (f.lead < 1048576)

/-- A file code and number naming a vector register of the d, a or b file (R37). -/
def XC.vecFile (file reg : Nat) : Bool :=
  (file == 2 && decide (reg < 16)) || ((file == 3 || file == 4) && decide (reg < 24))
def XC.dVec (f : XC) : Bool := XC.vecFile f.dfile f.dreg
def XC.sVec (f : XC) : Bool := XC.vecFile f.sfile f.sreg
/-- A queue named as a source: q0-q3, o0-o1 or lq0-lq5 (R37). -/
def XC.sQueue (f : XC) : Bool :=
  (f.sfile == 5 && decide (f.sreg < 4)) || (f.sfile == 6 && decide (f.sreg < 2)) || (f.sfile == 7 && decide (f.sreg < 6))
/-- The files of CPM: l, ma, mb (R37). -/
def XC.maskFile (file reg : Nat) : Bool :=
  (file == 2 && decide (reg < 4)) || ((file == 3 || file == 4) && decide (reg < 8))

/-- The queue codes of R39 that name a queue. -/
def MXF.queue (q : Nat) : Bool := decide (q < 10)
def MXF.idx (f : MXF) : Nat := f.flags % 256
def MXF.oq (f : MXF) : Bool := f.flags / 256 % 2 == 1
def MXF.cb (f : MXF) : Nat := f.flags / 512
/-- SVPAIR's third queue, its peek bit and its value format (R176). -/
def MXF.qc (f : MXF) : Nat := f.flags / 16 % 16
def MXF.pc (f : MXF) : Bool := f.flags / 8 % 2 == 1
def MXF.vfmt (f : MXF) : Nat := f.flags % 8
/-- The codebook field is reserved unless a format is CB4 (R39). -/
def MXF.cbField (f : MXF) (used : Bool) : Bool := used || f.cb == 0

/-- The selects that an RDSR may name (R17, R112, R146, R156, R196, R327). -/
def Special.readable (n : Nat) : Bool :=
  n == 0x0000 || n == 0x0001 || (decide (0x0004 ≤ n) && decide (n ≤ 0x0008)) || n == 0x0010 ||
  (decide (0x0014 ≤ n) && decide (n ≤ 0x0016)) || (decide (0x0100 ≤ n) && decide (n ≤ 0x0106)) ||
  (decide (0x0108 ≤ n) && decide (n ≤ 0x010D)) || (decide (0x0110 ≤ n) && decide (n ≤ 0x0115)) ||
  (decide (0x0200 ≤ n) && decide (n ≤ 0x0202)) || (decide (0x0300 ≤ n) && decide (n ≤ 0x0303))
/-- The selects that a WRSR may name: the registers whose access is not RO. -/
def Special.writable (n : Nat) : Bool := (decide (0x0100 ≤ n) && decide (n ≤ 0x0105)) || n == 0x0201

/-- A slot instruction is well formed when its fields fit its format and none of the checks of R28 fails; the other
steps of the table have no encoding and no check. -/
def Instr.wf : Instr → Bool
  | .nop => true
  | .add f => f.ok && f.fn == 0
  | .sub f => f.ok && f.fn == 0
  | .and f => f.ok && f.fn == 0
  | .or f => f.ok && f.fn == 0
  | .xor f => f.ok && f.fn == 0
  | .shl f => f.ok && f.fn == 0
  | .shr f => f.ok && f.fn == 0
  | .sar f => f.ok && f.fn == 0
  | .min f => f.ok && f.fn == 0
  | .max f => f.ok && f.fn == 0
  | .minu f => f.ok && f.fn == 0
  | .maxu f => f.ok && f.fn == 0
  | .clz f => f.ok && f.fn == 0 && f.sb == 0
  | .popc f => f.ok && f.fn == 0 && f.sb == 0
  | .sel f => f.ok && f.fn == 0
  | .mul f => f.ok && f.fn == 0
  | .mulh f => f.ok && f.fn == 0
  | .mulhu f => f.ok && f.fn == 0
  | .div f => f.ok && f.fn == 0
  | .divu f => f.ok && f.fn == 0
  | .rem f => f.ok && f.fn == 0
  | .remu f => f.ok && f.fn == 0
  | .addi f => f.ok
  | .andi f => f.ok
  | .ori f => f.ok
  | .xori f => f.ok
  | .shli f => f.ok && decide (f.imm < 32)
  | .shri f => f.ok && decide (f.imm < 32)
  | .sari f => f.ok && decide (f.imm < 32)
  | .lui f => f.ok
  | .cmpiEq f => f.ok && decide (f.sd < 8)
  | .cmpiNe f => f.ok && decide (f.sd < 8)
  | .cmpiLt f => f.ok && decide (f.sd < 8)
  | .cmpiGe f => f.ok && decide (f.sd < 8)
  | .cmpiLtu f => f.ok && decide (f.sd < 8)
  | .cmpiGeu f => f.ok && decide (f.sd < 8)
  | .cmpEq f => f.ok && decide (f.sd < 8) && f.fn == 0
  | .cmpNe f => f.ok && decide (f.sd < 8) && f.fn == 1
  | .cmpLt f => f.ok && decide (f.sd < 8) && f.fn == 2
  | .cmpGe f => f.ok && decide (f.sd < 8) && f.fn == 3
  | .cmpLtu f => f.ok && decide (f.sd < 8) && f.fn == 4
  | .cmpGeu f => f.ok && decide (f.sd < 8) && f.fn == 5
  | .gand f => f.ok && decide (f.sd < 8) && decide (f.sa < 8) && decide (f.sb < 8) && decide (f.fn < 4)
  | .gor f => f.ok && decide (f.sd < 8) && decide (f.sa < 8) && decide (f.sb < 8) && decide (f.fn < 4)
  | .gxor f => f.ok && decide (f.sd < 8) && decide (f.sa < 8) && decide (f.sb < 8) && decide (f.fn < 4)
  | .gtos f => f.ok && f.sa == 0 && f.sb == 0 && f.fn == 0
  | .stog f => f.ok && f.sd == 0 && f.sb == 0 && f.fn == 0
  | .br f => f.ok
  | .call f => f.ok
  | .ret f => f.ok && f.off == 0
  | .segj f => f.ok
  | .loop f => f.ok && decide (f.level < 3) && f.cnt % 512 == 0
  | .loopi f => f.ok && decide (f.level < 3)
  | .rdsr f => f.ok && f.sa == 0 && Special.readable f.sel
  | .wrsr f => f.ok && f.sd == 0 && Special.writable f.sel
  | .pgrd f => f.ok && f.sa == 0 && decide (f.sel < 128)
  | .pgwr f => f.ok && f.sd == 0 && decide (64 ≤ f.sel) && decide (f.sel ≤ 125)
  | .trap f => f.ok && f.sd == 0 && f.sa == 0
  | .endI f => f.ok && f.sd == 0 && f.sa == 0 && f.sel == 0
  | .trd f => f.ok && f.sa == 0 && decide (f.sel < 2)
  | .twait f => f.ok && f.sd == 0 && f.fn == 0
  | .tchk f => f.ok && f.sd == 0 && f.fn == 0
  | .solo f => f.ok && f.sd == 0 && f.sel == 0
  | .binit f => f.ok && f.sd == 0 && decide (f.sel < 48)
  | .barr f => f.ok && f.sd == 0 && decide (f.sel < 48)
  | .bchk f => f.ok && f.sd == 0 && f.sa == 0 && decide (f.sel < 48)
  | .spawn f => f.ok && decide (f.sel ≤ 8) && decide (f.sd + f.sel ≤ 32) && (f.sel != 0 || f.sd == 0)
  | .acqsW f => f.ok && f.sd == 0 && f.sa == 0 && decide (f.sel < 16)
  | .acqsR f => f.ok && f.sd == 0 && f.sa == 0 && decide (f.sel < 16)
  | .relsW f => f.ok && f.sd == 0 && f.sa == 0 && decide (f.sel < 16)
  | .relsR f => f.ok && f.sd == 0 && f.sa == 0 && decide (f.sel < 16)
  | .ckpt f => f.ok && f.sd == 0 && f.sa == 0 && f.sel == 0
  | .fsyn f => f.ok && f.sa == 0 && decide (f.sel < 16)
  | .plil f => f.ok && decide (f.pa < 4)
  | .plih f => f.ok && f.pa == 0
  | .padd f => f.ok && f.imm % 4096 == 0
  | .paddi f => f.ok
  | .pmov f => f.ok && f.imm == 0
  | .ldw f => f.ok
  | .ldr f => f.ok
  | .ldh f => f.ok
  | .ldv f => f.ok
  | .stw f => f.ok
  | .str f => f.ok
  | .sth f => f.ok
  | .stv f => f.ok
  | .ldq f => f.ok && decide (f.tg < 4)
  | .ldt f => f.ok
  | .stnt f => f.ok
  | .drain f => f.ok && f.tg == 0 && f.ptr == 0 && f.off == 0
  | .ldg f => f.ok && f.rsv == 0
  | .stg f => f.ok && f.rsv == 0
  | .stg16 f => f.ok && f.rsv == 0
  | .amoAdd f => f.ok
  | .amoMin f => f.ok
  | .amoMax f => f.ok
  | .amoSwap f => f.ok
  | .amoCas f => f.ok
  | .agset f => f.ok && f.size == 0 && f.imm == 0
  | .agadv f => f.ok && f.tg == 0 && f.size == 0
  | .lda f => f.ok && f.imm == 0
  | .sta f => f.ok && f.imm == 0
  | .fadd f => f.ok && decide (f.vd < 24) && decide (f.va < 24) && decide (f.vb < 24) && decide (f.rnd < 4) && f.sub == 0
  | .fsub f => f.ok && decide (f.vd < 24) && decide (f.va < 24) && decide (f.vb < 24) && decide (f.rnd < 4) && f.sub == 0
  | .fmul f => f.ok && decide (f.vd < 24) && decide (f.va < 24) && decide (f.vb < 24) && decide (f.rnd < 4) && f.sub == 0
  | .fmin f => f.ok && decide (f.vd < 24) && decide (f.va < 24) && decide (f.vb < 24) && decide (f.rnd < 4) && f.sub == 0
  | .fmax f => f.ok && decide (f.vd < 24) && decide (f.va < 24) && decide (f.vb < 24) && decide (f.rnd < 4) && f.sub == 0
  | .fabs f => f.ok && decide (f.vd < 24) && decide (f.va < 24) && f.vb == 0 && f.rnd == 0 && f.sub == 0
  | .fneg f => f.ok && decide (f.vd < 24) && decide (f.va < 24) && f.vb == 0 && f.rnd == 0 && f.sub == 0
  | .fcps f => f.ok && decide (f.vd < 24) && decide (f.va < 24) && decide (f.vb < 24) && f.rnd == 0 && f.sub == 0
  | .fcmpEq f => f.ok && decide (f.vd < 8) && decide (f.va < 24) && decide (f.vb < 24) && f.rnd == 0 && f.sub == 0
  | .fcmpNe f => f.ok && decide (f.vd < 8) && decide (f.va < 24) && decide (f.vb < 24) && f.rnd == 0 && f.sub == 1
  | .fcmpLt f => f.ok && decide (f.vd < 8) && decide (f.va < 24) && decide (f.vb < 24) && f.rnd == 0 && f.sub == 2
  | .fcmpLe f => f.ok && decide (f.vd < 8) && decide (f.va < 24) && decide (f.vb < 24) && f.rnd == 0 && f.sub == 3
  | .fcmpUn f => f.ok && decide (f.vd < 8) && decide (f.va < 24) && decide (f.vb < 24) && f.rnd == 0 && f.sub == 4
  | .fclass f => f.ok && decide (f.vd < 24) && decide (f.va < 24) && f.vb == 0 && f.rnd == 0 && f.sub == 0
  | .fsel f => f.ok && decide (f.vd < 24) && decide (f.va < 24) && decide (f.vb < 24) && f.rnd == 0 && f.sub == 0
  | .fma f => f.ok && decide (f.vd < 24) && decide (f.va < 24) && decide (f.vb < 24) && decide (f.vc < 24)
  | .fms f => f.ok && decide (f.vd < 24) && decide (f.va < 24) && decide (f.vb < 24) && decide (f.vc < 24)
  | .fnma f => f.ok && decide (f.vd < 24) && decide (f.va < 24) && decide (f.vb < 24) && decide (f.vc < 24)
  | .iadd f => f.ok && decide (f.vd < 24) && decide (f.va < 24) && decide (f.vb < 24) && f.rnd == 0 && f.sub == 0
  | .isub f => f.ok && decide (f.vd < 24) && decide (f.va < 24) && decide (f.vb < 24) && f.rnd == 0 && f.sub == 0
  | .imul f => f.ok && decide (f.vd < 24) && decide (f.va < 24) && decide (f.vb < 24) && f.rnd == 0 && f.sub == 0
  | .imulh f => f.ok && decide (f.vd < 24) && decide (f.va < 24) && decide (f.vb < 24) && f.rnd == 0 && f.sub == 0
  | .imin f => f.ok && decide (f.vd < 24) && decide (f.va < 24) && decide (f.vb < 24) && f.rnd == 0 && f.sub == 0
  | .imax f => f.ok && decide (f.vd < 24) && decide (f.va < 24) && decide (f.vb < 24) && f.rnd == 0 && f.sub == 0
  | .iand f => f.ok && decide (f.vd < 24) && decide (f.va < 24) && decide (f.vb < 24) && f.rnd == 0 && f.sub == 0
  | .ior f => f.ok && decide (f.vd < 24) && decide (f.va < 24) && decide (f.vb < 24) && f.rnd == 0 && f.sub == 0
  | .ixor f => f.ok && decide (f.vd < 24) && decide (f.va < 24) && decide (f.vb < 24) && f.rnd == 0 && f.sub == 0
  | .ishl f => f.ok && decide (f.vd < 24) && decide (f.va < 24) && decide (f.vb < 24) && f.rnd == 0 && f.sub == 0
  | .ishr f => f.ok && decide (f.vd < 24) && decide (f.va < 24) && decide (f.vb < 24) && f.rnd == 0 && f.sub == 0
  | .isar f => f.ok && decide (f.vd < 24) && decide (f.va < 24) && decide (f.vb < 24) && f.rnd == 0 && f.sub == 0
  | .icmpEq f => f.ok && decide (f.vd < 8) && decide (f.va < 24) && decide (f.vb < 24) && f.rnd == 0 && f.sub == 0
  | .icmpNe f => f.ok && decide (f.vd < 8) && decide (f.va < 24) && decide (f.vb < 24) && f.rnd == 0 && f.sub == 1
  | .icmpLt f => f.ok && decide (f.vd < 8) && decide (f.va < 24) && decide (f.vb < 24) && f.rnd == 0 && f.sub == 2
  | .icmpGe f => f.ok && decide (f.vd < 8) && decide (f.va < 24) && decide (f.vb < 24) && f.rnd == 0 && f.sub == 3
  | .icmpLtu f => f.ok && decide (f.vd < 8) && decide (f.va < 24) && decide (f.vb < 24) && f.rnd == 0 && f.sub == 4
  | .icmpGeu f => f.ok && decide (f.vd < 8) && decide (f.va < 24) && decide (f.vb < 24) && f.rnd == 0 && f.sub == 5
  | .iaddi f => f.ok && decide (f.vd < 24) && decide (f.va < 24)
  | .iandi f => f.ok && decide (f.vd < 24) && decide (f.va < 24)
  | .iori f => f.ok && decide (f.vd < 24) && decide (f.va < 24)
  | .ixori f => f.ok && decide (f.vd < 24) && decide (f.va < 24)
  | .ishli f => f.ok && decide (f.vd < 24) && decide (f.va < 24) && decide (f.imm < 32)
  | .ishri f => f.ok && decide (f.vd < 24) && decide (f.va < 24) && decide (f.imm < 32)
  | .isari f => f.ok && decide (f.vd < 24) && decide (f.va < 24) && decide (f.imm < 32)
  | .vli f => f.ok && decide (f.vd < 24)
  | .viota f => f.ok && decide (f.vd < 24) && f.va == 0 && f.vb == 0 && f.rnd == 0 && f.sub == 0
  | .vperm f => f.ok && decide (f.vd < 24) && decide (f.va < 24) && decide (f.vb < 24) && f.rnd == 0 && f.sub == 0
  | .vrot f => f.ok && decide (f.vd < 24) && decide (f.va < 24) && decide (f.imm < 256)
  | .vbcastl f => f.ok && decide (f.vd < 24) && decide (f.va < 24) && decide (f.imm < 256)
  | .vrsum f => f.ok && decide (f.vd < 24) && decide (f.va < 24) && f.vb == 0 && f.rnd == 0 && f.sub == 0
  | .vrmax f => f.ok && decide (f.vd < 24) && decide (f.va < 24) && f.vb == 0 && f.rnd == 0 && f.sub == 0
  | .vrmin f => f.ok && decide (f.vd < 24) && decide (f.va < 24) && f.vb == 0 && f.rnd == 0 && f.sub == 0
  | .vrsumg f => f.ok && decide (f.vd < 24) && decide (f.va < 24) && f.vb == 0 && f.rnd == 0 && decide (f.sub < 6)
  | .vstat f => f.ok && decide (f.vd < 24) && decide (f.va < 24) && f.vb == 0 && f.rnd == 0 && decide (f.sub < 4)
  | .cvtBf16F32 f => f.ok && decide (f.vd < 24) && decide (f.va < 24) && f.vb == 0 && decide (f.rnd < 5) && f.sub == 0
  | .cvtF32Bf16 f => f.ok && decide (f.vd < 24) && decide (f.va < 24) && f.vb == 0 && f.rnd == 0 && f.sub == 1
  | .cvtE4m3F32 f => f.ok && decide (f.vd < 24) && decide (f.va < 24) && f.vb == 0 && decide (f.rnd < 5) && f.sub == 2
  | .cvtF32E4m3 f => f.ok && decide (f.vd < 24) && decide (f.va < 24) && f.vb == 0 && f.rnd == 0 && f.sub == 3
  | .cvtE5m2F32 f => f.ok && decide (f.vd < 24) && decide (f.va < 24) && f.vb == 0 && decide (f.rnd < 5) && f.sub == 4
  | .cvtF32E5m2 f => f.ok && decide (f.vd < 24) && decide (f.va < 24) && f.vb == 0 && f.rnd == 0 && f.sub == 5
  | .cvtI32F32 f => f.ok && decide (f.vd < 24) && decide (f.va < 24) && f.vb == 0 && decide (f.rnd < 5) && f.sub == 6
  | .cvtF32I32 f => f.ok && decide (f.vd < 24) && decide (f.va < 24) && f.vb == 0 && f.rnd == 0 && f.sub == 7
  | .cvtmx8 f => f.ok && decide (f.vd < 24) && decide (f.va < 24) && f.vb == 0 && decide (f.rnd < 5) && f.sub == 0
  | .cvtmx4 f => f.ok && decide (f.vd < 24) && decide (f.va < 24) && f.vb == 0 && decide (f.rnd < 5) && f.sub == 0
  | .unmx f => f.ok && decide (f.vd < 24) && decide (f.va < 24) && f.vb == 0 && f.rnd == 0 && f.sub == 0
  | .cb4dec f => f.ok && decide (f.vd < 24) && decide (f.va < 24) && f.vb == 0 && f.rnd == 0 && decide (f.sub < 4)
  | .cb4enc f => f.ok && decide (f.vd < 24) && decide (f.va < 24) && f.vb == 0 && decide (f.rnd < 5) && decide (f.sub < 4)
  | .exp f => f.ok && decide (f.vd < 24) && decide (f.va < 24) && f.vb == 0 && f.rnd == 0 && f.sub == 0
  | .log f => f.ok && decide (f.vd < 24) && decide (f.va < 24) && f.vb == 0 && f.rnd == 0 && f.sub == 0
  | .rcp f => f.ok && decide (f.vd < 24) && decide (f.va < 24) && f.vb == 0 && f.rnd == 0 && f.sub == 0
  | .rsq f => f.ok && decide (f.vd < 24) && decide (f.va < 24) && f.vb == 0 && f.rnd == 0 && f.sub == 0
  | .tiel f => f.ok && f.vd == 0 && decide (f.va < 24) && f.vb == 0 && f.rnd == 0 && decide (f.sub < 4)
  | .tiev f => f.ok && decide (f.vd < 24) && decide (f.va < 24) && f.vb == 0 && f.rnd == 0 && decide (f.sub < 4)
  | .vrng f => f.ok && decide (f.vd < 24) && f.va == 0 && f.vb == 0 && f.rnd == 0 && f.sub == 0
  | .vrngk f => f.ok && f.vd == 0 && decide (f.va < 24) && f.vb == 0 && f.rnd == 0 && f.sub == 0
  | .vrngc f => f.ok && f.vd == 0 && decide (f.va < 24) && f.vb == 0 && f.rnd == 0 && f.sub == 0
  | .vskip f => f.ok && f.vd == 0 && decide (f.va < 24) && f.vb == 0 && f.rnd == 0 && f.sub == 0
  | .mand f => f.ok && decide (f.vd < 8) && decide (f.va < 8) && decide (f.vb < 8) && f.mask == 0 && f.rnd == 0 && f.sub == 0
  | .mor f => f.ok && decide (f.vd < 8) && decide (f.va < 8) && decide (f.vb < 8) && f.mask == 0 && f.rnd == 0 && f.sub == 0
  | .mnot f => f.ok && decide (f.vd < 8) && decide (f.va < 8) && f.vb == 0 && f.mask == 0 && f.rnd == 0 && f.sub == 0
  | .mpop f => f.ok && decide (f.vd < 24) && decide (f.va < 8) && f.vb == 0 && f.mask == 0 && f.rnd == 0 && f.sub == 0
  | .cpy f => f.ok && f.dVec && f.sVec && f.aux == 0
  | .cpyl f => f.ok && f.dfile == 0 && f.sVec
  | .cbc f => f.ok && f.dVec && f.sfile == 0 && f.aux == 0
  | .cpm f => f.ok && XC.maskFile f.dfile f.dreg && XC.maskFile f.sfile f.sreg && f.aux == 0
  | .qpop f => f.ok && f.dVec && f.sQueue && decide (f.aux < (if f.sfile == 6 then 2 else 4))
  | .qpeek f => f.ok && f.dVec && f.sQueue && decide (f.aux < (if f.sfile == 6 then 2 else 4))
  | .qpush f => f.ok && f.dfile == 5 && decide (f.dreg < 4) && f.sVec && decide (f.aux < 4)
  | .cpyp f => f.ok && f.dfile == 1 && decide (f.dreg < 16) && f.sfile == 0 && f.sreg % 2 == 0 && f.aux == 0
  | .slatch f => f.ok && MXF.queue f.qa && (f.qb == 15 && !f.pb) && decide (f.fmt < 6) && f.cbField (f.fmt == 5) && !f.oq && decide (f.idx < 64)
  | .sswap f => f.ok && (f.qa == 15 && !f.pa) && (f.qb == 15 && !f.pb) && f.fmt == 0 && f.flags == 0
  | .spush f => f.ok && MXF.queue f.qa && (f.qb == 15 && !f.pb) && decide (f.fmt < 6) && f.cbField (f.fmt == 5) && f.idx == 0
  | .sshift f => f.ok && (f.qa == 15 && !f.pa) && (f.qb == 15 && !f.pb) && f.fmt == 0 && f.flags == 0
  | .vopa f => f.ok && MXF.queue f.qa && MXF.queue f.qb && decide (f.fmt < 6) && f.cbField (f.fmt == 5) && !f.oq && f.idx == 0 && f.fmt != 3 && f.fmt != 4
  | .vzero f => f.ok && (f.qa == 15 && !f.pa) && (f.qb == 15 && !f.pb) && f.fmt == 0 && f.flags == 0
  | .vdrain f => f.ok && (f.qa == 15 && !f.pa) && (f.qb == 15 && !f.pb) && f.fmt == 0 && f.cb == 0 && f.idx == 0
  | .svpair f => f.ok && MXF.queue f.qa && MXF.queue f.qb && decide (f.fmt < 6) && f.cbField (f.fmt == 5 || f.vfmt == 5) && decide (f.qc < 10) && (f.vfmt == 0 || f.vfmt == 1 || f.vfmt == 2 || f.vfmt == 5)
  | .cbld f => f.ok && MXF.queue f.qa && (f.qb == 15 && !f.pb) && f.fmt == 0 && !f.oq && f.idx == 0
  | .chs f => f.ok && (f.qa == 15 && !f.pa) && (f.qb == 15 && !f.pb) && f.fmt == 0 && f.flags == 0
  | .chb f => f.ok && MXF.queue f.qa && MXF.queue f.qb && decide (f.fmt < 6) && f.cbField (f.fmt == 5) && !f.oq && f.idx == 0
  | .chn f => f.ok && (f.qa == 15 && !f.pa) && (f.qb == 15 && !f.pb) && f.fmt == 0 && f.cb == 0 && f.idx == 0
  | .chsv f => f.ok && (f.qa == 15 && !f.pa) && (f.qb == 15 && !f.pb) && f.fmt == 0 && f.cb == 0 && decide (f.idx < 64)
  | .chld f => f.ok && MXF.queue f.qa && (f.qb == 15 && !f.pb) && f.fmt == 0 && f.cb == 0 && !f.oq && decide (f.idx < 64)
  | .shp f => f.ok && decide (f.lead < 65536)
  | .tagset f => f.ok && f.h == 0 && decide (f.lead < 65536)
  | .xfer f => f.ok && decide (4 ≤ f.lead)
  | .xferq f => f.ok && decide (4 ≤ f.lead)
  | .xstore f => f.ok && decide (4 ≤ f.lead)
  | .tlist f => f.ok && decide (4 ≤ f.lead)
  | .xred f => f.ok && decide (4 ≤ f.lead)
  | .xacc f => f.ok && decide (4 ≤ f.lead)
  | .xmc f => f.ok && decide (4 ≤ f.lead)
  | .mkcfg f => f.ok && decide (4 ≤ f.lead)
  | .pptld f => f.ok && decide (4 ≤ f.lead)
  | .vbmld f => f.ok && decide (4 ≤ f.lead)
  | .nmc f => f.ok && decide (4 ≤ f.lead) && f.h % 2 == 0
  | .nmfence f => f.ok && f.h == 0 && f.lead == 0
  | .lsend f => f.ok && decide (4 ≤ f.lead)
  | .lfwd f => f.ok && decide (4 ≤ f.lead)
  | .bundleIssue => true
  | .segmentExpansion => true
  | .registerWrite => true
  | .ldAddressCheck => true
  | .bankAccess => true
  | .queueLoadAppend => true
  | .queuePushAppend => true
  | .pigeonholeWrite => true
  | .memorySlot => true
  | .deviceWritePerform => true
  | .stntUnitWrite => true
  | .drainCompletion => true
  | .openSlotService => true
  | .barrierArrival => true
  | .deliveryFault => true
  | .spawnDelivery => true
  | .stagePerform => true
  | .twaitEnd => true
  | .teCommandStart => true
  | .engineElementIssue => true
  | .engineElementArrival => true
  | .engineFarWrite => true
  | .tlistEntryRead => true
  | .windowAddition => true
  | .multicastDelivery => true
  | .configWrite => true
  | .ancestryReplace => true
  | .nmcStart => true
  | .nmBlockRead => true
  | .nmBlockWrite => true
  | .nmDataFault => true
  | .shadowRowWrite => true
  | .planeExchange => true
  | .scoreRowAppend => true
  | .accumulatorUpdate => true
  | .accumulatorClear => true
  | .drainRowAppend => true
  | .codebookWrite => true
  | .chainReset => true
  | .chainValueRead => true
  | .chainUpdate => true
  | .normalisedRowAppend => true
  | .rowStateSaveAppend => true
  | .rowStateLoad => true
  | .linkSendElement => true
  | .linkForwardElement => true
  | .flitSlotPlacement => true
  | .flitLanding => true
  | .elasticOverrun => true
  | .groupRecess => true
  | .bell => true
  | .hangDetected => true
  | .queuePromotion => true
  | .partitionStart => true
  | .submissionCheck => true
  | .launchRetirement => true
  | .rollCallComplete => true
  | .launchFailure => true
  | .contextMove => true
  | .storePark => true
  | .stackBandChange => true
  | .dieBandChange => true
  | .undervoltage => true
  | .errorLasting => true
  | .selfTest => true
  | .coreReset => true
  | .coreGating => true
  | .imageStage => true
  | .handoverOrder => true
  | .handoverRecordComplete => true
  | .quiesceTimeout => true
  | .heartbeat => true
  | .heartbeatDeadline => true
  | .abandonRequest => true
  | .journalAppend => true
  | .probationCommit => true
  | .quoteRequest => true
  | .submissionGo => true
  | .evtailWrite => true
  | .pigeonholePageWrite => true
  | .deviceWindowRead => true
  | .deviceWindowWrite => true
  | .hostRegisterWrite => true
  | .groupAgreement => true
  | .bringUp => true
  | .createTenant => true
  | .assignFunction => true
  | .setHostMap => true
  | .provisionKeySlot => true
  | .assignChannelGroups => true
  | .readTelemetry => true
  | .readFlashLog => true
  | .setIdeKeys => true

end Sys2Proof
end

