-- ==== Sys2Proof/Decode.lean ====
section
/-! DEFINITION. Decoding slot words, bundles, segments and headers, and the encoder (02 R27 to R46). -/
namespace Sys2Proof

/-! ### Fields of a slot word, read from its number (bit 0 least significant) -/

def bit (w i : Nat) : Bool := w / 2 ^ i % 2 == 1

def SR.ofWord (w : Nat) : SR :=
  { sd := w / 2 ^ 19 % 32, sa := w / 2 ^ 14 % 32, sb := w / 2 ^ 9 % 32, g := w / 2 ^ 6 % 8, neg := bit w 5, fn := w % 32 }
def SI.ofWord (w : Nat) : SI := { sd := w / 2 ^ 19 % 32, sa := w / 2 ^ 14 % 32, imm := w % 16384 }
def SU.ofWord (w : Nat) : SU := { sd := w / 2 ^ 19 % 32, imm := w % 524288 }
def SB.ofWord (w : Nat) : SB := { g := w / 2 ^ 21 % 8, neg := bit w 20, off := w % 1048576 }
def SL.ofWord (w : Nat) : SL := { level := w / 2 ^ 22 % 4, len := w / 2 ^ 14 % 256, cnt := w % 16384 }
def SY.ofWord (w : Nat) : SY := { sd := w / 2 ^ 19 % 32, sa := w / 2 ^ 14 % 32, sel := w % 16384 }
def LM.ofWord (w : Nat) : LM :=
  { tg := w / 2 ^ 20 % 16, ptr := w / 2 ^ 16 % 16, off := w / 16 % 4096, g := w / 2 % 8, neg := bit w 0 }
def LP.ofWord (w : Nat) : LP := { pd := w / 2 ^ 20 % 16, pa := w / 2 ^ 16 % 16, imm := w % 65536 }
def LX.ofWord (w : Nat) : LX :=
  { tg := w / 2 ^ 20 % 16, ptr := w / 2 ^ 16 % 16, idx := w / 2 ^ 12 % 16, lm := w / 2 ^ 10 % 4, rsv := w / 16 % 64,
    g := w / 2 % 8, neg := bit w 0 }
def LA.ofWord (w : Nat) : LA :=
  { tg := w / 2 ^ 20 % 16, ptr := w / 2 ^ 16 % 16, opd := w / 2 ^ 12 % 16, off := w / 16 % 256, g := w / 2 % 8,
    neg := bit w 0 }
def LG.ofWord (w : Nat) : LG :=
  { tg := w / 2 ^ 20 % 16, ag := w / 2 ^ 18 % 4, size := w / 2 ^ 16 % 4, imm := w / 16 % 4096, g := w / 2 % 8,
    neg := bit w 0 }
def VR.ofWord (w : Nat) : VR :=
  { vd := w / 2 ^ 19 % 32, va := w / 2 ^ 14 % 32, vb := w / 2 ^ 9 % 32, mask := w / 2 ^ 6 % 8, rnd := w / 8 % 8,
    sub := w % 8 }
def VF.ofWord (w : Nat) : VF :=
  { vd := w / 2 ^ 19 % 32, va := w / 2 ^ 14 % 32, vb := w / 2 ^ 9 % 32, vc := w / 16 % 32, mask := w / 4 % 4,
    rnd := w % 4 }
def VI.ofWord (w : Nat) : VI := { vd := w / 2 ^ 19 % 32, va := w / 2 ^ 14 % 32, imm := w / 8 % 2048, mask := w % 8 }
def VU.ofWord (w : Nat) : VU := { vd := w / 2 ^ 19 % 32, imm := w / 8 % 65536, mask := w % 8 }
def XC.ofWord (w : Nat) : XC :=
  { dfile := w / 2 ^ 21 % 8, dreg := w / 2 ^ 16 % 32, sfile := w / 2 ^ 13 % 8, sreg := w / 2 ^ 8 % 32, aux := w % 256 }
def MXF.ofWord (w : Nat) : MXF :=
  { qa := w / 2 ^ 20 % 16, pa := bit w 19, qb := w / 2 ^ 15 % 16, pb := bit w 14, fmt := w / 2 ^ 11 % 8,
    flags := w % 2048 }
def TEF.ofWord (w : Nat) : TEF := { h := w / 2 ^ 20 % 16, lead := w % 1048576 }

/-! ### The opcode maps -/

/-- The opcode map of the S slot (R31). -/
def rowsS (w : Nat) : Option Instr :=
  match w / 2 ^ 24 with
  | 0x01 => some (.add (SR.ofWord w))
  | 0x02 => some (.sub (SR.ofWord w))
  | 0x03 => some (.and (SR.ofWord w))
  | 0x04 => some (.or (SR.ofWord w))
  | 0x05 => some (.xor (SR.ofWord w))
  | 0x06 => some (.shl (SR.ofWord w))
  | 0x07 => some (.shr (SR.ofWord w))
  | 0x08 => some (.sar (SR.ofWord w))
  | 0x09 => some (.min (SR.ofWord w))
  | 0x0A => some (.max (SR.ofWord w))
  | 0x0B => some (.minu (SR.ofWord w))
  | 0x0C => some (.maxu (SR.ofWord w))
  | 0x0D => some (.clz (SR.ofWord w))
  | 0x0E => some (.popc (SR.ofWord w))
  | 0x0F => some (.sel (SR.ofWord w))
  | 0x10 => some (.mul (SR.ofWord w))
  | 0x11 => some (.mulh (SR.ofWord w))
  | 0x12 => some (.mulhu (SR.ofWord w))
  | 0x13 => some (.div (SR.ofWord w))
  | 0x14 => some (.divu (SR.ofWord w))
  | 0x15 => some (.rem (SR.ofWord w))
  | 0x16 => some (.remu (SR.ofWord w))
  | 0x20 => some (.addi (SI.ofWord w))
  | 0x21 => some (.andi (SI.ofWord w))
  | 0x22 => some (.ori (SI.ofWord w))
  | 0x23 => some (.xori (SI.ofWord w))
  | 0x24 => some (.shli (SI.ofWord w))
  | 0x25 => some (.shri (SI.ofWord w))
  | 0x26 => some (.sari (SI.ofWord w))
  | 0x27 => some (.lui (SU.ofWord w))
  | 0x28 => some (.cmpiEq (SI.ofWord w))
  | 0x29 => some (.cmpiNe (SI.ofWord w))
  | 0x2A => some (.cmpiLt (SI.ofWord w))
  | 0x2B => some (.cmpiGe (SI.ofWord w))
  | 0x2C => some (.cmpiLtu (SI.ofWord w))
  | 0x2D => some (.cmpiGeu (SI.ofWord w))
  | 0x2E => match w % 32 with
    | 0 => some (.cmpEq (SR.ofWord w))
    | 1 => some (.cmpNe (SR.ofWord w))
    | 2 => some (.cmpLt (SR.ofWord w))
    | 3 => some (.cmpGe (SR.ofWord w))
    | 4 => some (.cmpLtu (SR.ofWord w))
    | 5 => some (.cmpGeu (SR.ofWord w))
    | _ => none
  | 0x2F => some (.gand (SR.ofWord w))
  | 0x30 => some (.gor (SR.ofWord w))
  | 0x31 => some (.gxor (SR.ofWord w))
  | 0x32 => some (.gtos (SR.ofWord w))
  | 0x33 => some (.stog (SR.ofWord w))
  | 0x40 => some (.br (SB.ofWord w))
  | 0x41 => some (.call (SB.ofWord w))
  | 0x42 => some (.ret (SB.ofWord w))
  | 0x43 => some (.segj (SB.ofWord w))
  | 0x44 => some (.loop (SL.ofWord w))
  | 0x45 => some (.loopi (SL.ofWord w))
  | 0x50 => some (.rdsr (SY.ofWord w))
  | 0x51 => some (.wrsr (SY.ofWord w))
  | 0x52 => some (.pgrd (SY.ofWord w))
  | 0x53 => some (.pgwr (SY.ofWord w))
  | 0x54 => some (.trap (SY.ofWord w))
  | 0x55 => some (.endI (SY.ofWord w))
  | 0x60 => some (.trd (SY.ofWord w))
  | 0x61 => some (.twait (SR.ofWord w))
  | 0x62 => some (.tchk (SR.ofWord w))
  | 0x63 => some (.solo (SY.ofWord w))
  | 0x64 => some (.binit (SY.ofWord w))
  | 0x65 => some (.barr (SY.ofWord w))
  | 0x66 => some (.bchk (SY.ofWord w))
  | 0x67 => some (.spawn (SY.ofWord w))
  | 0x68 => some (.acqsW (SY.ofWord w))
  | 0x69 => some (.acqsR (SY.ofWord w))
  | 0x6A => some (.relsW (SY.ofWord w))
  | 0x6B => some (.relsR (SY.ofWord w))
  | 0x6C => some (.ckpt (SY.ofWord w))
  | 0x6D => some (.fsyn (SY.ofWord w))
  | _ => none

/-- The opcode map of the LD slot (R33). -/
def rowsLD (w : Nat) : Option Instr :=
  match w / 2 ^ 24 with
  | 0x01 => some (.plil (LP.ofWord w))
  | 0x02 => some (.plih (LP.ofWord w))
  | 0x03 => some (.padd (LP.ofWord w))
  | 0x04 => some (.paddi (LP.ofWord w))
  | 0x05 => some (.pmov (LP.ofWord w))
  | 0x10 => some (.ldw (LM.ofWord w))
  | 0x11 => some (.ldr (LM.ofWord w))
  | 0x12 => some (.ldh (LM.ofWord w))
  | 0x13 => some (.ldv (LM.ofWord w))
  | 0x14 => some (.stw (LM.ofWord w))
  | 0x15 => some (.str (LM.ofWord w))
  | 0x16 => some (.sth (LM.ofWord w))
  | 0x17 => some (.stv (LM.ofWord w))
  | 0x18 => some (.ldq (LM.ofWord w))
  | 0x19 => some (.ldt (LA.ofWord w))
  | 0x1A => some (.stnt (LM.ofWord w))
  | 0x1B => some (.drain (LM.ofWord w))
  | 0x20 => some (.ldg (LX.ofWord w))
  | 0x21 => some (.stg (LX.ofWord w))
  | 0x22 => some (.stg16 (LX.ofWord w))
  | 0x28 => some (.amoAdd (LA.ofWord w))
  | 0x29 => some (.amoMin (LA.ofWord w))
  | 0x2A => some (.amoMax (LA.ofWord w))
  | 0x2B => some (.amoSwap (LA.ofWord w))
  | 0x2C => some (.amoCas (LA.ofWord w))
  | 0x30 => some (.agset (LG.ofWord w))
  | 0x31 => some (.agadv (LG.ofWord w))
  | 0x32 => some (.lda (LG.ofWord w))
  | 0x33 => some (.sta (LG.ofWord w))
  | _ => none

/-- The opcode map of the V slot (R36). -/
def rowsV (w : Nat) : Option Instr :=
  match w / 2 ^ 24 with
  | 0x01 => some (.fadd (VR.ofWord w))
  | 0x02 => some (.fsub (VR.ofWord w))
  | 0x03 => some (.fmul (VR.ofWord w))
  | 0x04 => some (.fmin (VR.ofWord w))
  | 0x05 => some (.fmax (VR.ofWord w))
  | 0x06 => some (.fabs (VR.ofWord w))
  | 0x07 => some (.fneg (VR.ofWord w))
  | 0x08 => some (.fcps (VR.ofWord w))
  | 0x09 => match w % 8 with
    | 0 => some (.fcmpEq (VR.ofWord w))
    | 1 => some (.fcmpNe (VR.ofWord w))
    | 2 => some (.fcmpLt (VR.ofWord w))
    | 3 => some (.fcmpLe (VR.ofWord w))
    | 4 => some (.fcmpUn (VR.ofWord w))
    | _ => none
  | 0x0A => some (.fclass (VR.ofWord w))
  | 0x0B => some (.fsel (VR.ofWord w))
  | 0x0C => some (.fma (VF.ofWord w))
  | 0x0D => some (.fms (VF.ofWord w))
  | 0x0E => some (.fnma (VF.ofWord w))
  | 0x10 => some (.iadd (VR.ofWord w))
  | 0x11 => some (.isub (VR.ofWord w))
  | 0x12 => some (.imul (VR.ofWord w))
  | 0x13 => some (.imulh (VR.ofWord w))
  | 0x14 => some (.imin (VR.ofWord w))
  | 0x15 => some (.imax (VR.ofWord w))
  | 0x16 => some (.iand (VR.ofWord w))
  | 0x17 => some (.ior (VR.ofWord w))
  | 0x18 => some (.ixor (VR.ofWord w))
  | 0x19 => some (.ishl (VR.ofWord w))
  | 0x1A => some (.ishr (VR.ofWord w))
  | 0x1B => some (.isar (VR.ofWord w))
  | 0x1C => match w % 8 with
    | 0 => some (.icmpEq (VR.ofWord w))
    | 1 => some (.icmpNe (VR.ofWord w))
    | 2 => some (.icmpLt (VR.ofWord w))
    | 3 => some (.icmpGe (VR.ofWord w))
    | 4 => some (.icmpLtu (VR.ofWord w))
    | 5 => some (.icmpGeu (VR.ofWord w))
    | _ => none
  | 0x20 => some (.iaddi (VI.ofWord w))
  | 0x21 => some (.iandi (VI.ofWord w))
  | 0x22 => some (.iori (VI.ofWord w))
  | 0x23 => some (.ixori (VI.ofWord w))
  | 0x24 => some (.ishli (VI.ofWord w))
  | 0x25 => some (.ishri (VI.ofWord w))
  | 0x26 => some (.isari (VI.ofWord w))
  | 0x28 => some (.vli (VU.ofWord w))
  | 0x29 => some (.viota (VR.ofWord w))
  | 0x2A => some (.vperm (VR.ofWord w))
  | 0x2B => some (.vrot (VI.ofWord w))
  | 0x2C => some (.vbcastl (VI.ofWord w))
  | 0x30 => some (.vrsum (VR.ofWord w))
  | 0x31 => some (.vrmax (VR.ofWord w))
  | 0x32 => some (.vrmin (VR.ofWord w))
  | 0x33 => some (.vrsumg (VR.ofWord w))
  | 0x34 => some (.vstat (VR.ofWord w))
  | 0x38 => match w % 8 with
    | 0 => some (.cvtBf16F32 (VR.ofWord w))
    | 1 => some (.cvtF32Bf16 (VR.ofWord w))
    | 2 => some (.cvtE4m3F32 (VR.ofWord w))
    | 3 => some (.cvtF32E4m3 (VR.ofWord w))
    | 4 => some (.cvtE5m2F32 (VR.ofWord w))
    | 5 => some (.cvtF32E5m2 (VR.ofWord w))
    | 6 => some (.cvtI32F32 (VR.ofWord w))
    | 7 => some (.cvtF32I32 (VR.ofWord w))
    | _ => none
  | 0x39 => some (.cvtmx8 (VR.ofWord w))
  | 0x3A => some (.cvtmx4 (VR.ofWord w))
  | 0x3B => some (.unmx (VR.ofWord w))
  | 0x3C => some (.cb4dec (VR.ofWord w))
  | 0x3D => some (.cb4enc (VR.ofWord w))
  | 0x40 => some (.exp (VR.ofWord w))
  | 0x41 => some (.log (VR.ofWord w))
  | 0x42 => some (.rcp (VR.ofWord w))
  | 0x43 => some (.rsq (VR.ofWord w))
  | 0x44 => some (.tiel (VR.ofWord w))
  | 0x45 => some (.tiev (VR.ofWord w))
  | 0x48 => some (.vrng (VR.ofWord w))
  | 0x49 => some (.vrngk (VR.ofWord w))
  | 0x4A => some (.vrngc (VR.ofWord w))
  | 0x4B => some (.vskip (VR.ofWord w))
  | 0x50 => some (.mand (VR.ofWord w))
  | 0x51 => some (.mor (VR.ofWord w))
  | 0x52 => some (.mnot (VR.ofWord w))
  | 0x53 => some (.mpop (VR.ofWord w))
  | _ => none

/-- The opcode map of the X slot (R38). -/
def rowsX (w : Nat) : Option Instr :=
  match w / 2 ^ 24 with
  | 0x01 => some (.cpy (XC.ofWord w))
  | 0x02 => some (.cpyl (XC.ofWord w))
  | 0x03 => some (.cbc (XC.ofWord w))
  | 0x04 => some (.cpm (XC.ofWord w))
  | 0x05 => some (.qpop (XC.ofWord w))
  | 0x06 => some (.qpeek (XC.ofWord w))
  | 0x07 => some (.qpush (XC.ofWord w))
  | 0x08 => some (.cpyp (XC.ofWord w))
  | _ => none

/-- The opcode map of the MX slot (R40). -/
def rowsMX (w : Nat) : Option Instr :=
  match w / 2 ^ 24 with
  | 0x01 => some (.slatch (MXF.ofWord w))
  | 0x02 => some (.sswap (MXF.ofWord w))
  | 0x03 => some (.spush (MXF.ofWord w))
  | 0x04 => some (.sshift (MXF.ofWord w))
  | 0x08 => some (.vopa (MXF.ofWord w))
  | 0x09 => some (.vzero (MXF.ofWord w))
  | 0x0A => some (.vdrain (MXF.ofWord w))
  | 0x0B => some (.svpair (MXF.ofWord w))
  | 0x0C => some (.cbld (MXF.ofWord w))
  | 0x10 => some (.chs (MXF.ofWord w))
  | 0x11 => some (.chb (MXF.ofWord w))
  | 0x12 => some (.chn (MXF.ofWord w))
  | 0x13 => some (.chsv (MXF.ofWord w))
  | 0x14 => some (.chld (MXF.ofWord w))
  | _ => none

/-- The opcode map of the TE slot (R42). -/
def rowsTE (w : Nat) : Option Instr :=
  match w / 2 ^ 24 with
  | 0x01 => some (.shp (TEF.ofWord w))
  | 0x02 => some (.tagset (TEF.ofWord w))
  | 0x08 => some (.xfer (TEF.ofWord w))
  | 0x09 => some (.xferq (TEF.ofWord w))
  | 0x0A => some (.xstore (TEF.ofWord w))
  | 0x0B => some (.tlist (TEF.ofWord w))
  | 0x10 => some (.xred (TEF.ofWord w))
  | 0x11 => some (.xacc (TEF.ofWord w))
  | 0x12 => some (.xmc (TEF.ofWord w))
  | 0x18 => some (.mkcfg (TEF.ofWord w))
  | 0x19 => some (.pptld (TEF.ofWord w))
  | 0x1A => some (.vbmld (TEF.ofWord w))
  | 0x20 => some (.nmc (TEF.ofWord w))
  | 0x21 => some (.nmfence (TEF.ofWord w))
  | 0x28 => some (.lsend (TEF.ofWord w))
  | 0x29 => some (.lfwd (TEF.ofWord w))
  | _ => none

/-- The six kinds of slot (R27): VA and VB share one map, and so do XA and XB. -/
inductive SlotKind where
  | s
  | ld
  | v
  | mx
  | x
  | te
deriving DecidableEq, Repr

/-- The kind of slot i of a bundle (R27). -/
def slotKindOf : Nat → SlotKind
  | 0 => .s
  | 1 => .ld
  | 2 => .v
  | 3 => .v
  | 4 => .mx
  | 5 => .x
  | 6 => .x
  | _ => .te

/-- Why a slot word is not an instruction (R28). -/
inductive DecodeError where
  | unassigned
  | illegalField
deriving DecidableEq, Repr

def rowsOf : SlotKind → Nat → Option Instr
  | .s => rowsS
  | .ld => rowsLD
  | .v => rowsV
  | .mx => rowsMX
  | .x => rowsX
  | .te => rowsTE

/-- Decoding a slot word: the all-zero word is the no-operation; any other word is looked up in its slot's map and
checked (R28). -/
def decodeSlot (k : SlotKind) (w : Nat) : Except DecodeError Instr :=
  if w = 0 then .ok .nop
  else match rowsOf k w with
    | none => .error .unassigned
    | some i => if i.wf then .ok i else .error .illegalField

/-! ### The encoder -/

def b2n (b : Bool) : Nat := if b then 1 else 0

def SR.toWord (f : SR) (op : Nat) : Nat :=
  op * 2 ^ 24 + f.sd * 2 ^ 19 + f.sa * 2 ^ 14 + f.sb * 2 ^ 9 + f.g * 64 + b2n f.neg * 32 + f.fn
def SI.toWord (f : SI) (op : Nat) : Nat := op * 2 ^ 24 + f.sd * 2 ^ 19 + f.sa * 2 ^ 14 + f.imm
def SU.toWord (f : SU) (op : Nat) : Nat := op * 2 ^ 24 + f.sd * 2 ^ 19 + f.imm
def SB.toWord (f : SB) (op : Nat) : Nat := op * 2 ^ 24 + f.g * 2 ^ 21 + b2n f.neg * 2 ^ 20 + f.off
def SL.toWord (f : SL) (op : Nat) : Nat := op * 2 ^ 24 + f.level * 2 ^ 22 + f.len * 2 ^ 14 + f.cnt
def SY.toWord (f : SY) (op : Nat) : Nat := op * 2 ^ 24 + f.sd * 2 ^ 19 + f.sa * 2 ^ 14 + f.sel
def LM.toWord (f : LM) (op : Nat) : Nat :=
  op * 2 ^ 24 + f.tg * 2 ^ 20 + f.ptr * 2 ^ 16 + f.off * 16 + f.g * 2 + b2n f.neg
def LP.toWord (f : LP) (op : Nat) : Nat := op * 2 ^ 24 + f.pd * 2 ^ 20 + f.pa * 2 ^ 16 + f.imm
def LX.toWord (f : LX) (op : Nat) : Nat :=
  op * 2 ^ 24 + f.tg * 2 ^ 20 + f.ptr * 2 ^ 16 + f.idx * 2 ^ 12 + f.lm * 2 ^ 10 + f.rsv * 16 + f.g * 2 + b2n f.neg
def LA.toWord (f : LA) (op : Nat) : Nat :=
  op * 2 ^ 24 + f.tg * 2 ^ 20 + f.ptr * 2 ^ 16 + f.opd * 2 ^ 12 + f.off * 16 + f.g * 2 + b2n f.neg
def LG.toWord (f : LG) (op : Nat) : Nat :=
  op * 2 ^ 24 + f.tg * 2 ^ 20 + f.ag * 2 ^ 18 + f.size * 2 ^ 16 + f.imm * 16 + f.g * 2 + b2n f.neg
def VR.toWord (f : VR) (op : Nat) : Nat :=
  op * 2 ^ 24 + f.vd * 2 ^ 19 + f.va * 2 ^ 14 + f.vb * 2 ^ 9 + f.mask * 64 + f.rnd * 8 + f.sub
def VF.toWord (f : VF) (op : Nat) : Nat :=
  op * 2 ^ 24 + f.vd * 2 ^ 19 + f.va * 2 ^ 14 + f.vb * 2 ^ 9 + f.vc * 16 + f.mask * 4 + f.rnd
def VI.toWord (f : VI) (op : Nat) : Nat := op * 2 ^ 24 + f.vd * 2 ^ 19 + f.va * 2 ^ 14 + f.imm * 8 + f.mask
def VU.toWord (f : VU) (op : Nat) : Nat := op * 2 ^ 24 + f.vd * 2 ^ 19 + f.imm * 8 + f.mask
def XC.toWord (f : XC) (op : Nat) : Nat :=
  op * 2 ^ 24 + f.dfile * 2 ^ 21 + f.dreg * 2 ^ 16 + f.sfile * 2 ^ 13 + f.sreg * 2 ^ 8 + f.aux
def MXF.toWord (f : MXF) (op : Nat) : Nat :=
  op * 2 ^ 24 + f.qa * 2 ^ 20 + b2n f.pa * 2 ^ 19 + f.qb * 2 ^ 15 + b2n f.pb * 2 ^ 14 + f.fmt * 2 ^ 11 + f.flags
def TEF.toWord (f : TEF) (op : Nat) : Nat := op * 2 ^ 24 + f.h * 2 ^ 20 + f.lead

/-- The slot word of a slot instruction, from the encodings of R30 to R42; `none` for a step that has no encoding. -/
def encode : Instr → Option Nat
  | .nop => some 0
  | .add f => some (f.toWord 0x01)
  | .sub f => some (f.toWord 0x02)
  | .and f => some (f.toWord 0x03)
  | .or f => some (f.toWord 0x04)
  | .xor f => some (f.toWord 0x05)
  | .shl f => some (f.toWord 0x06)
  | .shr f => some (f.toWord 0x07)
  | .sar f => some (f.toWord 0x08)
  | .min f => some (f.toWord 0x09)
  | .max f => some (f.toWord 0x0A)
  | .minu f => some (f.toWord 0x0B)
  | .maxu f => some (f.toWord 0x0C)
  | .clz f => some (f.toWord 0x0D)
  | .popc f => some (f.toWord 0x0E)
  | .sel f => some (f.toWord 0x0F)
  | .mul f => some (f.toWord 0x10)
  | .mulh f => some (f.toWord 0x11)
  | .mulhu f => some (f.toWord 0x12)
  | .div f => some (f.toWord 0x13)
  | .divu f => some (f.toWord 0x14)
  | .rem f => some (f.toWord 0x15)
  | .remu f => some (f.toWord 0x16)
  | .addi f => some (f.toWord 0x20)
  | .andi f => some (f.toWord 0x21)
  | .ori f => some (f.toWord 0x22)
  | .xori f => some (f.toWord 0x23)
  | .shli f => some (f.toWord 0x24)
  | .shri f => some (f.toWord 0x25)
  | .sari f => some (f.toWord 0x26)
  | .lui f => some (f.toWord 0x27)
  | .cmpiEq f => some (f.toWord 0x28)
  | .cmpiNe f => some (f.toWord 0x29)
  | .cmpiLt f => some (f.toWord 0x2A)
  | .cmpiGe f => some (f.toWord 0x2B)
  | .cmpiLtu f => some (f.toWord 0x2C)
  | .cmpiGeu f => some (f.toWord 0x2D)
  | .cmpEq f => some (f.toWord 0x2E)
  | .cmpNe f => some (f.toWord 0x2E)
  | .cmpLt f => some (f.toWord 0x2E)
  | .cmpGe f => some (f.toWord 0x2E)
  | .cmpLtu f => some (f.toWord 0x2E)
  | .cmpGeu f => some (f.toWord 0x2E)
  | .gand f => some (f.toWord 0x2F)
  | .gor f => some (f.toWord 0x30)
  | .gxor f => some (f.toWord 0x31)
  | .gtos f => some (f.toWord 0x32)
  | .stog f => some (f.toWord 0x33)
  | .br f => some (f.toWord 0x40)
  | .call f => some (f.toWord 0x41)
  | .ret f => some (f.toWord 0x42)
  | .segj f => some (f.toWord 0x43)
  | .loop f => some (f.toWord 0x44)
  | .loopi f => some (f.toWord 0x45)
  | .rdsr f => some (f.toWord 0x50)
  | .wrsr f => some (f.toWord 0x51)
  | .pgrd f => some (f.toWord 0x52)
  | .pgwr f => some (f.toWord 0x53)
  | .trap f => some (f.toWord 0x54)
  | .endI f => some (f.toWord 0x55)
  | .trd f => some (f.toWord 0x60)
  | .twait f => some (f.toWord 0x61)
  | .tchk f => some (f.toWord 0x62)
  | .solo f => some (f.toWord 0x63)
  | .binit f => some (f.toWord 0x64)
  | .barr f => some (f.toWord 0x65)
  | .bchk f => some (f.toWord 0x66)
  | .spawn f => some (f.toWord 0x67)
  | .acqsW f => some (f.toWord 0x68)
  | .acqsR f => some (f.toWord 0x69)
  | .relsW f => some (f.toWord 0x6A)
  | .relsR f => some (f.toWord 0x6B)
  | .ckpt f => some (f.toWord 0x6C)
  | .fsyn f => some (f.toWord 0x6D)
  | .plil f => some (f.toWord 0x01)
  | .plih f => some (f.toWord 0x02)
  | .padd f => some (f.toWord 0x03)
  | .paddi f => some (f.toWord 0x04)
  | .pmov f => some (f.toWord 0x05)
  | .ldw f => some (f.toWord 0x10)
  | .ldr f => some (f.toWord 0x11)
  | .ldh f => some (f.toWord 0x12)
  | .ldv f => some (f.toWord 0x13)
  | .stw f => some (f.toWord 0x14)
  | .str f => some (f.toWord 0x15)
  | .sth f => some (f.toWord 0x16)
  | .stv f => some (f.toWord 0x17)
  | .ldq f => some (f.toWord 0x18)
  | .ldt f => some (f.toWord 0x19)
  | .stnt f => some (f.toWord 0x1A)
  | .drain f => some (f.toWord 0x1B)
  | .ldg f => some (f.toWord 0x20)
  | .stg f => some (f.toWord 0x21)
  | .stg16 f => some (f.toWord 0x22)
  | .amoAdd f => some (f.toWord 0x28)
  | .amoMin f => some (f.toWord 0x29)
  | .amoMax f => some (f.toWord 0x2A)
  | .amoSwap f => some (f.toWord 0x2B)
  | .amoCas f => some (f.toWord 0x2C)
  | .agset f => some (f.toWord 0x30)
  | .agadv f => some (f.toWord 0x31)
  | .lda f => some (f.toWord 0x32)
  | .sta f => some (f.toWord 0x33)
  | .fadd f => some (f.toWord 0x01)
  | .fsub f => some (f.toWord 0x02)
  | .fmul f => some (f.toWord 0x03)
  | .fmin f => some (f.toWord 0x04)
  | .fmax f => some (f.toWord 0x05)
  | .fabs f => some (f.toWord 0x06)
  | .fneg f => some (f.toWord 0x07)
  | .fcps f => some (f.toWord 0x08)
  | .fcmpEq f => some (f.toWord 0x09)
  | .fcmpNe f => some (f.toWord 0x09)
  | .fcmpLt f => some (f.toWord 0x09)
  | .fcmpLe f => some (f.toWord 0x09)
  | .fcmpUn f => some (f.toWord 0x09)
  | .fclass f => some (f.toWord 0x0A)
  | .fsel f => some (f.toWord 0x0B)
  | .fma f => some (f.toWord 0x0C)
  | .fms f => some (f.toWord 0x0D)
  | .fnma f => some (f.toWord 0x0E)
  | .iadd f => some (f.toWord 0x10)
  | .isub f => some (f.toWord 0x11)
  | .imul f => some (f.toWord 0x12)
  | .imulh f => some (f.toWord 0x13)
  | .imin f => some (f.toWord 0x14)
  | .imax f => some (f.toWord 0x15)
  | .iand f => some (f.toWord 0x16)
  | .ior f => some (f.toWord 0x17)
  | .ixor f => some (f.toWord 0x18)
  | .ishl f => some (f.toWord 0x19)
  | .ishr f => some (f.toWord 0x1A)
  | .isar f => some (f.toWord 0x1B)
  | .icmpEq f => some (f.toWord 0x1C)
  | .icmpNe f => some (f.toWord 0x1C)
  | .icmpLt f => some (f.toWord 0x1C)
  | .icmpGe f => some (f.toWord 0x1C)
  | .icmpLtu f => some (f.toWord 0x1C)
  | .icmpGeu f => some (f.toWord 0x1C)
  | .iaddi f => some (f.toWord 0x20)
  | .iandi f => some (f.toWord 0x21)
  | .iori f => some (f.toWord 0x22)
  | .ixori f => some (f.toWord 0x23)
  | .ishli f => some (f.toWord 0x24)
  | .ishri f => some (f.toWord 0x25)
  | .isari f => some (f.toWord 0x26)
  | .vli f => some (f.toWord 0x28)
  | .viota f => some (f.toWord 0x29)
  | .vperm f => some (f.toWord 0x2A)
  | .vrot f => some (f.toWord 0x2B)
  | .vbcastl f => some (f.toWord 0x2C)
  | .vrsum f => some (f.toWord 0x30)
  | .vrmax f => some (f.toWord 0x31)
  | .vrmin f => some (f.toWord 0x32)
  | .vrsumg f => some (f.toWord 0x33)
  | .vstat f => some (f.toWord 0x34)
  | .cvtBf16F32 f => some (f.toWord 0x38)
  | .cvtF32Bf16 f => some (f.toWord 0x38)
  | .cvtE4m3F32 f => some (f.toWord 0x38)
  | .cvtF32E4m3 f => some (f.toWord 0x38)
  | .cvtE5m2F32 f => some (f.toWord 0x38)
  | .cvtF32E5m2 f => some (f.toWord 0x38)
  | .cvtI32F32 f => some (f.toWord 0x38)
  | .cvtF32I32 f => some (f.toWord 0x38)
  | .cvtmx8 f => some (f.toWord 0x39)
  | .cvtmx4 f => some (f.toWord 0x3A)
  | .unmx f => some (f.toWord 0x3B)
  | .cb4dec f => some (f.toWord 0x3C)
  | .cb4enc f => some (f.toWord 0x3D)
  | .exp f => some (f.toWord 0x40)
  | .log f => some (f.toWord 0x41)
  | .rcp f => some (f.toWord 0x42)
  | .rsq f => some (f.toWord 0x43)
  | .tiel f => some (f.toWord 0x44)
  | .tiev f => some (f.toWord 0x45)
  | .vrng f => some (f.toWord 0x48)
  | .vrngk f => some (f.toWord 0x49)
  | .vrngc f => some (f.toWord 0x4A)
  | .vskip f => some (f.toWord 0x4B)
  | .mand f => some (f.toWord 0x50)
  | .mor f => some (f.toWord 0x51)
  | .mnot f => some (f.toWord 0x52)
  | .mpop f => some (f.toWord 0x53)
  | .cpy f => some (f.toWord 0x01)
  | .cpyl f => some (f.toWord 0x02)
  | .cbc f => some (f.toWord 0x03)
  | .cpm f => some (f.toWord 0x04)
  | .qpop f => some (f.toWord 0x05)
  | .qpeek f => some (f.toWord 0x06)
  | .qpush f => some (f.toWord 0x07)
  | .cpyp f => some (f.toWord 0x08)
  | .slatch f => some (f.toWord 0x01)
  | .sswap f => some (f.toWord 0x02)
  | .spush f => some (f.toWord 0x03)
  | .sshift f => some (f.toWord 0x04)
  | .vopa f => some (f.toWord 0x08)
  | .vzero f => some (f.toWord 0x09)
  | .vdrain f => some (f.toWord 0x0A)
  | .svpair f => some (f.toWord 0x0B)
  | .cbld f => some (f.toWord 0x0C)
  | .chs f => some (f.toWord 0x10)
  | .chb f => some (f.toWord 0x11)
  | .chn f => some (f.toWord 0x12)
  | .chsv f => some (f.toWord 0x13)
  | .chld f => some (f.toWord 0x14)
  | .shp f => some (f.toWord 0x01)
  | .tagset f => some (f.toWord 0x02)
  | .xfer f => some (f.toWord 0x08)
  | .xferq f => some (f.toWord 0x09)
  | .xstore f => some (f.toWord 0x0A)
  | .tlist f => some (f.toWord 0x0B)
  | .xred f => some (f.toWord 0x10)
  | .xacc f => some (f.toWord 0x11)
  | .xmc f => some (f.toWord 0x12)
  | .mkcfg f => some (f.toWord 0x18)
  | .pptld f => some (f.toWord 0x19)
  | .vbmld f => some (f.toWord 0x1A)
  | .nmc f => some (f.toWord 0x20)
  | .nmfence f => some (f.toWord 0x21)
  | .lsend f => some (f.toWord 0x28)
  | .lfwd f => some (f.toWord 0x29)
  | .bundleIssue => none
  | .segmentExpansion => none
  | .registerWrite => none
  | .ldAddressCheck => none
  | .bankAccess => none
  | .queueLoadAppend => none
  | .queuePushAppend => none
  | .pigeonholeWrite => none
  | .memorySlot => none
  | .deviceWritePerform => none
  | .stntUnitWrite => none
  | .drainCompletion => none
  | .openSlotService => none
  | .barrierArrival => none
  | .deliveryFault => none
  | .spawnDelivery => none
  | .stagePerform => none
  | .twaitEnd => none
  | .teCommandStart => none
  | .engineElementIssue => none
  | .engineElementArrival => none
  | .engineFarWrite => none
  | .tlistEntryRead => none
  | .windowAddition => none
  | .multicastDelivery => none
  | .configWrite => none
  | .ancestryReplace => none
  | .nmcStart => none
  | .nmBlockRead => none
  | .nmBlockWrite => none
  | .nmDataFault => none
  | .shadowRowWrite => none
  | .planeExchange => none
  | .scoreRowAppend => none
  | .accumulatorUpdate => none
  | .accumulatorClear => none
  | .drainRowAppend => none
  | .codebookWrite => none
  | .chainReset => none
  | .chainValueRead => none
  | .chainUpdate => none
  | .normalisedRowAppend => none
  | .rowStateSaveAppend => none
  | .rowStateLoad => none
  | .linkSendElement => none
  | .linkForwardElement => none
  | .flitSlotPlacement => none
  | .flitLanding => none
  | .elasticOverrun => none
  | .groupRecess => none
  | .bell => none
  | .hangDetected => none
  | .queuePromotion => none
  | .partitionStart => none
  | .submissionCheck => none
  | .launchRetirement => none
  | .rollCallComplete => none
  | .launchFailure => none
  | .contextMove => none
  | .storePark => none
  | .stackBandChange => none
  | .dieBandChange => none
  | .undervoltage => none
  | .errorLasting => none
  | .selfTest => none
  | .coreReset => none
  | .coreGating => none
  | .imageStage => none
  | .handoverOrder => none
  | .handoverRecordComplete => none
  | .quiesceTimeout => none
  | .heartbeat => none
  | .heartbeatDeadline => none
  | .abandonRequest => none
  | .journalAppend => none
  | .probationCommit => none
  | .quoteRequest => none
  | .submissionGo => none
  | .evtailWrite => none
  | .pigeonholePageWrite => none
  | .deviceWindowRead => none
  | .deviceWindowWrite => none
  | .hostRegisterWrite => none
  | .groupAgreement => none
  | .bringUp => none
  | .createTenant => none
  | .assignFunction => none
  | .setHostMap => none
  | .provisionKeySlot => none
  | .assignChannelGroups => none
  | .readTelemetry => none
  | .readFlashLog => none
  | .setIdeKeys => none

/-- The kind of slot whose map holds an instruction; the no-operation stands in every map, and is listed under S. -/
def Instr.slotKind : Instr → SlotKind
  | .nop => .s
  | .add _ => .s
  | .sub _ => .s
  | .and _ => .s
  | .or _ => .s
  | .xor _ => .s
  | .shl _ => .s
  | .shr _ => .s
  | .sar _ => .s
  | .min _ => .s
  | .max _ => .s
  | .minu _ => .s
  | .maxu _ => .s
  | .clz _ => .s
  | .popc _ => .s
  | .sel _ => .s
  | .mul _ => .s
  | .mulh _ => .s
  | .mulhu _ => .s
  | .div _ => .s
  | .divu _ => .s
  | .rem _ => .s
  | .remu _ => .s
  | .addi _ => .s
  | .andi _ => .s
  | .ori _ => .s
  | .xori _ => .s
  | .shli _ => .s
  | .shri _ => .s
  | .sari _ => .s
  | .lui _ => .s
  | .cmpiEq _ => .s
  | .cmpiNe _ => .s
  | .cmpiLt _ => .s
  | .cmpiGe _ => .s
  | .cmpiLtu _ => .s
  | .cmpiGeu _ => .s
  | .cmpEq _ => .s
  | .cmpNe _ => .s
  | .cmpLt _ => .s
  | .cmpGe _ => .s
  | .cmpLtu _ => .s
  | .cmpGeu _ => .s
  | .gand _ => .s
  | .gor _ => .s
  | .gxor _ => .s
  | .gtos _ => .s
  | .stog _ => .s
  | .br _ => .s
  | .call _ => .s
  | .ret _ => .s
  | .segj _ => .s
  | .loop _ => .s
  | .loopi _ => .s
  | .rdsr _ => .s
  | .wrsr _ => .s
  | .pgrd _ => .s
  | .pgwr _ => .s
  | .trap _ => .s
  | .endI _ => .s
  | .trd _ => .s
  | .twait _ => .s
  | .tchk _ => .s
  | .solo _ => .s
  | .binit _ => .s
  | .barr _ => .s
  | .bchk _ => .s
  | .spawn _ => .s
  | .acqsW _ => .s
  | .acqsR _ => .s
  | .relsW _ => .s
  | .relsR _ => .s
  | .ckpt _ => .s
  | .fsyn _ => .s
  | .plil _ => .ld
  | .plih _ => .ld
  | .padd _ => .ld
  | .paddi _ => .ld
  | .pmov _ => .ld
  | .ldw _ => .ld
  | .ldr _ => .ld
  | .ldh _ => .ld
  | .ldv _ => .ld
  | .stw _ => .ld
  | .str _ => .ld
  | .sth _ => .ld
  | .stv _ => .ld
  | .ldq _ => .ld
  | .ldt _ => .ld
  | .stnt _ => .ld
  | .drain _ => .ld
  | .ldg _ => .ld
  | .stg _ => .ld
  | .stg16 _ => .ld
  | .amoAdd _ => .ld
  | .amoMin _ => .ld
  | .amoMax _ => .ld
  | .amoSwap _ => .ld
  | .amoCas _ => .ld
  | .agset _ => .ld
  | .agadv _ => .ld
  | .lda _ => .ld
  | .sta _ => .ld
  | .fadd _ => .v
  | .fsub _ => .v
  | .fmul _ => .v
  | .fmin _ => .v
  | .fmax _ => .v
  | .fabs _ => .v
  | .fneg _ => .v
  | .fcps _ => .v
  | .fcmpEq _ => .v
  | .fcmpNe _ => .v
  | .fcmpLt _ => .v
  | .fcmpLe _ => .v
  | .fcmpUn _ => .v
  | .fclass _ => .v
  | .fsel _ => .v
  | .fma _ => .v
  | .fms _ => .v
  | .fnma _ => .v
  | .iadd _ => .v
  | .isub _ => .v
  | .imul _ => .v
  | .imulh _ => .v
  | .imin _ => .v
  | .imax _ => .v
  | .iand _ => .v
  | .ior _ => .v
  | .ixor _ => .v
  | .ishl _ => .v
  | .ishr _ => .v
  | .isar _ => .v
  | .icmpEq _ => .v
  | .icmpNe _ => .v
  | .icmpLt _ => .v
  | .icmpGe _ => .v
  | .icmpLtu _ => .v
  | .icmpGeu _ => .v
  | .iaddi _ => .v
  | .iandi _ => .v
  | .iori _ => .v
  | .ixori _ => .v
  | .ishli _ => .v
  | .ishri _ => .v
  | .isari _ => .v
  | .vli _ => .v
  | .viota _ => .v
  | .vperm _ => .v
  | .vrot _ => .v
  | .vbcastl _ => .v
  | .vrsum _ => .v
  | .vrmax _ => .v
  | .vrmin _ => .v
  | .vrsumg _ => .v
  | .vstat _ => .v
  | .cvtBf16F32 _ => .v
  | .cvtF32Bf16 _ => .v
  | .cvtE4m3F32 _ => .v
  | .cvtF32E4m3 _ => .v
  | .cvtE5m2F32 _ => .v
  | .cvtF32E5m2 _ => .v
  | .cvtI32F32 _ => .v
  | .cvtF32I32 _ => .v
  | .cvtmx8 _ => .v
  | .cvtmx4 _ => .v
  | .unmx _ => .v
  | .cb4dec _ => .v
  | .cb4enc _ => .v
  | .exp _ => .v
  | .log _ => .v
  | .rcp _ => .v
  | .rsq _ => .v
  | .tiel _ => .v
  | .tiev _ => .v
  | .vrng _ => .v
  | .vrngk _ => .v
  | .vrngc _ => .v
  | .vskip _ => .v
  | .mand _ => .v
  | .mor _ => .v
  | .mnot _ => .v
  | .mpop _ => .v
  | .cpy _ => .x
  | .cpyl _ => .x
  | .cbc _ => .x
  | .cpm _ => .x
  | .qpop _ => .x
  | .qpeek _ => .x
  | .qpush _ => .x
  | .cpyp _ => .x
  | .slatch _ => .mx
  | .sswap _ => .mx
  | .spush _ => .mx
  | .sshift _ => .mx
  | .vopa _ => .mx
  | .vzero _ => .mx
  | .vdrain _ => .mx
  | .svpair _ => .mx
  | .cbld _ => .mx
  | .chs _ => .mx
  | .chb _ => .mx
  | .chn _ => .mx
  | .chsv _ => .mx
  | .chld _ => .mx
  | .shp _ => .te
  | .tagset _ => .te
  | .xfer _ => .te
  | .xferq _ => .te
  | .xstore _ => .te
  | .tlist _ => .te
  | .xred _ => .te
  | .xacc _ => .te
  | .xmc _ => .te
  | .mkcfg _ => .te
  | .pptld _ => .te
  | .vbmld _ => .te
  | .nmc _ => .te
  | .nmfence _ => .te
  | .lsend _ => .te
  | .lfwd _ => .te
  | .bundleIssue => .s
  | .segmentExpansion => .s
  | .registerWrite => .s
  | .ldAddressCheck => .s
  | .bankAccess => .s
  | .queueLoadAppend => .s
  | .queuePushAppend => .s
  | .pigeonholeWrite => .s
  | .memorySlot => .s
  | .deviceWritePerform => .s
  | .stntUnitWrite => .s
  | .drainCompletion => .s
  | .openSlotService => .s
  | .barrierArrival => .s
  | .deliveryFault => .s
  | .spawnDelivery => .s
  | .stagePerform => .s
  | .twaitEnd => .s
  | .teCommandStart => .s
  | .engineElementIssue => .s
  | .engineElementArrival => .s
  | .engineFarWrite => .s
  | .tlistEntryRead => .s
  | .windowAddition => .s
  | .multicastDelivery => .s
  | .configWrite => .s
  | .ancestryReplace => .s
  | .nmcStart => .s
  | .nmBlockRead => .s
  | .nmBlockWrite => .s
  | .nmDataFault => .s
  | .shadowRowWrite => .s
  | .planeExchange => .s
  | .scoreRowAppend => .s
  | .accumulatorUpdate => .s
  | .accumulatorClear => .s
  | .drainRowAppend => .s
  | .codebookWrite => .s
  | .chainReset => .s
  | .chainValueRead => .s
  | .chainUpdate => .s
  | .normalisedRowAppend => .s
  | .rowStateSaveAppend => .s
  | .rowStateLoad => .s
  | .linkSendElement => .s
  | .linkForwardElement => .s
  | .flitSlotPlacement => .s
  | .flitLanding => .s
  | .elasticOverrun => .s
  | .groupRecess => .s
  | .bell => .s
  | .hangDetected => .s
  | .queuePromotion => .s
  | .partitionStart => .s
  | .submissionCheck => .s
  | .launchRetirement => .s
  | .rollCallComplete => .s
  | .launchFailure => .s
  | .contextMove => .s
  | .storePark => .s
  | .stackBandChange => .s
  | .dieBandChange => .s
  | .undervoltage => .s
  | .errorLasting => .s
  | .selfTest => .s
  | .coreReset => .s
  | .coreGating => .s
  | .imageStage => .s
  | .handoverOrder => .s
  | .handoverRecordComplete => .s
  | .quiesceTimeout => .s
  | .heartbeat => .s
  | .heartbeatDeadline => .s
  | .abandonRequest => .s
  | .journalAppend => .s
  | .probationCommit => .s
  | .quoteRequest => .s
  | .submissionGo => .s
  | .evtailWrite => .s
  | .pigeonholePageWrite => .s
  | .deviceWindowRead => .s
  | .deviceWindowWrite => .s
  | .hostRegisterWrite => .s
  | .groupAgreement => .s
  | .bringUp => .s
  | .createTenant => .s
  | .assignFunction => .s
  | .setHostMap => .s
  | .provisionKeySlot => .s
  | .assignChannelGroups => .s
  | .readTelemetry => .s
  | .readFlashLog => .s
  | .setIdeKeys => .s

/-! ### Bundles and segments -/

/-- A little-endian number of bytes (R6). -/
def leNat : List Byte → Nat
  | [] => 0
  | b :: bs => b.toNat + 256 * leNat bs

/-- The words of a coded bundle's present slots, slot i first (R45). -/
def decodeWords : Nat → Nat → List Byte → Option (List Nat × List Byte)
  | 0, _, bs => some ([], bs)
  | k + 1, pres, bs =>
    if pres % 2 = 1 then
      match bs with
      | b0 :: b1 :: b2 :: b3 :: rest =>
        (decodeWords k (pres / 2) rest).map fun (ws, r) => (leNat [b0, b1, b2, b3] :: ws, r)
      | _ => none
    else (decodeWords k (pres / 2) bs).map fun (ws, r) => (0 :: ws, r)

/-- One coded bundle: a presence byte, then the present words (R45). -/
def decodeBundle : List Byte → Option (List Nat × List Byte)
  | [] => none
  | b :: bs => decodeWords 8 b.toNat bs

def decodeBundles : Nat → List Byte → Option (List (List Nat) × List Byte)
  | 0, bs => some ([], bs)
  | k + 1, bs =>
    match decodeBundle bs with
    | none => none
    | some (b, rest) => (decodeBundles k rest).map fun (t, r) => (b :: t, r)

/-- A segment header (R44): `next` is the raw 20-bit field. -/
structure Header where
  stamp : Nat
  next : Nat
  timed : Bool
  cnt : Nat
  len : Nat
  reserved : Nat
deriving DecidableEq, Repr

def decodeHeader (bs : List Byte) : Header :=
  let n := leNat (bs.take 16)
  { stamp := n / 2 ^ 64 % 2 ^ 64, next := n / 2 ^ 44 % 2 ^ 20, timed := bit n 40, cnt := n / 2 ^ 32 % 256,
    len := n % 2 ^ 14, reserved := n / 2 ^ 41 % 8 + n / 2 ^ 14 % 2 ^ 18 }

/-- Sign extension of a `bits`-bit field (R6). -/
def sext (bits n : Nat) : Int := if n < 2 ^ (bits - 1) then (n : Int) else (n : Int) - 2 ^ bits

/-- The size in bytes of a segment with this LEN (R43). -/
def segmentSize (len : Nat) : Nat := 16 + 16 * ((len + 15) / 16)

/-- The expansion cost E of a segment with this LEN (R48). -/
def expansionCost (len : Nat) : Nat := 24 + (segmentSize len + 31) / 32

/-- A segment as expanded: the offset of its header, the header, its bundles, and whether R46 calls it valid. -/
structure Segment where
  off : Nat
  head : Header
  bundles : List (List Nat)
  valid : Bool
deriving DecidableEq, Repr

/-- The size of a die's program store (R43). -/
def storeSize : Nat := 8 * 1024 * 1024

/-- The offset that NEXT or a SEGJ names, from the header at `off`. -/
def targetOffset (off field : Nat) : Int := (off : Int) + 16 * sext 20 field

/-- Parsing the segment whose header stands at `off`, from the bytes that begin there (R43 to R46). -/
def parseSegment (off : Nat) (bs : List Byte) : Segment :=
  let h := decodeHeader bs
  let body := (bs.drop 16).take h.len
  let pad := (bs.drop (16 + h.len)).take (segmentSize h.len - 16 - h.len)
  let nextOk := h.next == 0 || (decide (0 ≤ targetOffset off h.next) && decide (targetOffset off h.next < storeSize))
  let base := h.reserved == 0 && (h.timed || h.stamp == 0) && pad.all (· == 0) && nextOk && body.length == h.len
  match decodeBundles (h.cnt + 1) body with
  | some (bundles, []) => { off := off, head := h, bundles := bundles, valid := base }
  | some (bundles, _ :: _) => { off := off, head := h, bundles := bundles, valid := false }
  | none => { off := off, head := h, bundles := [], valid := false }

/-! ### One word without its slot -/

/-- How many bits of a slot's words an instruction fixes, as its row of the opcode maps gives them. -/
def Instr.fixedBits (i : Instr) (w : Nat) : Nat :=
  if i = .nop then 32
  else ((List.range 24).filter fun b => match rowsOf i.slotKind (w ^^^ 2 ^ b) with
    | some j => !j.wf
    | none => true).length

/-- Among the maps in which a word is legal, the one that fixes most of the word, the lower slot on a tie. -/
def pickSlot (w : Nat) : List SlotKind → Option (SlotKind × Instr)
  | [] => none
  | k :: ks =>
    match decodeSlot k w, pickSlot w ks with
    | .error _, r => r
    | .ok i, none => some (k, i)
    | .ok i, some (k', j) => if j.fixedBits w ≤ i.fixedBits w then some (k, i) else some (k', j)

/-- A slot word standing alone: its slot is not part of its bits (R27), so the maps are tried as `pickSlot` says. -/
def placeWord (w : Nat) : Option (SlotKind × Instr) := pickSlot w [.s, .ld, .v, .mx, .x, .te]

/-- The instruction that a word of the opcode table, given without its slot, stands for. -/
def decodeTableWord (nbits w : Nat) : Option Instr :=
  if nbits ≤ 32 ∧ w < 2 ^ 32 then (placeWord w).map (·.2) else none

end Sys2Proof
end

