-- ==== Sys2Proof/Config.lean ====
section
/-! DEFINITION. What the spec fixes once for the part, and the values it leaves open: opaque constants without a body,
so that no proof can see what they are. -/
namespace Sys2Proof.Config

/-- Cores of the package (R194). -/
def cores : Nat := 384
/-- Arithmetic cycles in a period (R2). -/
def period : Nat := 4032
/-- Memory slots in a period (R260). -/
def slotsPerPeriod : Nat := 3072
/-- The first row a partition owns in each bank (R258). -/
def rowBase : Nat := 256
/-- Sixty seconds of GTC (R336). -/
def minute : Nat := 63000000000
/-- One millisecond of GTC (R358). -/
def ms : Nat := 1050000

/-- A number the registrar, the prefect or an agent outside the module chooses freely (R409, R220), one for each value
of the state's counter `free` (log entry 3). -/
opaque freeNat : Nat → Nat
/-- A word the spec leaves open, one for each value of the counter (log entry 3). -/
opaque freeWord : Nat → Word
/-- A byte the spec leaves open, by counter and position (log entry 3). -/
opaque freeByte : Nat → Nat → Byte
/-- A yes or no the spec leaves open (log entry 3). -/
opaque freeBool : Nat → Bool

/-- The key under which the office reads and writes a bank under self-test (R238, R270), which the spec does not give
(log entry 3). -/
opaque officeKey : BitVec 512

/-- ML-DSA-65 verification: public key, message, signature (R354, R402); the scheme is named, not defined, by the spec
(log entry 7). -/
opaque mldsaVerify : List Byte → List Byte → List Byte → Bool
/-- ML-DSA-65 signing under a secret key that the office holds (R363; log entry 7). -/
opaque mldsaSign : Nat → List Byte → List Byte
/-- The root key that the boot ROM holds, under which the prefect's image and the configuration records are signed (R402;
log entry 7). -/
opaque rootKey : List Byte
/-- The image key named by the signed configuration (R355) and the attestation key index (R402; log entry 7). -/
opaque imageKey : List Byte

/-- The bytes that stand for a partition configuration in a quote (R363), whose layout the spec does not give, from the
numbers it lists (log entry 3). -/
opaque partitionConfig : List Nat → List Byte

end Sys2Proof.Config
end

