-- ==== Sys2Proof/Machine/Work.lean ====
section
/-! DEFINITION. What the machine's pending steps act on: the payload of every row of the opcode table that is not a slot
instruction, and the step each payload belongs to. -/
namespace Sys2Proof.Machine

/-- One of the two vector slots and its files (R34, R123). -/
inductive VSlot where
  | a
  | b
deriving DecidableEq, Repr

/-- Who caused a step: the physical core, the issue TTC, the source code of R325 and the bundle address word of
R324 that a fault record of that step carries. -/
structure Meta where
  core : Nat
  issue : Nat
  src : Nat
  bundle : Word
deriving DecidableEq, Repr

/-- A storage unit whose errors the prefect counts (R267, R408) (DEDUCED, log entry 32). -/
inductive ErrUnit where
  | dramBank (stack channel bank : Nat)
  | nmUnit (stack : Nat)
  | spadBank (core bank : Nat)
  | coreArrays (core : Nat)
  | port (p : Nat)
  /-- A unit of another package, with the class that its prefect reports (R408). -/
  | remote (lasting : Bool)
deriving DecidableEq, Repr

/-- A queue row: its words (64 for q and lq, 128 for o), its tag mark (R188) and its poison mark, with the unit that set it (R192,
R267, R408). -/
structure Row where
  words : List Word
  mark : Option Nat
  poison : Option ErrUnit
deriving DecidableEq, Repr

/-- One register write falling due at its cycle W (R13): lane and bit writes carry the bits they change (R125). -/
inductive RegWrite where
  | s (n : Nat) (w : Word)
  | g (mask val : BitVec 8)
  | p (n : Nat) (w : Ptr)
  | d (n : Nat) (mask val : Lanes)
  | l (n : Nat) (mask val : Mask)
  | ag (n : Nat) (mask val : BitVec 256)
  | v (u : VSlot) (n : Nat) (mask val : Lanes)
  | vm (u : VSlot) (n : Nat) (mask val : Mask)
  | flagsSet (u : VSlot) (f : BitVec 6)
  | flagsWrite (u : VSlot) (f : BitVec 6)
  | seed (u : VSlot) (hi : Bool) (w : Word)
  | key (u : VSlot) (k : BitVec 64)
  | ctr (u : VSlot) (c : BitVec 128)
  | tie (u : VSlot) (n : Nat) (img : Lanes)
  | h (n : Nat) (v : BitVec 128)
  | etag (v : BitVec 16)
  | spwe (w : Word)
  | barExpected (n : Nat) (v : BitVec 16)
  | dp (v : Nat)
  | keyCounter
  | solo (mask : Word)
  /-- A tile tag, written by a tagged XFER (R286). -/
  | tag (n : Nat) (v : BitVec 16)
  /-- A fault that falls at W in place of the write: poison (0x30; R143, R267), an uncorrectable die-link transfer (0x33;
  R377): its code, the unit blamed and the detail words. -/
  | fault (code : Nat) (unit : Option ErrUnit) (detail : List Word)
deriving DecidableEq, Repr

/-- The five atomics of R96. -/
inductive AmoOp where
  | add
  | min
  | max
  | swap
  | cas
deriving DecidableEq, Repr

/-- What an LD access does with its address. -/
inductive AccessKind where
  | load
  | store
  | ldq
  | ldt (expected : Nat)
  | gather
  | scatter (half : Bool)
  | amo (op : AmoOp)
  | stnt
deriving DecidableEq, Repr

/-- An LD access as its instruction leaves it at t, to be checked at t+1 (R84): target register or queue, effective
address and size, operand lanes, the selected lanes of a gather or scatter with their addresses, the solo mask the
bundle was judged under (R201), and the generator condition of R300. -/
structure Access where
  kind : AccessKind
  tg : Nat
  ea : Ptr
  size : Nat
  data : Lanes
  lanes : List (Nat × Ptr)
  solo : Option Word
  gen : Option (List Word)
deriving DecidableEq, Repr

/-- A transfer-engine, list-entry or link command: opcode, start cycle S, issue cycle, shape and ETAG (or TAGV) as
read at issue (R276, R290). -/
structure Cmd where
  op : Nat
  start : Nat
  issue : Nat
  shape : BitVec 128
  tag : BitVec 16
deriving DecidableEq, Repr

/-- Where a request of another package comes from, and its place in the order of R384: the package's coordinates, and
the rank, source, start cycle and element of the access, with the issue cycle of its instruction (DEDUCED, log entry 31). -/
structure Origin where
  from_ : Nat × Nat × Nat
  rank : Nat
  source : Nat
  start : Nat
  elem : Nat
  issue : Nat
deriving DecidableEq, Repr

/-- Where the bytes of a read go. -/
inductive Sink where
  | dreg (n at_ : Nat)
  | queue (q at_ : Nat)
  | shape (n at_ : Nat)
  | inbound (c : Cmd) (e at_ : Nat)
  | outbound (c : Cmd) (e at_ : Nat)
  | config (at_ : Nat)
  | parents (c : Cmd) (e : Nat)
  | entry (c : Cmd) (i : Nat)
  | send (c : Cmd) (e : Nat)
  | remote (o : Origin) (at_ : Nat)
deriving DecidableEq, Repr

/-- What an access does in its bank cycle (R86, R88). -/
inductive BankAct where
  | load (addr size : Nat) (sink : Sink)
  | store (addr : Nat) (data : List Byte)
  | gather (els : List (Nat × Nat)) (group tg at_ : Nat)
  | scatter (els : List (Nat × Nat × List Byte)) (half : Bool)
  | tagged (addr expected tg at_ : Nat)
  | amoRead (addr : Nat) (op : AmoOp) (v c : Word) (tg at_ : Nat)
  /-- The read of a pigeonhole by LDW (R233): no bank of a scratchpad is used. -/
  | pigeonhole (n tg at_ : Nat)
  /-- An access that the target's table refuses, at the cycle at which its core takes the fault (R231). -/
  | refused (detail : List Word)
deriving DecidableEq, Repr

/-- A bank access: the core that holds the banks, the requester word and its identifying cycle (R87, R406). -/
structure BankOp where
  holder : Nat
  req : Word
  cyc : Nat
  act : BankAct
deriving DecidableEq, Repr

/-- Units of device memory with their data: physical byte address of the unit, 64 plain bytes, and the key slot. -/
structure UnitWrite where
  phys : Nat
  data : List Byte
  key : Nat
deriving DecidableEq, Repr

/-- A device-memory request at its RD or WR cycle (R230, R264). -/
structure MemReq where
  part : Nat
  cycle : Nat
  write : Bool
  phys : Nat
  ea : Nat
  size : Nat
  kind : Nat
  source : Nat
  key : Nat
  who : Meta
  data : List Byte
  performs : Nat
  sink : Sink
deriving DecidableEq, Repr

/-- One 64-byte unit of an STNT (R249): physical address, key slot, data, order of R251. -/
structure StntUnit where
  part : Nat
  core : Nat
  rank : Nat
  issue : Nat
  unit : Nat
  phys : Nat
  key : Nat
  data : List Byte
deriving DecidableEq, Repr

/-- A near-memory command: its 256-bit record, start and issue cycle (R304). -/
structure NmCmd where
  rec_ : BitVec 256
  start : Nat
  issue : Nat
deriving DecidableEq, Repr

/-- A flit's place in the order of R384 and what it carries: the package whose access it belongs to, whether it is the
answer to that access, the link group it travels under, and its row. -/
structure Flit where
  port : Nat
  window : Nat
  group : Option Nat
  transit : Bool
  from_ : Nat × Nat × Nat
  reply : Bool
  rank : Nat
  source : Nat
  start : Nat
  elem : Nat
  idx : Nat
  dest : Nat
  addr : Nat
  row : Option Row
deriving DecidableEq, Repr

/-- What lands at a port from a neighbour (R388, R389). Under a link group: a row for a link queue, with the start cycle of
the command that sent it; an access to this package's device memory (with the cycle of its RD or WR at the arrival port's
own die and its origin); an addition to a window (R392). What comes back to an access of this package: a load's data, an
element, or a fault of the access, with its cycle when a package on the route names it (R381, R384). A flit on its way to
another package; a flit that failed its check, with the issue cycle, source and element of the access that it answered; a
correction; or an untimed access over an open slot (R253, R380) (DEDUCED, log entry 31). -/
inductive Landing where
  | row (group part rank start : Nat) (r : Row)
  | access (group part : Nat) (write : Bool) (vaddr size cycle : Nat) (data : List Byte) (o : Origin)
  | addition (group part rank window index : Nat) (words : List Word)
  | reply (part rank issue : Nat) (data : List Byte) (bad : Option ErrUnit)
  | element (part rank : Nat) (c : Cmd) (e : Nat) (data : List Byte) (bad : Option ErrUnit)
  | remoteFault (part rank issue src elem code : Nat) (at_ : Option Nat) (detail : List Word)
  | transit (dst : Nat × Nat × Nat) (f : Flit)
  | bad (part rank : Nat) (answers : Option (Nat × Nat × Nat))
  | corrected
  | untimed (write : Bool) (phys first : Nat) (data : List Byte) (tenant key : Nat)
deriving DecidableEq, Repr

/-- What an access outside the timetable is for: the host; the piece at byte i of a submission's image (R397); the data images
of a partition (R220); what a partition parks (R344); its report card (R351); unit i of a bank under self-test (R270); untimed
traffic of a port (R253). -/
inductive OpenUse where
  | host
  | image (sub i : Nat)
  | place (part : Nat)
  | park (part : Nat)
  | card (part : Nat)
  | test (stack channel bank i : Nat) (restore pass : Bool)
  | peer (port : Nat)
deriving DecidableEq, Repr

/-- A unit access outside the timetable: its window (a function of the host, or one of the office or of a port) and its
number in the order in which the windows present their units, the unit, the place and the bytes in it, the key, and the
open slot it is committed to, if any (R253, R265, R400). -/
structure OpenAccess where
  fn : Nat
  seq : Nat
  use : OpenUse
  write : Bool
  phys : Nat
  first : Nat
  data : List Byte
  key : Nat
  tenant : Nat
  slot : Option Nat
deriving DecidableEq, Repr

/-- The office's three services (R353, R354). -/
inductive Service where
  | prefect
  | registrar
  | porter
deriving DecidableEq, Repr

/-- An entry of a handover record: type, schema and bytes (R356). -/
structure RecordEntry where
  type : Nat
  schema : Nat
  data : List Byte
deriving DecidableEq, Repr

/-- A journal entry of R357. -/
structure JournalEntry where
  seq : Nat
  index : Nat
  essential : Bool
  type : Nat
  schema : Nat
deriving DecidableEq, Repr

/-- A host-map entry of R400: BAR2 offset, physical address, length, key slot, rights. -/
structure MapEntry where
  off : Nat
  phys : Nat
  len : Nat
  key : Nat
  rd : Bool
  wr : Bool
deriving DecidableEq, Repr

/-- The HBM4 timing record of R263, in memory slots. -/
structure Timing where
  tRCD : Nat
  tRP : Nat
  tRAS : Nat
  tRC : Nat
  tRRD : Nat
  tFAW : Nat
  tCCD : Nat
  tWR : Nat
  tRTP : Nat
  tWTR : Nat
  tRTW : Nat
  tRFC : Nat
  tRFCpb : Nat
  tREFI : Nat
  tREFIhot : Nat
deriving DecidableEq, Repr

/-- What bring-up reads from flash and the links (R390, R402): the images of the prefect, the registrar and the porter, the
configuration records, each a block and its signature, and what they and the links give: the coordinates and extents, GTC
from the clock root, the timing record of each stack, and the host port. -/
structure BringUp where
  images : List (List Byte)
  records : List (List Byte × List Byte)
  coords : Nat × Nat × Nat
  extents : Nat × Nat × Nat
  gtc : Nat
  timing : List Timing
  hostPort : Option Nat
deriving DecidableEq, Repr


/-- What a pending step acts on, one constructor for each row of the table that is not a slot instruction
(DESIGN CHOICE, log entry 15). -/
inductive Work where
  /-- R7 -/
  | bundleIssue (core : Nat)
  /-- R48 -/
  | segmentExpansion (core : Nat) (half : Bool) (off : Nat)
  /-- R13 -/
  | registerWrite (core : Nat) (w : RegWrite)
  /-- R84 -/
  | ldAddressCheck (a : Access)
  /-- R88 -/
  | bankAccess (b : BankOp)
  /-- R92 -/
  | queueLoadAppend (core q : Nat) (r : Row)
  /-- R144 -/
  | queuePushAppend (core q : Nat) (r : Row)
  /-- R80 -/
  | pigeonholeWrite (part n : Nat) (w : Word)
  /-- R264 -/
  | memorySlot (part : Nat)
  /-- R230 -/
  | deviceWritePerform (tenant : Nat) (units : List UnitWrite)
  /-- R251 -/
  | stntUnitWrite (u : StntUnit)
  /-- R250 -/
  | drainCompletion (core upto : Nat)
  /-- R265 -/
  | openSlotService (a : OpenAccess)
  /-- R207 -/
  | barrierArrival (core n : Nat)
  /-- R329 -/
  | deliveryFault (rank state : Nat)
  /-- R213 -/
  | spawnDelivery (rank off : Nat) (args : List Word)
  /-- R211 -/
  | stagePerform (write release : Bool) (k : Nat)
  /-- R204 -/
  | twaitEnd (core : Nat)
  /-- R279 -/
  | teCommandStart (c : Cmd)
  /-- R284 -/
  | engineElementIssue (c : Cmd) (e : Nat)
  /-- R282 -/
  | engineElementArrival (c : Cmd) (e : Nat) (data : List Byte) (poison : Option ErrUnit)
  /-- R283 -/
  | engineFarWrite (c : Cmd) (e : Nat) (data : List Byte)
  /-- R290 -/
  | tlistEntryRead (c : Cmd) (i : Nat)
  /-- R292 -/
  | windowAddition (core window index : Nat) (words : List Word)
  /-- R242 -/
  | multicastDelivery (c : Cmd) (e : Nat) (r : Row)
  /-- R295 -/
  | configWrite (v : BitVec 512)
  /-- R297 -/
  | ancestryReplace (c : Cmd) (table : List (Nat × List Byte))
  /-- R306 -/
  | nmcStart (c : NmCmd)
  /-- R309 -/
  | nmBlockRead (c : NmCmd) (k : Nat)
  /-- R309 -/
  | nmBlockWrite (c : NmCmd) (k : Nat) (data : List Byte) (bad : Option (Nat × ErrUnit))
  /-- R311 -/
  | nmDataFault (c : NmCmd) (k which : Nat) (u : ErrUnit)
  /-- R168 -/
  | shadowRowWrite (row : Nat) (words : List Word) (fmt : Nat) (cb : Option Nat)
  /-- R169 -/
  | planeExchange
  /-- R171 -/
  | scoreRowAppend (o : Nat) (scores : List Word)
  /-- R173 -/
  | accumulatorUpdate (col row : List Word) (fmt : Nat) (book : BitVec 256)
  /-- R174 -/
  | accumulatorClear
  /-- R174 -/
  | drainRowAppend (o : Nat) (words : List Word)
  /-- R175 -/
  | codebookWrite (n : Nat) (v : BitVec 256)
  /-- R180 -/
  | chainReset
  /-- R181 -/
  | chainValueRead (block beat : Nat)
  /-- R185 -/
  | chainUpdate (block beat : Nat) (row : List Word)
  /-- R186 -/
  | normalisedRowAppend (o row : Nat) (words : List Word) (empty : Bool)
  /-- R187 -/
  | rowStateSaveAppend (o : Nat) (words : List Word)
  /-- R187 -/
  | rowStateLoad (g : Nat) (words : List Word)
  /-- R386 -/
  | linkSendElement (c : Cmd) (e : Nat)
  /-- R387 -/
  | linkForwardElement (c : Cmd) (e : Nat)
  /-- R384 -/
  | flitSlotPlacement (f : Flit)
  /-- R388; what lands comes in a slot of the port's frame. -/
  | flitLanding (port slot : Nat) (l : Landing)
  /-- R390 -/
  | elasticOverrun (port : Nat)
  /-- R391; of a fault, the TTC of its detection; of a bell entry, the periods of duty that the other member takes in the aligned
  group that holds the bell, 0 when it is no duty (R405). -/
  | groupRecess (part : Nat) (bell : Bool) (d : Nat) (from_ : Nat × Nat × Nat)
  /-- R2 -/
  | bell
  /-- R350 -/
  | hangDetected (part : Nat)
  /-- R218 -/
  | queuePromotion (sub : Nat)
  /-- R24 -/
  | partitionStart (part : Nat)
  /-- R215 -/
  | submissionCheck (sub : Nat)
  /-- R221 -/
  | launchRetirement (part : Nat)
  /-- R342 -/
  | rollCallComplete (part : Nat)
  /-- R351 -/
  | launchFailure (part : Nat)
  /-- R344 -/
  | contextMove (part : Nat) (out : Bool)
  /-- R344 -/
  | storePark (part : Nat) (out : Bool)
  /-- R268 -/
  | stackBandChange (stack tmax : Nat) (duty : Option Nat)
  /-- R405 -/
  | dieBandChange (die tmax : Nat) (duty : Option Nat)
  /-- R404 -/
  | undervoltage
  /-- R267 -/
  | errorLasting (u : ErrUnit)
  /-- R270 -/
  | selfTest (stack channel bank : Nat) (pass : Bool)
  /-- R23 -/
  | coreReset (core : Nat)
  /-- R23 -/
  | coreGating (core : Nat) (gate : Bool)
  /-- R355 -/
  | imageStage (v : Service) (image : List Byte)
  /-- R358 -/
  | handoverOrder (v : Service)
  /-- R356 -/
  | handoverRecordComplete (v : Service) (entries : List RecordEntry)
  /-- R358 -/
  | quiesceTimeout (v : Service)
  /-- R360 -/
  | heartbeat (v : Service) (hbmon : Option Word)
  /-- R360 -/
  | heartbeatDeadline (v : Service)
  /-- R358 -/
  | abandonRequest (v : Service)
  /-- R357 -/
  | journalAppend (v : Service) (e : JournalEntry)
  /-- R358 -/
  | probationCommit (v : Service)
  /-- R363 -/
  | quoteRequest (fn : Nat) (nonce : List Byte)
  /-- R397 -/
  | submissionGo (fn : Nat) (v : Word)
  /-- R395 -/
  | evtailWrite (fn : Nat) (v : Word)
  /-- R399 -/
  | pigeonholePageWrite (fn part word : Nat) (v : Word)
  /-- R400 -/
  | deviceWindowRead (fn off len : Nat)
  /-- R400 -/
  | deviceWindowWrite (fn off : Nat) (data : List Byte)
  /-- R396 -/
  | hostRegisterWrite (fn off : Nat) (v : Word)
  /-- R401; `facing` is what the neighbours' members claim on the ports that face those of this package: the port here, the
  first slot and how many (R380). -/
  | groupAgreement (group startBell : Nat) (ok : Bool) (facing : List (Nat × Nat × Nat))
  /-- R402 -/
  | bringUp (b : BringUp)
  /-- R403 -/
  | createTenant (t : Nat)
  /-- R403 -/
  | assignFunction (fn t : Nat)
  /-- R400 -/
  | setHostMap (fn i : Nat) (e : MapEntry)
  /-- R239 -/
  | provisionKeySlot (t slot : Nat) (key : BitVec 512)
  /-- R409 -/
  | assignChannelGroups (t : Nat) (groups : List Nat)
  /-- R403: by the baseboard over I3C, or by the operator. -/
  | readTelemetry (baseboard : Bool)
  /-- R403 -/
  | readFlashLog
  /-- R393 -/
  | setIdeKeys (k : BitVec 512)
deriving DecidableEq, Repr

/-- The step that a piece of work belongs to. -/
def Work.instr : Work → Instr
  | .bundleIssue .. => .bundleIssue
  | .segmentExpansion .. => .segmentExpansion
  | .registerWrite .. => .registerWrite
  | .ldAddressCheck .. => .ldAddressCheck
  | .bankAccess .. => .bankAccess
  | .queueLoadAppend .. => .queueLoadAppend
  | .queuePushAppend .. => .queuePushAppend
  | .pigeonholeWrite .. => .pigeonholeWrite
  | .memorySlot .. => .memorySlot
  | .deviceWritePerform .. => .deviceWritePerform
  | .stntUnitWrite .. => .stntUnitWrite
  | .drainCompletion .. => .drainCompletion
  | .openSlotService .. => .openSlotService
  | .barrierArrival .. => .barrierArrival
  | .deliveryFault .. => .deliveryFault
  | .spawnDelivery .. => .spawnDelivery
  | .stagePerform .. => .stagePerform
  | .twaitEnd .. => .twaitEnd
  | .teCommandStart .. => .teCommandStart
  | .engineElementIssue .. => .engineElementIssue
  | .engineElementArrival .. => .engineElementArrival
  | .engineFarWrite .. => .engineFarWrite
  | .tlistEntryRead .. => .tlistEntryRead
  | .windowAddition .. => .windowAddition
  | .multicastDelivery .. => .multicastDelivery
  | .configWrite .. => .configWrite
  | .ancestryReplace .. => .ancestryReplace
  | .nmcStart .. => .nmcStart
  | .nmBlockRead .. => .nmBlockRead
  | .nmBlockWrite .. => .nmBlockWrite
  | .nmDataFault .. => .nmDataFault
  | .shadowRowWrite .. => .shadowRowWrite
  | .planeExchange => .planeExchange
  | .scoreRowAppend .. => .scoreRowAppend
  | .accumulatorUpdate .. => .accumulatorUpdate
  | .accumulatorClear => .accumulatorClear
  | .drainRowAppend .. => .drainRowAppend
  | .codebookWrite .. => .codebookWrite
  | .chainReset => .chainReset
  | .chainValueRead .. => .chainValueRead
  | .chainUpdate .. => .chainUpdate
  | .normalisedRowAppend .. => .normalisedRowAppend
  | .rowStateSaveAppend .. => .rowStateSaveAppend
  | .rowStateLoad .. => .rowStateLoad
  | .linkSendElement .. => .linkSendElement
  | .linkForwardElement .. => .linkForwardElement
  | .flitSlotPlacement .. => .flitSlotPlacement
  | .flitLanding .. => .flitLanding
  | .elasticOverrun .. => .elasticOverrun
  | .groupRecess .. => .groupRecess
  | .bell => .bell
  | .hangDetected .. => .hangDetected
  | .queuePromotion .. => .queuePromotion
  | .partitionStart .. => .partitionStart
  | .submissionCheck .. => .submissionCheck
  | .launchRetirement .. => .launchRetirement
  | .rollCallComplete .. => .rollCallComplete
  | .launchFailure .. => .launchFailure
  | .contextMove .. => .contextMove
  | .storePark .. => .storePark
  | .stackBandChange .. => .stackBandChange
  | .dieBandChange .. => .dieBandChange
  | .undervoltage => .undervoltage
  | .errorLasting .. => .errorLasting
  | .selfTest .. => .selfTest
  | .coreReset .. => .coreReset
  | .coreGating .. => .coreGating
  | .imageStage .. => .imageStage
  | .handoverOrder .. => .handoverOrder
  | .handoverRecordComplete .. => .handoverRecordComplete
  | .quiesceTimeout .. => .quiesceTimeout
  | .heartbeat .. => .heartbeat
  | .heartbeatDeadline .. => .heartbeatDeadline
  | .abandonRequest .. => .abandonRequest
  | .journalAppend .. => .journalAppend
  | .probationCommit .. => .probationCommit
  | .quoteRequest .. => .quoteRequest
  | .submissionGo .. => .submissionGo
  | .evtailWrite .. => .evtailWrite
  | .pigeonholePageWrite .. => .pigeonholePageWrite
  | .deviceWindowRead .. => .deviceWindowRead
  | .deviceWindowWrite .. => .deviceWindowWrite
  | .hostRegisterWrite .. => .hostRegisterWrite
  | .groupAgreement .. => .groupAgreement
  | .bringUp .. => .bringUp
  | .createTenant .. => .createTenant
  | .assignFunction .. => .assignFunction
  | .setHostMap .. => .setHostMap
  | .provisionKeySlot .. => .provisionKeySlot
  | .assignChannelGroups .. => .assignChannelGroups
  | .readTelemetry .. => .readTelemetry
  | .readFlashLog => .readFlashLog
  | .setIdeKeys .. => .setIdeKeys

end Sys2Proof.Machine
end

