-- ==== Sys2Proof/Machine/State.lean ====
section
/-! DEFINITION. The state of the TS-384: every register, queue, memory, table and pending step that the spec gives the
package, as plain data, and the state after reset. -/
namespace Sys2Proof.Machine

/-- Bytes by address, rising, no byte equal to what an unlisted address reads as (0, log entry 4). -/
abbrev Mem := List Host.Cell

/-! ### One core -/

/-- The life of a core (R23, R214). -/
inductive Life where
  | gated
  | idle
  | loaded
  | running
  | recessed
  | starting
  | ended
deriving DecidableEq, Repr

/-- A TIE table (R150, R151): its image (lanes 0 to 197) and its validity bit. -/
structure Tie where
  img : Lanes
  valid : Bool
deriving DecidableEq, Repr

/-- The registers of one vector slot (R110, R111, R123, R150, R156). -/
structure VecUnit where
  regs : Vector Lanes 24
  masks : Vector Mask 8
  flags : BitVec 6
  seed : BitVec 64
  key : BitVec 64
  keyLatch : Word
  ctr : BitVec 128
  ctrLatch : BitVec 96
  ties : Vector Tie 4
deriving DecidableEq, Repr

/-- A plane of the score array with its latch (R162). -/
structure Plane where
  rows : Vector (Vector Word 64) 64
  fmt : Nat
  book : Nat
deriving DecidableEq, Repr

/-- The softmax stage's state of one row (R162). -/
structure RowState where
  cmax : Word
  csum : Word
  ccomp : Word
  cscl : Word
  status : Word
deriving DecidableEq, Repr

/-- One beat of a chain block: a key beat with its scores and mask, or a keyless beat (R181, R182, R189). -/
structure Beat where
  keyed : Bool
  issue : Nat
  scores : List Word
  mask : BitVec 64
  qb : Nat
  peek : Bool
deriving DecidableEq, Repr

/-- A chain block, named by the issue cycle of its first beat: the latched record it was opened under, the block
counter, its beats, and the probabilities its first update formed (R182, R184). -/
structure Block where
  first : Nat
  cfg : BitVec 512
  number : Nat
  beats : List Beat
  probs : List (List Word)
deriving DecidableEq, Repr

/-- The MX slot's state (R162). -/
structure Mx where
  active : Plane
  shadow : Plane
  value : Vector OWords 64
  dp : Nat
  rows : Vector RowState 64
  cfg : BitVec 512
  latched : BitVec 512
  keyCounter : Nat
  blockCounter : Nat
  validity : BitVec 65536
  ancestry : BitVec 65536
  books : Vector (BitVec 256) 4
  blocks : List Block
  isOpen : Bool
deriving DecidableEq, Repr

/-- One accumulator of a window (R291). -/
structure Acc where
  a : BitVec 96
  sat : Bool
  nan : Bool
deriving DecidableEq, Repr

/-- An accumulate window (R291). -/
structure Window where
  e : Int
  accs : Vector Acc 256
deriving DecidableEq, Repr

/-- A barrier (R205). -/
structure Barrier where
  expected : BitVec 16
  count : BitVec 16
deriving DecidableEq, Repr

/-- A half of the loop buffer: the segment's header offset, the TTC from which it is resident, and its expansion once
complete (R47, R48). -/
structure Half where
  off : Nat
  ready : Nat
  seg : Option Segment
deriving DecidableEq, Repr

/-- An active hardware loop level (R73). -/
structure Level where
  level : Nat
  first : Nat
  last : Nat
  count : Nat
deriving DecidableEq, Repr

/-- What R8 calls for next: a bundle of the resident segment, the first bundle of the other half, a no-operation
bundle after a taken SEGJ (R72), the fault of a chain that ends (R49), or nothing. -/
inductive Next where
  | bundle (idx : Nat)
  | enter
  | filler
  | exhausted
  | stop
deriving DecidableEq, Repr

/-- The sequencer (R8, R22, R47, R69 to R76): the loop buffer, the bundle that issued last and its issue cycle, what
R8 calls for next, with its cycle and the loop levels as they stand when it issues, a transfer of control under way
(`jump` for a SEGJ), the delay bundles still to come, and whether the
bundle that issued last is one. -/
structure Seq where
  halfA : Option Half
  halfB : Option Half
  inB : Bool
  idx : Nat
  filler : Bool
  levels : List Level
  next : Next
  nextLevels : List Level
  nextAt : Nat
  issued : Nat
  xfer : Option (Nat × Next)
  jump : Bool
  delay : Nat
  inDelay : Bool
deriving DecidableEq, Repr

/-- A core's context (R333, left column, and R343). -/
structure Ctx where
  life : Life
  s : Vector Word 32
  g : BitVec 8
  p : Vector Ptr 16
  d : Vector Lanes 16
  l : Vector Mask 4
  ag : Vector (BitVec 256) 4
  va : VecUnit
  vb : VecUnit
  ttch : Word
  gtch : Word
  pid : Word
  stg : Word
  pcore : Word
  spwe : Word
  queues : Vector (List Row) 12
  mx : Mx
  h : Vector (BitVec 128) 16
  etag : BitVec 16
  windows : Vector Window 8
  bars : Vector Barrier 48
  tags : Vector (BitVec 16) 128
  seq : Seq
  /-- The sequencer as it stood before the bundle now issuing (R333; log entry 2). -/
  seqBefore : Seq
  solo : Option Word
deriving DecidableEq, Repr

/-- An outstanding command of a transfer engine (R284): the command, and the last cycle at which one of its accesses
performs. -/
structure TeRec where
  cmd : Cmd
  last : Nat
deriving DecidableEq, Repr

/-- An outstanding near-memory command (R305): start, last destination write, issue. -/
structure NmRec where
  start : Nat
  last : Nat
  issue : Nat
deriving DecidableEq, Repr

/-- An outstanding STNT (R249, R250): its issue and its bundle, the completion of the drain that covers it, and the units
that still have to be written. -/
structure StntRec where
  issue : Nat
  bundle : Word
  covered : Option Nat
  units : List Nat
deriving DecidableEq, Repr

/-- A remote access, element or link row under way: who sent it, its element, the cycle at which it performs there, and
the cycle at which its core takes a refusal (R230, R236, R385) (DEDUCED, log entry 31). -/
structure Away where
  who : Meta
  elem : Nat
  performs : Nat
  faultAt : Nat
deriving DecidableEq, Repr

/-- An undo-log entry: bank word number, its old bytes, and which of its words were uncorrectable (R334). -/
structure Undo where
  word : Nat
  old : List Byte
  bad : List Nat
deriving DecidableEq, Repr

structure Core where
  ctx : Ctx
  /-- The scratchpad (R83), its uncorrectable and its correctable words, and the correction count (R97). -/
  spad : Mem
  bad : List Nat
  soft : List Nat
  corrections : Nat
  undo : List Undo
  dup : Option Ctx
  /-- The shadow storage: the partition whose context it holds, and the context (R344). -/
  shadow : Option (Nat × Ctx)
  /-- The retained syndrome (R327). -/
  syndrome : List Word
  te : List TeRec
  nm : List NmRec
  stnts : List StntRec
  away : List Away
  /-- A core reset that a delivery refusal names (R329). -/
  wasReset : Bool
  /-- Uncorrectable and correctable register words (file, register, word; R320, R408), and MX array words (array, row,
  word: 0 active plane, 1 shadow plane, 2 accumulators, 3 row states, 4 codebooks, 5 validity bitmap, 6 ancestry matrix,
  7 accumulate windows; R192, R408). -/
  regBad : List (Nat × Nat × Nat)
  regSoft : List (Nat × Nat × Nat)
  mxBad : List (Nat × Nat × Nat)
  mxSoft : List (Nat × Nat × Nat)
deriving DecidableEq, Repr

/-! ### Dies, stacks and ports -/

/-- A valid entry of an access table: rights, partition, and the first and last unit of its range (R240). -/
structure AccessEntry where
  rd : Bool
  wr : Bool
  part : Nat
  base : Nat
  limit : Nat
deriving DecidableEq, Repr

/-- A unit served in an open slot: the GTC of the slot, where, and whether it was written; one of an STNT, or of the host or the
office (R265). -/
structure ServedUnit where
  gtc : Nat
  stack : Nat
  chan : Nat
  bank : Nat
  write : Bool
  stnt : Bool
deriving DecidableEq, Repr

/-- The state of a stage slot (R209). -/
inductive SlotState where
  | empty
  | writing
  | full
  | reading
deriving DecidableEq, Repr

/-- A slot of a die's stage ring (R209); `part` is 0 while it is unassigned. -/
structure StageSlot where
  part : Nat
  k : Nat
  state : SlotState
  owner : Nat
  holder : Nat
deriving DecidableEq, Repr

structure Die where
  store : Mem
  ring : Vector StageSlot 16
  /-- The die port's access table (R240). -/
  access : List AccessEntry
  /-- TDIE (R405). -/
  tdie : Word
deriving DecidableEq, Repr

structure Stack where
  timing : Timing
  /-- The access table of the stack's channel controllers (R240). -/
  access : List AccessEntry
  /-- TSTACK (R268). -/
  tstack : Word
  /-- The near-memory commands of the four lanes: partition, lane, window start and end (R303). -/
  lanes : List (Nat × Nat × Nat × Nat)
  /-- The blocks of commands (lane, start, block) at which the near-memory unit's operand buffer holds an uncorrectable
  error, and those at which it holds a correctable one (R311). -/
  bufferErr : List (Nat × Nat × Nat)
  bufferSoft : List (Nat × Nat × Nat)
  /-- The band sampled at the bell (R266). -/
  hot : Bool
deriving DecidableEq, Repr

/-- What a port is trained for (R393). -/
inductive PortMode where
  | untrained
  | torus
  | host
deriving DecidableEq, Repr

/-- A run of entries of a port's slot table with V = 1: first slot, count, whether they are open, and the owning link
group (R380). A slot in no run has V = 0. -/
structure SlotRun where
  first : Nat
  count : Nat
  open_ : Bool
  group : Nat
deriving DecidableEq, Repr

structure Port where
  mode : PortMode
  table : List SlotRun
  /-- The port's access table (R240). -/
  access : List AccessEntry
  /-- Departure slots taken: GTC of the period's bell and slot (R384). -/
  taken : List (Nat × Nat)
  corrections : Nat
deriving DecidableEq, Repr

/-! ### Partitions -/

/-- A timeline of one owned pseudo-channel (R261). -/
structure Timeline where
  chan : Nat
  periods : Nat
  rows : List Word
  cols : List Word
deriving DecidableEq, Repr

/-- Why a partition is in recess (R338). -/
inductive Cause where
  | fault
  | preempt
  | thermal
  | hang
deriving DecidableEq, Repr

/-- The status of a partition (R23, R338, R351). -/
inductive Status where
  | loaded
  | running
  | recessed
  | retired
  | failing
deriving DecidableEq, Repr

/-- An engine that answers a roll call (R340, R342). -/
inductive Engine where
  | slots (core : Nat)
  | mx (core : Nat)
  | te (core : Nat)
  | channel (stack chan : Nat)
  | link (port : Nat)
  | nm (stack : Nat)
deriving DecidableEq, Repr

/-- A recess: entry cycle, GTC at entry, cause, index of the primary record, whether the roll call is complete, and the
engines that failed to acknowledge (R338, R342). -/
structure Recess where
  e : Nat
  gtcE : Nat
  cause : Cause
  primary : Option Nat
  rolled : Bool
  unread : List Engine
deriving DecidableEq, Repr

/-- A fault detected in the present cycle, before its partition's list takes it (R323): code, rank, source, bundle
address, issue cycle and detail words. -/
structure FaultNow where
  code : Nat
  rank : Nat
  src : Nat
  bundle : Word
  issue : Option Nat
  detail : List Word
  /-- The unit against which the prefect counts the event (R408). -/
  blame : Option ErrUnit
deriving DecidableEq, Repr

/-- An EQUIV line (R217, R348). -/
structure EquivLine where
  kind : Nat
  n : Nat
  v : Nat
  w : Nat
  rank : Nat
  rank2 : Nat
  x : Nat
  y : Nat
  z : Nat
deriving DecidableEq, Repr

/-- A SEGMENTS section (R217): die slot, head offsets by rank, and the block of segments. -/
structure SegBlock where
  slot : Nat
  heads : List (Nat × Option Nat)
  block : List Byte
deriving DecidableEq, Repr

/-- A DATA section (R217): rank, pointer and bytes. -/
structure DataImage where
  rank : Nat
  ptr : Nat
  bytes : List Byte
deriving DecidableEq, Repr

/-- A variant of a syllabus (R215 to R217). -/
structure Variant where
  ncore : Nat
  nslot : Nat
  groups : Nat
  segs : List SegBlock
  data : List DataImage
  stages : List Nat
  regions : List (BitVec 128)
  timelines : List Timeline
  links : List (Nat × Nat × Nat)
deriving DecidableEq, Repr

/-- A checked syllabus (R215). -/
structure Syllabus where
  name : List Byte
  level : Nat
  preds : List (List Byte)
  variants : List (Nat × Variant)
  pigeons : List Word
  equiv : List EquivLine
deriving DecidableEq, Repr

/-- An item pending at the start of a bell (R332): rank that issued it, kind code, issue cycle, source. -/
structure Pending where
  rank : Nat
  kind : Nat
  issue : Nat
  src : Nat
deriving DecidableEq, Repr

structure Part where
  num : Nat
  tenant : Nat
  sub : Nat
  variant : Nat
  /-- Physical core of each rank, and physical die of each die slot (R195). -/
  cores : List Nat
  dies : List Nat
  /-- Owned channel groups j, each as stack * 4 + group (R258). -/
  groups : List Nat
  /-- Program-store offset of each die slot's block (R56). -/
  offsets : List Nat
  base : Nat
  /-- What TTC is ahead of GTC minus the base, after a move to a line beyond GTC (R345, R349). -/
  ahead : Nat
  status : Status
  recess : Option Recess
  /-- A bell entry ordered for the next bell, or held while in recess (R338). -/
  order : Option Cause
  /-- The cycle at which the images are placed and the partition may start (R220). -/
  startBell : Nat
  pigLive : Vector Word 128
  pigLatched : Vector Word 128
  regions : List (BitVec 128)
  timelines : List Timeline
  faults : List (List Word)
  faultsNow : List FaultNow
  /-- The units that the records of data events are counted against, by record index (R408). -/
  blames : List (Nat × ErrUnit)
  /-- A fault that the full list could not record, or a course that fails whatever the list holds (R326, R350). -/
  mustFail : Bool
  /-- What was pending at the start of the latest bell (R332; log entry 2). -/
  pending : List Pending
  /-- The cycle whose bundles have been judged (R322). -/
  judged : Option Nat
  rbcnt : Nat
  /-- The checkpoint line in force, and whether a rollback was followed by no line yet: the causing record (R326). -/
  line : Nat
  causing : Option Nat
  /-- It recesses when the present cycle closes, after another member of its link group (R391). -/
  joining : Bool
  lastRollback : Option Nat
  /-- Live words of pigeonholes 64 to 125 and the stage slots at the line (R333). -/
  dupPig : List Word
  dupSlots : List StageSlot
  /-- One more than the TTC of the last TCHK or END, 0 before the first (R350). -/
  sign : Nat
  claims : List (Nat × Nat × Nat)
  /-- The link group that it is a member of (R381). -/
  group : Option Nat
  /-- Cores given away: the parked cores by rank (R344). -/
  parked : Option (List Core)
  /-- Where its stores stand in the parking area: first byte and length (R344). -/
  parkAt : List (Nat × Nat)
  /-- Its stage slots as they stood when the cores were given away (R333, R344). -/
  keptSlots : List StageSlot
  /-- What the placement page shows, as the registrar last wrote it: physical quads, variant, and the program-store offset of
  each die slot (R411). -/
  shown : List Nat
  shownVar : Nat
  shownOffsets : List Nat
  /-- GTC from which the partition may resume (R345). -/
  resumeFrom : Option Nat
  /-- The report card's address, once written, and the GTC of its last write (R351). -/
  card : Option (Nat × Nat)
  /-- The cycle of retirement, once reached (R221). -/
  retiredAt : Option Nat
  /-- The duty that it takes with its link group: the first period of an aligned group of 8, and how many periods of it another
  member takes (R405). -/
  groupDuty : Nat × Nat
deriving DecidableEq, Repr

/-! ### Launches, tenants, functions -/

/-- Where a launch stands (R218 to R221). -/
inductive LaunchState where
  | reading
  | queued
  | admitted
  | retired
  | failed
  | refused
deriving DecidableEq, Repr

structure Launch where
  sub : Nat
  fn : Nat
  tenant : Nat
  image : Nat
  len : Nat
  group : Nat
  members : Nat
  state : LaunchState
  /-- Its submission fields are such that it is refused (R397). -/
  malformed : Bool
  /-- Whether the registrar has begun to read its image, and the pieces read so far, `none` for one that cannot be read
  (R397). -/
  asked : Bool
  got : List (Option (List Byte))
  syl : Option Syllabus
  level : Nat
  preds : List Nat
  /-- Launches promoted from ahead of it, which it still waits for (R218). -/
  ahead : List Nat
  /-- Order of joining, 0 before it joins, and the bell since which it stands at its queue's head unadmitted (R218). -/
  joined : Nat
  headSince : Option Nat
  admitted : Nat
deriving DecidableEq, Repr

structure Tenant where
  num : Nat
  groups : List Nat
  keys : List (Nat × BitVec 512)
  /-- Physical base and length of the dump area (R351). -/
  dump : Nat
  dumpLen : Nat
deriving DecidableEq, Repr

/-- A function of the host port (R395 to R400). -/
structure Func where
  tenant : Option Nat
  sublo : Word
  subhi : Word
  sublen : Word
  subctl : Word
  seq : Nat
  evhead : Nat
  evlost : Nat
  evtail : Nat
  ring : Vector (Word × Word) 256
  map : List (Nat × MapEntry)
  aer : Nat
deriving DecidableEq, Repr

/-! ### The office -/

/-- The states of a handover (R358, R360). -/
inductive SvcState where
  | run
  | staged
  | quiesce
  | import_
  | probation
  | commit
  | fallback
  | failed
deriving DecidableEq, Repr

/-- A service core (R353 to R360): HBMON's fields, the deadline in force, image headers in the two slots, the handover
record, the highest FLOOR committed, the handover number, the journal, and whether its asynchronous work is held. -/
structure Svc where
  state : SvcState
  slot : Nat
  armed : Bool
  misses : Nat
  deadline : Option Nat
  probationEnd : Option Nat
  images : Vector (List Byte) 2
  record : List Byte
  floor : Nat
  seq : Nat
  journal : List JournalEntry
  held : Bool
deriving DecidableEq, Repr

/-- Entries of the office's flash log (R268, R362, R404). -/
inductive FlashEntry where
  | catastrophic (where_ tmax : Nat)
  | undervoltage
  | setAside (seq index type schema : Nat)
deriving DecidableEq, Repr

/-- What the module answers to its host or operator (DESIGN CHOICE, log entry 46). -/
inductive Reply where
  | data (fn : Nat) (bytes : List Byte)
  /-- The answer to an untimed read of a port, none for a poisoned unit (R253). -/
  | peer (port : Nat) (bytes : Option (List Byte))
  | poisoned (fn : Nat)
  | unsupported (fn : Nat)
  | signal (fn vector : Nat)
  | telemetry (words : List Word)
  | flash (entries : List FlashEntry)
  | quote (fn : Nat) (bytes : List Byte)
  | bandChange
deriving DecidableEq, Repr

/-- A counted error event: unit, whether it was uncorrectable, and its GTC (R267, R408). -/
structure ErrRec where
  unit : ErrUnit
  hard : Bool
  gtc : Nat
deriving DecidableEq, Repr

/-- Thermal duty ordered for an aligned group of 8 periods: the group's first period index, and the stacks and dies
that carry it, each with the periods that its order says (R269, R405). -/
structure Duty where
  first : Nat
  hbm : List (Nat × Nat)
  dies : List (Nat × Nat)
deriving DecidableEq, Repr

/-! ### The whole package -/

/-- A pending step: the clock on which it falls due (`none` GTC, `some p` the TTC of partition p), its cycle, its place
among the steps of that cycle, who caused it, and what it does (DESIGN CHOICE, log entry 2). -/
structure Timed where
  clock : Option Nat
  due : Nat
  key : List Nat
  who : Meta
  what : Work
deriving DecidableEq, Repr

/-- The step being executed: who, the slot or the pending work, and the slots of the bundle that follow
(DESIGN CHOICE, log entry 2). -/
structure Cursor where
  who : Meta
  slot : Nat
  work : Work
  todo : List Nat
deriving DecidableEq, Repr

/-- A use of a bank in the present cycle (R86): holder, bank, row, requester word and cycle (R406), and who made it. -/
structure BankUse where
  holder : Nat
  bank : Nat
  row : Nat
  req : Word
  cyc : Nat
  who : Meta
deriving DecidableEq, Repr

/-- A pigeonhole written in the present cycle: partition, number, writer's rank, old word (R80, R245). -/
structure PigWrite where
  part : Nat
  n : Nat
  rank : Nat
  old : Word
deriving DecidableEq, Repr

structure State where
  gtc : Nat
  /-- Power on (R268, R404), recovery mode (R402), and HSTAT.READY (R395). -/
  on : Bool
  recovery : Bool
  ready : Bool
  cur : Cursor
  due : List Timed
  /-- The model's own counter of free values (log entry 3). -/
  free : Nat
  bankUses : List BankUse
  pigWrites : List PigWrite
  /-- The rows appended (true) and removed in the present cycle, by core and queue (R146; log entry 2). -/
  moves : List (Nat × Nat × Bool)
  cores : Vector Core 384
  dies : Vector Die 4
  hbm : Vector Stack 8
  /-- Device memory: ciphertext by physical byte address (R232, R238); poisoned units with the unit that set the
  mark, uncorrectable and correctable units; and the requests on their way to the channel controllers (R264). -/
  dram : Mem
  poison : List (Nat × ErrUnit)
  dramBad : List Nat
  dramSoft : List Nat
  reqs : List MemReq
  ports : Vector Port 6
  /-- The access table of the pigeonhole block (R240). -/
  pigAccess : List AccessEntry
  /-- The accesses whose die-link transfer fails: core, issue cycle and source (R377). -/
  linkErrs : List (Nat × Nat × Nat)
  /-- What has left for the neighbours: the GTC of departure and the flit (R379, R384). -/
  sent : List (Nat × Flit)
  coords : Nat × Nat × Nat
  extents : Nat × Nat × Nat
  ideKeys : BitVec 512
  parts : List Part
  launches : List Launch
  subCount : Nat
  lastTenant : Vector Nat 4
  tenants : List Tenant
  fns : Vector Func 64
  /-- OFFEV and its event count (R361). -/
  offev : Word
  svcs : Vector Svc 3
  mlog : List Byte
  flash : List FlashEntry
  out : List Reply
  errs : List ErrRec
  lasting : List ErrUnit
  duty : List Duty
  /-- How many accesses outside the timetable have been presented (R265; log entry 2). -/
  unitCount : Nat
  /-- The units served in open slots over the last period: their banks and channels may still be busy (R265). -/
  served : List ServedUnit
  /-- Work that the office holds while a service is between images: which service, and the step held (R359). -/
  heldWork : List (Nat × Timed)
  /-- Channel groups under self-test, and the place in the parking area where each one's bank is parked (R270). -/
  testing : List Nat
  testAt : List (Nat × Nat)
  /-- The host's writes that wait for earlier ones, the earliest first, and the cycle in which the window last applied one
  (R254, R397). -/
  hostQueue : List Work
  applied : Option Nat
  /-- Engines that will not acknowledge a roll call (R342). -/
  stuck : List Engine
  /-- Whether a session authenticated under the operator key is open at the management port, and the input power and
  coolant temperature that the baseboard reads (R403). -/
  session : Bool
  inputPower : Word
  coolant : Word
deriving DecidableEq, Repr

/-- Why the machine stops. -/
inductive Fault where
  /-- The package has shut down (R268 band 3, R404): raised by `step` when power is off; safe, because nothing runs. -/
  | poweredOff
deriving DecidableEq, Repr

/-- Why a step is refused. -/
inductive Refusal where
  /-- An instruction without a meaning in this model: raised by `exec` for an arm not written yet; safe. -/
  | notModelled (mnemonic : String)
deriving DecidableEq, Repr

abbrev Outcome := Host.Outcome State Fault Refusal

/-! ### Launch values and reset -/

/-- Every lane 0. -/
def zeroLanes : Lanes := Vector.replicate 256 0

def Tie.launch : Tie := { img := zeroLanes, valid := true }

/-- A vector slot at launch (R24, R123, R150, R156): mask 0 reads ones. -/
def VecUnit.launch : VecUnit :=
  { regs := Vector.replicate 24 zeroLanes, masks := (Vector.replicate 8 0).set 0 (BitVec.allOnes 256), flags := 0,
    seed := 0, key := 0, keyLatch := 0, ctr := 0, ctrLatch := 0, ties := Vector.replicate 4 Tie.launch }

def Plane.launch : Plane := { rows := Vector.replicate 64 (Vector.replicate 64 0), fmt := 0, book := 0 }

/-- A row state at launch and after CHS (R162, R180): -infinity, +0, +0, 1.0, 0. -/
def RowState.launch : RowState := { cmax := 0xFF800000, csum := 0, ccomp := 0, cscl := 0x3F800000, status := 0 }

/-- The MX slot at launch (R162). -/
def Mx.launch : Mx :=
  { active := Plane.launch, shadow := Plane.launch, value := Vector.replicate 64 (Vector.replicate 128 0), dp := 0,
    rows := Vector.replicate 64 RowState.launch, cfg := 0, latched := 0, keyCounter := 0, blockCounter := 0,
    validity := 0, ancestry := 0, books := Vector.replicate 4 0, blocks := [], isOpen := false }

def Window.launch : Window := { e := 0, accs := Vector.replicate 256 { a := 0, sat := false, nan := false } }

/-- A sequencer with an empty loop buffer (R24). -/
def Seq.empty : Seq :=
  { halfA := none, halfB := none, inB := false, idx := 0, filler := false, levels := [], next := .stop, nextLevels := [],
    nextAt := 0, issued := 0, xfer := none, jump := false, delay := 0,
    inDelay := false }

/-- A core's registers as a core reset leaves them (R24, R162, R276). -/
def Ctx.reset : Ctx :=
  { life := .idle, s := Vector.replicate 32 0, g := 1, p := Vector.replicate 16 0, d := Vector.replicate 16 zeroLanes,
    l := Vector.replicate 4 0, ag := Vector.replicate 4 0, va := VecUnit.launch, vb := VecUnit.launch, ttch := 0,
    gtch := 0, pid := 0, stg := 0, pcore := 0, spwe := 0, queues := Vector.replicate 12 [], mx := Mx.launch,
    h := Vector.replicate 16 0, etag := 0, windows := Vector.replicate 8 Window.launch,
    bars := Vector.replicate 48 { expected := 0, count := 0 }, tags := Vector.replicate 128 0, seq := Seq.empty,
    seqBefore := Seq.empty, solo := none }

def Core.reset : Core :=
  { ctx := Ctx.reset, spad := [], bad := [], soft := [], corrections := 0, undo := [], dup := none, shadow := none,
    syndrome := List.replicate 16 0, te := [], nm := [], stnts := [], away := [], wasReset := false, regBad := [],
    regSoft := [], mxBad := [], mxSoft := [] }

/-- An unassigned slot, and an empty one at launch: owner and holder 0 (DESIGN CHOICE, log entry 22). -/
def StageSlot.free : StageSlot := { part := 0, k := 0, state := .empty, owner := 0, holder := 0 }

/-- DUTY 4 and every other field 0 (R268, R405). -/
def thermalReset : Word := 0x8000

def Die.reset : Die := { store := [], access := [], ring := Vector.replicate 16 StageSlot.free, tdie := thermalReset }

/-- DESIGN CHOICE, log entry 5. -/
def Timing.reset : Timing :=
  { tRCD := 0, tRP := 0, tRAS := 0, tRC := 0, tRRD := 0, tFAW := 0, tCCD := 0, tWR := 0, tRTP := 0, tWTR := 0,
    tRTW := 0, tRFC := 0, tRFCpb := 0, tREFI := 0, tREFIhot := 0 }

def Stack.reset : Stack :=
  { timing := Timing.reset, access := [], tstack := thermalReset, lanes := [], bufferErr := [], bufferSoft := [],
    hot := false }

def Port.reset : Port := { mode := .untrained, table := [], access := [], taken := [], corrections := 0 }

def Func.reset : Func :=
  { tenant := none, sublo := 0, subhi := 0, sublen := 0, subctl := 0, seq := 0, evhead := 0, evlost := 0, evtail := 0,
    ring := Vector.replicate 256 (0, 0), map := [], aer := 0 }

def Svc.reset : Svc :=
  { state := .run, slot := 0, armed := false, misses := 0, deadline := none, probationEnd := none,
    images := Vector.replicate 2 [], record := [], floor := 0, seq := 0, journal := [], held := false }

/-- Nobody: the office or an agent outside the cores. -/
def Meta.none : Meta := { core := 0, issue := 0, src := 13, bundle := 0xFFFFFFFF }

/-- The machine right after reset: no partition, no pending step but the bell of GTC 0 (R2) (DESIGN CHOICE, log entry 1). -/
def State.reset : State :=
  { gtc := 0, on := true, recovery := false, ready := false, cur := { who := Meta.none, slot := 0, work := .bell, todo := [] },
    due := [{ clock := none, due := 0, key := [0], who := Meta.none, what := .bell }], free := 0, bankUses := [],
    pigWrites := [], moves := [], cores := Vector.replicate 384 Core.reset, dies := Vector.replicate 4 Die.reset,
    hbm := Vector.replicate 8 Stack.reset, dram := [], poison := [], dramBad := [], dramSoft := [], reqs := [],
    ports := Vector.replicate 6 Port.reset, pigAccess := [], linkErrs := [], sent := [], coords := (0, 0, 0),
    extents := (1, 1, 1), ideKeys := 0, parts := [],
    launches := [], subCount := 0, lastTenant := Vector.replicate 4 0, tenants := [],
    fns := Vector.replicate 64 Func.reset, offev := 0, svcs := Vector.replicate 3 Svc.reset,
    mlog := List.replicate 64 0, flash := [], out := [], errs := [], lasting := [], duty := [], unitCount := 0, served := [], heldWork := [],
    testing := [], testAt := [], hostQueue := [], applied := none, stuck := [], session := false, inputPower := 0, coolant := 0 }

end Sys2Proof.Machine
end

