-- ==== Sys2Proof/Machine/Memory.lean ====
section
/-! DEFINITION. Bytes, words and the canonical sparse memory (00 R6, log entry 4). -/
namespace Sys2Proof.Machine

/-! ### Bytes and words, little-endian (R6) -/

/-- A little-endian number of `n` bytes at an offset. -/
def num (bs : List Byte) (o n : Nat) : Nat := leNat ((bs.drop o).take n)

/-- The `n` little-endian bytes of a number. -/
def leBytes : Nat → Nat → List Byte
  | 0, _ => []
  | n + 1, v => BitVec.ofNat 8 v :: leBytes n (v / 256)

def wordBytes (w : Word) : List Byte := leBytes 4 w.toNat

def bytesOf (ws : List Word) : List Byte := ws.flatMap wordBytes

/-- The words of a list of bytes, four at a time; a last part of fewer bytes is a word of its own. -/
def wordsOf : List Byte → List Word
  | a :: b :: c :: d :: rest => BitVec.ofNat 32 (leNat [a, b, c, d]) :: wordsOf rest
  | [] => []
  | rest => [BitVec.ofNat 32 (leNat rest)]

def lo32 (v : Nat) : Word := BitVec.ofNat 32 v
def hi32 (v : Nat) : Word := BitVec.ofNat 32 (v / 2 ^ 32)

/-- The 256 lanes that a list of words gives, with 0 in the lanes beyond it. -/
def lanesOf (ws : List Word) : Lanes := Vector.ofFn fun i => ws.getD i.val 0

/-- The number whose bit i, for i below `n`, is `f i`. -/
def bitsNat (f : Nat → Bool) : Nat → Nat
  | 0 => 0
  | n + 1 => bitsNat f n + (if f n then 2 ^ n else 0)

/-- The lane mask whose bit i is `f i`. -/
def maskOf (f : Nat → Bool) : Mask := BitVec.ofNat 256 (bitsNat f 256)

def zeroWords (n : Nat) : List Word := List.replicate n 0

/-! ### Memory -/

/-- The canonical form: addresses strictly rising, no byte equal to what an unlisted address reads as. -/
def Mem.wf : Mem → Bool
  | [] => true
  | [(_, b)] => b != 0
  | (a, b) :: (a', b') :: rest => b != 0 && decide (a < a') && Mem.wf ((a', b') :: rest)

/-- The byte at an address. -/
def Mem.read : Mem → Nat → Byte
  | [], _ => 0
  | (a, b) :: rest, x => if a = x then b else Mem.read rest x

/-- Writing one byte. -/
def Mem.write : Mem → Nat → Byte → Mem
  | [], x, v => if v = 0 then [] else [(x, v)]
  | (a, b) :: rest, x, v =>
    if x < a then (if v = 0 then (a, b) :: rest else (x, v) :: (a, b) :: rest)
    else if x = a then (if v = 0 then rest else (x, v) :: rest)
    else (a, b) :: Mem.write rest x v

/-- `n` bytes from an address. -/
def Mem.readBytes (m : Mem) (a : Nat) : Nat → List Byte
  | 0 => []
  | n + 1 => m.read a :: Mem.readBytes m (a + 1) n

/-- Bytes written from an address. -/
def Mem.writeBytes : Mem → Nat → List Byte → Mem
  | m, _, [] => m
  | m, a, b :: bs => Mem.writeBytes (m.write a b) (a + 1) bs

/-- A little-endian word. -/
def Mem.readWord (m : Mem) (a : Nat) : Word := BitVec.ofNat 32 (leNat (m.readBytes a 4))

end Sys2Proof.Machine
end

