-- ==== Sys2Proof/Machine/Ops.lean ====
section
/-! DEFINITION. The shared operations of the machine: cores and partitions, pending steps, register writes, queues,
and taking a fault (01 R10 to R15, 06 R141 to R145, 18 R320 to R327, 19 R338 to R340). -/
namespace Sys2Proof.Machine

/-! ### Sorting and small helpers -/

/-- Insertion before the first element that does not come before it. -/
def insertBy {α : Type} (lt : α → α → Bool) (x : α) : List α → List α
  | [] => [x]
  | y :: ys => if lt x y then x :: y :: ys else y :: insertBy lt x ys

def sortBy {α : Type} (lt : α → α → Bool) (xs : List α) : List α := xs.foldr (insertBy lt) []

/-- The lexicographic order of keys; a list comes before its extensions. -/
def keyLt : List Nat → List Nat → Bool
  | [], [] => false
  | [], _ :: _ => true
  | _ :: _, [] => false
  | a :: as, b :: bs => if a < b then true else if b < a then false else keyLt as bs

/-- Bits [hi:lo] of a number. -/
def field (n hi lo : Nat) : Nat := n / 2 ^ lo % 2 ^ (hi - lo + 1)

def b2w (b : Bool) : Word := if b then 1 else 0

/-! ### Cores and partitions -/

def State.core (s : State) (c : Nat) : Core := s.cores[c]?.getD Core.reset
def State.setCore (s : State) (c : Nat) (k : Core) : State := { s with cores := s.cores.setIfInBounds c k }
def State.modCore (s : State) (c : Nat) (f : Core → Core) : State := s.setCore c (f (s.core c))
def State.ctx (s : State) (c : Nat) : Ctx := (s.core c).ctx
def State.modCtx (s : State) (c : Nat) (f : Ctx → Ctx) : State := s.modCore c fun k => { k with ctx := f k.ctx }
def State.modMx (s : State) (c : Nat) (f : Mx → Mx) : State := s.modCtx c fun x => { x with mx := f x.mx }

def State.die (s : State) (d : Nat) : Die := s.dies[d]?.getD Die.reset
def State.modDie (s : State) (d : Nat) (f : Die → Die) : State := { s with dies := s.dies.setIfInBounds d (f (s.die d)) }

def State.fn (s : State) (n : Nat) : Func := s.fns[n]?.getD Func.reset
def State.modFn (s : State) (n : Nat) (f : Func → Func) : State := { s with fns := s.fns.setIfInBounds n (f (s.fn n)) }

/-- The core, issue cycle and slot of the step being executed. -/
def State.me (s : State) : Nat := s.cur.who.core
def State.t (s : State) : Nat := s.cur.who.issue
def State.myCtx (s : State) : Ctx := s.ctx s.me

def State.part (s : State) (p : Nat) : Option Part := s.parts.find? fun q => q.num == p
def State.modPart (s : State) (p : Nat) (f : Part → Part) : State :=
  { s with parts := s.parts.map fun q => if q.num == p then f q else q }

/-- A partition with nothing placed in it yet. -/
def Part.fresh (num tenant : Nat) (cores : List Nat) (base : Nat) (status : Status) : Part :=
  { num := num, tenant := tenant, sub := 0, variant := 0, cores := cores, dies := [], groups := [], offsets := [],
    base := base, ahead := 0, status := status, recess := none, order := none, startBell := base,
    pigLive := Vector.replicate 128 0, pigLatched := Vector.replicate 128 0, regions := [], timelines := [],
    faults := [], faultsNow := [], blames := [], mustFail := false, pending := [], judged := none, rbcnt := 0, line := 0,
    causing := none, joining := false, lastRollback := none, dupPig := [], dupSlots := [], sign := 0, claims := [], group := none,
    parked := none, parkAt := [], keptSlots := [], shown := [], shownVar := 0, shownOffsets := [], resumeFrom := none, card := none, retiredAt := none,
    groupDuty := (0, 0) }

/-- The partition a core belongs to, 0 for none (R19), and its rank (R196). -/
def Ctx.part (x : Ctx) : Nat := x.pid.toNat % 256
def Ctx.rank (x : Ctx) : Nat := x.pcore.toNat % 65536
def State.partOf (s : State) (c : Nat) : Nat := (s.ctx c).part
def State.rankOf (s : State) (c : Nat) : Nat := (s.ctx c).rank

/-- A partition's TTC: GTC minus its base, which a move may set below 0, frozen at E in recess (R3, R338, R345). -/
def Part.ttc (q : Part) (gtc : Nat) : Nat := match q.recess with
  | some r => r.e
  | none => gtc + q.ahead - q.base
def State.ttc (s : State) (p : Nat) : Nat := match s.part p with
  | some q => q.ttc s.gtc
  | none => s.gtc
/-- The TTC of the partition of the step being executed. -/
def State.now (s : State) : Nat := s.ttc (s.partOf s.me)

/-- Whether a partition's TTC runs (R198, R338): it has started and is not in recess. -/
def Part.runs (q : Part) : Bool := (q.status == .running || q.status == .retired) && q.recess.isNone

def Part.coreAt (q : Part) (rank : Nat) : Option Nat := q.cores[rank]?

/-- The die, cluster and core fields of a physical core number (R18, R194). -/
def dieOf (c : Nat) : Nat := c / 96
def clusterOf (c : Nat) : Nat := c / 8 % 12

/-- CID (R18): the package coordinates and the core's place. -/
def State.cid (s : State) (c : Nat) : Word :=
  BitVec.ofNat 32 (s.coords.1 % 8 * 2 ^ 15 + s.coords.2.1 % 8 * 2 ^ 12 + s.coords.2.2 % 8 * 2 ^ 9 + dieOf c * 2 ^ 7
    + clusterOf c * 2 ^ 3 + c % 8)

/-- How far another core of the package is (R230): itself, its cluster, its die, or another die. -/
inductive Reach where
  | self
  | cluster
  | die
  | far
deriving DecidableEq, Repr

def reach (a b : Nat) : Reach :=
  if a = b then .self else if a / 8 = b / 8 then .cluster else if a / 96 = b / 96 then .die else .far

/-! ### Pending steps -/

/-- A step falling due at a cycle of the present partition's TTC. -/
def State.sched (s : State) (due : Nat) (key : List Nat) (what : Work) : State :=
  { s with due := s.due ++ [{ clock := some (s.partOf s.me), due := due, key := key, who := s.cur.who, what := what }] }

/-- A step falling due at a cycle of GTC. -/
def State.schedG (s : State) (due : Nat) (key : List Nat) (what : Work) : State :=
  { s with due := s.due ++ [{ clock := none, due := due, key := key, who := Meta.none, what := what }] }

/-- A step of nobody falling due at a cycle of a partition's TTC. -/
def State.schedOn (s : State) (p due : Nat) (key : List Nat) (what : Work) : State :=
  { s with due := s.due ++ [{ clock := some p, due := due, key := key, who := Meta.none, what := what }] }

/-- A register write of the present instruction, `lat` cycles after its issue (R13, R14). -/
def State.write (s : State) (lat : Nat) (w : RegWrite) : State :=
  s.sched (s.t + lat) [10, s.t, s.cur.who.src] (.registerWrite s.me w)

/-- A write to MX state, in the order of R164. -/
def State.mxWrite (s : State) (lat : Nat) (what : Work) : State := s.sched (s.t + lat) [10, s.t, 4] what

/-- Dropping the pending steps that a core's sequencer awaits: its next bundle, or a segment's expansion. -/
def State.dropIssue (s : State) (c : Nat) : State :=
  { s with due := s.due.filter fun x => match x.what with | .bundleIssue k => k != c | _ => true }
def State.dropExpansion (s : State) (c : Nat) : State :=
  { s with due := s.due.filter fun x => match x.what with | .segmentExpansion k _ _ => k != c | _ => true }

/-- The next bundle of a core with context `x` issues at a cycle of its partition's TTC. -/
def State.issueFor (s : State) (x : Ctx) (c due : Nat) : State :=
  { s with due := s.due ++ [{ clock := some x.part, due := due, key := [80, x.rank],
                              who := { core := c, issue := due, src := 0, bundle := 0xFFFFFFFF },
                              what := .bundleIssue c }] }
def State.issueAt (s : State) (c due : Nat) : State := s.issueFor (s.ctx c) c due

/-- A segment of the die's store becomes resident at a cycle of the core's partition's TTC (R48). -/
def State.expandFor (s : State) (x : Ctx) (c due : Nat) (half : Bool) (off : Nat) : State :=
  { s with due := s.due ++ [{ clock := some x.part, due := due, key := [12, c],
                              who := { core := c, issue := due, src := 0, bundle := 0xFFFFFFFF },
                              what := .segmentExpansion c half off }] }
def State.expandAt (s : State) (c due : Nat) (half : Bool) (off : Nat) : State := s.expandFor (s.ctx c) c due half off

/-- The program store of a core's die (R43). -/
def State.store (s : State) (c : Nat) : Mem := (s.die (dieOf c)).store
/-- The expansion cost of the segment whose header stands at an offset, from its LEN as stored (R48, R71). -/
def State.costAt (s : State) (c off : Nat) : Nat := expansionCost (decodeHeader ((s.store c).readBytes off 16)).len

/-- The segment whose header stands at an offset of the store of a core's die. A byte that LEN asks for beyond the end of
the store reads 0, of which R46 says nothing (DESIGN CHOICE, log entry 47). -/
def State.segmentAt (s : State) (c off : Nat) : Segment :=
  let m := s.store c
  parseSegment off (m.readBytes off (segmentSize (decodeHeader (m.readBytes off 16)).len))

/-- Dropping the pending steps that a predicate picks. -/
def State.dropDue (s : State) (f : Timed → Bool) : State := { s with due := s.due.filter fun x => !f x }

/-- Every pending step of a partition. -/
def Timed.ofPart (p : Nat) (x : Timed) : Bool := x.clock == some p

/-- Whether a pending step is due in the present cycle. -/
def State.isDue (s : State) (x : Timed) : Bool := match x.clock with
  | none => decide (x.due ≤ s.gtc)
  | some p => match s.part p with
    | some q => q.runs && decide (x.due ≤ q.ttc s.gtc)
    | none => false

/-- The pending steps due in the present cycle. -/
def State.dueNow (s : State) : List Timed := s.due.filter s.isDue

/-! ### Taking a fault (R320 to R327) -/

/-- Recording a fault at the present cycle in a partition: it enters recess when the cycle closes (R322). -/
def State.raisePart (s : State) (p : Nat) (f : FaultNow) : State :=
  s.modPart p fun q => { q with faultsNow := q.faultsNow ++ [f] }

/-- Recording a fault at the present cycle on a core. -/
def State.raiseFor (s : State) (blame : Option ErrUnit) (core code src : Nat) (bundle : Word) (issue : Option Nat)
    (detail : List Word) : State :=
  s.raisePart (s.partOf core)
    { code := code, rank := s.rankOf core, src := src, bundle := bundle, issue := issue, detail := detail, blame := blame }
def State.raiseAt (s : State) (core code src : Nat) (bundle : Word) (issue : Option Nat) (detail : List Word) : State :=
  s.raiseFor none core code src bundle issue detail

/-- A fault of the step being executed, recorded on the core that caused it. -/
def State.raise (s : State) (code : Nat) (detail : List Word) : State :=
  s.raiseAt s.me code s.cur.who.src s.cur.who.bundle (some s.t) detail

/-- A refusal at a scratchpad, recorded on the core that holds the bank, with a bundle only when that core made the access
(R323) (DEDUCED, log entry 24). -/
def State.raiseHolder (s : State) (holder code : Nat) (detail : List Word) : State :=
  s.raiseAt holder code s.cur.who.src (if s.me = holder then s.cur.who.bundle else 0xFFFFFFFF) (some s.t) detail

/-- A fault of the step being executed that a data event of a unit caused (R408). -/
def State.raiseBlame (s : State) (u : Option ErrUnit) (code : Nat) (detail : List Word) : State :=
  s.raiseFor u s.me code s.cur.who.src s.cur.who.bundle (some s.t) detail

/-- The same under another source code of R325. -/
def State.raiseAs (s : State) (src code : Nat) (detail : List Word) : State :=
  s.raiseAt s.me code src s.cur.who.bundle (some s.t) detail

/-- The primary fault of one cycle: lowest code, then lowest rank, then lowest source (R323). -/
def FaultNow.before (a b : FaultNow) : Bool := keyLt [a.code, a.rank, a.src] [b.code, b.rank, b.src]
def FaultNow.after (a b : FaultNow) : Bool := keyLt [a.rank, a.src] [b.rank, b.src]

/-- The order of the records of one cycle: the primary first, then by rank and source (R326);
of records that agree in these the one that a step raised first stands first (DESIGN CHOICE, log entry 20). -/
def orderFaults (fs : List FaultNow) : List FaultNow :=
  match sortBy FaultNow.before fs with
  | [] => []
  | f :: rest => f :: sortBy FaultNow.after rest

/-- Word 0 of a record (R325). -/
def header (ret : Bool) (src cause idx code : Nat) : Word :=
  BitVec.ofNat 32 (2 ^ 31 + (if ret then 2 ^ 30 else 0) + src % 16 * 2 ^ 24 + cause % 256 * 2 ^ 16 + idx % 256 * 2 ^ 8
    + code % 256)

/-- A record of 16 words (R324). -/
def FaultNow.words (f : FaultNow) (idx cause d line rbcnt ulog : Nat) : List Word :=
  [header false f.src cause idx f.code, f.bundle, lo32 d, hi32 d] ++
  (match f.issue with | some t => [lo32 t, hi32 t] | none => [0xFFFFFFFF, 0xFFFFFFFF]) ++
  ((f.detail ++ zeroWords 8).take 8) ++
  [BitVec.ofNat 32 (line / 4032), BitVec.ofNat 32 (rbcnt % 65536 * 65536 + ulog % 65536)]

/-- The cause index of the faults of this cycle: the primary record of the recess that runs, or the one that led to the
rollback after which no line has come yet (R326). -/
def Part.causeNow (q : Part) : Nat := ((q.recess.bind (·.primary)) <|> q.causing).getD 0xFF

/-- Appending the records of this cycle to a fault list that holds 64; a record beyond them fails the launch (R326). -/
def Part.record (q : Part) (gtc : Nat) (ulog : Nat → Nat) : List FaultNow → Part
  | [] => q
  | f :: fs =>
    let idx := q.faults.length
    let q' := if idx < 64 then
        { q with faults := q.faults ++ [f.words idx q.causeNow (q.ttc gtc) q.line q.rbcnt (ulog f.rank)],
                 blames := q.blames ++ (f.blame.toList.map fun u => (idx, u)) }
      else { q with mustFail := true }
    Part.record q' gtc ulog fs

/-- Bank words of a rank's core logged since the line (R324). -/
def State.ulog (s : State) (q : Part) (rank : Nat) : Nat := match q.coreAt rank with
  | some c => (s.core c).undo.length
  | none => 0

/-- The cores of a partition take a new life (R23): running to recessed, or back. -/
def State.relive (s : State) (q : Part) (from_ next : Life) : State :=
  q.cores.foldl (fun s c => s.modCtx c fun x => if x.life = from_ then { x with life := next } else x) s

/-- Entering recess at the present cycle (R338): TTC freezes at E, and the roll call completes 3072 cycles later. -/
def State.enterRecess (s : State) (p : Nat) (cause : Cause) (primary : Option Nat) : State := match s.part p with
  | none => s
  | some q =>
    let r : Recess := { e := q.ttc s.gtc, gtcE := s.gtc, cause := cause, primary := primary, rolled := false,
                        unread := [] }
    ((s.modPart p fun q => { q with status := .recessed, recess := some r }).relive q .running .recessed).schedG
      (s.gtc + 3072) [] (.rollCallComplete p)

/-- A recess that a fault joins becomes one for a fault, with its first record as the primary, and its course is open again,
unless it was a fault's before; a hang stays one (R342, R391). -/
def Part.faulted (q : Part) (primary : Option Nat) : Part := match q.recess with
  | none => q
  | some r =>
    if r.cause = .hang then q
    else { q with recess := some { r with cause := .fault, primary := r.primary <|> primary },
                  resumeFrom := if r.cause = .fault then q.resumeFrom else none }

/-- The end of a cycle for one partition: the faults of the cycle become records, and a running partition enters recess
(R322, R326), as does one that follows another member of its link group; one in recess already takes the fault's course
(R342, R391). -/
def State.closePart (s : State) (q : Part) : State :=
  if q.faultsNow.isEmpty then
    (if q.joining then
      let s := s.modPart q.num fun x => { x.faulted none with joining := false }
      if q.runs then s.enterRecess q.num .fault none else s
    else s)
  else
    let first := q.faults.length
    let q' := { Part.record q s.gtc (s.ulog q) (orderFaults q.faultsNow) with faultsNow := [] }
    let s := s.modPart q.num fun _ => q'.faulted (some first)
    if q.recess.isSome then s else s.enterRecess q.num .fault (some first)

def State.closeFaults (s : State) : State := s.parts.foldl State.closePart s

/-! ### Register files -/

/-- An s register as the S slot reads it: s0 reads 0 (R10). -/
def Ctx.rs (x : Ctx) (n : Nat) : Word := if n = 0 then 0 else x.s[n]?.getD 0
/-- A guard: g0 reads true (R10). -/
def Ctx.rg (x : Ctx) (n : Nat) : Bool := if n = 0 then true else x.g.getLsbD n
/-- A pointer: p0 reads 0 (R10). -/
def Ctx.rp (x : Ctx) (n : Nat) : Ptr := if n = 0 then 0 else x.p[n]?.getD 0
def Ctx.rd (x : Ctx) (n : Nat) : Lanes := x.d[n]?.getD zeroLanes
def Ctx.rl (x : Ctx) (n : Nat) : Mask := x.l[n]?.getD 0
def Ctx.rag (x : Ctx) (n : Nat) : BitVec 256 := x.ag[n]?.getD 0
def Ctx.rh (x : Ctx) (n : Nat) : BitVec 128 := x.h[n]?.getD 0

def Ctx.unit (x : Ctx) : VSlot → VecUnit
  | .a => x.va
  | .b => x.vb
def Ctx.modUnit (x : Ctx) (u : VSlot) (f : VecUnit → VecUnit) : Ctx := match u with
  | .a => { x with va := f x.va }
  | .b => { x with vb := f x.vb }

def VecUnit.rv (v : VecUnit) (n : Nat) : Lanes := v.regs[n]?.getD zeroLanes
/-- A lane mask: mask 0 reads all ones (R123). -/
def VecUnit.rm (v : VecUnit) (n : Nat) : Mask := if n = 0 then BitVec.allOnes 256 else v.masks[n]?.getD 0

/-- Merging the bits of `val` that `mask` selects into `old`, lane by lane (R125). -/
def mergeLanes (old mask val : Lanes) : Lanes :=
  Vector.ofFn fun i => (old[i] &&& ~~~mask[i]) ||| (val[i] &&& mask[i])

/-- Every bit of every lane. -/
def allLanes : Lanes := Vector.replicate 256 0xFFFFFFFF
/-- The lanes that a mask selects. -/
def laneMask (m : Mask) : Lanes := Vector.ofFn fun i => if m.getLsbD i.val then 0xFFFFFFFF else 0

/-- A register write landing (R13): writes to s0, g0 and p0 and to mask 0 are discarded (R10, R123). -/
def Ctx.apply (x : Ctx) : RegWrite → Ctx
  | .s n w => if n = 0 then x else { x with s := x.s.setIfInBounds n w }
  | .g mask val => { x with g := (x.g &&& ~~~mask) ||| (val &&& mask) ||| 1 }
  | .p n w => if n = 0 then x else { x with p := x.p.setIfInBounds n w }
  | .d n mask val => { x with d := x.d.setIfInBounds n (mergeLanes (x.rd n) mask val) }
  | .l n mask val => { x with l := x.l.setIfInBounds n ((x.rl n &&& ~~~mask) ||| (val &&& mask)) }
  | .ag n mask val => { x with ag := x.ag.setIfInBounds n ((x.rag n &&& ~~~mask) ||| (val &&& mask)) }
  | .v u n mask val => x.modUnit u fun v => { v with regs := v.regs.setIfInBounds n (mergeLanes (v.rv n) mask val) }
  | .vm u n mask val =>
    if n = 0 then x
    else x.modUnit u fun v => { v with masks := v.masks.setIfInBounds n ((v.rm n &&& ~~~mask) ||| (val &&& mask)) }
  | .flagsSet u f => x.modUnit u fun v => { v with flags := v.flags ||| f }
  | .flagsWrite u f => x.modUnit u fun v => { v with flags := f }
  | .seed u hi w => x.modUnit u fun v =>
    { v with seed := if hi then (w.zeroExtend 64 <<< 32) ||| (v.seed &&& 0xFFFFFFFF)
                     else (v.seed &&& 0xFFFFFFFF00000000) ||| w.zeroExtend 64 }
  | .key u k => x.modUnit u fun v => { v with key := k }
  | .ctr u c => x.modUnit u fun v => { v with ctr := c }
  | .tie u n img => x.modUnit u fun v => { v with ties := v.ties.setIfInBounds n { img := img, valid := tieValid img } }
  | .h n v => { x with h := x.h.setIfInBounds n v }
  | .etag v => { x with etag := v }
  | .spwe w => { x with spwe := w &&& 0x007FFFF0 }
  | .barExpected n v => { x with bars := x.bars.setIfInBounds n { (x.bars[n]?.getD ⟨0, 0⟩) with expected := v } }
  | .dp v => { x with mx := { x.mx with dp := v % 64 } }
  | .keyCounter => { x with mx := { x.mx with keyCounter := x.mx.keyCounter + 1 } }
  | .solo mask => { x with solo := some mask }
  | .tag n v => { x with tags := x.tags.setIfInBounds n v }
  | .fault _ _ _ => x
where
  /-- A table is valid when lo is finite and e lies from -126 to 104 (R151). -/
  tieValid (img : Lanes) : Bool :=
    (img[0].toNat / 2 ^ 23 % 256 != 255) && decide (-126 ≤ img[1].toInt) && decide (img[1].toInt ≤ 104)

/-! ### Queues (R141, R145) -/

/-- Rows a queue holds at most: 64 for a link queue, 8 for the others (R141). -/
def queueCap (q : Nat) : Nat := if 4 ≤ q ∧ q ≤ 9 then 64 else 8

def Ctx.queue (x : Ctx) (q : Nat) : List Row := x.queues[q]?.getD []
def Ctx.setQueue (x : Ctx) (q : Nat) (rows : List Row) : Ctx := { x with queues := x.queues.setIfInBounds q rows }

/-- Appending a row as a queue's newest: a full queue raises the queue fault on the core that the present step names,
with the issue or start cycle concerned, and takes nothing (R144, R165). -/
def State.append (s : State) (c q cyc : Nat) (r : Row) : State :=
  let rows := (s.ctx c).queue q
  if rows.length < queueCap q then
    { s.modCtx c (fun x => x.setQueue q (rows ++ [r])) with moves := s.moves ++ [(c, q, true)] }
  else s.raise 0x14 [BitVec.ofNat 32 q, lo32 cyc, BitVec.ofNat 32 rows.length]

/-- Removing a queue's head, or leaving it when the read is a peek. -/
def State.take (s : State) (c q : Nat) (peek : Bool) : State :=
  if peek then s
  else { s.modCtx c (fun x => x.setQueue q ((x.queue q).drop 1)) with moves := s.moves ++ [(c, q, false)] }

/-- The rows of a queue at the start of the present cycle (R146). -/
def State.occupancy (s : State) (c q : Nat) : Nat :=
  ((s.ctx c).queue q).length + (s.moves.filter fun m => m == (c, q, false)).length
    - (s.moves.filter fun m => m == (c, q, true)).length

/-! ### The bundle that issues -/

def Seq.half (q : Seq) (b : Bool) : Option Half := if b then q.halfB else q.halfA
def Seq.setHalf (q : Seq) (b : Bool) (h : Option Half) : Seq := if b then { q with halfB := h } else { q with halfA := h }
/-- The resident segment (R47). -/
def Seq.resident (q : Seq) : Option Segment := (q.half q.inB).bind (·.seg)
/-- SEGB: the offset of the resident segment; before the first bundle issues, of the segment that it will enter (R22,
R24). -/
def Seq.segOff (q : Seq) : Nat := match q.half q.inB <|> q.half (!q.inB) with
  | some h => h.off
  | none => 0
/-- The slot words of the bundle that issued last. -/
def Seq.words (q : Seq) : List Nat := if q.filler then [] else
  match q.resident with
  | some g => (g.bundles[q.idx]?).getD []
  | none => []
def Ctx.word (x : Ctx) (slot : Nat) : Nat := x.seq.words[slot]?.getD 0
/-- The bundle address word of a record (R324). -/
def Seq.bundleAddr (q : Seq) : Word := BitVec.ofNat 32 (q.idx % 256 * 2 ^ 24 + q.segOff % 2 ^ 23)

/-- Whether a guard field lets its instruction take effect (R11). -/
def Ctx.guard (x : Ctx) (g : Nat) (neg : Bool) : Bool := x.rg g ^^ neg

/-- A change of the launch of a submission. -/
def State.modLaunch (s : State) (sub : Nat) (f : Launch → Launch) : State :=
  { s with launches := s.launches.map fun l => if l.sub == sub then f l else l }
def State.launch (s : State) (sub : Nat) : Option Launch := s.launches.find? fun l => l.sub == sub

/-! ### Services that hold their work (R359) -/

/-- Whether a service of the office holds its work (R359): prefect 0, registrar 1, porter 2. -/
def State.holds (s : State) (v : Nat) : Bool := (s.svcs[v]?.getD Svc.reset).held

/-- The present step is held until the service serves again, and is then made as `who`. -/
def State.laterFor (s : State) (who : Meta) (v : Nat) : State :=
  { s with heldWork := s.heldWork ++ [(v, { clock := none, due := s.gtc, key := [0, 9], who := who, what := s.cur.work })] }
def State.later (s : State) (v : Nat) : State := s.laterFor s.cur.who v

/-! ### Free values (log entry 3) -/

def State.drawNat (s : State) : Nat × State := (Config.freeNat s.free, { s with free := s.free + 1 })
def State.drawWord (s : State) : Word × State := (Config.freeWord s.free, { s with free := s.free + 1 })

end Sys2Proof.Machine
end

