-- ==== Sys2Proof/Machine/Cipher.lean ====
section
/-! DEFINITION. The cipher of device memory (11 R238): AES-256 in XTS mode over data units of 64 bytes, as the named
standard has it (log entry 11). -/
namespace Sys2Proof.Machine

/-! ### The field of 256 elements -/

/-- Multiplication by x, modulo x^8 + x^4 + x^3 + x + 1, on the number that stands for an element. -/
def xtime (a : Nat) : Nat := (2 * a % 256) ^^^ (a / 128 * 0x1B)

/-- The product of two elements, over the low `n` bits of the second. -/
def gmulBits : Nat → Nat → Nat → Nat
  | 0, _, _ => 0
  | n + 1, a, b => (b % 2 * a) ^^^ gmulBits n (xtime a) (b / 2)
def gmul (a b : Byte) : Byte := BitVec.ofNat 8 (gmulBits 8 a.toNat b.toNat)

/-- The inverse, the 254th power; 0 for 0. -/
def ginv (a : Byte) : Byte :=
  let a2 := gmul a a
  let a4 := gmul a2 a2
  let a8 := gmul a4 a4
  let a16 := gmul a8 a8
  let a32 := gmul a16 a16
  let a64 := gmul a32 a32
  gmul (gmul (gmul a2 a4) (gmul a8 a16)) (gmul (gmul a32 a64) (gmul a64 a64))

def sub (a : Byte) : Byte :=
  let b := ginv a
  b ^^^ b.rotateLeft 1 ^^^ b.rotateLeft 2 ^^^ b.rotateLeft 3 ^^^ b.rotateLeft 4 ^^^ 0x63
def subInv (a : Byte) : Byte := ginv (a.rotateLeft 1 ^^^ a.rotateLeft 3 ^^^ a.rotateLeft 6 ^^^ 0x05)

/-! ### Blocks of 16 bytes, column after column -/

def at16 (s : List Byte) (i : Nat) : Byte := s.getD i 0
def xorBytes (a b : List Byte) : List Byte := List.zipWith (· ^^^ ·) a b

/-- Row r of the state moves by r columns. -/
def shiftRows (s : List Byte) : List Byte := (List.range 16).map fun i => at16 s ((i + 4 * (i % 4)) % 16)
def shiftRowsInv (s : List Byte) : List Byte := (List.range 16).map fun i => at16 s ((i + 12 * (i % 4)) % 16)

/-- Each column times a circulant matrix whose first row is given. -/
def mixWith (c : List Byte) (s : List Byte) : List Byte := (List.range 16).map fun i =>
  (List.range 4).foldl (fun x j => x ^^^ gmul (at16 c ((j + 4 - i % 4) % 4)) (at16 s (i / 4 * 4 + j))) 0
def mixColumns : List Byte → List Byte := mixWith [2, 3, 1, 1]
def mixColumnsInv : List Byte → List Byte := mixWith [14, 11, 13, 9]

/-! ### Key schedule of AES-256 -/

/-- The next words of the schedule from the last eight, `i` being the index of the next word. -/
def nextKeyWord (prev8 last : List Byte) (i : Nat) (rcon : Byte) : List Byte :=
  let t := if i % 8 = 0 then
      xorBytes ((last.drop 1 ++ last.take 1).map sub) [rcon, 0, 0, 0]
    else if i % 8 = 4 then last.map sub else last
  xorBytes prev8 t

/-- The words of the schedule, last first, extended by `n` words. -/
def extendKey : Nat → Nat → Byte → List (List Byte) → List (List Byte)
  | 0, _, _, ws => ws
  | n + 1, i, rcon, ws =>
    extendKey n (i + 1) (if i % 8 = 0 then gmul 2 rcon else rcon)
      (nextKeyWord (ws.getD 7 []) (ws.getD 0 []) i rcon :: ws)

/-- The 15 round keys of a 32-byte key. -/
def roundKeys (key : List Byte) : List (List Byte) :=
  let ws := ((List.range 8).map fun i => (key.drop (4 * i)).take 4).reverse
  let all := (extendKey 52 8 1 ws).reverse
  (List.range 15).map fun r => ((all.drop (4 * r)).take 4).flatten

def encryptRounds : List (List Byte) → List Byte → List Byte
  | [], s => s
  | [k], s => xorBytes (shiftRows (s.map sub)) k
  | k :: ks, s => encryptRounds ks (xorBytes (mixColumns (shiftRows (s.map sub))) k)
def aesEncrypt (ks : List (List Byte)) (s : List Byte) : List Byte := match ks with
  | [] => s
  | k :: rest => encryptRounds rest (xorBytes s k)

def decryptRounds : List (List Byte) → List Byte → List Byte
  | [], s => s
  | [k], s => xorBytes ((shiftRowsInv s).map subInv) k
  | k :: ks, s => decryptRounds ks (mixColumnsInv (xorBytes ((shiftRowsInv s).map subInv) k))
def aesDecrypt (ks : List (List Byte)) (s : List Byte) : List Byte := match ks.reverse with
  | [] => s
  | k :: rest => decryptRounds rest (xorBytes s k)

/-! ### XTS -/

/-- The tweak of the next block: times x in the field of 2^128 elements. -/
def nextTweak (t : Nat) : Nat := (2 * t % 2 ^ 128) ^^^ (if t / 2 ^ 127 % 2 = 1 then 0x87 else 0)

/-- The blocks of a unit under successive tweaks. -/
def xtsBlocks (f : List Byte → List Byte) : Nat → Nat → List Byte → List Byte
  | 0, _, _ => []
  | n + 1, t, bs =>
    let tw := leBytes 16 t
    xorBytes (f (xorBytes (bs.take 16) tw)) tw ++ xtsBlocks f n (nextTweak t) (bs.drop 16)

/-- A 512-bit key: the data key in the low half, the tweak key in the high half, little-endian (log entry 11). -/
def xtsUnit (enc : Bool) (key : BitVec 512) (unit : Nat) (bs : List Byte) : List Byte :=
  let k1 := roundKeys (leBytes 32 (key.toNat % 2 ^ 256))
  let k2 := roundKeys (leBytes 32 (key.toNat / 2 ^ 256))
  let t := leNat (aesEncrypt k2 (leBytes 16 unit))
  xtsBlocks (if enc then aesEncrypt k1 else aesDecrypt k1) 4 t bs

end Sys2Proof.Machine
end

