-- ==== Sys2Proof/Machine/Float.lean ====
section
/-! DEFINITION. Number formats and rounding (05 R99 to R110, 06 R127): values as exact dyadic numbers, one rounding
function for every format and mode, and sums of exact products. -/
namespace Sys2Proof.Machine

/-! ### Flags (R110) -/

abbrev Flags := BitVec 6
def fINV : Flags := 0x01
def fDZ : Flags := 0x02
def fOVF : Flags := 0x04
def fUNF : Flags := 0x08
def fINX : Flags := 0x10
def fSAT : Flags := 0x20

/-! ### Values -/

/-- A floating-point value: a NaN with its FP32 code and whether it signals, an infinity, or (-1)^neg * m * 2^e. -/
inductive FV where
  | nan (w : Word) (sig : Bool)
  | inf (neg : Bool)
  | fin (neg : Bool) (m : Nat) (e : Int)
deriving DecidableEq, Repr

def FV.isNaN : FV → Bool
  | .nan _ _ => true
  | _ => false
def FV.sig : FV → Bool
  | .nan _ s => s
  | _ => false
def FV.isInf : FV → Bool
  | .inf _ => true
  | _ => false
def FV.neg : FV → Bool
  | .nan w _ => w.getLsbD 31
  | .inf n => n
  | .fin n _ _ => n
def FV.isZero : FV → Bool
  | .fin _ m _ => m == 0
  | _ => false
/-- The value with its sign inverted; the sign of a NaN is kept (R127). -/
def FV.negate : FV → FV
  | .nan w s => .nan w s
  | .inf n => .inf !n
  | .fin n m e => .fin (!n) m e
/-- The value times 2^k; NaNs, infinities and zeros keep their kind. -/
def FV.scale (k : Int) : FV → FV
  | .fin n m e => .fin n m (e + k)
  | v => v

/-- An FP32 code (R99, R100). -/
def FV.of32 (w : Word) : FV :=
  let n := w.toNat
  let ex : Nat := n / 2 ^ 23 % 256
  let fr : Nat := n % 2 ^ 23
  let s := w.getLsbD 31
  if ex = 255 then (if fr = 0 then .inf s else .nan w (!w.getLsbD 22))
  else if ex = 0 then .fin s fr (-149)
  else .fin s (fr + 2 ^ 23) (ex - 150)

/-- A BF16 code: the FP32 value of its bits followed by 16 zeros (R99). -/
def FV.ofBF16 (n : Nat) : FV := FV.of32 (BitVec.ofNat 32 (n % 65536 * 65536))

/-- The canonical quiet NaN with a sign (R115). -/
def qnan (s : Bool) : FV := .nan (if s then 0xFFC00000 else 0x7FC00000) false

/-- A narrow code of `f` fraction bits, bias `b` and sign bit `sb` (R100). -/
def FV.narrow (f : Nat) (b : Int) (sb n : Nat) : FV :=
  let s := n / 2 ^ sb % 2 == 1
  let mag := n % 2 ^ sb
  let ex : Nat := mag / 2 ^ f
  let fr : Nat := mag % 2 ^ f
  if ex = 0 then .fin s fr (1 - b - f) else .fin s (fr + 2 ^ f) (ex - b - f)

def FV.ofE4M3 (n : Nat) : FV := if n % 128 = 0x7F then qnan (n / 128 % 2 == 1) else FV.narrow 3 7 7 (n % 256)
def FV.ofE5M2 (n : Nat) : FV :=
  let s := n / 128 % 2 == 1
  if n % 128 = 0x7C then .inf s else if 0x7C < n % 128 then qnan s else FV.narrow 2 15 7 (n % 256)
def FV.ofE2M1 (n : Nat) : FV := FV.narrow 1 1 3 (n % 16)

/-! ### Dyadic numbers: an integer times a power of two -/

/-- An integer with the exponent of its last bit. -/
structure Dy where
  m : Int
  e : Int
deriving DecidableEq, Repr

def Dy.align (d : Dy) (e : Int) : Int := d.m * 2 ^ (d.e - e).toNat
def Dy.add (a b : Dy) : Dy := let e := min a.e b.e; ⟨a.align e + b.align e, e⟩
def Dy.sub (a b : Dy) : Dy := let e := min a.e b.e; ⟨a.align e - b.align e, e⟩
def Dy.mul (a b : Dy) : Dy := ⟨a.m * b.m, a.e + b.e⟩
def Dy.le (a b : Dy) : Bool := let e := min a.e b.e; decide (a.align e ≤ b.align e)
def Dy.lt (a b : Dy) : Bool := let e := min a.e b.e; decide (a.align e < b.align e)
def Dy.eq (a b : Dy) : Bool := let e := min a.e b.e; decide (a.align e = b.align e)

/-- A finite value as a dyadic number; 0 for any other. -/
def FV.dy : FV → Dy
  | .fin n m e => ⟨if n then -(m : Int) else m, e⟩
  | _ => ⟨0, 0⟩

/-- The order of values that are not NaN, with -0 equal to +0. -/
def FV.lt : FV → FV → Bool
  | .inf n, .inf n' => n && !n'
  | .inf n, _ => n
  | _, .inf n => !n
  | a, b => a.dy.lt b.dy
def FV.eq : FV → FV → Bool
  | .inf n, .inf n' => n == n'
  | .inf _, _ => false
  | _, .inf _ => false
  | a, b => a.dy.eq b.dy

/-! ### Formats and rounding (R99, R106 to R109) -/

/-- A format: fraction bits, smallest normal exponent, largest finite code, infinity code, width. -/
structure Fmt where
  f : Nat
  emin : Int
  max : Nat
  inf : Option Nat
  width : Nat

def fp32 : Fmt := ⟨23, -126, 0x7F7FFFFF, some 0x7F800000, 32⟩
def bf16 : Fmt := ⟨7, -126, 0x7F7F, some 0x7F80, 16⟩
def e5m2 : Fmt := ⟨2, -14, 0x7B, some 0x7C, 8⟩
def e4m3 : Fmt := ⟨3, -6, 0x7E, none, 8⟩
def e2m1 : Fmt := ⟨1, 0, 0x7, none, 4⟩

/-- The rounding modes (R35, R106): SR with its seed and the exponent of the source spacing (R108). -/
inductive Rnd where
  | rne
  | rz
  | ru
  | rd
  | sr (seed : BitVec 64) (ulp : Int)
deriving DecidableEq, Repr

/-- The rounding codes 0 to 3 (R35). -/
def Rnd.of : Nat → Rnd
  | 1 => .rz
  | 2 => .ru
  | 3 => .rd
  | _ => .rne

/-- The dither function (R109). -/
def mix (seed : BitVec 64) (dd : Nat) : Word :=
  let x := BitVec.ofNat 32 dd ^^^ seed.truncate 32
  let x := x * 0x4C957F2D
  let x := x ^^^ (x >>> 15)
  let x := x + (seed >>> 32).truncate 32
  let x := x * 0x3A8F05C5
  x ^^^ (x >>> 13)

/-- Whether the magnitude K + rem / 2^shift (a little more when `sticky`) rounds up to K + 1 (R106, R108); `q` is the
exponent of the kept spacing. -/
def roundsUp (r : Rnd) (neg : Bool) (k rem shift : Nat) (sticky : Bool) (q : Int) : Bool :=
  let half := 2 ^ (shift - 1)
  match r with
  | .rne => decide (half < rem) || (rem == half && (sticky || k % 2 == 1))
  | .rz => false
  | .ru => !neg
  | .rd => neg
  | .sr seed ulp =>
    let wd := min (q - ulp).toNat 32
    let dd := rem * 2 ^ wd / 2 ^ shift
    decide (2 ^ wd ≤ dd + (mix seed dd).toNat / 2 ^ (32 - wd))

/-- What a magnitude beyond the largest finite value becomes (R107). -/
def Fmt.beyond (F : Fmt) (r : Rnd) (neg : Bool) : Nat × Flags := match F.inf with
  | none => (F.max, fSAT ||| fINX)
  | some i => (match r with
    | .rne => i
    | .sr _ _ => i
    | .ru => if neg then F.max else i
    | .rd => if neg then i else F.max
    | .rz => F.max, fOVF ||| fINX)

/-- The kept integer of the magnitude m * 2^e (plus a little when `sticky`), its spacing's exponent, and whether it is
inexact. -/
def keep (f : Nat) (emin : Int) (r : Rnd) (neg : Bool) (m : Nat) (e : Int) (sticky : Bool) : Nat × Int × Bool :=
  let top := (Nat.log2 m : Int) + e
  let q := max top emin - f
  if q ≤ e then (m * 2 ^ (e - q).toNat, q, sticky)
  else
    let shift := (q - e).toNat
    let k := m / 2 ^ shift
    let rem := m % 2 ^ shift
    let inexact := rem != 0 || sticky
    ((if inexact && roundsUp r neg k rem shift sticky q then k + 1 else k), q, inexact)

/-- Rounding the magnitude m * 2^e, or one a little above it when `sticky`, into a format: the code with its sign, and
the flags (R106, R107). -/
def Fmt.round (F : Fmt) (r : Rnd) (neg : Bool) (m : Nat) (e : Int) (sticky : Bool := false) : Nat × Flags :=
  let sgn := if neg then 2 ^ (F.width - 1) else 0
  if m = 0 ∧ ¬ sticky then (sgn, 0)
  else
    let (k, q, inexact) := keep F.f F.emin r neg m e sticky
    let code := k + (q - (F.emin - F.f)).toNat * 2 ^ F.f
    if F.max < code then
      let (c, fl) := F.beyond r neg
      (sgn + c, fl)
    else
      let tiny := decide ((Nat.log2 m : Int) + e < F.emin)
      (sgn + code, if inexact then (if tiny then fUNF ||| fINX else fINX) else 0)

/-- Rounding a dyadic number into FP32, with the sign of an exact zero. -/
def round32 (r : Rnd) (d : Dy) (zeroNeg : Bool) : Word × Flags :=
  if d.m = 0 then ((if zeroNeg then 0x80000000 else 0), 0)
  else
    let (c, fl) := fp32.round r (decide (d.m < 0)) d.m.natAbs d.e
    (BitVec.ofNat 32 c, fl)

/-! ### Arithmetic (R127) -/

/-- An exact product; `none` when it is 0 times an infinity. -/
def FV.mul : FV → FV → Option FV
  | .nan w s, _ => some (.nan w s)
  | _, .nan w s => some (.nan w s)
  | .inf n, .inf n' => some (.inf (n ^^ n'))
  | .inf n, .fin n' m _ => if m = 0 then none else some (.inf (n ^^ n'))
  | .fin n m _, .inf n' => if m = 0 then none else some (.inf (n ^^ n'))
  | .fin n m e, .fin n' m' e' => some (.fin (n ^^ n') (m * m') (e + e'))

/-- A NaN's code with bit 22 set (R127). -/
def quiet (w : Word) : Word := w ||| 0x00400000

/-- The sum of terms without NaNs, rounded once (R127): infinities of opposite sign are invalid; a sum of zeros of one
sign keeps it, and any other exact zero is +0, or -0 under RD. -/
def sumTerms (r : Rnd) (ts : List FV) : Word × Flags :=
  let pos := ts.any fun t => t.isInf && !t.neg
  let neg := ts.any fun t => t.isInf && t.neg
  if pos && neg then (0x7FC00000, fINV)
  else if pos then (0x7F800000, 0)
  else if neg then (0xFF800000, 0)
  else
    let zeroNeg :=
      if ts.all fun t => t.isZero && t.neg then !ts.isEmpty
      else if ts.all fun t => t.isZero && !t.neg then false
      else r = .rd
    round32 r (ts.foldl (fun d t => d.add t.dy) ⟨0, 0⟩) zeroNeg

/-- An operation on operands `ops` (in the order in which a NaN is chosen) whose result is the sum of `terms`; `none`
among the terms is an invalid product (R127) (DEDUCED, log entry 28). -/
def arith (r : Rnd) (ops : List FV) (terms : List (Option FV)) : Word × Flags :=
  let sig := ops.any FV.sig
  let bad := terms.any Option.isNone
  match ops.find? FV.isNaN with
  | some (.nan w _) => (quiet w, if sig || bad then fINV else 0)
  | _ => if bad then (0x7FC00000, fINV) else sumTerms r (terms.filterMap id)

def fadd (r : Rnd) (a b : Word) : Word × Flags :=
  let x := FV.of32 a; let y := FV.of32 b
  arith r [x, y] [some x, some y]
def fsub (r : Rnd) (a b : Word) : Word × Flags :=
  let x := FV.of32 a; let y := FV.of32 b
  arith r [x, y] [some x, some y.negate]
def fmul (r : Rnd) (a b : Word) : Word × Flags :=
  let x := FV.of32 a; let y := FV.of32 b
  arith r [x, y] [x.mul y]
/-- (-1)^np * a * b + (-1)^nc * c, rounded once (R129). -/
def ffma (r : Rnd) (np nc : Bool) (a b c : Word) : Word × Flags :=
  let x := FV.of32 a; let y := FV.of32 b; let z := FV.of32 c
  arith r [x, y, z] [(x.mul y).map fun p => if np then p.negate else p, some (if nc then z.negate else z)]

/-- rn() of sums, products and fused sums, for the rules that keep no flags. -/
def rnAdd (a b : Word) : Word := (fadd .rne a b).1
def rnSub (a b : Word) : Word := (fsub .rne a b).1
def rnMul (a b : Word) : Word := (fmul .rne a b).1

/-- FMIN and FMAX (R130): -0 below +0, equal operands give the first, one NaN gives the other operand. -/
def fminmax (isMax : Bool) (a b : Word) : Word × Flags :=
  let x := FV.of32 a; let y := FV.of32 b
  let fl : Flags := if x.sig || y.sig then fINV else 0
  let less (u v : FV) (wu wv : Word) : Bool :=
    if u.isZero && v.isZero then wu.getLsbD 31 && !wv.getLsbD 31 else u.lt v
  match x.isNaN, y.isNaN with
  | true, true => (quiet a, fl)
  | true, false => (b, fl)
  | false, true => (a, fl)
  | false, false => (if isMax then (if less x y a b then b else a) else (if less y x b a then b else a), fl)

/-- The compare conditions of R132 by sub code: 0 eq, 1 ne, 2 lt, 3 le, 4 unordered. -/
def fcmp (cond : Nat) (a b : Word) : Bool × Flags :=
  let x := FV.of32 a; let y := FV.of32 b
  let un := x.isNaN || y.isNaN
  let fl : Flags := if x.sig || y.sig || (un && (cond == 2 || cond == 3)) then fINV else 0
  (match cond with
    | 0 => !un && x.eq y
    | 1 => un || !x.eq y
    | 2 => !un && x.lt y
    | 3 => !un && (x.lt y || x.eq y)
    | _ => un, fl)

/-- FCLASS (R133). -/
def fclass (a : Word) : Word := match FV.of32 a with
  | .nan _ s => if s then 0x100 else 0x200
  | .inf n => if n then 0x001 else 0x080
  | .fin n m _ =>
    if m = 0 then (if n then 0x008 else 0x010)
    else if m < 2 ^ 23 then (if n then 0x004 else 0x020)
    else (if n then 0x002 else 0x040)

/-! ### Conversions (R113 to R115) -/

/-- The exponent of the FP32 spacing at a value (R108). -/
def ulp32 (w : Word) : Int :=
  let ex : Nat := w.toNat / 2 ^ 23 % 256
  if ex = 0 then -149 else (ex : Int) - 150

/-- The mode that a rounding code names, with the seed and source spacing of SR (R35, R108). -/
def Rnd.ofCode (code : Nat) (seed : BitVec 64) (ulp : Int) : Rnd := if code = 4 then .sr seed ulp else Rnd.of code

/-- FP32 to a narrow float format, given its NaN code and what an infinity becomes (R114, R115). -/
def narrowTo (F : Fmt) (r : Rnd) (w : Word) : Nat × Flags :=
  let sgn := if w.getLsbD 31 then 2 ^ (F.width - 1) else 0
  match FV.of32 w with
  | .nan _ s =>
    (if F.width = 16 then w.toNat / 65536 ||| 0x40
     else if F.f = 3 then sgn + 0x7F else sgn + 0x7E, if s then fINV else 0)
  | .inf _ => match F.inf with
    | some i => (sgn + i, 0)
    | none => (sgn + F.max, fSAT ||| fINX)
  | .fin n m e => F.round r n m e

/-- FP32 to INT32 (R107, R114, R115). -/
def toInt32 (r : Rnd) (w : Word) : Word × Flags := match FV.of32 w with
  | .nan _ _ => (0, fINV)
  | .inf n => (if n then 0x80000000 else 0x7FFFFFFF, fINV ||| fSAT)
  | .fin n m e =>
    let (k, inexact) :=
      if 0 ≤ e then (m * 2 ^ e.toNat, false)
      else
        let shift := (-e).toNat
        let k := m / 2 ^ shift
        let rem := m % 2 ^ shift
        ((if rem != 0 && roundsUp r n k rem shift false 0 then k + 1 else k), rem != 0)
    let lim := if n then 2 ^ 31 else 2 ^ 31 - 1
    if lim < k then (if n then 0x80000000 else 0x7FFFFFFF, fINV ||| fSAT)
    else (if n then -(BitVec.ofNat 32 k) else BitVec.ofNat 32 k, if inexact then fINX else 0)

/-- INT32 to FP32, to nearest (R114). -/
def ofInt32 (w : Word) : Word × Flags := round32 .rne ⟨w.toInt, 0⟩ false

/-- A narrow value as FP32: exact, with NaNs quieted (R114, R115). -/
def widen (v : FV) : Word × Flags := match v with
  | .nan w s => (quiet w, if s then fINV else 0)
  | .inf n => (if n then 0xFF800000 else 0x7F800000, 0)
  | .fin n m e =>
    let (c, fl) := fp32.round .rne n m e
    (BitVec.ofNat 32 c, fl)

end Sys2Proof.Machine
end

