-- ==== Sys2Proof/Machine/Funcs.lean ====
section
/-! DEFINITION. Special functions, table interpolation, reductions, statistics, the random generator, and the block and
codebook conversions (07 R148 to R160, 05 R116 to R121). -/
namespace Sys2Proof.Machine

/-! ### Special functions, correctly rounded (R148, R149)

e^x and ln x are formed with 512 fractional bits, far beyond what any FP32 input needs to decide the rounding (log
entry 8); neither is representable for the inputs that reach them, so the result is always inexact. -/

/-- Fractional bits of the fixed-point numbers (DEDUCED, log entry 8). -/
def fixP : Nat := 512

/-- The remaining terms of the exponential series from the term of index `k`. -/
def expSeries (y : Int) : Nat → Nat → Int → Int
  | 0, _, _ => 0
  | fuel + 1, k, term => term + expSeries y fuel (k + 1) (term * y / 2 ^ fixP / (k + 1))

def squareTimes : Nat → Nat → Nat
  | 0, r => r
  | n + 1, r => squareTimes n (r * r / 2 ^ fixP)

/-- e^x in fixed point. -/
def expFix (x : Int) : Nat := squareTimes 8 (expSeries (x / 2 ^ 8) 100 0 (2 ^ fixP)).toNat

/-- z + z^3/3 + z^5/5 + ... in fixed point, from the power of index 2k+1. -/
def atanhSeries (z2 : Nat) : Nat → Nat → Nat → Nat
  | 0, _, _ => 0
  | fuel + 1, k, p => p / (2 * k + 1) + atanhSeries z2 fuel (k + 1) (p * z2 / 2 ^ fixP)

/-- ln (a / b) for 1 ≤ a / b ≤ 2. -/
def lnRatio (a b : Nat) : Nat :=
  let z := (a - b) * 2 ^ fixP / (a + b)
  2 * atanhSeries (z * z / 2 ^ fixP) 180 0 z

/-- ln (m * 2^e) in fixed point. -/
def lnFix (m : Nat) (e : Int) : Int :=
  let l := Nat.log2 m
  (lnRatio m (2 ^ l) : Int) + (l + e) * lnRatio 2 1

/-- The integer square root, one bit at a time from bit `k` - 1. -/
def isqrtBits (n : Nat) : Nat → Nat → Nat
  | 0, r => r
  | k + 1, r => isqrtBits n k (if (r + 2 ^ k) * (r + 2 ^ k) ≤ n then r + 2 ^ k else r)

def w32 (p : Nat × Flags) : Word × Flags := (BitVec.ofNat 32 p.1, p.2)

def fexp (w : Word) : Word × Flags := match FV.of32 w with
  | .nan w s => (quiet w, if s then fINV else 0)
  | .inf n => (if n then 0 else 0x7F800000, 0)
  | .fin n m e =>
    let d := (FV.fin n m e).dy
    if m = 0 then (0x3F800000, 0)
    else if Dy.lt ⟨200, 0⟩ d then w32 (fp32.round .rne false 1 200 true)
    else if d.lt ⟨-200, 0⟩ then w32 (fp32.round .rne false 1 (-300) true)
    else w32 (fp32.round .rne false (expFix (d.m * 2 ^ ((fixP : Int) + d.e).toNat)) (-512) true)

def flog (w : Word) : Word × Flags := match FV.of32 w with
  | .nan w s => (quiet w, if s then fINV else 0)
  | .inf n => if n then (0x7FC00000, fINV) else (0x7F800000, 0)
  | .fin n m e =>
    if m = 0 then (0xFF800000, fDZ)
    else if n then (0x7FC00000, fINV)
    else if w = 0x3F800000 then (0, 0)
    else let v := lnFix m e
      w32 (fp32.round .rne (decide (v < 0)) v.natAbs (-512) true)

def frcp (w : Word) : Word × Flags := match FV.of32 w with
  | .nan w s => (quiet w, if s then fINV else 0)
  | .inf n => (if n then 0x80000000 else 0, 0)
  | .fin n m e =>
    if m = 0 then (if n then 0xFF800000 else 0x7F800000, fDZ)
    else w32 (fp32.round .rne n (2 ^ 96 / m) (-96 - e) (2 ^ 96 % m != 0))

def frsq (w : Word) : Word × Flags := match FV.of32 w with
  | .nan w s => (quiet w, if s then fINV else 0)
  | .inf n => if n then (0x7FC00000, fINV) else (0, 0)
  | .fin n m e =>
    if m = 0 then (if n then 0xFF800000 else 0x7F800000, fDZ)
    else if n then (0x7FC00000, fINV)
    else
      let m' := if e % 2 = 0 then m else 2 * m
      let e' := if e % 2 = 0 then e else e - 1
      let r := isqrtBits (2 ^ 160 / m') 81 0
      w32 (fp32.round .rne false r (-80 - e' / 2) (r * r * m' != 2 ^ 160))

/-! ### Table interpolation (R150 to R153) -/

/-- TIEV on one lane: a table image with its validity bit. The exact difference x - b of a linear rule is +0 when it is 0, a -0
included (DEDUCED, log entry 52). -/
def tiev (img : Lanes) (valid : Bool) (x : Word) : Word × Flags :=
  let at_ (i : Nat) : Word := img[i]?.getD 0
  let v := FV.of32 x
  if ¬ valid then (0x7FC00000, fINV)
  else match v with
    | .nan w s => (quiet w, if s then fINV else 0)
    | _ =>
      let lo := (FV.of32 (at_ 0)).dy
      let e := (at_ 1).toInt
      let linear (s c : Word) (b : Dy) : Word × Flags :=
        if s = 0 ∨ s = 0x80000000 then (c, 0)
        else
          let diff := match v with
            | .inf n => FV.inf n
            | _ => let d := v.dy.sub b; FV.fin (decide (d.m < 0)) d.m.natAbs d.e
          arith .rne [FV.of32 s, v, FV.of32 c] [(FV.of32 s).mul diff, some (FV.of32 c)]
      if v.lt (FV.of32 (at_ 0)) then linear (at_ 194) (at_ 195) lo
      else
        let hi := lo.add ⟨64, e⟩
        let above := match v with
          | .inf _ => true
          | _ => hi.le v.dy
        if above then linear (at_ 196) (at_ 197) hi
        else
          let d := v.dy.sub lo
          let k := (d.m * 2 ^ (d.e - e).toNat / 2 ^ (e - d.e).toNat).toNat
          let t := round32 .rne (v.dy.sub (lo.add ⟨k, e⟩)) false
          let p := ffma .rne false false t.1 (at_ (4 + 3 * k)) (at_ (3 + 3 * k))
          let y := ffma .rne false false t.1 p.1 (at_ (2 + 3 * k))
          (y.1, t.2 ||| p.2 ||| y.2)

/-! ### Lane reductions and statistics (R154, R155) -/

/-- One level of the pairwise tree; absent lanes add nothing. -/
def pairLevel (f : Word → Word → Word × Flags) : List (Option Word) → List (Option Word) × Flags
  | a :: b :: rest =>
    let (r, fl) := pairLevel f rest
    match a, b with
    | some x, some y => (some (f x y).1 :: r, (f x y).2 ||| fl)
    | some x, none => (some x :: r, fl)
    | none, y => (y :: r, fl)
  | [a] => ([a], 0)
  | [] => ([], 0)

/-- The tree over 2^n lanes. -/
def pairTree (f : Word → Word → Word × Flags) : Nat → List (Option Word) → List (Option Word) × Flags
  | 0, xs => (xs, 0)
  | n + 1, xs =>
    let (ys, fl) := pairLevel f xs
    let (r, fl') := pairTree f n ys
    (r, fl ||| fl')

/-- A group of 2^n lanes reduced, with the result of a group without selected lanes. -/
def reduce (f : Word → Word → Word × Flags) (n : Nat) (empty : Word) (xs : List (Option Word)) : Word × Flags :=
  match pairTree f n xs with
  | (some w :: _, fl) => (w, fl)
  | (_, fl) => (empty, fl)

/-- The running sums of R155. -/
def statSums (c : Word) : List Word → Word → Word → Flags → Word × Word × Flags
  | [], s1, s2, fl => (s1, s2, fl)
  | x :: xs, s1, s2, fl =>
    let d := fsub .rne x c
    let a := fadd .rne s1 d.1
    let b := ffma .rne false false d.1 d.1 s2
    statSums c xs a.1 b.1 (fl ||| d.2 ||| a.2 ||| b.2)

/-- A word times 2^-n, rounded once. -/
def scaleDown (n : Nat) (w : Word) : Word × Flags :=
  let v := FV.of32 w
  arith .rne [v] [some (v.scale (-(n : Int)))]

/-- Mean, variance and flags of a group of 2^n lanes (R155). -/
def stat (n : Nat) (xs : List Word) : Word × Word × Flags :=
  let vs := xs.map FV.of32
  if vs.any fun v => v.isNaN || v.isInf then
    let r := match vs.find? FV.isNaN with
      | some (.nan w _) => quiet w
      | _ => 0x7FC00000
    (r, r, if vs.any FV.sig || !vs.any FV.isNaN then fINV else 0)
  else
    let c := xs.headD 0
    let (s1, s2, fl) := statSums c xs 0 0 0
    let q := scaleDown n s1
    let mean := if s1 = 0 ∨ s1 = 0x80000000 then (c, 0) else fadd .rne c q.1
    let h := scaleDown n s2
    let v := ffma .rne true false q.1 q.1 h.1
    let x := FV.of32 v.1
    let var := if x.isNaN then v.1 else if x.neg then 0 else v.1
    (mean.1, var, fl ||| q.2 ||| mean.2 ||| h.2 ||| v.2)

/-! ### The random generator (R157) -/

def rotl (x : Word) (n : Nat) : Word := x.rotateLeft n

def gRound (x0 x1 x2 x3 k0 k1 : Word) : Word × Word × Word × Word :=
  let x0 := x0 + (x1 ^^^ k0); let x3 := rotl (x3 ^^^ x0) 13
  let x2 := x2 + (x3 ^^^ k1); let x1 := rotl (x1 ^^^ x2) 9
  let x0 := x0 + x1; let x3 := rotl (x3 ^^^ x0) 17
  let x2 := x2 + x3; let x1 := rotl (x1 ^^^ x2) 5
  (x0, x1, x2, x3)

def gRounds : Nat → Word → Word → Word → Word → Word → Word → Word
  | 0, x0, x1, x2, x3, _, _ => x0 ^^^ x1 ^^^ x2 ^^^ x3
  | n + 1, x0, x1, x2, x3, k0, k1 =>
    let (x0, x1, x2, x3) := gRound x0 x1 x2 x3 k0 k1
    gRounds n x0 x1 x2 x3 (k0 + 0x9E3779B9) (k1 + 0x9E3779B9)

/-- G(key, c). -/
def gWord (key : BitVec 64) (c : BitVec 128) : Word :=
  gRounds 6 (c.truncate 32) ((c >>> 32).truncate 32) ((c >>> 64).truncate 32) ((c >>> 96).truncate 32)
    (key.truncate 32) ((key >>> 32).truncate 32)

/-! ### MX blocks (R116 to R118) -/

/-- The scale, codes and flags of one block (R117): largest-exponent `emax` and format `F`. -/
def mxBlock (F : Fmt) (emax : Int) (code : Nat) (seed : BitVec 64) (xs : List Word) : Nat × List Nat × Flags :=
  let vs := xs.map FV.of32
  if vs.any FV.isNaN then (0xFF, xs.map fun _ => 0, if vs.any FV.sig then fINV else 0)
  else
    let tops := vs.filterMap fun v => match v with
      | .fin _ m e => if m = 0 then none else some ((Nat.log2 m : Int) + e)
      | _ => none
    let e : Int := match tops.max? with
      | none => 0
      | some t => max (t - emax) (-127)
    let cs := xs.map fun w => match FV.of32 w with
      | .inf n => ((if n then 2 ^ (F.width - 1) else 0) + F.max, fSAT ||| fINX)
      | .fin n m ex => F.round (Rnd.ofCode code seed (ulp32 w - e)) n m (ex - e)
      | .nan _ _ => (0, 0)
    ((e + 127).toNat, cs.map (·.1), cs.foldl (fun fl c => fl ||| c.2) 0)

/-- Packing codes of 32/k bits into words, element 0 lowest (R105). -/
def packWord (w : Nat) : List Nat → Nat
  | [] => 0
  | c :: cs => c % 2 ^ w + 2 ^ w * packWord w cs

/-- Cutting a list into parts of `n`. -/
def chunks {α : Type} (n : Nat) : Nat → List α → List (List α)
  | 0, _ => []
  | k + 1, xs => xs.take n :: chunks n k (xs.drop n)

/-- CVTMX8 and CVTMX4 (R117): all 256 lanes, with `+0` where a lane is not selected. -/
def cvtMx (F : Fmt) (emax : Int) (code : Nat) (seed : BitVec 64) (xs : List Word) : Lanes × Flags :=
  let bs := (chunks 32 8 xs).map (mxBlock F emax code seed)
  let k := 32 / F.width
  let codes := bs.flatMap fun b => b.2.1
  let words := (chunks k (256 / k) codes).map fun cs => BitVec.ofNat 32 (packWord F.width cs)
  let scales := (chunks 4 2 (bs.map (·.1))).map fun cs => BitVec.ofNat 32 (packWord 8 cs)
  (lanesOf (words ++ scales ++ zeroWords (255 - words.length - 2) ++ [BitVec.ofNat 32 F.width]),
    bs.foldl (fun fl b => fl ||| b.2.2) 0)

/-- Element i of a packed sequence of k elements to a lane (R105). -/
def element (v : Lanes) (k i : Nat) : Nat := (v[i / k]?.getD 0).toNat / 2 ^ (32 / k * (i % k)) % 2 ^ (32 / k)

/-- UNMX on lane i (R118). -/
def unmx (v : Lanes) (i : Nat) : Word × Flags :=
  let fmt := v[255]
  if fmt ≠ 8 ∧ fmt ≠ 4 then (0x7FC00000, fINV)
  else
    let k := if fmt = 8 then 4 else 8
    let sc := element v 4 ((256 / k) * 4 + i / 32)
    if sc = 0xFF then (0x7FC00000, 0)
    else
      let x := if fmt = 8 then FV.ofE4M3 (element v 4 i) else FV.ofE2M1 (element v 8 i)
      widen (x.scale ((sc : Int) - 127))

/-! ### Codebooks (R119 to R121) -/

/-- Entry j of a codebook. -/
def bookEntry (cb : BitVec 256) (j : Nat) : FV := FV.ofBF16 (cb.toNat / 2 ^ (16 * j) % 65536)

def bookFind (cb : BitVec 256) (p : FV → Bool) : Option Nat := (List.range 16).find? fun j => p (bookEntry cb j)

/-- The choice between the neighbours `lo` below and `hi` above `x` (R121). -/
def cb4Choose (code : Nat) (seed : BitVec 64) (x lo hi : FV) : FV :=
  let infinite := if lo.isInf ∧ hi.isInf then lo else if lo.isInf then hi else lo
  match code with
  | 1 =>
    if x.isZero then
      (if lo.isInf ∨ hi.isInf then infinite else if hi.dy.lt ⟨-lo.dy.m, lo.dy.e⟩ then hi else lo)
    else if x.neg then hi else lo
  | 2 => hi
  | 3 => lo
  | _ =>
    if lo.isInf ∨ hi.isInf then infinite
    else
      let a := x.dy.sub lo.dy
      let b := hi.dy.sub x.dy
      if code = 4 then
        let whole := hi.dy.sub lo.dy
        let e := min a.e whole.e
        let dd := (2 ^ 32 * a.align e / whole.align e).toNat
        if 2 ^ 32 ≤ dd + (mix seed dd).toNat then hi else lo
      else if b.lt a then hi else lo

/-- The greatest entry not above, and the least not below. -/
def bestEntry (better : FV → FV → Bool) : List FV → Option FV
  | [] => none
  | v :: vs => match bestEntry better vs with
    | none => some v
    | some u => some (if better u v then u else v)

/-- CB4ENC on one lane: the index and the flags (R121). -/
def cb4enc (cb : BitVec 256) (code : Nat) (seed : BitVec 64) (w : Word) : Nat × Flags :=
  let x := FV.of32 w
  let entries := ((List.range 16).map (bookEntry cb)).filter fun v => !v.isNaN
  let index (v : FV) := (bookFind cb fun u => !u.isNaN && u.eq v).getD 0
  if x.isNaN then
    match bookFind cb FV.isNaN with
    | some j => (j, 0)
    | none => (0, fINV)
  else if entries.any fun v => v.eq x then (index x, 0)
  else
    let lo := bestEntry (fun u v => v.lt u) (entries.filter fun v => v.lt x)
    let hi := bestEntry (fun u v => u.lt v) (entries.filter fun v => x.lt v)
    match lo, hi with
    | some l, some h => (index (cb4Choose code seed x l h), fINX)
    | some l, none => (index l, fSAT ||| fINX)
    | none, some h => (index h, fSAT ||| fINX)
    | none, none => (0, fINV)

end Sys2Proof.Machine
end

