-- ==== Sys2Proof/Machine/Flags.lean ====
section
/-! DEFINITION. Flag computations: the flags that the selected lanes of a vector instruction set (05 R110, 06 R124),
and the condition codes of compares (03 R65, 06 R132, R137). -/
namespace Sys2Proof.Machine

/-- The flags of all lanes together: a lane that is not selected has set none. -/
def laneFlags (rs : Vector (Word × Flags) 256) : Flags := rs.toList.foldl (fun fl r => fl ||| r.2) 0

/-- The integer conditions of R65 and R137, by their code: eq, ne, lt, ge, ltu, geu. -/
def icond (cond : Nat) (a b : Word) : Bool := match cond with
  | 0 => a == b
  | 1 => a != b
  | 2 => a.slt b
  | 3 => !a.slt b
  | 4 => a.ult b
  | _ => !a.ult b

/-- FLAGSA and FLAGSB as RDSR reads them: bits [31:6] read 0 (R110). -/
def flagsWord (f : Flags) : Word := f.zeroExtend 32

end Sys2Proof.Machine
end

