-- ==== Sys2Proof/Machine/Operands.lean ====
section
/-! DEFINITION. Operand forms: immediates (03 R63, R65, 06 R136), guards and masks, the vector slot of an instruction,
and the shapes of write that the arithmetic instructions share (03 R61, 06 R124 to R126). -/
namespace Sys2Proof.Machine

/-- A sign-extended field of `bits` bits as a word. -/
def sextWord (bits n : Nat) : Word := BitVec.ofInt 32 (sext bits n)
/-- A sign-extended field of `bits` bits as a pointer. -/
def sextPtr (bits n : Nat) : Ptr := BitVec.ofInt 64 (sext bits n)

/-- A shift amount: the low five bits (R62, R135). -/
def amount (w : Word) : Nat := w.toNat % 32

/-! ### The S slot -/

/-- A guarded three-register result (R61): squashed, it writes nothing. -/
def State.alu (s : State) (f : SR) (lat : Nat) (op : Word → Word → Word) : State :=
  let x := s.myCtx
  if x.guard f.g f.neg then s.write lat (.s f.sd (op (x.rs f.sa) (x.rs f.sb))) else s

/-- An immediate result, never squashed (R63). -/
def State.aluImm (s : State) (f : SI) (op : Word → Word) : State := s.write 1 (.s f.sd (op (s.myCtx.rs f.sa)))

/-- The write of one guard (R61, R65). -/
def State.writeG (s : State) (n : Nat) (b : Bool) : State :=
  s.write 1 (.g (BitVec.twoPow 8 n) (if b then BitVec.twoPow 8 n else 0))

/-! ### The vector slots -/

/-- The unit of the slot that executes: slot 3 is VB (R27). -/
def State.vslot (s : State) : VSlot := if s.cur.slot = 3 then .b else .a
def State.vunit (s : State) : VecUnit := s.myCtx.unit s.vslot

/-- A lane of a register (R123). -/
def lane (v : Lanes) (i : Nat) : Word := v[i]?.getD 0

/-- A result in the selected lanes, without flags (R124). -/
def State.vWrite (s : State) (vd mask lat : Nat) (f : Nat → Word) : State :=
  s.write lat (.v s.vslot vd (laneMask (s.vunit.rm mask)) (Vector.ofFn fun i => f i.val))

/-- A result in every lane, whatever a mask selects. -/
def State.vWriteAll (s : State) (vd lat : Nat) (f : Nat → Word) : State :=
  s.write lat (.v s.vslot vd allLanes (Vector.ofFn fun i => f i.val))

/-- A result in the selected lanes, with the flags that those lanes set, landing together (R110, R124, R126). -/
def State.vArith (s : State) (vd mask lat : Nat) (f : Nat → Word × Flags) : State :=
  let m := s.vunit.rm mask
  let rs : Vector (Word × Flags) 256 := Vector.ofFn fun i => if m.getLsbD i.val then f i.val else (0, 0)
  (s.write lat (.v s.vslot vd (laneMask m) (rs.map (·.1)))).write lat (.flagsSet s.vslot (laneFlags rs))

/-- A compare of selected lanes into a target mask; its flags land whatever the target (R132). -/
def State.vCompare (s : State) (vd mask : Nat) (f : Nat → Bool × Flags) : State :=
  let m := s.vunit.rm mask
  let rs : Vector (Word × Flags) 256 := Vector.ofFn fun i =>
    if m.getLsbD i.val then let r := f i.val; (b2w r.1, r.2) else (0, 0)
  (s.write 2 (.vm s.vslot vd m (maskOf fun i => (rs[i]?.getD (0, 0)).1 == 1))).write 2 (.flagsSet s.vslot (laneFlags rs))

/-- Elements of `w` bits written into the fields of the selected elements, with flags (R113, R121). -/
def State.vPack (s : State) (vd mask lat w : Nat) (f : Nat → Nat × Flags) : State :=
  let m := s.vunit.rm mask
  let k := 32 / w
  let rs : Vector (Word × Flags) 256 := Vector.ofFn fun i =>
    if m.getLsbD i.val then let r := f i.val; (BitVec.ofNat 32 r.1, r.2) else (0, 0)
  let pick (g : Nat → Nat) : Lanes := Vector.ofFn fun l =>
    BitVec.ofNat 32 (packWord w ((List.range k).map fun j => if l.val * k + j < 256 then g (l.val * k + j) else 0))
  let mask' := pick fun i => if m.getLsbD i then 2 ^ w - 1 else 0
  let val := pick fun i => ((rs[i]?.getD (0, 0)).1).toNat
  (s.write lat (.v s.vslot vd mask' val)).write lat (.flagsSet s.vslot (laneFlags rs))

/-! ### Registers named by file (R37) -/

/-- A d, a or b register (file codes 2, 3, 4). -/
def Ctx.vec (x : Ctx) (file n : Nat) : Lanes := match file with
  | 2 => x.rd n
  | 3 => x.va.rv n
  | _ => x.vb.rv n
/-- The write of a d, a or b register. -/
def vecWrite (file n : Nat) (mask val : Lanes) : RegWrite := match file with
  | 2 => .d n mask val
  | 3 => .v .a n mask val
  | _ => .v .b n mask val
/-- An l, ma or mb register as CPM names it. -/
def Ctx.maskReg (x : Ctx) (file n : Nat) : Mask := match file with
  | 2 => x.rl n
  | 3 => x.va.rm n
  | _ => x.vb.rm n
def maskWrite (file n : Nat) (val : Mask) : RegWrite := match file with
  | 2 => .l n (BitVec.allOnes 256) val
  | 3 => .vm .a n (BitVec.allOnes 256) val
  | _ => .vm .b n (BitVec.allOnes 256) val
/-- The queue code of a copy source (R37, R406): q, o or lq. -/
def queueOf (file n : Nat) : Nat := match file with
  | 5 => n
  | 6 => 10 + n
  | _ => 4 + n

end Sys2Proof.Machine
end

