-- ==== Sys2Proof/Machine/Services.lean ====
section
/-! DEFINITION. The services of the office as the others use them: images, deadlines, fallback and the journal of a
probation (20 R353 to R360), and the counts of data events that the prefect keeps (13 R267, 18 R408). -/
namespace Sys2Proof.Machine

/-! ### Services and images (R353, R354, R356) -/

def Service.idx : Service → Nat
  | .prefect => 0
  | .registrar => 1
  | .porter => 2

def State.svc (s : State) (v : Service) : Svc := s.svcs[v.idx]?.getD Svc.reset
def State.modSvc (s : State) (v : Service) (f : Svc → Svc) : State :=
  { s with svcs := s.svcs.setIfInBounds v.idx (f (s.svc v)) }

/-- The image that a service runs, and its other slot. -/
def Svc.running (v : Svc) : List Byte := v.images[v.slot]?.getD []
def Svc.other (v : Svc) : List Byte := v.images[1 - v.slot]?.getD []

/-- A field of an image header, by its bits (R354). -/
def imageField (im : List Byte) (hi lo : Nat) : Nat := field (num im 0 128) hi lo
def imageVersion (im : List Byte) : Nat := imageField im 95 64
def imageSchema (im : List Byte) : Nat := imageField im 111 96
def imageMinSchema (im : List Byte) : Nat := imageField im 127 112
def imageFloor (im : List Byte) : Nat := imageField im 191 160

def recordSchema (r : List Byte) : Nat := field (num r 0 64) 95 80

/-- The code of a state in HBMON (R360). -/
def SvcState.code : SvcState → Nat
  | .run => 0
  | .staged => 1
  | .quiesce => 2
  | .import_ => 3
  | .probation => 4
  | .commit => 5
  | .fallback => 6
  | .failed => 7

/-- The monitor register of a service core (R360). -/
def Svc.hbmon (v : Svc) : Word :=
  BitVec.ofNat 32 (min v.misses 255 * 2 ^ 12 + v.slot % 2 * 2 ^ 11 + (if v.armed then 2 ^ 10 else 0) + v.state.code)

/-- A write of HBMON: ARMED alone takes the value written, and is clear in RUN (R360). -/
def Svc.setHbmon (v : Svc) (w : Word) : Svc := { v with armed := w.getLsbD 10 && v.state != .run }

/-! ### Deadlines and fallback (R358, R360) -/

/-- Cycles within which the first heartbeat, and each later one, falls due (R360), those of QUIESCE, and those of
PROBATION (R358). -/
def firstBeat : Nat := 20 * Config.ms
def nextBeat : Nat := 5 * Config.ms
def quiesceLimit : Nat := 30 * Config.ms
def probationTime : Nat := 2000 * Config.ms

/-- A deadline is set, and the monitor looks when it passes. -/
def State.setDeadline (s : State) (v : Service) (cycles : Nat) : State :=
  let d := s.gtc + cycles
  (s.modSvc v fun x => { x with deadline := some d }).schedG d [99, 9] (.heartbeatDeadline v)

/-- FALLBACK: the monitor restarts the old image on its own record. -/
def State.fallBack (s : State) (v : Service) : State :=
  (s.modSvc v fun x => { x with state := .fallback, slot := 1 - x.slot, held := true, probationEnd := none }).setDeadline v firstBeat

/-! ### The journal (R357) -/

/-- Entries that the journal holds (R357). -/
def journalSize : Nat := 65536

/-- An entry appended while a service is in probation: the port refuses an essential one that the predecessor could not
read, and a full journal fails the probation. -/
def State.journalEntry (s : State) (v : Service) (e : JournalEntry) : State :=
  let x := s.svc v
  if x.state ≠ .probation then s
  else if e.essential ∧ recordSchema x.record < e.schema then s
  else if journalSize ≤ x.journal.length then s.fallBack v
  else s.modSvc v fun x => { x with journal := x.journal ++ [{ e with seq := x.seq, index := x.journal.length }] }

/-- The facts that the services journal, and the type that each goes by: those of R357 that are essential first, and changes of
state that are advisory (DEDUCED, log entry 43). -/
inductive Fact where
  | admission
  | retirement
  | refusal
  | course
  | keySlot
  | slotTable
  | queued
  | promotion
  | preemption
  | placement
  | tenant
  | function
  | hostMap
  | channelGroups
  | linkKeys
  | lasting
  | hang
  | errorCount
  | duty
  | withheld
  | coreReset
  | coreGating
  | resumption
  | release
  | measurement
  | event
  | parking
  | joining
deriving DecidableEq, Repr

def Fact.type : Fact → Nat
  | .admission => 1
  | .retirement => 2
  | .refusal => 3
  | .course => 4
  | .keySlot => 5
  | .slotTable => 6
  | .queued => 7
  | .promotion => 8
  | .preemption => 9
  | .placement => 10
  | .tenant => 11
  | .function => 12
  | .hostMap => 13
  | .channelGroups => 14
  | .linkKeys => 15
  | .lasting => 16
  | .hang => 17
  | .errorCount => 18
  | .duty => 19
  | .withheld => 20
  | .coreReset => 21
  | .coreGating => 22
  | .resumption => 23
  | .release => 24
  | .measurement => 25
  | .event => 26
  | .parking => 27
  | .joining => 28

/-- A fact that a service in probation states, in a schema that its predecessor reads. -/
def State.journal (s : State) (v : Service) (f : Fact) : State :=
  s.journalEntry v { seq := 0, index := 0, essential := decide (f.type ≤ 6), type := f.type,
                     schema := recordSchema (s.svc v).record }

/-- A fact of a service, and the act that it states; a service that falls back at the entry holds the act with its other work
(R357, R359). -/
def State.stated (s : State) (v : Service) (f : Fact) (act : State → State) : State :=
  let s := s.journal v f
  if s.holds v.idx then s else act s

/-! ### Data events (R97, R267, R408) -/

/-- Counting an event against a unit over 60 s of GTC: 16 corrections, or a second uncorrectable error, mark it lasting;
corrections alone never mark a port (R389, R408). A prefect in probation journals the count (R357). -/
def State.countErr (s : State) (u : ErrUnit) (hard : Bool) : State :=
  let errs : List ErrRec := (s.errs.filter fun e => s.gtc < e.gtc + Config.minute) ++ [{ unit := u, hard := hard, gtc := s.gtc }]
  let n : Nat := (errs.filter fun e => e.unit == u && e.hard == hard).length
  let s := { s.journal .prefect .errorCount with errs := errs }
  let port : Bool := match u with | .port _ => true | _ => false
  if decide ((if hard then (2 : Nat) else 16) ≤ n) && (hard || !port) && !s.lasting.contains u then s.schedG s.gtc [95] (.errorLasting u) else s

/-- A correction in a core's register and array storage (R192, R408). -/
def State.coreSoft (s : State) (c : Nat) : State :=
  (s.modCore c fun k => { k with corrections := k.corrections + 1 }).countErr (.coreArrays c) false

end Sys2Proof.Machine
end

