-- ==== Sys2Proof/Machine/Issue.lean ====
section
/-! DEFINITION. The issue of a bundle: what R8 calls for, and every fault that an instruction can raise at its issue
(01 R8, R25, 02 R28, R46 to R51, 03 R69 to R76, 08 R165 to R167, R182, R188, R192, 09 R200 to R204, R208,
15 R276, R284, 16 R305, R307, 18 R323, R330 to R332). -/
namespace Sys2Proof.Machine

/-! ### The sequencer (R8, R74) -/

def Seq.count (q : Seq) : Nat := match q.resident with
  | some g => g.bundles.length
  | none => 0

/-- Settling the levels that end at a bundle, most recently started first (R74): the body to repeat, if one repeats,
and the levels that stay. -/
def settleLevels (idx : Nat) : List Level → Option Nat × List Level
  | [] => (none, [])
  | l :: ls =>
    if l.last = idx then
      (if 1 < l.count then (some l.first, { l with count := l.count - 1 } :: ls) else settleLevels idx ls)
    else
      let (n, rest) := settleLevels idx ls
      (n, l :: rest)

/-- What follows bundle `idx` of the resident segment in sequence (R8, R49, R72). -/
def Seq.after (q : Seq) (idx : Nat) : Next :=
  if idx + 1 < q.count then .bundle (idx + 1)
  else if q.jump then .filler
  else match q.resident with
    | some g => if g.head.next = 0 then .exhausted else .enter
    | none => .exhausted

/-- What follows bundle `idx`, closing the levels that end at it (R8, R74). -/
def Seq.settle (q : Seq) (levels : List Level) (idx : Nat) : Next × List Level :=
  match settleLevels idx levels with
  | (some first, ls) => (.bundle first, ls)
  | (none, ls) => (q.after idx, ls)

/-- The sequencer once the bundle that R8 calls for issues at `t`, with what it calls for next if no instruction of
that bundle transfers control. -/
def Seq.advance (q : Seq) (t : Nat) : Seq :=
  let q := { q with levels := q.nextLevels, issued := t, inDelay := decide (0 < q.delay), delay := q.delay - 1,
                    nextAt := t + 1 }
  let q := match q.next with
    | .bundle i => { q with idx := i, filler := false }
    | .enter => { q with inB := !q.inB, idx := 0, filler := false, jump := false }
    | .filler => { q with filler := true }
    | .exhausted => q
    | .stop => q
  match q.xfer with
  | some (c, n) =>
    if c = t + 1 then { q with next := n, nextLevels := q.levels, xfer := none }
    else if q.filler then { q with next := .filler, nextLevels := q.levels }
    else let r := q.settle q.levels q.idx; { q with next := r.1, nextLevels := r.2 }
  | none => let r := q.settle q.levels q.idx; { q with next := r.1, nextLevels := r.2 }

/-! ### Control rules (R51, R70, R72, R75, R76, R204) -/

/-- Bundle `i` and its two delay bundles lie in the segment (R51). -/
def Seq.delayFits (q : Seq) : Bool := decide (q.idx + 2 < q.count)

/-- The rules for a branch to `target` (R51, R70, R72, R76). -/
def Seq.branchOk (q : Seq) (target : Int) : Bool :=
  !q.inDelay && !q.jump && q.delayFits && decide (0 ≤ target) && decide (target < q.count) &&
  match q.levels with
  | [] => true
  | l :: _ => decide (l.first ≤ q.idx) && decide (q.idx + 2 < l.last) && decide ((l.first : Int) ≤ target) &&
      decide (target ≤ l.last)

/-- The rules for a loop (R51, R70, R72, R75). -/
def Seq.loopOk (q : Seq) (f : SL) : Bool :=
  !q.inDelay && !q.jump && decide (q.idx + f.len + 1 < q.count) && q.levels.all fun l =>
    l.level != f.level && decide (l.first ≤ q.idx + 1) && decide (q.idx + f.len + 1 ≤ l.last)

/-- The header offset a SEGJ names (R71). -/
def Seq.jumpOff (q : Seq) (f : SB) : Int := targetOffset q.segOff f.off

/-- The depth class of a stream format, by its row's positions (R166). -/
def depthOf (fmt : Nat) : Nat := if fmt = 0 then 128 else if fmt ≤ 3 then 256 else 512

/-- Whether a slot word breaks a control rule or a format class, an illegal instruction at its issue. -/
def ctxIllegal (x : Ctx) (i : Instr) : Bool := match i with
  | .br f => !x.seq.branchOk (x.seq.idx + sext 20 f.off)
  | .call f => !x.seq.branchOk (x.seq.idx + sext 20 f.off)
  | .ret _ => !x.seq.branchOk ((x.rs 31).toNat : Int)
  | .segj f => x.seq.inDelay || x.seq.jump || !x.seq.levels.isEmpty || !x.seq.delayFits ||
      !(decide (0 ≤ x.seq.jumpOff f) && decide (x.seq.jumpOff f < storeSize))
  | .loop f => !x.seq.loopOk f
  | .loopi f => !x.seq.loopOk f
  | .twait _ => x.seq.inDelay || x.seq.jump
  | .spush f => depthOf f.fmt != depthOf x.mx.active.fmt
  | .chb f => depthOf f.fmt != depthOf x.mx.active.fmt
  | .svpair f => depthOf f.fmt != depthOf x.mx.active.fmt
  | _ => false

/-! ### Queue reads at issue (R145, R165) -/

/-- The queues that an instruction reads at its issue, in order, each with its peek bit. -/
def queueReads : Instr → List (Nat × Bool)
  | .slatch f => [(f.qa, f.pa)]
  | .spush f => [(f.qa, f.pa)]
  | .vopa f => [(f.qa, f.pa), (f.qb, f.pb)]
  | .svpair f => [(f.qa, f.pa), (f.qb, f.pb), (f.qc, f.pc)]
  | .cbld f => [(f.qa, f.pa)]
  | .chb f => [(f.qa, f.pa)]
  | .chld f => [(f.qa, f.pa)]
  | .qpop f => [(queueOf f.sfile f.sreg, false)]
  | .qpeek f => [(queueOf f.sfile f.sreg, true)]
  | _ => []

/-- Reading queue heads one after another: the rows, the context that remains, and the first queue found empty
(DEDUCED, log entry 16). -/
def Ctx.takeRows (x : Ctx) : List (Nat × Bool) → List Row × Ctx × Option Nat
  | [] => ([], x, none)
  | (q, peek) :: rest => match x.queue q with
    | [] => ([], x, some q)
    | r :: rs =>
      let (rows, y, e) := (if peek then x else x.setQueue q rs).takeRows rest
      (r :: rows, y, e)

/-! ### Faults at issue -/

/-- T of TCHK and TWAIT (R200, R204). -/
def Ctx.bound (x : Ctx) (f : SR) : Nat := (x.rs f.sb).toNat * 2 ^ 32 + (x.rs f.sa).toNat

/-- A field of the chain configuration record (R179). -/
def cfgField (c : BitVec 512) (hi lo : Nat) : Nat := field c.toNat hi lo

/-- The beats of the open block that have issued. -/
def Mx.openBeats (m : Mx) : Nat := match m.blocks.getLast? with
  | some b => if m.isOpen then b.beats.length else 0
  | none => 0

/-- The MX instructions that are beats of a block (R182). -/
def isBeat : Instr → Bool
  | .chb _ => true
  | .sshift _ => true
  | _ => false

/-- Whether the first beat of a block checks tags, and the tag it expects of its key row (R188). -/
def Mx.keyTag (m : Mx) : Option Nat :=
  if cfgField m.latched 265 265 = 1 ∧ ¬ m.isOpen then
    some ((cfgField m.latched 303 288 + m.blockCounter) % 65536)
  else none

/-- A register of one word, or as many words as it has. -/
def wholeReg (file n : Nat) : Nat × Nat × Nat × Nat := (file, n, 0, 256)
/-- The first words of a register. -/
def firstWords (file n count : Nat) : Nat × Nat × Nat × Nat := (file, n, 0, count)

/-- The lanes of va that UNMX reads, by its marker in lane 255: the elements and the scales, and no filler (R118). -/
def unmxReads (marker : Word) (u va : Nat) : List (Nat × Nat × Nat × Nat) :=
  (u, va, 255, 1) :: (if marker = 8 then [(u, va, 0, 66)] else if marker = 4 then [(u, va, 0, 34)] else [])

/-- The stored words that RDSR of a select reads, the words that it latches among them (R17, R20, R156). -/
def specialReads (n : Nat) : List (Nat × Nat × Nat × Nat) :=
  if n = 0x0300 then [(20, 0, 0, 1)]
  else if n = 0x0102 then [(15, 0, 0, 1)]
  else if n = 0x0103 then [(15, 0, 1, 1)]
  else if n = 0x0104 then [(16, 0, 0, 1)]
  else if n = 0x0105 then [(16, 0, 1, 1)]
  else if n = 0x0108 then [wholeReg 15 1]
  else if n = 0x010A then [wholeReg 15 2]
  else if n = 0x0110 then [wholeReg 16 1]
  else if n = 0x0112 then [wholeReg 16 2]
  else if n ∈ [0x0000, 0x0001, 0x0005, 0x0007, 0x0010, 0x0014, 0x0015, 0x0016, 0x0100, 0x0101, 0x0109, 0x010B, 0x010C, 0x010D,
    0x0111, 0x0113, 0x0114, 0x0115, 0x0200, 0x0201, 0x0202, 0x0301, 0x0302, 0x0303] then [wholeReg 17 n]
  else []

/-- The selects whose latches RDSR of a low word writes (R20, R156). -/
def latchedBy (n : Nat) : List Nat :=
  if n = 0x0004 then [0x0005] else if n = 0x0006 then [0x0007] else if n = 0x0108 then [0x0109]
  else if n = 0x010A then [0x010B, 0x010C, 0x010D] else if n = 0x0110 then [0x0111]
  else if n = 0x0112 then [0x0113, 0x0114, 0x0115] else []

/-- The words of registers that an instruction reads at its issue: the file, the register, the first word and how many.
The files are those of R37 for s, p, d, a and b, and 8 for h, 9 for l, 10 for ag, 11 and 12 for ma and mb, 13 and 14 for
the TIE tables of VA and VB, 15 and 16 for their seed (0), key (1) and counter (2), 17 for the other special registers by
select, 18 for ETAG, 19 for barriers and 20 for the words of the retained syndrome; `u` is 3 in slot VA and 4 in slot VB, and
`marker` is lane 255 of UNMX's source. A mask that is read and ignored is read, TIEL's too (R152, R159) (DEDUCED, log entry
47). -/
def regReads (marker : Word) (u : Nat) : Instr → List (Nat × Nat × Nat × Nat)
  | .add f | .sub f | .and f | .or f | .xor f | .shl f | .shr f | .sar f | .min f | .max f | .minu f | .maxu f
  | .mul f | .mulh f | .mulhu f | .div f | .divu f | .rem f | .remu f | .sel f | .cmpEq f | .cmpNe f | .cmpLt f
  | .cmpGe f | .cmpLtu f | .cmpGeu f | .twait f | .tchk f => [wholeReg 0 f.sa, wholeReg 0 f.sb]
  | .clz f | .popc f | .stog f => [wholeReg 0 f.sa]
  | .addi f | .andi f | .ori f | .xori f | .shli f | .shri f | .sari f | .cmpiEq f | .cmpiNe f | .cmpiLt f
  | .cmpiGe f | .cmpiLtu f | .cmpiGeu f => [wholeReg 0 f.sa]
  | .ret _ => [wholeReg 0 31]
  | .loop f => [wholeReg 0 (f.cnt / 512)]
  | .wrsr f | .pgwr f | .solo f | .binit f | .barr f => [wholeReg 0 f.sa]
  | .rdsr f => specialReads f.sel
  | .fsyn f => [(20, 0, f.sel, 1)]
  | .bchk f => [wholeReg 19 f.sel]
  | .spawn f => wholeReg 17 0x0201 :: wholeReg 0 f.sa :: (List.range f.sel).map fun k => wholeReg 0 (f.sd + k)
  | .plil f => [wholeReg 1 f.pd]
  | .padd f => [wholeReg 1 f.pa, wholeReg 1 (f.imm / 4096)]
  | .paddi f | .pmov f => [wholeReg 1 f.pa]
  | .ldw f | .ldr f | .ldh f | .ldv f | .ldq f => [wholeReg 1 f.ptr]
  | .stw f => [wholeReg 1 f.ptr, firstWords 2 f.tg 1]
  | .str f => [wholeReg 1 f.ptr, firstWords 2 f.tg 64]
  | .sth f => [wholeReg 1 f.ptr, firstWords 2 f.tg 128]
  | .stv f | .stnt f => [wholeReg 1 f.ptr, wholeReg 2 f.tg]
  | .ldt f | .amoAdd f | .amoMin f | .amoMax f | .amoSwap f => [wholeReg 1 f.ptr, firstWords 2 f.opd 1]
  | .amoCas f => [wholeReg 1 f.ptr, firstWords 2 f.opd 2]
  | .ldg f => [wholeReg 1 f.ptr, wholeReg 2 f.idx, wholeReg 9 f.lm]
  | .stg f | .stg16 f => [wholeReg 1 f.ptr, wholeReg 2 f.idx, wholeReg 2 f.tg, wholeReg 9 f.lm]
  | .agset f => [firstWords 2 f.tg 8]
  | .agadv f => [wholeReg 10 f.ag]
  | .lda f => [wholeReg 10 f.ag]
  | .sta f => [wholeReg 10 f.ag, firstWords 2 f.tg (match f.size with | 0 => 1 | 1 => 64 | 2 => 128 | _ => 256)]
  | .fadd f | .fsub f | .fmul f | .fmin f | .fmax f | .fcps f | .fcmpEq f | .fcmpNe f | .fcmpLt f | .fcmpLe f
  | .fcmpUn f | .fsel f | .iadd f | .isub f | .imul f | .imulh f | .imin f | .imax f | .iand f | .ior f | .ixor f
  | .ishl f | .ishr f | .isar f | .icmpEq f | .icmpNe f | .icmpLt f | .icmpGe f | .icmpLtu f | .icmpGeu f
  | .vperm f => [wholeReg u f.va, wholeReg u f.vb, wholeReg (u + 8) f.mask]
  | .fma f | .fms f | .fnma f => [wholeReg u f.va, wholeReg u f.vb, wholeReg u f.vc, wholeReg (u + 8) f.mask]
  | .iaddi f | .iandi f | .iori f | .ixori f | .ishli f | .ishri f | .isari f | .vrot f =>
    [wholeReg u f.va, wholeReg (u + 8) f.mask]
  | .vbcastl f => [(u, f.va, f.imm % 256, 1), wholeReg (u + 8) f.mask]
  | .vli f => [wholeReg (u + 8) f.mask]
  | .viota f => [wholeReg (u + 8) f.mask]
  | .mand f | .mor f => [wholeReg (u + 8) (f.va % 8), wholeReg (u + 8) (f.vb % 8)]
  | .mnot f | .mpop f => [wholeReg (u + 8) (f.va % 8)]
  | .fabs f | .fneg f | .fclass f | .vrsum f | .vrmax f | .vrmin f | .vrsumg f | .vstat f | .cvtF32I32 f
  | .exp f | .log f | .rcp f | .rsq f => [wholeReg u f.va, wholeReg (u + 8) f.mask]
  | .cvtBf16F32 f | .cvtE4m3F32 f | .cvtE5m2F32 f | .cvtI32F32 f | .cvtmx8 f | .cvtmx4 f | .cb4enc f =>
    [wholeReg u f.va, wholeReg (u + 8) f.mask] ++ (if f.rnd = 4 then [wholeReg (u + 12) 0] else [])
  | .cvtF32Bf16 f => [firstWords u f.va 128, wholeReg (u + 8) f.mask]
  | .cvtF32E4m3 f | .cvtF32E5m2 f => [firstWords u f.va 64, wholeReg (u + 8) f.mask]
  | .cb4dec f => [firstWords u f.va 32, wholeReg (u + 8) f.mask]
  | .unmx f => wholeReg (u + 8) f.mask :: unmxReads marker u f.va
  | .tiel f => [firstWords u f.va 198, wholeReg (u + 8) f.mask]
  | .tiev f => [wholeReg u f.va, wholeReg (u + 8) f.mask, wholeReg (u + 10) (f.sub % 4)]
  | .vrng f => [wholeReg (u + 8) f.mask, wholeReg (u + 12) 1, wholeReg (u + 12) 2]
  | .vrngk f => [firstWords u f.va 2, wholeReg (u + 8) f.mask]
  | .vrngc f => [firstWords u f.va 4, wholeReg (u + 8) f.mask]
  | .vskip f => [firstWords u f.va 4, wholeReg (u + 8) f.mask, wholeReg (u + 12) 2]
  | .cpy f => [wholeReg f.sfile f.sreg]
  | .cpyl f => [(f.sfile, f.sreg, f.aux, 1)]
  | .cbc f => [wholeReg 0 f.sreg]
  | .cpm f => [wholeReg (if f.sfile = 2 then 9 else f.sfile + 8) f.sreg]
  | .qpush f => [(f.sfile, f.sreg, 64 * (f.aux % 4), 64)]
  | .cpyp f => [wholeReg 0 f.sreg, wholeReg 0 (f.sreg + 1)]
  | .xfer f | .xferq f | .xstore f | .tlist f | .xred f | .xacc f | .xmc f | .mkcfg f | .pptld f | .vbmld f
  | .lsend f | .lfwd f => [wholeReg 8 f.h, wholeReg 18 0]
  | .nmc f => [wholeReg 8 f.h, wholeReg 8 (f.h + 1)]
  | _ => []

/-- The guard of an instruction that carries one (R11, R30, R32); SEL's guard field selects (R68). -/
def guardOf : Instr → Option (Nat × Bool)
  | .add f | .sub f | .and f | .or f | .xor f | .shl f | .shr f | .sar f | .min f | .max f | .minu f | .maxu f
  | .clz f | .popc f | .mul f | .mulh f | .mulhu f | .div f | .divu f | .rem f | .remu f | .cmpEq f | .cmpNe f
  | .cmpLt f | .cmpGe f | .cmpLtu f | .cmpGeu f | .gand f | .gor f | .gxor f | .gtos f | .stog f | .tchk f
  | .twait f => some (f.g, f.neg)
  | .br f | .call f | .ret f | .segj f => some (f.g, f.neg)
  | .ldw f | .ldr f | .ldh f | .ldv f | .stw f | .str f | .sth f | .stv f | .ldq f | .stnt f | .drain f =>
    some (f.g, f.neg)
  | .ldt f | .amoAdd f | .amoMin f | .amoMax f | .amoSwap f | .amoCas f => some (f.g, f.neg)
  | .ldg f | .stg f | .stg16 f => some (f.g, f.neg)
  | .agset f | .agadv f | .lda f | .sta f => some (f.g, f.neg)
  | _ => none

/-- Whether an instruction takes effect under its guard (R11). -/
def Ctx.enabled (x : Ctx) (i : Instr) : Bool := match guardOf i with
  | some (g, neg) => x.guard g neg
  | none => true

/-- The registers that hold a constant (R10, R123). -/
def constReg (file n : Nat) : Bool := n == 0 && (file == 0 || file == 1 || file == 11 || file == 12)

/-- The marked register words that an instruction of a slot reads (R320). -/
def Ctx.regHits (x : Ctx) (slot : Nat) (i : Instr) (marks : List (Nat × Nat × Nat)) : List (Nat × Nat × Nat) :=
  let marker : Word := match i with
    | .unmx f => ((if slot = 3 then x.vb.rv f.va else x.va.rv f.va)[255]?).getD 0
    | _ => 0
  if x.enabled i then marks.filter fun b => !constReg b.1 b.2.1 && (regReads marker (slot + 1) i).any fun r =>
    b.1 == r.1 && b.2.1 == r.2.1 && decide (r.2.2.1 ≤ b.2.2) && decide (b.2.2 < r.2.2.1 + r.2.2.2) else []

/-- Whether a CHB reads a word of the validity bitmap (array 5) or of the ancestry matrix (array 6) for its key (R189,
R190). -/
def Mx.maskReads (m : Mx) (b : Nat × Nat × Nat) : Bool :=
  let kpos := cfgField m.latched 95 64 + m.keyCounter
  let vb := cfgField m.latched 159 128
  let tb := cfgField m.latched 191 160
  let q := cfgField m.latched 63 32
  (b.1 == 5 && cfgField m.latched 264 264 == 1 && decide (vb ≤ kpos) && b.2.2 == (kpos - vb) / 32) ||
  (b.1 == 6 && cfgField m.latched 257 256 == 3 && decide (tb ≤ kpos) && decide (kpos < tb + 256) &&
    (List.range 64).any fun i => decide (tb ≤ q + i) && decide (q + i < tb + 256) &&
      b.2.2 == ((q + i - tb) * 256 + (kpos - tb)) / 32)

/-- Whether a stream format reads codebook `n`, array 4 (R175). -/
def bookReads (fmt cb : Nat) (b : Nat × Nat × Nat) : Bool := fmt == 5 && b.1 == 4 && b.2.1 == cb

/-- Whether an instruction reads an array word at its issue (R163, R192) (DEDUCED, log entry 29). -/
def Ctx.mxReads (x : Ctx) (i : Instr) (b : Nat × Nat × Nat) : Bool :=
  let scores (fmt cb : Nat) : Bool := b.1 == 0 || bookReads fmt cb b || bookReads x.mx.active.fmt x.mx.active.book b
  match i with
  | .spush f => scores f.fmt f.cb
  | .chb f => scores f.fmt f.cb || x.mx.maskReads b
  | .svpair f => scores f.fmt f.cb || bookReads f.vfmt f.cb b
  | .vopa f => bookReads f.fmt f.cb b
  | .cb4dec f => bookReads 5 (f.sub % 4) b
  | .cb4enc f => bookReads 5 (f.sub % 4) b
  | .vdrain _ => b.1 == 2 && b.2.1 == x.mx.dp
  | .chn _ => (b.1 == 2 || b.1 == 3) && b.2.1 == x.mx.dp
  | .chsv f => b.1 == 3 && b.2.1 == f.idx
  | _ => false

/-- The detail of fault 0x33 at the first of some marked words (DEDUCED, log entry 23). -/
def markDetail (hits : List (Nat × Nat × Nat)) : List Word := match hits with
  | [] => []
  | b :: _ => [BitVec.ofNat 32 b.1, BitVec.ofNat 32 b.2.1, BitVec.ofNat 32 b.2.2]

/-- The transfer-engine commands and their opcodes (R42). -/
def teOpcode : Instr → Option Nat
  | .xfer _ => some 0x08
  | .xferq _ => some 0x09
  | .xstore _ => some 0x0A
  | .tlist _ => some 0x0B
  | .xred _ => some 0x10
  | .xacc _ => some 0x11
  | .xmc _ => some 0x12
  | .mkcfg _ => some 0x18
  | .pptld _ => some 0x19
  | .vbmld _ => some 0x1A
  | .lsend _ => some 0x28
  | .lfwd _ => some 0x29
  | _ => none

def isTe : Instr → Bool
  | .shp _ | .tagset _ | .nmc _ | .nmfence _ => true
  | i => (teOpcode i).isSome

/-- The instructions of the S slot that a solo region forbids (R202). -/
def soloForbids (x : Ctx) : Instr → Bool
  | .barr f => (x.rs f.sa).toNat % 65536 != x.rank
  | .spawn _ | .acqsW _ | .acqsR _ | .relsW _ | .relsR _ | .ckpt _ | .pgwr _ | .solo _ => true
  | i => isTe i

/-- The context of a core as its bundle of cycle `t` issues; `none` when it issues nothing then (R8, R204). -/
def Ctx.issuing (x : Ctx) (t : Nat) : Option Ctx :=
  if x.life ≠ .running then none
  else if x.seq.nextAt = t ∧ x.seq.next ≠ .stop then some { x with seq := x.seq.advance t }
  else if x.seq.issued = t then some x
  else none

/-- The ranks running at `t` that issue CKPT then, and those that do not (R330, R331). -/
def State.lineSplit (s : State) (q : Part) (t : Nat) : List Nat × List Nat :=
  let running := (List.range q.cores.length).filter fun r => match q.coreAt r with
    | some c => (s.ctx c).life = .running
    | none => false
  let issues (r : Nat) : Bool := match (q.coreAt r).bind fun c => (s.ctx c).issuing t with
    | some x => x.word 0 == 0x6C000000
    | none => false
  (running.filter issues, running.filter fun r => !issues r)

/-- The detail words of slip subcode 7 (R407). -/
def splitDetail (did didnt : List Nat) : List Word :=
  let w (k : Nat) : Word := BitVec.ofNat 32 (bitsNat (fun b => didnt.any fun r => r / 4 == 32 * k + b) 32)
  [7, BitVec.ofNat 32 didnt.length, BitVec.ofNat 32 did.length, w 0, w 1, w 2,
    BitVec.ofNat 32 (didnt.head?.getD 0), BitVec.ofNat 32 (didnt.getLast?.getD 0)]

/-- The slip of a CKPT issued on a rank at `t` (R330) (DEDUCED, log entry 20). -/
def State.ckptSlip (s : State) (p rank t : Nat) : List (Nat × List Word) := match s.part p with
  | none => []
  | some q =>
    if t % 4032 ≠ 0 then [(0x10, [8])]
    else
      let (did, didnt) := s.lineSplit q t
      if ¬ didnt.isEmpty ∧ did.head? = some rank then [(0x10, splitDetail did didnt)] else []

/-- The conditions that an instruction of a slot meets at its issue at `t`, with their detail words; `x` is the context
as the bundle issues, and `w` the slot word. A command whose last access performs in this very cycle still counts to the 64
of R284 (DEDUCED, log entry 33), and NMFENCE names the earliest issued of several commands (DESIGN CHOICE, log entry 35). -/
def State.issueConds (s : State) (c t slot : Nat) (x : Ctx) (w : Nat) (i : Instr) : List (Nat × List Word) :=
  let on (b : Bool) (code : Nat) (d : List Word) : List (Nat × List Word) := if b then [(code, d)] else []
  let k := s.core c
  let ww := BitVec.ofNat 32 w
  let tw := lo32 t
  let solo := x.solo.isSome
  let rows := x.takeRows (queueReads i)
  let out (b : Bool) := b && x.enabled i
  on (ctxIllegal x i) 0x01 [BitVec.ofNat 32 (2 ^ slot), ww] ++
  on (solo && soloForbids x i) 0x19 [1, BitVec.ofNat 32 slot, ww] ++
  (let hits := x.regHits slot i k.regBad ++ k.mxBad.filter (x.mxReads i)
   on (!hits.isEmpty) 0x33 (markDetail hits)) ++
  (match (queueReads i).find? fun r => 4 ≤ r.1 ∧ r.1 ≤ 9 with
    | some r => on solo 0x19 [5, BitVec.ofNat 32 slot, BitVec.ofNat 32 r.1]
    | none => []) ++
  (match rows.2.2 with
    | some q => [(0x14, [BitVec.ofNat 32 q, tw, 0])]
    | none => []) ++
  on (slot == 4 && x.mx.isOpen && !isBeat i) 0x14 [BitVec.ofNat 32 x.mx.blockCounter, BitVec.ofNat 32 x.mx.openBeats, ww] ++
  (match ((queueReads i).zip rows.1).find? fun r => r.2.poison.isSome with
    | some r => on (slot == 4) 0x30 [BitVec.ofNat 32 r.1.1, tw]
    | none => []) ++
  (match i with
    | .trap f => [(0x02, [BitVec.ofNat 32 f.sel])]
    | .tchk f => on (out (decide (x.bound f < t))) 0x11 [lo32 (x.bound f), hi32 (x.bound f), tw]
    | .twait f =>
      let T := x.bound f
      on (out (decide (T ≤ t))) 0x10 [2, lo32 T, hi32 T, tw] ++
      on (out (decide (t + 1 < T) && ((x.mx.isOpen && x.mx.openBeats != 31) ||
          (!x.mx.isOpen && decide (x.word 4 / 2 ^ 24 = 0x11))))) 0x14
        [BitVec.ofNat 32 x.mx.blockCounter, BitVec.ofNat 32 x.mx.openBeats, ww]
    | .bchk f =>
      let b := x.bars[f.sel]?.getD ⟨0, 0⟩
      on (b.expected != b.count) 0x12 [BitVec.ofNat 32 f.sel, b.expected.zeroExtend 32, b.count.zeroExtend 32]
    | .ckpt _ => s.ckptSlip x.part x.rank t
    | .chb f => match x.mx.keyTag, rows.1.head? with
      | some e, some r => on (r.mark != some e) 0x13
          [BitVec.ofNat 32 f.qa, BitVec.ofNat 32 e, BitVec.ofNat 32 (r.mark.getD 0x10000)]
      | _, _ => []
    | .nmc _ => on (decide (8 ≤ (k.nm.filter fun n => t ≤ n.last).length)) 0x14 [8]
    | .nmfence _ => match k.nm.find? fun n => decide (n.issue < t) && decide (t ≤ n.last) with
      | some n => [(0x10, [6, lo32 n.start, lo32 n.last])]
      | none => []
    | i => match teOpcode i with
      | some op => on (decide (64 ≤ (k.te.filter fun r => t ≤ r.last).length)) 0x14 [64, BitVec.ofNat 32 op]
      | none => [])

/-- The condition an instruction's one record names: the lowest-coded (R323). -/
def lowest (cs : List (Nat × List Word)) : Option (Nat × List Word) :=
  (sortBy (fun a b => a.1 < b.1) cs.reverse).head?

/-- The instructions of a bundle, by slot, whose words are not zero (R27, R28). -/
def Ctx.slots (x : Ctx) : List (Nat × Nat × Except DecodeError Instr) :=
  (List.range 8).filterMap fun i => let w := x.word i
    if w = 0 then none else some (i, w, decodeSlot (slotKindOf i) w)

/-- The slots of a bundle that execute. -/
def Ctx.todo (x : Ctx) : List Nat := (List.range 8).filter fun i => x.word i != 0

/-- The faults that the instructions of a bundle raise at its issue, slot by slot, each seeing the queues as the earlier
slots leave them (R145, R323); the illegal instructions of the bundle make one record (R28). -/
def State.slotFaults (s : State) (c t : Nat) : Ctx → List (Nat × Nat × Except DecodeError Instr) → List FaultNow
  | _, [] => []
  | x, (slot, w, .error _) :: rest =>
    { code := 0x01, rank := x.rank, src := slot, bundle := x.seq.bundleAddr, issue := some t,
      detail := [BitVec.ofNat 32 (2 ^ slot), BitVec.ofNat 32 w], blame := none } :: s.slotFaults c t x rest
  | x, (slot, w, .ok i) :: rest =>
    (match lowest (s.issueConds c t slot x w i) with
      | some (code, d) => [{ code := code, rank := x.rank, src := slot, bundle := x.seq.bundleAddr, issue := some t,
                             detail := d,
                             blame := if code = 0x33 then some (.coreArrays c)
                               else (x.takeRows (queueReads i)).1.findSome? Row.poison }]
      | none => []) ++ s.slotFaults c t (x.takeRows (queueReads i)).2.1 rest

/-- The records of one bundle: its illegal instructions are one record, on the lowest slot, with the mask of them all
(R28, R323). -/
def mergeIllegal (fs : List FaultNow) : List FaultNow :=
  match fs.filter fun f => f.code == 0x01 with
  | [] => fs
  | f :: rest =>
    let mask := (f :: rest).foldl (fun m g => m ||| g.detail.headD 0) 0
    { f with detail := mask :: f.detail.drop 1 } :: fs.filter fun g => g.code != 0x01

/-- A fault of a core's sequencer at its issue. -/
def Ctx.seqFault (x : Ctx) (t code : Nat) (d : List Word) : FaultNow :=
  { code := code, rank := x.rank, src := 0, bundle := x.seq.bundleAddr, issue := some t, detail := d,
    blame := none }

/-- The faults of entering a segment at `t` (R9, R46, R50, R202); `y` is the context with the segment entered, and
`stored` the segment as the program store holds it. A segment called for before its expansion is complete is a slip, and its
invalid header a second record (R323); its stamp is compared only where its first bundle issues (DEDUCED, log entry 47). -/
def Ctx.entryFaults (y : Ctx) (t : Nat) (stored : Segment) : List FaultNow :=
  let off := BitVec.ofNat 32 y.seq.segOff
  let g := y.seq.resident.getD stored
  let early := y.seq.resident.isNone || decide (t < (y.seq.half y.seq.inB).elim 0 (·.ready))
  (if early then [y.seqFault t 0x10 [10, off]] else []) ++
  if ¬ g.valid then [y.seqFault t 0x01 [off]]
  else if g.head.timed ∧ ¬ early then
    (if y.solo.isSome then [y.seqFault t 0x19 [2, off]]
     else if g.head.stamp ≠ t then [y.seqFault t 0x10 [1]] else [])
  else []

/-- Whether the bundle that has been called for stands in the loop buffer, in a valid segment. -/
def Ctx.present (y : Ctx) (t : Nat) : Bool := y.seq.resident.any fun g =>
  g.valid && decide (((y.seq.half y.seq.inB).elim 0 (·.ready)) ≤ t)

/-- Every fault that the bundle of a core raises at its issue at `t`: that of the segment it enters, and those of its
instructions, when it is there to be read (R25, R322, R323). -/
def State.bundleFaults (s : State) (c t : Nat) : List FaultNow :=
  let x := s.ctx c
  match x.seq.next with
  | .stop => []
  | .exhausted => [x.seqFault t 0x01 [BitVec.ofNat 32 x.seq.segOff]]
  | n =>
    let y := { x with seq := x.seq.advance t }
    let entry := if n = .enter then y.entryFaults t (s.segmentAt c y.seq.segOff) else []
    if n = .enter ∧ ¬ y.present t then entry
    else
      let missing := if y.mx.isOpen && y.word 4 == 0 then
          [{ code := 0x14, rank := y.rank, src := 4, bundle := y.seq.bundleAddr, issue := some t,
             detail := [BitVec.ofNat 32 y.mx.blockCounter, BitVec.ofNat 32 y.mx.openBeats, 0], blame := none }] else []
      entry ++ mergeIllegal (s.slotFaults c t y y.slots ++ missing)

/-- The records of a line that is not quiet: one on each core with something pending (R332, R407), from source 0 at the
line on a core that issues no CKPT there, too (DESIGN CHOICE, log entry 20). -/
def State.lineFaults (s : State) (q : Part) (t : Nat) : List FaultNow :=
  if t % 4032 ≠ 0 ∨ (s.lineSplit q t).1.isEmpty then []
  else (List.range q.cores.length).filterMap fun r =>
    let mine := sortBy (fun a b : Pending => keyLt [a.issue, a.kind, a.src] [b.issue, b.kind, b.src])
      (q.pending.filter fun p => p.rank == r)
    match mine with
    | [] => none
    | p :: _ => some
      { code := 0x10, rank := r, src := 0,
        bundle := match (q.coreAt r).bind fun c => (s.ctx c).issuing t with
          | some x => x.seq.bundleAddr
          | none => 0xFFFFFFFF,
        issue := some t, detail := [9, BitVec.ofNat 32 p.kind, lo32 p.issue, BitVec.ofNat 32 p.src,
                                    BitVec.ofNat 32 mine.length], blame := none }

/-- An instruction of the present bundle: it takes its fault at issue, or its effect (R25). -/
def State.issue (s : State) (i : Instr) (effect : State → State) : State :=
  match lowest (s.issueConds s.me s.t s.cur.slot s.myCtx (s.myCtx.word s.cur.slot) i) with
  | some (code, d) => s.raise code d
  | none => effect s

end Sys2Proof.Machine
end

