-- ==== Sys2Proof/Machine/Control.lean ====
section
/-! DEFINITION. Control transfers, hardware loops, TRAP, END, TCHK and TWAIT (03 R69 to R76, R81, R82, 09 R200, R204,
12 R252). -/
namespace Sys2Proof.Machine

def State.modSeq (s : State) (f : Seq → Seq) : State := s.modCtx s.me fun x => { x with seq := f x.seq }

/-! ### Branches (R69, R71) -/

/-- A branch of the present bundle: its two delay bundles follow, and a taken one's target issues at t+3. -/
def State.branch (s : State) (f : SB) (target : Nat) (link : Bool) : State :=
  let x := s.myCtx
  let s := s.modSeq fun q => { q with delay := 2 }
  if x.guard f.g f.neg then
    let s := if link then s.write 1 (.s 31 (BitVec.ofNat 32 (x.seq.idx + 3))) else s
    s.modSeq fun q => { q with xfer := some (s.t + 3, .bundle target) }
  else s

/-- The target that offset20 names (R69). -/
def Ctx.target (x : Ctx) (f : SB) : Nat := ((x.seq.idx : Int) + sext 20 f.off).toNat

def execBr (f : SB) (s : State) : Outcome := .next (s.issue (.br f) fun s => s.branch f (s.myCtx.target f) false)
def execCall (f : SB) (s : State) : Outcome := .next (s.issue (.call f) fun s => s.branch f (s.myCtx.target f) true)
def execRet (f : SB) (s : State) : Outcome :=
  .next (s.issue (.ret f) fun s => s.branch f (s.myCtx.rs 31).toNat false)

/-- A taken SEGJ: the successor is discarded, and the target is expanded into the free half and entered at t+e. -/
def State.segmentJump (s : State) (off : Nat) : State :=
  let half := !s.myCtx.seq.inB
  let at_ := s.t + s.costAt s.me off
  ((s.dropExpansion s.me).modSeq fun q =>
    { q.setHalf half (some { off := off, ready := at_, seg := none }) with xfer := some (at_, .enter), jump := true }
    ).expandAt s.me at_ half off

def execSegj (f : SB) (s : State) : Outcome := .next (s.issue (.segj f) fun s =>
  let x := s.myCtx
  let s := s.modSeq fun q => { q with delay := 2 }
  if x.guard f.g f.neg then s.segmentJump (x.seq.jumpOff f).toNat else s)

/-! ### Loops (R73, R74) -/

/-- A loop of `n` iterations: a zero count settles the next bundle as though the body's last bundle had issued. -/
def State.loop (s : State) (f : SL) (n : Nat) : State := s.modSeq fun q =>
  let first := q.idx + 1
  let last := q.idx + f.len + 1
  if n = 0 then let r := q.settle q.levels last; { q with next := r.1, nextLevels := r.2 }
  else { q with next := .bundle first,
                nextLevels := { level := f.level, first := first, last := last, count := n } :: q.levels }

def execLoop (f : SL) (s : State) : Outcome :=
  .next (s.issue (.loop f) fun s => s.loop f (s.myCtx.rs (f.cnt / 512)).toNat)
def execLoopi (f : SL) (s : State) : Outcome := .next (s.issue (.loopi f) fun s => s.loop f f.cnt)

/-! ### Stopping (R81, R82, R252) -/

/-- TRAP always faults at its issue (R81). -/
def execTrap (f : SY) (s : State) : Outcome := .next (s.issue (.trap f) id)

/-- A drain issued at the present cycle covers the core's uncovered STNTs; with nothing to cover it has no effect
(R250). -/
def State.drainNow (s : State) : State :=
  let done := s.t + 2048
  if (s.core s.me).stnts.any fun r => r.covered.isNone then
    (s.modCore s.me fun k =>
      { k with stnts := k.stnts.map fun r => if r.covered.isNone then { r with covered := some done } else r }).sched
      done [60, s.rankOf s.me, 1] (.drainCompletion s.me done)
  else s

/-- A sign of life (R200, R350). -/
def State.signOfLife (s : State) : State := s.modPart (s.partOf s.me) fun q => { q with sign := s.t + 1 }

/-- END: the core issues nothing further; every transfer and loop level of it is abandoned (R26, R82), its uncovered
STNTs are covered (R252), and the launch may retire (R221). A solo region closes with the core, once the bundle of END
has taken effect (R201). -/
def execEndI (f : SY) (s : State) : Outcome := .next (s.issue (.endI f) fun s =>
  ((((s.dropIssue s.me).modCtx s.me fun x =>
    { x with life := .ended,
             seq := { x.seq with next := .stop, nextLevels := [], levels := [], xfer := none, jump := false,
                                 delay := 0 } }).drainNow).signOfLife.sched s.t [12, s.me] (.twaitEnd s.me)).sched s.t [99]
    (.launchRetirement (s.partOf s.me)))

/-! ### The counter (R200, R204) -/

/-- TCHK: a sign of life when it is not squashed (R350); its fault is one of its issue. -/
def execTchk (f : SR) (s : State) : Outcome :=
  let s := if s.myCtx.guard f.g f.neg then s.signOfLife else s
  .next (s.issue (.tchk f) id)

/-- TWAIT: the next bundle issues at T, at which a solo region closes; what R8 calls for next, the fault of a chain that
ends included, comes at T (DEDUCED, log entry 47). -/
def execTwait (f : SR) (s : State) : Outcome := .next (s.issue (.twait f) fun s =>
  let x := s.myCtx
  if x.guard f.g f.neg then
    let T := x.bound f
    (((s.dropIssue s.me).modSeq fun q => { q with nextAt := T }).issueAt s.me T).sched T [12, s.me] (.twaitEnd s.me)
  else s)

end Sys2Proof.Machine
end

