-- ==== Sys2Proof/Machine/System.lean ====
section
/-! DEFINITION. Special registers, pigeonholes, solo regions, barriers, stages, spawns and checkpoint lines, as the S
slot reaches them (01 R16 to R22, 03 R77 to R80, 05 R110 to R112, 06 R146, 07 R156, 09 R196 to R213, 18 R327 to
R334). -/
namespace Sys2Proof.Machine

/-! ### Special registers (R16 to R22) -/

/-- Iterations of a loop level still to begin, 0 while it is inactive (R22). -/
def Seq.lcnt (q : Seq) (n : Nat) : Word := match q.levels.find? fun l => l.level == n with
  | some l => BitVec.ofNat 32 l.count
  | none => 0

/-- QOCC (R146). -/
def State.qocc (s : State) (c : Nat) : Word :=
  BitVec.ofNat 32 (s.occupancy c 0 + 2 ^ 4 * s.occupancy c 1 + 2 ^ 8 * s.occupancy c 2 + 2 ^ 12 * s.occupancy c 3
    + 2 ^ 16 * s.occupancy c 10 + 2 ^ 20 * s.occupancy c 11)

/-- The partition register that a select reads on a core: 0 where there is no partition. -/
def State.partWord (s : State) (c : Nat) (f : Part → Nat) : Word :=
  BitVec.ofNat 32 ((s.part (s.partOf c)).elim 0 f)

/-- RBCNT of a partition's launch as a word, and the index of its line in force (R327). -/
def Part.ckln (q : Part) : Nat := q.line / 4032

/-- Part k of a slot's latched counter words: counter bits [127:32] (R156). -/
def ctrPart (c : BitVec 96) (k : Nat) : Word := BitVec.ofNat 32 (c.toNat / 2 ^ (32 * k))

/-- The special register of a select as an RDSR issued in the present cycle samples it (R17). -/
def State.special (s : State) (n : Nat) : Word :=
  let x := s.myCtx
  match n with
  | 0x0000 => s.cid s.me
  | 0x0001 => x.pid
  | 0x0004 => lo32 s.t
  | 0x0005 => x.ttch
  | 0x0006 => lo32 s.gtc
  | 0x0007 => x.gtch
  | 0x0008 => BitVec.ofNat 32 (s.t / 4032 % 2 ^ 20 * 2 ^ 12 + s.t % 4032)
  | 0x0010 => BitVec.ofNat 32 x.seq.segOff
  | 0x0014 => x.seq.lcnt 0
  | 0x0015 => x.seq.lcnt 1
  | 0x0016 => x.seq.lcnt 2
  | 0x0100 => flagsWord x.va.flags
  | 0x0101 => flagsWord x.vb.flags
  | 0x0102 => lo32 x.va.seed.toNat
  | 0x0103 => hi32 x.va.seed.toNat
  | 0x0104 => lo32 x.vb.seed.toNat
  | 0x0105 => hi32 x.vb.seed.toNat
  | 0x0106 => s.qocc s.me
  | 0x0108 => lo32 x.va.key.toNat
  | 0x0109 => x.va.keyLatch
  | 0x010A => lo32 x.va.ctr.toNat
  | 0x010B => ctrPart x.va.ctrLatch 0
  | 0x010C => ctrPart x.va.ctrLatch 1
  | 0x010D => ctrPart x.va.ctrLatch 2
  | 0x0110 => lo32 x.vb.key.toNat
  | 0x0111 => x.vb.keyLatch
  | 0x0112 => lo32 x.vb.ctr.toNat
  | 0x0113 => ctrPart x.vb.ctrLatch 0
  | 0x0114 => ctrPart x.vb.ctrLatch 1
  | 0x0115 => ctrPart x.vb.ctrLatch 2
  | 0x0200 => x.stg
  | 0x0201 => x.spwe
  | 0x0202 => x.pcore
  | 0x0300 => (s.core s.me).syndrome.headD 0
  | 0x0301 => s.partWord s.me (·.rbcnt)
  | 0x0302 => s.partWord s.me Part.ckln
  | 0x0303 => BitVec.ofNat 32 (s.core s.me).undo.length
  | _ => 0

/-- The latches that a read of a low word sets at its issue (R20, R156). -/
def State.latch (s : State) (n : Nat) : State := match n with
  | 0x0004 => s.modCtx s.me fun x => { x with ttch := hi32 s.t }
  | 0x0006 => s.modCtx s.me fun x => { x with gtch := hi32 s.gtc }
  | 0x0108 => s.modCtx s.me fun x => { x with va := { x.va with keyLatch := hi32 x.va.key.toNat } }
  | 0x010A => s.modCtx s.me fun x => { x with va := { x.va with ctrLatch := BitVec.ofNat 96 (x.va.ctr.toNat / 2 ^ 32) } }
  | 0x0110 => s.modCtx s.me fun x => { x with vb := { x.vb with keyLatch := hi32 x.vb.key.toNat } }
  | 0x0112 => s.modCtx s.me fun x => { x with vb := { x.vb with ctrLatch := BitVec.ofNat 96 (x.vb.ctr.toNat / 2 ^ 32) } }
  | _ => s

/-- RDSR: the register as it stands at t, in sd at t+2. -/
def execRdsr (f : SY) (s : State) : Outcome :=
  .next ((s.latch f.sel).write 2 (.s f.sd (s.special f.sel)))

/-- The write that a WRSR of a writable select makes; the reserved bits of the word are ignored (R110, R111, R196). -/
def specialWrite (n : Nat) (w : Word) : Option RegWrite := match n with
  | 0x0100 => some (.flagsWrite .a (w.truncate 6))
  | 0x0101 => some (.flagsWrite .b (w.truncate 6))
  | 0x0102 => some (.seed .a false w)
  | 0x0103 => some (.seed .a true w)
  | 0x0104 => some (.seed .b false w)
  | 0x0105 => some (.seed .b true w)
  | 0x0201 => some (.spwe w)
  | _ => none

/-- WRSR: sa into the register at t+1; a write of a flag register lands before the flags set in its cycle (R110). -/
def execWrsr (f : SY) (s : State) : Outcome := .next (match specialWrite f.sel (s.myCtx.rs f.sa) with
  | some (.flagsWrite u w) => s.sched (s.t + 1) [9, s.t] (.registerWrite s.me (.flagsWrite u w))
  | some w => s.write 1 w
  | none => s)

/-! ### Admission, and faults that fall later (R240, R322) -/

/-- Whether an entry of an access table admits a request of a partition to a unit (R240). -/
def AccessEntry.admits (e : AccessEntry) (part : Nat) (write : Bool) (unit : Nat) : Bool :=
  e.part == part && (if write then e.wr else e.rd) && decide (e.base ≤ unit) && decide (unit ≤ e.limit)
def admitted (es : List AccessEntry) (part : Nat) (write : Bool) (unit : Nat) : Bool := es.any (·.admits part write unit)

/-- A fault of the present access at a cycle of its partition's TTC: no bundle of the partition issues there (R322). -/
def State.faultAt (s : State) (at_ code : Nat) (detail : List Word) : State :=
  s.sched at_ [50, 5] (.registerWrite s.me (.fault code none detail))

/-! ### Pigeonholes (R78 to R80) -/

/-- The live word of a pigeonhole as a read in the present cycle sees it: the old word beside a write (R245). -/
def State.pigOld (s : State) (q : Part) (n : Nat) : Word :=
  match s.pigWrites.find? fun w => w.part == q.num && w.n == n with
  | some w => w.old
  | none => q.pigLive[n]?.getD 0

/-- A program's read of a pigeonhole: latched for 0 to 63, live for the others (R79, R233). -/
def State.pigRead (s : State) (p n : Nat) : Word := match s.part p with
  | none => 0
  | some q => if n < 64 then q.pigLatched[n]?.getD 0 else s.pigOld q n

/-- Whether the pigeonhole block admits the executing core's partition to its own set (R240). -/
def State.pigOpen (s : State) (write : Bool) : Bool := admitted s.pigAccess (s.partOf s.me) write (s.partOf s.me)

/-- PGRD: the word in sd at t+2, or the permission fault there (R79, R240) (DEDUCED, log entry 6). -/
def execPgrd (f : SY) (s : State) : Outcome :=
  .next (if s.pigOpen false then s.write 2 (.s f.sd (s.pigRead (s.partOf s.me) f.sel))
    else s.faultAt (s.t + 2) 0x21 [BitVec.ofNat 32 f.sel])

/-- PGWR: the write at t+1, or the permission fault there (R80, R240) (DEDUCED, log entry 6). -/
def execPgwr (f : SY) (s : State) : Outcome := .next (s.issue (.pgwr f) fun s =>
  let p := s.partOf s.me
  if s.pigOpen true then s.sched (s.t + 1) [60, s.rankOf s.me] (.pigeonholeWrite p f.sel (s.myCtx.rs f.sa))
  else s.faultAt (s.t + 1) 0x21 [BitVec.ofNat 32 f.sel])

/-! ### The shared counter and solo regions (R199, R201) -/

def execTrd (f : SY) (s : State) : Outcome :=
  .next (s.write 1 (.s f.sd (if f.sel = 0 then lo32 s.t else hi32 s.t)))

/-- SOLO: the region covers the bundles from t+1. -/
def execSolo (f : SY) (s : State) : Outcome :=
  .next (s.issue (.solo f) fun s => s.write 1 (.solo (s.myCtx.rs f.sa)))

/-! ### Barriers (R206 to R208, R329) -/

def execBinit (f : SY) (s : State) : Outcome :=
  .next (s.write 1 (.barExpected f.sel ((s.myCtx.rs f.sa).truncate 16)))

/-- Cycles from a BARR to its arrival (R207). -/
def barrLatency : Reach → Nat
  | .self => 1
  | .cluster => 10
  | .die => 20
  | .far => 44

/-- The physical core of a rank of the executing core's partition (DEDUCED, log entry 6). -/
def State.coreOfRank (s : State) (rank : Nat) : Option Nat :=
  (s.part (s.partOf s.me)).bind fun q => q.coreAt rank

/-- The core that a request through die ports reaches: that of its rank, where its die port's table admits the request
(R231, R240). -/
def State.target (s : State) (write : Bool) (rank : Nat) : Option Nat :=
  (s.coreOfRank rank).filter fun c => admitted (s.die (dieOf c)).access (s.partOf s.me) write (c % 96)

/-- Whether data of the present access that pass between two dies meet a failed transfer: the detail of fault 0x33, which
names the link (R377). -/
def State.crossedBetween (s : State) (a b : Nat) : Option (List Word) :=
  if a ≠ b ∧ s.linkErrs.contains (s.me, s.t, s.cur.who.src) then
    some [BitVec.ofNat 32 (min a b), BitVec.ofNat 32 (max a b)]
  else none
def State.crossed (s : State) (die : Nat) : Option (List Word) := s.crossedBetween (dieOf s.me) die

/-- BARR: one arrival at its latency, or fault 0x33 there when its die-link transfer fails (R377); a rank of NCORE or more
is refused at t+2 (R329). -/
def execBarr (f : SY) (s : State) : Outcome := .next (s.issue (.barr f) fun s =>
  let rank := (s.myCtx.rs f.sa).toNat % 65536
  match s.target true rank with
  | some c =>
    let at_ := s.t + barrLatency (reach s.me c)
    match s.crossed (dieOf c) with
    | some d => s.faultAt at_ 0x33 d
    | none => s.sched at_ [90, s.rankOf s.me, 1] (.barrierArrival c f.sel)
  | none => s.sched (s.t + 2) [60, s.rankOf s.me, 13] (.deliveryFault rank 0))

/-- BCHK: equal counts reset the arrivals at t; the fault is one of its issue. -/
def execBchk (f : SY) (s : State) : Outcome := .next (s.issue (.bchk f) fun s =>
  s.modCtx s.me fun x =>
    { x with bars := x.bars.setIfInBounds f.sel { (x.bars[f.sel]?.getD ⟨0, 0⟩) with count := 0 } })

/-! ### Stages and spawns (R211, R213) -/

/-- A stage instruction performs at the ring at t+4. -/
def State.stage (s : State) (write release : Bool) (f : SY) : State :=
  s.sched (s.t + 4) [60, s.rankOf s.me, 13] (.stagePerform write release f.sel)

def execAcqsW (f : SY) (s : State) : Outcome := .next (s.issue (.acqsW f) fun s => s.stage true false f)
def execAcqsR (f : SY) (s : State) : Outcome := .next (s.issue (.acqsR f) fun s => s.stage false false f)
def execRelsW (f : SY) (s : State) : Outcome := .next (s.issue (.relsW f) fun s => s.stage true true f)
def execRelsR (f : SY) (s : State) : Outcome := .next (s.issue (.relsR f) fun s => s.stage false true f)

/-- SPAWN: its rank, arguments and entry are read at t and reach the target at t+16. -/
def execSpawn (f : SY) (s : State) : Outcome := .next (s.issue (.spawn f) fun s =>
  let x := s.myCtx
  s.sched (s.t + 16) [60, s.rankOf s.me, 13]
    (.spawnDelivery ((x.rs f.sa).toNat % 65536) (x.spwe.toNat % 2 ^ 23)
      ((List.range f.sel).map fun k => x.rs (f.sd + k))))

/-! ### Checkpoint lines (R326, R328, R330, R333, R334) -/

/-- A core's duplicate as it stands at the start of the present cycle; its undo log is cleared. -/
def Core.takeLine (k : Core) (before : Bool) : Core :=
  { k with dup := some (if before then { k.ctx with seq := k.ctx.seqBefore } else k.ctx), undo := [] }

/-- The stage slots of a partition, die slot after die slot (R333). -/
def State.slotsOf (s : State) (q : Part) : List StageSlot :=
  q.dies.flatMap fun d => ((s.die d).ring.toList.filter fun x => x.part == q.num)

/-- The line of a partition: its duplicate of pigeonholes and stage slots, and the duplicates of its cores that issue no
CKPT there: those that have ended, and those whose entry segment still expands. A line after the one rolled back to ends
the rollback's causing (R326). -/
def State.takePartLine (s : State) (q : Part) (t : Nat) : State :=
  let s := s.modPart q.num fun q =>
    { q with line := t, dupPig := (q.pigLive.toList.drop 64).take 62, dupSlots := s.slotsOf q,
             causing := if q.line < t then none else q.causing }
  q.cores.foldl (fun s c => s.modCore c fun k =>
    if k.ctx.life = .ended ∨ k.ctx.life = .starting then k.takeLine false else k) s

/-- CKPT: this core's duplicate, and with the lowest rank that marks the line the partition's. -/
def execCkpt (f : SY) (s : State) : Outcome := .next (s.issue (.ckpt f) fun s =>
  let s' := s.modCore s.me (Core.takeLine · true)
  match s.part (s.partOf s.me) with
  | some q => if (s.lineSplit q s.t).1.head? = some (s.rankOf s.me) then s'.takePartLine q s.t else s'
  | none => s')

def execFsyn (f : SY) (s : State) : Outcome :=
  .next (s.write 2 (.s f.sd ((s.core s.me).syndrome[f.sel]?.getD 0)))

end Sys2Proof.Machine
end

