-- ==== Sys2Proof/Machine/Access.lean ====
section
/-! DEFINITION. The shared operations of memory: region translation, device memory, scratchpad banks with their conflicts,
errors and undo log, and where the bytes of a read go (04 R83 to R97, 11 R231 to R240, 13 R257 to R267, 18 R334,
R408). -/
namespace Sys2Proof.Machine

/-! ### Region tables (R234, R236) -/

/-- A field of a region entry. -/
def regionField (e : BitVec 128) (hi lo : Nat) : Nat := field e.toNat hi lo

/-- The entry that covers a virtual address, with its index. -/
def findRegion (a : Nat) : Nat → List (BitVec 128) → Option (Nat × BitVec 128)
  | _, [] => none
  | i, e :: rest =>
    let vbase := regionField e 47 21 * 2 ^ 21
    if regionField e 127 127 = 1 ∧ vbase ≤ a ∧ a < vbase + 2 ^ regionField e 105 100 then some (i, e)
    else findRegion a (i + 1) rest

/-- A translation's outcome: the physical address and key slot, or the fault's code and the entry index that its detail
names. -/
def translate (rs : List (BitVec 128)) (write : Bool) (a : Nat) : Except (Nat × Nat) (Nat × Nat) :=
  match findRegion a 0 rs with
  | none => .error (0x20, 0xFF)
  | some (i, e) =>
    if regionField e (if write then 107 else 106) (if write then 107 else 106) = 0 then .error (0x21, i)
    else .ok (regionField e 81 64 * 2 ^ 21 + (a - regionField e 47 21 * 2 ^ 21), regionField e 113 108)

/-! ### Device memory (R232, R238, R257) -/

/-- Where a physical address lies: stack, pseudo-channel of the stack, row, bank, column. -/
def stackOf (phys : Nat) : Nat := phys / 2 ^ 36 % 8
def chanOf (phys : Nat) : Nat := phys / 2 ^ 34 % 4 * 16 + phys / 2 ^ 6 % 16
def rowOf (phys : Nat) : Nat := phys / 2 ^ 18 % 2 ^ 16
def bankOf (phys : Nat) : Nat := phys / 2 ^ 14 % 16
def colOf (phys : Nat) : Nat := phys / 2 ^ 10 % 16
/-- A channel group of the package: stack * 4 + group. -/
def groupOf (phys : Nat) : Nat := phys / 2 ^ 34 % 32
def bankUnit (phys : Nat) : ErrUnit := .dramBank (stackOf phys) (chanOf phys) (bankOf phys)

/-- The key that a tenant holds in a slot (R239); under a slot that holds none, all zeros (DESIGN CHOICE, log entry 50). -/
def State.keyOf (s : State) (tenant slot : Nat) : BitVec 512 :=
  match (s.tenants.find? fun t => t.num == tenant).bind fun t => t.keys.find? fun k => k.1 == slot with
  | some k => k.2
  | none => 0

/-- A unit's 64 bytes, decrypted under a key. -/
def State.plainUnit (s : State) (key : BitVec 512) (unit : Nat) : List Byte :=
  xtsUnit false key unit (s.dram.readBytes (64 * unit) 64)

/-- The units, from the one that holds a byte, that an access covers. -/
def unitsOf (phys size : Nat) : List Nat := (List.range ((size + 63) / 64)).map fun i => phys / 64 + i

/-- What the errors of a unit do to a read of it: the state with the event counted, and the unit blamed when the block
comes back poisoned (R267). A correction is counted in a poisoned block as in any other. -/
def State.unitErrors (s : State) (unit : Nat) : State × Option ErrUnit :=
  if s.dramBad.contains unit then (s.countErr (bankUnit (64 * unit)) true, some (bankUnit (64 * unit)))
  else
    (if s.dramSoft.contains unit then s.countErr (bankUnit (64 * unit)) false else s,
      (s.poison.find? fun p => p.1 == unit).map (·.2))

def State.unitsErrors (s : State) : List Nat → State × Option ErrUnit
  | [] => (s, none)
  | u :: us =>
    let (s, b) := s.unitErrors u
    let (s, b') := s.unitsErrors us
    (s, b <|> b')

/-- A read of device memory: the plain bytes, and the unit blamed for poison. -/
def State.readDevice (s : State) (key : BitVec 512) (phys size : Nat) : State × List Byte × Option ErrUnit :=
  let us := unitsOf phys size
  let (s, b) := s.unitsErrors us
  (s, ((us.flatMap (s.plainUnit key)).drop (phys % 64)).take size, b)

/-- A write of a whole unit stores a fresh code with the poison bit clear (R267). -/
def State.writeUnit (s : State) (key : BitVec 512) (unit : Nat) (data : List Byte) : State :=
  { s with dram := s.dram.writeBytes (64 * unit) (xtsUnit true key unit ((data ++ List.replicate 64 0).take 64)),
           poison := s.poison.filter fun p => p.1 != unit,
           dramBad := s.dramBad.filter (· != unit), dramSoft := s.dramSoft.filter (· != unit) }

/-- The consecutive units of a write, with their data. -/
def unitWrites (phys key : Nat) (data : List Byte) : List UnitWrite :=
  (List.range ((data.length + 63) / 64)).map fun i =>
    { phys := phys + 64 * i, data := (data.drop (64 * i)).take 64, key := key }

/-! ### Requests to the channel controllers (R260, R264) -/

/-- Memory slot k falls at cycle ⌊21k/16⌋. -/
def slotCycle (k : Nat) : Nat := 21 * k / 16
/-- The least slot at or after a cycle. -/
def slotFrom (c : Nat) : Nat := (16 * c + 20) / 21
/-- The slot of a cycle, if it has one. -/
def slotAt (c : Nat) : Option Nat := if slotCycle (slotFrom c) = c then some (slotFrom c) else none

/-- Pairing is judged at a cycle of a partition's TTC. -/
def State.pairAt (s : State) (p cycle : Nat) : State :=
  if s.due.any fun x => x.clock == some p && x.due == cycle && x.what == .memorySlot p then s
  else { s with due := s.due ++ [{ clock := some p, due := cycle, key := [60, 1000, p], who := Meta.none,
                                   what := .memorySlot p }] }

/-- A request on its way to its channel controllers. -/
def State.request (s : State) (r : MemReq) : State := { s with reqs := s.reqs ++ [r] }.pairAt r.part r.cycle

/-! ### Scratchpad banks (R83, R86) -/

def bankNo (a : Nat) : Nat := a / 64 % 32
def bankRow (a : Nat) : Nat := a / 2048 % 512

/-- The bank words (address / 64) that `size` bytes from an address touch. -/
def wordsTouched (a size : Nat) : List Nat := (List.range ((a % 64 + size + 63) / 64)).map fun i => a / 64 + i

/-- Keeping the first of the entries that agree on a key. -/
def dedup {α : Type} (same : α → α → Bool) : List α → List α
  | [] => []
  | x :: xs => x :: (dedup same xs).filter fun y => !same x y

/-- The bank words that an access uses, each with the lowest lane that needs it (R86, R95) (DEDUCED, log entry 25). -/
def BankAct.uses : BankAct → List (Nat × Nat)
  | .load a size _ => (wordsTouched a size).map fun w => (w, 0)
  | .store a data => (wordsTouched a data.length).map fun w => (w, 0)
  | .gather els _ _ _ => dedup (fun x y => x.1 == y.1) (els.map fun e => (e.2 / 64, e.1))
  | .scatter els _ => dedup (fun x y => x.1 == y.1) (els.map fun e => (e.2.1 / 64, e.1))
  | .tagged a _ _ _ => (wordsTouched a 256).map fun w => (w, 0)
  | .amoRead a _ _ _ _ _ => [(a / 64, 0)]
  | .pigeonhole _ _ _ => []
  | .refused _ => []

/-- A requester word (R406): code of R87, the lane, CORE field or queue, and the rank. -/
def reqWord (code mid rank : Nat) : Word := BitVec.ofNat 32 (code * 2 ^ 28 + mid * 2 ^ 16 + rank)

/-- This core as a requester at the core that holds the banks, by an access that is not local to it (R231). -/
def State.peerReq (s : State) (holder : Nat) : Word :=
  if holder / 8 = s.me / 8 then reqWord 2 (s.me % 8) (s.rankOf s.me) else reqWord 2 0 (s.rankOf s.me + 2 ^ 15)

/-- The code of a requester word. -/
def reqCode (w : Word) : Nat := w.toNat / 2 ^ 28

/-- A bank access falling due. -/
def State.bank (s : State) (due : Nat) (b : BankOp) : State := s.sched due [60, s.rankOf s.me] (.bankAccess b)

/-- A use of a solo bank by another requester than the core's own LD slot, its queue loads among its accesses (R202,
R203). -/
def State.intrudes (s : State) (b : BankOp) : Option (Nat × Nat) := match (s.ctx b.holder).solo with
  | none => none
  | some mask =>
    if reqCode b.req = 0 ∨ reqCode b.req = 3 then none
    else ((b.act.uses.map (·.1)).find? fun w => mask.getLsbD (w % 32)).map fun w => (w % 32, w / 32 % 512)

/-- The uses of one access, for the core that holds the banks. -/
def BankOp.log (b : BankOp) (who : Meta) : List BankUse := b.act.uses.map fun u =>
  { holder := b.holder, bank := u.1 % 32, row := u.1 / 32 % 512,
    req := if reqCode b.req = 0 then b.req ||| BitVec.ofNat 32 (u.2 * 2 ^ 16) else b.req, cyc := b.cyc, who := who }

/-- A use's code and identification, in the order of R87: a peer is identified by its CORE field, or its rank with bit 15
set, and then its cycle; a queue load by its queue, and then its cycle; any other requester by its cycle, and then its
lane. -/
def BankUse.ident (a : BankUse) : List Nat :=
  if reqCode a.req = 2 then
    [2, if a.req.toNat % 2 ^ 16 < 2 ^ 15 then a.req.toNat / 2 ^ 16 % 256 else a.req.toNat % 2 ^ 16, a.cyc, a.req.toNat]
  else if reqCode a.req = 3 then [3, a.req.toNat / 2 ^ 16 % 2 ^ 12, a.cyc, a.req.toNat]
  else [reqCode a.req, a.cyc, a.req.toNat]
def BankUse.before (a b : BankUse) : Bool := keyLt a.ident b.ident

/-- The conflict record of a core: its lowest conflicting bank, the two lowest requesters there, and the row that the
first of them uses (R87, R323) (DEDUCED, log entries 24 and 49). -/
def State.conflictRecord (s : State) (holder : Nat) (uses : List BankUse) : State :=
  let clash (b : Nat) : Bool := decide (2 ≤ (uses.filter fun u => u.bank == b).length)
  match (List.range 32).find? clash with
  | none => s
  | some b => match sortBy BankUse.before (uses.filter fun u => u.bank == b) with
    | x :: y :: _ =>
      s.raiseAt holder 0x15 x.who.src (if x.who.core = holder then x.who.bundle else 0xFFFFFFFF) (some x.who.issue)
        [BitVec.ofNat 32 b, BitVec.ofNat 32 x.row, x.req, lo32 x.cyc, y.req, lo32 y.cyc]
    | _ => s

/-- The first access of a cycle to a core's banks enters all uses of that cycle and records their conflict
(DEDUCED, log entry 19). -/
def State.enterUses (s : State) (b : BankOp) : State :=
  if s.bankUses.any fun u => u.holder == b.holder then s
  else
    let pending := s.due.filterMap fun x => match x.what with
      | .bankAccess o => if o.holder = b.holder ∧ s.isDue x ∧ (s.intrudes o).isNone then some (o.log x.who) else none
      | _ => none
    let uses := b.log s.cur.who ++ pending.flatten
    { s with bankUses := s.bankUses ++ uses }.conflictRecord b.holder uses

/-- The banks on which an access conflicts in this cycle. -/
def State.clashes (s : State) (holder bank : Nat) : Bool :=
  decide (2 ≤ (s.bankUses.filter fun u => u.holder == holder && u.bank == bank).length)

/-! ### Errors and the undo log (R97, R334) -/

/-- The 32-bit words that some bytes touch. -/
def wordNos (a size : Nat) : List Nat := (List.range ((a % 4 + size + 3) / 4)).map fun i => a / 4 + i

def State.spadUnit (holder a : Nat) : ErrUnit := .spadBank holder (bankNo a)

/-- A read of words: the correctable ones are corrected and counted, and the lowest uncorrectable one is named, in the one
record that the read makes (DESIGN CHOICE, log entry 49). -/
def State.readErrors (s : State) (holder : Nat) (ws : List Nat) : State × Option Nat :=
  let k := s.core holder
  let soft := ws.filter fun w => k.soft.contains w
  let s := soft.foldl (fun s w => (s.modCore holder fun k => { k with corrections := k.corrections + 1 }).countErr
    (State.spadUnit holder (4 * w)) false) s
  (s, (sortBy (fun a b => decide (a < b)) ws).find? fun w => k.bad.contains w)

/-- Fault 0x33 at a word of a core's scratchpad. -/
def State.wordFault (s : State) (holder w : Nat) : State :=
  (s.countErr (State.spadUnit holder (4 * w)) true).raiseBlame (some (State.spadUnit holder (4 * w))) 0x33
    [BitVec.ofNat 32 (bankNo (4 * w)), BitVec.ofNat 32 (bankRow (4 * w)), BitVec.ofNat 32 (w % 16)]

/-- The undo log takes the old contents of the bank words not yet in it; the copy corrects and counts. -/
def State.logWord (s : State) (holder w : Nat) : State :=
  let k := s.core holder
  let ws := (List.range 16).map fun i => 16 * w + i
  let s := (s.readErrors holder ws).1
  s.modCore holder fun k' =>
    { k' with undo := k'.undo ++ [{ word := w, old := k.spad.readBytes (64 * w) 64,
                                    bad := (List.range 16).filter fun i => k.bad.contains (16 * w + i) }] }

/-- A write of bytes to a core's scratchpad, in pieces: undo overflow stops all of it, and the core that holds the bank
records it (R323, R334), with the first word of the write that is not yet in the log (DESIGN CHOICE, log entry 24); a
write of whole words renews their codes. -/
def State.spadWrite (s : State) (holder : Nat) (req : Word) (pieces : List (Nat × List Byte)) : State :=
  let k := s.core holder
  let touched := dedup (· == ·) (pieces.flatMap fun p => wordsTouched p.1 p.2.length)
  let fresh := touched.filter fun w => !k.undo.any fun u => u.word == w
  if 1024 < k.undo.length + fresh.length then
    let w := fresh.headD 0
    s.raiseHolder holder 0x1A [BitVec.ofNat 32 (w % 32), BitVec.ofNat 32 (w / 32 % 512), BitVec.ofNat 32 (reqCode req)]
  else
    let s := fresh.foldl (fun s w => s.logWord holder w) s
    let covered := pieces.flatMap fun p => wordNos p.1 p.2.length
    s.modCore holder fun k =>
      { k with spad := pieces.foldl (fun m p => m.writeBytes p.1 p.2) k.spad,
               bad := k.bad.filter fun w => !covered.contains w,
               soft := k.soft.filter fun w => !covered.contains w }

/-- The parts of a piece that lie in banks without a conflict. -/
def State.clear (s : State) (holder : Nat) (p : Nat × List Byte) : List (Nat × List Byte) :=
  (wordsTouched p.1 p.2.length).filterMap fun w =>
    let lo := max p.1 (64 * w)
    let hi := min (p.1 + p.2.length) (64 * w + 64)
    if s.clashes holder (w % 32) then none else some (lo, (p.2.drop (lo - p.1)).take (hi - lo))

/-! ### Outstanding engine commands (R284, R290) -/

/-- The last cycle of a command whose accesses are not yet known. -/
def unknownEnd : Nat := 2 ^ 64

/-- The place of a command's start among the steps of its cycle: a link command removes its first row before the value
read of that cycle (R388). -/
def Cmd.startKey (c : Cmd) (rank : Nat) : List Nat :=
  [if c.op = 0x28 ∨ c.op = 0x29 then 28 else 40, rank, c.start, c.issue]

/-- A command becomes outstanding, and starts at S. -/
def State.startCmd (s : State) (c : Cmd) : State :=
  let s := s.modCore s.me fun k =>
    { k with te := (k.te.filter fun r => c.issue ≤ r.last) ++ [{ cmd := c, last := unknownEnd }] }
  { s with due := s.due ++ [{ clock := some (s.partOf s.me), due := c.start, key := c.startKey (s.rankOf s.me),
                              who := { s.cur.who with issue := c.issue, src := 8 }, what := .teCommandStart c }] }

/-- The kinds of command that a list may name (R290). -/
def listKinds : List Nat := [0x08, 0x09, 0x0A, 0x10, 0x11, 0x12, 0x18, 0x19, 0x1A]

/-- An entry of a transfer list, read at the present cycle as index `i` of the list command `c` (DEDUCED, log entry 23). An
empty entry meets the checks of its reserved bits and of the greatest OFF, and no check of OFF against i + 4 (DESIGN
CHOICE, log entry 23). -/
def State.runEntry (s : State) (c : Cmd) (i : Nat) (data : List Byte) : State :=
  let n := leNat data
  let kind := field n 183 176
  let off := field n 159 128
  let cyc := c.start + i
  let detail (d : List Word) : List Word := d ++ [BitVec.ofNat 32 c.op, lo32 c.start, BitVec.ofNat 32 i]
  let live := ((s.core s.me).te.filter fun r => cyc ≤ r.last).length
  if field n 255 184 ≠ 0 ∨ off > 1048575 ∨ (kind ≠ 0 ∧ kind ∉ listKinds) then s.raiseAs 8 0x23 (detail [])
  else if kind = 0 then s
  else if off < i + 4 then s.raiseAs 8 0x10 (detail [5])
  else if 64 ≤ live then s.raiseAs 8 0x14 [64, BitVec.ofNat 32 kind]
  else s.startCmd { op := kind, start := c.start + off, issue := cyc, shape := BitVec.ofNat 128 n,
                    tag := BitVec.ofNat 16 (field n 175 160) }

/-! ### Routes (R382) -/

/-- Hops and port of one dimension (R382): ports 2i and 2i+1 face up and down. -/
def routeDim (i src dst extent : Nat) : Nat × Nat :=
  let d := (dst + extent - src) % extent
  if 2 * d ≤ extent then (d, 2 * i) else (extent - d, 2 * i + 1)

/-- The hop count and the first port of the route to a package (R382). -/
def State.route (s : State) (dst : Nat × Nat × Nat) : Nat × Nat :=
  let ds := [routeDim 0 s.coords.1 dst.1 s.extents.1, routeDim 1 s.coords.2.1 dst.2.1 s.extents.2.1,
    routeDim 2 s.coords.2.2 dst.2.2 s.extents.2.2]
  ((ds.map (·.1)).foldl (· + ·) 0, ((ds.find? fun d => d.1 != 0).map (·.2)).getD 0)

/-! ### Where the bytes of a read go -/

/-- A link row's window: the flit takes its slot then (R383). -/
def State.placeFlit (s : State) (window : Nat) (f : Flit) : State :=
  s.sched window [70, if f.transit then 0 else 1, f.rank, f.source, f.start, f.elem, f.idx] (.flitSlotPlacement f)

/-- The mark of element e of a tagged command (R287, R294, R386). -/
def Cmd.mark (c : Cmd) (e : Nat) : Option Nat :=
  if c.shape.getLsbD 1 then some ((c.tag.toNat + e / 32) % 65536) else none

/-- A row of queue format with a mark and poison. -/
def rowOfBytes (data : List Byte) (mark : Option Nat) (bad : Option ErrUnit) : Row :=
  { words := wordsOf data, mark := mark, poison := bad }

/-- A flit of the present partition that starts from here; what a caller knows of it is filled in by the caller. -/
def State.flit (s : State) (port window source start : Nat) : Flit :=
  { port := port, window := window, group := (s.part (s.partOf s.me)).bind (·.group), transit := false, from_ := s.coords,
    reply := false, rank := s.rankOf s.me, source := source, start := start, elem := 0, idx := 0, dest := 0, addr := 0,
    row := none }

/-- An access, element or row leaves for another package: it performs there at a cycle, and a refusal comes back at
another (R230, R236, R385). -/
def State.sendAway (s : State) (elem performs faultAt : Nat) : State := s.modCore s.me fun k =>
  { k with away := (k.away.filter fun r => decide (s.now ≤ max r.performs r.faultAt)) ++
      [{ who := s.cur.who, elem := elem, performs := performs, faultAt := faultAt }] }

/-- The die that carries a port (DEDUCED, log entry 31). -/
def dieOfPort (port : Nat) : Nat := port / 2

/-- What the present core sends to a port meets the die link on its way there: a failed transfer is fault 0x33 where the
data would be used, at cycle `use`, and nothing is sent (R377). -/
def State.toPort (s : State) (port use : Nat) (send : State → State) : State := match s.crossed (dieOfPort port) with
  | some d => s.faultAt use 0x33 d
  | none => send s

/-- The flit of one row that a link command sends (R386, R387). -/
def State.sendRow (s : State) (c : Cmd) (e : Nat) (r : Row) : State :=
  let port := field c.shape.toNat 63 61
  let lands := c.start + e + 194
  s.toPort port lands fun s => (s.sendAway e lands lands).placeFlit (c.start + e + 4)
    { s.flit port (c.start + e + 4) 2 c.start with elem := e, dest := field c.shape.toNat 57 49, row := some r }

/-- The bytes of a read take their way, poisoned or not. Rows of several LDQ that reach one queue in one cycle are appended
in the order of their issue (DESIGN CHOICE, log entry 2). -/
def State.deliver (s : State) (sink : Sink) (data : List Byte) (bad : Option ErrUnit) : State := match sink with
  | .dreg n at_ => s.sched at_ [10, s.t, 1] (.registerWrite s.me (match bad with
      | some u => .fault 0x30 (some u) []
      | none => .d n allLanes (lanesOf (wordsOf data))))
  | .queue q at_ => s.sched at_ [20, 0, s.t] (.queueLoadAppend s.me q (rowOfBytes data none bad))
  | .shape n at_ => s.sched at_ [10, s.t, 7] (.registerWrite s.me (.h n (BitVec.ofNat 128 (leNat data))))
  | .inbound c e at_ =>
    s.sched at_ (if c.op = 0x09 then [20, 4, c.start, e] else [50, 1, s.rankOf s.me, c.start, e])
      (.engineElementArrival c e data bad)
  | .outbound c e at_ =>
    if c.op = 0x12 then s.sched at_ [20, 5, s.rankOf s.me, c.start, e] (.multicastDelivery c e (rowOfBytes data (c.mark e) bad))
    else s.sched at_ [50, 2, s.rankOf s.me, c.start, e] (.engineFarWrite c e data)
  | .config at_ => s.sched at_ [10, s.t, 7] (.configWrite (BitVec.ofNat 512 (leNat data)))
  | .parents c e => { s with due := s.due.map fun x => match x.what with
      | .ancestryReplace c' tb => if c' = c ∧ x.who.core = s.me then { x with what := .ancestryReplace c (tb ++ [(e, data)]) } else x
      | _ => x }
  | .entry c i => s.runEntry c i data
  | .send c e => s.sendRow c e (rowOfBytes data (c.mark e) bad)
  | .remote o at_ => (List.range (max 1 (data.length / 256))).foldl (fun s i => s.placeFlit at_
      { s.flit (s.route o.from_).2 at_ o.source o.start with
        from_ := o.from_, reply := true, rank := o.rank, elem := o.elem, idx := i,
        row := some (rowOfBytes ((data.drop (256 * i)).take 256) none bad) }) s

/-- The cycle at which the data of a sink are used. -/
def Sink.useAt : Sink → Option Nat
  | .dreg _ t | .queue _ t | .shape _ t | .inbound _ _ t | .outbound _ _ t | .config t => some t
  | _ => none

/-- The bytes of a read on a die take their way; those whose die-link transfer fails are fault 0x33 where they would be
used (R377). -/
def State.deliverFrom (s : State) (die : Nat) (sink : Sink) (data : List Byte) (bad : Option ErrUnit) : State :=
  match s.crossed die, sink.useAt with
  | some d, some t => s.faultAt t 0x33 d
  | _, _ => s.deliver sink data bad

/-- A read command is answered by its data at the RD cycle, a write command performs 100 cycles after its WR (R230). A
request that the channel controllers' table refuses is fault 0x21 where it would be used (R240). The bytes of another
package's request cross from the stack's die to the arrival port's; a read of which the crossing fails answers nothing
here, and its fault is the other package's (R377) (DEDUCED, log entry 31). -/
def State.serve (s : State) (r : MemReq) : State :=
  let s := { s with cur := { s.cur with who := r.who } }
  let tenant := (s.part r.part).elim 0 (·.tenant)
  let die := stackOf r.phys / 2
  let home := if r.kind = 2 then dieOfPort r.source else dieOf s.me
  let perform : Timed := { clock := some r.part, due := r.performs, key := [90, 2], who := r.who,
                           what := .deviceWritePerform tenant (unitWrites r.phys r.key r.data) }
  let open_ := (unitsOf r.phys r.size).all fun u =>
    admitted (s.hbm[stackOf (64 * u)]?.getD Stack.reset).access r.part r.write (chanOf (64 * u))
  let use := if r.write then some r.performs else r.sink.useAt
  if ¬ open_ then use.elim s fun t => s.faultAt t 0x21 [lo32 r.ea, hi32 r.ea]
  else match s.crossedBetween home die with
  | some d => use.elim s fun t => s.faultAt t 0x33 d
  | none =>
    if r.write then { s with due := s.due ++ [perform] }
    else
      let (s, data, bad) := s.readDevice (s.keyOf tenant r.key) r.phys r.size
      s.deliver r.sink data bad

end Sys2Proof.Machine
end

