-- ==== Sys2Proof/Machine/CoreEvents.lean ====
section
/-! DEFINITION. The steps that fall due inside a core and between cores: the issue of a bundle, expansions, register and
pigeonhole writes, arrivals, stage operations, spawns and the end of a wait (01 R7 to R9, R13, 02 R48, 03 R80,
09 R204, R207, R211 to R213, 18 R322, R329). -/
namespace Sys2Proof.Machine

/-! ### The issue of a bundle (R7, R8, R322) -/

/-- Judging every bundle of a partition due in the present cycle, whatever core the present step names. -/
def State.judge (s : State) (q : Part) (c t : Nat) : State :=
  let due := q.cores.filter fun k => k == c || s.dueNow.any fun x => x.what == .bundleIssue k
  let fs := due.flatMap (s.bundleFaults · t) ++ s.lineFaults q t
  let s := fs.foldl (fun s f => if f.code = 0x33 then f.blame.elim s fun u => s.countErr u true else s) s
  s.modPart q.num fun q => { q with judged := some t, faultsNow := q.faultsNow ++ fs }

/-- The successor of the segment that a core has just entered: its expansion begins at the entry (R48). -/
def State.startSuccessor (s : State) (c t : Nat) : State :=
  let q := (s.ctx c).seq
  let put (h : Option Half) : State := s.modCtx c fun x => { x with seq := x.seq.setHalf (!x.seq.inB) h }
  match q.resident with
  | none => s
  | some g =>
    if g.head.next = 0 then put none
    else
      let off := (targetOffset g.off g.head.next).toNat
      let ready := t + s.costAt c off
      (put (some { off := off, ready := ready, seg := none })).expandAt c ready (!q.inB) off

/-- The corrections that the reads of a bundle make in its core's register and array storage (R192, R408). -/
def State.correctReads (s : State) (c : Nat) (x : Ctx) : State :=
  let k := s.core c
  let hits := x.slots.flatMap fun w => match w.2.2 with
    | .ok i => x.regHits w.1 i k.regSoft ++ k.mxSoft.filter (x.mxReads i)
    | .error _ => []
  hits.foldl (fun s _ => s.coreSoft c) s

/-- The marks of the latches that a bundle's RDSRs write anew (R20, R156, R320). -/
def State.renewLatches (s : State) (c : Nat) (x : Ctx) : State :=
  let ns := x.slots.flatMap fun w => match w.2.2 with
    | .ok (.rdsr f) => latchedBy f.sel
    | _ => []
  let keep (b : Nat × Nat × Nat) : Bool := !(b.1 == 17 && ns.contains b.2.1)
  s.modCore c fun k => { k with regBad := k.regBad.filter keep, regSoft := k.regSoft.filter keep }

/-- A bundle takes its cycle: the sequencer advances, and the instructions of its slots execute next, slot 0 first. -/
def State.startBundle (s : State) (c t : Nat) : State :=
  let enter := (s.ctx c).seq.next = .enter
  let s := s.modCtx c fun x => { x with seqBefore := x.seq, seq := x.seq.advance t }
  let s := if enter then s.startSuccessor c t else s
  let x := s.ctx c
  let s := (s.correctReads c x).renewLatches c x
  { s.issueAt c (t + 1) with
    cur := { s.cur with who := { core := c, issue := t, src := 0, bundle := x.seq.bundleAddr }, slot := 0,
                        todo := x.todo } }

/-- A member that is to follow its link group into recess at D + 190h, and comes to a line from D on and before that,
recesses at the line (R391). -/
def State.joinAtLine (s : State) (q : Part) (t : Nat) : State :=
  let follows (x : Timed) : Bool := match x.what with
    | .groupRecess p false d from_ => p == q.num && decide (d ≤ t) && decide (t ≤ d + 190 * (s.route from_).1)
    | _ => false
  if t % 4032 = 0 ∧ ¬ (s.lineSplit q t).1.isEmpty ∧ s.due.any follows then
    (s.dropDue follows).modPart q.num fun q => { q with joining := true }
  else s

/-- BUNDLE_ISSUE: no bundle of a partition issues in a cycle in which the partition takes a fault (R25, R322). -/
def execBundleIssue (s : State) : Outcome := match s.cur.work with
  | .bundleIssue c => match s.part (s.partOf c) with
    | none => .next s
    | some q =>
      let t := q.ttc s.gtc
      let s := if q.judged = some t then s else (s.joinAtLine q t).judge q c t
      if (s.part q.num).any fun q => q.joining || !q.faultsNow.isEmpty then .next s else .next (s.startBundle c t)
  | _ => .next s

/-- SEGMENT_EXPANSION: the segment is resident; a spawned core runs from this cycle (R48, R213). -/
def execSegmentExpansion (s : State) : Outcome := match s.cur.work with
  | .segmentExpansion c half off =>
    let seg := s.segmentAt c off
    .next (s.modCtx c fun x =>
      { x with life := if x.life = .starting then .running else x.life,
               seq := x.seq.setHalf half ((x.seq.half half).map fun h => { h with seg := some seg }) })
  | _ => .next s

/-! ### Register writes (R13, R320) -/

/-- Whether a write renews a word of a register (file, register and word as `regReads` names them): a write of some
fields of a word of a wide register renews all of it (DEDUCED, log entry 47). -/
def RegWrite.renews : RegWrite → Nat → Nat → Nat → Bool
  | .s n _, file, reg, _ => file == 0 && reg == n
  | .p n _, file, reg, _ => file == 1 && reg == n
  | .d n m _, file, reg, i => file == 2 && reg == n && lane m i != 0
  | .v .a n m _, file, reg, i => file == 3 && reg == n && lane m i != 0
  | .v .b n m _, file, reg, i => file == 4 && reg == n && lane m i != 0
  | .h n _, file, reg, _ => file == 8 && reg == n
  | .l n m _, file, reg, i => file == 9 && reg == n && field m.toNat (32 * i + 31) (32 * i) != 0
  | .ag n m _, file, reg, i => file == 10 && reg == n && field m.toNat (32 * i + 31) (32 * i) != 0
  | .vm u n m _, file, reg, i =>
    file == (if u = .a then 11 else 12) && reg == n && field m.toNat (32 * i + 31) (32 * i) != 0
  | .tie u n _, file, reg, _ => file == (if u = .a then 13 else 14) && reg == n
  | .seed u hi _, file, reg, i => file == (if u = .a then 15 else 16) && reg == 0 && i == (if hi then 1 else 0)
  | .key u _, file, reg, _ => file == (if u = .a then 15 else 16) && reg == 1
  | .ctr u _, file, reg, _ => file == (if u = .a then 15 else 16) && reg == 2
  | .flagsWrite u _, file, reg, _ => file == 17 && reg == (if u = .a then 0x0100 else 0x0101)
  | .spwe _, file, reg, _ => file == 17 && reg == 0x0201
  | .etag _, file, _, _ => file == 18
  | .barExpected n _, file, reg, _ => file == 19 && reg == n
  | _, _, _, _ => false

/-- A fault that falls in place of a write; one of nobody's is what a neighbour sent to a core, and has no issue (R324). -/
def State.writeFault (s : State) (core code : Nat) (u : Option ErrUnit) (d : List Word) : State :=
  if s.cur.who.src = 13 then s.raiseFor u core code 11 0xFFFFFFFF none d else s.raiseBlame u code d

/-- REGISTER_WRITE: the write lands, or its fault does, and nothing is written (R267). -/
def execRegisterWrite (s : State) : Outcome := match s.cur.work with
  | .registerWrite c (.fault code u d) => .next (s.writeFault c code u d)
  | .registerWrite c w => .next (s.modCore c fun k =>
      { k with ctx := k.ctx.apply w, regBad := k.regBad.filter fun b => !w.renews b.1 b.2.1 b.2.2,
               regSoft := k.regSoft.filter fun b => !w.renews b.1 b.2.1 b.2.2 })
  | _ => .next s

/-! ### Pigeonhole writes (R80, R233) -/

/-- A live word is written; the word it replaces stays readable for the rest of the cycle (R245). -/
def State.pigWrite (s : State) (p n : Nat) (w : Word) : State :=
  let old : PigWrite :=
    { part := p, n := n, rank := s.rankOf s.me, old := (s.part p).elim 0 fun q => q.pigLive[n]?.getD 0 }
  { s with pigWrites := s.pigWrites ++ [old] }.modPart p fun q => { q with pigLive := q.pigLive.setIfInBounds n w }

/-- PIGEONHOLE_WRITE: two writes of one pigeonhole in one cycle conflict, and neither performs (DEDUCED, log entry 17). -/
def execPigeonholeWrite (s : State) : Outcome := match s.cur.work with
  | .pigeonholeWrite p n w =>
    let same (x : Timed) : Bool := s.isDue x && match x.what with
      | .pigeonholeWrite p' n' _ => p' == p && n' == n
      | _ => false
    match sortBy (fun a b => decide (a < b)) ((s.due.filter same).map fun x => s.rankOf x.who.core) with
    | [] => .next (s.pigWrite p n w)
    | r :: _ => .next ((s.dropDue same).raise 0x15
        [BitVec.ofNat 32 n, BitVec.ofNat 32 (min r (s.rankOf s.me)), BitVec.ofNat 32 (max r (s.rankOf s.me))])
  | _ => .next s

/-! ### Arrivals (R207, R329) -/

/-- Why a signal to a core is refused: gated 1, reset 2. -/
def State.refusal (s : State) (c : Nat) : Option Nat :=
  if (s.ctx c).life = .gated then some 1 else if (s.core c).wasReset then some 2 else none

/-- The rank at which the present core's partition holds a core, whatever that core's own registers say after a reset. -/
def State.rankIn (s : State) (c : Nat) : Nat :=
  ((s.part (s.partOf s.me)).bind fun q => q.cores.findIdx? (· == c)).getD (s.rankOf c)

/-- BARRIER_ARRIVAL: one arrival counts, to at most 0xFFFF; a refused one is answered after as long a way back. -/
def execBarrierArrival (s : State) : Outcome := match s.cur.work with
  | .barrierArrival c n => match s.refusal c with
    | some st => .next (s.sched (s.now + (s.now - s.t)) [60, s.rankOf s.me, 13] (.deliveryFault (s.rankIn c) st))
    | none => .next (s.modCtx c fun x =>
        let b := x.bars[n]?.getD ⟨0, 0⟩
        { x with bars := x.bars.setIfInBounds n { b with count := if b.count = 0xFFFF then 0xFFFF else b.count + 1 } })
  | _ => .next s

/-- DELIVERY_FAULT: the sender takes fault 0x40 at the reply cycle. -/
def execDeliveryFault (s : State) : Outcome := match s.cur.work with
  | .deliveryFault rank st => .next (s.raiseAs 13 0x40 [BitVec.ofNat 32 rank, BitVec.ofNat 32 st])
  | _ => .next s

/-! ### Stages (R211, R212) -/

/-- The number of a stage slot's state (DEDUCED, log entry 22). -/
def SlotState.code : SlotState → Nat
  | .empty => 0
  | .writing => 1
  | .full => 2
  | .reading => 3

/-- The requirement and the effect of a stage instruction on a slot, for a core of stage `st` of `nstg` + 1 (R211). -/
def StageSlot.after (x : StageSlot) (write release : Bool) (st nstg rank : Nat) : Option StageSlot :=
  match write, release with
  | true, false => if x.state = .empty then
      some { x with state := .writing, owner := (st + 1) % (nstg + 1), holder := rank } else none
  | true, true => if x.state = .writing ∧ x.holder = rank then some { x with state := .full } else none
  | false, false => if x.state = .full ∧ x.owner = st then some { x with state := .reading, holder := rank } else none
  | false, true => if x.state = .reading ∧ x.holder = rank then some { x with state := .empty } else none

/-- The stage fault of a request on the slot it found (R212). -/
def State.stageFault (s : State) (who : Meta) (k : Nat) (x : StageSlot) : State :=
  s.raiseAt who.core 0x16 13 who.bundle (some who.issue)
    [BitVec.ofNat 32 k, BitVec.ofNat 32 x.state.code, BitVec.ofNat 32 x.owner, BitVec.ofNat 32 x.holder,
      BitVec.ofNat 32 (s.rankOf who.core)]

/-- STAGE_PERFORM: the slot is checked and changed; instructions that meet on one slot fault, and none changes it. A slot
that the partition does not have is named with state, owner and holder 0 (DEDUCED, log entry 22). -/
def execStagePerform (s : State) : Outcome := match s.cur.work with
  | .stagePerform write release k =>
    let p := s.partOf s.me
    let die := dieOf s.me
    let mine (x : StageSlot) : Bool := x.part == p && x.k == k
    let found := ((s.die die).ring.toList.find? mine).filter fun x => x.part != 0
    let meets (x : Timed) : Bool := s.isDue x && dieOf x.who.core == die && s.partOf x.who.core == p &&
      match x.what with
      | .stagePerform _ _ k' => k' == k
      | _ => false
    let others := s.due.filter meets
    if ¬ others.isEmpty then
      let slot := found.getD StageSlot.free
      .next (others.foldl (fun s x => s.stageFault x.who k slot)
        ((s.dropDue meets).stageFault s.cur.who k slot))
    else
      let x := s.myCtx
      match found.bind fun y => y.after write release (x.stg.toNat % 16) (x.stg.toNat / 16 % 16) x.rank with
      | some y => .next (s.modDie die fun d => { d with ring := d.ring.map fun z => if mine z then y else z })
      | none => .next (s.stageFault s.cur.who k (found.getD StageSlot.free))
  | _ => .next s

/-! ### Spawns (R213) -/

/-- A delivered spawn: the arguments land, over a write of the ended stream that falls due with them (DESIGN CHOICE, log
entry 41), the loop buffer is emptied and the entry segment expands into half A. -/
def State.spawnOn (s : State) (c off : Nat) (args : List Word) : State :=
  let ready := s.now + s.costAt c off
  (((s.dropExpansion c).modCtx c fun x =>
    { x with life := .starting, solo := none,
             s := (List.range args.length).foldl (fun r k => r.setIfInBounds (k + 1) (args.getD k 0)) x.s,
             seq := { Seq.empty with halfA := some { off := off, ready := ready, seg := none }, inB := true,
                                     next := .enter, nextAt := ready } }).expandAt c ready false off).issueAt c ready

/-- Why a spawn of `from_` on a core is turned away, `others` being the spawners that reach it in the same cycle. -/
def State.spawnBusy (s : State) (from_ c : Nat) (others : List Nat) : Option (Nat × Word) :=
  let none32 : Word := 0xFFFFFFFF
  if c / 8 ≠ from_ / 8 then some (1, none32)
  else match (s.ctx c).life with
    | .starting => some (3, none32)
    | .ended => match sortBy (fun a b => decide (a < b)) others with
      | [] => none
      | r :: _ => some (4, BitVec.ofNat 32 r)
    | _ => some (2, none32)

/-- One spawn's outcome at its delivery cycle. -/
def State.deliverSpawn (s : State) (who : Meta) (rank off : Nat) (args : List Word) (others : List Nat) : State :=
  let fault (code : Nat) (d : List Word) : State := s.raiseAt who.core code 13 who.bundle (some who.issue) d
  match s.target true rank with
  | none => fault 0x40 [BitVec.ofNat 32 rank, 0]
  | some c => match s.refusal c with
    | some st => fault 0x40 [BitVec.ofNat 32 rank, BitVec.ofNat 32 st]
    | none => match s.spawnBusy who.core c others with
      | some (reason, w) => fault 0x17 [BitVec.ofNat 32 rank, BitVec.ofNat 32 reason, w]
      | none => s.spawnOn c off args

/-- SPAWN_DELIVERY: the spawns that reach one target in one cycle are judged together. -/
def execSpawnDelivery (s : State) : Outcome := match s.cur.work with
  | .spawnDelivery rank off args =>
    let p := s.partOf s.me
    let twins := s.dueNow.filter fun x => s.partOf x.who.core == p && match x.what with
      | .spawnDelivery r _ _ => r == rank
      | _ => false
    let ranks (ws : List Meta) : List Nat := ws.map fun w => s.rankOf w.core
    let all := s.cur.who :: twins.map (·.who)
    let s := s.dropDue fun x => twins.contains x
    let s := s.deliverSpawn s.cur.who rank off args (ranks (twins.map (·.who)))
    .next (twins.foldl (fun s x => s.deliverSpawn x.who rank 0 [] (ranks (all.filter (· != x.who)))) s)
  | _ => .next s

/-! ### The end of a wait (R204) -/

/-- TWAIT_END: a solo region closes at T. -/
def execTwaitEnd (s : State) : Outcome := match s.cur.work with
  | .twaitEnd c => .next (s.modCtx c fun x => { x with solo := none })
  | _ => .next s

end Sys2Proof.Machine
end

