-- ==== Sys2Proof/Machine/Context.lean ====
section
/-! DEFINITION. The context image of a core (19 R343). -/
namespace Sys2Proof.Machine

/-! ### The context image (R343) -/

/-- Bytes cut or filled with 0 to a size. -/
def fit (n : Nat) (bs : List Byte) : List Byte := (bs ++ List.replicate (n - bs.length) 0).take n

def le (n v : Nat) : List Byte := leBytes n v

/-- The sizes of the sections, in order. -/
def sectionSizes : List Nat :=
  [256, 1792, 16384, 49152, 1024, 8192, 4096, 17408, 32768, 32768, 4096, 16384, 25088, 2048, 8192]

def Life.code : Life → Nat
  | .gated => 0
  | .idle => 1
  | .loaded => 2
  | .running => 3
  | .recessed => 4
  | .starting => 5
  | .ended => 6

/-- The selects that chapters assign (R17). -/
def assignedSelects : List Nat :=
  [0x000, 0x001, 0x004, 0x005, 0x006, 0x007, 0x008, 0x010, 0x014, 0x015, 0x016, 0x100, 0x101, 0x102, 0x103, 0x104, 0x105,
    0x106, 0x108, 0x109, 0x10A, 0x10B, 0x10C, 0x10D, 0x110, 0x111, 0x112, 0x113, 0x114, 0x115, 0x200, 0x201, 0x202, 0x300,
    0x301, 0x302, 0x303]

def lanesBytes (v : Lanes) : List Byte := bytesOf v.toList

/-- The state as a core reads its special registers at a cycle. -/
def State.asCore (s : State) (c t : Nat) : State :=
  { s with cur := { s.cur with who := { core := c, issue := t, src := 0, bundle := 0xFFFFFFFF } } }

def halfBytes : Option Half → List Byte
  | none => le 16 (2 ^ 128 - 1)
  | some h => le 4 h.off ++ le 8 h.ready ++ le 4 (b2w h.seg.isSome).toNat

/-- What a sequencer goes on with, and when. -/
def Next.bytes (n : Next) (at_ : Nat) : List Byte := le 4 (match n with
  | .stop => 0
  | .enter => 1
  | .filler => 2
  | .exhausted => 3
  | .bundle i => 4 + i) ++ le 8 at_

/-- Loop levels with their counts. -/
def levelBytes (ls : List Level) : List Byte := (List.range 3).flatMap fun n => match ls.find? fun l => l.level == n with
  | some l => le 4 1 ++ le 4 l.first ++ le 4 l.last ++ le 4 l.count
  | none => le 16 0

/-- Loop levels and counts; the segment, the bundle index and the progress of the loop buffer; what comes next, and a transfer
of control under way. -/
def Seq.bytes (q : Seq) : List Byte :=
  levelBytes q.levels ++ le 4 q.segOff ++ le 4 q.idx ++ le 4 (b2w q.inB).toNat ++ halfBytes q.halfA ++ halfBytes q.halfB ++
  q.next.bytes q.nextAt ++ levelBytes q.nextLevels ++ (match q.xfer with
    | some x => x.2.bytes x.1
    | none => le 12 (2 ^ 96 - 1)) ++ le 8 q.issued ++ le 4 q.delay ++ le 4 ((b2w q.jump).toNat + 2 * (b2w q.inDelay).toNat + 4 * (b2w q.filler).toNat)

def Row.markWord (r : Row) : Nat := (r.mark.getD 0x10000) + (if r.poison.isSome then 2 ^ 31 else 0)

/-- A row, its tag mark and its poison mark; a queue: its row count, and its rows from the head, each with its mark. -/
def Row.bytes (r : Row) : List Byte := bytesOf r.words ++ le 4 r.markWord
def queueBytes (rows : List Row) (cap size : Nat) : List Byte :=
  le 4 rows.length ++ fit (cap * (size + 4)) (rows.flatMap Row.bytes)

def Cmd.bytes (c : Cmd) : List Byte := le 4 c.op ++ le 8 c.start ++ le 8 c.issue ++ le 16 c.shape.toNat ++ le 2 c.tag.toNat

def VecUnit.bytes (v : VecUnit) : List Byte :=
  le 4 v.flags.toNat ++ le 8 v.seed.toNat ++ le 8 v.key.toNat ++ le 16 v.ctr.toNat

def Plane.bytes (p : Plane) : List Byte := p.rows.toList.flatMap fun r => bytesOf r.toList

def RowState.bytes (r : RowState) : List Byte := bytesOf [r.cmax, r.csum, r.ccomp, r.cscl, r.status]

def Window.bytes (w : Window) : List Byte :=
  (w.accs.toList.flatMap fun a => le 12 a.a.toNat) ++
  le 32 (bitsNat (fun i => (w.accs[i]?.map (·.sat)).getD false) 256) ++
  le 32 (bitsNat (fun i => (w.accs[i]?.map (·.nan)).getD false) 256)

/-- A chain block and its beats, without their scores. -/
def Beat.bytes (b : Beat) : List Byte :=
  le 8 b.issue ++ le 1 ((b2w b.keyed).toNat + 2 * (b2w b.peek).toNat) ++ le 1 b.qb ++ le 8 b.mask.toNat
def Block.bytes (b : Block) : List Byte :=
  le 8 b.first ++ le 64 b.cfg.toNat ++ le 4 b.number ++ le 4 b.beats.length ++ b.beats.flatMap Beat.bytes

/-- What the value reads and updates of a block still take from it: its scores, beat by beat, and the probabilities of its
rows once they are formed. -/
def Block.operands (b : Block) : List Byte :=
  le 8 b.first ++ le 4 b.probs.length ++ (b.beats.flatMap fun x => bytesOf x.scores) ++ b.probs.flatMap bytesOf

/-! ### Kept effects (R340, R341) -/

def VSlot.code : VSlot → Nat
  | .a => 0
  | .b => 1

/-- The unit that a mark blames. -/
def ErrUnit.bytes : ErrUnit → List Byte
  | .dramBank st ch b => le 1 1 ++ le 1 st ++ le 1 ch ++ le 1 b
  | .nmUnit st => le 1 2 ++ le 1 st ++ le 2 0
  | .spadBank c b => le 1 3 ++ le 2 c ++ le 1 b
  | .coreArrays c => le 1 4 ++ le 2 c ++ le 1 0
  | .port p => le 1 5 ++ le 1 p ++ le 2 0
  | .remote l => le 1 6 ++ le 1 (b2w l).toNat ++ le 2 0
/-- The poison mark of bytes on their way, and the unit that set it. -/
def markBytes (u : Option ErrUnit) : List Byte := u.elim (le 4 0) ErrUnit.bytes

/-- A row on its way: the row, and the unit that set its poison mark. -/
def Row.kept (r : Row) : List Byte := r.bytes ++ markBytes r.poison

/-- A register write: its file, its register, and what it writes; a write of parts of a wide register gives the parts. -/
def RegWrite.bytes : RegWrite → List Byte
  | .s n w => le 2 0 ++ le 2 n ++ wordBytes w
  | .g m x => le 2 1 ++ le 1 m.toNat ++ le 1 x.toNat
  | .p n w => le 2 2 ++ le 2 n ++ le 8 w.toNat
  | .d n m x => le 2 3 ++ le 2 n ++ le 32 (bitsNat (fun i => lane m i != 0) 256) ++ lanesBytes x
  | .l n m x => le 2 4 ++ le 2 n ++ le 32 m.toNat ++ le 32 x.toNat
  | .ag n m x => le 2 5 ++ le 2 n ++ le 32 m.toNat ++ le 32 x.toNat
  | .v u n m x => le 2 (6 + u.code) ++ le 2 n ++ le 32 (bitsNat (fun i => lane m i != 0) 256) ++ lanesBytes x
  | .vm u n m x => le 2 (8 + u.code) ++ le 2 n ++ le 32 m.toNat ++ le 32 x.toNat
  | .flagsSet u f => le 2 (10 + u.code) ++ le 1 f.toNat
  | .flagsWrite u f => le 2 (12 + u.code) ++ le 1 f.toNat
  | .seed u hi w => le 2 (14 + u.code) ++ le 2 (b2w hi).toNat ++ wordBytes w
  | .key u k => le 2 (16 + u.code) ++ le 8 k.toNat
  | .ctr u c => le 2 (18 + u.code) ++ le 16 c.toNat
  | .tie u n img => le 2 (20 + u.code) ++ le 2 n ++ bytesOf (img.toList.take 198)
  | .h n x => le 2 22 ++ le 2 n ++ le 16 x.toNat
  | .etag x => le 2 23 ++ le 2 x.toNat
  | .spwe w => le 2 24 ++ wordBytes w
  | .barExpected n x => le 2 25 ++ le 2 n ++ le 2 x.toNat
  | .dp x => le 2 26 ++ le 2 x
  | .keyCounter => le 2 27
  | .solo m => le 2 28 ++ wordBytes m
  | .tag n x => le 2 29 ++ le 2 n ++ le 2 x.toNat
  | .fault code u words => le 2 30 ++ le 2 code ++ markBytes u ++ bytesOf words

def Origin.bytes (o : Origin) : List Byte :=
  le 1 o.from_.1 ++ le 1 o.from_.2.1 ++ le 1 o.from_.2.2 ++ le 2 o.rank ++ le 1 o.source ++ le 8 o.start ++ le 4 o.elem ++
    le 8 o.issue

/-- Where the bytes of a read go, and the cycle at which they get there. -/
def Sink.bytes : Sink → List Byte
  | .dreg n at_ => le 1 0 ++ le 1 n ++ le 8 at_
  | .queue q at_ => le 1 1 ++ le 1 q ++ le 8 at_
  | .shape n at_ => le 1 2 ++ le 1 n ++ le 8 at_
  | .inbound c e at_ => le 1 3 ++ c.bytes ++ le 4 e ++ le 8 at_
  | .outbound c e at_ => le 1 4 ++ c.bytes ++ le 4 e ++ le 8 at_
  | .config at_ => le 1 5 ++ le 8 at_
  | .parents c e => le 1 6 ++ c.bytes ++ le 4 e
  | .entry c i => le 1 7 ++ c.bytes ++ le 4 i
  | .send c e => le 1 8 ++ c.bytes ++ le 4 e
  | .remote o at_ => le 1 9 ++ o.bytes ++ le 8 at_

def AmoOp.code : AmoOp → Nat
  | .add => 0
  | .min => 1
  | .max => 2
  | .swap => 3
  | .cas => 4

def BankAct.bytes : BankAct → List Byte
  | .load a n sink => le 1 0 ++ le 4 a ++ le 4 n ++ sink.bytes
  | .store a data => le 1 1 ++ le 4 a ++ data
  | .gather els k tg at_ => le 1 2 ++ le 1 k ++ le 1 tg ++ le 8 at_ ++ els.flatMap fun e => le 1 e.1 ++ le 4 e.2
  | .scatter els half => le 1 3 ++ le 1 (b2w half).toNat ++ els.flatMap fun e => le 1 e.1 ++ le 4 e.2.1 ++ e.2.2
  | .tagged a x tg at_ => le 1 4 ++ le 4 a ++ le 2 x ++ le 1 tg ++ le 8 at_
  | .amoRead a o v c tg at_ => le 1 5 ++ le 1 o.code ++ le 4 a ++ wordBytes v ++ wordBytes c ++ le 1 tg ++ le 8 at_
  | .pigeonhole n tg at_ => le 1 6 ++ le 1 n ++ le 1 tg ++ le 8 at_
  | .refused d => le 1 7 ++ bytesOf d

/-- An LD access that its address check awaits, with the solo mask it is judged under and its generator's condition. -/
def Access.bytes (a : Access) : List Byte :=
  (match a.kind with
    | .load => le 1 0
    | .store => le 1 1
    | .ldq => le 1 2
    | .ldt x => le 1 3 ++ le 2 x
    | .gather => le 1 4
    | .scatter half => le 1 5 ++ le 1 (b2w half).toNat
    | .amo o => le 1 6 ++ le 1 o.code
    | .stnt => le 1 7) ++
  le 1 a.tg ++ le 8 a.ea.toNat ++ le 2 a.size ++ lanesBytes a.data ++ le 2 a.lanes.length ++
  (a.lanes.flatMap fun l => le 1 l.1 ++ le 8 l.2.toNat) ++ le 8 (a.solo.elim 0 fun m => 2 ^ 32 + m.toNat) ++
  a.gen.elim (le 1 0) fun d => le 1 1 ++ bytesOf d

/-- A flit on its way to a departure slot. -/
def Flit.bytes (f : Flit) : List Byte :=
  le 1 f.port ++ le 8 f.window ++ le 2 (f.group.getD 0xFFFF) ++ le 1 ((b2w f.transit).toNat + 2 * (b2w f.reply).toNat) ++
  le 1 f.from_.1 ++ le 1 f.from_.2.1 ++ le 1 f.from_.2.2 ++ le 2 f.rank ++ le 1 f.source ++ le 8 f.start ++ le 4 f.elem ++
  le 1 f.idx ++ le 1 f.dest ++ le 4 f.addr ++ f.row.elim [] Row.kept

def NmCmd.bytes (c : NmCmd) : List Byte := le 32 c.rec_.toNat ++ le 8 c.start ++ le 8 c.issue

/-- What a kept effect does: a code, in the order of the table of steps for the first of them, and its operands; nothing for a
step that is no effect of a core, or that its sequencer's state names already (DEDUCED, log entry 38). -/
def Work.effect : Work → List Byte
  | .registerWrite _ w => le 1 0 ++ w.bytes
  | .bankAccess b => le 1 1 ++ le 2 b.holder ++ wordBytes b.req ++ le 8 b.cyc ++ b.act.bytes
  | .queueLoadAppend _ q r => le 1 2 ++ le 1 q ++ r.kept
  | .queuePushAppend _ q r => le 1 3 ++ le 1 q ++ r.kept
  | .pigeonholeWrite _ n w => le 1 4 ++ le 1 n ++ wordBytes w
  | .deviceWritePerform t us => le 1 5 ++ le 2 t ++ us.flatMap fun u => le 8 u.phys ++ le 1 u.key ++ u.data
  | .stntUnitWrite u => le 1 6 ++ le 1 u.unit ++ le 8 u.phys ++ le 1 u.key ++ u.data
  | .drainCompletion _ t => le 1 7 ++ le 8 t
  | .barrierArrival c n => le 1 8 ++ le 2 c ++ le 1 n
  | .deliveryFault r st => le 1 9 ++ le 2 r ++ le 1 st
  | .spawnDelivery r off args => le 1 10 ++ le 2 r ++ le 4 off ++ bytesOf args
  | .stagePerform w r k => le 1 11 ++ le 1 ((b2w w).toNat + 2 * (b2w r).toNat) ++ le 1 k
  | .engineElementIssue c e => le 1 12 ++ c.bytes ++ le 4 e
  | .engineElementArrival c e data u => le 1 13 ++ c.bytes ++ le 4 e ++ markBytes u ++ data
  | .engineFarWrite c e data => le 1 14 ++ c.bytes ++ le 4 e ++ data
  | .windowAddition c w i ws => le 1 15 ++ le 2 c ++ le 1 w ++ le 1 i ++ bytesOf ws
  | .multicastDelivery c e r => le 1 16 ++ c.bytes ++ le 4 e ++ r.kept
  | .configWrite v => le 1 17 ++ le 64 v.toNat
  | .nmBlockWrite c k data bad => le 1 18 ++ c.bytes ++ le 4 k ++ bad.elim (le 5 0) (fun b => le 1 (b.1 + 1) ++ b.2.bytes) ++ data
  | .shadowRowWrite row ws f cb => le 1 19 ++ le 1 row ++ le 1 f ++ le 1 (cb.getD 0xFF) ++ bytesOf ws
  | .scoreRowAppend o ws => le 1 20 ++ le 1 o ++ bytesOf ws
  | .accumulatorUpdate col row f book => le 1 21 ++ le 1 f ++ le 32 book.toNat ++ bytesOf col ++ bytesOf row
  | .drainRowAppend o ws => le 1 22 ++ le 1 o ++ bytesOf ws
  | .codebookWrite n v => le 1 23 ++ le 1 n ++ le 32 v.toNat
  | .chainValueRead b i => le 1 24 ++ le 4 b ++ le 4 i
  | .chainUpdate b i row => le 1 25 ++ le 4 b ++ le 4 i ++ bytesOf row
  | .normalisedRowAppend o row ws e => le 1 26 ++ le 1 o ++ le 1 row ++ le 1 (b2w e).toNat ++ bytesOf ws
  | .rowStateSaveAppend o ws => le 1 27 ++ le 1 o ++ bytesOf ws
  | .rowStateLoad g ws => le 1 28 ++ le 1 g ++ bytesOf ws
  | .planeExchange => le 1 29
  | .accumulatorClear => le 1 30
  | .chainReset => le 1 31
  | .ldAddressCheck a => le 1 32 ++ a.bytes
  | .teCommandStart c => le 1 33 ++ c.bytes
  | .tlistEntryRead c i => le 1 34 ++ c.bytes ++ le 4 i
  | .ancestryReplace c table => le 1 35 ++ c.bytes ++ table.flatMap fun x => le 1 x.1 ++ x.2
  | .nmcStart c => le 1 36 ++ c.bytes
  | .nmBlockRead c k => le 1 37 ++ c.bytes ++ le 4 k
  | .nmDataFault c k which u => le 1 38 ++ c.bytes ++ le 4 k ++ le 1 which ++ u.bytes
  | .linkSendElement c e => le 1 39 ++ c.bytes ++ le 4 e
  | .linkForwardElement c e => le 1 40 ++ c.bytes ++ le 4 e
  | .flitSlotPlacement f => le 1 41 ++ f.bytes
  | _ => []

/-- A request on its way to its channel controllers, among the kept effects: its cycle is its due TTC. -/
def MemReq.effect (r : MemReq) : List Byte :=
  le 8 r.cycle ++ le 8 r.who.issue ++ le 1 r.who.src ++ wordBytes r.who.bundle ++ le 1 42 ++ le 1 (b2w r.write).toNat ++ le 8 r.phys ++ le 8 r.ea ++
    le 4 r.size ++ le 1 r.kind ++ le 2 r.source ++ le 1 r.key ++ le 8 r.performs ++ r.sink.bytes ++ r.data
def Timed.effect (x : Timed) : List Byte :=
  if x.what.effect.isEmpty then [] else le 8 x.due ++ le 8 x.who.issue ++ le 1 x.who.src ++ wordBytes x.who.bundle ++ x.what.effect

/-! ### The sections -/

/-- The stage slots of a partition, or what they held when its cores were given away. -/
def State.slotShare (s : State) (q : Part) : List StageSlot := match s.slotsOf q with
  | [] => q.keptSlots
  | xs => xs

/-- The sections of a core's image, before each is brought to its size; the planes' words fill section 8, and their latches
stand in section 10; the operands of value reads and updates that stand in their blocks come last in section 14, as far as it
reaches (DEDUCED, log entry 38). -/
def State.sections (s : State) (q : Part) (e r c : Nat) : List (List Byte) :=
  let k := s.core c
  let x := k.ctx
  let kept := s.due.filter fun y => y.ofPart q.num && y.who.core == c
  let reqs := s.reqs.filter fun r => r.part == q.num && r.who.core == c
  [le 4 r ++ le 4 (s.cid c).toNat ++ le 4 x.life.code ++ le 8 e ++ sectionSizes.flatMap (le 4),
   bytesOf x.s.toList ++ le 4 x.g.toNat ++ (x.p.toList.flatMap fun v => le 8 v.toNat) ++
     (x.l.toList.flatMap fun v => le 32 v.toNat) ++ (x.ag.toList.flatMap fun v => le 32 v.toNat) ++
     bytesOf (assignedSelects.map (s.asCore c e).special) ++ x.seq.bytes ++
     le 8 (match x.solo with | some m => 2 ^ 32 + m.toNat | none => 0),
   x.d.toList.flatMap lanesBytes,
   x.va.regs.toList.flatMap lanesBytes ++ x.vb.regs.toList.flatMap lanesBytes,
   (x.va.masks.toList.flatMap fun v => le 32 v.toNat) ++ (x.vb.masks.toList.flatMap fun v => le 32 v.toNat) ++
     x.va.bytes ++ x.vb.bytes,
   (x.va.ties.toList ++ x.vb.ties.toList).flatMap fun t =>
     fit 1024 (bytesOf (t.img.toList.take 198) ++ le 4 (b2w t.valid).toNat),
   (x.h.toList.flatMap fun v => le 16 v.toNat) ++ le 4 x.etag.toNat ++
     (k.te.flatMap fun t => t.cmd.bytes ++ le 8 t.last) ++ (k.nm.flatMap fun t => le 8 t.start ++ le 8 t.last ++ le 8 t.issue),
   ((List.range 4).flatMap fun i => queueBytes (x.queue i) 8 256) ++
     queueBytes (x.queue 10) 8 512 ++ queueBytes (x.queue 11) 8 512,
   x.mx.active.bytes ++ x.mx.shadow.bytes,
   x.mx.value.toList.flatMap fun v => bytesOf v.toList,
   (x.mx.rows.toList.flatMap RowState.bytes) ++ le 64 x.mx.cfg.toNat ++ le 64 x.mx.latched.toNat ++ le 4 x.mx.keyCounter ++
     le 4 x.mx.blockCounter ++ le 4 x.mx.dp ++ le 4 (b2w x.mx.isOpen).toNat ++ fit 768 (if x.mx.isOpen then x.mx.blocks.getLast?.elim [] Block.bytes else []) ++
     (x.mx.books.toList.flatMap fun v => le 32 v.toNat) ++
     [x.mx.active.fmt, x.mx.active.book, x.mx.shadow.fmt, x.mx.shadow.book].flatMap (le 4),
   le 8192 x.mx.validity.toNat ++ le 8192 x.mx.ancestry.toNat,
   x.windows.toList.flatMap Window.bytes,
   (x.windows.toList.flatMap fun w => le 4 (BitVec.ofInt 32 w.e).toNat) ++
     (x.bars.toList.flatMap fun b => le 2 b.expected.toNat ++ le 2 b.count.toNat) ++
     (x.tags.toList.flatMap fun t => le 2 t.toNat) ++
     ((s.slotShare q).flatMap fun t => [t.k, t.state.code, t.owner].map (BitVec.ofNat 8) ++ le 2 t.holder) ++
     (k.stnts.flatMap fun t => le 8 t.issue ++ wordBytes t.bundle ++ le 8 (t.covered.getD (2 ^ 64 - 1)) ++
       le 2 (bitsNat (fun u => t.units.any fun p => p / 64 % 16 == u) 16)),
   kept.flatMap Timed.effect ++ reqs.flatMap MemReq.effect ++ (x.mx.blocks.flatMap Block.bytes) ++ x.mx.blocks.flatMap Block.operands]

/-- The image of a core's context, 219 648 bytes (DEDUCED, log entry 38). -/
def State.contextImage (s : State) (q : Part) (e r c : Nat) : List Byte :=
  (List.zipWith fit sectionSizes (s.sections q e r c)).flatten

end Sys2Proof.Machine
end

