-- ==== Sys2Proof/Machine/Matrix.lean ====
section
/-! DEFINITION. The MX slot: planes, scores, the value array, the softmax stage and the chain (08 R162 to R193). -/
namespace Sys2Proof.Machine

/-! ### Rows of stream formats (R166) -/

/-- The elements of a row, `n` to a word. -/
def rowElements (n : Nat) (words : List Word) : List Nat :=
  words.flatMap fun w => (List.range n).map fun j => w.toNat / 2 ^ (32 / n * j) % 2 ^ (32 / n)

/-- An MX element under its block's scale. -/
def mxValue (v : FV) (scale : Nat) : FV := if scale = 0xFF then qnan false else v.scale ((scale : Int) - 127)

/-- The first `count` elements, each under the scale byte of its block of 32; +0 up to `depth`. -/
def mxRow (es : List FV) (count depth : Nat) (scales : List Nat) : List FV :=
  ((List.zip (es.take count) (List.range count)).map fun x => mxValue x.1 (scales.getD (x.2 / 32) 0)) ++
    List.replicate (depth - count) (.fin false 0 0)

/-- The values of a 256-byte row, position by position, under a stream format and its codebook. -/
def rowValues (fmt : Nat) (book : BitVec 256) (words : List Word) : List FV := match fmt with
  | 0 => (rowElements 2 words).map FV.ofBF16
  | 1 => (rowElements 4 words).map FV.ofE4M3
  | 2 => (rowElements 4 words).map FV.ofE5M2
  | 3 => mxRow ((rowElements 4 words).map FV.ofE4M3) 224 256 ((rowElements 4 words).drop 224)
  | 4 => mxRow ((rowElements 8 words).map FV.ofE2M1) 480 512 ((rowElements 4 words).drop 240)
  | _ => (rowElements 8 words).map (bookEntry book)

/-! ### Scores and rank updates (R170, R173) -/

/-- A sum with an accumulator first: products and sum exact, one rounding. -/
def accumulate (acc : Word) (ps : List (FV × FV)) : Word :=
  (arith .rne (FV.of32 acc :: ps.flatMap fun p => [p.1, p.2]) (some (FV.of32 acc) :: ps.map fun p => p.1.mul p.2)).1

/-- The score of a stationary row against a streamed row, cell by cell. -/
def scoreOf (depth limit : Nat) (a b : List FV) : Word :=
  (chunks (depth / 128) 128 ((List.zip a b).take limit)).foldl (fun acc ps => if ps.isEmpty then acc else accumulate acc ps) 0

def Mx.book (m : Mx) (n : Nat) : BitVec 256 := m.books[n]?.getD 0

/-- The 64 scores of a streamed row against the active plane. -/
def Mx.scores (m : Mx) (fmt cb limit : Nat) (row : List Word) : List Word :=
  let b := rowValues fmt (m.book cb) row
  m.active.rows.toList.map fun r =>
    scoreOf (depthOf fmt) limit (rowValues m.active.fmt (m.book m.active.book) r.toList) b

/-- Elements of one rank: 1, 2 or 4 for the class of a format (R173). -/
def rankOfFmt (fmt : Nat) : Nat := if fmt = 0 then 1 else if fmt = 5 then 4 else 2

/-- A rank update of the accumulators. -/
def rankUpdate (value : Vector OWords 64) (col row : List FV) (r : Nat) : Vector OWords 64 :=
  let cs := chunks r 64 col
  let rs := chunks r 128 row
  Vector.ofFn fun i => Vector.ofFn fun k =>
    accumulate (value[i][k]) (List.zip (cs.getD i.val []) (rs.getD k.val []))

/-! ### MX state and its code words (R162, R192) -/

def Mx.rowState (m : Mx) (i : Nat) : RowState := m.rows[i]?.getD RowState.launch
def Mx.accRow (m : Mx) (i : Nat) : OWords := m.value[i]?.getD (Vector.replicate 128 0)

def RowState.words (r : RowState) : List Word := [r.cmax, r.csum, r.ccomp, r.cscl, r.status]

/-- Marks of array words dropped where a write renews them. -/
def State.renewMx (s : State) (c : Nat) (f : Nat × Nat × Nat → Bool) : State := s.modCore c fun k =>
  { k with mxBad := k.mxBad.filter fun b => !f b, mxSoft := k.mxSoft.filter fun b => !f b }

/-- A read of array words after the issue: the correctable ones are counted, and the lowest uncorrectable one is
fault 0x33. -/
def State.readMx (s : State) (f : Nat × Nat × Nat → Bool) : State :=
  let k := s.core s.me
  let s := (k.mxSoft.filter f).foldl (fun s _ => s.coreSoft s.me) s
  match sortBy (fun a b : Nat × Nat × Nat => keyLt [a.1, a.2.1, a.2.2] [b.1, b.2.1, b.2.2]) (k.mxBad.filter f) with
  | [] => s
  | b :: _ => (s.countErr (.coreArrays s.me) true).raiseBlame (some (.coreArrays s.me)) 0x33 (markDetail [b])

/-- The head row of a queue, taken or peeked at the present cycle; the faults are those of the issue. -/
def State.headRow (s : State) (q : Nat) : List Word := ((s.myCtx.queue q).headD { words := [], mark := none, poison := none }).words

/-! ### Planes (R168, R169) -/

def execSlatch (f : MXF) (s : State) : Outcome := .next (s.issue (.slatch f) fun s =>
  let row := s.headRow f.qa
  (s.take s.me f.qa f.pa).mxWrite 2 (.shadowRowWrite f.idx row f.fmt (if f.fmt = 5 then some f.cb else none)))

def execSswap (f : MXF) (s : State) : Outcome :=
  .next (s.issue (.sswap f) fun s => s.mxWrite 2 .planeExchange)

/-- SHADOW_ROW_WRITE. -/
def execShadowRowWrite (s : State) : Outcome := match s.cur.work with
  | .shadowRowWrite row words fmt cb =>
    .next ((s.modMx s.me fun m =>
      { m with shadow := { rows := m.shadow.rows.setIfInBounds row (Vector.ofFn fun i => words.getD i.val 0),
                           fmt := fmt, book := cb.getD m.shadow.book } }).renewMx s.me fun b => b.1 == 1 && b.2.1 == row)
  | _ => .next s

/-- PLANE_EXCHANGE. -/
def execPlaneExchange (s : State) : Outcome := match s.cur.work with
  | .planeExchange =>
    let swap (b : Nat × Nat × Nat) : Nat × Nat × Nat := (if b.1 = 0 then 1 else if b.1 = 1 then 0 else b.1, b.2)
    .next ((s.modMx s.me fun m => { m with active := m.shadow, shadow := m.active }).modCore s.me fun k =>
      { k with mxBad := k.mxBad.map swap, mxSoft := k.mxSoft.map swap })
  | _ => .next s

/-! ### Streaming (R171, R172, R176) -/

/-- The o queue that flags [8] names, by queue code. -/
def outQueue (f : MXF) : Nat := if f.oq then 11 else 10

/-- An o row falling due: 128 words, filled up with +0, appended in the order of R164. -/
def State.oRow (s : State) (lat : Nat) (what : List Word → Work) (words : List Word) : State :=
  s.mxWrite lat (what ((words ++ zeroWords 128).take 128))

def execSpush (f : MXF) (s : State) : Outcome := .next (s.issue (.spush f) fun s =>
  let row := s.headRow f.qa
  let sc := s.myCtx.mx.scores f.fmt f.cb (depthOf f.fmt) row
  (s.take s.me f.qa f.pa).oRow 192 (.scoreRowAppend (outQueue f)) sc)

/-- SVPAIR: a score row and a rank update at once; the rows are read A, B, C, each read seeing the queues as the ones
before it leave them. -/
def execSvpair (f : MXF) (s : State) : Outcome := .next (s.issue (.svpair f) fun s =>
  let m := s.myCtx.mx
  let rowA := s.headRow f.qa
  let s := s.take s.me f.qa f.pa
  let rowB := s.headRow f.qb
  let s := s.take s.me f.qb f.pb
  let rowC := s.headRow f.qc
  let s := s.take s.me f.qc f.pc
  (s.mxWrite 4 (.accumulatorUpdate rowB rowC f.vfmt (m.book f.cb))).oRow 192 (.scoreRowAppend (outQueue f))
    (m.scores f.fmt f.cb (depthOf f.fmt) rowA))

/-- SCORE_ROW_APPEND. -/
def execScoreRowAppend (s : State) : Outcome := match s.cur.work with
  | .scoreRowAppend o words => .next (s.append s.me o s.t { words := words, mark := none, poison := none })
  | _ => .next s

/-! ### The value array (R173, R174) -/

def execVopa (f : MXF) (s : State) : Outcome := .next (s.issue (.vopa f) fun s =>
  let book := s.myCtx.mx.book f.cb
  let col := s.headRow f.qa
  let s := s.take s.me f.qa f.pa
  let row := s.headRow f.qb
  (s.take s.me f.qb f.pb).mxWrite 4 (.accumulatorUpdate col row f.fmt book))

/-- ACCUMULATOR_UPDATE: an accumulator with an uncorrectable word is not written (R192). -/
def execAccumulatorUpdate (s : State) : Outcome := match s.cur.work with
  | .accumulatorUpdate col row fmt book =>
    let bad := (s.core s.me).mxBad
    let s := s.readMx fun b => b.1 == 2
    .next ((s.modMx s.me fun m =>
      let v := rankUpdate m.value (rowValues fmt book col) (rowValues fmt book row) (rankOfFmt fmt)
      { m with value := if bad.isEmpty then v else
          Vector.ofFn fun i => Vector.ofFn fun k => if bad.contains (2, i.val, k.val) then m.value[i][k] else v[i][k] }
      ).modCore s.me fun k => { k with mxSoft := k.mxSoft.filter fun b => b.1 != 2 })
  | _ => .next s

def execVzero (f : MXF) (s : State) : Outcome := .next (s.issue (.vzero f) fun s => s.mxWrite 1 .accumulatorClear)

/-- ACCUMULATOR_CLEAR. -/
def execAccumulatorClear (s : State) : Outcome := match s.cur.work with
  | .accumulatorClear => .next ((s.modMx s.me fun m =>
      { m with value := Vector.replicate 64 (Vector.replicate 128 0), dp := 0 }).renewMx s.me fun b => b.1 == 2)
  | _ => .next s

/-- DP counts modulo 64 (R163). -/
def State.nextDp (s : State) : State := s.write 1 (.dp (s.myCtx.mx.dp + 1))

def execVdrain (f : MXF) (s : State) : Outcome := .next (s.issue (.vdrain f) fun s =>
  let m := s.myCtx.mx
  (s.oRow 6 (.drainRowAppend (outQueue f)) (m.accRow m.dp).toList).nextDp)

/-- DRAIN_ROW_APPEND. -/
def execDrainRowAppend (s : State) : Outcome := match s.cur.work with
  | .drainRowAppend o words => .next (s.append s.me o s.t { words := words, mark := none, poison := none })
  | _ => .next s

/-! ### Codebooks (R175) -/

def execCbld (f : MXF) (s : State) : Outcome := .next (s.issue (.cbld f) fun s =>
  let v := BitVec.ofNat 256 (leNat (bytesOf ((s.headRow f.qa).take 8)))
  (s.take s.me f.qa f.pa).mxWrite 2 (.codebookWrite f.cb v))

/-- CODEBOOK_WRITE. -/
def execCodebookWrite (s : State) : Outcome := match s.cur.work with
  | .codebookWrite n v => .next ((s.modMx s.me fun m => { m with books := m.books.setIfInBounds n v }).renewMx s.me
      fun b => b.1 == 4 && b.2.1 == n)
  | _ => .next s

/-! ### The mask unit (R189 to R191) -/

/-- The base rule for a query position, MODE by MODE. -/
def baseRule (cfg : BitVec 512) (ancestry : BitVec 65536) (qpos kpos : Nat) : Bool :=
  match cfgField cfg 257 256 with
  | 0 => true
  | 1 => decide (kpos ≤ qpos)
  | 2 => decide (qpos ≤ kpos + cfgField cfg 223 192) && decide (kpos ≤ qpos + cfgField cfg 255 224)
  | _ =>
    let tb := cfgField cfg 191 160
    if kpos < tb then true
    else if tb + 256 ≤ kpos then false
    else if qpos < tb ∨ tb + 256 ≤ qpos then false
    else ancestry.getLsbD ((qpos - tb) * 256 + (kpos - tb))

/-- The bitmap and count terms of a key. -/
def keyTerms (cfg : BitVec 512) (validity : BitVec 65536) (kpos : Nat) : Bool :=
  let vb := cfgField cfg 159 128
  (cfgField cfg 264 264 == 0 ||
    (if vb ≤ kpos ∧ kpos < vb + 65536 then validity.getLsbD (kpos - vb) else cfgField cfg 263 263 == 1)) &&
  decide (kpos < cfgField cfg 127 96)

/-- The rows that a key is allowed for, formed at its issue. -/
def Mx.keyMask (m : Mx) : BitVec 64 :=
  let kpos := cfgField m.latched 95 64 + m.keyCounter
  let open_ := keyTerms m.latched m.validity kpos
  BitVec.ofNat 64 (bitsNat (fun i => open_ && baseRule m.latched m.ancestry (cfgField m.latched 63 32 + i) kpos) 64)

/-! ### Blocks (R181 to R183) -/

def execChs (f : MXF) (s : State) : Outcome := .next (s.issue (.chs f) fun s =>
  (s.modMx s.me fun m => { m with latched := m.cfg }).mxWrite 1 .chainReset)

/-- CHAIN_RESET (R180). -/
def execChainReset (s : State) : Outcome := match s.cur.work with
  | .chainReset => .next ((s.modMx s.me fun m =>
      { m with rows := Vector.replicate 64 RowState.launch, value := Vector.replicate 64 (Vector.replicate 128 0),
               keyCounter := 0, blockCounter := 0, dp := 0 }).renewMx s.me fun b => b.1 == 2 || b.1 == 3)
  | _ => .next s

/-- The depth limit of chain scores (R179). -/
def chainLimit (cfg : BitVec 512) (fmt : Nat) : Nat :=
  let d := cfgField cfg 274 266
  if d = 0 ∨ depthOf fmt < d then depthOf fmt else d

/-- A beat joins the open block, or opens one; the 32nd closes it. -/
def Mx.addBeat (m : Mx) (b : Beat) : Mx :=
  let blocks := if m.isOpen then
      match m.blocks.reverse with
      | x :: rest => rest.reverse ++ [{ x with beats := x.beats ++ [b] }]
      | [] => []
    else m.blocks ++ [{ first := b.issue, cfg := m.latched, number := m.blockCounter, beats := [b], probs := [] }]
  let full := match blocks.getLast? with
    | some x => x.beats.length == 32
    | none => false
  { m with blocks := blocks, isOpen := !full, blockCounter := if full then m.blockCounter + 1 else m.blockCounter }

/-- A beat of the present bundle. A block left open in the bundle of an END is abandoned: its keys make no update and
its value rows are not read (R183). -/
def State.beat (s : State) (b : Beat) : State :=
  let s := (s.modMx s.me fun m => m.addBeat b).write 1 .keyCounter
  let m := s.myCtx.mx
  if s.myCtx.life = .ended ∧ m.isOpen then
    let first := (m.blocks.getLast?.map Block.first).getD 0
    (s.modMx s.me fun m => { m with blocks := m.blocks.dropLast, isOpen := false }).dropDue fun x =>
      x.who.core == s.me && match x.what with
        | .chainValueRead blk _ => blk == first
        | _ => false
  else s

/-- CHB: one key beat; its value row is read at t+248, after the removals that link commands make in that cycle (R388)
(DEDUCED, log entry 27). -/
def execChb (f : MXF) (s : State) : Outcome := .next (s.issue (.chb f) fun s =>
  let m := s.myCtx.mx
  let row := s.headRow f.qa
  let sc := m.scores f.fmt f.cb (chainLimit m.latched f.fmt) row
  let first := if m.isOpen then (m.blocks.getLast?.map Block.first).getD s.t else s.t
  let s := (s.take s.me f.qa f.pa).sched (s.t + 248) [30, 2, s.t] (.chainValueRead first m.openBeats)
  s.beat { keyed := true, issue := s.t, scores := sc, mask := m.keyMask, qb := f.qb, peek := f.pb })

/-- SSHIFT: a keyless beat within an open block, and nothing elsewhere. -/
def execSshift (f : MXF) (s : State) : Outcome := .next (s.issue (.sshift f) fun s =>
  if s.myCtx.mx.isOpen then
    s.beat { keyed := false, issue := s.t, scores := [], mask := 0, qb := 15, peek := false }
  else s)

def Mx.block (m : Mx) (first : Nat) : Option Block := m.blocks.find? fun b => b.first == first

/-- A block leaves once its last keyed beat has had its read and its update. -/
def Mx.doneBeat (m : Mx) (first beat : Nat) : Mx :=
  match m.block first with
  | some b => if (b.beats.drop (beat + 1)).any (·.keyed) then m
      else { m with blocks := m.blocks.filter fun x => x.first != first }
  | none => m

/-- The tag that a block's first value row must carry (R188). -/
def Block.valueTag (b : Block) (beat : Nat) : Option Nat :=
  if cfgField b.cfg 265 265 = 1 ∧ beat = 0 then some ((cfgField b.cfg 319 304 + b.number) % 65536) else none

/-- The fault of a value read on the head of its queue (R147, R165, R188, R192): one record, for the first that holds of
solo, empty queue, tag and poison (DEDUCED, log entry 48). -/
def State.valueFault (s : State) (b : Block) (beat : Nat) (x : Beat) : Option (Nat × List Word) :=
  let q := BitVec.ofNat 32 x.qb
  if 4 ≤ x.qb ∧ s.myCtx.solo.isSome then some (0x19, [5, 4, q])
  else match s.myCtx.queue x.qb with
    | [] => some (0x14, [q, lo32 s.t, 0])
    | r :: _ => match b.valueTag beat with
      | some e => if r.mark ≠ some e then some (0x13, [q, BitVec.ofNat 32 e, BitVec.ofNat 32 (r.mark.getD 0x10000)])
          else if r.poison.isSome then some (0x30, [q, lo32 s.t]) else none
      | none => if r.poison.isSome then some (0x30, [q, lo32 s.t]) else none

/-- CHAIN_VALUE_READ: the value row is taken, or the fault is raised and the key makes no update (R181). -/
def execChainValueRead (s : State) : Outcome := match s.cur.work with
  | .chainValueRead first beat => match s.myCtx.mx.block first with
    | none => .next s
    | some b => match b.beats[beat]? with
      | none => .next s
      | some x =>
        let row := s.headRow x.qb
        let s' := { s with cur := { s.cur with who := { s.cur.who with src := 9 } } }
        match s.valueFault b beat x with
        | some (code, d) =>
          let blame := if code = 0x30 then ((s.myCtx.queue x.qb).head?.bind Row.poison) else none
          .next ((s'.raiseBlame blame code d).modMx s.me fun m => m.doneBeat first beat)
        | none => .next ((s.take s.me x.qb x.peek).sched (s.t + 252) [10, s.t, 4] (.chainUpdate first beat row))
  | _ => .next s

/-! ### The softmax stage (R184, R185) -/

/-- The scaled scores of a row, beat by beat; -infinity where a key is masked or absent. -/
def Block.scaled (b : Block) (i : Nat) : List Word := b.beats.map fun x =>
  if x.keyed && x.mask.getLsbD i then rnMul (x.scores.getD i 0) (BitVec.ofNat 32 (cfgField b.cfg 31 0)) else 0xFF800000

/-- A probability converted to PFMT, as an FP32 word. -/
def probWord (cfg : BitVec 512) (p : Word) : Word :=
  let r : Rnd := if cfgField cfg 261 261 = 1 then .sr (BitVec.ofNat 64 (cfgField cfg 383 320)) (ulp32 p) else .rne
  if cfgField cfg 260 260 = 1 then (widen (FV.ofE4M3 (narrowTo e4m3 r p).1)).1
  else (widen (FV.ofBF16 (narrowTo bf16 r p).1)).1

/-- The maximum, the scale factor and the probabilities of a row of a block. -/
def Block.rowProbs (b : Block) (i : Nat) (cmax : Word) : Word × Word × List Word :=
  let z := b.scaled i
  let bm := (z.filter fun w => !(FV.of32 w).isNaN).foldl (fun m w => (fminmax true m w).1) 0xFF800000
  let m := (fminmax true cmax bm).1
  let cs : Word := if m = 0xFF800000 then 0x3F800000 else (fexp (rnSub cmax m)).1
  (m, cs, z.map fun w => probWord b.cfg
    (if (FV.of32 w).isNaN then quiet w else if m = 0xFF800000 then 0 else (fexp (rnSub w m)).1))

/-- The value row under VFMT, as 128 FP32 words. -/
def valueRow (cfg : BitVec 512) (row : List Word) : List Word :=
  if cfgField cfg 262 262 = 1 then (rowElements 4 (row.take 32)).map fun n => (widen (FV.ofE4M3 n)).1
  else (rowElements 2 row).map fun n => BitVec.ofNat 32 (n * 65536)

/-- The step of a block's first update: the row is rescaled. -/
def RowState.rescale (r : RowState) (m cs : Word) : RowState :=
  { r with cmax := m, cscl := cs, csum := rnMul r.csum cs, ccomp := rnMul r.ccomp cs }

/-- The two-sum of a probability that is not zero. -/
def RowState.addProb (r : RowState) (p : Word) : RowState :=
  let s := rnAdd r.csum p
  let bv := rnSub s r.csum
  let e := rnAdd (rnSub r.csum (rnSub s bv)) (rnSub p bv)
  { r with csum := s, ccomp := rnAdd r.ccomp e }

/-- rn(O + p * v), in the operand order of R185. -/
def addProduct (o p v : Word) : Word := accumulate o [(FV.of32 p, FV.of32 v)]

/-- What the first update of a block forms, row by row: maximum, scale factor, probabilities; nothing of a row whose
maximum is marked in `bad`. -/
def Block.form (b : Block) (m : Mx) (bad : Nat × Nat × Nat → Bool) : List (Word × Word × List Word) :=
  (List.range 64).map fun i => if bad (3, i, 0) then (0, 0, []) else b.rowProbs i (m.rowState i).cmax

/-- A beat's update as it finds the block: what its first beat forms, and the probabilities of every row. -/
structure Forming where
  beat : Nat
  forms : List (Word × Word × List Word)
  probs : List (List Word)

def Block.forming (b : Block) (m : Mx) (beat : Nat) (bad : Nat × Nat × Nat → Bool) : Forming :=
  let forms := if beat = 0 then b.form m bad else []
  { beat := beat, forms := forms, probs := if beat = 0 then forms.map (·.2.2) else b.probs }

/-- The probability of a row at the beat, and whether it enters the row. -/
def Forming.p (f : Forming) (i : Nat) : Word := (f.probs.getD i []).getD f.beat 0
def Forming.live (f : Forming) (i : Nat) : Bool := !(FV.of32 (f.p i)).isZero

/-- The words that an update reads: at the first beat cmax, csum, ccomp and every accumulator; at another csum, ccomp and the
accumulators of the rows whose probability is not zero (R185, R192). -/
def Forming.reads (f : Forming) (x : Nat × Nat × Nat) : Bool :=
  let some_ := f.beat == 0 || f.live x.2.1
  (x.1 == 2 && some_) || (x.1 == 3 && ((f.beat == 0 && x.2.2 == 0) || (some_ && (x.2.2 == 1 || x.2.2 == 2))))

/-- Whether an update cannot form a row at all: its first beat meets a marked cmax. -/
def Forming.stuck (f : Forming) (bad : Nat × Nat × Nat → Bool) (i : Nat) : Bool := f.beat == 0 && bad (3, i, 0)

/-- The words that an update writes: those whose result uses no marked word (R192). -/
def Forming.writes (f : Forming) (bad : Nat × Nat × Nat → Bool) (x : Nat × Nat × Nat) : Bool :=
  !f.stuck bad x.2.1 &&
  ((f.reads x && !bad x && !(x.1 == 3 && x.2.2 == 2 && f.beat != 0 && bad (3, x.2.1, 1))) ||
    (x.1 == 3 && x.2.2 == 3 && f.beat == 0))

/-- One beat's update of the chain; a result that would use a word that `bad` names is not written (R192). -/
def Mx.update (m : Mx) (b : Block) (f : Forming) (row : List Word) (bad : Nat × Nat × Nat → Bool) : Mx :=
  let v := valueRow b.cfg row
  { m with
    blocks := m.blocks.map fun x => if x.first == b.first then { x with probs := f.probs } else x,
    rows := Vector.ofFn fun i =>
      let r := m.rows[i]
      if f.stuck bad i.val then r
      else
        let g := f.forms.getD i.val (0, 0, [])
        let r₁ := if f.beat = 0 then r.rescale g.1 g.2.1 else r
        let r₂ := if f.live i.val then r₁.addProb (f.p i.val) else r₁
        { r₂ with csum := if bad (3, i.val, 1) then r.csum else r₂.csum,
                  ccomp := if bad (3, i.val, 2) then r.ccomp else if bad (3, i.val, 1) then r₁.ccomp else r₂.ccomp },
    value := Vector.ofFn fun i => Vector.ofFn fun k =>
      let o := m.value[i][k]
      if f.stuck bad i.val || bad (2, i.val, k.val) then o
      else
        let o := if f.beat = 0 then rnMul o (f.forms.getD i.val (0, 0, [])).2.1 else o
        if f.live i.val then addProduct o (f.p i.val) (v.getD k.val 0) else o }

/-- CHAIN_UPDATE (DEDUCED, log entry 27). -/
def execChainUpdate (s : State) : Outcome := match s.cur.work with
  | .chainUpdate first beat row => match s.myCtx.mx.block first with
    | none => .next s
    | some b =>
      let bad := (s.core s.me).mxBad.contains
      let f := b.forming s.myCtx.mx beat bad
      .next (((s.readMx f.reads).modMx s.me fun m => (m.update b f row bad).doneBeat first beat).renewMx s.me (f.writes bad))
  | _ => .next s

/-! ### Draining and saving the chain (R186, R187) -/

def execChn (f : MXF) (s : State) : Outcome := .next (s.issue (.chn f) fun s =>
  let m := s.myCtx.mx
  let r := m.rowState m.dp
  let den := rnAdd r.csum r.ccomp
  let empty := (FV.of32 den).isZero
  let words := if empty then [] else
    let q := (frcp den).1
    (m.accRow m.dp).toList.map fun o => rnMul o q
  (s.oRow 8 (fun ws => .normalisedRowAppend (outQueue f) m.dp ws empty) words).nextDp)

/-- NORMALISED_ROW_APPEND: an empty row sets its status bit. -/
def execNormalisedRowAppend (s : State) : Outcome := match s.cur.work with
  | .normalisedRowAppend o row words empty =>
    let s := s.append s.me o s.t { words := words, mark := none, poison := none }
    .next (if empty then s.modMx s.me fun m =>
        { m with rows := m.rows.setIfInBounds row { m.rowState row with status := (m.rowState row).status ||| 1 } } else s)
  | _ => .next s

def execChsv (f : MXF) (s : State) : Outcome := .next (s.issue (.chsv f) fun s =>
  s.oRow 4 (.rowStateSaveAppend (outQueue f)) (s.myCtx.mx.rowState f.idx).words)

/-- ROW_STATE_SAVE_APPEND. -/
def execRowStateSaveAppend (s : State) : Outcome := match s.cur.work with
  | .rowStateSaveAppend o words => .next (s.append s.me o s.t { words := words, mark := none, poison := none })
  | _ => .next s

def execChld (f : MXF) (s : State) : Outcome := .next (s.issue (.chld f) fun s =>
  let row := s.headRow f.qa
  (s.take s.me f.qa f.pa).mxWrite 2 (.rowStateLoad f.idx (row.take 5)))

/-- ROW_STATE_LOAD: status bits [31:1] stay 0 (R186). -/
def execRowStateLoad (s : State) : Outcome := match s.cur.work with
  | .rowStateLoad g w => .next ((s.modMx s.me fun m =>
      { m with rows := m.rows.setIfInBounds g { cmax := w.getD 0 0, csum := w.getD 1 0, ccomp := w.getD 2 0,
                                                cscl := w.getD 3 0, status := w.getD 4 0 &&& 1 } }).renewMx s.me
      fun b => b.1 == 3 && b.2.1 == g)
  | _ => .next s

end Sys2Proof.Machine
end

