-- ==== Sys2Proof/Machine/Timeline.lean ====
section
/-! DEFINITION. Timelines of the pseudo-channels: their words, the submission checks, the idle timeline, the open runs and
which of their slots a unit may take (13 R259 to R266). The JEDEC parameters named by R263 act as log entry 10 says. -/
namespace Sys2Proof.Machine

/-! ### Words and streams (R261, R262) -/

def wordCode (w : Word) : Nat := w.toNat / 2 ^ 28
def wordBank (w : Word) : Nat := w.toNat / 2 ^ 24 % 16
def wordAlt (w : Word) : Bool := w.getLsbD 16
def wordRow (w : Word) : Nat := w.toNat % 2 ^ 16
def wordCol (w : Word) : Nat := w.toNat / 2 ^ 20 % 16
def wordKind (w : Word) : Nat := w.toNat / 2 ^ 18 % 4
def wordOpt (w : Word) : Bool := w.getLsbD 17
def wordSource (w : Word) : Nat := w.toNat / 2 ^ 8 % 512

/-- Slots that a row word covers: NOP, PARK and OPEN are counted. -/
def rowSpan (w : Word) : Nat := if wordCode w = 0 ∨ wordCode w = 6 ∨ wordCode w = 7 then wordRow w + 1 else 1
/-- Slots that a column word covers: NOP, OPEN and NMC are counted. -/
def colSpan (w : Word) : Nat := if wordCode w = 0 ∨ wordCode w = 7 ∨ wordCode w = 0xA then wordRow w + 1 else 1

/-- A stream as spans: first slot, slots, word. -/
def spans (span : Word → Nat) : Nat → List Word → List (Nat × Nat × Word)
  | _, [] => []
  | k, w :: ws => (k, span w, w) :: spans span (k + span w) ws

def streamLen (span : Word → Nat) (ws : List Word) : Nat := ws.foldl (fun n w => n + span w) 0

/-- The word that covers a slot, with the slot at which its span begins. -/
def wordAt (sp : List (Nat × Nat × Word)) (k : Nat) : Option (Nat × Nat × Word) :=
  sp.find? fun x => decide (x.1 ≤ k) && decide (k < x.1 + x.2.1)

def Timeline.slots (t : Timeline) : Nat := 3072 * t.periods
def Timeline.rowSpans (t : Timeline) : List (Nat × Nat × Word) := spans rowSpan 0 t.rows
def Timeline.colSpans (t : Timeline) : List (Nat × Nat × Word) := spans colSpan 0 t.cols

/-- The column word at a slot of TTC; the timeline repeats (R261). -/
def Timeline.colAt (t : Timeline) (k : Nat) : Word := ((wordAt t.colSpans (k % t.slots)).map fun x => x.2.2).getD 0

/-- What the row commands of a stream leave in a bank: the open row, if any, from the commands in order. -/
def bankAfter (bank : Nat) (sp : List (Nat × Nat × Word)) (start : Option Nat) : Option Nat :=
  sp.foldl (fun r x => match wordCode x.2.2 with
    | 1 => if wordBank x.2.2 = bank then some (wordRow x.2.2) else r
    | 2 => if wordBank x.2.2 = bank then none else r
    | 3 => none
    | _ => r) start

/-- The row open in a bank at a column slot of TTC: the row command of that slot acts first (R263). Before the first repetition
of a launch every bank is closed (DESIGN CHOICE, log entry 10). -/
def Timeline.openRow (t : Timeline) (bank k : Nat) : Option Nat :=
  let sp := t.rowSpans
  let before := if k < t.slots then none else bankAfter bank sp none
  bankAfter bank (sp.filter fun x => decide (x.1 ≤ k % t.slots)) before

/-! ### Commands and their spacing (R263, log entry 10) -/

/-- A DRAM command at a slot. -/
structure DCmd where
  slot : Nat
  code : Nat
  bank : Nat
deriving DecidableEq, Repr

/-- Row command codes 1 to 5; column reads and writes 8 and 9. -/
def Timeline.cmds (t : Timeline) : List DCmd :=
  (t.rowSpans.filterMap fun x => if 1 ≤ wordCode x.2.2 ∧ wordCode x.2.2 ≤ 5
    then some { slot := x.1, code := wordCode x.2.2, bank := wordBank x.2.2 } else none) ++
  (t.colSpans.filterMap fun x => if wordCode x.2.2 = 8 ∨ wordCode x.2.2 = 9
    then some { slot := x.1, code := wordCode x.2.2, bank := wordBank x.2.2 } else none)

/-- The least distance in slots from command `a` to a later command `b` (PRESUMED, log entry 10). -/
def Timing.gap (t : Timing) (a b : DCmd) : Nat :=
  let same := a.bank == b.bank
  let one (n : Nat) : Nat := max n 1
  match a.code, b.code with
  | 1, 1 => if same then one t.tRC else one t.tRRD
  | 1, 2 => if same then one t.tRAS else 0
  | 1, 3 => one t.tRAS
  | 1, 8 => if same then one t.tRCD else 0
  | 1, 9 => if same then one t.tRCD else 0
  | 2, 1 => if same then one t.tRP else 0
  | 2, 5 => if same then one t.tRP else 0
  | 2, 4 => one t.tRP
  | 3, 1 => one t.tRP
  | 3, 4 => one t.tRP
  | 3, 5 => one t.tRP
  | 4, _ => one t.tRFC
  | 5, 1 => if same then one t.tRFCpb else 0
  | 5, 5 => if same then one t.tRFCpb else 0
  | 5, 4 => one t.tRFCpb
  | 8, 8 => one t.tCCD
  | 9, 9 => one t.tCCD
  | 8, 9 => one t.tRTW
  | 9, 8 => one t.tWTR
  | 8, 2 => if same then one t.tRTP else 0
  | 8, 3 => one t.tRTP
  | 9, 2 => if same then one t.tWR else 0
  | 9, 3 => one t.tWR
  | _, _ => 0

/-- The longest of the record's spans, in slots. -/
def Timing.reach (t : Timing) : Nat :=
  [t.tRCD, t.tRP, t.tRAS, t.tRC, t.tRRD, t.tFAW, t.tCCD, t.tWR, t.tRTP, t.tWTR, t.tRTW, t.tRFC, t.tRFCpb, 1].foldl max 0

/-- Whether two commands of a list keep their distance. -/
def Timing.pairOk (t : Timing) (a b : DCmd) : Bool :=
  if a.slot < b.slot then decide (a.slot + t.gap a b ≤ b.slot)
  else if b.slot < a.slot then decide (b.slot + t.gap b a ≤ a.slot)
  else decide (t.gap a b = 0) && decide (t.gap b a = 0)

/-- No five activations within tFAW of one another. -/
def Timing.fawOk (t : Timing) (cs : List DCmd) : Bool :=
  let acts := cs.filter fun c => c.code == 1
  acts.all fun c => decide ((acts.filter fun d => decide (c.slot ≤ d.slot) && decide (d.slot < c.slot + t.tFAW)).length ≤ 4)

/-- Every pair of commands keeps its distance. -/
def Timing.allOk (t : Timing) : List DCmd → Bool
  | [] => true
  | c :: cs => cs.all (t.pairOk c) && t.allOk cs

/-! ### Submission checks (R263) -/

/-- The fields of a row word lie in their ranges, and its reserved fields are 0. -/
def rowWordOk (w : Word) : Bool :=
  let noAlt := !wordAlt w
  decide (w.toNat / 2 ^ 17 % 128 = 0) && match wordCode w with
  | 0 => decide (wordBank w = 0) && noAlt
  | 1 => noAlt && decide (wordRow w ≤ 65279)
  | 2 => noAlt && decide (wordRow w = 0)
  | 3 => noAlt && decide (wordBank w = 0) && decide (wordRow w = 0)
  | 4 => decide (wordBank w = 0) && decide (wordRow w = 0)
  | 5 => decide (wordRow w = 0)
  | 6 => decide (wordBank w = 0) && noAlt
  | 7 => decide (wordBank w = 0) && noAlt
  | _ => false

/-- The fields of a column word: sources are LD slots and transfer engines of 384 ranks, and 6 ports. -/
def colWordOk (w : Word) : Bool := match wordCode w with
  | 0 => decide (w.toNat / 2 ^ 16 % 4096 = 0)
  | 7 => decide (w.toNat / 2 ^ 16 % 4096 = 0)
  | 0xA => decide (w.toNat / 2 ^ 16 % 4096 = 0)
  | 8 => decide (w.toNat % 256 = 0) && decide (wordSource w < if wordKind w = 2 then 6 else 384) && decide (wordKind w < 3)
  | 9 => decide (w.toNat % 256 = 0) && decide (wordSource w < if wordKind w = 2 then 6 else 384) && decide (wordKind w < 3)
  | _ => false

/-- The open runs: first slot and length. -/
def Timeline.openRuns (t : Timeline) : List (Nat × Nat) :=
  t.colSpans.filterMap fun x => if wordCode x.2.2 = 7 then some (x.1, x.2.1) else none

/-- The usable slots of an open run: indices 12 to n - 13 (R265). -/
def usableOf (r : Nat × Nat) : List Nat := (List.range (r.2 - 24)).map fun i => r.1 + 12 + i

/-- Distances between refresh words, taken cyclically, at most `limit`. -/
def refreshOk (slots limit : Nat) (at_ : List Nat) : Bool := match at_ with
  | [] => false
  | first :: _ =>
    let next := at_.drop 1 ++ [first + slots]
    (List.zip at_ next).all fun p => decide (p.2 - p.1 ≤ limit)

/-- The slots at which the words of refreshes stand, for one bank: all-bank words and the bank's own count alike towards
tREFI (DEDUCED, log entry 10). -/
def Timeline.refreshes (t : Timeline) (bank : Nat) (alsoAlt : Bool) : List Nat :=
  t.rowSpans.filterMap fun x =>
    if (wordCode x.2.2 = 4 ∨ (wordCode x.2.2 = 5 ∧ wordBank x.2.2 = bank)) ∧ (alsoAlt ∨ ¬ wordAlt x.2.2) then some x.1
    else none

/-- Every bank is closed when a slot's row command comes, in the repetition that follows a first one. -/
def Timeline.closedAt (t : Timeline) (k : Nat) : Bool :=
  (List.range 16).all fun b =>
    (bankAfter b (t.rowSpans.filter fun x => decide (x.1 < k)) (bankAfter b t.rowSpans none)).isNone

/-- The state checks of one row word at its slot. A REF finds every bank closed and a REFPB its own (DEDUCED, log entry
10). -/
def Timeline.rowStateOk (t : Timeline) (x : Nat × Nat × Word) : Bool :=
  let openIn (b : Nat) : Option Nat :=
    bankAfter b (t.rowSpans.filter fun y => decide (y.1 < x.1)) (bankAfter b t.rowSpans none)
  match wordCode x.2.2 with
  | 1 => (openIn (wordBank x.2.2)).isNone
  | 4 => t.closedAt x.1
  | 5 => (openIn (wordBank x.2.2)).isNone
  | 6 => t.closedAt x.1 && t.colSpans.all fun y =>
      wordCode y.2.2 == 0 || decide (y.1 + y.2.1 ≤ x.1) || decide (x.1 + x.2.1 ≤ y.1)
  | 7 => t.closedAt x.1 && decide (25 ≤ x.2.1) && t.openRuns.contains (x.1, x.2.1)
  | _ => true

/-- The near-memory runs: at the first slot of each every bank is closed, and every row word over it is NOP (R303). -/
def Timeline.nmcOk (t : Timeline) : Bool := t.colSpans.all fun x =>
  wordCode x.2.2 != 0xA || (t.closedAt x.1 && t.rowSpans.all fun y =>
    wordCode y.2.2 == 0 || decide (y.1 + y.2.1 ≤ x.1) || decide (x.1 + x.2.1 ≤ y.1))

/-- The checks of R261, R263 and R303 of one timeline that no timing record enters, taken cyclically. -/
def Timeline.formOk (t : Timeline) : Bool :=
  let n := t.slots
  decide (1 ≤ t.periods) && decide (t.periods ≤ 64) && decide (streamLen rowSpan t.rows = n) &&
  decide (streamLen colSpan t.cols = n) && t.rows.all rowWordOk && t.cols.all colWordOk &&
  t.rowSpans.all t.rowStateOk && t.nmcOk &&
  (t.colSpans.all fun x => (wordCode x.2.2 != 8 && wordCode x.2.2 != 9) ||
    (t.openRow (wordBank x.2.2) (x.1 + n)).isSome) &&
  (t.openRuns.all fun r => t.rowSpans.any fun y => wordCode y.2.2 == 7 && y.1 == r.1 && y.2.1 == r.2) &&
  ((List.range t.periods).all fun p =>
    decide (48 ≤ ((t.openRuns.flatMap usableOf).filter fun k => k / 3072 == p).length))

/-- The checks of R263 under a stack's timing record: the parameters and the refresh intervals. -/
def Timeline.timed (t : Timeline) (tm : Timing) : Bool :=
  let n := t.slots
  let cs := t.cmds
  let again := cs.map fun c => { c with slot := c.slot + n }
  tm.allOk cs && cs.all (fun a => again.all (tm.pairOk a)) && tm.fawOk (cs ++ again) &&
  (List.range 16).all fun b => refreshOk n tm.tREFIhot (t.refreshes b true) && refreshOk n tm.tREFI (t.refreshes b false)

/-! ### The idle timeline (R259) -/

/-- A counted word of code `c` for `n` slots; none for 0. -/
def counted (c n : Nat) : List Word := if n = 0 then [] else [BitVec.ofNat 32 (c * 2 ^ 28 + (n - 1))]

/-- The words after a refresh up to the next: `f` - 1 slots of NOP, then an open run when 25 or more slots remain. -/
def idleRest (f len : Nat) : List Word :=
  let nop := min (f - 1) (len - 1)
  let rest := len - 1 - nop
  if 25 ≤ rest then counted 0 nop ++ counted 7 rest else counted 0 (nop + rest)

/-- The idle timeline of a pseudo-channel, from its stack's timing record. -/
def idleTimeline (tm : Timing) (chan : Nat) : Timeline :=
  let m := (3072 + max tm.tREFIhot 1 - 1) / max tm.tREFIhot 1
  let r (i : Nat) : Nat := 3072 * i / m
  let len (i : Nat) : Nat := (if i + 1 = m then 3072 else r (i + 1)) - r i
  { chan := chan, periods := 1,
    rows := (List.range m).flatMap fun i => BitVec.ofNat 32 (0x40000000 + i % 2 * 2 ^ 16) :: idleRest tm.tRFC (len i),
    cols := (List.range m).flatMap fun i => counted 0 1 ++ idleRest tm.tRFC (len i) }

/-! ### The timelines of a partition (R258) -/

def State.timing (s : State) (stack : Nat) : Timing := (s.hbm[stack]?.getD Stack.reset).timing

/-- The partition's number of a pseudo-channel, from its owned groups. -/
def Part.chanNo (q : Part) (stack chan : Nat) : Option Nat :=
  (q.groups.findIdx? (· == stack * 4 + chan / 16)).map fun j => 16 * j + chan % 16
/-- The stack and pseudo-channel of a partition's channel number. -/
def Part.chanAt (q : Part) (n : Nat) : Nat × Nat :=
  let g := q.groups.getD (n / 16) 0
  (g / 4, g % 4 * 16 + n % 16)

/-- The timeline that a partition's pseudo-channel runs. -/
def State.timelineOf (s : State) (q : Part) (n : Nat) : Timeline :=
  match q.timelines.find? fun t => t.chan == n with
  | some t => t
  | none => idleTimeline (s.timing (q.chanAt n).1) n

/-! ### Open slots (R251, R265) -/

/-- The slot of the auto-precharge of a unit served in slot `k`: after the column command and after its activation. -/
def Timing.unitClose (t : Timing) (k : Nat) (write : Bool) : Nat :=
  max (k + if write then t.tWR else t.tRTP) (k - t.tRCD + t.tRAS)

/-- The commands that serve a unit in slot `k`: an activation, the column command, and its auto-precharge. -/
def Timing.unitCmds (t : Timing) (k bank : Nat) (write : Bool) : List DCmd :=
  [{ slot := k - t.tRCD, code := 1, bank := bank }, { slot := k, code := if write then 9 else 8, bank := bank },
    { slot := t.unitClose k write, code := 2, bank := bank }]

/-- The slot from which the bank and the channel are ready again after a unit. -/
def Timing.unitEnd (t : Timing) (k : Nat) (write : Bool) : Nat :=
  [t.unitClose k write + t.tRP, k - t.tRCD + t.tRC, k + t.tCCD, k + t.tWTR, k + t.tRTW].foldl max 0

/-- A unit that takes a slot of a pseudo-channel: slot, bank, and whether it is written. -/
structure Placed where
  slot : Nat
  bank : Nat
  write : Bool
deriving DecidableEq, Repr

/-- The timeline's commands within a span of slots around slot `k` of TTC. -/
def Timeline.near (t : Timeline) (k span : Nat) : List DCmd :=
  let n := t.slots
  let base := k / n * n
  let cs := t.cmds
  let move (d : Nat) : List DCmd := cs.map fun c => { slot := c.slot + d, code := c.code, bank := c.bank }
  ((if base = 0 then [] else move (base - n)) ++ move base ++ move (base + n)).filter
    fun c => decide (k ≤ c.slot + span) && decide (c.slot ≤ k + span)

/-- Whether a slot of TTC is a usable open slot, with room before it in its run for an activation, and after it for the
precharge. -/
def Timeline.usable (t : Timeline) (tm : Timing) (k : Nat) (write : Bool) : Bool :=
  match wordAt t.colSpans (k % t.slots) with
  | some x => wordCode x.2.2 == 7 && decide (x.1 + max 12 tm.tRCD ≤ k % t.slots) &&
      decide (k % t.slots + max 13 (tm.unitClose k write - k + 1) ≤ x.1 + x.2.1)
  | none => false

/-- How far from a slot a command can keep a unit out of it. -/
def Timing.span (t : Timing) : Nat := 2 * (t.reach + t.tRCD + t.tWR + t.tRAS + 1)

/-- Whether a unit of a bank can be served in slot `k` beside the timeline and the units placed. -/
def State.available (s : State) (q : Part) (n k bank : Nat) (write : Bool) (placed : List Placed) : Bool :=
  let tl := s.timelineOf q n
  let tm := s.timing (q.chanAt n).1
  let mine := tm.unitCmds k bank write
  let span := tm.span
  let others := tl.near k span ++ placed.flatMap fun p => tm.unitCmds p.slot p.bank p.write
  tl.usable tm k write && !(placed.any fun p => p.slot == k) && mine.all (fun c => others.all (tm.pairOk c)) &&
    tm.fawOk (mine ++ others)

/-- The earliest available slot for a written unit from slot `k`, among the next `fuel` slots. -/
def State.earliest (s : State) (q : Part) (n bank : Nat) (placed : List Placed) : Nat → Nat → Option Nat
  | 0, _ => none
  | fuel + 1, k => if s.available q n k bank true placed then some k else s.earliest q n bank placed fuel (k + 1)

/-- How many slots from slot `k` the search for a written unit takes in: two whole repetitions of the timeline past the last
unit placed, beyond which every slot is as one that was tried (R251, R265). -/
def State.searchLen (s : State) (q : Part) (n k : Nat) (placed : List Placed) : Nat :=
  placed.foldl (fun m p => max m p.slot) k - k + (s.timing (q.chanAt n).1).span + 2 * (s.timelineOf q n).slots

/-- A unit has been served in its slot; those of earlier periods are forgotten, no busy span being as long (R265). -/
def State.noteServed (s : State) (phys : Nat) (write stnt : Bool) : State :=
  { s with served := (s.served.filter fun u => decide (s.gtc ≤ u.gtc + Config.period)) ++
      [{ gtc := s.gtc, stack := stackOf phys, chan := chanOf phys, bank := bankOf phys, write := write, stnt := stnt }] }

/-- The units already served on a partition's pseudo-channel, in the slots of its TTC: those of STNTs, or the others. -/
def State.servedUnits (s : State) (q : Part) (n : Nat) (stnt : Bool) : List Placed := s.served.filterMap fun u =>
  if u.stnt = stnt ∧ q.chanNo u.stack u.chan = some n
  then some { slot := slotFrom (q.ttc u.gtc), bank := u.bank, write := u.write } else none

/-- The STNT units placed on a partition's pseudo-channel, those already written among them (R265). -/
def State.placedUnits (s : State) (q : Part) (n : Nat) : List Placed := s.servedUnits q n true ++ s.due.filterMap fun x =>
  match x.what with
  | .stntUnitWrite u => if u.part = q.num ∧ q.chanNo (stackOf u.phys) (chanOf u.phys) = some n
      then some { slot := slotFrom x.due, bank := bankOf u.phys, write := true } else none
  | _ => none

/-- A fault of a unit of an access falls in its slot; of the units of one access that the same fault meets, the first slot
counts. -/
def State.faultUnit (s : State) (at_ code : Nat) (d : List Word) : State :=
  let mine (x : Timed) : Bool := x.who == s.cur.who && x.what == .registerWrite s.me (.fault code none d)
  match s.due.find? mine with
  | none => s.faultAt at_ code d
  | some x => if at_ < x.due then (s.dropDue mine).faultAt at_ code d else s

/-- A unit of an STNT takes the earliest available slot of its pseudo-channel at or after its STNT's issue + 300; one for
which a timeline has no such slot at all is placed nowhere (R250, R251) (DEDUCED, log entry 21). One that the channel
controllers' table refuses is fault 0x21 in its slot (R231, R240), and one whose die-link transfer fails fault 0x33 there
(R377); neither is written. -/
def State.placeUnit (s : State) (q : Part) (ea : Nat) (u : StntUnit) : State :=
  match q.chanNo (stackOf u.phys) (chanOf u.phys) with
  | none => s
  | some n =>
    let placed := s.placedUnits q n
    let from_ := slotFrom (u.issue + 300)
    match s.earliest q n (bankOf u.phys) placed (s.searchLen q n from_ placed) from_ with
    | none => s
    | some k =>
      if ¬ admitted (s.hbm[stackOf u.phys]?.getD Stack.reset).access u.part true (chanOf u.phys) then
        s.faultUnit (slotCycle k) 0x21 [lo32 ea, hi32 ea]
      else match s.crossed (stackOf u.phys / 2) with
        | some d => s.faultUnit (slotCycle k) 0x33 d
        | none => s.sched (slotCycle k) [90, 1, u.issue, u.rank, u.unit] (.stntUnitWrite u)

end Sys2Proof.Machine
end

