-- ==== Sys2Proof/Machine/Load.lean ====
section
/-! DEFINITION. The LD slot: pointers, sized accesses, queue loads, tagged loads, gathers and scatters, atomics,
non-temporal stores, drains and address generators, with the checks of their addresses and the cycles of R230
(04 R84 to R98, 11 R228 to R237, 12 R249 to R252, 15 R298 to R300, 22 R382). -/
namespace Sys2Proof.Machine

/-! ### Pointer arithmetic (R89) -/

/-- `p` with halfword `k` replaced. -/
def insertHalf (p : Ptr) (k imm : Nat) : Ptr :=
  (p &&& ~~~((0xFFFF : Ptr) <<< (16 * k))) ||| ((BitVec.ofNat 64 imm) <<< (16 * k))

def State.pointer (s : State) (n : Nat) (v : Ptr) : State := s.write 1 (.p n v)

def execPlil (f : LP) (s : State) : Outcome :=
  .next (s.pointer f.pd (insertHalf (s.myCtx.rp f.pd) (f.pa % 4) f.imm))
def execPlih (f : LP) (s : State) : Outcome := .next (s.pointer f.pd (BitVec.ofNat 64 (f.imm * 2 ^ 48)))
def execPadd (f : LP) (s : State) : Outcome :=
  .next (s.pointer f.pd (s.myCtx.rp f.pa + s.myCtx.rp (f.imm / 4096)))
def execPaddi (f : LP) (s : State) : Outcome := .next (s.pointer f.pd (s.myCtx.rp f.pa + sextPtr 16 f.imm))
def execPmov (f : LP) (s : State) : Outcome := .next (s.pointer f.pd (s.myCtx.rp f.pa))

/-! ### Accesses as issued (R84, R90) -/

/-- An access that its instruction leaves to be checked at t+1, under its guard. -/
def State.access (s : State) (g : Nat) (neg : Bool) (a : Access) : State :=
  if s.myCtx.guard g neg then s.sched (s.t + 1) [50, 0, s.rankOf s.me] (.ldAddressCheck a) else s

/-- An access at one address, without lanes. -/
def Access.plain (x : Ctx) (kind : AccessKind) (tg : Nat) (ea : Ptr) (size : Nat) (data : Lanes) : Access :=
  { kind := kind, tg := tg, ea := ea, size := size, data := data, lanes := [], solo := x.solo, gen := none }

/-- The effective address of format L.M: the offset is scaled by the size. -/
def Ctx.eaM (x : Ctx) (f : LM) (z : Nat) : Ptr := x.rp f.ptr + sextPtr 12 f.off * BitVec.ofNat 64 z

def State.loadM (s : State) (f : LM) (z : Nat) : State :=
  s.access f.g f.neg (Access.plain s.myCtx .load f.tg (s.myCtx.eaM f z) z zeroLanes)
def State.storeM (s : State) (f : LM) (z : Nat) : State :=
  s.access f.g f.neg (Access.plain s.myCtx .store f.tg (s.myCtx.eaM f z) z (s.myCtx.rd f.tg))

def execLdw (f : LM) (s : State) : Outcome := .next (s.loadM f 4)
def execLdr (f : LM) (s : State) : Outcome := .next (s.loadM f 256)
def execLdh (f : LM) (s : State) : Outcome := .next (s.loadM f 512)
def execLdv (f : LM) (s : State) : Outcome := .next (s.loadM f 1024)
def execStw (f : LM) (s : State) : Outcome := .next (s.storeM f 4)
def execStr (f : LM) (s : State) : Outcome := .next (s.storeM f 256)
def execSth (f : LM) (s : State) : Outcome := .next (s.storeM f 512)
def execStv (f : LM) (s : State) : Outcome := .next (s.storeM f 1024)

/-- LDQ: one row into an input queue (R92). -/
def execLdq (f : LM) (s : State) : Outcome :=
  .next (s.access f.g f.neg (Access.plain s.myCtx .ldq f.tg (s.myCtx.eaM f 256) 256 zeroLanes))

/-- LDT: a row, checked against the tag in lane 0 of its operand (R93). -/
def execLdt (f : LA) (s : State) : Outcome :=
  let x := s.myCtx
  .next (s.access f.g f.neg (Access.plain x (.ldt ((lane (x.rd f.opd) 0).toNat % 65536)) f.tg
    (x.rp f.ptr + sextPtr 8 f.off * 256) 256 zeroLanes))

/-- STNT: a vector outside timed order (R249). -/
def execStnt (f : LM) (s : State) : Outcome :=
  .next (s.access f.g f.neg (Access.plain s.myCtx .stnt f.tg (s.myCtx.eaM f 1024) 1024 (s.myCtx.rd f.tg)))

/-- DRAIN (R250). -/
def execDrain (f : LM) (s : State) : Outcome := .next (if s.myCtx.guard f.g f.neg then s.drainNow else s)

/-! ### Gather and scatter (R94) -/

/-- The selected lanes with their addresses: indices of `w`-byte elements. -/
def Ctx.laneAddrs (x : Ctx) (f : LX) (w : Nat) : List (Nat × Ptr) :=
  let m := x.rl f.lm
  let idx := x.rd f.idx
  (List.range 256).filterMap fun i =>
    if m.getLsbD i then some (i, x.rp f.ptr + BitVec.ofNat 64 (w * (lane idx i).toNat)) else none

def State.indexed (s : State) (f : LX) (kind : AccessKind) (w : Nat) (data : Lanes) : State :=
  let x := s.myCtx
  s.access f.g f.neg { kind := kind, tg := f.tg, ea := x.rp f.ptr, size := w, data := data, lanes := x.laneAddrs f w,
                       solo := x.solo, gen := none }

def execLdg (f : LX) (s : State) : Outcome := .next (s.indexed f .gather 4 zeroLanes)
def execStg (f : LX) (s : State) : Outcome := .next (s.indexed f (.scatter false) 4 (s.myCtx.rd f.tg))
def execStg16 (f : LX) (s : State) : Outcome := .next (s.indexed f (.scatter true) 2 (s.myCtx.rd f.tg))

/-! ### Atomics (R96) -/

def State.atomic (s : State) (f : LA) (op : AmoOp) : State :=
  let x := s.myCtx
  s.access f.g f.neg (Access.plain x (.amo op) f.tg (x.rp f.ptr + sextPtr 8 f.off * 4) 4 (x.rd f.opd))

def execAmoAdd (f : LA) (s : State) : Outcome := .next (s.atomic f .add)
def execAmoMin (f : LA) (s : State) : Outcome := .next (s.atomic f .min)
def execAmoMax (f : LA) (s : State) : Outcome := .next (s.atomic f .max)
def execAmoSwap (f : LA) (s : State) : Outcome := .next (s.atomic f .swap)
def execAmoCas (f : LA) (s : State) : Outcome := .next (s.atomic f .cas)

/-! ### Address generators (R298 to R300) -/

/-- AGSET: lanes 0 to 7 into a generator. -/
def execAgset (f : LG) (s : State) : Outcome :=
  let x := s.myCtx
  let v := BitVec.ofNat 256 (leNat (bytesOf (((x.rd f.tg).toList).take 8)))
  .next (if x.guard f.g f.neg then s.write 1 (.ag f.ag (BitVec.allOnes 256) v) else s)

/-- POS of a generator, [223:192]. -/
def agPos (v : BitVec 256) : Nat := field v.toNat 223 192

/-- AGADV: POS moves by a signed immediate. -/
def execAgadv (f : LG) (s : State) : Outcome :=
  let x := s.myCtx
  let pos : Word := BitVec.ofNat 32 (agPos (x.rag f.ag)) + sextWord 12 f.imm
  .next (if x.guard f.g f.neg then
    s.write 1 (.ag f.ag (BitVec.ofNat 256 (0xFFFFFFFF * 2 ^ 192)) (BitVec.ofNat 256 (pos.toNat * 2 ^ 192))) else s)

/-- A generator's address, and the detail of its space fault when POS has reached PMAX. -/
def genAddress (v : BitVec 256) : Ptr :=
  let n := v.toNat
  BitVec.ofNat 64 (field n 63 0 + field n 191 160 * field n 127 64 + field n 223 192 * field n 159 128)
def genFault (k : Nat) (v : BitVec 256) : Option (List Word) :=
  if field v.toNat 255 224 ≤ agPos v then
    some [BitVec.ofNat 32 k, BitVec.ofNat 32 (field v.toNat 191 160), BitVec.ofNat 32 (agPos v)]
  else none

/-- Access sizes by code (R300). -/
def sizeOf_ (code : Nat) : Nat := match code with
  | 0 => 4
  | 1 => 256
  | 2 => 512
  | _ => 1024

/-- LDA and STA reach the spaces of their sized access, as R300 has it; R228's list gives them space 0x0 alone
(DEDUCED, log entry 12). -/
def State.generated (s : State) (f : LG) (kind : AccessKind) (data : Lanes) : State :=
  let x := s.myCtx
  let v := x.rag f.ag
  s.access f.g f.neg { Access.plain x kind f.tg (genAddress v) (sizeOf_ f.size) data with gen := genFault f.ag v }

def execLda (f : LG) (s : State) : Outcome := .next (s.generated f .load zeroLanes)
def execSta (f : LG) (s : State) : Outcome := .next (s.generated f .store (s.myCtx.rd f.tg))

/-! ### Spaces (R228, R229, R382) -/

def space (a : Ptr) : Nat := a.toNat / 2 ^ 60

/-- Whether a space accepts an access (R228, R232). -/
def accepts (kind : AccessKind) (size sp : Nat) : Bool := match kind with
  | .load => sp == 0 || sp == 1 || sp == 2 || sp == 4 || sp == 8 || (sp == 0xC && size == 4)
  | .store => sp == 0 || sp == 1 || sp == 2 || ((sp == 4 || sp == 8) && size != 4) || (sp == 0xC && size == 4)
  | .ldq => sp == 0 || sp == 1 || sp == 2 || sp == 4 || sp == 8
  | .amo _ => sp == 0 || sp == 1
  | .stnt => sp == 5
  | .ldt _ => sp == 0
  | .gather => sp == 0
  | .scatter _ => sp == 0

/-- The coordinates that a space 0x8 address names. -/
def coordsOf (a : Nat) : Nat × Nat × Nat := (field a 59 57, field a 56 54, field a 53 51)

/-- The bits that R229 and R382 require of an address in its space. -/
def State.fieldsOk (s : State) (a : Nat) : Bool := match a / 2 ^ 60 with
  | 0x0 => field a 59 20 == 0
  | 0x1 => field a 59 23 == 0
  | 0x2 => field a 59 29 == 0
  | 0x4 => field a 59 48 == 0
  | 0x5 => field a 59 48 == 0
  | 0x8 => field a 50 48 == 0 && coordsOf a != s.coords && decide ((coordsOf a).1 < s.extents.1) &&
      decide ((coordsOf a).2.1 < s.extents.2.1) && decide ((coordsOf a).2.2 < s.extents.2.2)
  | 0xC => field a 59 12 == 0 && decide (field a 11 0 < 0x200)
  | _ => false

/-- The rank and the local address that a space 0x0, 0x1 or 0x2 address names (R229). -/
def rankNamed (rank a : Nat) : Nat := match a / 2 ^ 60 with
  | 0x1 => rank / 8 * 8 + field a 22 20
  | 0x2 => field a 28 20
  | _ => rank
def localPart (a : Nat) : Nat := a % 2 ^ 20

/-! ### The checks at t+1 (R84, R202, R236, R249) -/

/-- An access judged inside a solo region that is not local, or not in its solo banks (R201, R202). -/
def Access.outside (a : Access) (ea : Ptr) : Bool := match a.solo with
  | none => false
  | some mask => space ea != 0 || a.kind == .stnt ||
      (wordsTouched (localPart ea.toNat) a.size).any fun w => !mask.getLsbD (w % 32)

/-- The faulting condition of one element of an access: its code and the detail words after the address. An STNT whose
check falls in the cycle at which its core's drain completes still counts the STNTs that it covers (DEDUCED, log entry
21). -/
def State.elementFault (s : State) (a : Access) (ea : Ptr) : Option (Nat × List Word) :=
  let n := ea.toNat
  let sp := space ea
  if a.outside ea then some (0x19, [])
  else if !(accepts a.kind a.size sp) || !(s.fieldsOk n) then some (0x23, [])
  else if n % a.size ≠ 0 then some (0x22, [])
  else if sp = 0xC ∧ a.kind = .store ∧ ¬ (64 ≤ field n 11 2 ∧ field n 11 2 ≤ 125) then some (0x21, [])
  else if sp = 4 ∨ sp = 5 then
    match translate ((s.part (s.partOf s.me)).elim [] (·.regions)) (a.kind == .store || a.kind == .stnt) (n % 2 ^ 48) with
    | .error (code, idx) => some (code, [BitVec.ofNat 32 idx])
    | .ok _ =>
      if a.kind = .stnt ∧ 32 ≤ (s.core s.me).stnts.length then some (0x14, [32]) else none
  else none

/-- The elements of an access in lane order; an access without lanes has one. -/
def Access.elements (a : Access) : List (Option Nat × Ptr) := match a.kind with
  | .gather => a.lanes.map fun l => (some l.1, l.2)
  | .scatter _ => a.lanes.map fun l => (some l.1, l.2)
  | _ => [(none, a.ea)]

/-- The fault of an access, if any: its code and its whole detail (DEDUCED, log entry 26). -/
def State.accessFault (s : State) (a : Access) : Option (Nat × List Word) := match a.gen with
  | some d => if a.outside a.ea then some (0x19, [3, lo32 a.ea.toNat, hi32 a.ea.toNat, 0xFFFFFFFF]) else some (0x23, d)
  | none => a.elements.findSome? fun e => (s.elementFault a e.2).map fun (code, d) =>
      let addr := [lo32 e.2.toNat, hi32 e.2.toNat]
      let ln : List Word := e.1.elim [] fun l => [BitVec.ofNat 32 l]
      if code = 0x19 then (code, [3] ++ addr ++ (if ln.isEmpty then [0xFFFFFFFF] else ln)) else (code, addr ++ ln ++ d)

/-! ### The cycles of R230 -/

/-- The cycles after issue of a scratchpad access by distance: load performs, load W, store performs, atomic W. -/
def spadCycles (sp : Nat) : Reach → Nat × Nat × Nat × Nat
  | .self => if sp = 0 then (3, 6, 4, 8) else (8, 14, 10, 14)
  | .cluster => (8, 14, 10, 14)
  | .die => (18, 28, 20, 28)
  | .far => (34, 60, 44, 60)

def storeBytes (a : Access) : List Byte := bytesOf ((a.data.toList).take (a.size / 4))

/-- A group of a gather or scatter: 64 lanes (R91). -/
def groupLanes (lanes : List (Nat × Ptr)) (k : Nat) : List (Nat × Ptr) := lanes.filter fun l => l.1 / 64 == k

/-- An access to a scratchpad, its own or a peer's, goes to its bank cycles (R91, R230, R231). At its own core's banks an LDQ
is a queue load, named by its queue, and every other access one of the LD slot (R87, R243) (DEDUCED, log entry 25). -/
def State.toSpad (s : State) (a : Access) (sp holder : Nat) : State :=
  let (lp, lw, st, aw) := spadCycles sp (reach s.me holder)
  let req := if sp ≠ 0 then s.peerReq holder
    else if a.kind = .ldq then reqWord 3 a.tg (s.rankOf s.me) else reqWord 0 0 (s.rankOf s.me)
  let addr := localPart a.ea.toNat
  let op (act : BankAct) : BankOp := { holder := holder, req := req, cyc := s.t, act := act }
  let word (l : Nat × Ptr) : Nat := localPart l.2.toNat
  match a.kind with
  | .load => s.bank (s.t + lp) (op (.load addr a.size (.dreg a.tg (s.t + lw))))
  | .ldq => s.bank (s.t + lp) (op (.load addr 256 (.queue a.tg (s.t + lw))))
  | .store => s.bank (s.t + st) (op (.store addr (storeBytes a)))
  | .stnt => s
  | .ldt e => s.bank (s.t + lp) (op (.tagged addr e a.tg (s.t + lw)))
  | .amo o => s.bank (s.t + lp) (op (.amoRead addr o (lane a.data 0) (lane a.data 1) a.tg (s.t + aw)))
  | .gather =>
    let rest : Lanes := Vector.ofFn fun i => if a.lanes.any fun l => l.1 == i.val then 0 else 0xFFFFFFFF
    let s := s.sched (s.t + 8) [10, s.t, 1] (.registerWrite s.me (.d a.tg rest zeroLanes))
    (List.range 4).foldl (fun s k => match groupLanes a.lanes k with
      | [] => s
      | ls => s.bank (s.t + 3 + k) (op (.gather (ls.map fun l => (l.1, word l)) k a.tg (s.t + 8)))) s
  | .scatter half =>
    (List.range 4).foldl (fun s k => match groupLanes a.lanes k with
      | [] => s
      | ls => s.bank (s.t + 4 + k) (op (.scatter (ls.map fun l =>
          (l.1, word l, (wordBytes (lane a.data l.1)).take (if half then 2 else 4))) half))) s

/-- The request of a device-memory access of this core's LD slot, by whether its stack is on the core's own die. -/
def State.toDevice (s : State) (a : Access) (phys key : Nat) : State :=
  let own := stackOf phys / 2 = dieOf s.me
  let write := a.kind == .store
  let cyc := s.t + (if write then (if own then 200 else 224) else (if own then 256 else 280))
  let w := s.t + (if own then 360 else 408)
  s.request { part := s.partOf s.me, cycle := cyc, write := write, phys := phys, ea := a.ea.toNat, size := a.size,
              kind := 0, source := s.rankOf s.me, key := key, who := s.cur.who,
              data := if write then storeBytes a else [], performs := cyc + 100,
              sink := if a.kind = AccessKind.ldq then .queue a.tg w else .dreg a.tg w }

/-- A row of the payload of a flit. -/
def flitRow (data : List Byte) (i : Nat) : Row :=
  { words := wordsOf ((data.drop (256 * i)).take 256), mark := none, poison := none }

/-- An access to a remote package: its flits open their windows at t+8, and a load's answer lands at its W; until a
landing brings it, what lands is free (R383, log entry 3). -/
def State.toRemote (s : State) (a : Access) : State :=
  let n := a.ea.toNat
  let (h, port) := s.route (coordsOf n)
  let write := a.kind == .store
  let data := if write then storeBytes a else []
  let count := if write then (data.length + 255) / 256 else 1
  let w := s.t + 360 + 380 * h
  let performs := if write then s.t + 300 + 190 * h else s.t + 256 + 190 * h
  s.toPort port (if write then performs else w) fun s =>
    let s := (List.range count).foldl (fun s i => s.placeFlit (s.t + 8)
      { s.flit port (s.t + 8) 0 s.t with idx := i, addr := n, row := if write then some (flitRow data i) else none })
      (s.sendAway 0 performs w)
    if write then s
    else
      let free := (List.range a.size).map (Config.freeByte s.free)
      { s with free := s.free + 1 }.deliver (if a.kind = AccessKind.ldq then .queue a.tg w else .dreg a.tg w) free none

/-- An STNT is outstanding from its issue, and its units are placed (R249, R251); one in the bundle of an END is covered
by it (R252). -/
def State.toOpen (s : State) (a : Access) (q : Part) (phys key : Nat) : State :=
  let ended := (s.ctx s.me).life = .ended
  let bytes := bytesOf a.data.toList
  let units := (List.range 16).map fun u => phys + 64 * u
  let s := s.modCore s.me fun k =>
    { k with stnts := k.stnts ++ [{ issue := s.t, bundle := s.cur.who.bundle, covered := if ended then some (s.t + 2048) else none, units := units }] }
  let s := if ended then s.sched (s.t + 2048) [60, s.rankOf s.me, 1] (.drainCompletion s.me (s.t + 2048)) else s
  (List.range 16).foldl (fun s u => s.placeUnit q a.ea.toNat
    { part := q.num, core := s.me, rank := s.rankOf s.me, issue := s.t, unit := u, phys := phys + 64 * u, key := key,
      data := (bytes.drop (64 * u)).take 64 }) s

/-- Whether an access writes at its target, so that it needs the write right there; an atomic, which reads and writes, is
asked for that right alone (R240) (DESIGN CHOICE, log entry 6). -/
def Access.writes (a : Access) : Bool := match a.kind with
  | .store | .scatter _ | .amo _ | .stnt => true
  | _ => false

/-- The access on its way. One whose rank names no core is refused at the cycle of the distance between the two ranks, as
though rank r were core r: at W for a load, at the perform cycle for a store, and at W for an atomic (DESIGN CHOICE, log
entry 51). -/
def State.dispatchAccess (s : State) (a : Access) : State :=
  let n := a.ea.toNat
  let sp := if a.kind == .gather || a.kind == .scatter false || a.kind == .scatter true then 0 else space a.ea
  let refused (at_ : Nat) : State :=
    s.bank (s.t + at_) { holder := s.me, req := 0, cyc := s.t, act := .refused [lo32 n, hi32 n] }
  match sp with
  | 0x0 => s.toSpad a 0 s.me
  | 0x1 | 0x2 => match s.target a.writes (rankNamed (s.rankOf s.me) n) with
    | some c => s.toSpad a sp c
    | none =>
      let (_, lw, st, aw) := spadCycles sp (reach (s.rankOf s.me) (rankNamed (s.rankOf s.me) n))
      refused (match a.kind with
        | .store => st
        | .amo _ => aw
        | _ => lw)
  | 0x8 => s.toRemote a
  | 0xC =>
    let k := field n 11 2
    if !s.pigOpen a.writes then refused (if a.kind = .store then 4 else 6)
    else if a.kind = .store then
      s.sched (s.t + 4) [60, s.rankOf s.me] (.pigeonholeWrite (s.partOf s.me) k (lane a.data 0))
    else s.bank (s.t + 3) { holder := s.me, req := 0, cyc := s.t, act := .pigeonhole k a.tg (s.t + 6) }
  | _ => match s.part (s.partOf s.me) with
    | none => s
    | some q => match translate q.regions (a.kind == .store || a.kind == .stnt) (n % 2 ^ 48) with
      | .error _ => s
      | .ok (phys, key) => if a.kind = .stnt then s.toOpen a q phys key else s.toDevice a phys key

def execLdAddressCheck (s : State) : Outcome := match s.cur.work with
  | .ldAddressCheck a => match s.accessFault a with
    | some (code, d) => .next (s.raise code d)
    | none => .next (s.dispatchAccess a)
  | _ => .next s

end Sys2Proof.Machine
end

