-- ==== Sys2Proof/Machine/Scalar.lean ====
section
/-! DEFINITION. Scalar arithmetic, compares and guards of the S slot (03 R61 to R68), and the no-operation (02 R28). -/
namespace Sys2Proof.Machine

/-- NOP: nothing (R28). -/
def execNop (s : State) : Outcome := .next s

/-! ### Integer arithmetic and logic (R62) -/

def execAdd (f : SR) (s : State) : Outcome := .next (s.alu f 1 fun a b => a + b)
def execSub (f : SR) (s : State) : Outcome := .next (s.alu f 1 fun a b => a - b)
def execAnd (f : SR) (s : State) : Outcome := .next (s.alu f 1 fun a b => a &&& b)
def execOr (f : SR) (s : State) : Outcome := .next (s.alu f 1 fun a b => a ||| b)
def execXor (f : SR) (s : State) : Outcome := .next (s.alu f 1 fun a b => a ^^^ b)
def execShl (f : SR) (s : State) : Outcome := .next (s.alu f 1 fun a b => a <<< amount b)
def execShr (f : SR) (s : State) : Outcome := .next (s.alu f 1 fun a b => a >>> amount b)
def execSar (f : SR) (s : State) : Outcome := .next (s.alu f 1 fun a b => a.sshiftRight (amount b))
def execMin (f : SR) (s : State) : Outcome := .next (s.alu f 1 fun a b => if a.sle b then a else b)
def execMax (f : SR) (s : State) : Outcome := .next (s.alu f 1 fun a b => if b.sle a then a else b)
def execMinu (f : SR) (s : State) : Outcome := .next (s.alu f 1 fun a b => if a.ule b then a else b)
def execMaxu (f : SR) (s : State) : Outcome := .next (s.alu f 1 fun a b => if b.ule a then a else b)

/-- Leading zero bits of a word: 32 for 0. -/
def clz (a : Word) : Word := BitVec.ofNat 32 (if a = 0 then 32 else 31 - Nat.log2 a.toNat)
/-- The number of 1 bits among the low `n` bits of a number. -/
def popCount : Nat → Nat → Nat
  | 0, _ => 0
  | n + 1, v => v % 2 + popCount n (v / 2)

def execClz (f : SR) (s : State) : Outcome := .next (s.alu f 1 fun a _ => clz a)
def execPopc (f : SR) (s : State) : Outcome := .next (s.alu f 1 fun a _ => BitVec.ofNat 32 (popCount 32 a.toNat))

/-- SEL: its guard field selects, and it is never squashed (R68). -/
def execSel (f : SR) (s : State) : Outcome :=
  let x := s.myCtx
  .next (s.write 1 (.s f.sd (if x.guard f.g f.neg then x.rs f.sa else x.rs f.sb)))

/-! ### Multiply and divide (R64) -/

/-- Signed division truncated towards zero, with the results of R64 for a zero divisor and for overflow. -/
def divWord (a b : Word) : Word :=
  if b = 0 then 0xFFFFFFFF else BitVec.ofInt 32 (a.toInt.tdiv b.toInt)
def remWord (a b : Word) : Word := if b = 0 then a else BitVec.ofInt 32 (a.toInt.tmod b.toInt)
def divuWord (a b : Word) : Word := if b = 0 then 0xFFFFFFFF else BitVec.ofNat 32 (a.toNat / b.toNat)
def remuWord (a b : Word) : Word := if b = 0 then a else BitVec.ofNat 32 (a.toNat % b.toNat)
/-- Bits [63:32] of a signed product. -/
def mulhWord (a b : Word) : Word := BitVec.ofInt 32 (a.toInt * b.toInt / 2 ^ 32)

def execMul (f : SR) (s : State) : Outcome := .next (s.alu f 3 fun a b => a * b)
def execMulh (f : SR) (s : State) : Outcome := .next (s.alu f 3 fun a b => mulhWord a b)
def execMulhu (f : SR) (s : State) : Outcome := .next (s.alu f 3 fun a b => BitVec.ofNat 32 (a.toNat * b.toNat / 2 ^ 32))
def execDiv (f : SR) (s : State) : Outcome := .next (s.alu f 12 fun a b => divWord a b)
def execDivu (f : SR) (s : State) : Outcome := .next (s.alu f 12 fun a b => divuWord a b)
def execRem (f : SR) (s : State) : Outcome := .next (s.alu f 12 fun a b => remWord a b)
def execRemu (f : SR) (s : State) : Outcome := .next (s.alu f 12 fun a b => remuWord a b)

/-! ### Immediates (R63) -/

def execAddi (f : SI) (s : State) : Outcome := .next (s.aluImm f fun a => a + sextWord 14 f.imm)
def execAndi (f : SI) (s : State) : Outcome := .next (s.aluImm f fun a => a &&& BitVec.ofNat 32 f.imm)
def execOri (f : SI) (s : State) : Outcome := .next (s.aluImm f fun a => a ||| BitVec.ofNat 32 f.imm)
def execXori (f : SI) (s : State) : Outcome := .next (s.aluImm f fun a => a ^^^ BitVec.ofNat 32 f.imm)
def execShli (f : SI) (s : State) : Outcome := .next (s.aluImm f fun a => a <<< f.imm)
def execShri (f : SI) (s : State) : Outcome := .next (s.aluImm f fun a => a >>> f.imm)
def execSari (f : SI) (s : State) : Outcome := .next (s.aluImm f fun a => a.sshiftRight f.imm)
def execLui (f : SU) (s : State) : Outcome := .next (s.write 1 (.s f.sd (BitVec.ofNat 32 (f.imm * 2 ^ 13))))

/-! ### Compares (R65) -/

/-- CMP: guarded, one guard at t+1. -/
def State.cmp (s : State) (f : SR) (cond : Nat) : State :=
  let x := s.myCtx
  if x.guard f.g f.neg then s.writeG f.sd (icond cond (x.rs f.sa) (x.rs f.sb)) else s
/-- CMPI: never squashed, against the sign-extended immediate. -/
def State.cmpImm (s : State) (f : SI) (cond : Nat) : State :=
  s.writeG f.sd (icond cond (s.myCtx.rs f.sa) (sextWord 14 f.imm))

def execCmpEq (f : SR) (s : State) : Outcome := .next (s.cmp f 0)
def execCmpNe (f : SR) (s : State) : Outcome := .next (s.cmp f 1)
def execCmpLt (f : SR) (s : State) : Outcome := .next (s.cmp f 2)
def execCmpGe (f : SR) (s : State) : Outcome := .next (s.cmp f 3)
def execCmpLtu (f : SR) (s : State) : Outcome := .next (s.cmp f 4)
def execCmpGeu (f : SR) (s : State) : Outcome := .next (s.cmp f 5)
def execCmpiEq (f : SI) (s : State) : Outcome := .next (s.cmpImm f 0)
def execCmpiNe (f : SI) (s : State) : Outcome := .next (s.cmpImm f 1)
def execCmpiLt (f : SI) (s : State) : Outcome := .next (s.cmpImm f 2)
def execCmpiGe (f : SI) (s : State) : Outcome := .next (s.cmpImm f 3)
def execCmpiLtu (f : SI) (s : State) : Outcome := .next (s.cmpImm f 4)
def execCmpiGeu (f : SI) (s : State) : Outcome := .next (s.cmpImm f 5)

/-! ### Guards (R66, R67) -/

/-- GAND, GOR and GXOR: guarded; function[1] inverts the first source and function[0] the second. -/
def State.guardOp (s : State) (f : SR) (op : Bool → Bool → Bool) : State :=
  let x := s.myCtx
  if x.guard f.g f.neg then
    s.writeG f.sd (op (x.rg f.sa ^^ decide (f.fn / 2 % 2 = 1)) (x.rg f.sb ^^ decide (f.fn % 2 = 1)))
  else s

def execGand (f : SR) (s : State) : Outcome := .next (s.guardOp f and)
def execGor (f : SR) (s : State) : Outcome := .next (s.guardOp f or)
def execGxor (f : SR) (s : State) : Outcome := .next (s.guardOp f xor)

/-- GTOS: the guards as bits [7:0], bit 0 always 1. -/
def execGtos (f : SR) (s : State) : Outcome :=
  let x := s.myCtx
  .next (if x.guard f.g f.neg then s.write 1 (.s f.sd ((x.g ||| 1).zeroExtend 32)) else s)
/-- STOG: g1 to g7 from bits [7:1]. -/
def execStog (f : SR) (s : State) : Outcome :=
  let x := s.myCtx
  .next (if x.guard f.g f.neg then s.write 1 (.g 0xFE ((x.rs f.sa).truncate 8)) else s)

end Sys2Proof.Machine
end

