-- ==== Sys2Proof/Machine/Vector.lean ====
section
/-! DEFINITION. The two vector slots: floating-point and integer lanes, compares, constants, lane movement, reductions,
statistics, special functions, table interpolation, random draws and masks (06 R123 to R139, 07 R148 to R160). -/
namespace Sys2Proof.Machine

/-! ### Shapes of the vector formats -/

/-- A two-operand floating-point result, rounded by the rounding code (R127, R128). -/
def State.vFloat (s : State) (f : VR) (op : Rnd → Word → Word → Word × Flags) : State :=
  let u := s.vunit
  s.vArith f.vd f.mask 4 fun i => op (Rnd.of f.rnd) (lane (u.rv f.va) i) (lane (u.rv f.vb) i)

/-- A fused result (R129). -/
def State.vFused (s : State) (f : VF) (negProduct negAddend : Bool) : State :=
  let u := s.vunit
  s.vArith f.vd f.mask 4 fun i =>
    ffma (Rnd.of f.rnd) negProduct negAddend (lane (u.rv f.va) i) (lane (u.rv f.vb) i) (lane (u.rv f.vc) i)

/-- A two-operand result without flags. -/
def State.vPair (s : State) (f : VR) (lat : Nat) (op : Word → Word → Word) : State :=
  let u := s.vunit
  s.vWrite f.vd f.mask lat fun i => op (lane (u.rv f.va) i) (lane (u.rv f.vb) i)

/-- A one-operand result without flags. -/
def State.vOne (s : State) (f : VR) (lat : Nat) (op : Word → Word) : State :=
  let u := s.vunit
  s.vWrite f.vd f.mask lat fun i => op (lane (u.rv f.va) i)

/-- A one-operand result with flags. -/
def State.vFun (s : State) (f : VR) (lat : Nat) (op : Word → Word × Flags) : State :=
  let u := s.vunit
  s.vArith f.vd f.mask lat fun i => op (lane (u.rv f.va) i)

/-- An immediate result (R136). -/
def State.vImm (s : State) (f : VI) (lat : Nat) (op : Word → Word) : State :=
  let u := s.vunit
  s.vWrite f.vd f.mask lat fun i => op (lane (u.rv f.va) i)

/-- A floating-point compare into the mask that vd[21:19] names (R132). -/
def State.vFcmp (s : State) (f : VR) (cond : Nat) : State :=
  let u := s.vunit
  s.vCompare (f.vd % 8) f.mask fun i => fcmp cond (lane (u.rv f.va) i) (lane (u.rv f.vb) i)

/-- An integer compare (R137). -/
def State.vIcmp (s : State) (f : VR) (cond : Nat) : State :=
  let u := s.vunit
  s.vCompare (f.vd % 8) f.mask fun i => (icond cond (lane (u.rv f.va) i) (lane (u.rv f.vb) i), 0)

/-! ### Floating point (R128 to R134) -/

def execFadd (f : VR) (s : State) : Outcome := .next (s.vFloat f fadd)
def execFsub (f : VR) (s : State) : Outcome := .next (s.vFloat f fsub)
def execFmul (f : VR) (s : State) : Outcome := .next (s.vFloat f fmul)
def execFmin (f : VR) (s : State) : Outcome := .next (s.vFloat f fun _ => fminmax false)
def execFmax (f : VR) (s : State) : Outcome := .next (s.vFloat f fun _ => fminmax true)
def execFma (f : VF) (s : State) : Outcome := .next (s.vFused f false false)
def execFms (f : VF) (s : State) : Outcome := .next (s.vFused f false true)
def execFnma (f : VF) (s : State) : Outcome := .next (s.vFused f true false)

def execFabs (f : VR) (s : State) : Outcome := .next (s.vOne f 2 fun a => a &&& 0x7FFFFFFF)
def execFneg (f : VR) (s : State) : Outcome := .next (s.vOne f 2 fun a => a ^^^ 0x80000000)
def execFcps (f : VR) (s : State) : Outcome :=
  .next (s.vPair f 2 fun a b => (a &&& 0x7FFFFFFF) ||| (b &&& 0x80000000))
def execFclass (f : VR) (s : State) : Outcome := .next (s.vOne f 2 fclass)

def execFcmpEq (f : VR) (s : State) : Outcome := .next (s.vFcmp f 0)
def execFcmpNe (f : VR) (s : State) : Outcome := .next (s.vFcmp f 1)
def execFcmpLt (f : VR) (s : State) : Outcome := .next (s.vFcmp f 2)
def execFcmpLe (f : VR) (s : State) : Outcome := .next (s.vFcmp f 3)
def execFcmpUn (f : VR) (s : State) : Outcome := .next (s.vFcmp f 4)

/-- FSEL: the mask chooses the source of every lane (R134). -/
def execFsel (f : VR) (s : State) : Outcome :=
  let u := s.vunit
  .next (s.vWriteAll f.vd 2 fun i => if (u.rm f.mask).getLsbD i then lane (u.rv f.va) i else lane (u.rv f.vb) i)

/-! ### Integers (R135 to R137) -/

def execIadd (f : VR) (s : State) : Outcome := .next (s.vPair f 2 fun a b => a + b)
def execIsub (f : VR) (s : State) : Outcome := .next (s.vPair f 2 fun a b => a - b)
def execImul (f : VR) (s : State) : Outcome := .next (s.vPair f 4 fun a b => a * b)
def execImulh (f : VR) (s : State) : Outcome := .next (s.vPair f 4 mulhWord)
def execImin (f : VR) (s : State) : Outcome := .next (s.vPair f 2 fun a b => if a.sle b then a else b)
def execImax (f : VR) (s : State) : Outcome := .next (s.vPair f 2 fun a b => if b.sle a then a else b)
def execIand (f : VR) (s : State) : Outcome := .next (s.vPair f 2 fun a b => a &&& b)
def execIor (f : VR) (s : State) : Outcome := .next (s.vPair f 2 fun a b => a ||| b)
def execIxor (f : VR) (s : State) : Outcome := .next (s.vPair f 2 fun a b => a ^^^ b)
def execIshl (f : VR) (s : State) : Outcome := .next (s.vPair f 2 fun a b => a <<< amount b)
def execIshr (f : VR) (s : State) : Outcome := .next (s.vPair f 2 fun a b => a >>> amount b)
def execIsar (f : VR) (s : State) : Outcome := .next (s.vPair f 2 fun a b => a.sshiftRight (amount b))

def execIaddi (f : VI) (s : State) : Outcome := .next (s.vImm f 2 fun a => a + sextWord 11 f.imm)
def execIandi (f : VI) (s : State) : Outcome := .next (s.vImm f 2 fun a => a &&& BitVec.ofNat 32 f.imm)
def execIori (f : VI) (s : State) : Outcome := .next (s.vImm f 2 fun a => a ||| BitVec.ofNat 32 f.imm)
def execIxori (f : VI) (s : State) : Outcome := .next (s.vImm f 2 fun a => a ^^^ BitVec.ofNat 32 f.imm)
def execIshli (f : VI) (s : State) : Outcome := .next (s.vImm f 2 fun a => a <<< (f.imm % 32))
def execIshri (f : VI) (s : State) : Outcome := .next (s.vImm f 2 fun a => a >>> (f.imm % 32))
def execIsari (f : VI) (s : State) : Outcome := .next (s.vImm f 2 fun a => a.sshiftRight (f.imm % 32))

def execIcmpEq (f : VR) (s : State) : Outcome := .next (s.vIcmp f 0)
def execIcmpNe (f : VR) (s : State) : Outcome := .next (s.vIcmp f 1)
def execIcmpLt (f : VR) (s : State) : Outcome := .next (s.vIcmp f 2)
def execIcmpGe (f : VR) (s : State) : Outcome := .next (s.vIcmp f 3)
def execIcmpLtu (f : VR) (s : State) : Outcome := .next (s.vIcmp f 4)
def execIcmpGeu (f : VR) (s : State) : Outcome := .next (s.vIcmp f 5)

/-! ### Constants and lane movement (R138) -/

def execVli (f : VU) (s : State) : Outcome :=
  .next (s.vWrite f.vd f.mask 2 fun _ => BitVec.ofNat 32 (f.imm * 2 ^ 16))
def execViota (f : VR) (s : State) : Outcome := .next (s.vWrite f.vd f.mask 2 fun i => BitVec.ofNat 32 i)
def execVperm (f : VR) (s : State) : Outcome :=
  let u := s.vunit
  .next (s.vWrite f.vd f.mask 3 fun i => lane (u.rv f.va) ((lane (u.rv f.vb) i).toNat % 256))
def execVrot (f : VI) (s : State) : Outcome :=
  let u := s.vunit
  .next (s.vWrite f.vd f.mask 3 fun i => lane (u.rv f.va) ((i + f.imm) % 256))
def execVbcastl (f : VI) (s : State) : Outcome :=
  let u := s.vunit
  .next (s.vWrite f.vd f.mask 3 fun _ => lane (u.rv f.va) (f.imm % 256))

/-! ### Masks (R139) -/

/-- A mask result in every bit; mask numbers are the low 3 bits of their fields. -/
def State.vMask (s : State) (f : VR) (op : Mask → Mask → Mask) : State :=
  let u := s.vunit
  s.write 2 (.vm s.vslot (f.vd % 8) (BitVec.allOnes 256) (op (u.rm (f.va % 8)) (u.rm (f.vb % 8))))

def execMand (f : VR) (s : State) : Outcome := .next (s.vMask f fun x y => x &&& y)
def execMor (f : VR) (s : State) : Outcome := .next (s.vMask f fun x y => x ||| y)
def execMnot (f : VR) (s : State) : Outcome := .next (s.vMask f fun x _ => ~~~x)
def execMpop (f : VR) (s : State) : Outcome :=
  .next (s.vWriteAll f.vd 2 fun _ => BitVec.ofNat 32 (popCount 256 (s.vunit.rm (f.va % 8)).toNat))

/-! ### Reductions and statistics (R154, R155) -/

/-- The groups of 2^n lanes reduced by a pairwise tree; every lane receives its group's result. -/
def State.vReduce (s : State) (f : VR) (n : Nat) (empty : Word) (op : Word → Word → Word × Flags) : State :=
  let m := s.vunit.rm f.mask
  let v := s.vunit.rv f.va
  let g := 2 ^ n
  let rs := (List.range (256 / g)).map fun k => reduce op n empty ((List.range g).map fun j =>
    if m.getLsbD (k * g + j) then some (lane v (k * g + j)) else none)
  (s.vWriteAll f.vd 8 fun i => (rs.getD (i / g) (0, 0)).1).write 8
    (.flagsSet s.vslot (rs.foldl (fun fl r => fl ||| r.2) 0))

def execVrsum (f : VR) (s : State) : Outcome := .next (s.vReduce f 8 0 (fadd .rne))
def execVrmax (f : VR) (s : State) : Outcome := .next (s.vReduce f 8 0xFF800000 (fminmax true))
def execVrmin (f : VR) (s : State) : Outcome := .next (s.vReduce f 8 0x7F800000 (fminmax false))
def execVrsumg (f : VR) (s : State) : Outcome := .next (s.vReduce f (f.sub + 3) 0 (fadd .rne))

/-- VSTAT: the mean in the lower and the variance in the upper half of each group, in the selected lanes. -/
def execVstat (f : VR) (s : State) : Outcome :=
  let m := s.vunit.rm f.mask
  let v := s.vunit.rv f.va
  let g := 2 ^ (f.sub + 5)
  let rs := (List.range (256 / g)).map fun k =>
    let r := stat (f.sub + 5) ((List.range g).map fun j => lane v (k * g + j))
    (r.1, r.2.1, if (List.range g).any fun j => m.getLsbD (k * g + j) then r.2.2 else 0)
  .next ((s.vWrite f.vd f.mask 14 fun i =>
      let r := rs.getD (i / g) (0, 0, 0)
      if i % g < g / 2 then r.1 else r.2.1).write 14 (.flagsSet s.vslot (rs.foldl (fun fl r => fl ||| r.2.2) 0)))

/-! ### Special functions and tables (R148 to R153) -/

def execExp (f : VR) (s : State) : Outcome := .next (s.vFun f 12 fexp)
def execLog (f : VR) (s : State) : Outcome := .next (s.vFun f 12 flog)
def execRcp (f : VR) (s : State) : Outcome := .next (s.vFun f 12 frcp)
def execRsq (f : VR) (s : State) : Outcome := .next (s.vFun f 12 frsq)

/-- TIEL: the whole image, whatever the mask; a TIEV issued at t+2 or later reads it. -/
def execTiel (f : VR) (s : State) : Outcome :=
  .next (s.write 2 (.tie s.vslot (f.sub % 4) (s.vunit.rv f.va)))
def execTiev (f : VR) (s : State) : Outcome :=
  let t := s.vunit.ties[f.sub % 4]?.getD Tie.launch
  .next (s.vFun f 10 (tiev t.img t.valid))

/-! ### Random draws (R156 to R160) -/

/-- VRNG: the counter advances by 256 whatever the mask. -/
def execVrng (f : VR) (s : State) : Outcome :=
  let u := s.vunit
  .next ((s.vWrite f.vd f.mask 6 fun i => gWord u.key (u.ctr + BitVec.ofNat 128 i)).write 1
    (.ctr s.vslot (u.ctr + 256)))

/-- The number that the first `n` lanes of a register give, lane 0 lowest. -/
def lanesNat (v : Lanes) (n : Nat) : Nat := leNat (bytesOf (v.toList.take n))

def execVrngk (f : VR) (s : State) : Outcome :=
  .next (s.write 1 (.key s.vslot (BitVec.ofNat 64 (lanesNat (s.vunit.rv f.va) 2))))
def execVrngc (f : VR) (s : State) : Outcome :=
  .next (s.write 1 (.ctr s.vslot (BitVec.ofNat 128 (lanesNat (s.vunit.rv f.va) 4))))
def execVskip (f : VR) (s : State) : Outcome :=
  .next (s.write 1 (.ctr s.vslot (s.vunit.ctr + BitVec.ofNat 128 (lanesNat (s.vunit.rv f.va) 4))))

end Sys2Proof.Machine
end

