-- ==== Sys2Proof/Machine/Convert.lean ====
section
/-! DEFINITION. Conversions of the vector slots: narrow floats, integers, MX blocks and codebooks (05 R113 to R122). -/
namespace Sys2Proof.Machine

/-! ### CVT (R113 to R115) -/

/-- A narrowing conversion of k elements to a lane: only the fields of selected elements are written. -/
def State.vNarrow (s : State) (f : VR) (width : Nat) (op : Rnd → Word → Nat × Flags) : State :=
  let u := s.vunit
  s.vPack f.vd f.mask 4 width fun i =>
    let w := lane (u.rv f.va) i
    op (Rnd.ofCode f.rnd u.seed (ulp32 w)) w

/-- A widening conversion from k elements to a lane. -/
def State.vWiden (s : State) (f : VR) (k : Nat) (op : Nat → Word × Flags) : State :=
  let v := s.vunit.rv f.va
  s.vArith f.vd f.mask 4 fun i => op (element v k i)

def execCvtBf16F32 (f : VR) (s : State) : Outcome := .next (s.vNarrow f 16 fun r w => narrowTo bf16 r w)
def execCvtF32Bf16 (f : VR) (s : State) : Outcome := .next (s.vWiden f 2 fun n => widen (FV.ofBF16 n))
def execCvtE4m3F32 (f : VR) (s : State) : Outcome := .next (s.vNarrow f 8 fun r w => narrowTo e4m3 r w)
def execCvtF32E4m3 (f : VR) (s : State) : Outcome := .next (s.vWiden f 4 fun n => widen (FV.ofE4M3 n))
def execCvtE5m2F32 (f : VR) (s : State) : Outcome := .next (s.vNarrow f 8 fun r w => narrowTo e5m2 r w)
def execCvtF32E5m2 (f : VR) (s : State) : Outcome := .next (s.vWiden f 4 fun n => widen (FV.ofE5M2 n))
def execCvtI32F32 (f : VR) (s : State) : Outcome :=
  .next (s.vNarrow f 32 fun r w => let c := toInt32 r w; (c.1.toNat, c.2))
def execCvtF32I32 (f : VR) (s : State) : Outcome := .next (s.vFun f 4 ofInt32)

/-! ### MX blocks (R116 to R118) -/

/-- CVTMX8 and CVTMX4: the whole of vd, from +0 in the lanes that are not selected. -/
def State.vMx (s : State) (f : VR) (F : Fmt) (emax : Int) : State :=
  let u := s.vunit
  let m := u.rm f.mask
  let r := cvtMx F emax f.rnd u.seed ((List.range 256).map fun i => if m.getLsbD i then lane (u.rv f.va) i else 0)
  (s.write 6 (.v s.vslot f.vd allLanes r.1)).write 6 (.flagsSet s.vslot r.2)

def execCvtmx8 (f : VR) (s : State) : Outcome := .next (s.vMx f e4m3 8)
def execCvtmx4 (f : VR) (s : State) : Outcome := .next (s.vMx f e2m1 2)
def execUnmx (f : VR) (s : State) : Outcome :=
  let v := s.vunit.rv f.va
  .next (s.vArith f.vd f.mask 4 (unmx v))

/-! ### Codebooks (R119 to R122) -/

/-- The codebook that sub[1:0] names, as it stands at t. -/
def State.codebook (s : State) (f : VR) : BitVec 256 := s.myCtx.mx.books[f.sub % 4]?.getD 0

def execCb4dec (f : VR) (s : State) : Outcome :=
  let cb := s.codebook f
  .next (s.vWiden f 8 fun j => widen (bookEntry cb j))
def execCb4enc (f : VR) (s : State) : Outcome :=
  let u := s.vunit
  let cb := s.codebook f
  .next (s.vPack f.vd f.mask 4 4 fun i => cb4enc cb f.rnd u.seed (lane (u.rv f.va) i))

end Sys2Proof.Machine
end

