-- ==== Sys2Proof/Machine/NmRecord.lean ====
section
/-! DEFINITION. The record of a near-memory command and where its blocks lie (16 R302 to R304). -/
namespace Sys2Proof.Machine

/-! ### The record (R304) -/

/-- A field of a command's record. -/
def NmCmd.f (c : NmCmd) (hi lo : Nat) : Nat := field c.rec_.toNat hi lo
def NmCmd.op (c : NmCmd) : Nat := c.f 7 0
def NmCmd.count (c : NmCmd) : Nat := c.f 31 16
def NmCmd.rnd (c : NmCmd) : Rnd := Rnd.of (c.f 15 14)
def NmCmd.alpha (c : NmCmd) : Word := BitVec.ofNat 32 (c.f 223 192)
def NmCmd.beta (c : NmCmd) : Word := BitVec.ofNat 32 (c.f 255 224)

/-- The three ranges. -/
inductive NmRange where
  | a
  | b
  | dst
deriving DecidableEq, Repr

/-- The first block of a range. -/
def NmCmd.first (c : NmCmd) : NmRange → Nat
  | .a => c.f 79 40
  | .b => c.f 119 80
  | .dst => c.f 159 120

/-- The ranges that an operation uses (R308). -/
def nmUses (op : Nat) : List NmRange := if op = 3 ∨ op = 5 then [.a, .dst] else [.a, .b, .dst]

/-- The last cycle of the window, which is that of the last destination write (R303). A command with COUNT = 0 has no write,
and until its check at S the model gives it that of one block (DESIGN CHOICE, log entry 35). -/
def NmCmd.last (c : NmCmd) : Nat := c.start + 40 + 3 * (c.count - 1)

/-- The translation of a block of a range under a partition's regions. -/
def NmCmd.block (c : NmCmd) (regions : List (BitVec 128)) (r : NmRange) (k : Nat) : Except (Nat × Nat) (Nat × Nat) :=
  translate regions (r == .dst) (64 * (c.first r + k))

end Sys2Proof.Machine
end

