-- ==== Sys2Proof/Machine/MemoryEvents.lean ====
section
/-! DEFINITION. The steps of memory: bank accesses, memory slots and their pairing, device writes, non-temporal units,
and
drains (04 R86 to R97, 12 R250 to R252, 13 R264, R267). -/
namespace Sys2Proof.Machine

/-! ### Bank accesses (R86 to R97) -/

/-- The read of some words in the banks without a conflict (R87): the correctable ones are counted, the lowest
uncorrectable one is fault 0x33 (R97), and the second part says whether every word was read. -/
def State.readBanks (s : State) (holder : Nat) (ws : List Nat) : State × Bool :=
  let free := ws.filter fun w => !s.clashes holder (w / 16 % 32)
  let (s, bad) := s.readErrors holder free
  match bad with
  | some w => (s.wordFault holder w, false)
  | none => (s, free.length == ws.length)

/-- A read of consecutive bytes, and what follows when every word of them was read. -/
def State.readOk (s : State) (holder a size : Nat) (f : State → List Byte → State) : State :=
  match s.readBanks holder (wordNos a size) with
  | (s, true) => f s ((s.core holder).spad.readBytes a size)
  | (s, false) => s

/-- The new word of an atomic, `old` being the one read (R96). -/
def AmoOp.result (o : AmoOp) (old v c : Word) : Word := match o with
  | .add => old + v
  | .min => if old.sle v then old else v
  | .max => if v.sle old then old else v
  | .swap => v
  | .cas => if old = c then v else old

/-- A d register written whole, lane 0 holding one word. -/
def State.wordResult (s : State) (tg at_ : Nat) (w : Word) : State :=
  s.sched at_ [10, s.t, 1] (.registerWrite s.me (.d tg allLanes (lanesOf [w])))

/-- The uncorrectable words that the halfword writes of a group would merge into (R97). -/
def State.badMerges (s : State) (holder : Nat) (els : List (Nat × Nat × List Byte)) : List Nat :=
  (dedup (· == ·) (els.map fun e => e.2.1 / 4)).filter fun w => (s.core holder).bad.contains w

/-- An access performs in its bank cycle, on the banks without a conflict. Halfword writes that merge into several
uncorrectable words raise one fault, for the word of the lowest such lane (DEDUCED, log entry 49). -/
def State.performBank (s : State) (b : BankOp) : State :=
  let h := b.holder
  match b.act with
  | .load a size sink => s.readOk h a size fun s data => s.deliverFrom (dieOf h) sink data none
  | .store a data => match s.crossed (dieOf h), s.clear h (a, data) with
    | some d, _ => s.raise 0x33 d
    | none, [] => s
    | none, pieces => s.spadWrite h b.req pieces
  | .gather els _ tg at_ =>
    match s.readBanks h (dedup (· == ·) (els.map fun e => e.2 / 4)) with
    | (s, false) => s
    | (s, true) =>
      let sel (i : Nat) : Option Nat := (els.find? fun e => e.1 == i).map (·.2)
      s.sched at_ [10, s.t, 1] (.registerWrite s.me (.d tg
        (Vector.ofFn fun i => if (sel i.val).isSome then 0xFFFFFFFF else 0)
        (Vector.ofFn fun i => (sel i.val).elim 0 fun a => (s.core h).spad.readWord a)))
  | .scatter els half =>
    let open_ := els.filter fun e => !s.clashes h (e.2.1 / 64 % 32)
    let bad := if half then s.badMerges h open_ else []
    let good := open_.filter fun e => !bad.contains (e.2.1 / 4)
    let s := match bad with
      | [] => s
      | w :: _ => s.wordFault h w
    let s := if half then (s.readErrors h (dedup (· == ·) (good.map fun e => e.2.1 / 4))).1 else s
    match good with
    | [] => s
    | _ => s.spadWrite h b.req (good.map fun e => (e.2.1, e.2.2))
  | .tagged a expected tg at_ =>
    let slot := a / 8192
    let tag := ((s.ctx h).tags[slot]?.getD 0).toNat
    let s := if tag = expected then s
      else s.raise 0x13 [BitVec.ofNat 32 slot, BitVec.ofNat 32 expected, BitVec.ofNat 32 tag]
    s.readOk h a 256 fun s data => if tag = expected then s.deliver (.dreg tg at_) data none else s
  | .amoRead a o v c tg at_ =>
    s.readOk h a 4 fun s data =>
      let old : Word := BitVec.ofNat 32 (leNat data)
      (s.bank (s.now + 1) { b with act := .store a (wordBytes (o.result old v c)) }).wordResult tg at_ old
  | .pigeonhole n tg at_ => s.wordResult tg at_ (s.pigRead (s.partOf s.me) n)
  | .refused d => s.raise 0x21 d

/-- BANK_ACCESS. -/
def execBankAccess (s : State) : Outcome := match s.cur.work with
  | .bankAccess b => match s.intrudes b with
    | some (bank, row) => .next (s.raiseHolder b.holder 0x19 [4, BitVec.ofNat 32 bank, BitVec.ofNat 32 row, b.req, lo32 b.cyc])
    | none => .next ((s.enterUses b).performBank b)
  | _ => .next s

/-- QUEUE_LOAD_APPEND (R92). -/
def execQueueLoadAppend (s : State) : Outcome := match s.cur.work with
  | .queueLoadAppend c q r => .next (s.append c q s.t r)
  | _ => .next s

/-! ### Memory slots (R264) -/

/-- The timeline source word of a request or a column word (R406). -/
def sourceWord (kind source : Nat) : Word := BitVec.ofNat 32 (kind * 2 ^ 30 + source)

/-- D0 of a channel fault (R407). -/
def chanWord (rule stack chan n : Nat) : Word :=
  BitVec.ofNat 32 (rule * 2 ^ 28 + stack * 2 ^ 25 + chan * 2 ^ 19 + n * 2 ^ 10)

def MemReq.units (r : MemReq) : List Nat := (unitsOf r.phys r.size).map fun u => 64 * u

/-- Whether a request has a unit on a pseudo-channel. -/
def MemReq.on (r : MemReq) (stack chan : Nat) : Bool := r.units.any fun p => stackOf p == stack && chanOf p == chan

/-- The rule that one unit of a request breaks at slot `k`, the requests of the slot being `all` (R264; log entry 13). -/
def State.unitRule (s : State) (q : Part) (all : List MemReq) (k : Nat) (r : MemReq) (p : Nat) : Option Nat :=
  match q.chanNo (stackOf p) (chanOf p) with
  | none => some 2
  | some n =>
    let tl := s.timelineOf q n
    let w := tl.colAt k
    if wordCode w ≠ 8 ∧ wordCode w ≠ 9 then some 2
    else if 2 ≤ (all.filter fun x => x.on (stackOf p) (chanOf p)).length then some 8
    else if r.write != (wordCode w == 9) then some 4
    else if wordKind w ≠ r.kind ∨ wordSource w ≠ r.source then some 5
    else if wordBank w ≠ bankOf p ∨ wordCol w ≠ colOf p then some 6
    else if tl.openRow (bankOf p) k ≠ some (rowOf p) then some 7
    else none

/-- The failure of a request: its rule and the unit on the lowest pseudo-channel that fails. -/
def State.requestRule (s : State) (q : Part) (all : List MemReq) (k : Option Nat) (r : MemReq) : Option (Nat × Nat) :=
  let ps := sortBy (fun a b => decide (chanOf a < chanOf b)) r.units
  match k with
  | none => ps.head?.map fun p => (1, p)
  | some k => ps.findSome? fun p => (s.unitRule q all k r p).map fun rule => (rule, p)

/-- The core on which a channel fault of a request is recorded: its own, or rank 0 for a request from a port. -/
def Part.requester (q : Part) (r : MemReq) : Nat := if r.kind = 2 then (q.coreAt 0).getD 0 else r.who.core

/-- What the record of a channel fault says of an access concerned: rank, kind and source (R406), and issue cycle. -/
structure Concern where
  rank : Nat
  kind : Nat
  source : Nat
  issue : Nat

def State.concern (s : State) (r : MemReq) : Concern :=
  { rank := s.rankOf r.who.core, kind := r.kind, source := r.source, issue := r.who.issue }

/-- The words of up to three accesses concerned, in ascending order of rank and then of source (R407). -/
def concernWords (cs : List Concern) : List Word :=
  ((sortBy (fun a b : Concern => keyLt [a.rank, a.kind, a.source] [b.rank, b.kind, b.source]) cs).take 3).flatMap fun c =>
    [sourceWord c.kind c.source, lo32 c.issue]

/-- The record of a suppressed access. -/
def State.suppress (s : State) (q : Part) (all : List MemReq) (k : Option Nat) (r : MemReq) (rule p : Nat) : State :=
  let named := if rule = 8 then all.filter fun x => x.on (stackOf p) (chanOf p) else [r]
  let n := (q.chanNo (stackOf p) (chanOf p)).getD 0
  let kw : Word := match k with
    | some k => BitVec.ofNat 32 (k % (s.timelineOf q n).slots)
    | none => 0xFFFFFFFF
  s.raiseAt (q.requester r) 0x18 12 r.who.bundle (some r.who.issue)
    ([chanWord rule (stackOf p) (chanOf p) n, kw] ++ concernWords (named.map s.concern))

/-- The words of rule 3 at slot `k`: RD and WR words without OPT that no request meets, as channel and word. -/
def Part.unmet (q : Part) (all : List MemReq) (k : Nat) : List (Nat × Word) :=
  q.timelines.filterMap fun t =>
    let w := t.colAt k
    let (stack, chan) := q.chanAt t.chan
    if (wordCode w = 8 ∨ wordCode w = 9) ∧ ¬ wordOpt w ∧ ¬ all.any (·.on stack chan) then some (t.chan, w) else none

/-- The units that a near-memory access of a step reads or writes, and its command (R309). -/
def Part.nmUnits (q : Part) : Work → Option (NmCmd × List Nat)
  | .nmBlockRead c k => some (c, (nmUses c.op).filterMap fun r =>
      if r = .dst then none else (c.block q.regions r k).toOption.map (·.1))
  | .nmBlockWrite c k _ _ => some (c, (c.block q.regions .dst k).toOption.map (·.1) |>.toList)
  | _ => none

/-- A near-memory access that meets a request on a pseudo-channel: its step, its command, and the unit on the lowest such
channel (R264, rule 9). -/
def State.nmMet (s : State) (q : Part) (all : List MemReq) : List (Timed × NmCmd × Nat) :=
  (s.due.filter fun x => x.ofPart q.num && s.isDue x).filterMap fun x => match q.nmUnits x.what with
    | none => none
    | some (c, ps) => ((sortBy (fun a b => decide (chanOf a < chanOf b)) ps).find? fun p =>
        all.any fun r => r.on (stackOf p) (chanOf p)).map fun p => (x, c, p)

/-- A near-memory access that meets a request is suppressed, and recorded on its command's core; it is named by its lane,
beside the requests that it meets (R406, R407). -/
def State.nmSuppress (s : State) (q : Part) (all : List MemReq) (k : Nat) (m : Timed × NmCmd × Nat) : State :=
  let (x, c, p) := m
  let n := (q.chanNo (stackOf p) (chanOf p)).getD 0
  let met := (all.filter fun r => r.on (stackOf p) (chanOf p)).map s.concern
  let own : Concern := { rank := s.rankOf x.who.core, kind := 3, source := groupOf p % 4, issue := c.issue }
  (s.dropDue (· == x)).raiseAt x.who.core 0x18 12 x.who.bundle (some c.issue)
    ([chanWord 9 (stackOf p) (chanOf p) n, BitVec.ofNat 32 (k % (s.timelineOf q n).slots)] ++ concernWords (own :: met))

/-- The record of the unmet words of one source, on the lowest of their channels; of a source whose rank has no core, rank 0
keeps it (DEDUCED, log entry 13). -/
def State.unmetRecord (s : State) (q : Part) (k : Nat) (x : Nat × Word) : State :=
  let (stack, chan) := q.chanAt x.1
  let rank := if wordKind x.2 = 2 ∨ q.cores.length ≤ wordSource x.2 then 0 else wordSource x.2
  s.raisePart q.num
    { code := 0x18, rank := rank, src := 12, bundle := 0xFFFFFFFF, issue := none, blame := none,
      detail := [chanWord 3 stack chan x.1, BitVec.ofNat 32 (k % (s.timelineOf q x.1).slots),
        sourceWord (wordKind x.2) (wordSource x.2), 0xFFFFFFFF] }

/-- Pairing the requests of a partition's cycle with the column words of its slot, if it has one. -/
def State.pair (s : State) (q : Part) (c : Nat) : State :=
  let all := s.reqs.filter fun r => r.part == q.num && decide (r.cycle ≤ c)
  let s := { s with reqs := s.reqs.filter fun r => !(r.part == q.num && decide (r.cycle ≤ c)) }
  let k := slotAt c
  let s := all.foldl (fun s' r => match s.requestRule q all k r with
    | some (rule, p) => s'.suppress q all k r rule p
    | none => s'.serve r) s
  match k with
  | none => s
  | some k =>
    let words := sortBy (fun a b : Nat × Word => decide ((q.chanAt a.1).1 * 64 + (q.chanAt a.1).2 < (q.chanAt b.1).1 * 64 + (q.chanAt b.1).2))
      (q.unmet all k)
    let first := dedup (fun a b => wordKind a.2 == wordKind b.2 && wordSource a.2 == wordSource b.2) words
    let s := first.foldl (fun s x => s.unmetRecord q k x) s
    let s := (s.nmMet q all).foldl (fun s m => s.nmSuppress q all k m) s
    if q.timelines.isEmpty then s else s.pairAt q.num (slotCycle (k + 1))

/-- MEMORY_SLOT. -/
def execMemorySlot (s : State) : Outcome := match s.cur.work with
  | .memorySlot p => match s.part p with
    | some q => .next (s.pair q (q.ttc s.gtc))
    | none => .next s
  | _ => .next s

/-- DEVICE_WRITE_PERFORM (R230, R264). -/
def execDeviceWritePerform (s : State) : Outcome := match s.cur.work with
  | .deviceWritePerform tenant us =>
    .next (us.foldl (fun s u => s.writeUnit (s.keyOf tenant u.key) (u.phys / 64) u.data) s)
  | _ => .next s

/-! ### Non-temporal stores (R250, R251) -/

/-- STNT_UNIT_WRITE: the unit is written in its slot. -/
def execStntUnitWrite (s : State) : Outcome := match s.cur.work with
  | .stntUnitWrite u =>
    let s := s.writeUnit (s.keyOf ((s.part u.part).elim 0 (·.tenant)) u.key) (u.phys / 64) u.data
    .next ((s.noteServed u.phys true true).modCore u.core fun k => { k with stnts := k.stnts.map fun r =>
      if r.issue = u.issue then { r with units := r.units.filter (· != u.phys) } else r })
  | _ => .next s

/-- The units of an STNT that have not performed by the present cycle. -/
def State.lateUnits (s : State) (core : Nat) (r : StntRec) : List Nat := r.units.filter fun p =>
  !s.dueNow.any fun x => match x.what with
    | .stntUnitWrite u => u.core == core && u.issue == r.issue && u.phys == p
    | _ => false

/-- DRAIN_COMPLETION: the covered STNTs are done; one with a unit still unwritten is a timeline fault, whose record gives
that STNT's bundle and issue (R250, R324) (DEDUCED, log entry 21). -/
def execDrainCompletion (s : State) : Outcome := match s.cur.work with
  | .drainCompletion c upto =>
    let (done, rest) := (s.core c).stnts.partition fun r => r.covered == some upto
    let s' := s.modCore c fun k => { k with stnts := rest }
    .next (match s.part (s.partOf c) with
      | none => s'
      | some q => done.foldl (fun s' r =>
          match sortBy (fun a b => decide (chanOf a < chanOf b)) (s.lateUnits c r) with
          | [] => s'
          | p :: _ =>
            let n := (q.chanNo (stackOf p) (chanOf p)).getD 0
            let kw : Word := match slotAt upto with
              | some k => BitVec.ofNat 32 (k % (s.timelineOf q n).slots)
              | none => 0xFFFFFFFF
            s'.raiseAt c 0x18 12 r.bundle (some r.issue)
              [chanWord 10 (stackOf p) (chanOf p) n, kw, sourceWord 0 (s.rankOf c), lo32 r.issue,
                BitVec.ofNat 32 (p / 64 % 16)]) s')
  | _ => .next s

/-! ### What leaves the machine, and accesses outside the timetable (R253, R265) -/

def State.reply (s : State) (r : Reply) : State := { s with out := s.out ++ [r] }

/-- An access outside the timetable takes its place in the order of presentation (R265). -/
def State.present (s : State) (a : OpenAccess) : State :=
  { s with unitCount := s.unitCount + 1 }.schedG s.gtc [90, 3, s.unitCount] (.openSlotService { a with seq := s.unitCount })

end Sys2Proof.Machine
end

