-- ==== Sys2Proof/Machine/Transfer.lean ====
section
/-! DEFINITION. The transfer engines: shapes, the checks at S, the cycles of elements, transfer lists, accumulate windows,
multicast and the loads of the mask unit (11 R240 to R242, 15 R276 to R297, 22 R392). -/
namespace Sys2Proof.Machine

/-! ### Shapes (R277, R278) -/

/-- A field of a command's shape. -/
def Cmd.f (c : Cmd) (hi lo : Nat) : Nat := field c.shape.toNat hi lo
def Cmd.base (c : Cmd) : Nat := c.f 127 64
def Cmd.loc (c : Cmd) : Nat := c.f 63 44
def Cmd.esz (c : Cmd) : Nat := c.f 43 42
/-- Elements along the dimensions. -/
def Cmd.n0 (c : Cmd) : Nat := c.f 41 36 + 1
def Cmd.n1 (c : Cmd) : Nat := c.f 35 30 + 1
def Cmd.n2 (c : Cmd) : Nat := c.f 29 26 + 1
def Cmd.s1 (c : Cmd) : Int := sext 12 (c.f 25 14)
def Cmd.s2 (c : Cmd) : Int := sext 12 (c.f 13 2)
/-- Bit 1: TAG, or CLR of XACC; bit 0: STAT of XACC. -/
def Cmd.bit1 (c : Cmd) : Bool := c.shape.getLsbD 1
def Cmd.bit0 (c : Cmd) : Bool := c.shape.getLsbD 0

/-- Elements of a command. -/
def Cmd.n (c : Cmd) : Nat := c.n0 * c.n1 * c.n2
/-- Bytes of an element; a list's entry has 32 (R290). -/
def Cmd.z (c : Cmd) : Nat := if c.op = 0x0B then 32 else match c.esz with
  | 0 => 64
  | 1 => 256
  | _ => 1024

/-- far(e). -/
def Cmd.far (c : Cmd) (e : Nat) : Nat :=
  let i0 := e % c.n0
  let i1 := e / c.n0 % c.n1
  let i2 := e / (c.n0 * c.n1)
  (((c.base : Int) + c.z * (i0 + c.s1 * i1 + c.s2 * i2)) % 2 ^ 64).toNat
/-- local(e). -/
def Cmd.local_ (c : Cmd) (e : Nat) : Nat := c.loc + c.z * e
/-- The space of far(e). -/
def Cmd.sp (c : Cmd) (e : Nat) : Nat := c.far e / 2 ^ 60

/-! ### SHP, TAGSET and the commands at issue (R276, R280, R281) -/

/-- SHP: 16 bytes of local scratchpad at t+2, the shape register at t+3. -/
def execShp (f : TEF) (s : State) : Outcome := .next (s.issue (.shp f) fun s =>
  s.bank (s.t + 2) { holder := s.me, req := reqWord 1 0 (s.rankOf s.me), cyc := s.t,
                     act := .load (16 * f.lead) 16 (.shape f.h (s.t + 3)) })

def execTagset (f : TEF) (s : State) : Outcome := .next (s.issue (.tagset f) fun s =>
  s.write 1 (.etag (BitVec.ofNat 16 f.lead)))

/-- A command: its shape and ETAG are read at t, and it starts at t + lead. -/
def State.command (s : State) (op : Nat) (f : TEF) : State :=
  s.startCmd { op := op, start := s.t + f.lead, issue := s.t, shape := s.myCtx.rh f.h, tag := s.myCtx.etag }

def execXfer (f : TEF) (s : State) : Outcome := .next (s.issue (.xfer f) (·.command 0x08 f))
def execXferq (f : TEF) (s : State) : Outcome := .next (s.issue (.xferq f) (·.command 0x09 f))
def execXstore (f : TEF) (s : State) : Outcome := .next (s.issue (.xstore f) (·.command 0x0A f))
def execTlist (f : TEF) (s : State) : Outcome := .next (s.issue (.tlist f) (·.command 0x0B f))
def execXred (f : TEF) (s : State) : Outcome := .next (s.issue (.xred f) (·.command 0x10 f))
def execXacc (f : TEF) (s : State) : Outcome := .next (s.issue (.xacc f) (·.command 0x11 f))
def execXmc (f : TEF) (s : State) : Outcome := .next (s.issue (.xmc f) (·.command 0x12 f))
def execMkcfg (f : TEF) (s : State) : Outcome := .next (s.issue (.mkcfg f) (·.command 0x18 f))
def execPptld (f : TEF) (s : State) : Outcome := .next (s.issue (.pptld f) (·.command 0x19 f))
def execVbmld (f : TEF) (s : State) : Outcome := .next (s.issue (.vbmld f) (·.command 0x1A f))

/-! ### The checks at S (R279) -/

/-- The first accumulator index of a window address, and the window (R291). -/
def winIndex (a : Nat) : Nat := field a 9 2
def winNo (a : Nat) : Nat := field a 12 10

/-- Check 1: reserved fields and shape requirements. -/
def Cmd.shapeOk (c : Cmd) : Bool :=
  let flat := c.n1 == 1 && c.n2 == 1
  let rows := c.esz == 1
  c.esz != 3 && (!c.bit0 || c.op == 0x11) && match c.op with
  | 0x09 => rows && c.f 63 46 == 0
  | 0x0B => c.esz == 0 && flat && c.s1 == 0 && c.s2 == 0 && !c.bit1 && c.loc == 0
  | 0x10 => flat && c.s1 == 0 && c.s2 == 0
  | 0x11 => flat && c.s2 == 0 && (!c.bit1 ||
      (winIndex c.base == 0 && c.z * c.n == 1024 && decide (-160 ≤ c.s1) && decide (c.s1 ≤ 40)))
  | 0x12 => rows && c.f 63 54 == 0 && c.f 51 44 != 0
  | 0x18 => c.esz == 0 && c.n == 1 && !c.bit1 && c.loc == 0
  | 0x19 => c.z * c.n == 512 && !c.bit1 && c.loc == 0
  | 0x1A => !c.bit1 && decide (c.loc < 2 ^ 13) && c.loc % c.z == 0 && decide (c.loc + c.z * c.n ≤ 8192)
  | _ => true

/-- Check 2: the far spaces of a command. -/
def Cmd.spaceOk (c : Cmd) (sp : Nat) : Bool := match c.op with
  | 0x0A => sp == 1 || sp == 2 || sp == 4 || sp == 8
  | 0x10 => sp == 0 || sp == 1 || sp == 2 || sp == 8
  | 0x12 => sp == 0 || sp == 1
  | 0x08 | 0x09 | 0x1A => sp == 0 || sp == 1 || sp == 2 || sp == 4 || sp == 8
  | _ => sp == 0

/-- Whether LOC names a packed local side. -/
def Cmd.packed (c : Cmd) : Bool := c.op == 0x08 || c.op == 0x0A || c.op == 0x10 || c.op == 0x11
/-- Whether the far side is a window address (R291). -/
def Cmd.windowed (c : Cmd) : Bool := c.op == 0x10 || c.op == 0x11

/-- Check 3: the local side of an element. -/
def Cmd.localFault (c : Cmd) (e : Nat) : Option Nat :=
  if c.packed then
    (if c.local_ e % c.z ≠ 0 then some 0x22 else if 2 ^ 20 < c.local_ e + c.z then some 0x23 else none)
  else none

/-- Check 5: the zero fields of a far address; a window of another package has its own (R392). -/
def State.farFieldsOk (s : State) (c : Cmd) (a : Nat) : Bool :=
  s.fieldsOk a && (a / 2 ^ 60 != 8 || c.op != 0x10 || (field a 47 29 == 0 && field a 19 13 == 0))

/-- Check 7: device memory under the region table; loads read, XSTORE writes. -/
def State.regionFault (s : State) (c : Cmd) (a : Nat) : Option Nat :=
  if (a / 2 ^ 60 = 4 ∨ a / 2 ^ 60 = 8) ∧ c.op ≠ 0x10 then
    match translate ((s.part (s.partOf s.me)).elim [] (·.regions)) (c.op == 0x0A) (a % 2 ^ 48) with
    | .error (code, _) => some code
    | .ok _ => none
  else none

/-- Check 8: a scratchpad target that its die port's table refuses. -/
def State.targetRefused (s : State) (write : Bool) (a : Nat) : Bool :=
  (a / 2 ^ 60 == 1 || a / 2 ^ 60 == 2) && (s.target write (rankNamed (s.rankOf s.me) a)).isNone

/-- The fault of one check of one element. -/
def State.checkFault (s : State) (c : Cmd) (check e : Nat) : Option Nat :=
  let a := c.far e
  match check with
  | 1 => if c.shapeOk then none else some 0x23
  | 2 => if c.spaceOk (c.sp e) then none else some 0x23
  | 3 => c.localFault e
  | 4 => if a % (if c.windowed then 4 else c.z) = 0 then none else some 0x22
  | 5 => if s.farFieldsOk c a then none else some 0x23
  | 6 => if c.windowed && (field a 19 13 != 0 || decide (256 < winIndex c.base + c.n * c.z / 4)) then some 0x23 else none
  | 7 => s.regionFault c a
  | _ => if s.targetRefused (c.op == 0x0A || c.op == 0x10) a then some 0x21 else none

/-- The first check that an element fails, and the lowest element that fails it: code and element
(DEDUCED, log entry 33). -/
def State.cmdFault (s : State) (c : Cmd) : Option (Nat × Nat) :=
  [1, 2, 3, 4, 5, 6, 7, 8].findSome? fun k =>
    (List.range c.n).findSome? fun e => (s.checkFault c k e).map fun code => (code, e)

/-! ### Link commands at S (R385) -/

def Cmd.isLink (c : Cmd) : Bool := c.op == 0x28 || c.op == 0x29
/-- LSEND from scratchpad rows. -/
def Cmd.fromSpad (c : Cmd) : Bool := c.op == 0x28 && c.f 60 60 == 0

/-- The fields that a link command allows. -/
def Cmd.linkShapeOk (c : Cmd) : Bool :=
  decide (c.f 63 61 < 6) && c.esz == 1 && c.n1 == 1 && c.n2 == 1 && !c.bit0 && c.f 47 44 == 0 &&
  (if c.op = 0x28 then c.f 48 48 == 0 else decide (c.f 60 58 < 6)) &&
  (if c.fromSpad then true else c.base == 0)

/-- Whether an entry of a port's table gives a partition some flit slot, under the write right or the read right (R240). -/
def AccessEntry.slotFor (e : AccessEntry) (part : Nat) (write : Bool) : Bool :=
  e.part == part && (if write then e.wr else e.rd) && decide (e.base ≤ e.limit) && decide (e.base < 6144)

/-- A port that a partition may not send through, to write or to read: it is not trained to a neighbour, or its access table
gives the partition no slot under that right (R240, R385). -/
def State.portRefused (s : State) (port : Nat) (write : Bool) : Bool :=
  let p := s.ports[port]?.getD Port.reset
  p.mode != .torus || !p.access.any fun e => e.slotFor (s.partOf s.me) write

/-- One check of a link command's element, in the order of R279. -/
def State.linkCheck (s : State) (c : Cmd) (check e : Nat) : Option Nat :=
  let a := c.far e
  match check with
  | 1 => if c.linkShapeOk then none else some 0x23
  | 2 => if !c.fromSpad || a / 2 ^ 60 == 0 then none else some 0x23
  | 4 => if c.fromSpad && a % 256 != 0 then some 0x22 else none
  | 5 => if c.fromSpad && !s.fieldsOk a then some 0x23 else none
  | 8 => if s.portRefused (c.f 63 61) true then some 0x21 else none
  | _ => none

def State.linkFault (s : State) (c : Cmd) : Option (Nat × Nat) :=
  [1, 2, 4, 5, 8].findSome? fun k =>
    (List.range c.n).findSome? fun e => (s.linkCheck c k e).map fun code => (code, e)

/-! ### The far side and the cycles of an element (R282, R283, R294) -/

/-- Where the far side of an element lies. -/
inductive FarSide where
  | own
  | peer (core : Nat) (r : Reach)
  | device (phys key : Nat)
  | remote (hops port : Nat)
  | absent
deriving DecidableEq, Repr

/-- The far side of an address; the core's own scratchpad through space 0x1 or 0x2 is a cluster peer (R229). -/
def State.farSide (s : State) (write : Bool) (a : Nat) : FarSide := match a / 2 ^ 60 with
  | 0 => .own
  | 1 | 2 => match s.target write (rankNamed (s.rankOf s.me) a) with
    | some k => .peer k (if k = s.me then .cluster else reach s.me k)
    | none => .absent
  | 4 => match translate ((s.part (s.partOf s.me)).elim [] (·.regions)) write (a % 2 ^ 48) with
    | .ok (phys, key) => .device phys key
    | .error _ => .absent
  | 8 => let (h, p) := s.route (coordsOf a); .remote h p
  | _ => .absent

/-- The cycles from S+e of a far read and its arrival, and of a far write. -/
def inCycles : Reach → Nat × Nat
  | .self => (0, 2)
  | .cluster => (4, 10)
  | .die => (12, 24)
  | .far => (28, 56)
def outCycles : Reach → Nat
  | .self => 2
  | .cluster => 8
  | .die => 18
  | .far => 42

/-- The cycles before M_e at which a device element issues. -/
def State.lead (s : State) : FarSide → Nat
  | .device phys _ => if stackOf phys / 2 = dieOf s.me then 16 else 40
  | .remote h _ => 16 + 190 * h
  | _ => 0

/-- M_e. -/
def State.slotOf (s : State) (c : Cmd) (e : Nat) (far : FarSide) : Nat :=
  slotCycle (slotFrom (c.start + s.lead far) + e)

/-- I_e, and the cycle at which the element's last access performs. -/
def State.cycles (s : State) (c : Cmd) (e : Nat) (far : FarSide) : Nat × Nat :=
  let b := c.start + e
  let m := s.slotOf c e far
  match c.op with
  | 0x0A => match far with
    | .peer _ r => (b, b + outCycles r)
    | _ => (m - s.lead far, m + 100)
  | 0x0B => (b, b)
  | 0x10 => match far with
    | .peer _ r => (b, b + outCycles r)
    | .remote h _ => (b, b + 12 + 190 * h)
    | _ => (b, b + 2)
  | 0x11 => (b, b + 2)
  | 0x12 => (b, b + (if far = .own then 8 else 12))
  | 0x18 => (b, b + 2)
  | 0x19 => (b, c.start + 1088)
  | _ => match far with
    | .own => (b, b + 2)
    | .peer _ r => (b, b + (inCycles r).2)
    | .device phys _ => (m - s.lead far, m + (if stackOf phys / 2 = dieOf s.me then 104 else 152))
    | .remote h _ => (m - s.lead far, m + 104 + 190 * h)
    | .absent => (b, b)

def State.elemFar (s : State) (c : Cmd) (e : Nat) : FarSide := s.farSide (c.op == 0x0A || c.op == 0x10) (c.far e)
def State.elemCycles (s : State) (c : Cmd) (e : Nat) : Nat × Nat := s.cycles c e (s.elemFar c e)

/-- The last cycle of a command; a row sent on a link lands 194 cycles after its element. -/
def State.lastOf (s : State) (c : Cmd) : Nat :=
  if c.isLink then c.start + c.n - 1 + 194
  else (List.range c.n).foldl (fun m e => max m (s.elemCycles c e).2) c.start

def State.setLast (s : State) (c : Cmd) (last : Nat) : State := s.modCore s.me fun k =>
  { k with te := k.te.map fun r => if r.cmd = c then { r with last := last } else r }

/-! ### Accumulate windows (R291 to R293) -/

def Ctx.window (x : Ctx) (w : Nat) : Window := x.windows[w]?.getD Window.launch

/-- m * 2^k to the nearest integer, ties to even. -/
def roundEven (m : Nat) (k : Int) : Nat :=
  if 0 ≤ k then m * 2 ^ k.toNat
  else
    let d := 2 ^ (-k).toNat
    let q := m / d
    if d < 2 * (m % d) ∨ (d = 2 * (m % d) ∧ q % 2 = 1) then q + 1 else q

/-- The integer that a finite input adds under exponent E. -/
def accTerm (e : Int) (w : Word) : Int := match FV.of32 w with
  | .fin n m ex => let q := roundEven m (ex - e); if n then -(q : Int) else q
  | _ => 0

/-- The greatest and the least accumulator. -/
def accMax : Int := 2 ^ 95 - 1
def accMin : Int := -2 ^ 95

/-- The additions of one cycle to one accumulator; `pick` is the infinity that stands when both signs meet, which the
spec does not state. -/
def Acc.add (x : Acc) (e : Int) (pick : Bool) (ws : List Word) : Acc :=
  let vs := ws.map FV.of32
  let pos := vs.any fun v => v.isInf && !v.neg
  let neg := vs.any fun v => v.isInf && v.neg
  let x := if vs.any FV.isNaN then { x with nan := true } else x
  if pos || neg then
    { x with sat := true, a := BitVec.ofInt 96 (if pos && (pick || !neg) then accMax else accMin) }
  else if x.sat then x
  else
    let total := x.a.toInt + (ws.map (accTerm e)).foldl (· + ·) 0
    if accMax < total then { x with a := BitVec.ofInt 96 accMax, sat := true }
    else if total < accMin then { x with a := BitVec.ofInt 96 accMin, sat := true }
    else { x with a := BitVec.ofInt 96 total }

/-- A window after additions, each an index and its words. -/
def Window.add (w : Window) (pick : Bool) (adds : List (Nat × List Word)) : Window :=
  { w with accs := Vector.ofFn fun i =>
      let ws := adds.filterMap fun x => if x.1 ≤ i.val then x.2[i.val - x.1]? else none
      if ws.isEmpty then w.accs[i] else (w.accs[i]).add w.e pick ws }

/-- What XACC writes of an accumulator. -/
def Acc.word (x : Acc) (e : Int) (stat : Bool) : Word :=
  if stat then BitVec.ofNat 32 ((if x.nan then 2 else 0) + (if x.sat then 1 else 0))
  else if x.nan then 0x7FC00000
  else BitVec.ofNat 32 (fp32.round .rne (decide (x.a.toInt < 0)) x.a.toInt.natAbs e).1

/-- Fault 0x33 at the accumulators of a core's window (array 7) that a read meets with an uncorrectable error, counted
against the core's arrays; an addition that a neighbour sent is recorded on the core itself (DEDUCED, log entry 29). -/
def State.windowFault (s : State) (core w : Nat) (is : List Nat) : State := match is with
  | [] => s
  | i :: _ =>
    let u := some (ErrUnit.coreArrays core)
    let d := markDetail [(7, w, i)]
    let s := s.countErr (.coreArrays core) true
    if s.cur.who.src = 13 then s.raiseFor u core 0x33 8 0xFFFFFFFF none d else s.raiseBlame u 0x33 d

/-- The accumulators of a window, of those an access reads, that hold marked words. -/
def windowHits (marks : List (Nat × Nat × Nat)) (w : Nat) (reads : Nat → Bool) : List Nat :=
  sortBy (fun a b => decide (a < b)) (marks.filterMap fun b => if b.1 = 7 ∧ b.2.1 = w ∧ reads b.2.2 = true then some b.2.2 else none)

/-- A read of a window's accumulators: corrections are counted, and the lowest uncorrectable one is fault 0x33. -/
def State.meetWindow (s : State) (core w : Nat) (reads : Nat → Bool) : State :=
  let k := s.core core
  ((windowHits k.mxSoft w reads).foldl (fun s _ => s.coreSoft core) s).windowFault core w (windowHits k.mxBad w reads)

/-- The marks of a window's accumulators dropped where they are written anew. -/
def State.renewWindow (s : State) (core w : Nat) (f : Nat → Bool) : State := s.modCore core fun k =>
  { k with mxBad := k.mxBad.filter fun b => !(b.1 == 7 && b.2.1 == w && f b.2.2),
           mxSoft := k.mxSoft.filter fun b => !(b.1 == 7 && b.2.1 == w && f b.2.2) }

/-- XACC at S: the accumulators are read, the window cleared when CLR is 1, and the words wait for their elements; an
element with an uncorrectable accumulator is not written (R289, R293). The clear stands when element 0 collides in that
cycle (DESIGN CHOICE, log entry 33). -/
def State.readWindow (s : State) (c : Cmd) : State :=
  let n := winNo c.base
  let w := s.myCtx.window n
  let word (i : Nat) : Word := ((w.accs[i]?).getD { a := 0, sat := false, nan := false }).word w.e c.bit0
  let per := c.z / 4
  let first (e : Nat) : Nat := winIndex c.base + per * e
  let bad := windowHits (s.core s.me).mxBad n fun i => decide (first 0 ≤ i) && decide (i < first c.n)
  let s := s.meetWindow s.me n fun i => decide (first 0 ≤ i) && decide (i < first c.n)
  let s := (List.range c.n).foldl (fun s e =>
    if bad.any fun i => first e ≤ i ∧ i < first (e + 1) then s
    else s.sched (c.start + e + 2) [50, 1, s.rankOf s.me, c.start, e] (.engineElementArrival c e
      (bytesOf ((List.range per).map fun j => word (first e + j))) none)) s
  if c.bit1 then (s.modCtx s.me fun x =>
    { x with windows := x.windows.setIfInBounds n { Window.launch with e := c.s1 } }).renewWindow s.me n fun _ => true
  else s

/-- WINDOW_ADDITION: the additions of one cycle to one window take effect together (R292). -/
def execWindowAddition (s : State) : Outcome := match s.cur.work with
  | .windowAddition core w i words =>
    let more := s.dueNow.filterMap fun x => match x.what with
      | .windowAddition core' w' i' ws => if core' = core ∧ w' = w then some (i', ws) else none
      | _ => none
    let pick := Config.freeBool s.free
    let s := { s with free := s.free + 1 }.dropDue fun x => s.isDue x && match x.what with
      | .windowAddition core' w' _ _ => core' == core && w' == w
      | _ => false
    let adds := (i, words) :: more
    let reached (j : Nat) : Bool := adds.any fun x => decide (x.1 ≤ j) && decide (j < x.1 + x.2.length)
    let bad := windowHits (s.core core).mxBad w reached
    let s := s.meetWindow core w reached
    .next ((s.modCtx core fun x =>
      let old := x.window w
      let new := old.add pick adds
      let kept : Window :=
        if bad.isEmpty then new
        else { new with accs := Vector.ofFn fun j => if bad.contains j.val then old.accs[j] else new.accs[j] }
      { x with windows := x.windows.setIfInBounds w kept }).renewWindow core w fun j => reached j && !bad.contains j)
  | _ => .next s

/-! ### A command starts (R279, R286) -/

/-- The tile slots that a tagged XFER writes, ascending, each with its last arrival cycle. -/
def State.tileSlots (s : State) (c : Cmd) : List (Nat × Nat) :=
  let at_ := (List.range c.n).map fun e => (c.local_ e / 8192, (s.elemCycles c e).2)
  let slots := sortBy (fun a b => decide (a < b)) (dedup (· == ·) (at_.map (·.1)))
  slots.map fun j => (j, (at_.filter fun x => x.1 == j).foldl (fun m x => max m x.2) 0)

/-- The tag writes of a tagged XFER (DEDUCED, log entry 33). -/
def State.tagWrites (s : State) (c : Cmd) : State :=
  let ts := s.tileSlots c
  (List.zip ts (List.range ts.length)).foldl (fun s x =>
    s.sched x.1.2 [90, 4, c.start, x.2] (.registerWrite s.me (.tag x.1.1 (c.tag + BitVec.ofNat 16 x.2)))) s

/-- An element's claim on the engine falls due at I_e; rows for a link are no claims. -/
def State.issueElement (s : State) (c : Cmd) (e : Nat) : State :=
  match c.op with
  | 0x28 => s.sched (c.start + e) [30, 1, c.start, e] (.linkSendElement c e)
  | 0x29 => s.sched (c.start + e) [30, 1, c.start, e] (.linkForwardElement c e)
  | 0x0B => s.sched (c.start + e) [50, 3, s.rankOf s.me, c.start, e] (.tlistEntryRead c e)
  | _ => s.sched (s.elemCycles c e).1 [50, 3, s.rankOf s.me, c.start, e] (.engineElementIssue c e)

/-- A command that passed its checks. -/
def State.startElements (s : State) (c : Cmd) : State :=
  let s := s.setLast c (s.lastOf c)
  let s := match c.op with
    | 0x08 => if c.bit1 then s.tagWrites c else s
    | 0x11 => s.readWindow c
    | 0x19 => s.sched (c.start + 1088) [10, c.issue, 7] (.ancestryReplace c [])
    | _ => s
  (List.range c.n).foldl (fun s e => s.issueElement c e) s

/-- TE_COMMAND_START. -/
def execTeCommandStart (s : State) : Outcome := match s.cur.work with
  | .teCommandStart c => match if c.isLink then s.linkFault c else s.cmdFault c with
    | some (code, e) =>
      .next ((s.raise code [BitVec.ofNat 32 c.op, lo32 c.start, BitVec.ofNat 32 e, lo32 (c.far e), hi32 (c.far e)]).setLast c
        c.start)
    | none => .next (s.startElements c)
  | _ => .next s

/-! ### Elements (R282 to R285) -/

/-- The claim that a pending step makes on its engine in the present cycle. -/
def Timed.claim (x : Timed) : Option (Cmd × Nat) := match x.what with
  | .engineElementIssue c e => some (c, e)
  | .tlistEntryRead c e => some (c, e)
  | _ => none

/-- The other claims on this core's engine in the present cycle. -/
def State.rivals (s : State) : List (Cmd × Nat) :=
  s.dueNow.filterMap fun x => if x.who.core = s.me then x.claim else none

/-- The collision of the elements of one issue cycle (R284): none of them reads or writes anything. The detail gives the
opcode and S of one command, then those of the other, then the element indices (DESIGN CHOICE, log entry 23). -/
def State.collide (s : State) (c : Cmd) (e : Nat) : State :=
  let all := sortBy (fun a b : Cmd × Nat => keyLt [a.1.start, a.1.issue, a.2] [b.1.start, b.1.issue, b.2]) ((c, e) :: s.rivals)
  let s' := s.dropDue fun x => x.who.core == s.me && ((s.isDue x && x.claim.isSome) || match x.what with
    | .engineElementArrival c' e' _ _ => c'.op == 0x11 && all.contains (c', e')
    | _ => false)
  match all with
  | a :: b :: _ => s'.raise 0x10 [4, BitVec.ofNat 32 a.1.op, lo32 a.1.start, BitVec.ofNat 32 b.1.op, lo32 b.1.start,
      BitVec.ofNat 32 a.2, BitVec.ofNat 32 b.2]
  | _ => s'

/-- An access of the engine to its own core's banks: a requester of code 1, identified by the command's S (R285). -/
def State.ownBank (s : State) (c : Cmd) (due : Nat) (act : BankAct) : State :=
  s.bank due { holder := s.me, req := reqWord 1 0 (s.rankOf s.me), cyc := c.start, act := act }
/-- An access of the engine to another core's banks, or to its own through its port (R231). -/
def State.peerBank (s : State) (holder due : Nat) (act : BankAct) : State :=
  s.bank due { holder := holder, req := s.peerReq holder, cyc := s.t, act := act }

/-- A request of the engine to device memory (R282, R283). -/
def State.engineRequest (s : State) (c : Cmd) (e cycle phys key : Nat) (write : Bool) (data : List Byte) (sink : Sink) :
    State :=
  s.request { part := s.partOf s.me, cycle := cycle, write := write, phys := phys, ea := c.far e, size := c.z, kind := 1,
              source := s.rankOf s.me, key := key, who := s.cur.who, data := data, performs := cycle + 100, sink := sink }

/-- The flits of an element to or from another package (R383), whose last access performs at a cycle. -/
def State.engineFlits (s : State) (c : Cmd) (e window port last : Nat) (data : Option (List Byte)) : State :=
  let count := match data with
    | some d => max 1 (d.length / 256)
    | none => 1
  (List.range count).foldl (fun s i => s.placeFlit window
    { s.flit port window 1 c.start with elem := e, idx := i, addr := c.far e, row := data.map fun d => flitRow d i })
    (s.sendAway e last last)

/-- An element that moves data towards the core: the far read, and where its bytes arrive. What arrives from another
package is free until a landing brings it (log entry 3). -/
def State.fetchElement (s : State) (c : Cmd) (e : Nat) (far : FarSide) : State :=
  let done := (s.cycles c e far).2
  let sink := Sink.inbound c e done
  let addr := localPart (c.far e)
  match far with
  | .own => s.ownBank c (c.start + e) (.load addr c.z sink)
  | .peer k r => s.peerBank k (c.start + e + (inCycles r).1) (.load addr c.z sink)
  | .device phys key => s.engineRequest c e (s.slotOf c e far) phys key false [] sink
  | .remote _ port =>
    let free := (List.range c.z).map (Config.freeByte s.free)
    s.toPort port done fun s =>
      ({ s with free := s.free + 1 }.engineFlits c e (s.now + 8) port done none).deliver sink free none
  | .absent => s

/-- The cycle at which an outbound element leaves the core for good. -/
def State.outAt (s : State) (c : Cmd) (e : Nat) (far : FarSide) : Nat := match far with
  | .device _ _ => s.slotOf c e far
  | .remote _ _ => (s.cycles c e far).1 + (if c.op = 0x10 then 4 else 8)
  | _ => (s.cycles c e far).2

/-- ENGINE_ELEMENT_ISSUE. -/
def execEngineElementIssue (s : State) : Outcome := match s.cur.work with
  | .engineElementIssue c e =>
    if ¬ s.rivals.isEmpty then .next (s.collide c e)
    else
      let far := s.elemFar c e
      .next (match c.op with
      | 0x0A | 0x10 => s.ownBank c s.now (.load (c.local_ e) c.z (.outbound c e (s.outAt c e far)))
      | 0x11 => s
      | 0x12 => match far with
        | .peer k _ => s.peerBank k (c.start + e + 4) (.load (localPart (c.far e)) 256 (.outbound c e (c.start + e + 12)))
        | _ => s.ownBank c s.now (.load (localPart (c.far e)) 256 (.outbound c e (c.start + e + 8)))
      | 0x18 => s.ownBank c s.now (.load (localPart (c.far e)) 64 (.config (c.start + 2)))
      | 0x19 => s.ownBank c s.now (.load (localPart (c.far e)) c.z (.parents c e))
      | _ => s.fetchElement c e far)
  | _ => .next s

/-- TLIST_ENTRY_READ: an entry is read from its bank (R290). -/
def execTlistEntryRead (s : State) : Outcome := match s.cur.work with
  | .tlistEntryRead c i =>
    if ¬ s.rivals.isEmpty then .next (s.collide c i)
    else .next (s.ownBank c s.now (.load (localPart (c.far i)) 32 (.entry c i)))
  | _ => .next s

/-- Bytes of the validity bitmap from an offset (R296). -/
def writeBitmap (v : BitVec 65536) (off : Nat) (data : List Byte) : BitVec 65536 :=
  let mask := BitVec.ofNat 65536 (2 ^ (8 * data.length) - 1) <<< (8 * off)
  (v &&& ~~~mask) ||| (BitVec.ofNat 65536 (leNat data) <<< (8 * off))

/-- ENGINE_ELEMENT_ARRIVAL: the bank write, the append or the bitmap write; poison stops XFER and VBMLD (R286, R287,
R289, R293, R296). -/
def execEngineElementArrival (s : State) : Outcome := match s.cur.work with
  | .engineElementArrival c e data bad =>
    .next (if c.op = 0x09 then
      s.append s.me (c.f 45 44) c.start (rowOfBytes data (c.mark e) bad)
    else match bad with
      | some u => s.raiseBlame (some u) 0x30 []
      | none =>
        if c.op = 0x1A then (s.modMx s.me fun m => { m with validity := writeBitmap m.validity (c.loc + c.z * e) data }).renewMx
          s.me fun b => b.1 == 5 && decide (c.loc + c.z * e ≤ 4 * b.2.2) && decide (4 * b.2.2 < c.loc + c.z * (e + 1))
        else s.ownBank c s.now (.store (c.local_ e) data))
  | _ => .next s

/-- ENGINE_FAR_WRITE: an outbound element at its target (R283, R288, R292). -/
def execEngineFarWrite (s : State) : Outcome := match s.cur.work with
  | .engineFarWrite c e data =>
    let far := s.elemFar c e
    let a := c.far e
    let add (core : Nat) : State :=
      s.sched s.now [75, core, winNo a] (.windowAddition core (winNo a) (winIndex c.base + c.z / 4 * e) (wordsOf data))
    .next (match far with
    | .own => add s.me
    | .peer k _ =>
      if c.op = 0x10 then (match s.crossed (dieOf k) with
        | some d => s.raise 0x33 d
        | none => add k)
      else s.peerBank k s.now (.store (localPart a) data)
    | .device phys key => s.engineRequest c e s.now phys key true data (.dreg 0 0)
    | .remote _ port =>
      let last := (s.elemCycles c e).2
      s.toPort port last fun s => s.engineFlits c e s.now port last (some data)
    | .absent => s)
  | _ => .next s

/-! ### Multicast (R242, R294) -/

/-- The cluster-relative ranks of a destination set. -/
def Cmd.dests (c : Cmd) : List Nat := (List.range 8).filter fun f => (c.f 51 44).testBit f

/-- The core that a cluster-relative rank names. -/
def State.clusterCore (s : State) (f : Nat) : Option Nat := s.target true (s.rankOf s.me / 8 * 8 + f)

/-- The conditions of a delivery, each naming the lowest destination that meets it; a full queue's record names it in D3,
after the words of R407 (DEDUCED, log entry 23). -/
def State.deliveryFaults (s : State) (c : Cmd) : List (Nat × List Word) :=
  let q := c.f 53 52
  let solo (f : Nat) : Bool := (s.clusterCore f).any fun k => (s.ctx k).solo.isSome
  let full (f : Nat) : Option (Nat × Nat) := (s.clusterCore f).bind fun k =>
    let n := ((s.ctx k).queue q).length
    if queueCap q ≤ n then some (f, n) else none
  ((c.dests.find? fun f => (s.clusterCore f).isNone).toList.map fun f => (0x21, [BitVec.ofNat 32 f])) ++
  ((c.dests.find? solo).toList.map fun f => (0x19, [6, BitVec.ofNat 32 f])) ++
  ((c.dests.findSome? full).toList.map fun x =>
    (0x14, [BitVec.ofNat 32 q, lo32 c.start, BitVec.ofNat 32 x.2, BitVec.ofNat 32 x.1]))

/-- MULTICAST_DELIVERY: every destination receives the row, or none does. -/
def execMulticastDelivery (s : State) : Outcome := match s.cur.work with
  | .multicastDelivery c _ r => match s.deliveryFaults c with
    | [] => .next (c.dests.foldl (fun s f => match s.clusterCore f with
        | some k => s.append k (c.f 53 52) c.start r
        | none => s) s)
    | fs => .next (fs.foldl (fun s f => s.raise f.1 f.2) s)
  | _ => .next s

/-! ### The mask unit (R190, R295 to R297) -/

/-- CONFIG_WRITE. -/
def execConfigWrite (s : State) : Outcome := match s.cur.work with
  | .configWrite v => .next (s.modMx s.me fun m => { m with cfg := v })
  | _ => .next s

/-- The rows of the ancestry matrix, node after node: each its own bit and its parent's row. -/
def ancestryRows (parent : Nat → Nat) : Nat → List Nat
  | 0 => []
  | a + 1 =>
    let rows := ancestryRows parent a
    rows ++ [2 ^ a + (if parent a < a then rows.getD (parent a) 0 else 0)]

/-- The matrix of a parent-pointer table of 256 halfwords. -/
def ancestryOf (table : List Byte) : BitVec 65536 :=
  let parent (a : Nat) : Nat := (table.getD (2 * a) 0).toNat + 256 * (table.getD (2 * a + 1) 0).toNat
  BitVec.ofNat 65536 ((ancestryRows parent 256).foldr (fun r n => r + 2 ^ 256 * n) 0)

/-- ANCESTRY_REPLACE: the whole matrix is replaced once every element has been read. -/
def execAncestryReplace (s : State) : Outcome := match s.cur.work with
  | .ancestryReplace c table =>
    let parts := (sortBy (fun a b : Nat × List Byte => decide (a.1 < b.1)) table).map (·.2)
    .next (if parts.length = c.n then
      (s.modMx s.me fun m => { m with ancestry := ancestryOf parts.flatten }).renewMx s.me fun b => b.1 == 6 else s)
  | _ => .next s

end Sys2Proof.Machine
end

