-- ==== Sys2Proof/Machine/NearMem.lean ====
section
/-! DEFINITION. The near-memory units: the command record, the checks at S, the blocks, their operations and errors
(16 R302 to R311). -/
namespace Sys2Proof.Machine

/-! ### NMC and NMFENCE (R305, R307) -/

/-- NMC: the command becomes outstanding and starts at S. -/
def execNmc (f : TEF) (s : State) : Outcome := .next (s.issue (.nmc f) fun s =>
  let x := s.myCtx
  let c : NmCmd := { rec_ := BitVec.ofNat 256 ((x.rh f.h).toNat + (x.rh (f.h + 1)).toNat * 2 ^ 128),
                     start := s.t + f.lead, issue := s.t }
  let s := s.modCore s.me fun k =>
    { k with nm := (k.nm.filter fun r => decide (s.t ≤ r.last)) ++ [{ start := c.start, last := c.last, issue := s.t }] }
  { s with due := s.due ++ [{ clock := some (s.partOf s.me), due := c.start, key := [40, s.rankOf s.me, c.start, c.issue],
                              who := { s.cur.who with src := 10 }, what := .nmcStart c }] })

/-- NMFENCE: its fault at issue, or nothing. -/
def execNmfence (f : TEF) (s : State) : Outcome := .next (s.issue (.nmfence f) fun s => s)

/-! ### The checks at S (R303, R306) -/

def State.myRegions (s : State) : List (BitVec 128) := (s.part (s.partOf s.me)).elim [] (·.regions)

/-- The translation of a block of a range. -/
def State.nmBlock (s : State) (c : NmCmd) (r : NmRange) (k : Nat) : Except (Nat × Nat) (Nat × Nat) := c.block s.myRegions r k

/-- The channel group of a block, stack * 4 + group. -/
def State.nmGroup (s : State) (c : NmCmd) (r : NmRange) (k : Nat) : Option Nat := match s.nmBlock c r k with
  | .ok (phys, _) => some (groupOf phys)
  | .error _ => none
/-- The group of a command: that of its first source block. -/
def State.nmLane (s : State) (c : NmCmd) : Nat := (s.nmGroup c .a 0).getD 0

/-- Check 1. -/
def NmCmd.recordOk (c : NmCmd) : Bool :=
  decide (1 ≤ c.op) && decide (c.op ≤ 5) && c.f 191 160 == 0 && c.f 39 32 == 0 && c.f 13 8 == 0 && c.count != 0

/-- The fault of checks 3 and 4 at one block. Check 4 takes the group of A's block 0 as the command's, and fails at a block of
which some range lies elsewhere (DESIGN CHOICE, log entry 35). -/
def State.nmBlockFault (s : State) (c : NmCmd) (check k : Nat) : Option Nat :=
  if check = 3 then (nmUses c.op).findSome? fun r => match s.nmBlock c r k with
    | .error (code, _) => some code
    | .ok _ => none
  else if (nmUses c.op).all fun r => s.nmGroup c r k == some (s.nmLane c) then none else some 0x23

/-- The memory slots whose cycles lie from `a` to `b`. -/
def slotsWithin (a b : Nat) : List Nat :=
  (List.range (b + 1 - a)).filterMap fun i => slotAt (a + i)

/-- Check 6, first part: the first slot of the window that is not NMC, and the lowest pseudo-channel of the group where
it stands. -/
def State.nmGap (s : State) (q : Part) (c : NmCmd) (g : Nat) : Option (Nat × Nat) :=
  let chans := (List.range 16).map fun i => g % 4 * 16 + i
  (slotsWithin c.start c.last).findSome? fun k => (chans.find? fun ch =>
    match q.chanNo (g / 4) ch with
    | some n => wordCode ((s.timelineOf q n).colAt k) != 0xA
    | none => true).map fun ch => (k, ch)

/-- Check 6, second part: an earlier command of the lane whose window overlaps, as its start and end; of two that start in
one cycle the lower rank's, then the one issued first, is the earlier (DESIGN CHOICE, log entry 35). -/
def State.nmOverlap (s : State) (p : Nat) (c : NmCmd) (g : Nat) : Option (Nat × Nat) :=
  (((s.hbm[g / 4]?.getD Stack.reset).lanes.find? fun l =>
    l.1 == p && l.2.1 == g % 4 && decide (l.2.2.1 ≤ c.last) && decide (c.start ≤ l.2.2.2))).map (·.2.2)

/-- The slot within a timeline that a slot of TTC is, on a pseudo-channel of a group. -/
def State.nmSlotWord (s : State) (q : Part) (g ch k : Nat) : Word :=
  BitVec.ofNat 32 (k % (s.timelineOf q ((q.chanNo (g / 4) ch).getD 0)).slots)

/-- Check 5: the channel controllers' table admits the partition to every pseudo-channel of a group, to read and to write
(R240). -/
def State.nmAdmitted (s : State) (part g : Nat) : Bool :=
  let t := (s.hbm[g / 4]?.getD Stack.reset).access
  (List.range 16).all fun i => admitted t part false (g % 4 * 16 + i) && admitted t part true (g % 4 * 16 + i)

/-- The fault of a command at S: its code and detail (DEDUCED, log entry 35). A check that concerns no one block names block
0, check 2 the last block, and checks 3 and 4 the lowest block that fails, of check 3 the ranges tried in the order A, B,
DST. A window that holds a slot that is not NMC and overlaps an earlier command is a fault of the slot; two windows in whose
common cycles no slot falls name the next slot after them (DESIGN CHOICE, log entry 35). -/
def State.nmFault (s : State) (q : Part) (c : NmCmd) : Option (Nat × List Word) :=
  let fail (code check k : Nat) : Nat × List Word := (code, [lo32 c.start, BitVec.ofNat 32 check, BitVec.ofNat 32 k])
  let timing (ch k why other : Nat) : Nat × List Word :=
    (0x18, [lo32 c.start, 6, 0xFFFFFFFF, BitVec.ofNat 32 ch, s.nmSlotWord q (s.nmLane c) ch k, BitVec.ofNat 32 why, lo32 other])
  if ¬ c.recordOk then some (fail 0x23 1 0)
  else if (nmUses c.op).any fun r => decide (2 ^ 40 < c.first r + c.count) then some (fail 0x23 2 (c.count - 1))
  else match [3, 4].findSome? fun check => (List.range c.count).findSome? fun k =>
      (s.nmBlockFault c check k).map fun code => fail code check k with
  | some f => some f
  | none =>
    let g := s.nmLane c
    if ¬ s.nmAdmitted q.num g then some (fail 0x21 5 0)
    else match s.nmGap q c g with
    | some (k, ch) => some (timing ch k 1 0)
    | none => (s.nmOverlap q.num c g).map fun w =>
      timing (g % 4 * 16) (slotFrom (max c.start w.1)) 2 w.1

def State.modStack (s : State) (n : Nat) (f : Stack → Stack) : State :=
  { s with hbm := s.hbm.setIfInBounds n (f (s.hbm[n]?.getD Stack.reset)) }

/-- NMC_START: the fault of the first check that fails, or the lane is taken and the first block follows. -/
def execNmcStart (s : State) : Outcome := match s.cur.work with
  | .nmcStart c => match s.part (s.partOf s.me) with
    | none => .next s
    | some q => match s.nmFault q c with
      | some (code, d) => .next ((s.raise code d).modCore s.me fun k =>
          { k with nm := k.nm.map fun r => if r.issue = c.issue then { r with last := c.start } else r })
      | none =>
        let g := s.nmLane c
        .next ((s.modStack (g / 4) fun st =>
          { st with lanes := (st.lanes.filter fun l => l.1 != q.num || decide (c.start ≤ l.2.2.2)) ++
                      [(q.num, g % 4, c.start, c.last)] }).sched (c.start + 24) [62, s.rankOf s.me, 14]
            (.nmBlockRead c 0))
  | _ => .next s

/-! ### Blocks (R308, R309, R311) -/

/-- One element of the result; nothing keeps flags. -/
def NmCmd.element (c : NmCmd) (a b : Word) : Word :=
  let r := c.rnd
  match c.op with
  | 1 =>
    let w := FV.of32 a; let x := FV.of32 c.alpha; let y := FV.of32 b; let z := FV.of32 c.beta
    (arith r [w, x, y, z] [(w.mul x).map fun _ => FV.of32 (fmul r a c.alpha).1, y.mul z]).1
  | 2 => (ffma r false false a c.alpha b).1
  | 3 => (fmul r a c.alpha).1
  | 4 => (fadd r a b).1
  | _ => a

/-- A source block: its bytes, and the unit blamed when it is uncorrectable or poisoned. -/
def State.nmSource (s : State) (q : Part) (c : NmCmd) (r : NmRange) (k : Nat) : State × List Byte × Option ErrUnit :=
  match s.nmBlock c r k with
  | .ok (phys, key) => s.readDevice (s.keyOf q.tenant key) phys 64
  | .error _ => (s, List.replicate 64 0, none)

/-- What the operand buffer does to block k of a command: 2 and the unit when it fails; a correction is counted. An error
is met once, by the block that the buffer holds (R374). -/
def State.nmBuffer (s : State) (c : NmCmd) (g k : Nat) : State × Option ErrUnit :=
  let st := s.hbm[g / 4]?.getD Stack.reset
  let u := ErrUnit.nmUnit (g / 4)
  let m := (g % 4, c.start, k)
  let met := s.modStack (g / 4) fun x => { x with bufferErr := x.bufferErr.filter (· != m), bufferSoft := x.bufferSoft.filter (· != m) }
  if st.bufferErr.contains m then (met.countErr u true, some u)
  else if st.bufferSoft.contains m then (met.countErr u false, none)
  else (s, none)

/-- NM_BLOCK_READ: A and B in one cycle; the result is written 16 cycles later, and the next block read 3 later. Where
several of A, B and the operand buffer fail for one block, one fault names the first of them (DESIGN CHOICE, log entry 35). -/
def execNmBlockRead (s : State) : Outcome := match s.cur.work with
  | .nmBlockRead c k => match s.part (s.partOf s.me) with
    | none => .next s
    | some q =>
      let (s, a, ba) := s.nmSource q c .a k
      let (s, b, bb) := if (nmUses c.op).contains .b then s.nmSource q c .b k else (s, List.replicate 64 0, none)
      let (s, bo) := s.nmBuffer c (s.nmLane c) k
      let bad : Option (Nat × ErrUnit) :=
        (ba.map fun u => (0, u)) <|> (bb.map fun u => (1, u)) <|> (bo.map fun u => (2, u))
      let data := bytesOf (List.zipWith c.element (wordsOf a) (wordsOf b))
      let s := s.sched (c.start + 40 + 3 * k) [90, 2] (.nmBlockWrite c k data bad)
      .next (if k + 1 < c.count then s.sched (c.start + 27 + 3 * k) [62, s.rankOf s.me, 14] (.nmBlockRead c (k + 1)) else s)
  | _ => .next s

/-- NM_BLOCK_WRITE: the destination block, poisoned when a source or the buffer failed. -/
def execNmBlockWrite (s : State) : Outcome := match s.cur.work with
  | .nmBlockWrite c k data bad => match s.part (s.partOf s.me), s.nmBlock c .dst k with
    | some q, .ok (phys, key) =>
      let s := s.writeUnit (s.keyOf q.tenant key) (phys / 64) data
      .next (match bad with
        | none => s
        | some (which, u) =>
          { s with poison := s.poison ++ [(phys / 64, u)] }.sched (c.start + 52 + 3 * k) [50, 4, s.rankOf s.me]
            (.nmDataFault c k which u))
    | _, _ => .next s
  | _ => .next s

/-- NM_DATA_FAULT: fault 0x31 on the issuing core; its last word says where the error lay: 0 in A, 1 in B, 2 in the operand
buffer (DESIGN CHOICE, log entry 35). -/
def execNmDataFault (s : State) : Outcome := match s.cur.work with
  | .nmDataFault c k which u =>
    let g := s.nmLane c
    .next (s.raiseBlame (some u) 0x31
      [BitVec.ofNat 32 (g / 4), BitVec.ofNat 32 (g % 4), lo32 c.start, BitVec.ofNat 32 k, BitVec.ofNat 32 which])
  | _ => .next s

end Sys2Proof.Machine
end

