-- ==== Sys2Proof/Machine/OpenSlots.lean ====
section
/-! DEFINITION. Accesses outside the timetable, of the host, the office and the ports: the parking area, the order of the
windows, the open slot that serves a unit, the images of submissions and the self-test of a bank (12 R243 to R245, R253,
13 R258, R265, R267, R270, 19 R339, 23 R397, R400). -/
namespace Sys2Proof.Machine

/-! ### The parking area (R258, R344, R351) -/

/-- Bytes of the parking area: the office's rows of 32 channel groups, group after group (DEDUCED, log entry 38). -/
def parkSize : Nat := 2 ^ 31
/-- The physical address of a byte of the parking area, and the byte at a physical address of it. -/
def parkAddr (i : Nat) : Nat := i % parkSize / 2 ^ 26 * 2 ^ 34 + i % 2 ^ 26
def parkIndex (phys : Nat) : Nat := phys / 2 ^ 34 % 32 * 2 ^ 26 + phys % 2 ^ 26

/-- The physical address of byte `i` of a dump area. -/
def dumpAddr (base i : Nat) : Nat := parkAddr (parkIndex base + i)

/-- The starts of the gaps between spans of an area in which `len` bytes fit, and how many steps they may move there. -/
def gapsIn (spans : List (Nat × Nat)) (size step len : Nat) : List (Nat × Nat) :=
  let spans := spans.filter fun x => x.2 != 0
  (0 :: spans.map fun x => (x.1 + x.2 + step - 1) / step * step).filterMap fun a =>
    let stop := (spans.filter fun x => decide (a ≤ x.1)).foldl (fun m x => min m x.1) size
    if a + len ≤ stop ∧ spans.all (fun x => decide (a + len ≤ x.1 ∨ x.1 + x.2 ≤ a ∨ len = 0)) then
      some (a, (stop - a - len) / step)
    else none

/-- What of the parking area is taken: dump areas, parked stores, and banks under test. -/
def State.parkSpans (s : State) : List (Nat × Nat) :=
  (s.tenants.map fun t => (parkIndex t.dump, t.dumpLen)) ++ (s.parts.flatMap (·.parkAt)) ++
    s.testAt.map fun t => (t.2, 2 ^ 26)

/-- A free place of `len` bytes in the parking area, the office choosing among those there are. -/
def State.parkPlace (s : State) (len : Nat) : Option Nat × State :=
  let (k, s) := s.drawNat
  let gs := gapsIn s.parkSpans parkSize 64 len
  ((gs[k % gs.length]?).map fun g => g.1 + 64 * (k / gs.length % (g.2 + 1)), s)

/-- Bytes of the office are presented, unit by unit, to be written at the places that `phys` gives (R253). -/
def State.presentBytes (s : State) (use : OpenUse) (tenant key : Nat) (phys : Nat → Nat) (bs : List Byte) : State :=
  (List.range ((bs.length + 63) / 64)).foldl (fun s i => s.present
    { fn := 64, seq := 0, use := use, write := true, phys := phys (64 * i), first := 0,
      data := (bs.drop (64 * i) ++ List.replicate 64 0).take 64, key := key, tenant := tenant, slot := none }) s

/-- Units of the office are presented to be read, one after another, at the places that `phys` gives (R253). -/
def State.presentReads (s : State) (use : OpenUse) (tenant key : Nat) (phys : Nat → Nat) (len : Nat) : State :=
  (List.range ((len + 63) / 64)).foldl (fun s i => s.present
    { fn := 64, seq := 0, use := use, write := false, phys := phys (64 * i), first := 0, data := List.replicate 64 0, key := key,
      tenant := tenant, slot := none }) s

/-- A span of the parking area is free again once its last unit has been read back (R344). -/
def Part.readBack (q : Part) (i : Nat) : Part :=
  { q with parkAt := q.parkAt.filter fun x => !(decide (x.1 ≤ i) && decide (i < x.1 + x.2) && decide (x.1 + x.2 ≤ i + 64)) }

/-! ### The host's map (R400) -/

/-- Bytes of BAR2 (R394). -/
def barSize : Nat := 2 ^ 36

/-- The physical address and the host-map entry of a BAR2 offset. -/
def Func.at_ (f : Func) (off : Nat) : Option (Nat × MapEntry) :=
  if barSize ≤ off then none
  else (f.map.find? fun e => decide (e.2.off ≤ off ∧ off < e.2.off + e.2.len)).map fun e =>
    (if e.1 = 15 then dumpAddr e.2.phys (off - e.2.off) else e.2.phys + (off - e.2.off), e.2)

/-- How many of `n` bytes from an offset lie in one entry and one unit, with their place. -/
def Func.piece (f : Func) (off n : Nat) : Option (Nat × Nat × MapEntry) :=
  (f.at_ off).map fun x => (min n (min (x.2.off + x.2.len - off) (64 - x.1 % 64)), x.1, x.2)

/-! ### Images of submissions (R397) -/

/-- The check of a submission follows the end of its reading. -/
def State.imageRead (s : State) (l : Launch) : State :=
  let (k, s) := s.drawNat
  s.schedG (s.gtc + 1 + k) [97, l.sub] (.submissionCheck l.sub)

/-- A piece of an image has been read, or cannot be. -/
def State.gotPiece (s : State) (sub : Nat) (bs : Option (List Byte)) : State :=
  s.modLaunch sub fun l => { l with got := l.got ++ [bs] }

/-- The registrar reads on from byte `i` of a submission's image, one piece after another (DEDUCED, log entry 36). -/
def State.askImage (s : State) (l : Launch) (i : Nat) : State :=
  if l.len ≤ i then s.imageRead l
  else match (s.fn l.fn).piece (l.image + i) (l.len - i) with
    | none => (s.gotPiece l.sub none).imageRead l
    | some (n, phys, e) =>
      if e.rd ∧ 0 < n then s.present
        { fn := 64, seq := 0, use := .image l.sub i, write := false, phys := phys / 64 * 64, first := phys % 64,
          data := List.replicate n 0, key := e.key, tenant := l.tenant, slot := none }
      else (s.gotPiece l.sub none).imageRead l

/-- A piece of an image has been read in its slot. -/
def State.imagePiece (s : State) (sub i : Nat) (data : List Byte) (bad : Bool) : State := match s.launch sub with
  | none => s
  | some l =>
    if bad then (s.gotPiece sub none).imageRead l else (s.gotPiece sub (some data)).askImage l (i + data.length)

/-! ### Self-test (R270) -/

/-- Units of a bank, and the physical address of one of them (R257). -/
def bankUnits : Nat := 2 ^ 20
def bankAddr (stack chan bank i : Nat) : Nat :=
  stack * 2 ^ 36 + chan / 16 * 2 ^ 34 + i / 16 * 2 ^ 18 + bank * 2 ^ 14 + i % 16 * 2 ^ 10 + chan % 16 * 2 ^ 6

/-- Who marks the end of a march among the pending steps. -/
def testDone : Meta := { Meta.none with issue := 1 }

/-- The group of a bank, and where the bank is parked while it is tested. -/
def testGroup (stack chan : Nat) : Nat := stack * 4 + chan / 16
def State.testFirst (s : State) (stack chan : Nat) : Nat :=
  ((s.testAt.find? fun t => t.1 == testGroup stack chan).map (·.2)).getD 0

/-- Where unit `i` of a bank under test is read from, or written to: the bank, or its place in the parking area. -/
def State.testAddr (s : State) (stack chan bank i : Nat) (inBank : Bool) : Nat :=
  if inBank then bankAddr stack chan bank i else parkAddr (s.testFirst stack chan + 64 * i)

/-- An access of a self-test to unit `i`: a whole unit, read, or written with the bytes that were read (R238, R267). -/
def State.presentTest (s : State) (stack chan bank i : Nat) (restore pass write : Bool) (data : List Byte) : State :=
  s.present { fn := 64, seq := 0, use := .test stack chan bank i restore pass, write := write,
              phys := s.testAddr stack chan bank i (restore == write), first := 0, data := data, key := 0, tenant := 0,
              slot := none }

/-- The test goes on with unit `i`: it is read from the bank to be parked, or from its place to be restored; after the last
one comes the march, or the end of the test, at which the group is released and a failed march marks the bank lasting. What
the host or the office writes to the bank meanwhile is served, and a unit of it that was parked before is overwritten when it
is restored (DEDUCED, log entry 45). -/
def State.testUnit (s : State) (stack chan bank i : Nat) (restore pass : Bool) : State :=
  if i < bankUnits then s.presentTest stack chan bank i restore pass false (List.replicate 64 0)
  else if restore then
    let g := testGroup stack chan
    let s := s.journal .prefect .withheld
    let s := { s with testing := s.testing.filter (· != g), testAt := s.testAt.filter fun t => t.1 != g }
    if pass then s else s.schedG s.gtc [95] (.errorLasting (.dramBank stack chan bank))
  else
    let (k, s) := s.drawNat
    { s with due := s.due ++ [{ clock := none, due := s.gtc + 1 + k, key := [98], who := testDone,
                                what := .selfTest stack chan bank pass }] }

/-- SELF_TEST: of a bank of a group that no launch owns, which is withheld until the test ends: its units are parked in the
office's rows of the other groups of its stack, the march runs, and they are restored (DEDUCED, log entry 45). -/
def execSelfTest (s : State) : Outcome := match s.cur.work with
  | .selfTest st ch bank pass =>
    let g := testGroup st ch
    if s.cur.who = testDone then .next (s.testUnit st ch bank 0 true pass)
    else if s.testing.contains g ∨ s.parts.any (fun q => q.groups.contains g) then .next s
    else if s.holds 0 then .next (s.later 0)
    else
      let (k, s) := s.drawNat
      let mine := s.parkSpans ++ [(0, st * 2 ^ 28), ((st + 1) * 2 ^ 28, parkSize - (st + 1) * 2 ^ 28), (g * 2 ^ 26, 2 ^ 26)]
      let gs := gapsIn mine parkSize 64 (2 ^ 26)
      match gs[k % gs.length]? with
      | none => .next s
      | some x =>
        let s := s.journal .prefect .withheld
        if s.holds 0 then .next (s.later 0)
        else .next ({ s with testing := s.testing ++ [g], testAt := s.testAt ++ [(g, x.1)] }.testUnit st ch bank 0 false pass)
  | _ => .next s

/-! ### Serving a unit (R253, R265, R267) -/

/-- The partition that owns a physical address. -/
def State.ownerOf (s : State) (phys : Nat) : Option Part := s.parts.find? fun q => q.groups.contains (groupOf phys)

/-- The accesses still to be served. -/
def Work.openUnit : Work → Option OpenAccess
  | .openSlotService a => some a
  | _ => none
def State.openUnits (s : State) : List OpenAccess := s.due.filterMap fun x => x.what.openUnit

/-- Whether an access of a use is still on its way, and dropping those that are. -/
def State.usePending (s : State) (u : OpenUse) : Bool := s.openUnits.any fun a => a.use == u
def State.dropUse (s : State) (u : OpenUse) : State := s.dropDue fun x => x.what.openUnit.any fun a => a.use == u

/-- The key of a unit: a slot of its tenant's, or the office's own for a bank under test (R238) (DEDUCED, log entry 45). -/
def State.openKey (s : State) (a : OpenAccess) : BitVec 512 := match a.use with
  | .test .. => Config.officeKey
  | _ => s.keyOf a.tenant a.key

/-- What follows the write of a unit: the completion word of a failed launch comes after the last unit of its card
(R351), and a self-test goes on. -/
def State.written (s : State) (a : OpenAccess) : State := match a.use with
  | .card p => if s.usePending a.use then s else s.schedG (s.gtc + 1) [96, p] (.launchFailure p)
  | .test st ch bank i restore pass => s.testUnit st ch bank (i + 1) restore pass
  | _ => s

/-- A write of a unit or of a part of one; a part of a poisoned unit is not written, and the host's is logged. -/
def State.serveWrite (s : State) (a : OpenAccess) : State :=
  let unit := a.phys / 64
  let key := s.openKey a
  if a.data.length = 64 then s.writeUnit key unit a.data
  else
    let (s, bad) := s.unitErrors unit
    if bad.isSome then (if a.use = .host then s.modFn a.fn fun f => { f with aer := f.aer + 1 } else s)
    else
      let old := s.plainUnit key unit
      s.writeUnit key unit (old.take a.first ++ a.data ++ old.drop (a.first + a.data.length))

/-- A read of a unit or of a part of one. -/
def State.serveRead (s : State) (a : OpenAccess) : State :=
  let unit := a.phys / 64
  let (s, bad) := s.unitErrors unit
  let data := ((s.plainUnit (s.openKey a) unit).drop a.first).take a.data.length
  match a.use with
  | .image sub i => s.imagePiece sub i data bad.isSome
  | .test st ch bank i restore pass => s.presentTest st ch bank i restore pass true data
  | .peer p => s.reply (.peer p (if bad.isSome then none else some data))
  | .park p => (s.journal .registrar .parking).modPart p (·.readBack (parkIndex a.phys))
  | _ => s.reply (if bad.isSome then .poisoned a.fn else .data a.fn data)

/-- An access is served. -/
def State.serveOpen (s : State) (a : OpenAccess) : State := if a.write then (s.serveWrite a).written a else s.serveRead a

/-! ### The order of the windows (R254, R265) -/

/-- The piece of work within a window whose accesses follow one another. -/
def OpenUse.stream : OpenUse → Nat × Nat
  | .host => (0, 0)
  | .image sub _ => (1, sub)
  | .card p => (2, p)
  | .test st ch bank _ _ _ => (3, st * 1024 + ch * 16 + bank)
  | .peer p => (4, p)
  | .place p => (5, p)
  | .park p => (6, p)

/-- Whether an access comes after another: in one window, or among the host's writes, which keep one order whatever functions
they come through (R254). -/
def OpenAccess.follows (a b : OpenAccess) : Bool :=
  decide (b.seq < a.seq) && ((b.fn == a.fn && b.use.stream == a.use.stream) || (a.use == .host && b.use == .host && a.write && b.write))

/-- Whether an earlier access that it follows is still to be served: a window presents one access at a time (DESIGN CHOICE,
log entry 30). -/
def State.behind (s : State) (a : OpenAccess) : Bool := s.openUnits.any a.follows

/-- Whether the office makes an access, and not the host or a neighbour. -/
def OpenUse.office : OpenUse → Bool
  | .host => false
  | .peer _ => false
  | _ => true

/-- Whether the owner of a unit's place holds no slot of its channel for a timeline: it has not started, or it is in recess and
the office reaches its own rows there, which no recess holds (R339, R400) (DEDUCED, log entry 30). -/
def Part.yields (q : Part) (a : OpenAccess) : Bool :=
  q.status == .loaded || (!q.runs && a.use.office && decide (rowOf a.phys < Config.rowBase))

/-- Whether a unit is held until the owner of its place resumes (R339, R400). -/
def State.heldOff (s : State) (a : OpenAccess) : Bool := (s.ownerOf a.phys).any fun q => !q.runs && !q.yields a

/-- Whether an access that another window presented earlier on the same pseudo-channel, and that nothing holds, has no slot
yet. -/
def State.outranked (s : State) (a : OpenAccess) : Bool := s.openUnits.any fun b =>
  decide (b.seq < a.seq) && b.slot.isNone && stackOf b.phys == stackOf a.phys && chanOf b.phys == chanOf a.phys &&
    !s.behind b && !s.heldOff b

/-- The units of accesses committed to slots of a pseudo-channel, those already served among them. -/
def State.committed (s : State) (q : Part) (n : Nat) : List Placed := s.servedUnits q n false ++ s.openUnits.filterMap fun a => match a.slot with
  | some k => if q.chanNo (stackOf a.phys) (chanOf a.phys) = some n then
      some { slot := k, bank := bankOf a.phys, write := a.write } else none
  | none => none

/-- The slot to which a unit is committed at cycle `c`: after those of the units presented before it, its activation
after `c`, and its busy span at an end before any STNT not yet placed could take a slot (R265) (DESIGN CHOICE, log
entry 30). -/
def State.commitSlot (s : State) (q : Part) (n c : Nat) (a : OpenAccess) : Option Nat :=
  let tm := s.timing (q.chanAt n).1
  let open_ := s.committed q n
  let k0 := open_.foldl (fun m p => max m (p.slot + 1)) (slotFrom (c + 1) + tm.tRCD)
  ((List.range 300).map (k0 + ·)).find? fun k =>
    decide (slotCycle (tm.unitEnd k a.write) < c + 300) &&
      s.available q n k (bankOf a.phys) a.write (s.placedUnits q n ++ open_)

/-- The units served, or committed to slots, of a channel that no timeline holds, in slots of GTC. -/
def State.neighbours (s : State) (a : OpenAccess) : List Placed :=
  let on (stack chan : Nat) : Bool := stack == stackOf a.phys && chan == chanOf a.phys
  (s.served.filterMap fun u => if on u.stack u.chan then some { slot := slotFrom u.gtc, bank := u.bank, write := u.write } else none) ++
    s.openUnits.filterMap fun b => if on (stackOf b.phys) (chanOf b.phys) then
      b.slot.map fun k => { slot := k, bank := bankOf b.phys, write := b.write } else none

/-- The slot of GTC to which a unit is committed on a channel that no timeline holds: the next one of the period in which its
bank and the channel are ready beside the units served and committed there (R253, R265, R270, R411) (DESIGN CHOICE, log entry
30). -/
def State.anySlot (s : State) (a : OpenAccess) : Option Nat :=
  let stop := s.gtc / Config.period * Config.period + Config.period
  let tm := s.timing (stackOf a.phys)
  let placed := s.neighbours a
  let others := placed.flatMap fun p => tm.unitCmds p.slot p.bank p.write
  ((List.range 400).map (slotFrom (s.gtc + 1) + tm.tRCD + ·)).find? fun k =>
    let mine := tm.unitCmds k (bankOf a.phys) a.write
    decide (slotCycle k < stop) && !(placed.any fun p => p.slot == k) && mine.all (fun c => others.all (tm.pairOk c)) &&
      tm.fawOk (mine ++ others)

/-- The key of a committed access in its slot: a read comes before the writes of its cycle (R244), and a write after the
timed writes and the STNT units of its cycle, so that of several on one byte the latest in that order stays (DESIGN
CHOICE, log entry 30). -/
def OpenAccess.slotKey (a : OpenAccess) : List Nat := if a.write then [90, 3] else [65]

/-- An access waits a cycle. -/
def State.wait (s : State) (a : OpenAccess) : State := s.schedG (s.gtc + 1) [90, 3, a.seq] (.openSlotService a)

/-- A unit whose turn has come is committed: to an open slot of the timeline that its channel runs, or to any slot of a channel
that no timeline holds; or it waits. -/
def State.commit (s : State) (a : OpenAccess) : State :=
  match (s.ownerOf a.phys).filter fun q => !q.yields a with
  | none => match s.anySlot a with
    | some k => s.schedG (slotCycle k) a.slotKey (.openSlotService { a with slot := some k })
    | none => s.wait a
  | some q => match s.commitSlot q ((q.chanNo (stackOf a.phys) (chanOf a.phys)).getD 0) (q.ttc s.gtc) a with
    | some k => s.schedOn q.num (slotCycle k) a.slotKey (.openSlotService { a with slot := some k })
    | none => s.wait a

/-- OPEN_SLOT_SERVICE: a waiting unit is committed to a slot, or waits on; a committed one is served in its slot. While
the owner of its place is in recess a unit is held (R339) (DESIGN CHOICE, log entry 30). -/
def execOpenSlotService (s : State) : Outcome := match s.cur.work with
  | .openSlotService a => .next (if a.slot.isSome then (s.noteServed a.phys a.write false).serveOpen a
      else if s.behind a || s.heldOff a || s.outranked a then s.wait a else s.commit a)
  | _ => .next s

end Sys2Proof.Machine
end

