-- ==== Sys2Proof/Machine/Link.lean ====
section
/-! DEFINITION. The torus: link commands, the placing of flits in their frames, what lands at a port, overruns and the
recess of a link group (22 R378 to R392). -/
namespace Sys2Proof.Machine

/-! ### Link commands (R385 to R387) -/

def execLsend (f : TEF) (s : State) : Outcome := .next (s.issue (.lsend f) (·.command 0x28 f))
def execLfwd (f : TEF) (s : State) : Outcome := .next (s.issue (.lfwd f) (·.command 0x29 f))

/-- The head of a queue leaves for a port, or stays when it is only read; an empty queue is the queue fault of R165. -/
def State.sendHead (s : State) (c : Cmd) (e q : Nat) (peek : Bool) (mark : Row → Option Nat) : State :=
  match s.myCtx.queue q with
  | [] => s.raise 0x14 [BitVec.ofNat 32 q, lo32 c.start, 0]
  | r :: _ => (s.take s.me q peek).sendRow c e { r with mark := mark r }

/-- LINK_SEND_ELEMENT: a row from the scratchpad, or the head of a queue. -/
def execLinkSendElement (s : State) : Outcome := match s.cur.work with
  | .linkSendElement c e =>
    .next (if c.fromSpad then s.ownBank c s.now (.load (localPart (c.far e)) 256 (.send c e))
      else s.sendHead c e (c.f 59 58) false fun r => if c.bit1 then c.mark e else r.mark)
  | _ => .next s

/-- LINK_FORWARD_ELEMENT: the head of a link queue, with its mark unchanged. -/
def execLinkForwardElement (s : State) : Outcome := match s.cur.work with
  | .linkForwardElement c e => .next (s.sendHead c e (4 + c.f 60 58) (c.f 48 48 == 1) Row.mark)
  | _ => .next s

/-! ### Frames (R379, R384) -/

/-- Flit slots of a port, in each direction, in a period (R379). -/
def flitSlots : Nat := 6144
/-- The flit slots that depart at a cycle of GTC, as the period's bell and the slot. -/
def slotsAt (g : Nat) : List (Nat × Nat) :=
  let r := g % Config.period
  ((List.range 3).map fun i => 32 * r / 21 + i).filterMap fun k =>
    if 21 * k / 32 = r ∧ k < flitSlots then some (g - r, k) else none

def State.port (s : State) (p : Nat) : Port := s.ports[p]?.getD Port.reset
def State.modPort (s : State) (p : Nat) (f : Port → Port) : State :=
  { s with ports := s.ports.setIfInBounds p (f (s.port p)) }

/-- Whether a run gives its slots to a link group. -/
def SlotRun.of (r : SlotRun) (group : Option Nat) : Bool := !r.open_ && some r.group == group

/-- Whether a port's table gives a slot to a group. -/
def Port.owns (p : Port) (group : Option Nat) (slot : Nat) : Bool :=
  p.table.any fun r => r.of group && decide (r.first ≤ slot) && decide (slot < r.first + r.count)

/-- The first slot of a window of four cycles that belongs to a group and is free: its GTC, bell and slot. -/
def Port.freeSlot (p : Port) (group : Option Nat) (g : Nat) : Option (Nat × Nat × Nat) :=
  ((List.range 4).flatMap fun i => (slotsAt (g + i)).map fun x => (g + i, x.1, x.2)).find? fun x =>
    p.owns group x.2.2 && !p.taken.contains (x.2.1, x.2.2)

/-- The flits of one access or element, or of one answer. -/
def Flit.mates (a b : Flit) : Bool :=
  a.port == b.port && a.transit == b.transit && a.group == b.group && a.from_ == b.from_ && a.reply == b.reply &&
    a.rank == b.rank && a.source == b.source && a.start == b.start && a.elem == b.elem

/-- Whether a flit's fault is recorded on a core of this package: one in transit, or an answer to another package, is
not. -/
def Flit.ours (f : Flit) : Bool := !f.transit && !f.reply

/-- The fault of a flit on the core that it starts from; of another package's flit, the group's recess alone (R391). -/
def State.flitFault (s : State) (f : Flit) (code : Nat) (detail : List Word) : State :=
  if f.ours then s.raiseAs 11 code detail
  else s.modPart (s.partOf s.me) fun q => { q with joining := true }

/-- Whether a flit asks for the write right: a row, a store or an addition does, and a request for data and its answer are
reads (R240) (DEDUCED, log entry 6). -/
def Flit.writes (f : Flit) : Bool := f.row.isSome && !f.reply

/-- A flit that a port refuses to its partition, by its access table: under the right that it needs the table gives the
partition no slot, or not the one that the flit would take (R240, R381). -/
def State.flitRefused (s : State) (f : Flit) : Bool :=
  let p := s.port f.port
  f.group.isNone || s.portRefused f.port f.writes ||
    match p.freeSlot f.group s.gtc with
    | some (_, _, k) => !admitted p.access (s.partOf s.me) f.writes k
    | none => false

/-- FLIT_SLOT_PLACEMENT: the flit takes its slot at its window cycle; one that finds none is fault 0x32 three cycles later,
and nothing of its access or element is delivered. -/
def execFlitSlotPlacement (s : State) : Outcome := match s.cur.work with
  | .flitSlotPlacement f =>
    let mates (x : Timed) : Bool := x.who.core == s.me && match x.what with
      | .flitSlotPlacement h => f.mates h
      | _ => false
    if f.window + 3 ≤ s.now then
      .next (({ s with sent := s.sent.filter fun x => !(f.mates x.2 && decide (s.gtc ≤ x.1 + 3)) }.dropDue mates).flitFault f 0x32
        [2, BitVec.ofNat 32 f.port, lo32 f.window, BitVec.ofNat 32 f.source, lo32 f.start, BitVec.ofNat 32 f.elem])
    else if s.flitRefused f then
      .next ((s.dropDue mates).flitFault f 0x21 [lo32 f.addr, hi32 f.addr])
    else match (s.port f.port).freeSlot f.group s.gtc with
      | some (g, bell, k) =>
        .next { s.modPort f.port fun p => { p with taken := (p.taken.filter fun x => decide (s.gtc < x.1 + 8064)) ++ [(bell, k)] }
                with sent := s.sent ++ [(g, f)] }
      | none => .next ((s.dropDue mates).sched (f.window + 3) [70, 2, f.rank, f.source, f.start, f.elem]
          (.flitSlotPlacement f))
  | _ => .next s

/-! ### Landings (R388, R389, R392) -/

/-- The core of a rank of a partition. -/
def State.rankCore (s : State) (p rank : Nat) : Option Nat := (s.part p).bind fun q => q.coreAt rank

/-- A port's request on behalf of another package is made in the name of rank 0, under the issue cycle of the access
(R324). -/
def State.asPort (s : State) (p issue : Nat) : State := match s.rankCore p 0 with
  | some c => { s with cur := { s.cur with who := { core := c, issue := issue, src := 11, bundle := 0xFFFFFFFF } } }
  | none => s

/-- The core of a rank of this package's member of a group: what travels under another group reaches nobody (R381). -/
def State.memberCore (s : State) (group p rank : Nat) : Option Nat :=
  (s.part p).bind fun q => if q.group = some group then q.coreAt rank else none

/-- What lands goes by the core that it lands on and the cycle of its landing. -/
def State.landedOn (s : State) (core : Nat) : State := { s with cur := { s.cur with who :=
    { core := core, issue := s.ttc (s.partOf core), src := 11, bundle := 0xFFFFFFFF } } }

/-- What passes from a port to a core on another die meets the die link between them: the detail of fault 0x33 (R377). -/
def State.inward (s : State) (port core : Nat) : Option (List Word) :=
  (s.landedOn core).crossedBetween (dieOfPort port) (dieOf core)

/-- The bytes of an answer take their way under the access that asked for them; those that the die link spoils are fault
0x33 where they would be used (R377). -/
def State.deliverInward (s : State) (port core : Nat) (who : Meta) (sink : Sink) (data : List Byte) (bad : Option ErrUnit) : State :=
  let s' := { s with cur := { s.cur with who := who } }
  match s.inward port core, sink.useAt with
  | some d, some t => s'.faultAt t 0x33 d
  | _, _ => s'.deliver sink data bad

/-- A row lands in a link queue; the record of a full queue gives the start cycle of the command that sent it (R388,
R407). Words 4 and 5 of it are all ones: no instruction or command of the recording core is concerned (DEDUCED, log entry
24). A row that a die link spoils is fault 0x33 (R377). -/
def State.landRow (s : State) (port core start : Nat) (r : Row) : State :=
  let q := 4 + port
  let rows := (s.ctx core).queue q
  match s.inward port core with
  | some d => s.raiseAt core 0x33 11 0xFFFFFFFF none d
  | none =>
  if rows.length < queueCap q then
    { s.modCtx core (fun x => x.setQueue q (rows ++ [r])) with moves := s.moves ++ [(core, q, true)] }
  else s.raiseAt core 0x14 11 0xFFFFFFFF none
    [BitVec.ofNat 32 q, lo32 start, BitVec.ofNat 32 rows.length]

/-- An addition lands, and performs 8 cycles later, as an effect of the core that holds the window; one that a die link spoils
is fault 0x33 there (R377, R392). -/
def State.landAddition (s : State) (port p core w i : Nat) (words : List Word) : State :=
  let at_ := s.ttc p + 8
  let s' := s.landedOn core
  match s.inward port core with
  | some d => s'.faultAt at_ 0x33 d
  | none => s'.sched at_ [75, core, w] (.windowAddition core w i words)

/-- An access of another package to this package's device memory (R236): one that the region table or the owner of the
memory refuses is answered to its package, and nothing is disturbed here. `cycle` is that of RD or WR at the arrival
port's own die; another die's stack is 24 cycles later. The answer leaves by the route to the package that asked (R230,
R382, R383). A group of which this package's partition is no member has no pairing here (R236, R381). -/
def State.landAccess (s : State) (port group p : Nat) (write : Bool) (vaddr size cycle : Nat) (data : List Byte)
    (o : Origin) : State :=
  match (s.part p).filter fun q => q.group == some group with
  | none => s
  | some q => match translate q.regions write vaddr with
    | .error _ => s
    | .ok (phys, key) =>
      let s := s.asPort p o.issue
      let far := stackOf phys / 2 != dieOfPort port
      let at_ := cycle + (if far then 24 else 0)
      s.request { part := p, cycle := at_, write := write, phys := phys, ea := vaddr, size := size, kind := 2,
                  source := port, key := key, who := s.cur.who, data := data, performs := at_ + 100,
                  sink := .remote o (at_ + (if far then 64 else 40)) }

/-- A load's answer lands: its destination takes it 64 cycles later, in place of what the model held for it (R230, R383)
(DEDUCED, log entry 31). -/
def State.landReply (s : State) (port core issue : Nat) (data : List Byte) (bad : Option ErrUnit) : State :=
  let mine (x : Timed) : Bool := x.who.core == core && x.who.issue == issue && x.who.src == 1
  let sinkOf (x : Timed) : Option Sink :=
    if mine x then match x.what with
      | .registerWrite _ (.d n _ _) => some (.dreg n (s.ttc (s.partOf core) + 64))
      | .queueLoadAppend _ q _ => some (.queue q (s.ttc (s.partOf core) + 64))
      | _ => none
    else none
  match s.due.find? fun x => (sinkOf x).isSome with
  | none => s
  | some x => match sinkOf x with
    | some k => { s with due := s.due.erase x }.deliverInward port core x.who k data bad
    | none => s

/-- An element lands: it arrives 64 cycles later, its tile's tag with it. -/
def State.landElement (s : State) (port core : Nat) (c : Cmd) (e : Nat) (data : List Byte) (bad : Option ErrUnit) : State :=
  let at_ := s.ttc (s.partOf core) + 64
  let mine (x : Timed) : Bool := x.who.core == core && match x.what with
    | .engineElementArrival c' e' _ _ => c' == c && e' == e
    | _ => false
  match s.due.find? mine with
  | none => s
  | some x =>
    let s := { s with due := s.due.erase x }.deliverInward port core x.who (.inbound c e at_) data bad
    let s := s.modCore core fun k => { k with te := k.te.map fun r =>
      if r.cmd = c then { r with last := max r.last at_ } else r }
    { s with due := s.due.map fun y => match y.what with
      | .registerWrite k (.tag n _) =>
        if k = core ∧ y.who.issue = c.issue ∧ y.who.src = 8 ∧ n = c.local_ e / 8192 ∧ y.due < at_ then { y with due := at_ } else y
      | _ => y }

/-- What an access to another package left behind here: the write or append that its answer would have made. -/
def Away.leftover (r : Away) (x : Timed) : Bool := x.who == r.who && match x.what with
  | .registerWrite _ (.d _ _ _) => true
  | .queueLoadAppend _ _ _ => true
  | .engineElementArrival _ e _ _ => e == r.elem
  | _ => false

/-- The access or element of a core that is under way to another package. -/
def State.awayOf (s : State) (core issue src elem : Nat) : Option Away :=
  (s.core core).away.find? fun r => r.who.issue == issue && r.who.src == src && r.elem == elem

/-- An access or element that another package refuses: it writes nothing, and its core takes the fault under the bundle that
issued it, at the cycle that R236 or R385 gives, or at the one that a package on the route names: the cycle of the window
at which its table refuses a flit (R381), or the last of the window in which a flit finds no slot (R384). -/
def State.landFault (s : State) (core issue src elem code : Nat) (at_ : Option Nat) (detail : List Word) : State :=
  match s.awayOf core issue src elem with
  | none => s
  | some r =>
    let s := { s.dropDue r.leftover with cur := { s.cur with who := r.who } }
    s.faultAt (max (at_.getD r.faultAt) s.now) code detail

/-- A flit that failed its check is counted against its port; one that answers an access or an element of a core, or that
was bound for a core here, is fault 0x32 on that core (R389), under the bundle and the issue of what it answers (R324). -/
def State.landBad (s : State) (port p rank : Nat) (answers : Option (Nat × Nat × Nat)) : State :=
  let s := s.countErr (.port port) true
  match s.rankCore p rank with
  | none => s
  | some c =>
    let d : List Word := [1, BitVec.ofNat 32 port]
    match answers.bind fun a => s.awayOf c a.1 a.2.1 a.2.2 with
    | some r => (s.dropDue r.leftover).raiseFor (some (.port port)) c 0x32 11 r.who.bundle (some r.who.issue) d
    | none => s.raiseFor (some (.port port)) c 0x32 11 0xFFFFFFFF none d

/-- A flit on its way to another package takes the next port of its route in the window of its landing, in the name of
the group's member here; where there is none it is refused, and its package records that (R381, R382). -/
def State.landTransit (s : State) (dst : Nat × Nat × Nat) (f : Flit) : State :=
  match s.parts.find? fun q => q.group.isSome && q.group == f.group with
  | none => s
  | some q =>
    let s := s.asPort q.num (s.ttc q.num)
    s.placeFlit s.now { f with port := (s.route dst).2, window := s.now, transit := true }

/-- FLIT_LANDING. -/
def execFlitLanding (s : State) : Outcome := match s.cur.work with
  | .flitLanding port _ l => .next (match l with
    | .row g p rank start r => match s.memberCore g p rank with
      | some c => s.landRow port c start r
      | none => s
    | .access g p write vaddr size cycle data o => s.landAccess port g p write vaddr size cycle data o
    | .addition g p rank w i words => match s.memberCore g p rank with
      | some c => s.landAddition port p c w i words
      | none => s
    | .reply p rank issue data bad => match s.rankCore p rank with
      | some c => s.landReply port c issue data bad
      | none => s
    | .element p rank c e data bad => match s.rankCore p rank with
      | some k => s.landElement port k c e data bad
      | none => s
    | .remoteFault p rank issue src elem code at_ d => match s.rankCore p rank with
      | some c => s.landFault c issue src elem code at_ d
      | none => s
    | .transit dst f => s.landTransit dst f
    | .bad p rank answers => s.landBad port p rank answers
    | .corrected => (s.modPort port fun p => { p with corrections := p.corrections + 1 }).countErr (.port port) false
    | .untimed write phys first data tenant key =>
      s.present { fn := 65 + port, seq := 0, use := .peer port, write := write, phys := phys, first := first, data := data,
                  key := key, tenant := tenant, slot := none })
  | _ => .next s

/-! ### Overruns and the recess of a group (R390, R391) -/

/-- ELASTIC_OVERRUN: slip subcode 3 in every member here whose group owns a slot on the port, on its rank 0, whether its
cores are placed or not (R347, R390) (DEDUCED, log entry 34). -/
def execElasticOverrun (s : State) : Outcome := match s.cur.work with
  | .elasticOverrun port =>
    let s' := s.countErr (.port port) true
    .next (s.parts.foldl (fun s' q =>
      if (q.runs || q.recess.isSome) && (s.port port).table.any fun r => r.of q.group then
        s'.raisePart q.num { code := 0x10, rank := 0, src := 11, bundle := 0xFFFFFFFF, issue := none,
                             detail := [3, BitVec.ofNat 32 port], blame := some (.port port) }
      else s') s')
  | _ => .next s

/-- The cycle at which a member here follows a fault that another package detected at D (R391). -/
def State.followAt (s : State) (d : Nat) (from_ : Nat × Nat × Nat) : Nat := d + 190 * (s.route from_).1

/-- The duty that a member shares with its link group from a bell on: that of another member, of `d` periods of the aligned
group of 8 that holds the bell, beside what it shares there already (R405). -/
def Part.joinDuty (q : Part) (period d : Nat) : Nat × Nat :=
  let first := period / 8 * 8
  (first, max d (if q.groupDuty.1 = first then q.groupDuty.2 else 0))

/-- GROUP_RECESS: a member follows another into recess: for a fault at D + 190h, for a bell entry at the next bell, the duty of
another member with the periods that it takes; one in recess already takes the fault's course at once (R391, R405) (DEDUCED,
log entry 34). -/
def execGroupRecess (s : State) : Outcome := match s.cur.work with
  | .groupRecess p bell d from_ =>
    if bell then .next (s.modPart p fun q =>
      { q with order := some (q.order.getD .thermal), groupDuty := q.joinDuty (s.gtc / Config.period + 1) d })
    else if s.ttc p < s.followAt d from_ ∧ (s.part p).all fun q => q.recess.isNone then .next (s.schedOn p (s.followAt d from_) [70, 3, p] s.cur.work)
    else .next (s.modPart p fun q => { q with joining := true })
  | _ => .next s

end Sys2Proof.Machine
end

