-- ==== Sys2Proof/Machine/Syllabus.lean ====
section
/-! DEFINITION. The syllabus image: its sections, what the registrar reads from them, and the checks of a submission
(09 R215 to R217, 02 R46, R56 to R58, 11 R235, 13 R259, R261, R263, 19 R348, 22 R380). -/
namespace Sys2Proof.Machine

/-! ### Sections (R216) -/

/-- An entry of the section table. -/
structure Sect where
  typ : Nat
  var : Nat
  idx : Nat
  off : Nat
  len : Nat
deriving DecidableEq, Repr

def Sect.payload (x : Sect) (bs : List Byte) : List Byte := (bs.drop x.off).take x.len

/-- The entries of a section table. -/
def sectionsOf (bs : List Byte) : List Sect :=
  let t := num bs 16 4
  (List.range (num bs 12 4)).map fun i =>
    let o := t + 16 * i
    { typ := num bs o 2, var := num bs (o + 2) 1, idx := num bs (o + 4) 4, off := num bs (o + 8) 4, len := num bs (o + 12) 4 }

/-- Whether the variant and index of an entry are those that its type gives (R217). -/
def Sect.placed (x : Sect) : Bool := match x.typ with
  | 0x1 | 0x9 | 0xA => decide (x.var = 0xFF ∧ x.idx = 0)
  | 0x2 | 0x5 | 0x6 | 0x8 => decide (x.var < 4 ∧ x.idx = 0)
  | 0x3 => decide (x.var < 4 ∧ x.idx < 4)
  | 0x4 => decide (x.var < 4 ∧ x.idx < 384)
  | 0x7 => decide (x.var < 4)
  | _ => false

/-- Two spans of bytes without a common byte. -/
def apart (a la b lb : Nat) : Bool := decide (a + la ≤ b ∨ b + lb ≤ a ∨ la = 0 ∨ lb = 0)

/-- A condition on every two different positions of a list. -/
def pairwise {α : Type} (f : α → α → Bool) : List α → Bool
  | [] => true
  | x :: xs => xs.all (f x) && pairwise f xs

/-- The checks of R216 on an image of a stated length. -/
def imageOk (bs : List Byte) (len : Nat) : Bool :=
  let n := num bs 12 4
  let t := num bs 16 4
  let xs := sectionsOf bs
  decide (64 ≤ bs.length) && num bs 0 4 == 0x4C4C5953 && num bs 4 4 == 1 && num bs 8 4 == len && bs.length == len &&
  decide (1 ≤ n ∧ n ≤ 4096) && t % 16 == 0 && decide (64 ≤ t ∧ t + 16 * n ≤ len) && num bs 20 44 == 0 &&
  ((List.range n).all fun i => num bs (t + 16 * i + 3) 1 == 0) &&
  (xs.all fun x => x.placed && x.off % 16 == 0 && decide (x.off + x.len ≤ len) && apart 0 64 x.off x.len &&
    apart t (16 * n) x.off x.len) &&
  pairwise (fun a b => apart a.off a.len b.off b.len &&
    !(a.typ == b.typ && a.var == b.var && a.idx == b.idx && a.typ != 4)) xs &&
  (xs.any fun x => x.typ == 1) && (xs.any fun x => x.typ == 2 && x.var == 0) &&
  (xs.all fun x => x.var == 0xFF || xs.any fun y => y.typ == 2 && y.var == x.var)

/-- The payloads of a type and variant, with their indices. -/
def payloads (bs : List Byte) (typ var : Nat) : List (Nat × List Byte) :=
  ((sectionsOf bs).filter fun x => x.typ == typ && x.var == var).map fun x => (x.idx, x.payload bs)

/-! ### What the sections carry (R217) -/

/-- The words of a payload, four bytes each. -/
def wordList (bs : List Byte) (o n : Nat) : List Word :=
  (List.range n).map fun i => BitVec.ofNat 32 (num bs (o + 4 * i) 4)

def roundUp (n k : Nat) : Nat := (n + k - 1) / k * k

/-- A SEGMENTS section: heads by rank, and the block after its padding. -/
def readSegs (d : Nat) (p : List Byte) : SegBlock :=
  let c := num p 0 4
  { slot := d,
    heads := (List.range c).map fun i =>
      let h := num p (16 + 8 * i + 4) 4
      (num p (16 + 8 * i) 4, if h = 0xFFFFFFFF then none else some h),
    block := p.drop (roundUp (16 + 8 * c) 16) }

def readData (r : Nat) (p : List Byte) : DataImage := { rank := r, ptr := num p 0 8, bytes := p.drop 16 }

def readTimeline (n : Nat) (p : List Byte) : Timeline :=
  { chan := n, periods := num p 0 4, rows := wordList p 16 (num p 4 4), cols := wordList p (16 + 4 * num p 4 4) (num p 8 4) }

def readLinks (p : List Byte) : List (Nat × Nat × Nat) := (List.range (num p 0 4)).map fun i =>
  (num p (16 + 8 * i) 2, num p (16 + 8 * i + 4) 2, num p (16 + 8 * i + 6) 2)

def readRegions (p : List Byte) : List (BitVec 128) := (List.range 64).map fun i => BitVec.ofNat 128 (num p (16 * i) 16)

/-- A variant as its sections give it. -/
def readVariant (bs : List Byte) (v : Nat) : Variant :=
  let h := ((payloads bs 2 v).headD (0, [])).2
  { ncore := num h 0 4, nslot := num h 4 4, groups := num h 8 4,
    segs := (payloads bs 3 v).map fun p => readSegs p.1 p.2,
    data := (payloads bs 4 v).map fun p => readData p.1 p.2,
    stages := match payloads bs 5 v with
      | p :: _ => p.2.map (·.toNat)
      | [] => [],
    regions := match payloads bs 6 v with
      | p :: _ => readRegions p.2
      | [] => List.replicate 64 0,
    timelines := (payloads bs 7 v).map fun p => readTimeline p.1 p.2,
    links := match payloads bs 8 v with
      | p :: _ => readLinks p.2
      | [] => [] }

/-- A line of the equivalence table. -/
def readEquiv (p : List Byte) : EquivLine :=
  let k := num p 0 1
  let small := k == 4 || k == 5
  { kind := k, n := num p 1 1, v := num p 2 1, w := num p 3 1, rank := num p 4 4, rank2 := num p 8 4,
    x := if k = 1 then num p 16 8 else if small then num p 12 1 else num p 12 4,
    y := if k = 4 then num p 13 1 else if k = 5 then num p 13 1 else num p 16 4,
    z := if k = 4 then num p 14 1 else if k = 5 then num p 16 8 else num p 20 4 }

/-- The payload of the section of a whole launch, empty when it has none. -/
def wholePayload (bs : List Byte) (typ : Nat) : List Byte := ((payloads bs typ 0xFF).headD (0, [])).2

def equivLines (bs : List Byte) : List (List Byte) :=
  let p := wholePayload bs 0xA
  (List.range (p.length / 32)).map fun i => (p.drop (32 * i)).take 32

/-- A syllabus as its image gives it. -/
def readSyllabus (bs : List Byte) : Syllabus :=
  let l := wholePayload bs 1
  { name := l.take 32, level := num l 32 4,
    preds := (List.range (num l 36 4)).map fun i => (l.drop (48 + 32 * i)).take 32,
    variants := ((List.range 4).filter fun v => !(payloads bs 2 v).isEmpty).map fun v => (v, readVariant bs v),
    pigeons := match payloads bs 9 0xFF with
      | p :: _ => wordList p.2 0 128
      | [] => zeroWords 128,
    equiv := (equivLines bs).map readEquiv }

/-! ### Checks of the sections -/

/-- The stage that a rank has in a variant, and the highest one (R210). -/
def Variant.stageOf (v : Variant) (r : Nat) : Nat := v.stages.getD r 0
def Variant.nstg (v : Variant) : Nat := v.stages.foldl max 0
/-- Die slots of a variant's shape (R195). -/
def Variant.dieSlots (v : Variant) : Nat := (v.ncore + 95) / 96
/-- The block of a die slot. -/
def Variant.blockOf (v : Variant) (d : Nat) : List Byte := ((v.segs.find? fun b => b.slot == d).map (·.block)).getD []
/-- The header offset of a rank's head segment within its block. -/
def Variant.headOf (v : Variant) (r : Nat) : Option Nat :=
  ((v.segs.find? fun b => b.slot == r / 96).bind fun b => b.heads.find? fun h => h.1 == r).bind (·.2)

/-- The segment at an offset of a block, as R46 judges it with the block at the start of the store. -/
def blockSegment (block : List Byte) (off : Nat) : Segment :=
  parseSegment off ((block.drop off).take (segmentSize (decodeHeader (block.drop off)).len))

/-- The shape of the payloads: lengths, reserved fields and ranges (R217). A reserved field and the padding before a block of
segments must be 0 (DEDUCED, log entry 53). -/
def payloadShapes (bs : List Byte) (v : Nat) : Bool :=
  let n := num ((payloads bs 2 v).headD (0, [])).2 0 4
  ((payloads bs 2 v).all fun p => p.2.length == 16 && num p.2 12 4 == 0) &&
  ((payloads bs 3 v).all fun p => decide (96 * p.1 < n) && decide (16 ≤ p.2.length) && num p.2 4 12 == 0 &&
    decide (roundUp (16 + 8 * num p.2 0 4) 16 ≤ p.2.length) &&
    num p.2 (16 + 8 * num p.2 0 4) (roundUp (16 + 8 * num p.2 0 4) 16 - (16 + 8 * num p.2 0 4)) == 0) &&
  ((payloads bs 4 v).all fun p => decide (p.1 < n) && decide (16 ≤ p.2.length) && num p.2 8 8 == 0) &&
  ((payloads bs 5 v).all fun p => p.2.length == n && p.2.all fun b => decide (b.toNat < 16)) &&
  ((payloads bs 6 v).all fun p => p.2.length == 1024) &&
  ((payloads bs 7 v).all fun p => decide (16 ≤ p.2.length) && num p.2 12 4 == 0 &&
    p.2.length == 16 + 4 * (num p.2 4 4 + num p.2 8 4)) &&
  ((payloads bs 8 v).all fun p => decide (16 ≤ p.2.length) && num p.2 4 12 == 0 &&
    p.2.length == 16 + 8 * num p.2 0 4 && (List.range (num p.2 0 4)).all fun i => num p.2 (16 + 8 * i + 2) 2 == 0)

/-- The fields of a variant that directives fix, its head segments, data images in the scratchpad, timelines and link
claims (R46, R56 to R58, R210, R215, R259, R261, R263, R380). -/
def Variant.fieldsOk (v : Variant) (tms : List Timing) : Bool :=
  v.ncore % 4 == 0 && decide (4 ≤ v.ncore ∧ v.ncore ≤ 384) && decide (v.nslot ≤ 16) && decide (1 ≤ v.groups) &&
  (v.segs.all fun b => pairwise (fun x y => x.1 != y.1) b.heads && b.heads.all fun h =>
    h.1 / 96 == b.slot && decide (h.1 < v.ncore) && match h.2 with
    | none => true
    | some o => o % 16 == 0 && decide (o < b.block.length) && (blockSegment b.block o).valid) &&
  (v.data.all fun d => match d.ptr / 2 ^ 60 with
    | 0 => decide (d.ptr + d.bytes.length ≤ 2 ^ 20)
    | 4 => true
    | _ => false) &&
  (v.timelines.all fun t => t.formOk && tms.all t.timed) &&
  (v.links.all fun l => decide (l.1 < 6 ∧ 1 ≤ l.2.2 ∧ l.2.1 + l.2.2 ≤ 6144)) &&
  pairwise (fun a b => a.1 != b.1 || apart a.2.1 a.2.2 b.2.1 b.2.2) v.links

/-- The size that an entry's SIZE field gives. -/
def regionSize (e : BitVec 128) : Nat := 2 ^ regionField e 105 100
def regionV (e : BitVec 128) : Nat := regionField e 47 21 * 2 ^ 21
def regionP (e : BitVec 128) : Nat := regionField e 81 64 * 2 ^ 21

/-- The checks of R235 on an entry in use, for a variant of `g` groups. -/
def regionOk (e : BitVec 128) (keys : List Nat) (g : Nat) : Bool :=
  let z := regionField e 105 100
  decide (21 ≤ z ∧ z ≤ 38) && regionV e % regionSize e == 0 && regionP e % regionSize e == 0 &&
  decide (regionP e % 2 ^ 34 + regionSize e ≤ 65280 * 2 ^ 18) && decide (regionP e / 2 ^ 34 < g) &&
  keys.contains (regionField e 113 108) && regionField e 126 114 == 0 && regionField e 99 82 == 0 &&
  regionField e 63 48 == 0 && regionField e 20 0 == 0

/-- The region table, and every byte of a data image in space 0x4 (R215, R235), with the groups that regions and
timelines need (R259). -/
def Variant.regionsOk (v : Variant) (keys : List Nat) : Bool :=
  let used := v.regions.filter fun e => regionField e 127 127 == 1
  decide (v.groups ≤ 32) && (used.all fun e => regionOk e keys v.groups) &&
  pairwise (fun a b => apart (regionV a) (regionSize a) (regionV b) (regionSize b)) used &&
  (v.timelines.all fun t => decide (t.chan / 16 < v.groups)) &&
  (v.data.all fun d => d.ptr / 2 ^ 60 != 4 || (List.range d.bytes.length).all fun i =>
    (findRegion (d.ptr % 2 ^ 60 + i) 0 v.regions).isSome)

/-! ### The equivalence table (R348) -/

/-- Registers of a file that a `reg` line may name. -/
def fileSize : Nat → Nat
  | 0 => 32
  | 1 => 16
  | 2 => 16
  | 3 => 24
  | 4 => 24
  | 8 => 16
  | _ => 0

def Syllabus.variant (y : Syllabus) (v : Nat) : Option Variant := (y.variants.find? fun x => x.1 == v).map (·.2)
def Syllabus.ncore (y : Syllabus) (v : Nat) : Nat := ((y.variant v).map (·.ncore)).getD 0

/-- The line L at which point n stands in variant v. -/
def Syllabus.pointAt (y : Syllabus) (n v : Nat) : Option Nat :=
  (y.equiv.find? fun e => e.kind == 1 && e.n == n && e.v == v).map (·.x)

/-- The bytes of a line that its kind does not use are 0, and its W field is 0xFF where it names no variant. -/
def equivBytesOk (p : List Byte) : Bool := num p 24 8 == 0 && match num p 0 1 with
  | 1 => num p 3 1 == 0xFF && num p 4 12 == 0
  | 2 => num p 3 1 == 0xFF && num p 8 4 == 0 && num p 16 8 == 0
  | 3 => true
  | 4 => num p 15 1 == 0 && num p 16 8 == 0
  | 5 => num p 14 2 == 0
  | _ => false

/-- The limits of one line. -/
def Syllabus.equivOk (y : Syllabus) (e : EquivLine) : Bool :=
  let ranks := decide (e.rank < y.ncore e.v) && (y.variant e.w).isSome && decide (e.rank2 < y.ncore e.w)
  decide (e.n < 64) && (y.variant e.v).isSome && match e.kind with
  | 1 => e.x % 4032 == 0
  | 2 => decide (e.rank < y.ncore e.v) && match y.variant e.v with
    | none => false
    | some v =>
      let g := blockSegment (v.blockOf (e.rank / 96)) e.x
      e.x % 16 == 0 && decide (e.x < (v.blockOf (e.rank / 96)).length) && g.valid && g.head.timed &&
      y.pointAt e.n e.v == some g.head.stamp && (g.bundles.headD []).headD 0 == 0x6C000000
  | 3 => ranks && e.x % 64 == 0 && e.y % 64 == 0 && e.z % 64 == 0 && decide (e.x + e.z ≤ 2 ^ 20 ∧ e.y + e.z ≤ 2 ^ 20)
  | 4 => ranks && decide (e.y < fileSize e.x ∧ e.z < fileSize e.x)
  | 5 => ranks && decide (e.x < 2 ∧ e.y < 2)
  | _ => false

/-- Two lines that do not say the same thing twice: points, entries (DESIGN CHOICE, log entry 53), and the items of one
move (R348). -/
def equivApart (a b : EquivLine) : Bool :=
  a.kind != b.kind || a.n != b.n || a.v != b.v || match a.kind with
  | 1 => false
  | 2 => a.rank != b.rank
  | 3 => a.w != b.w || a.rank2 != b.rank2 || apart a.y a.z b.y b.z
  | 4 => a.w != b.w || a.rank2 != b.rank2 || a.x != b.x || a.z != b.z
  | _ => a.w != b.w || a.rank2 != b.rank2 || a.y != b.y

/-- The checks of R348 on the whole table. -/
def Syllabus.equivTableOk (y : Syllabus) (lines : List (List Byte)) : Bool :=
  lines.all equivBytesOk && y.equiv.all y.equivOk && pairwise equivApart y.equiv &&
  (y.equiv.all fun e => e.kind != 1 || y.equiv.any fun f => f.kind == 2 && f.n == e.n && f.v == e.v) &&
  (y.equiv.all fun e => e.kind != 2 || (y.pointAt e.n e.v).isSome)

/-- The reason of R398 for which a submission's image is refused (R215): the image and its fields 2, the regions 3, the
equivalence table 4 (DEDUCED, log entry 36). -/
def refusalReason (bs : List Byte) (len : Nat) (keys : List Nat) (tms : List Timing) : Option Nat :=
  if ¬ imageOk bs len then some 2
  else
    let l := wholePayload bs 1
    let y := readSyllabus bs
    let shapes := decide (48 ≤ l.length) && l.length == 48 + 32 * num l 36 4 && decide (num l 32 4 ≤ 3 ∧ num l 36 4 ≤ 16) &&
      num l 40 8 == 0 && (y.variants.all fun v => payloadShapes bs v.1 && v.2.fieldsOk tms) &&
      ((payloads bs 9 0xFF).all fun p => p.2.length == 512) && (wholePayload bs 0xA).length % 32 == 0
    if ¬ shapes then some 2
    else if ¬ y.variants.all (fun v => v.2.regionsOk keys) then some 3
    else if ¬ y.equivTableOk (equivLines bs) then some 4
    else none

end Sys2Proof.Machine
end

