-- ==== Sys2Proof/Machine/Place.lean ====
section
/-! DEFINITION. Where the registrar places a variant, what it loads there, and what a release frees (09 R195, R196, R209,
R210, R214, R220, R221, R409, 11 R234, 13 R258, R410, 22 R380). -/
namespace Sys2Proof.Machine

/-! ### Free resources -/

/-- Whether a lasting unit withdraws a cluster, a channel group or a port (R402, R408). -/
def State.clusterLost (s : State) (cl : Nat) : Bool := s.lasting.any fun u => match u with
  | .spadBank c _ => c / 8 == cl
  | .coreArrays c => c / 8 == cl
  | _ => false
def State.groupLost (s : State) (g : Nat) : Bool := s.lasting.any fun u => match u with
  | .dramBank st ch _ => st * 4 + ch / 16 == g
  | .nmUnit st => st == g / 4
  | _ => false

/-- What a placement may take: physical quads, and stage slots of each die. -/
structure Avail where
  quad : Nat → Bool
  ring : Nat → Nat

/-- The quads whose four cores are idle in clusters that are not withdrawn, and the unassigned stage slots. -/
def State.avail (s : State) : Avail :=
  { quad := fun q => decide (q < 96) && !s.clusterLost (q / 2) &&
      (List.range 4).all fun i => (s.ctx (4 * q + i)).life == .idle && (s.ctx (4 * q + i)).part == 0,
    ring := fun d => ((s.die d).ring.toList.filter fun x => x.part == 0).length }

/-- The resources with those of some partitions added (R347). -/
def State.availWith (s : State) (qs : List Part) : Avail :=
  let a := s.avail
  { quad := fun q => a.quad q || (qs.any fun p => p.cores.contains (4 * q) && !s.clusterLost (q / 2)),
    ring := fun d => a.ring d + ((s.die d).ring.toList.filter fun x => qs.any fun p => p.num == x.part).length }

/-- Channel groups that no partition owns, no test holds and no lasting unit withdraws. -/
def State.freeGroups (s : State) (allowed : List Nat) : List Nat :=
  (List.range 32).filter fun g => allowed.contains g && !(s.parts.any fun q => q.groups.contains g) &&
    !s.testing.contains g && !s.groupLost g

/-- The open slots of a port among `n` from slot `a`. -/
def Port.openIn (p : Port) (a n : Nat) : Nat :=
  p.table.foldl (fun k r => if r.open_ then k + (min (a + n) (r.first + r.count) - max a r.first) else k) 0

/-- The link group that a launch names: with MEMBERS 0 it names none (R396). -/
def Launch.link (l : Launch) : Option Nat := if l.members = 0 then none else some l.group

/-- Ranges of units in rising order, those that touch made one. -/
def mergeRanges (xs : List (Nat × Nat)) : List (Nat × Nat) :=
  (sortBy (fun a b : Nat × Nat => decide (a.1 < b.1)) xs).foldr (fun x acc => match acc with
    | [] => [x]
    | y :: rest => if y.1 ≤ x.2 + 1 then (x.1, max x.2 y.2) :: rest else x :: acc) []

/-- Entries that an access table holds for one partition's requests at most (R240) (DEDUCED, log entry 6). -/
def tableSize : Nat := 16

/-- The slots of a port that some claims take, as ranges. -/
def claimRanges (claims : List (Nat × Nat × Nat)) (port : Nat) : List (Nat × Nat) :=
  (claims.filter fun c => c.1 == port).map fun c => (c.2.1, c.2.1 + c.2.2 - 1)

/-- Whether a port's slot table admits a variant's claims: every claimed slot is open, 96 stay so (R380), and the port's
access table has an entry for every run of them (R240) (DEDUCED, log entries 6 and 45). -/
def State.linksFree (s : State) (group : Option Nat) (claims : List (Nat × Nat × Nat)) : Bool :=
  claims.isEmpty || (group.isSome && (List.range 6).all fun p =>
    let mine := claims.filter fun c => c.1 == p
    let t := s.ports[p]?.getD Port.reset
    mine.isEmpty || (t.mode == .torus && !s.lasting.contains (.port p) &&
      (mine.all fun c => t.openIn c.2.1 c.2.2 == c.2.2) &&
      decide (mine.foldl (fun n c => n + c.2.2) 0 + 96 ≤ t.openIn 0 flitSlots) &&
      decide ((mergeRanges (claimRanges claims p)).length ≤ tableSize)))

/-- Whether this package holds a member of a link group already: it holds at most one (R381). -/
def State.joined (s : State) (group : Option Nat) : Bool := group.isSome && s.parts.any fun q => q.group == group

/-! ### Places in the program stores (R43, R56) -/

/-- Spans of a die's program store that are taken. -/
def State.storeSpans (s : State) (die : Nat) : List (Nat × Nat) := s.parts.flatMap fun q =>
  match (s.launches.find? fun l => l.sub == q.sub).bind fun l => l.syl.bind fun y => y.variant q.variant with
  | none => []
  | some v => (List.range q.dies.length).filterMap fun d =>
      if q.dies.getD d 4 = die ∧ ¬ (v.blockOf d).isEmpty then some (q.offsets.getD d 0, (v.blockOf d).length) else none

/-- The places at which a block of `len` bytes fits: the start of each gap, and how many steps of 16 bytes it may move
there. -/
def State.storeGaps (s : State) (die len : Nat) : List (Nat × Nat) := gapsIn (s.storeSpans die) storeSize 16 len

/-! ### Placements (R195, R409) -/

/-- The sublists of `k` elements, in lexicographic order of position. -/
def subsets {α : Type} : Nat → List α → List (List α)
  | 0, _ => [[]]
  | _ + 1, [] => []
  | k + 1, x :: xs => (subsets k xs).map (x :: ·) ++ subsets (k + 1) xs

/-- The ways to place `m` ranks of one die slot on a die: whole clusters in rising order, and a last half cluster after
them. -/
def dieChoices (quad : Nat → Bool) (die m : Nat) : List (List Nat) :=
  let cls := (List.range 12).map (12 * die + ·)
  let both := cls.filter fun c => quad (2 * c) && quad (2 * c + 1)
  (subsets (m / 8) both).flatMap fun cs =>
    let qs := cs.flatMap fun c => [2 * c, 2 * c + 1]
    if m % 8 = 0 then [qs]
    else ((List.range 24).map (24 * die + ·)).filterMap fun q =>
      if quad q && cs.all (fun c => decide (c < q / 2)) then some (qs ++ [q]) else none

/-- The placements of die slots `d`, `d+1`, … on the given dies: the quads of each. -/
def shapeChoices (quad : Nat → Bool) : Nat → List Nat → List (List Nat)
  | _, [] => [[]]
  | n, die :: rest => (dieChoices quad die (min n 96)).flatMap fun qs => (shapeChoices quad (n - 96) rest).map (qs ++ ·)

/-- Whether owned group j, on a given die, suits die slots on `dies` (R409). -/
def groupSuits (dies : List Nat) (j die : Nat) : Bool :=
  if j < 8 * dies.length then dies.getD (j % dies.length) 4 == die else !dies.contains die

/-- Whether a group suits owned group j of a variant: its die, and the timing record of its stack, which the timelines of
that group are to meet (R263, R409) (DEDUCED, log entry 10). -/
def State.groupFits (s : State) (v : Variant) (dies : List Nat) (j g : Nat) : Bool :=
  groupSuits dies j (g / 8) && v.timelines.all fun t => t.chan / 16 != j || t.timed (s.timing (g / 4))

/-- Owned groups taken one after another from those free, `pick` choosing among the ones that suit. -/
def takeGroups (suits : Nat → Nat → Bool) (pick : Nat → Nat) : Nat → Nat → List Nat → Option (List Nat)
  | 0, _, _ => some []
  | n + 1, j, free =>
    let ok := free.filter (suits j)
    let k := pick j % ok.length
    (ok.drop k ++ ok.take k).findSome? fun g =>
      (takeGroups suits pick n (j + 1) (free.filter (· != g))).map (g :: ·)

/-- Whether a die's program store has a place for a block. -/
def State.blockFits (s : State) (v : Variant) (d die : Nat) : Bool :=
  (v.blockOf d).isEmpty || !(s.storeGaps die (v.blockOf d).length).isEmpty

/-- The dies and quads on which a variant fits (R210, R220, R409): `store` says where a die slot's block may stand, and
`kept` are the groups it has already (R346, R349). -/
def State.choices (s : State) (a : Avail) (allowed : List Nat) (v : Variant) (store : Nat → Nat → Bool)
    (kept : Option (List Nat)) : List (List Nat × List Nat) :=
  let n := v.dieSlots
  let ds := if v.links.isEmpty then subsets n (List.range 4) else [List.range n]
  (ds.filter fun dies =>
    (dies.all fun d => decide (v.nslot ≤ a.ring d)) &&
    ((List.range n).all fun d => store d (dies.getD d 4)) &&
    match kept with
    | some gs => (List.range (min v.groups gs.length)).all fun j => s.groupFits v dies j (gs.getD j 0)
    | none => (takeGroups (s.groupFits v dies) (fun _ => 0) v.groups 0 (s.freeGroups allowed)).isSome).flatMap fun dies =>
      (shapeChoices a.quad v.ncore dies).map fun qs => (dies, qs)

/-- Bytes of a report card of so many ranks (R352). -/
def cardSize (ncore : Nat) : Nat := 4352 + 1268224 * ncore

/-- Whether a tenant's dump area takes the whole report card of a variant (R351) (DEDUCED, log entry 38). -/
def Tenant.takesCard (t : Tenant) (v : Variant) : Bool := decide (cardSize v.ncore ≤ t.dumpLen)

/-- Whether a launch's variant fits (R220). -/
def State.fits (s : State) (a : Avail) (l : Launch) (v : Variant) : Bool :=
  match s.tenants.find? fun t => t.num == l.tenant with
  | none => false
  | some t => t.takesCard v && s.linksFree l.link v.links && !s.joined l.link &&
      !(s.choices a t.groups v (s.blockFits v) none).isEmpty

/-- The lowest-numbered variant of those that `ok` admits that fits (R220). -/
def State.fittingIf (s : State) (a : Avail) (l : Launch) (ok : Variant → Bool) : Option (Nat × Variant) :=
  l.syl.bind fun y => y.variants.find? fun v => s.fits a l v.2 && ok v.2
def State.fitting (s : State) (a : Avail) (l : Launch) : Option (Nat × Variant) := s.fittingIf a l fun _ => true

/-- Whether some claim takes a slot of a port, and whether every slot of some claims lies under others. -/
def claimed (claims : List (Nat × Nat × Nat)) (port slot : Nat) : Bool :=
  claims.any fun c => c.1 == port && decide (c.2.1 ≤ slot) && decide (slot < c.2.1 + c.2.2)
def linksWithin (inner outer : List (Nat × Nat × Nat)) : Bool :=
  inner.all fun c => (List.range c.2.2).all fun i => claimed outer c.1 (c.2.1 + i)

/-- Whether the neighbours' members of a link group claim the slots that a variant claims: the same slots on the port that
faces each of its ports; `facing` names them by the port here (R380). -/
def Variant.faced (v : Variant) (facing : List (Nat × Nat × Nat)) : Bool :=
  linksWithin v.links facing && linksWithin facing v.links

/-! ### Loading a partition (R23, R24, R78, R85, R196, R220) -/

/-- The completion word (R221). -/
def completion (out var sub : Nat) : Word := BitVec.ofNat 32 (out * 2 ^ 28 + var % 4 * 2 ^ 26 + sub % 2 ^ 16)

/-- A sequencer that enters the segment at a store offset, resident, at a cycle. -/
def Seq.start (store : Mem) (off at_ : Nat) : Seq :=
  { Seq.empty with
    halfA := some { off := off, ready := at_,
                    seg := some (parseSegment off (store.readBytes off (segmentSize (decodeHeader (store.readBytes off 16)).len))) },
    inB := true, next := .enter, nextAt := at_ }

/-- The registers of a core of a partition as loaded (R19, R24, R196). -/
def State.launchCtx (s : State) (q : Part) (v : Variant) (c r : Nat) : Ctx :=
  { Ctx.reset with
    life := .loaded,
    pid := BitVec.ofNat 32 (q.variant % 4 * 2 ^ 30 + q.tenant % 2 ^ 16 * 2 ^ 8 + q.num % 256),
    stg := BitVec.ofNat 32 (v.nslot * 2 ^ 8 + v.nstg * 2 ^ 4 + v.stageOf r),
    pcore := BitVec.ofNat 32 (v.ncore * 2 ^ 16 + r),
    seq := match v.headOf r with
      | some h => Seq.start (s.store c) (q.offsets.getD (r / 96) 0 + h) 0
      | none => Seq.empty }

/-- The scratchpad of a rank at launch: its data images, 0 elsewhere (R85). -/
def Variant.spadOf (v : Variant) (r : Nat) : Mem :=
  (v.data.filter fun d => d.rank == r && d.ptr / 2 ^ 60 == 0).foldl (fun m d => m.writeBytes (d.ptr % 2 ^ 20) d.bytes) []

/-- The blocks of a variant in the program stores of a partition's dies. -/
def State.placeBlocks (s : State) (q : Part) (v : Variant) : State :=
  (List.range q.dies.length).foldl (fun s d =>
    if (v.blockOf d).isEmpty then s
    else s.modDie (q.dies.getD d 4) fun e => { e with store := e.store.writeBytes (q.offsets.getD d 0) (v.blockOf d) }) s

/-- The lowest `n` unassigned slots of a ring become slots 0 to n - 1 of a partition. -/
def assignSlots (p : Nat) : Nat → Nat → List StageSlot → List StageSlot
  | _, _, [] => []
  | 0, _, xs => xs
  | n + 1, k, x :: xs =>
    if x.part = 0 then { StageSlot.free with part := p, k := k } :: assignSlots p n (k + 1) xs
    else x :: assignSlots p (n + 1) k xs

/-- A ring of 16 slots from a list. -/
def ringOf (xs : List StageSlot) : Vector StageSlot 16 := Vector.ofFn fun i => xs.getD i.val StageSlot.free

def State.takeSlots (s : State) (q : Part) (n : Nat) : State :=
  q.dies.foldl (fun s d => s.modDie d fun e => { e with ring := ringOf (assignSlots q.num n 0 e.ring.toList) }) s
def State.dropSlots (s : State) (p : Nat) : State :=
  { s with dies := s.dies.map fun e => { e with ring := e.ring.map fun x => if x.part = p then StageSlot.free else x } }

/-- The cores of a partition loaded with a variant. -/
def State.loadCores (s : State) (q : Part) (v : Variant) : State :=
  (List.range q.cores.length).foldl (fun s r =>
    let c := q.cores.getD r 0
    s.setCore c { Core.reset with ctx := s.launchCtx q v c r, spad := v.spadOf r, corrections := (s.core c).corrections,
                                  shadow := (s.core c).shadow }) s

/-- A region entry relocated to a partition's groups; one not in use is 0 (R234, R410). -/
def relocate (groups : List Nat) (e : BitVec 128) : BitVec 128 :=
  if regionField e 127 127 = 0 then 0 else
  let o := regionP e
  let phys := groups.getD (o / 2 ^ 34) 0 * 2 ^ 34 + o % 2 ^ 34 + Config.rowBase * 2 ^ 18
  BitVec.ofNat 128 (e.toNat - regionField e 81 64 * 2 ^ 64 + phys / 2 ^ 21 * 2 ^ 64)

/-- A row word relocated above the office's rows (R258). -/
def relocateRow (w : Word) : Word := if wordCode w = 1 then w + BitVec.ofNat 32 Config.rowBase else w
def Timeline.relocate (t : Timeline) : Timeline := { t with rows := t.rows.map relocateRow }

/-- Store offsets for the die slots of a variant, chosen freely among the gaps; none for an empty block. -/
def State.chooseOffsets (s : State) (v : Variant) (dies : List Nat) (pick : Nat → Nat) : List Nat :=
  (List.range dies.length).map fun d =>
    if (v.blockOf d).isEmpty then 0xFFFFFFFF
    else
      let gaps := s.storeGaps (dies.getD d 4) (v.blockOf d).length
      match gaps[pick (2 * d) % gaps.length]? with
      | some g => g.1 + 16 * (pick (2 * d + 1) % (g.2 + 1))
      | none => 0

/-- What is left of a run of slots outside `n` from slot `a`. -/
def SlotRun.outside (a n : Nat) (r : SlotRun) : List SlotRun :=
  let stop := r.first + r.count
  (if r.first < min a stop then [{ r with count := min a stop - r.first }] else []) ++
  if max (a + n) r.first < stop then [{ r with first := max (a + n) r.first, count := stop - max (a + n) r.first }] else []

/-- A claim enters its port's slot table in place of open slots (R380). -/
def State.claimSlots (s : State) (c : Nat × Nat × Nat) (group : Nat) : State :=
  s.modPort c.1 fun p =>
    { p with table := p.table.flatMap (SlotRun.outside c.2.1 c.2.2) ++
        [{ first := c.2.1, count := c.2.2, open_ := false, group := group }] }

/-- The claims of a member of a link group. -/
def State.claimAll (s : State) (q : Part) : State := match q.group with
  | none => s
  | some g => q.claims.foldl (fun s c => s.claimSlots c g) s

/-! ### Access tables (R240) -/

/-- The office admits a partition's requests to some ranges of units. -/
def AccessEntry.of (part base limit : Nat) : AccessEntry := { rd := true, wr := true, part := part, base := base, limit := limit }
def entriesOf (part : Nat) (ranges : List (Nat × Nat)) : List AccessEntry :=
  (mergeRanges ranges).map fun x => .of part x.1 x.2

/-- The entries of the die ports for the quads that a partition holds, neighbours in one entry (DEDUCED, log entry 6). -/
def Part.dieEntries (q : Part) (die : Nat) : List AccessEntry :=
  entriesOf q.num ((q.cores.filter fun c => dieOf c == die && c % 4 == 0).map fun c => (c % 96, c % 96 + 3))
/-- The entries of a stack's channel controllers for the groups that it owns. -/
def Part.stackEntries (q : Part) (stack : Nat) : List AccessEntry :=
  entriesOf q.num ((q.groups.filter fun g => g / 4 == stack).map fun g => (16 * (g % 4), 16 * (g % 4) + 15))
/-- The entries of a port for the slots that it claims. -/
def Part.portEntries (q : Part) (port : Nat) : List AccessEntry :=
  if q.group.isNone then [] else entriesOf q.num (claimRanges q.claims port)

/-- The entries of a partition leave the die ports, with its cores. -/
def State.revokeCores (s : State) (p : Nat) : State :=
  { s with dies := s.dies.map fun d => { d with access := d.access.filter fun e => e.part != p } }
/-- A partition's cores enter their die ports' tables. -/
def State.grantCores (s : State) (q : Part) : State :=
  { s with dies := Vector.ofFn fun i => { s.dies[i] with access := s.dies[i].access ++ q.dieEntries i } }
/-- The slots that it claims enter and leave its ports' tables. -/
def State.revokePorts (s : State) (p : Nat) : State :=
  { s with ports := s.ports.map fun t => { t with access := t.access.filter fun e => e.part != p } }
def State.grantPorts (s : State) (q : Part) : State :=
  { s with ports := Vector.ofFn fun i => { s.ports[i] with access := s.ports[i].access ++ q.portEntries i } }

/-- A partition that is placed enters every table, and one that is released leaves them all. -/
def State.grant (s : State) (q : Part) : State :=
  let s := (s.grantCores q).grantPorts q
  { s with hbm := Vector.ofFn fun i => { s.hbm[i] with access := s.hbm[i].access ++ q.stackEntries i },
           pigAccess := s.pigAccess ++ [.of q.num q.num q.num] }
def State.revoke (s : State) (p : Nat) : State :=
  let s := (s.revokeCores p).revokePorts p
  { s with hbm := s.hbm.map fun k => { k with access := k.access.filter fun e => e.part != p },
           pigAccess := s.pigAccess.filter fun e => e.part != p }

/-! ### Images in device memory (R58, R220, R253) -/

/-- The pieces of a span of bytes that lie in one 64-byte unit each: start and bytes. -/
def pieces (a : Nat) (bs : List Byte) : List (Nat × List Byte) :=
  (List.range ((a % 64 + bs.length + 63) / 64)).map fun i =>
    let lo := max a (64 * (a / 64 + i))
    let hi := min (a + bs.length) (64 * (a / 64 + i) + 64)
    (lo, (bs.drop (lo - a)).take (hi - lo))

/-- The units of a data image in device memory are presented, whatever their region permits; a part of a poisoned unit will
not be written (R58, R267) (DEDUCED, log entry 37). -/
def State.presentImage (s : State) (q : Part) (d : DataImage) : State :=
  (pieces (d.ptr % 2 ^ 60) d.bytes).foldl (fun s x => match findRegion x.1 0 q.regions with
    | none => s
    | some (i, _) =>
      let e := q.regions.getD i 0
      let phys := regionP e + (x.1 - regionV e)
      s.present { fn := 64, seq := 0, use := .place q.num, write := true, phys := phys / 64 * 64, first := phys % 64,
                  data := x.2, key := regionField e 113 108, tenant := q.tenant, slot := none }) s
def State.presentImages (s : State) (q : Part) (v : Variant) : State :=
  (v.data.filter fun d => d.ptr / 2 ^ 60 == 4).foldl (fun s d => s.presentImage q d) s

/-- A free choice from a list. -/
def choose {α : Type} (xs : List α) (k : Nat) : Option α := xs[k % xs.length]?

/-- Admission of a launch in a variant that fits: its partition, its cores loaded, its images in device memory presented, and
its start bell, the first by which they can be in place (R220, R409). -/
def State.admission (s : State) (l : Launch) (vn : Nat) (v : Variant) (startBell : Nat) : State :=
  let pick (k : Nat) : Nat := Config.freeNat (s.free + k)
  let allowed := ((s.tenants.find? fun t => t.num == l.tenant).map (·.groups)).getD []
  let nums := ((List.range 96).map (· + 1)).filter fun n => (s.part n).isNone
  match choose (s.choices s.avail allowed v (s.blockFits v) none) (pick 0), choose nums (pick 1) with
  | some (dies, quads), some num =>
    let groups := (takeGroups (s.groupFits v dies) (fun j => pick (16 + j)) v.groups 0 (s.freeGroups allowed)).getD []
    let y := l.syl.getD { name := [], level := 0, preds := [], variants := [], pigeons := [], equiv := [] }
    let word126 := completion 0 vn l.sub
    let pigs : Vector Word 128 := Vector.ofFn fun i =>
      if i.val = 126 then word126 else if i.val = 127 then s.offev else y.pigeons.getD i.val 0
    let q0 := Part.fresh num l.tenant (quads.flatMap fun q => [4 * q, 4 * q + 1, 4 * q + 2, 4 * q + 3]) startBell .loaded
    let offs := s.chooseOffsets v dies fun k => pick (2 + k)
    let q : Part :=
      { q0 with sub := l.sub, variant := vn, dies := dies, groups := groups, offsets := offs, pigLive := pigs, pigLatched := pigs,
                regions := v.regions.map (relocate groups), timelines := v.timelines.map Timeline.relocate,
                claims := v.links, group := l.link, shown := quads, shownVar := vn, shownOffsets := offs }
    let s := { s with free := s.free + 64, parts := s.parts ++ [q] }
    let s := (s.placeBlocks q v).takeSlots q v.nslot
    let s := s.loadCores q v
    let s := ((s.claimAll q).grant q).presentImages q v
    let now := s.gtc
    let s := s.modLaunch l.sub fun x => { x with state := .admitted, admitted := now, headSince := none }
    s.schedG startBell [0, 3, num] (.partitionStart num)
  | _, _ => s

/-! ### Release (R221, R351) -/

/-- The pending steps of a partition are discarded; an access committed to one of its open slots waits again. -/
def State.dropPart (s : State) (p : Nat) : State :=
  let waiting := s.due.filterMap fun x => match x.what with
    | .openSlotService a => if x.ofPart p then some a else none
    | _ => none
  let s := { s.dropDue (Timed.ofPart p) with reqs := s.reqs.filter fun r => r.part != p }
  let s := { s with hbm := s.hbm.map fun k => { k with lanes := k.lanes.filter fun l => l.1 != p } }
  waiting.foldl (fun s a => s.schedG (s.gtc + 1) [90, 3, a.seq] (.openSlotService { a with slot := none })) s

/-- A core returns to idle: its registers, records and copies are gone, and its storage keeps its contents, with the context
that its shadow storage holds. -/
def Core.release (k : Core) : Core :=
  { Core.reset with spad := k.spad, bad := k.bad, soft := k.soft, corrections := k.corrections, shadow := k.shadow }

/-- A shadow storage that holds a partition's context is empty again. -/
def Core.dropShadow (k : Core) (p : Nat) : Core := { k with shadow := k.shadow.filter fun x => x.1 != p }
def State.dropShadows (s : State) (p : Nat) : State := { s with cores := s.cores.map fun k => k.dropShadow p }

/-- A group's slots are open again. -/
def Port.free (p : Port) (group : Option Nat) : Port :=
  { p with table := p.table.map fun r => if r.of group then { r with open_ := true, group := 0 } else r }

/-- The resources of a partition are freed, and its cores are idle. -/
def State.release (s : State) (q : Part) : State :=
  let s := (((s.dropUse (.place q.num)).dropUse (.park q.num)).dropPart q.num).dropSlots q.num
  let s := q.cores.foldl (fun s c => s.modCore c Core.release) s
  let s := { s with ports := s.ports.map (Port.free · q.group) }
  let s := (s.revoke q.num).dropShadows q.num
  { s with parts := s.parts.filter fun x => x.num != q.num }

end Sys2Proof.Machine
end

