-- ==== Sys2Proof/Machine/Recess.lean ====
section
/-! DEFINITION. Recess and what follows it: the roll call, courses, rollback, giving cores away and taking them back,
resuming, and moving to another variant (18 R335, R336, 19 R338 to R349). -/
namespace Sys2Proof.Machine

/-- The physical cores of some quads. -/
def coresOf (quads : List Nat) : List Nat := quads.flatMap fun q => [4 * q, 4 * q + 1, 4 * q + 2, 4 * q + 3]
/-- The quads of some physical cores. -/
def quadsOf (cores : List Nat) : List Nat := (cores.filter (· % 4 == 0)).map (· / 4)

/-- The variant that a partition runs. -/
def State.variantOf (s : State) (q : Part) : Option Variant :=
  (s.launch q.sub).bind fun l => l.syl.bind fun y => y.variant q.variant

/-! ### The roll call (R342) -/

/-- Cycles in which every core's context moves to its shadow storage, and in which its stores move (R344). -/
def contextCycles : Nat := 840
def storeCycles : Nat := 15053

/-- Whether an engine works for a partition. -/
def Part.has (q : Part) : Engine → Bool
  | .slots c | .mx c | .te c => q.cores.contains c
  | .channel st ch => q.groups.contains (st * 4 + ch / 16)
  | .link p => q.claims.any fun c => c.1 == p
  | .nm st => q.groups.any fun g => g / 4 == st

/-- The unit that the prefect marks lasting when an engine does not answer; a channel controller goes by the first bank of
its channel (DEDUCED, log entry 39). -/
def Engine.unit : Engine → ErrUnit
  | .slots c | .mx c | .te c => .coreArrays c
  | .channel st ch => .dramBank st ch 0
  | .link p => .port p
  | .nm st => .nmUnit st

/-- The unit blamed for the poisoned return of a device-memory read that a partition in recess holds: a load of the LD slot,
or an element of a command other than XFERQ. -/
def Timed.poisoned (x : Timed) : Option ErrUnit := match x.what with
  | .registerWrite _ (.fault 0x30 u _) => if x.who.src = 1 then u else none
  | .engineElementArrival c _ _ u => if c.op = 0x09 then none else u
  | _ => none

/-- The poisoned returns that a partition holds are recorded while its roll call runs, in place of the fault that each would
be when it is used (R342) (DEDUCED, log entry 39). -/
def State.poisonReturns (s : State) (p : Nat) : State :=
  let held := s.due.filter fun x => x.ofPart p && x.poisoned.isSome
  let s := s.dropDue fun x => x.ofPart p && x.poisoned.isSome
  held.foldl (fun s x => s.raiseFor x.poisoned x.who.core 0x30 x.who.src x.who.bundle (some x.who.issue) []) s

/-! ### Parking (R344) -/

/-- The key slot under which a function reads its dump area: that of entry 15 of its host map (R400). -/
def State.dumpKey (s : State) (fn : Nat) : Nat := (((s.fn fn).map.find? fun e => e.1 == 15).map (·.2.key)).getD 0

/-- The key slot under which the stores of a partition are parked: that of its tenant's dump area (DEDUCED, log entry 40). -/
def State.parkKey (s : State) (q : Part) : Nat := s.dumpKey (((s.launch q.sub).map (·.fn)).getD 0)

/-- Bytes of a partition are presented, to be written to a free place of the parking area, which stays the partition's; none
while the area has no such place (R344, R253) (DEDUCED, log entry 40). -/
def State.park (s : State) (q : Part) (bs : List Byte) : Option State :=
  let (place, s) := s.parkPlace bs.length
  place.map fun a => ((s.journal .registrar .parking).presentBytes (.park q.num) q.tenant (s.parkKey q)
    (fun i => parkAddr (a + i)) bs).modPart q.num fun x => { x with parkAt := x.parkAt ++ [(a, bs.length)] }

/-- What a partition has parked is presented to be read back, behind the writes of it that are still to come (R253, R344)
(DEDUCED, log entry 40). -/
def State.unpark (s : State) (q : Part) : State := q.parkAt.foldl (fun s x =>
  s.presentReads (.park q.num) q.tenant (s.parkKey q) (fun i => parkAddr (x.1 + i)) x.2) s

/-- Bytes of a shadow storage, of an undo log, and of what a core parks: its scratchpad, its duplicate store and its undo
log (R344). -/
def shadowSize : Nat := 2 ^ 18
def undoSize : Nat := 2 ^ 16
def coreParkSize : Nat := 2 ^ 20 + shadowSize + undoSize

/-- The image of a context that a core holds in a copy. -/
def State.imageOf (s : State) (q : Part) (r c : Nat) (x : Ctx) : List Byte :=
  fit shadowSize ((s.modCtx c fun _ => x).contextImage q (q.ttc s.gtc) r c)

/-- What the stores of one core hold: scratchpad, duplicate, undo log. -/
def State.storesOf (s : State) (q : Part) (r c : Nat) : List Byte :=
  let k := s.core c
  k.spad.readBytes 0 (2 ^ 20) ++ s.imageOf q r c (k.dup.getD k.ctx) ++ fit undoSize (k.undo.flatMap (·.old))

/-- The contexts of other partitions leave the shadow storages of a partition's cores for the parking area, as far as it has a
place for them. -/
def State.evict (s : State) (q : Part) : State := q.cores.foldl (fun s c => match (s.core c).shadow with
  | none => s
  | some (p, x) =>
    if p = q.num then s
    else match s.part p with
      | none => s.modCore c fun k => { k with shadow := none }
      | some o => match s.park o (s.imageOf o x.rank c x) with
        | none => s
        | some s => s.modCore c fun k => { k with shadow := none }) s

/-- Whether a step is a move of a partition's contexts or stores. -/
def Work.moves (p : Nat) : Work → Bool
  | .contextMove k _ => k == p
  | .storePark k _ => k == p
  | _ => false

/-- The moves of a partition's cores are given up; while it has its cores, with what is still to be written of them. -/
def State.stopMove (s : State) (q : Part) : State :=
  let s := s.dropDue fun x => x.what.moves q.num
  if q.parked.isSome then s
  else ((s.dropUse (.park q.num)).dropShadows q.num).modPart q.num fun x => { x with parkAt := [] }

/-- Whether a shadow storage of a partition's cores holds another's context (R344). -/
def State.shadowFull (s : State) (q : Part) : Bool := q.cores.any fun c => (s.core c).shadow.any fun x => x.1 != q.num

/-- ROLL_CALL_COMPLETE: the engines that have not answered are marked lasting; a pre-empted partition begins to give its
cores away, a context that its shadow storages hold first of all. -/
def execRollCallComplete (s : State) : Outcome := match s.cur.work with
  | .rollCallComplete p => match s.part p with
    | none => .next s
    | some q => match q.recess with
      | none => .next s
      | some r =>
        let mute := s.stuck.filter q.has
        let s := s.modPart p fun q => { q with recess := some { r with rolled := true, unread := mute } }
        let s := mute.foldl (fun s e => s.schedG s.gtc [95] (.errorLasting e.unit)) s
        let s := s.poisonReturns p
        let quiet := ((s.part p).elim [] (·.faultsNow)).isEmpty
        if r.cause = .preempt ∧ r.primary.isNone ∧ mute.isEmpty ∧ quiet = true then
          .next ((s.evict q).schedG (s.gtc + contextCycles + if s.shadowFull q then storeCycles else 0) [2, p] (.contextMove p true))
        else .next s
  | _ => .next s

/-! ### Courses (R336) -/

inductive Course where
  | resume
  | rollback
  | fail
deriving DecidableEq, Repr

/-- Whether the record of an index is of a data event or an overrun, which the prefect classes. -/
def Part.classed (q : Part) (i : Nat) : Bool :=
  let w := q.faults.getD i []
  let code := (w.getD 0 0).toNat % 256
  let d0 := (w.getD 6 0).toNat
  code == 0x30 || code == 0x31 || code == 0x33 || (code == 0x32 && d0 == 1) || (code == 0x10 && d0 == 3)

/-- Whether a unit is lasting, a mark that is given in the present cycle included. -/
def State.isLasting (s : State) (u : ErrUnit) : Bool := s.lasting.contains u || s.due.any fun x => x.what == .errorLasting u

/-- Whether the record of an index calls for a rollback: it is of a class that the prefect judges, and judged transient. -/
def State.retries (s : State) (q : Part) (i : Nat) : Bool :=
  q.classed i && match q.blames.find? fun b => b.1 == i with
  | some (_, .remote l) => !l
  | some (_, u) => !s.isLasting u
  | none => true

/-- The records from the primary one on. -/
def Part.chain (q : Part) (i : Nat) : List Nat := (List.range (q.faults.length - i)).map (i + ·)

/-- Whether a course hangs on classes of errors that the prefect holds back (R359). -/
def State.unclassed (s : State) (q : Part) (r : Recess) : Bool :=
  s.holds 0 && r.cause != .hang && !q.mustFail && r.unread.isEmpty && r.primary.any fun i => (q.chain i).all q.classed

/-- Whether a rollback of this launch was decided less than 60 s before. -/
def State.recent (s : State) (q : Part) : Bool := match q.lastRollback with
  | some g => decide (s.gtc < g + Config.minute)
  | none => false

/-- The course of a partition at its decision bell; `others` says whether the rest of its link group can roll back with it
(R391) (DEDUCED, log entry 39). -/
def State.course (s : State) (q : Part) (r : Recess) (others : Bool) : Course :=
  if r.cause = .hang ∨ q.mustFail ∨ ¬ r.unread.isEmpty then .fail
  else match r.primary with
    | none => if r.cause ≠ .fault then .resume
        else if q.group.isSome && others && !s.recent q then .rollback else .fail
    | some i =>
      if (q.chain i).all (s.retries q) && !s.recent q && (q.group.isNone || others) then .rollback else .fail

/-! ### Rollback (R335) -/

/-- One entry of the undo log is written back with fresh codes. -/
def Core.unlog (k : Core) (u : Undo) : Core :=
  { k with spad := k.spad.writeBytes (64 * u.word) u.old,
           bad := k.bad.filter (fun w => w / 16 != u.word) ++ u.bad.map (16 * u.word + ·),
           soft := k.soft.filter fun w => w / 16 != u.word }

/-- The undo log is replayed, newest entry first, and cleared. -/
def Core.replay (k : Core) : Core := { k.undo.reverse.foldl Core.unlog k with undo := [] }

/-- A core as its line left it, held in recess, with its retained syndrome filled (R327). -/
def Core.rollback (k : Core) (syn : List Word) : Core :=
  let k := k.replay
  let x := k.dup.getD k.ctx
  { k with ctx := { x with life := if x.life = .running then .recessed else x.life }, te := [], nm := [], stnts := [], away := [],
           syndrome := syn, regBad := [], regSoft := [], mxBad := [], mxSoft := [] }

/-- The steps that the restored sequencer of a core with context `x` awaits: its next bundle, and the segments still in
expansion. -/
def State.reawait (s : State) (c : Nat) (x : Ctx) : State :=
  let s := if x.life = .recessed ∨ x.life = .starting then s.issueFor x c x.seq.nextAt else s
  let one (s : State) (half : Bool) : State := match x.seq.half half with
    | some h => if h.seg.isNone then s.expandFor x c h.ready half h.off else s
    | none => s
  one (one s false) true

/-- The stage slots of a partition take the contents of kept ones, die slot after die slot. -/
def State.putSlots (s : State) (q : Part) (kept : List StageSlot) : State :=
  let n := kept.length / max q.dies.length 1
  (List.range q.dies.length).foldl (fun s i =>
    let mine := (kept.drop (n * i)).take n
    s.modDie (q.dies.getD i 4) fun d => { d with ring := d.ring.map fun x =>
      if x.part = q.num then (mine.find? fun y => y.k == x.k).getD x else x }) s

/-- The words of pigeonholes 64 to 125 of a line, put back among live ones. -/
def restorePigs (live : Vector Word 128) (kept : List Word) : Vector Word 128 :=
  Vector.ofFn fun i => if 64 ≤ i.val ∧ i.val ≤ 125 then kept.getD (i.val - 64) 0 else live[i]

/-- The record marked as followed by a rollback (R325). -/
def markRet (w : List Word) : List Word := match w with
  | [] => []
  | h :: rest => (h ||| 0x40000000) :: rest

/-- Whether a partition's cores are given away, and not on their way back (R344). -/
def Part.away (q : Part) : Bool := q.parked.isSome && q.cores.all fun c => decide (384 ≤ c)

/-- The earliest cycle at which a partition whose cores are on their way back may resume (R344, R345). -/
def State.moveEnd (s : State) (p : Nat) : Nat := (s.due.filterMap fun x => match x.what with
  | .contextMove k false => if k = p then some x.due else none
  | .storePark k false => if k = p then some (x.due + contextCycles) else none
  | _ => none).foldl max (s.gtc + 1)

/-- A partition at its latest line: everything kept is discarded, the duplicates and logs are restored, and it awaits the
next bell, or, when its cores are given away, their return (DEDUCED, log entry 40). A member of a link group that follows
another's fault has no record of its own: its retained syndrome is zeros with RET, and a sign of life later than the line
is one at the line (DESIGN CHOICE, log entry 39). -/
def State.rollback (s : State) (q : Part) : State :=
  let i := (q.recess.bind (·.primary)).getD 0xFF
  let syn := markRet (q.faults.getD i (List.replicate 16 0))
  let s := (if q.parked.isNone then s.stopMove q else s).dropPart q.num
  let s := q.cores.foldl (fun s c => s.modCore c (Core.rollback · syn)) s
  let s := s.putSlots q q.dupSlots
  let now := s.gtc
  let back := if q.away then none else some (if q.parked.isNone then now + 1 else s.moveEnd q.num)
  let s := s.modPart q.num fun q =>
    { q with recess := q.recess.map (fun r =>
               if q.parked.isNone then { r with e := q.line } else { r with e := q.line, cause := .preempt, primary := none }),
             rbcnt := q.rbcnt + 1, causing := some i, judged := none, pigLive := restorePigs q.pigLive q.dupPig, joining := false,
             faultsNow := [], lastRollback := some now,
             faults := (List.range q.faults.length).map fun j => if j = i then syn else q.faults.getD j [],
             sign := min q.sign (q.line + 1), resumeFrom := back, parked := q.parked.map fun ks => ks.map (Core.rollback · syn),
             keptSlots := if q.parked.isNone then q.keptSlots else q.dupSlots }
  let kept := (s.part q.num).bind (·.parked)
  let s := (List.range q.cores.length).foldl (fun s r =>
    let c := q.cores.getD r 0
    s.reawait c (match kept with
      | some ks => (ks.getD r Core.reset).ctx
      | none => s.ctx c)) s
  if q.timelines.isEmpty then s else s.pairAt q.num q.line

/-! ### Giving cores away, and taking them back (R344, R346) -/

/-- The core of a step, renumbered. -/
def Work.onCore (f : Nat → Nat) : Work → Work
  | .bundleIssue c => .bundleIssue (f c)
  | .segmentExpansion c h o => .segmentExpansion (f c) h o
  | .registerWrite c w => .registerWrite (f c) w
  | .bankAccess b => .bankAccess { b with holder := f b.holder }
  | .queueLoadAppend c q r => .queueLoadAppend (f c) q r
  | .queuePushAppend c q r => .queuePushAppend (f c) q r
  | .stntUnitWrite u => .stntUnitWrite { u with core := f u.core }
  | .drainCompletion c t => .drainCompletion (f c) t
  | .barrierArrival c n => .barrierArrival (f c) n
  | .twaitEnd c => .twaitEnd (f c)
  | .windowAddition c w i ws => .windowAddition (f c) w i ws
  | w => w

def Timed.onCore (f : Nat → Nat) (x : Timed) : Timed :=
  { x with who := { x.who with core := f x.who.core }, what := x.what.onCore f }

/-- The number that a parked core of a partition goes by: no physical core has it (DEDUCED, log entry 40). -/
def parkedCore (p r : Nat) : Nat := 384 * (p + 1) + r

/-- The cores of a partition get other numbers, in it and in its kept effects. -/
def State.renumber (s : State) (q : Part) (onto : List Nat) : State :=
  let f (c : Nat) : Nat := match q.cores.findIdx? (· == c) with
    | some i => onto.getD i c
    | none => c
  { s with due := s.due.map fun x => if x.ofPart q.num then x.onCore f else x,
           reqs := s.reqs.map fun r => if r.part = q.num then { r with who := { r.who with core := f r.who.core } } else r,
           parts := s.parts.map fun x => if x.num = q.num then { x with cores := onto } else x }

/-- CONTEXT_MOVE: every core's context has moved onto its shadow storage, and the stores begin to leave, in open slots; or it
has moved back. A context that a shadow storage still holds leaves first, and either waits for a place in the parking area
(DEDUCED, log entry 40). -/
def execContextMove (s : State) : Outcome := match s.cur.work with
  | .contextMove p out => match s.part p with
    | none => .next s
    | some q =>
      if out ∧ s.shadowFull q then .next ((s.evict q).schedG (s.gtc + storeCycles) [2, p] (.contextMove p true))
      else if out then
        let s := q.cores.foldl (fun s c => s.modCore c fun k => { k with shadow := some (p, k.ctx) }) s
        .next (match s.park q ((List.range q.cores.length).flatMap fun r => s.storesOf q r (q.cores.getD r 0)) with
          | none => s.schedG (s.gtc + Config.period) [2, p] (.contextMove p true)
          | some s => s.schedG (s.gtc + storeCycles) [2, p] (.storePark p true))
      else
        let back := q.parked.getD []
        let s := (List.range q.cores.length).foldl (fun s r =>
          s.modCtx (q.cores.getD r 0) fun _ => (back.getD r Core.reset).ctx) (s.dropShadows p)
        .next (s.modPart p fun q => { q with parked := none })
  | _ => .next s

/-- STORE_PARK: the stores have left, and the quads and stage slots are free; or they return to the cores chosen. -/
def execStorePark (s : State) : Outcome := match s.cur.work with
  | .storePark p out => match s.part p with
    | none => .next s
    | some q =>
      if out then
        let kept := s.slotsOf q
        let parked := q.cores.map s.core
        let s := ((q.cores.foldl (fun s c => s.modCore c Core.release) s).dropSlots p).revokeCores p
        let s := s.renumber q ((List.range q.cores.length).map (parkedCore p))
        .next (s.modPart p fun q => { q with parked := some parked, keptSlots := kept })
      else
        let back := q.parked.getD []
        let held (s : State) (c : Nat) (k : Core) : Core := { k with ctx := (s.core c).ctx, shadow := (s.core c).shadow }
        let s := (List.range q.cores.length).foldl (fun s r =>
          let c := q.cores.getD r 0
          s.setCore c (held s c (back.getD r Core.reset))) s
        .next (s.schedG (s.gtc + contextCycles) [2, p] (.contextMove p false))
  | _ => .next s

/-- The state without a partition, for the places that its own blocks and slots leave free. -/
def State.without (s : State) (q : Part) : State := { s with parts := s.parts.filter fun x => x.num != q.num }

/-- The offset in a program store of what stood at `off`, when a block of `len` bytes has moved from `old` to `new`. -/
def movedOff (old new len off : Nat) : Nat := if old ≤ off ∧ off < old + len then off - old + new else off

/-- What a core's sequencer, its copies and its kept expansions hold of program-store offsets follows the blocks. -/
def Half.moveTo (f : Nat → Nat) (h : Half) : Half := { h with off := f h.off, seg := h.seg.map fun g => { g with off := f g.off } }
def Seq.moveTo (f : Nat → Nat) (q : Seq) : Seq := { q with halfA := q.halfA.map (Half.moveTo f), halfB := q.halfB.map (Half.moveTo f) }
def Ctx.moveTo (f : Nat → Nat) (x : Ctx) : Ctx := { x with seq := x.seq.moveTo f, seqBefore := x.seqBefore.moveTo f }
def Core.moveTo (f : Nat → Nat) (k : Core) : Core := { k with ctx := k.ctx.moveTo f, dup := k.dup.map (Ctx.moveTo f) }
def Work.moveTo (f : Nat → Nat) : Work → Work
  | .segmentExpansion c h off => .segmentExpansion c h (f off)
  | w => w

/-- The blocks of a parked partition stand at other offsets from now on (R346, R409) (DEDUCED, log entry 40). -/
def State.moveBlocks (s : State) (q : Part) (v : Variant) (offs : List Nat) : State :=
  let f (r : Nat) : Nat → Nat := movedOff (q.offsets.getD (r / 96) 0) (offs.getD (r / 96) 0) (v.blockOf (r / 96)).length
  let rank (x : Timed) : Nat := (q.cores.findIdx? (· == x.who.core)).getD 0
  let due := s.due.map fun x => if x.ofPart q.num then { x with what := x.what.moveTo (f (rank x)) } else x
  State.modPart { s with due := due } q.num fun x =>
    { x with offsets := offs, parked := x.parked.map fun ks => ks.zipIdx.map fun k => k.1.moveTo (f k.2) }

/-- A pre-empted launch takes quads of its own shape, and its blocks offsets chosen anew: the stores and contexts are on their
way back, the parked units read in open slots (R253, R344 to R346, R409) (DEDUCED, log entry 40). -/
def State.takeBack (s : State) (q : Part) (v : Variant) (dies quads : List Nat) : State :=
  let cores := coresOf quads
  let pick (k : Nat) : Nat := Config.freeNat (s.free + k)
  let offs := (s.without q).chooseOffsets v dies pick
  let s := { s.moveBlocks q v offs with free := s.free + 16 }
  let taken : Core := { Core.reset with ctx := { Ctx.reset with life := .recessed, pid := BitVec.ofNat 32 q.num } }
  let s := s.renumber q cores
  let s := cores.foldl (fun s c => s.setCore c { taken with corrections := (s.core c).corrections, shadow := (s.core c).shadow }) s
  let q' := { q with cores := cores, dies := dies, offsets := offs }
  let now := s.gtc
  let s := s.modPart q.num fun x => { x with dies := dies, resumeFrom := some (now + storeCycles + contextCycles) }
  let s := (((s.placeBlocks q' v).takeSlots q' v.nslot).putSlots q' q.keptSlots).grantCores q'
  (s.unpark q).schedG (now + storeCycles) [2, q.num] (.storePark q.num false)

/-! ### Moving to another variant (R348, R349) -/

/-- A whole register of a file copied between contexts; s0 and p0 keep 0. -/
def Ctx.copyReg (dst src : Ctx) (file r r2 : Nat) : Ctx := match file with
  | 0 => if r2 = 0 then dst else { dst with s := dst.s.setIfInBounds r2 (src.rs r) }
  | 1 => if r2 = 0 then dst else { dst with p := dst.p.setIfInBounds r2 (src.rp r) }
  | 2 => { dst with d := dst.d.setIfInBounds r2 (src.rd r) }
  | 3 => dst.modUnit .a fun v => { v with regs := v.regs.setIfInBounds r2 (src.va.rv r) }
  | 4 => dst.modUnit .b fun v => { v with regs := v.regs.setIfInBounds r2 (src.vb.rv r) }
  | 8 => { dst with h := dst.h.setIfInBounds r2 (src.rh r) }
  | _ => dst

/-- The key of a slot copied, and its counter with a signed 64-bit sum added. -/
def Ctx.copyGen (dst src : Ctx) (sl sl2 add : Nat) : Ctx :=
  let from_ := if sl = 0 then src.va else src.vb
  dst.modUnit (if sl2 = 0 then .a else .b) fun v =>
    { v with key := from_.key, ctr := BitVec.ofInt 128 ((from_.ctr.toNat : Int) + sext 64 add) }

/-- Bytes of a scratchpad copied, with the words of them that are uncorrectable. -/
def Core.copySpad (dst src : Core) (a b len : Nat) : Core :=
  let inSrc (w : Nat) : Bool := decide (a ≤ 4 * w ∧ 4 * w < a + len)
  let inDst (w : Nat) : Bool := decide (b ≤ 4 * w ∧ 4 * w < b + len)
  { dst with spad := dst.spad.writeBytes b (src.spad.readBytes a len),
             bad := dst.bad.filter (fun w => !inDst w) ++ (src.bad.filter inSrc).map fun w => w - a / 4 + b / 4,
             soft := dst.soft.filter fun w => !inDst w }

/-- One item of a move, from the cores at the old variant's line. -/
def State.applyItem (s : State) (cores : List Nat) (old : List Core) (e : EquivLine) : State :=
  let k := old.getD e.rank Core.reset
  let x := k.dup.getD k.ctx
  let c := cores.getD e.rank2 384
  match e.kind with
  | 3 => s.modCore c fun d => d.copySpad k e.x e.y e.z
  | 4 => s.modCtx c fun d => d.copyReg x e.x e.y e.z
  | 5 => s.modCtx c fun d => d.copyGen x e.x e.y e.z
  | _ => s

/-- A core at its entry of a point, or ended without one; this state is the duplicate of its line. -/
def State.enterPoint (s : State) (y : Syllabus) (n w line off c r : Nat) : State :=
  match y.equiv.find? fun e => e.kind == 2 && e.n == n && e.v == w && e.rank == r with
  | some e =>
    let seq := Seq.start (s.store c) (off + e.x) line
    (s.modCore c fun k =>
      { k with ctx := { k.ctx with life := .recessed, seq := seq },
               dup := some { k.ctx with life := .running, seq := seq } }).issueAt c line
  | none => s.modCore c fun k =>
      { k with ctx := { k.ctx with life := .ended, seq := Seq.empty }, dup := some { k.ctx with life := .ended, seq := Seq.empty } }

/-- The move of a launch from its latest line to point n's line in variant w (DEDUCED, log entry 40); link slots that w
does not claim are open again (DESIGN CHOICE, log entry 40). -/
def State.reshape (s : State) (q : Part) (y : Syllabus) (n w : Nat) (v : Variant) (dies quads : List Nat) : State :=
  let line := (y.pointAt n w).getD 0
  let old := ((q.parked.getD []).map Core.replay)
  let cores := coresOf quads
  let pick (k : Nat) : Nat := Config.freeNat (s.free + k)
  let now := s.gtc
  let offs := (s.without q).chooseOffsets v dies pick
  let s := { ((s.unpark q).dropPart q.num).dropSlots q.num with free := s.free + 16 }
  let q' : Part :=
    { q with variant := w, cores := cores, dies := dies, offsets := offs, regions := v.regions.map (relocate q.groups),
             timelines := v.timelines.map Timeline.relocate, claims := v.links, line := line,
             recess := q.recess.map (fun r => { r with e := line }), judged := none, causing := none, parked := none,
             keptSlots := [], faultsNow := [], sign := line + 1, resumeFrom := some (now + storeCycles + contextCycles),
             pigLive := (restorePigs q.pigLive q.dupPig).setIfInBounds 126 (completion 0 w q.sub) }
  let s := s.modPart q.num fun _ => q'
  let s := { (s.dropShadows q.num).revokePorts q.num with ports := (s.revokePorts q.num).ports.map (Port.free · q.group) }
  let s := (((s.claimAll q').grantPorts q').revokeCores q.num).grantCores q'
  let s := ((s.placeBlocks q' v).takeSlots q' v.nslot).loadCores q' v
  let s := (y.equiv.filter fun e => e.n == n && e.v == q.variant && e.w == w).foldl (fun s e => s.applyItem cores old e) s
  let s := (List.range cores.length).foldl (fun s r =>
    s.enterPoint y n w line (offs.getD (r / 96) 0) (cores.getD r 0) r) s
  let s := s.modPart q.num fun x => { x with dupSlots := s.slotsOf q' }
  if q'.timelines.isEmpty then s else s.pairAt q.num line

/-- The points that join the variant of a launch, at its latest line, to other variants. -/
def Syllabus.moves (y : Syllabus) (v line : Nat) : List (Nat × Nat) :=
  (List.range 4).flatMap fun w => if w = v then [] else (List.range 64).filterMap fun n =>
    if y.pointAt n v = some line ∧ (y.pointAt n w).isSome then some (w, n) else none

/-- A pre-empted launch whose cores are away: it resumes in its own shape when that fits, else it is reshaped, its claims
within those that it has, else it waits (R347, R349). -/
def State.tryReturn (s : State) (q : Part) : State :=
  match (s.launch q.sub).bind (·.syl), s.variantOf q with
  | some y, some v =>
    let pick (k : Nat) : Nat := Config.freeNat (s.free + k)
    let s := { s with free := s.free + 1 }
    match choose (s.choices s.avail [] v ((s.without q).blockFits v) (some q.groups)) (pick 0) with
    | some (dies, quads) => s.stated .registrar .placement (·.takeBack q v dies quads)
    | none =>
      let ok (m : Nat × Nat) : Option (Nat × Nat × Variant × List Nat × List Nat) := match y.variant m.1 with
        | none => none
        | some w =>
          if w.groups ≤ v.groups ∧ linksWithin w.links v.links ∧ (s.tenants.any fun t => t.num == q.tenant && t.takesCard w) then
            (choose (s.choices s.avail [] w ((s.without q).blockFits w) (some (q.groups.take w.groups))) (pick 0)).map fun c =>
              (m.1, m.2, w, c.1, c.2)
          else none
      match (y.moves q.variant q.line).findSome? ok with
      | some (w, n, vw, dies, quads) =>
        let s := if q.claims.isEmpty then s else s.journal .porter .slotTable
        if s.holds 2 ∧ ¬ q.claims.isEmpty then s else s.stated .registrar .placement (·.reshape q y n w vw dies quads)
      | none => s
  | _, _ => s

/-! ### Resuming (R345) -/

/-- A partition resumes at this bell with the TTC at which it stopped, and its placement page shows where (R345, R411). -/
def State.resume (s : State) (q : Part) : State := match q.recess with
  | none => s
  | some r =>
    (s.modPart q.num fun x =>
      { x with status := .running, recess := none, resumeFrom := none, base := s.gtc - r.e, ahead := r.e - s.gtc,
               shown := quadsOf x.cores, shownVar := x.variant, shownOffsets := x.offsets }).relive q .recessed .running

end Sys2Proof.Machine
end

