-- ==== Sys2Proof/Machine/Card.lean ====
section
/-! DEFINITION. The report card (19 R351, R352). -/
namespace Sys2Proof.Machine

/-! ### The report card (R352) -/

/-- The reason word of a card. -/
def Recess.reason (r : Recess) : Nat := if ¬ r.unread.isEmpty then 3 else if r.cause = .hang then 2 else 1

/-- The sections that an engine's state stands in (DEDUCED, log entry 38). -/
def Engine.sections : Engine → List Nat
  | .slots _ => [1, 2, 3, 4, 5, 7]
  | .mx _ => [8, 9, 10, 11]
  | .te _ => [6, 12, 13]
  | .channel _ _ => [14]
  | .link _ => [6, 14]
  | .nm _ => [6]

/-- The mask of the sections that went unread. -/
def Recess.mask (r : Recess) : Nat :=
  bitsNat (fun k => r.unread.any fun e => e.sections.contains k) 15

def State.cardHeader (q : Part) (r : Recess) : List Byte :=
  fit 256 (bytesOf [1, BitVec.ofNat 32 q.sub, BitVec.ofNat 32 (q.tenant % 2 ^ 16 * 2 ^ 16 + q.num % 256 * 2 ^ 8 + q.variant % 4),
    BitVec.ofNat 32 r.reason, lo32 r.e, hi32 r.e, lo32 r.gtcE, hi32 r.gtcE, BitVec.ofNat 32 q.cores.length,
    BitVec.ofNat 32 q.faults.length, BitVec.ofNat 32 q.rbcnt,
    BitVec.ofNat 32 (r.mask * 2 ^ 16 + q.ckln % 2 ^ 16)])

/-- A launch whose cores are given away, as its card shows it: its cores under the numbers that they had, or are about to have
(DEDUCED, log entry 38). -/
def State.unparked (s : State) (q : Part) : State × Part := match q.parked with
  | none => (s, q)
  | some ks =>
    let onto := if q.away then coresOf q.shown else q.cores
    ((List.range onto.length).foldl (fun s r => s.setCore (onto.getD r 0) (ks.getD r Core.reset)) (s.renumber q onto),
      { q with cores := onto })

/-- The card of a partition in recess. -/
def State.reportCard (s : State) (q : Part) (r : Recess) : List Byte :=
  State.cardHeader q r ++ fit 4096 (q.faults.flatMap bytesOf) ++
  (List.range q.cores.length).flatMap fun i =>
    let c := q.cores.getD i 0
    s.contextImage q r.e i c ++ (s.core c).spad.readBytes 0 (2 ^ 20)

/-! ### The end of a launch (R221, R351) -/

def LaunchState.lost : LaunchState → Bool
  | .failed => true
  | .refused => true
  | _ => false
def LaunchState.settled : LaunchState → Bool
  | .retired => true
  | .failed => true
  | .refused => true
  | _ => false

/-- The outcome that a bell has latched in a partition's completion word, once it is settled (R221, R351). -/
def Part.outcome (q : Part) : Option LaunchState :=
  let out := (q.pigLatched[126]?.getD 0).toNat / 2 ^ 28
  if q.status = .retired ∧ out = 1 then some .retired
  else if q.status = .failing ∧ out = 2 then some .failed
  else none

/-- Whether a partition's outcome has been posted, so that it may be released. -/
def State.posted (s : State) (q : Part) : Bool := q.outcome.isSome && (s.launch q.sub).all fun l => l.state.settled

/-- A settled partition is released by the registrar; its link slots leave the slot tables with it, and wait for the porter
(R357, R359). -/
def State.letGo (s : State) (q : Part) : State :=
  let s := if q.claims.isEmpty then s else s.journal .porter .slotTable
  if s.holds 2 ∧ ¬ q.claims.isEmpty then s.later 2
  else
    let s := s.journal .registrar .release
    if s.holds 1 then s.later 1 else s.release q

/-- The units of a report card are presented, one after another; the dump area takes all of them (`State.fits`) (DEDUCED, log
entry 38). -/
def State.presentCard (s : State) (p key : Nat) (t : Tenant) (bs : List Byte) : State :=
  s.presentBytes (.card p) t.num key (dumpAddr t.dump) (bs.take t.dumpLen)

/-- LAUNCH_FAILURE: the report card is written through open slots, and what the launch has parked is read back for it; after
its last unit the completion word follows, to be latched at the next bell (R351). -/
def execLaunchFailure (s : State) : Outcome := match s.cur.work with
  | .launchFailure p => match s.part p with
    | none => .next s
    | some q =>
      let now := s.gtc
      let settle (s : State) (c : Option (Nat × Nat)) : State := s.modPart p fun q =>
        { q with card := c, pigLive := q.pigLive.setIfInBounds 126 (completion 2 q.variant q.sub) }
      if q.status ≠ .failing then .next s
      else if s.posted q then .next (s.letGo q)
      else if s.holds 1 then .next (s.later 1)
      else match q.card, q.recess, s.tenants.find? fun t => t.num == q.tenant with
      | some (a, _), _, _ => .next (settle s (some (a, now)))
      | none, some r, some t =>
        if t.dumpLen = 0 then .next (settle s none)
        else .next (((if q.away then s.unpark q else s).modPart p fun q => { q with card := some (t.dump, now) }).presentCard p
          (s.dumpKey (((s.launch q.sub).map (·.fn)).getD 0)) t ((s.unparked q).1.reportCard (s.unparked q).2 r))
      | _, _, _ => .next (settle s none)
  | _ => .next s

end Sys2Proof.Machine
end

