-- ==== Sys2Proof/Machine/Copy.lean ====
section
/-! DEFINITION. The two copy slots: copies between register files, and queue rows to and from registers (06 R140 to
R147). -/
namespace Sys2Proof.Machine

/-! ### Copies (R140) -/

def execCpy (f : XC) (s : State) : Outcome :=
  .next (s.write 2 (vecWrite f.dfile f.dreg allLanes (s.myCtx.vec f.sfile f.sreg)))
def execCpyl (f : XC) (s : State) : Outcome :=
  .next (s.write 3 (.s f.dreg (lane (s.myCtx.vec f.sfile f.sreg) f.aux)))
def execCbc (f : XC) (s : State) : Outcome :=
  .next (s.write 2 (vecWrite f.dfile f.dreg allLanes (Vector.replicate 256 (s.myCtx.rs f.sreg))))
def execCpm (f : XC) (s : State) : Outcome :=
  .next (s.write 2 (maskWrite f.dfile f.dreg (s.myCtx.maskReg f.sfile f.sreg)))
/-- CPYP: an even pair of s registers into a pointer. -/
def execCpyp (f : XC) (s : State) : Outcome :=
  let x := s.myCtx
  .next (s.write 2 (.p f.dreg (BitVec.ofNat 64 ((x.rs (f.sreg + 1)).toNat * 2 ^ 32 + (x.rs f.sreg).toNat))))

/-! ### Queue rows (R142 to R145) -/

/-- The first lane of the part of a register that a row occupies: a quarter for 64 words, a half for 128. -/
def rowBase (f : XC) : Nat := if f.sfile = 6 then 128 * (f.aux % 2) else 64 * (f.aux % 4)
def rowLanes (f : XC) : Nat := if f.sfile = 6 then 128 else 64

/-- The register write of a row that a copy took, or its poison at W. -/
def rowWrite (f : XC) (t : Nat) (r : Row) : RegWrite := match r.poison with
  | some u => .fault 0x30 (some u) [BitVec.ofNat 32 (queueOf f.sfile f.sreg), lo32 t]
  | none =>
    let base := rowBase f
    let n := rowLanes f
    vecWrite f.dfile f.dreg (Vector.ofFn fun i => if base ≤ i.val ∧ i.val < base + n then 0xFFFFFFFF else 0)
      (Vector.ofFn fun i => r.words.getD (i.val - base) 0)

/-- QPOP and QPEEK: the head is read at t, and lands at t+2; the queue fault is one of the issue (R143). -/
def State.queueRead (s : State) (f : XC) (peek : Bool) : State :=
  let q := queueOf f.sfile f.sreg
  match s.myCtx.queue q with
  | r :: _ => (s.take s.me q peek).write 2 (rowWrite f s.t r)
  | [] => s

def execQpop (f : XC) (s : State) : Outcome := .next (s.issue (.qpop f) fun s => s.queueRead f false)
def execQpeek (f : XC) (s : State) : Outcome := .next (s.issue (.qpeek f) fun s => s.queueRead f true)

/-- QPUSH: a quarter of a register, appended at t+2, XA before XB (R144, R145). -/
def execQpush (f : XC) (s : State) : Outcome :=
  let v := s.myCtx.vec f.sfile f.sreg
  let row : Row := { words := ((v.toList).drop (64 * (f.aux % 4))).take 64, mark := none, poison := none }
  .next (s.sched (s.t + 2) [20, if s.cur.slot = 6 then 2 else 1] (.queuePushAppend s.me f.dreg row))

/-- QUEUE_PUSH_APPEND. -/
def execQueuePushAppend (s : State) : Outcome := match s.cur.work with
  | .queuePushAppend c q r => .next (s.append c q s.t r)
  | _ => .next s

end Sys2Proof.Machine
end

