-- ==== Sys2Proof/Machine/Fetch.lean ====
section
/-! DEFINITION. What the step function is made of: fetching a slot's word, the order of the steps of one cycle, the end
of a cycle (00 R1 to R3, 01 R7, 02 R27), and the machine that has a given word before it. -/
namespace Sys2Proof.Machine

/-! ### The steps of a cycle -/

/-- The place of a step within its cycle: a landing is the link's among the appends to a queue, and two landings come in
slot order (R145, R388); any other step has the key that it was scheduled with. -/
def Timed.place (x : Timed) : List Nat := match x.what with
  | .flitLanding port slot _ => [20, 6, port, slot]
  | _ => x.key

/-- The step that comes first among those due in the present cycle: the least place, the earlier scheduled on a tie
(DESIGN CHOICE, log entry 2). -/
def State.firstDue (s : State) : Option Timed :=
  s.due.foldl (fun best x =>
    if s.isDue x then
      match best with
      | none => some x
      | some b => if keyLt x.place b.place then some x else some b
    else best) none

/-- Taking a step from the pending ones: it becomes the step being executed. -/
def State.begin_ (s : State) (x : Timed) : State :=
  { s with due := s.due.erase x, cur := { who := x.who, slot := 8, work := x.what, todo := [] } }

/-- The end of a cycle: its faults become records, and GTC runs on (R2, R322). -/
def State.turn (s : State) : State :=
  let s := s.closeFaults
  { s with gtc := s.gtc + 1, bankUses := [], pigWrites := [], moves := [] }

/-! ### Fetching a slot's word (R27, R28, R47) -/

/-- The next slot of the bundle that issues becomes the one executed. -/
def State.enterSlot (s : State) (slot : Nat) (rest : List Nat) : State :=
  { s with cur := { s.cur with who := { s.cur.who with src := slot }, slot := slot, todo := rest } }

/-- The instruction of the slot being executed, from the core's loop buffer. -/
def State.fetch (s : State) : Except DecodeError Instr :=
  decodeSlot (slotKindOf s.cur.slot) (s.myCtx.word s.cur.slot)

/-- A slot word that is no instruction: an illegal instruction (R28). -/
def State.illegal (s : State) : State :=
  s.raise 0x01 [BitVec.ofNat 32 (2 ^ s.cur.slot), BitVec.ofNat 32 (s.myCtx.word s.cur.slot)]

/-! ### A machine with one word before it (log entry 9) -/

/-- The slot number of a kind. -/
def slotNumber : SlotKind → Nat
  | .s => 0
  | .ld => 1
  | .v => 2
  | .mx => 4
  | .x => 5
  | .te => 7

/-- A segment of no-operations whose bundle 64 holds one slot word. -/
def segmentFor (slot w : Nat) : Segment :=
  { off := 0x400000,
    head := { stamp := 0, next := 0, timed := false, cnt := 255, len := 256, reserved := 0 },
    bundles := List.replicate 64 [] ++ [List.replicate slot 0 ++ [w]] ++ List.replicate 191 [],
    valid := true }

/-- Core 0 in partition 1, with a word in its loop buffer as one slot of the bundle that issues in the present cycle; the
partition begins then, with core 0 alone and its entries in the access tables, when the state has none. -/
def State.beforeIn (s : State) (slot w : Nat) : State :=
  let q : Seq := { Seq.empty with halfA := some { off := 0x400000, ready := 0, seg := some (segmentFor slot w) },
                                  idx := 64, next := .bundle 65, nextAt := 1 }
  let one := Part.fresh 1 0 [0] s.gtc .running
  let s := if (s.part 1).isSome then s else { s with parts := one :: s.parts }.grant one
  let t := s.ttc 1
  let s := s.modCtx 0 fun x =>
    { x with life := .running, pid := 1, pcore := 0x10000,
             seq := { q with issued := t, nextAt := t + 1 },
             seqBefore := { q with idx := 63, next := .bundle 64, nextAt := t } }
  let s := (s.dropIssue 0).issueAt 0 (t + 1)
  { s with on := true,
           cur := { who := { core := 0, issue := t, src := slot, bundle := q.bundleAddr }, slot := slot,
                    work := .bundleIssue 0, todo := [slot] } }

/-- The same in the slot whose map the word is taken to belong to. -/
def State.before (s : State) (w : Nat) : State := s.beforeIn (((placeWord w).map fun p => slotNumber p.1).getD 0) w

end Sys2Proof.Machine
end

