-- ==== Sys2Proof/Machine/Hash.lean ====
section
/-! DEFINITION. SHAKE256 with 64 bytes of output, which the office uses for images, records, the measurement log and
quotes (20 R354, R356, R362, R363, 23 R402), as the named function has it (log entry 14). -/
namespace Sys2Proof.Machine

/-- The 25 lanes of the sponge's state, lane x + 5y in column x of plane y. -/
abbrev Sponge := List (BitVec 64)

def Sponge.at_ (a : Sponge) (x y : Nat) : BitVec 64 := a.getD (x % 5 + 5 * (y % 5)) 0

/-- The parity of a column. -/
def Sponge.parity (a : Sponge) (x : Nat) : BitVec 64 := (List.range 5).foldl (fun p y => p ^^^ a.at_ x y) 0

/-- Every lane takes the parities of the columns beside it, the right one turned by a bit. -/
def Sponge.mix (a : Sponge) : Sponge :=
  let turn := (List.range 5).map fun x => a.parity (x + 4) ^^^ (a.parity (x + 1)).rotateLeft 1
  a.zipIdx.map fun l => l.1 ^^^ turn.getD (l.2 % 5) 0

/-- The walk over the lanes but lane 0: step t goes from (x, y) to (y, 2x + 3y) and carries the lane with it, turned by the
triangular number of t + 1. -/
def Sponge.walk (a : Sponge) : Nat → Nat → Nat → Nat → Sponge → Sponge
  | 0, _, _, _, out => out
  | n + 1, t, x, y, out =>
    let y' := (2 * x + 3 * y) % 5
    Sponge.walk a n (t + 1) y y' (out.set (y + 5 * y') ((a.at_ x y).rotateLeft ((t + 1) * (t + 2) / 2)))

/-- Within a plane each lane takes the next but one where the next has a 0. -/
def Sponge.choose (a : Sponge) : Sponge :=
  a.zipIdx.map fun l => l.1 ^^^ (a.at_ (l.2 + 2) (l.2 / 5) &&& ~~~a.at_ (l.2 + 1) (l.2 / 5))

/-- The shift register of the round constants: x^8 + x^6 + x^5 + x^4 + 1. -/
def registerStep (r : Nat) : Nat := if r < 128 then 2 * r else (2 * r - 256) ^^^ 0x71

/-- Seven steps of the register give a round its constant: bit 2^j - 1 is the register's low bit before step j. -/
def roundBits : Nat → Nat → Nat → Nat × Nat
  | 0, _, r => (0, r)
  | n + 1, j, r =>
    let (k, r') := roundBits n (j + 1) (registerStep r)
    (r % 2 * 2 ^ (2 ^ j - 1) + k, r')

/-- The rounds, the register running on from one to the next. -/
def Sponge.rounds : Nat → Nat → Sponge → Sponge
  | 0, _, a => a
  | n + 1, r, a =>
    let (k, r') := roundBits 7 0 r
    let m := a.mix
    let c := (m.walk 24 0 1 0 m).choose
    Sponge.rounds n r' (c.set 0 (c.at_ 0 0 ^^^ BitVec.ofNat 64 k))

def spongePermute (a : Sponge) : Sponge := Sponge.rounds 24 1 a

/-- The little-endian lanes of some bytes. -/
def lanesOfBytes (bs : List Byte) : Sponge :=
  (List.range 25).map fun i => BitVec.ofNat 64 (leNat ((bs.drop (8 * i)).take 8))

/-- Absorbing blocks of 136 bytes. -/
def spongeAbsorb : Nat → Sponge → List Byte → Sponge
  | 0, a, _ => a
  | n + 1, a, bs =>
    spongeAbsorb n (spongePermute (List.zipWith (· ^^^ ·) a (lanesOfBytes (bs.take 136)))) (bs.drop 136)

/-- The message with its suffix and padding, a whole number of blocks. -/
def spongePad (m : List Byte) : List Byte :=
  let k := 135 - m.length % 136
  if k = 0 then m ++ [0x9F] else m ++ [0x1F] ++ List.replicate (k - 1) 0 ++ [0x80]

/-- The 64-byte digest. -/
def shake256 (m : List Byte) : List Byte :=
  let p := spongePad m
  ((spongeAbsorb (p.length / 136) (List.replicate 25 0) p).take 8).flatMap fun v => leBytes 8 v.toNat

end Sys2Proof.Machine
end

