-- ==== Sys2Proof/Machine/Registrar.lean ====
section
/-! DEFINITION. The bell and the registrar: submissions, queues, admission, starts, retirement, pre-emption, courses, the
watchdog, and the office's duty at bells (00 R2, 03 R78, 09 R215 to R221, 13 R266 to R269, 18 R332, R336, 19 R338 to R351,
20 R359, 23 R397, R398, R405). -/
namespace Sys2Proof.Machine

/-! ### Postings (R398) -/

/-- An event entry of a function's ring. -/
def State.postEntry (s : State) (fn : Nat) (w0 : Word) (reason part : Nat) : State :=
  (s.modFn fn fun f =>
    { f with ring := f.ring.setIfInBounds (f.evhead % 256) (w0, BitVec.ofNat 32 (reason * 2 ^ 24 + part * 2 ^ 8)),
             evhead := (f.evhead + 1) % 2 ^ 32,
             evlost := if 256 ≤ (f.evhead + 2 ^ 32 - f.evtail) % 2 ^ 32 then min (f.evlost + 1) (2 ^ 32 - 1) else f.evlost }).reply
    (.signal fn 0)

/-- A launch is refused for a reason of R398. -/
def State.refuse (s : State) (l : Launch) (reason : Nat) : State :=
  s.stated .registrar .refusal fun s =>
    (s.modLaunch l.sub fun l => { l with state := .refused }).postEntry l.fn (completion 3 0 l.sub) reason 0

/-! ### Submissions (R215, R219, R220, R397) -/

/-- The image of a submission, once every piece of it has been read (R397) (DEDUCED, log entry 36). -/
def Launch.bytes (l : Launch) : Option (List Byte) :=
  let bs := l.got.flatMap fun x => x.getD []
  if l.got.all Option.isSome ∧ bs.length = l.len then some bs else none

/-- The submission that a predecessor's name resolves to (R219). -/
def State.resolve (s : State) (l : Launch) (name : List Byte) : Option Launch :=
  (s.launches.filter fun x => x.tenant == l.tenant && decide (x.sub < l.sub) && match x.syl with
    | some y => y.name == name
    | none => false).foldl (fun best x => match best with
      | some b => if b.sub < x.sub then some x else some b
      | none => some x) none

/-- The timing records of the stacks that hold a tenant's channel groups; each group that a partition takes is checked again
when it is chosen (DEDUCED, log entry 10). -/
def State.tenantTimings (s : State) (t : Tenant) : List Timing :=
  ((List.range 8).filter fun k => t.groups.any fun g => g / 4 == k).map s.timing

/-- A submission whose image has been read: it is refused, or waits to join its queue at the next bell. -/
def State.checkSubmission (s : State) (l : Launch) : State :=
  match s.tenants.find? fun t => t.num == l.tenant, l.bytes with
  | some t, some bs =>
    let y := readSyllabus bs
    let s := if imageOk bs l.len then s.modLaunch l.sub fun x => { x with syl := some y, level := y.level } else s
    match refusalReason bs l.len (t.keys.map (·.1)) (s.tenantTimings t) with
    | some r => s.refuse l r
    | none =>
      let ps := y.preds.map (s.resolve l)
      if ps.any (fun p => (p.map fun x => x.state.lost).getD true) then s.refuse l 5
      else s.stated .registrar .queued fun s =>
        s.modLaunch l.sub fun x => { x with state := .queued, preds := ps.filterMap fun p => p.map (·.sub) }
  | _, _ => s.refuse l 2

/-- Work of the registrar that is held when the registrar falls back in it (R357, R359). -/
def State.orLater (s : State) : State := if s.holds 1 then s.later 1 else s

/-- SUBMISSION_CHECK: the submissions of one tenant are checked in their order. -/
def execSubmissionCheck (s : State) : Outcome := match s.cur.work with
  | .submissionCheck sub => match s.launch sub with
    | none => .next s
    | some l =>
      if l.state ≠ .reading then .next s
      else if s.holds 1 then .next (s.later 1)
      else if s.launches.any fun x => x.tenant == l.tenant && decide (x.sub < sub) && x.state == .reading then
        .next (s.schedG (s.gtc + 1) [97, sub] (.submissionCheck sub))
      else .next (if l.malformed then s.refuse l 1 else s.checkSubmission l).orLater
  | _ => .next s

/-! ### Queues (R218) -/

/-- Whether a launch stands at the head of its queue, not yet admitted (DEDUCED, log entry 41). -/
def State.isHead (s : State) (l : Launch) : Bool :=
  l.state == .queued && l.joined != 0 && s.launches.all fun x =>
    !(x.tenant == l.tenant && x.level == l.level && x.joined != 0 && decide (x.joined < l.joined)) || x.state.settled

/-- Whether a head may be admitted: the launches promoted from ahead of it have ended, and its predecessors retired. -/
def State.isReady (s : State) (l : Launch) : Bool :=
  s.isHead l && (l.ahead.all fun k => ((s.launch k).map fun x => x.state.settled).getD true) &&
  l.preds.all fun k => ((s.launch k).map fun x => x.state == .retired).getD false

/-- The place of the next launch that joins a queue. -/
def State.nextJoin (s : State) : Nat := s.launches.foldl (fun m l => max m l.joined) 0 + 1

/-- Periods at the head after which a launch is promoted. -/
def promotePeriods : Nat := 64

/-- QUEUE_PROMOTION: the launch moves to the tail of the next more urgent queue; those behind it wait for it. -/
def execQueuePromotion (s : State) : Outcome := match s.cur.work with
  | .queuePromotion sub => match s.launch sub with
    | none => .next s
    | some l =>
      let due := match l.headSince with
        | some h => decide (h + promotePeriods * Config.period ≤ s.gtc)
        | none => false
      if due && s.isHead l && decide (0 < l.level) && !s.holds 1 then
        let behind (x : Launch) : Bool :=
          x.tenant == l.tenant && x.level == l.level && decide (l.joined < x.joined) && !x.state.settled
        let j := s.nextJoin
        let ls := s.launches.map fun x => if behind x then { x with ahead := x.ahead ++ [sub] } else x
        .next (s.stated .registrar .promotion fun s =>
          { s with launches := ls }.modLaunch sub fun x => { x with level := x.level - 1, joined := j, headSince := none })
      else .next s
  | _ => .next s

/-- Launches whose predecessors failed or were refused are refused, in submission order (R219). -/
def State.refuseSuccessors (s : State) : State :=
  (s.launches.map (·.sub)).foldl (fun s k => match s.launch k with
    | none => s
    | some l =>
      if l.state = .queued ∧ l.preds.any (fun p => ((s.launch p).map fun x => x.state.lost).getD false) then s.refuse l 5 else s) s

/-- Checked launches join their queues, each of them a fact of the registrar. -/
def State.joinQueues (s : State) : State :=
  (s.launches.filter fun l => l.state == .queued && l.joined == 0).foldl (fun s l =>
    s.stated .registrar .joining fun s =>
      let j := s.nextJoin
      s.modLaunch l.sub fun l => { l with joined := j }) s

/-- How long each head has stood there; a period in which the registrar holds its work does not count (R359). -/
def State.timeHeads (s : State) (held : Bool) : State :=
  { s with launches := s.launches.map fun l =>
      if ¬ s.isHead l then { l with headSince := none }
      else { l with headSince := match l.headSince with
        | some h => some (if held then h + Config.period else h)
        | none => some s.gtc } }

/-- The promotions of the next bell. -/
def State.orderPromotions (s : State) : State :=
  s.launches.foldl (fun s l => match l.headSince with
    | some h =>
      if 0 < l.level ∧ h + promotePeriods * Config.period ≤ s.gtc + Config.period then
        s.schedG (s.gtc + Config.period) [] (.queuePromotion l.sub)
      else s
    | none => s) s

/-- Tenants from the one after `last`, in turn. -/
def inTurn (last : Nat) (ts : List Nat) : List Nat :=
  let xs := sortBy (fun a b => decide (a < b)) (dedup (· == ·) ts)
  (xs.filter fun t => decide (last < t)) ++ xs.filter fun t => decide (t ≤ last)

/-- The heads of one level that may be admitted, their tenants in turn (R220); a head whose predecessors have not retired is
none of them, and pre-empts nothing (DESIGN CHOICE, log entry 41). -/
def State.headsAt (s : State) (level : Nat) : List Launch :=
  let hs := s.launches.filter fun l => l.level == level && s.isReady l
  (inTurn (s.lastTenant[level]?.getD 0) (hs.map (·.tenant))).filterMap fun t => hs.find? fun l => l.tenant == t

/-! ### Pre-emption (R347) -/

/-- Partitions whose cores are on their way out. -/
def Part.leaving (q : Part) : Bool := q.order == some .preempt || match q.recess with
  | some r => r.cause == .preempt && q.parked.isNone && q.resumeFrom.isNone
  | none => false

/-- Running launches that a head of a level may pre-empt: the least urgent first, the latest admitted first. -/
def State.victims (s : State) (level : Nat) : List Part :=
  let urgency (q : Part) : Nat := ((s.launch q.sub).map (·.level)).getD 0
  let cands := s.parts.zipIdx.filter fun x => x.1.status == .running && x.1.recess.isNone && x.1.order.isNone &&
    decide (level < urgency x.1)
  (sortBy (fun a b : Part × Nat => keyLt [urgency b.1, b.2] [urgency a.1, a.2]) cands).map (·.1)

/-- The heads of the queues, in the order of R220. -/
def State.heads (s : State) : List Launch := (List.range 4).flatMap s.headsAt

/-- The first head that no variant fits orders the recess of the fewest launches that make one fit. -/
def State.preempt (s : State) : State :=
  match s.heads.find? fun l => (s.fitting s.avail l).isNone with
  | none => s
  | some l =>
    let going := s.parts.filter Part.leaving
    if (s.fitting (s.availWith going) l).isSome then s
    else
      let vs := s.victims l.level
      match (List.range vs.length).findSome? fun k =>
          (subsets (k + 1) vs).find? fun set => (s.fitting (s.availWith (going ++ set)) l).isSome with
      | none => s
      | some set => s.stated .registrar .preemption fun s =>
          set.foldl (fun s q => s.modPart q.num fun q => { q with order := some .preempt }) s

/-! ### Admission (R220) -/

/-- An admission, and the link slots that it takes, as facts of the services (R357); nothing while the porter holds its work
and there are such slots (R359). The next turn of the launch's level starts after its tenant (R220). -/
def State.admitAt (s : State) (l : Launch) (vn : Nat) (v : Variant) (bell : Nat) : State :=
  let s := if v.links.isEmpty then s else s.journal .porter .slotTable
  if s.holds 2 ∧ ¬ v.links.isEmpty then s
  else
    let s := s.stated .registrar .admission (·.admission l vn v bell)
    if (s.launch l.sub).any fun x => x.state == .admitted then
      { s with lastTenant := s.lastTenant.setIfInBounds l.level l.tenant }
    else s

/-- A head is admitted in the lowest variant that fits, for the next bell. -/
def State.admitHead (s : State) (l : Launch) : State :=
  if l.members ≠ 0 ∨ ¬ s.isReady l then s
  else match s.fitting s.avail l with
    | none => s
    | some (vn, v) => s.admitAt l vn v (s.gtc + Config.period)

/-- Whether a launch waits for nothing but the resources for its return: its cores are away, and its course is to resume, or
was to go back to its line. -/
def Part.returns (q : Part) : Bool :=
  q.away && q.status == .recessed && !q.mustFail && q.recess.any fun r => r.cause == .preempt && r.primary.isNone

/-- One level: its pre-empted launches first, in the order of their admission (DESIGN CHOICE, log entry 41), then its heads
(R347). A return in the launch's own shape changes no slot
table, and takes place while the porter holds its work (R359). -/
def State.admitLevel (s : State) (level : Nat) : State :=
  let away := s.parts.filter fun q => q.returns && (s.launch q.sub).any fun l => l.level == level
  let s := away.foldl (fun s q => s.tryReturn q) s
  (s.headsAt level).foldl State.admitHead s

/-! ### Thermal duty (R268, R269, R405) -/

/-- DUTY of a telemetry word: 0 reads as 1. -/
def dutyOf (w : Word) : Nat := max 1 (field w.toNat 15 13)
def bandOf (w : Word) : Nat := field w.toNat 12 11
def tmaxOf (w : Word) : Nat := field w.toNat 10 0
/-- A telemetry word with another band. -/
def withBand (w : Word) (b : Nat) : Word := BitVec.ofNat 32 (w.toNat - bandOf w * 2 ^ 11 + b * 2 ^ 11)

/-- The threshold of a stack's band and of a die's, in units of 0.125 °C. -/
def stackThreshold (b : Nat) : Nat := (75 + 10 * b) * 8
def dieThreshold (b : Nat) : Nat := if b = 3 then 110 * 8 else 95 * 8

/-- A band falls at a bell at which TMAX lies 3 °C or more below its threshold. -/
def coolStack (w : Word) : Word :=
  if 0 < bandOf w ∧ tmaxOf w + 24 ≤ stackThreshold (bandOf w) then withBand w (bandOf w - 1) else w
def coolDie (w : Word) : Word :=
  if 0 < bandOf w ∧ tmaxOf w + 24 ≤ dieThreshold (bandOf w) then withBand w 0 else w

/-- The stack and the die at a bell: its band falls, and refresh takes the band of the coming period (R266). -/
def Stack.atBell (k : Stack) : Stack :=
  let w := coolStack k.tstack
  { k with tstack := w, hot := decide (0 < bandOf w) }
def Die.atBell (d : Die) : Die := { d with tdie := coolDie d.tdie }

def State.tstackOf (s : State) (i : Nat) : Word := (s.hbm[i]?.getD Stack.reset).tstack

/-- The stacks and dies at band 2 or above. -/
def State.hotStacks (s : State) : List Nat := (List.range 8).filter fun i => decide (2 ≤ bandOf (s.tstackOf i))
def State.hotDies (s : State) : List Nat := (List.range 4).filter fun i => decide (2 ≤ bandOf (s.die i).tdie)

/-- Duty is ordered for an aligned group of 8 periods, beside what it carries already: an order says how many periods, and a
later write of DUTY does not change it (R269). -/
def State.orderDuty (s : State) (first : Nat) (hbm dies : List Nat) : State :=
  if hbm.isEmpty ∧ dies.isEmpty then s
  else
    let s := s.journal .prefect .duty
    let old := (s.duty.find? fun d => d.first == first).getD { first := first, hbm := [], dies := [] }
    let both : Duty := { first := first, hbm := old.hbm ++ hbm.map fun k => (k, dutyOf (s.tstackOf k)),
                         dies := old.dies ++ dies.map fun k => (k, dutyOf (s.die k).tdie) }
    { s with duty := (s.duty.filter fun d => d.first != first) ++ [both] }

/-- The duty sequencer at a bell: bands fall, and one period before a group its duty is sampled. -/
def State.thermalBell (s : State) : State :=
  let cool := { s with hbm := s.hbm.map Stack.atBell, dies := s.dies.map Die.atBell }
  let bands (s : State) : List Nat := (s.hbm.toList.map fun k => bandOf k.tstack) ++ s.dies.toList.map fun d => bandOf d.tdie
  let s := if bands cool = bands s then cool else cool.reply .bandChange
  let idx := s.gtc / Config.period
  let s := { s with duty := s.duty.filter fun d => decide (idx < d.first + 8) }
  if (idx + 1) % 8 = 0 then s.orderDuty (idx + 1) s.hotStacks s.hotDies else s

/-- The periods of a group that a partition takes for its own stacks and dies: the largest duty among them (R268, R405). -/
def State.ownDuty (s : State) (q : Part) (first : Nat) : Nat := match s.duty.find? fun d => d.first == first with
  | none => 0
  | some d =>
    ((d.hbm.filter fun k => q.groups.any fun g => g / 4 == k.1).map (·.2)).foldl max
      (((d.dies.filter fun k => q.cores.any fun c => dieOf c == k.1).map (·.2)).foldl max 0)

/-- The periods of the present group that a partition spends recessed: the largest duty of any member of its link group
(R405). -/
def State.dutyPeriods (s : State) (q : Part) : Nat :=
  let first := s.gtc / Config.period / 8 * 8
  max (s.ownDuty q first) (if q.group.isSome ∧ q.groupDuty.1 = first then q.groupDuty.2 else 0)
def State.onDuty (s : State) (q : Part) : Bool := decide (s.gtc / Config.period % 8 < s.dutyPeriods q)

/-! ### Quiet lines (R332) -/

/-- The kinds of R332 that a pending step counts as (DEDUCED, log entry 42). -/
def Work.pendingKinds (src : Nat) : Work → List Nat
  | .registerWrite .. => if src = 8 then [] else [1]
  | .configWrite .. | .shadowRowWrite .. | .planeExchange | .scoreRowAppend .. | .accumulatorUpdate .. | .accumulatorClear
  | .drainRowAppend .. | .codebookWrite .. | .chainReset | .normalisedRowAppend .. | .rowStateSaveAppend ..
  | .rowStateLoad .. => if src = 8 then [] else [1]
  | .queuePushAppend .. => if src = 8 then [] else [1]
  | .ldAddressCheck a => match a.kind with
    | .store | .ldq | .scatter _ => [2]
    | .stnt => [4]
    | _ => [2, 1]
  | .bankAccess b => if src = 8 ∨ src = 9 then [] else match b.act with
    | .load _ _ (.dreg ..) | .load _ _ (.shape ..) => [2, 1]
    | .load _ _ (.queue ..) | .store .. | .scatter .. | .refused _ => [2]
    | .gather .. | .tagged .. | .amoRead .. | .pigeonhole .. => [2, 1]
    | _ => []
  | .queueLoadAppend .. | .pigeonholeWrite .. => [2]
  | .deviceWritePerform .. => if src = 8 ∨ src = 10 then [] else [2]
  | .barrierArrival .. | .deliveryFault .. | .spawnDelivery .. | .stagePerform .. => [6]
  | .chainUpdate .. => [5]
  | _ => []

/-- The items of a core that its records name: engine commands, STNTs, accesses to other packages and an open block. -/
def Core.pendingItems (k : Core) (t : Nat) : List (Nat × Nat × Nat) :=
  ((k.te.filter fun r => decide (t ≤ r.last)).map fun r =>
    if r.cmd.op = 0x28 ∨ r.cmd.op = 0x29 then (7, r.cmd.issue, 11) else (3, r.cmd.issue, 8)) ++
  ((k.nm.filter fun r => decide (t ≤ r.last)).map fun r => (3, r.issue, 10)) ++
  (k.stnts.map fun r => (4, r.issue, 1)) ++
  ((k.away.filter fun r => r.who.src == 1 && decide (t ≤ r.performs)).map fun r => (2, r.who.issue, 1)) ++
  (if k.ctx.mx.isOpen then match k.ctx.mx.blocks.getLast? with
    | some b => [(5, b.first, 4)]
    | none => []
   else [])

/-- What is pending at the start of the present cycle: one item for each instruction and kind, a value read apart from the
update that follows it, and one for each command, STNT and open block (DEDUCED, log entry 42). -/
def State.pendingOf (s : State) (q : Part) : List Pending :=
  let t := q.ttc s.gtc
  let item (x : Timed) (kind src : Nat) : Pending :=
    { rank := s.rankOf x.who.core, kind := kind, issue := x.who.issue, src := src }
  let ofDue := s.due.flatMap fun x => if x.ofPart q.num then match x.what with
    | .chainValueRead .. => [item x 5 9, item x 5 x.who.src]
    | w => (w.pendingKinds x.who.src).map fun k => item x k x.who.src else []
  let ofReqs := s.reqs.flatMap fun r =>
    let k : List Nat := if r.who.src ≠ 1 ∨ r.kind ≠ 0 then [] else match r.sink with
      | .dreg .. => if r.write then [2] else [2, 1]
      | _ => [2]
    if r.part = q.num then k.map fun k =>
      ({ rank := s.rankOf r.who.core, kind := k, issue := r.who.issue, src := 1 } : Pending) else []
  let ofCores := (List.range q.cores.length).flatMap fun r => ((s.core (q.cores.getD r 0)).pendingItems t).map fun i =>
    ({ rank := r, kind := i.1, issue := i.2.1, src := i.2.2 } : Pending)
  dedup (· == ·) (ofDue ++ ofReqs) ++ ofCores

/-! ### The steps of a bell -/

/-- Every latched word takes its live word (R78). -/
def State.latchAll (s : State) : State := { s with parts := s.parts.map fun q => { q with pigLatched := q.pigLive } }

/-- Services that serve again take up what they held, in the order in which it arose (R359) (DEDUCED, log entry 43). -/
def State.unhold (s : State) : State :=
  let back (v : Svc) : Bool := v.held && (v.state == .run || v.state == .staged || v.state == .probation || v.state == .commit)
  let free (i : Nat) : Bool := !s.holds i || back (s.svcs[i]?.getD Svc.reset)
  let (go, stay) := s.heldWork.partition fun w => free w.1
  { s with svcs := s.svcs.map (fun v => if back v then { v with held := false } else v), heldWork := stay,
           due := s.due ++ go.map fun w => { w.2 with due := s.gtc } }

/-- The work by which a settled partition is released. -/
def Part.lastWork (q : Part) : Work := if q.status = .retired then .launchRetirement q.num else .launchFailure q.num

/-- A completion word that this bell has latched is posted, and the partition is released in a later cycle of the period,
so that what the bell latched can be read (R221, R351, R398) (DEDUCED, log entry 41). -/
def State.postCompletions (s : State) : State :=
  s.parts.foldl (fun s q => match q.outcome with
    | some o => if s.posted q then s else
      let (k, s) := s.drawNat
      s.stated .registrar .retirement fun s =>
        ((s.modLaunch q.sub fun l => { l with state := o }).postEntry (((s.launch q.sub).map (·.fn)).getD 0)
          (q.pigLatched[126]?.getD 0) 0 q.num).schedG (s.gtc + 1 + k % (Config.period - 1)) [96, q.num] q.lastWork
    | none => s) s

/-- A failing partition: its report card is written at a later cycle (R351). -/
def State.fail (s : State) (q : Part) : State :=
  let (k, s) := s.drawNat
  ((s.stopMove q).modPart q.num fun q => { q with status := .failing }).schedG (s.gtc + 1 + k) [96, q.num] (.launchFailure q.num)

/-- Whether the cores of a pre-empted launch are still wanted: a more urgent head fits no free resources (R347, R370)
(DEDUCED, log entry 41). -/
def State.wanted (s : State) (q : Part) : Bool :=
  s.heads.any fun l => decide (l.level < ((s.launch q.sub).map (·.level)).getD 0) && (s.fitting s.avail l).isNone

/-- A partition that has kept its cores may resume from this bell on; a move of its cores that has begun is given up
(R345). -/
def State.keepCores (s : State) (q : Part) : State :=
  let now := s.gtc
  (s.stopMove q).modPart q.num fun q => { q with resumeFrom := some now }

/-- A fault of another member of its link group that a frozen TTC keeps from a partition (R391). -/
def Timed.follows (p : Nat) (x : Timed) : Bool := x.ofPart p && match x.what with
  | .groupRecess _ bell _ _ => !bell
  | _ => false

/-- What a decision bell finds beside the records of a recess: faults of a roll call that completes at that bell, and a fault of
another member of the link group (R342, R391). -/
def State.gather (s : State) (q : Part) : State :=
  let late := s.due.any (Timed.follows q.num)
  let q := { q with joining := q.joining || late }
  ((s.dropDue (Timed.follows q.num)).modPart q.num fun _ => q).closePart q

/-- Whether the course of a recess has been chosen: it is to resume, or its cores are away and nothing calls for another
course. -/
def Part.decided (q : Part) (r : Recess) : Bool :=
  !q.mustFail && (q.resumeFrom.isSome || (q.parked.isSome && r.cause == .preempt && r.primary.isNone))

/-- The course of a partition is chosen, stated and taken. -/
def State.takeCourse (s : State) (q : Part) (r : Recess) : State :=
  let others := Config.freeBool s.free
  let s := { s with free := s.free + 1 }
  let c := s.course q r others
  if c = .resume ∧ r.cause = .preempt ∧ s.wanted q then s
  else s.stated .registrar .course fun s => match c with
    | .fail => s.fail q
    | .rollback => s.rollback q
    | .resume => s.keepCores q

/-- The decision bell of a partition (R342); one whose course hangs on classes that the prefect holds back waits (R359). -/
def State.decideCourse (s : State) (q : Part) : State :=
  if q.status ≠ .recessed ∨ ¬ q.recess.any (·.rolled) then s
  else
    let s := s.gather q
    match s.part q.num with
    | none => s
    | some q => match q.recess with
      | none => s
      | some r => if q.decided r || s.unclassed q r then s else s.takeCourse q r

/-- Whether a recess ends at the bell that duty gives: a thermal one with no fault in it (R345). -/
def Part.dutyRecess (q : Part) : Bool := q.recess.any fun r => r.cause == .thermal && r.primary.isNone

/-- A partition whose bell has come resumes, unless duty keeps it; the members of a link group resume together, from duty at
the bell that the largest duty of them gives, and else at a bell they agree on (R345, R391, R405). -/
def State.resumeDue (s : State) (q : Part) : State := match q.resumeFrom with
  | none => s
  | some g =>
    let ready := decide (g ≤ s.gtc) && q.status == .recessed && q.parked.isNone && !s.onDuty q
    let agreed := q.group.isNone || (q.dutyRecess && decide (0 < s.dutyPeriods q)) || Config.freeBool s.free
    let s := { s with free := s.free + 1 }
    if ready && agreed then (s.journal .registrar .resumption).resume q else s

/-- A bell entry: an order given before this bell to one of `ordered`, or thermal duty (R338). -/
def State.bellEntry (ordered : List Nat) (s : State) (q : Part) : State :=
  let o := if ordered.contains q.num then q.order else none
  if q.status = .running ∧ q.recess.isNone ∧ (o.isSome ∨ s.onDuty q) then
    (s.modPart q.num fun x => { x with order := if o.isSome then none else x.order }).enterRecess q.num (o.getD .thermal) none
  else s

/-- Periods of TTC without a sign of life after which a partition is hung (R350). -/
def hangCycles : Nat := 4096 * Config.period

/-- The watchdog's check of a running partition. -/
def State.watch (s : State) (q : Part) : State :=
  let t := q.ttc s.gtc
  if q.status = .running ∧ q.recess.isNone ∧ hangCycles ≤ t ∧ q.sign + hangCycles ≤ t then
    s.schedG s.gtc [0, 5, q.num] (.hangDetected q.num)
  else s

/-- A period in which the registrar holds its work does not count towards the watchdog (R359). -/
def State.waitOn (s : State) (q : Part) : State :=
  if q.runs then s.modPart q.num fun q => { q with sign := q.sign + Config.period } else s

/-- A step over the partitions as they are when it begins, each as the earlier ones leave it. -/
def State.eachPart (s : State) (f : State → Part → State) : State :=
  (s.parts.map (·.num)).foldl (fun s p => match s.part p with
    | some q => f s q
    | none => s) s

/-- Submissions received since the last bell: their images are read from now on (R397). -/
def State.receive (s : State) : State :=
  s.launches.foldl (fun s l =>
    if l.state = .reading ∧ ¬ l.asked then
      let s := s.modLaunch l.sub fun x => { x with asked := true }
      if l.malformed then s.imageRead l else s.askImage l 0
    else s) s

/-- What the registrar does at a bell, one thing after another, as long as it does not fall back (R357, R359). -/
def State.registrarBell (s : State) : State :=
  [State.postCompletions, (·.eachPart State.decideCourse), State.refuseSuccessors, State.joinQueues, (·.timeHeads false),
    State.orderPromotions, State.preempt, fun s => (List.range 4).foldl State.admitLevel s].foldl
    (fun s f => if s.holds 1 then s else f s) s

/-- BELL: every pigeonhole is latched, the office acts, and the next bell is set. -/
def execBell (s : State) : Outcome :=
  let s := s.latchAll
  let s := s.thermalBell
  let s := s.unhold
  let ordered := (s.parts.filter fun q => q.order.isSome).map (·.num)
  let s := if s.holds 1 then s.timeHeads true else s.registrarBell
  let s := s.eachPart State.resumeDue
  let s := s.eachPart (State.bellEntry ordered)
  let s := if s.holds 1 then s.eachPart State.waitOn else (s.eachPart State.watch).receive
  let s := s.eachPart fun s q => if q.runs then s.modPart q.num fun x => { x with pending := s.pendingOf q } else s
  .next (s.schedG (s.gtc + Config.period) [0] .bell)

/-- HANG_DETECTED: the partition is recessed at the next bell, and fails. -/
def execHangDetected (s : State) : Outcome := match s.cur.work with
  | .hangDetected p => .next (s.stated .registrar .hang (·.modPart p fun q => { q with order := some .hang })).orLater
  | _ => .next s

/-! ### Start and retirement (R24, R220, R221) -/

/-- A core at the start bell: running, or ended when its variant names no head segment (R214); the bell is its first
line (R330). -/
def Core.start (k : Core) : Core :=
  let x := { k.ctx with life := if k.ctx.seq.next = .stop then .ended else .running }
  { k with ctx := x, dup := some x, undo := [] }

/-- Whether a partition waits at its start bell for images that are not in place; the members of a link group start at the bell
that they agreed on (R220, R401) (DEDUCED, log entry 37). -/
def State.unplaced (s : State) (q : Part) : Bool := q.group.isNone && s.usePending (.place q.num)

/-- The admission entry of a partition, which the registrar writes at its start bell, or once it serves again (R359, R398). -/
def State.postAdmission (s : State) (q : Part) : State :=
  if s.holds 1 then s.later 1
  else s.postEntry (((s.launch q.sub).map (·.fn)).getD 0) (completion 0 q.variant q.sub) 0 q.num

/-- PARTITION_START: every core begins at TTC 0; while an image is not in place the start bell is the next one. Of a partition
that has started, it is the admission entry that a registrar has held. -/
def execPartitionStart (s : State) : Outcome := match s.cur.work with
  | .partitionStart p => match s.part p with
    | none => .next s
    | some q =>
      if q.status ≠ .loaded then .next (s.postAdmission q)
      else if s.unplaced q then
        let bell := s.gtc + Config.period
        .next ((s.modPart p fun q => { q with startBell := bell, base := bell }).schedG bell [0, 3, p] (.partitionStart p))
      else
      let s := q.cores.foldl (fun s c => s.modCore c Core.start) s
      let now := s.gtc
      let s := s.modPart p fun q =>
        { q with status := .running, base := now, ahead := 0, line := 0, dupPig := (q.pigLive.toList.drop 64).take 62,
                 dupSlots := s.slotsOf q }
      let s := q.cores.foldl (fun s c => if (s.ctx c).life = .running then s.issueAt c 0 else s) s
      let s := if q.timelines.isEmpty then s else s.pairAt p 0
      let s := s.postAdmission q
      let s := s.schedOn p 0 [99] (.launchRetirement p)
      .next (match s.part p with
        | some q => State.bellEntry [] s q
        | none => s)
  | _ => .next s

/-- The effects of the engines of R340, the bundle slots among them with their register writes, their accesses and the
flits that these send, and spawns in delivery; a signal to another core and a stage instruction on its way are no engine's
(DEDUCED, log entry 41). -/
def Work.ofEngine : Work → Bool
  | .registerWrite .. | .ldAddressCheck .. | .bankAccess .. | .queueLoadAppend .. | .queuePushAppend .. | .pigeonholeWrite ..
  | .flitSlotPlacement .. | .spawnDelivery .. | .deviceWritePerform .. | .drainCompletion .. | .teCommandStart .. | .engineElementIssue ..
  | .engineElementArrival .. | .engineFarWrite .. | .tlistEntryRead .. | .windowAddition .. | .multicastDelivery ..
  | .configWrite .. | .ancestryReplace .. | .nmcStart .. | .nmBlockRead .. | .nmBlockWrite .. | .nmDataFault ..
  | .shadowRowWrite .. | .planeExchange | .scoreRowAppend .. | .accumulatorUpdate .. | .accumulatorClear
  | .drainRowAppend .. | .codebookWrite .. | .chainReset | .chainValueRead .. | .chainUpdate ..
  | .normalisedRowAppend .. | .rowStateSaveAppend .. | .rowStateLoad .. | .linkSendElement .. | .linkForwardElement .. => true
  | _ => false

/-- The cycles to which the records of a core put off retirement: those after `t` at which an outstanding command, an STNT,
or an access to another package performs (R221, R252, R285). -/
def Core.outstanding (k : Core) (t : Nat) : List Nat :=
  ((k.te.map (·.last)) ++ (k.nm.map (·.last)) ++ (k.stnts.map fun r => r.covered.getD (t + 1)) ++
    k.away.map (·.performs)).filter fun c => decide (t < c)

/-- What still delays a launch's retirement: the cycles of engine operations that have not performed (DEDUCED, log entry
41). -/
def State.unperformed (s : State) (q : Part) : List Nat :=
  ((s.due.filter fun x => x.ofPart q.num && x.what.ofEngine).map (·.due)) ++
  ((s.reqs.filter fun r => r.part == q.num).map (·.cycle)) ++
  q.cores.flatMap fun c => (s.core c).outstanding (q.ttc s.gtc)

/-- LAUNCH_RETIREMENT: once every core has ended and every engine operation has performed, the completion word is written;
after the bell that latched it, the partition is released. -/
def execLaunchRetirement (s : State) : Outcome := match s.cur.work with
  | .launchRetirement p => match s.part p with
    | none => .next s
    | some q =>
      let post (s : State) : State := if s.holds 1 then s.later 1
        else s.modPart p fun q => { q with pigLive := q.pigLive.setIfInBounds 126 (completion 1 q.variant q.sub) }
      if q.status = .retired then .next (if (q.pigLive[126]?.getD 0).toNat / 2 ^ 28 = 0 then post s
        else if s.posted q then s.letGo q else s)
      else if q.status ≠ .running ∨ ¬ q.faultsNow.isEmpty ∨ q.joining ∨ ¬ q.cores.all (fun c => (s.ctx c).life == .ended) then .next s
      else match s.unperformed q with
        | [] =>
          let t := q.ttc s.gtc
          let s := s.dropDue fun x => x.what == .memorySlot p
          .next (post (s.modPart p fun q => { q with status := .retired, retiredAt := some t }))
        | d :: ds =>
          if s.due.any fun x => x.what == .launchRetirement p then .next s
          else .next (s.schedOn p (max (ds.foldl min d) (q.ttc s.gtc + 1)) [99] (.launchRetirement p))
  | _ => .next s

end Sys2Proof.Machine
end

