-- ==== Sys2Proof/Machine/Office.lean ====
section
/-! DEFINITION. The office: bring-up, the management port, telemetry and temperatures, lasting units, core resets and
gating, and the handover of its services (11 R239, 13 R267 to R270, 18 R329, R408, 20 R353 to R363, 23 R402 to
R405). -/
namespace Sys2Proof.Machine

/-! ### Services, images and records (R353 to R356) -/

/-- The digest of an image's header bytes. -/
def headerDigest (im : List Byte) : List Byte := shake256 (im.take 128)

/-- Whether an image is one of a service, whole, and signed under a key (R354). -/
def imageSound (key : List Byte) (v : Service) (im : List Byte) : Bool :=
  let body := im.drop (128 + 3309)
  decide (128 + 3309 < im.length) && imageField im 31 0 == 0x474D494B && imageField im 39 32 == v.idx + 1 &&
  imageField im 63 40 == 0 && imageField im 1023 704 == 0 && imageField im 159 128 == body.length &&
  decide (body.length ≤ 4194304) && (im.drop 24).take 64 == shake256 body &&
  Config.mldsaVerify key (headerDigest im) ((im.drop 128).take 3309)

/-- The checks of a staged image (R355). -/
def Svc.accepts (s : Svc) (v : Service) (im : List Byte) : Bool :=
  imageSound Config.imageKey v im && decide (s.floor ≤ imageVersion im) && decide (imageMinSchema im ≤ imageSchema s.running)

/-- An entry of a handover record's body: type, schema, length, and its bytes filled up to a multiple of 8 (R356). -/
def RecordEntry.bytes (e : RecordEntry) : List Byte :=
  leBytes 2 e.type ++ leBytes 2 e.schema ++ leBytes 4 e.data.length ++ e.data ++
    List.replicate (roundUp e.data.length 8 - e.data.length) 0

/-- A handover record: its header and its body (R356). -/
def recordOf (v : Service) (schema seq gtc : Nat) (body : List Byte) : List Byte :=
  leBytes 64 (0x4443524B + (v.idx + 1) * 2 ^ 72 + schema % 2 ^ 16 * 2 ^ 80 + body.length % 2 ^ 32 * 2 ^ 96 +
    seq % 2 ^ 32 * 2 ^ 128 + gtc % 2 ^ 64 * 2 ^ 160) ++ shake256 body ++ body

/-- Whether an image can import a record. -/
def importable (im r : List Byte) : Bool :=
  (r.drop 64).take 64 == shake256 ((r.drop 128).take (field (num r 0 64) 127 96)) && decide (imageMinSchema im ≤ recordSchema r)

/-! ### Events and the measurement log (R361, R362) -/

/-- An office event: the event word, in OFFEV and in pigeonhole 127 of every partition; every function is signalled (R361,
R398). -/
def State.officeEvent (s : State) (kind : Nat) (v : Service) : State :=
  let w := BitVec.ofNat 32 (kind * 2 ^ 24 + (v.idx + 1) * 2 ^ 20 + (s.offev.toNat + 1) % 2 ^ 16)
  let s : State := { s.journal .prefect .event with offev := w, parts := s.parts.map fun q =>
    { q with pigLive := q.pigLive.setIfInBounds 127 w } }
  (List.range 64).foldl (fun s f => s.reply (.signal f 1)) s

/-- The measurement log takes the running image of a service; the prefect keeps it (R362). -/
def State.extendLog (s : State) (v : Service) : State :=
  { s.journal Service.prefect Fact.measurement with mlog := shake256 (s.mlog ++ headerDigest (s.svc v).running) }

/-! ### The handover (R357 to R360) -/

/-- IMAGE_STAGE: an accepted image waits in the free slot; any other is refused before a service is touched. -/
def execImageStage (s : State) : Outcome := match s.cur.work with
  | .imageStage v im =>
    let x := s.svc v
    if (x.state = .run ∨ x.state = .failed) ∧ x.accepts v im then
      .next (s.modSvc v fun x =>
        { x with images := x.images.setIfInBounds (1 - x.slot) im, state := if x.state = .run then .staged else x.state })
    else .next s
  | _ => .next s

/-- The service core restarts in the image of its other slot, on a record. -/
def State.startImport (s : State) (v : Service) (rec_ : List Byte) : State :=
  (s.modSvc v fun x => { x with state := .import_, slot := 1 - x.slot, armed := true, record := rec_, journal := [],
                                probationEnd := none, held := true }).setDeadline v firstBeat

/-- HANDOVER_ORDER: a staged image replaces the running one; a failed service restarts in the image staged for it
(DEDUCED, log entry 43). The order comes through the management port (R403). -/
def execHandoverOrder (s : State) : Outcome := match s.cur.work with
  | .handoverOrder v =>
    let x := s.svc v
    if ¬ s.session then .next s
    else if x.state = .staged then
      .next ((s.modSvc v fun x => { x with state := .quiesce, held := true, seq := x.seq + 1 }).schedG (s.gtc + quiesceLimit)
        [99, 8] (.quiesceTimeout v))
    else if x.state = .failed ∧ ¬ x.other.isEmpty then
      .next ((s.modSvc v fun x => { x with seq := x.seq + 1 }).startImport v x.record)
    else .next s
  | _ => .next s

/-- HANDOVER_RECORD_COMPLETE: the old image has written its record; the new one imports it. -/
def execHandoverRecordComplete (s : State) : Outcome := match s.cur.work with
  | .handoverRecordComplete v entries =>
    let x := s.svc v
    if x.state = .quiesce then
      .next ((s.dropDue fun w => w.what == .quiesceTimeout v).startImport v
        (recordOf v (imageSchema x.running) x.seq s.gtc (entries.flatMap RecordEntry.bytes)))
    else .next s
  | _ => .next s

/-- QUIESCE_TIMEOUT: the handover is abandoned, and the old image goes on. -/
def execQuiesceTimeout (s : State) : Outcome := match s.cur.work with
  | .quiesceTimeout v =>
    if (s.svc v).state = .quiesce then
      .next ((s.modSvc v fun x => { x with state := .run, record := [], armed := false }).officeEvent 3 v)
    else .next s
  | _ => .next s

/-- The journal's entries above the old image's schema are set aside; the others are applied (R362). -/
def State.replayJournal (s : State) (v : Service) : State :=
  let x := s.svc v
  let aside := x.journal.filter fun e => decide (imageSchema x.running < e.schema)
  let entries := aside.map fun (e : JournalEntry) => FlashEntry.setAside e.seq e.index e.type e.schema
  { s with flash := s.flash ++ entries }.modSvc v fun x => { x with journal := [] }

/-- HEARTBEAT: the first one of a new image begins its probation, and the first one after a fallback ends it. The office
may also write HBMON, of which ARMED alone is writable (R360). -/
def execHeartbeat (s : State) : Outcome := match s.cur.work with
  | .heartbeat v (some w) => .next (s.modSvc v fun x => x.setHbmon w)
  | .heartbeat v none =>
    let x := s.svc v
    match x.state with
    | .import_ =>
      if importable x.running x.record then
        let stop := s.gtc + probationTime
        .next (((s.modSvc v fun x => { x with state := .probation, probationEnd := some stop }).setDeadline v nextBeat).schedG
          stop [99, 7] (.probationCommit v))
      else .next s
    | .probation => .next (s.setDeadline v nextBeat)
    | .fallback =>
      let s := s.replayJournal v
      let s := s.modSvc v fun x => { x with state := .run, armed := false, deadline := none, probationEnd := none }
      .next ((s.extendLog v).officeEvent 2 v)
    | _ => .next s
  | _ => .next s

/-- Whether a heartbeat of a service falls in the present cycle, which counts as in time (R360). -/
def State.beatNow (s : State) (v : Service) : Bool :=
  s.due.any (fun x => x.what == .heartbeat v none && s.isDue x) &&
    ((s.svc v).state != .import_ || importable (s.svc v).running (s.svc v).record)

/-- HEARTBEAT_DEADLINE: a deadline that has passed counts a miss, and the monitor acts in its cycle. -/
def execHeartbeatDeadline (s : State) : Outcome := match s.cur.work with
  | .heartbeatDeadline v =>
    let x := s.svc v
    let passed : Bool := match x.deadline with
      | some d => decide (d ≤ s.gtc)
      | none => false
    if ¬ (x.armed && passed) ∨ s.beatNow v then .next s
    else
      let s := s.modSvc v fun x => { x with misses := min 255 (x.misses + 1), deadline := none }
      match x.state with
      | .import_ => .next (s.fallBack v)
      | .probation => .next (s.fallBack v)
      | .fallback => .next ((s.modSvc v fun x => { x with state := .failed, held := true }).officeEvent 4 v)
      | _ => .next s
  | _ => .next s

/-- ABANDON_REQUEST: an image in probation gives up. -/
def execAbandonRequest (s : State) : Outcome := match s.cur.work with
  | .abandonRequest v => .next (if (s.svc v).state = .probation then s.fallBack v else s)
  | _ => .next s

/-- JOURNAL_APPEND: an entry of the image in probation, advisory or essential. -/
def execJournalAppend (s : State) : Outcome := match s.cur.work with
  | .journalAppend v e => .next (s.journalEntry v e)
  | _ => .next s

/-- PROBATION_COMMIT: the previous image's slot is freed, the log is extended, and the event is posted; the service stands
in COMMIT for a cycle, and runs. -/
def execProbationCommit (s : State) : Outcome := match s.cur.work with
  | .probationCommit v =>
    let x := s.svc v
    let passed : Bool := match x.probationEnd with
      | some t => decide (t ≤ s.gtc)
      | none => false
    if x.state = .commit then .next (s.modSvc v fun x => { x with state := .run, armed := false })
    else if x.state = .probation ∧ passed then
      let s := s.modSvc v fun x =>
        { x with state := .commit, images := x.images.setIfInBounds (1 - x.slot) [], armed := false, deadline := none,
                 probationEnd := none, floor := max x.floor (imageFloor x.running), journal := [] }
      .next (((s.extendLog v).officeEvent 1 v).schedG (s.gtc + 1) [99, 7] (.probationCommit v))
    else .next s
  | _ => .next s

/-! ### Quotes (R363) -/

/-- The configuration of a tenant's partitions as numbers: tenant, PART, quads, pseudo-channels, link slots, regions and
key slots. -/
def State.configOf (s : State) (tenant : Nat) : List Nat :=
  (s.parts.filter fun q => q.tenant == tenant).flatMap fun q =>
    [q.tenant, q.num] ++ q.shown ++ q.groups ++ (q.claims.flatMap fun c => [c.1, c.2.1, c.2.2]) ++ q.regions.map (·.toNat)

/-- A quote for a nonce. -/
def State.quote (s : State) (tenant : Nat) (nonce : List Byte) : List Byte :=
  let front := fit 64 nonce ++ fit 64 s.mlog ++ le 2 s.offev.toNat ++ le 2 0 ++
    ([Service.prefect, .registrar, .porter].flatMap fun v => le 4 (imageVersion (s.svc v).running)) ++
    shake256 (Config.partitionConfig (s.configOf tenant))
  front ++ fit 3309 (Config.mldsaSign 0 (shake256 front))

/-- QUOTE_REQUEST: answered at once, or after a hold; in recovery mode the host port does not answer (R402). -/
def execQuoteRequest (s : State) : Outcome := match s.cur.work with
  | .quoteRequest fn nonce => match (s.fn fn).tenant.filter fun _ => !s.recovery with
    | none => .next s
    | some t => match (List.range 3).find? s.holds with
      | some v => .next (s.later v)
      | none => .next (s.reply (.quote fn (s.quote t nonce)))
  | _ => .next s

/-! ### Bring-up (R378, R390, R402) -/

/-- What a port is trained for: the host port, or a torus port of a dimension with neighbours. -/
def BringUp.portMode (b : BringUp) (p : Nat) : PortMode :=
  let n := if p / 2 = 0 then b.extents.1 else if p / 2 = 1 then b.extents.2.1 else b.extents.2.2
  if b.hostPort = some p then .host else if 1 < n then .torus else .untrained

/-- The slot table of a trained port as bring-up leaves it: every slot open in torus mode (DESIGN CHOICE, log entry 45). -/
def PortMode.table : PortMode → List SlotRun
  | .torus => [{ first := 0, count := flitSlots, open_ := true, group := 0 }]
  | _ => []

/-- The checks of bring-up: the prefect's image under the root key, the registrar's and the porter's under the image key,
and the signature of every configuration record (R402; log entry 7). -/
def BringUp.ok (b : BringUp) : Bool :=
  b.images.length == 3 && imageSound Config.rootKey .prefect (b.images.getD 0 []) &&
  imageSound Config.imageKey .registrar (b.images.getD 1 []) && imageSound Config.imageKey .porter (b.images.getD 2 []) &&
  b.records.all fun r => Config.mldsaVerify Config.rootKey r.1 r.2

/-- The measurement log after bring-up: the prefect's header, then the registrar's, the porter's, and every record. -/
def BringUp.log (b : BringUp) : List Byte :=
  ((b.images.drop 1).map headerDigest ++ b.records.map fun r => shake256 r.1).foldl (fun l d => shake256 (l ++ d))
    (shake256 (List.replicate 64 0 ++ headerDigest (b.images.getD 0 [])))

/-- BRING_UP: the module comes up, or stays in recovery mode when a check fails. -/
def execBringUp (s : State) : Outcome := match s.cur.work with
  | .bringUp b =>
    if s.ready ∨ s.recovery then .next s
    else if ¬ b.ok then .next { s with recovery := true }
    else
      let svcOf (i : Nat) : Svc := { Svc.reset with images := Svc.reset.images.set 0 (b.images.getD i []) }
      let s := s.dropDue fun x => x.what == .bell
      let s := { s with gtc := b.gtc, coords := b.coords, extents := b.extents, ready := true,
                        mlog := b.log, svcs := Vector.ofFn fun i => svcOf i.val }
      let s := { s with hbm := Vector.ofFn fun i => { s.hbm[i] with timing := b.timing.getD i.val s.hbm[i].timing },
                        ports := Vector.ofFn fun i => { s.ports[i] with mode := b.portMode i.val, table := (b.portMode i.val).table } }
      .next (s.schedG (roundUp b.gtc Config.period) [0] .bell)
  | _ => .next s

/-! ### The management port (R239, R393, R400, R403, R409) -/

/-- Work that the prefect holds between images, and when it falls back at its journal entry (R357, R359); `who` goes with it
while it is held. -/
def State.classifyFor (s : State) (who : Meta) (f : State → State) : State :=
  if s.holds 0 then s.laterFor who 0
  else
    let t := f s
    if t.holds 0 then t.laterFor who 0 else t
def State.classify (s : State) (f : State → State) : State := s.classifyFor s.cur.who f

/-- Who marks a management request that came within a session, among the work that the prefect holds. -/
def accepted : Meta := { Meta.none with issue := 3 }

/-- A command of the management port: taken only within a session under the operator key (R403), and held while the
prefect holds its work, whether or not the session lasts until the prefect serves again (R359) (DEDUCED, log entry 44). -/
def State.manage (s : State) (f : State → State) : State :=
  if s.session ∨ s.cur.who = accepted then s.classifyFor accepted f else s

/-- A tenant with no channel group and no key. Its dump area takes the largest report card there is where the parking area has
room for it; else the office chooses the length. The office chooses the place (R351) (DEDUCED, log entry 38). -/
def State.newTenant (s : State) (t : Nat) : State :=
  let (k, s) := s.drawNat
  let len := if (gapsIn s.parkSpans parkSize 64 (cardSize 384)).isEmpty then 64 * (k % (parkSize / 64 + 1)) else cardSize 384
  let (at_, s) := s.parkPlace len
  { s with tenants := s.tenants ++ [{ num := t, groups := [], keys := [], dump := parkAddr (at_.getD 0),
                                      dumpLen := if at_.isSome then len else 0 }] }

/-- CREATE_TENANT. -/
def execCreateTenant (s : State) : Outcome := match s.cur.work with
  | .createTenant t => .next (s.manage fun s => if s.tenants.any fun x => x.num == t then s else s.stated .prefect .tenant (·.newTenant t))
  | _ => .next s

/-- The function through which the host makes an access. -/
def Work.hostFn : Work → Option Nat
  | .submissionGo fn _ | .evtailWrite fn _ | .pigeonholePageWrite fn _ _ _ | .deviceWindowRead fn _ _
  | .deviceWindowWrite fn _ _ | .hostRegisterWrite fn _ _ => some fn
  | _ => none

/-- Whether a function has work of its tenant under way: a launch not yet settled, a device-memory access, or an access that
waits. -/
def State.fnInUse (s : State) (fn : Nat) : Bool :=
  s.launches.any (fun l => l.fn == fn && !l.state.settled) || s.openUnits.any (fun a => a.fn == fn) ||
    s.hostQueue.any fun w => w.hostFn == some fn

/-- A function for a new tenant: nothing of the tenant it had, but for the counts of its event entries, which run on from boot
(R395). -/
def Func.reassign (f : Func) (t : Nat) : Func :=
  { Func.reset with tenant := some t, evhead := f.evhead, evtail := f.evtail, evlost := f.evlost }

/-- ASSIGN_FUNCTION: a virtual function goes to one tenant, with nothing of the tenant it had before; PF0 is the office's
(R393, R394). A function whose work is under way keeps its tenant (DEDUCED, log entry 44). -/
def execAssignFunction (s : State) : Outcome := match s.cur.work with
  | .assignFunction fn t => .next (s.manage fun s =>
      if fn = 0 ∨ (s.fn fn).tenant = some t ∨ s.fnInUse fn then s
      else s.stated .prefect .function (·.modFn fn (·.reassign t)))
  | _ => .next s

/-- Whether an entry of a host map covers what R400 lets it cover (DEDUCED, log entry 44). -/
def State.mapOk (s : State) (fn i : Nat) (e : MapEntry) : Bool :=
  match (s.fn fn).tenant.bind fun t => s.tenants.find? fun x => x.num == t with
  | none => false
  | some t =>
    decide (e.off + e.len ≤ barSize) &&
    if i = 15 then e.phys == t.dump && !e.wr && decide (e.len ≤ t.dumpLen)
    else decide (i < 15) && e.off % 64 == e.phys % 64 && decide (e.phys / 2 ^ 34 = (e.phys + e.len - 1) / 2 ^ 34) &&
      t.groups.contains (groupOf e.phys) &&
      decide (Config.rowBase ≤ rowOf e.phys) && decide (e.phys + e.len ≤ 2 ^ 39)

/-- SET_HOST_MAP: an entry of a function's host map. -/
def execSetHostMap (s : State) : Outcome := match s.cur.work with
  | .setHostMap fn i e => .next (s.manage fun s =>
      if s.mapOk fn i e then s.stated .prefect .hostMap
        (·.modFn fn fun f => { f with map := (f.map.filter fun x => x.1 != i) ++ [(i, e)] }) else s)
  | _ => .next s

/-- Whether a launch that runs has a region entry naming a key slot (R239). -/
def State.keyFixed (s : State) (t slot : Nat) : Bool := s.parts.any fun q =>
  q.tenant == t && q.regions.any fun e => regionField e 127 127 == 1 && regionField e 113 108 == slot

/-- PROVISION_KEY_SLOT: a key in a tenant's slot, which stays while a running launch names the slot. -/
def execProvisionKeySlot (s : State) : Outcome := match s.cur.work with
  | .provisionKeySlot t slot key => .next (s.manage fun s =>
      if 64 ≤ slot ∨ s.keyFixed t slot then s
      else s.stated .prefect .keySlot fun s => { s with tenants := s.tenants.map fun x =>
        if x.num = t then { x with keys := (x.keys.filter fun k => k.1 != slot) ++ [(slot, key)] } else x })
  | _ => .next s

/-- A function's host map without the entries on groups that its tenant no longer has (R400). -/
def Func.confine (f : Func) (t : Nat) (gs : List Nat) : Func :=
  if f.tenant = some t then { f with map := f.map.filter fun e => e.1 == 15 || gs.contains (groupOf e.2.phys) } else f

/-- ASSIGN_CHANNEL_GROUPS: the set of channel groups that a tenant's partitions may take. -/
def execAssignChannelGroups (s : State) : Outcome := match s.cur.work with
  | .assignChannelGroups t gs => .next (s.manage fun s => s.stated .prefect .channelGroups fun s =>
      { s with tenants := s.tenants.map (fun x =>
                 if x.num = t then { x with groups := dedup (· == ·) (gs.filter fun g => decide (g < 32)) } else x),
               fns := s.fns.map fun f => f.confine t gs })
  | _ => .next s

/-- The telemetry registers: TSTACK0 to 7, then TDIE0 to 3 (R268, R405). -/
def State.telemetry (s : State) : List Word := (s.hbm.toList.map (·.tstack)) ++ s.dies.toList.map (·.tdie)

/-- READ_TELEMETRY: the operator reads TSTACK0 to 7 and TDIE0 to 3 within a session; the baseboard reads the input power, the
coolant temperature, and TSTACK and TDIE over I3C at any time (R268, R403, R405) (DEDUCED, log entry 44). -/
def execReadTelemetry (s : State) : Outcome := match s.cur.work with
  | .readTelemetry true => .next (s.reply (.telemetry ([s.inputPower, s.coolant] ++ s.telemetry)))
  | .readTelemetry false => .next (s.manage fun s =>
      s.reply (.telemetry s.telemetry))
  | _ => .next s

/-- READ_FLASH_LOG. -/
def execReadFlashLog (s : State) : Outcome := match s.cur.work with
  | .readFlashLog => .next (s.manage fun s => s.reply (.flash s.flash))
  | _ => .next s

/-- SET_IDE_KEYS: the keys of the host link. -/
def execSetIdeKeys (s : State) : Outcome := match s.cur.work with
  | .setIdeKeys k => .next (s.manage fun s => s.stated .prefect .linkKeys fun s => { s with ideKeys := k })
  | _ => .next s

/-! ### Temperature and power (R268, R269, R404, R405) -/

/-- The band that a temperature reaches. -/
def stackBand (t : Nat) : Nat :=
  if stackThreshold 3 ≤ t then 3 else if stackThreshold 2 ≤ t then 2 else if stackThreshold 1 ≤ t then 1 else 0
def dieBand (t : Nat) : Nat := if dieThreshold 3 ≤ t then 3 else if dieThreshold 2 ≤ t then 2 else 0

/-- A telemetry word under a new temperature: its band rises at once, and falls only at a bell. -/
def heat (w : Word) (tmax band : Nat) : Word :=
  withBand (BitVec.ofNat 32 (w.toNat - tmaxOf w + tmax % 2 ^ 11)) (max (bandOf w) band)

/-- DUTY, when the office writes it; 0 reads as 1 (R268, R405). -/
def setDuty (duty : Option Nat) (w : Word) : Word := match duty with
  | none => w
  | some d => BitVec.ofNat 32 (w.toNat - field w.toNat 15 13 * 2 ^ 13 + max 1 (d % 8) * 2 ^ 13)

/-- The first aligned group of 8 periods whose first bell lies at least a period ahead. -/
def State.nextGroup (s : State) : Nat := roundUp ((s.gtc + Config.period + Config.period - 1) / Config.period) 8

/-- Power goes, and the event stands in the flash log. -/
def State.shutDown (s : State) (e : FlashEntry) : State := { s with on := false, flash := s.flash ++ [e] }

/-- STACK_BAND_CHANGE: TSTACK takes a temperature, and what the office writes to DUTY (R268). -/
def execStackBandChange (s : State) : Outcome := match s.cur.work with
  | .stackBandChange i tmax duty =>
    let w := s.tstackOf i
    let w' := setDuty duty (heat w tmax (stackBand tmax))
    let s := if duty.isSome then s.journal .prefect .duty else s
    let k := s.hbm[i]?.getD Stack.reset
    let s := { s with hbm := s.hbm.setIfInBounds i { k with tstack := w' } }
    let s := if bandOf w' = bandOf w then s else s.reply .bandChange
    let s := if bandOf w < 2 ∧ 2 ≤ bandOf w' then s.orderDuty s.nextGroup [i] [] else s
    .next (if bandOf w' = 3 then s.shutDown (.catastrophic i tmax) else s)
  | _ => .next s

/-- DIE_BAND_CHANGE: TDIE takes a temperature, and what the office writes to DUTY (R405). -/
def execDieBandChange (s : State) : Outcome := match s.cur.work with
  | .dieBandChange d tmax duty =>
    let w := (s.die d).tdie
    let w' := setDuty duty (heat w tmax (dieBand tmax))
    let s := if duty.isSome then s.journal .prefect .duty else s
    let s := s.modDie d fun x => { x with tdie := w' }
    let s := if bandOf w' = bandOf w then s else s.reply .bandChange
    let s := if bandOf w < 2 ∧ 2 ≤ bandOf w' then s.orderDuty s.nextGroup [] [d] else s
    .next (if bandOf w' = 3 then s.shutDown (.catastrophic (8 + d) tmax) else s)
  | _ => .next s

/-- UNDERVOLTAGE: the event is logged and the package shuts down. -/
def execUndervoltage (s : State) : Outcome := match s.cur.work with
  | .undervoltage => .next (s.shutDown .undervoltage)
  | _ => .next s

/-! ### Lasting units (R267, R389, R390, R408) -/

/-- ERROR_LASTING: the unit is withdrawn; the groups of a lasting port fail. -/
def execErrorLasting (s : State) : Outcome := match s.cur.work with
  | .errorLasting u => .next (s.classify fun s =>
      if s.lasting.contains u then s
      else s.stated .prefect .lasting fun s =>
        let s := { s with lasting := s.lasting ++ [u] }
        match u with
        | .port p =>
          let hit (q : Part) : Bool := q.group.isSome && (s.port p).table.any fun r => r.of q.group
          { s with parts := s.parts.map fun q =>
              if hit q then { q with mustFail := true, order := some (q.order.getD .fault) } else q }
        | _ => s)
  | _ => .next s

/-! ### Cores (R23, R24, R329) -/

/-- Whether a core belongs to an admitted launch (R329). -/
def State.launched (s : State) (c : Nat) : Bool := s.parts.any fun q => q.parked.isNone && q.cores.contains c

/-- CORE_RESET: the core is idle, its registers at their reset values, its loop buffer empty; the prefect orders it only for
a core of no admitted launch (R329) (DEDUCED, log entry 45). -/
def execCoreReset (s : State) : Outcome := match s.cur.work with
  | .coreReset c =>
    if s.launched c then .next s
    else .next ((s.journal .prefect .coreReset).modCore c fun k => { k.release with wasReset := true })
  | _ => .next s

/-- CORE_GATING: an idle core is gated, and a gated one ungated to idle. -/
def execCoreGating (s : State) : Outcome := match s.cur.work with
  | .coreGating c gate => .next ((s.journal .prefect .coreGating).modCtx c fun x =>
      if gate then (if x.life = .idle then { x with life := .gated } else x)
      else if x.life = .gated then { x with life := .idle } else x)
  | _ => .next s

end Sys2Proof.Machine
end

