-- ==== Sys2Proof/Machine/HostPort.lean ====
section
/-! DEFINITION. The host attachment: the control window, submissions, pigeonhole pages, the device-memory window, and
launches across packages (12 R253 to R255, 23 R394 to R401, R411). -/
namespace Sys2Proof.Machine

/-! ### The order of the host's writes (R254, R397) -/

/-- Whether device-memory writes of the host, of one function or of any, are still to perform. -/
def State.writing (s : State) (fn : Option Nat) : Bool := s.openUnits.any fun a =>
  a.use == .host && a.write && fn.all fun f => f == a.fn

/-- Whether an access waits in the present cycle: a GO write for its function's device-memory writes, a pigeonhole write for
every one of the host's, and every write while the window has applied another in this cycle. -/
def State.hostWaits (s : State) : Work → Bool
  | .deviceWindowRead .. => false
  | .submissionGo fn _ => s.applied == some s.gtc || s.writing (some fn)
  | .pigeonholePageWrite .. => s.applied == some s.gtc || s.writing none
  | .hostRegisterWrite fn off v => s.applied == some s.gtc ||
      (if off = 0xC ∧ v.getLsbD 31 then s.writing (some fn) else decide (0x10000 ≤ off) && s.writing none)
  | _ => s.applied == some s.gtc

/-- Who marks the turn of the access that waits longest among the pending steps. -/
def hostTurn : Meta := { Meta.none with issue := 2 }

/-- The access that waits longest is tried in the next cycle. -/
def State.hostNext (s : State) : State := match s.hostQueue with
  | [] => s
  | w :: _ => { s with due := s.due ++ [{ clock := none, due := s.gtc + 1, key := [1], who := hostTurn, what := w }] }

/-- The window applies an access; it applies one write in a cycle. -/
def State.applying (s : State) : State := match s.cur.work with
  | .deviceWindowRead .. => s
  | _ => { s with applied := some s.gtc }

/-- An access of the host is applied in its order, or waits; in recovery mode the host port does not answer (R402). A read
keeps its place among the writes (DEDUCED, log entry 44). -/
def State.inOrder (s : State) (f : State → State) : State :=
  let w := s.cur.work
  if s.recovery then s
  else if s.cur.who = hostTurn then
    (if s.hostWaits w then s else f { s with hostQueue := s.hostQueue.drop 1 }.applying).hostNext
  else if ¬ s.hostQueue.isEmpty then { s with hostQueue := s.hostQueue ++ [w] }
  else if s.hostWaits w then { s with hostQueue := [w] }.hostNext
  else f s.applying

/-! ### Submission (R396, R397) -/

/-- A GO write: refused for its fields, or a launch whose image is to be read from the next bell on
(DEDUCED, log entry 36). -/
def State.submit (s : State) (fn : Nat) (v : Word) : State :=
  match (s.fn fn).tenant with
  | none => s
  | some t =>
    let f := s.fn fn
    let sub := s.subCount + 1
    let members := field v.toNat 21 12
    let bad : Bool := decide (field v.toNat 30 22 ≠ 0 ∨ f.sublo.toNat % 64 ≠ 0 ∨ members = 1 ∨ 512 < members)
    let l : Launch :=
      { sub := sub, fn := fn, tenant := t, image := f.sublo.toNat + 2 ^ 32 * f.subhi.toNat, len := f.sublen.toNat,
        group := field v.toNat 11 0, members := members, state := .reading, syl := none, level := 0, preds := [], ahead := [],
        malformed := bad, asked := false, got := [], joined := 0, headSince := none, admitted := 0 }
    let s := { s with subCount := sub, launches := s.launches ++ [l] }.modFn fn fun f => { f with subctl := v, seq := sub % 2 ^ 16 }
    if bad ∧ ¬ s.holds 1 then s.refuse l 1 else s

/-- SUBMISSION_GO. -/
def execSubmissionGo (s : State) : Outcome := match s.cur.work with
  | .submissionGo fn v => .next (s.inOrder (·.submit fn v))
  | _ => .next s

/-- EVTAIL: a write that would place it ahead of EVHEAD is discarded: one of the 2^31 - 1 values that follow EVHEAD, modulo
2^32 (R395) (DEDUCED, log entry 44). -/
def State.setTail (s : State) (fn : Nat) (v : Word) : State := s.modFn fn fun f =>
  if (f.evhead + 2 ^ 32 - v.toNat) % 2 ^ 32 ≤ 2 ^ 31 then { f with evtail := v.toNat } else f

/-- EVTAIL_WRITE. -/
def execEvtailWrite (s : State) : Outcome := match s.cur.work with
  | .evtailWrite fn v => .next (s.inOrder (·.setTail fn v))
  | _ => .next s

/-- A write in a pigeonhole page: the live word of 0 to 63 in a partition of the function's tenant (R399). -/
def State.pageWrite (s : State) (fn p n : Nat) (v : Word) : State := match s.part p with
  | some q => if n < 64 ∧ (s.fn fn).tenant = some q.tenant then
      s.modPart p fun q => { q with pigLive := q.pigLive.setIfInBounds n v } else s
  | none => s

/-- PIGEONHOLE_PAGE_WRITE: after every earlier device-memory write of the host has performed. -/
def execPigeonholePageWrite (s : State) : Outcome := match s.cur.work with
  | .pigeonholePageWrite fn p n v => .next (s.inOrder (·.pageWrite fn p n v))
  | _ => .next s

/-- A write of a word of the control window. -/
def State.windowWrite (s : State) (fn off : Nat) (v : Word) : State :=
  if off = 0x0 then s.modFn fn fun f => { f with sublo := v }
  else if off = 0x4 then s.modFn fn fun f => { f with subhi := v }
  else if off = 0x8 then s.modFn fn fun f => { f with sublen := v }
  else if off = 0xC then (if v.getLsbD 31 then s.submit fn v else s.modFn fn fun f => { f with subctl := v })
  else if off = 0x20 then s.setTail fn v
  else if 0x10200 ≤ off ∧ off < 0x10000 + 512 * 97 ∧ off % 4 = 0 then
    s.pageWrite fn ((off - 0x10000) / 512) (off % 512 / 4) v
  else s

/-- HOST_REGISTER_WRITE: a word of the control window; one that nothing assigns is discarded (R394, R395). -/
def execHostRegisterWrite (s : State) : Outcome := match s.cur.work with
  | .hostRegisterWrite fn off v => .next (s.inOrder (·.windowWrite fn off v))
  | _ => .next s

/-! ### What the control window reads (R395, R399, R411) -/

/-- A byte of a function's host-map listing. -/
def Func.listing (f : Func) (o : Nat) : Byte := match f.map.find? fun e => e.1 == o / 32 with
  | none => 0
  | some (_, e) =>
    (le 8 e.off ++ le 8 e.phys ++ le 8 e.len ++ le 1 e.key ++ le 1 ((b2w e.rd).toNat + 2 * (b2w e.wr).toNat) ++ le 6 0).getD (o % 32) 0

/-- A word of a placement page, as the registrar last wrote it. -/
def Part.placement (q : Part) (n : Nat) : Word :=
  if n = 0 then BitVec.ofNat 32 (4 * q.shown.length * 2 ^ 16 + q.groups.length * 2 ^ 8 + q.shownVar % 4)
  else if n = 1 then BitVec.ofNat 32 q.sub
  else if n < 34 then match q.groups[n - 2]? with
    | some g => BitVec.ofNat 32 g
    | none => 0xFFFFFFFF
  else if n < 58 then BitVec.ofNat 32 (leNat ((List.range 4).map fun i => match q.shown[4 * (n - 34) + i]? with
    | some k => BitVec.ofNat 8 (k / 24 * 32 + k % 24)
    | none => 0xFF))
  else if n < 62 then match q.shownOffsets[n - 58]? with
    | some o => BitVec.ofNat 32 o
    | none => 0xFFFFFFFF
  else 0

/-- The partition whose page a function may see. -/
def State.pageOf (s : State) (fn p : Nat) : Option Part :=
  (s.part p).filter fun q => (s.fn fn).tenant == some q.tenant

/-- A word of a function's control window, as the host reads it. -/
def State.windowRead (s : State) (fn off : Nat) : Word :=
  let f := s.fn fn
  if off = 0x0 then f.sublo
  else if off = 0x4 then f.subhi
  else if off = 0x8 then f.sublen
  else if off = 0xC then BitVec.ofNat 32 f.seq
  else if off = 0x10 then BitVec.ofNat 32 f.evhead
  else if off = 0x14 then BitVec.ofNat 32 f.evlost
  else if off = 0x18 then s.offev
  else if off = 0x1C then b2w s.ready
  else if off = 0x20 then BitVec.ofNat 32 f.evtail
  else if 0x100 ≤ off ∧ off < 0x300 then BitVec.ofNat 32 (leNat ((List.range 4).map fun i => f.listing (off - 0x100 + i)))
  else if 0x2000 ≤ off ∧ off < 0x2800 then
    let e := f.ring[(off - 0x2000) / 8]?.getD (0, 0)
    if off / 4 % 2 = 0 then e.1 else e.2
  else if 0x10200 ≤ off ∧ off < 0x10000 + 512 * 97 then match s.pageOf fn ((off - 0x10000) / 512) with
    | some q => q.pigLatched[off % 512 / 4]?.getD 0
    | none => 0
  else if 0x20200 ≤ off ∧ off < 0x20000 + 512 * 97 then match s.pageOf fn ((off - 0x20000) / 512) with
    | some q => q.placement (off % 512 / 4)
    | none => 0
  else 0

/-- What a read of the control window answers: nothing in recovery mode (R402). -/
def State.hostRead (s : State) (fn off : Nat) : Option Word := if s.recovery then none else some (s.windowRead fn off)

/-! ### The device-memory window (R265, R267, R400) -/

/-- The pieces of an access, each in one entry and one unit, with the places and entries that they map to; none when a byte
is unmapped. -/
def Func.cover (f : Func) : Nat → Nat → List Byte → Option (List (List Byte × Nat × MapEntry))
  | _, _, [] => some []
  | 0, _, _ => none
  | n + 1, off, bs => match f.piece off bs.length with
    | none => none
    | some (k, phys, e) => if k = 0 then none else (f.cover n (off + k) (bs.drop k)).map ((bs.take k, phys, e) :: ·)

/-- The pieces of a window access of a function. -/
def State.mapPieces (s : State) (fn off : Nat) (bs : List Byte) : Option (List (List Byte × Nat × MapEntry)) :=
  (s.fn fn).cover bs.length off bs

/-- A piece of an access joins the host's units, to be served in an open slot. -/
def State.openPiece (s : State) (fn : Nat) (write : Bool) (x : List Byte × Nat × MapEntry) : State :=
  s.present { fn := fn, seq := 0, use := .host, write := write, phys := x.2.1 / 64 * 64, first := x.2.1 % 64, data := x.1,
              key := x.2.2.key, tenant := (s.fn fn).tenant.getD 0, slot := none }

/-- A read of the device-memory window. -/
def State.deviceRead (s : State) (fn off len : Nat) : State := match s.mapPieces fn off (List.replicate len 0) with
  | none => s.reply (.unsupported fn)
  | some ps => if ps.all fun x => x.2.2.rd then ps.foldl (fun s x => s.openPiece fn false x) s else s.reply (.unsupported fn)

/-- A write of the device-memory window: one to a read-only entry is discarded and logged. -/
def State.deviceWrite (s : State) (fn off : Nat) (data : List Byte) : State := match s.mapPieces fn off data with
  | none => s.reply (.unsupported fn)
  | some ps =>
    if ps.all fun x => x.2.2.wr then ps.foldl (fun s x => s.openPiece fn true x) s
    else s.modFn fn fun f => { f with aer := f.aer + 1 }

/-- DEVICE_WINDOW_READ. -/
def execDeviceWindowRead (s : State) : Outcome := match s.cur.work with
  | .deviceWindowRead fn off len => .next (s.inOrder (·.deviceRead fn off len))
  | _ => .next s

/-- DEVICE_WINDOW_WRITE. -/
def execDeviceWindowWrite (s : State) : Outcome := match s.cur.work with
  | .deviceWindowWrite fn off data => .next (s.inOrder (·.deviceWrite fn off data))
  | _ => .next s

/-! ### Launches across packages (R401) -/

/-- The start bell that the registrars choose: a bell at least two periods after the agreement. An agreement that a hold has
kept until less is left is made again, for the first such bell (R359, R401) (DEDUCED, log entry 44). -/
def State.bellAgreed (s : State) (bell : Nat) : Nat := roundUp (max bell (s.gtc + 2 * Config.period)) Config.period

/-- A member of a link group is admitted at the agreed bell, when it is ready, in the lowest variant that fits and whose slots
its neighbours claim on the facing ports (R380); a service that holds its work holds the agreement. -/
def State.admitMember (s : State) (l : Launch) (bell : Nat) (facing : List (Nat × Nat × Nat)) : State :=
  match s.fittingIf s.avail l (·.faced facing) with
  | none => s
  | some (vn, v) =>
    let t := s.admitAt l vn v bell
    if ¬ v.links.isEmpty ∧ t.holds 2 then t.later 2 else t.orLater

/-- A member is refused, or fails, with its group. -/
def State.loseMember (s : State) (l : Launch) : State :=
  if l.state = .admitted then
    s.stated .registrar .course fun s => { s with parts := s.parts.map fun q =>
        if q.sub = l.sub then { q with mustFail := true, order := some (q.order.getD .fault) } else q }
  else s.refuse l 6

/-- GROUP_AGREEMENT: the registrars agree on a start bell, at which this package's member starts, with what the neighbours'
members claim on the facing ports (DEDUCED, log entry 44); or another member was refused or has failed, and this one is
refused or fails with it. -/
def execGroupAgreement (s : State) : Outcome := match s.cur.work with
  | .groupAgreement g bell ok facing =>
    let mine := s.launches.filter fun l => l.link == some g && !l.state.settled
    if s.holds 1 then .next (s.later 1)
    else if ¬ ok then .next (mine.foldl State.loseMember s).orLater
    else match mine.find? s.isReady with
      | some l => .next (s.admitMember l (s.bellAgreed bell) facing)
      | none => .next s
  | _ => .next s

end Sys2Proof.Machine
end

