-- ==== Sys2Proof/Machine/Dispatch.lean ====
section
/-! DEFINITION. The dispatch: one arm for each row of the opcode table. -/
namespace Sys2Proof.Machine

def exec (i : Instr) (s : State) : Host.Outcome State Fault Refusal :=
  match i with
  | .nop => Sys2Proof.Machine.execNop s
  | .add f => Sys2Proof.Machine.execAdd f s
  | .sub f => Sys2Proof.Machine.execSub f s
  | .and f => Sys2Proof.Machine.execAnd f s
  | .or f => Sys2Proof.Machine.execOr f s
  | .xor f => Sys2Proof.Machine.execXor f s
  | .shl f => Sys2Proof.Machine.execShl f s
  | .shr f => Sys2Proof.Machine.execShr f s
  | .sar f => Sys2Proof.Machine.execSar f s
  | .min f => Sys2Proof.Machine.execMin f s
  | .max f => Sys2Proof.Machine.execMax f s
  | .minu f => Sys2Proof.Machine.execMinu f s
  | .maxu f => Sys2Proof.Machine.execMaxu f s
  | .clz f => Sys2Proof.Machine.execClz f s
  | .popc f => Sys2Proof.Machine.execPopc f s
  | .sel f => Sys2Proof.Machine.execSel f s
  | .mul f => Sys2Proof.Machine.execMul f s
  | .mulh f => Sys2Proof.Machine.execMulh f s
  | .mulhu f => Sys2Proof.Machine.execMulhu f s
  | .div f => Sys2Proof.Machine.execDiv f s
  | .divu f => Sys2Proof.Machine.execDivu f s
  | .rem f => Sys2Proof.Machine.execRem f s
  | .remu f => Sys2Proof.Machine.execRemu f s
  | .addi f => Sys2Proof.Machine.execAddi f s
  | .andi f => Sys2Proof.Machine.execAndi f s
  | .ori f => Sys2Proof.Machine.execOri f s
  | .xori f => Sys2Proof.Machine.execXori f s
  | .shli f => Sys2Proof.Machine.execShli f s
  | .shri f => Sys2Proof.Machine.execShri f s
  | .sari f => Sys2Proof.Machine.execSari f s
  | .lui f => Sys2Proof.Machine.execLui f s
  | .cmpiEq f => Sys2Proof.Machine.execCmpiEq f s
  | .cmpiNe f => Sys2Proof.Machine.execCmpiNe f s
  | .cmpiLt f => Sys2Proof.Machine.execCmpiLt f s
  | .cmpiGe f => Sys2Proof.Machine.execCmpiGe f s
  | .cmpiLtu f => Sys2Proof.Machine.execCmpiLtu f s
  | .cmpiGeu f => Sys2Proof.Machine.execCmpiGeu f s
  | .cmpEq f => Sys2Proof.Machine.execCmpEq f s
  | .cmpNe f => Sys2Proof.Machine.execCmpNe f s
  | .cmpLt f => Sys2Proof.Machine.execCmpLt f s
  | .cmpGe f => Sys2Proof.Machine.execCmpGe f s
  | .cmpLtu f => Sys2Proof.Machine.execCmpLtu f s
  | .cmpGeu f => Sys2Proof.Machine.execCmpGeu f s
  | .gand f => Sys2Proof.Machine.execGand f s
  | .gor f => Sys2Proof.Machine.execGor f s
  | .gxor f => Sys2Proof.Machine.execGxor f s
  | .gtos f => Sys2Proof.Machine.execGtos f s
  | .stog f => Sys2Proof.Machine.execStog f s
  | .br f => Sys2Proof.Machine.execBr f s
  | .call f => Sys2Proof.Machine.execCall f s
  | .ret f => Sys2Proof.Machine.execRet f s
  | .segj f => Sys2Proof.Machine.execSegj f s
  | .loop f => Sys2Proof.Machine.execLoop f s
  | .loopi f => Sys2Proof.Machine.execLoopi f s
  | .rdsr f => Sys2Proof.Machine.execRdsr f s
  | .wrsr f => Sys2Proof.Machine.execWrsr f s
  | .pgrd f => Sys2Proof.Machine.execPgrd f s
  | .pgwr f => Sys2Proof.Machine.execPgwr f s
  | .trap f => Sys2Proof.Machine.execTrap f s
  | .endI f => Sys2Proof.Machine.execEndI f s
  | .trd f => Sys2Proof.Machine.execTrd f s
  | .twait f => Sys2Proof.Machine.execTwait f s
  | .tchk f => Sys2Proof.Machine.execTchk f s
  | .solo f => Sys2Proof.Machine.execSolo f s
  | .binit f => Sys2Proof.Machine.execBinit f s
  | .barr f => Sys2Proof.Machine.execBarr f s
  | .bchk f => Sys2Proof.Machine.execBchk f s
  | .spawn f => Sys2Proof.Machine.execSpawn f s
  | .acqsW f => Sys2Proof.Machine.execAcqsW f s
  | .acqsR f => Sys2Proof.Machine.execAcqsR f s
  | .relsW f => Sys2Proof.Machine.execRelsW f s
  | .relsR f => Sys2Proof.Machine.execRelsR f s
  | .ckpt f => Sys2Proof.Machine.execCkpt f s
  | .fsyn f => Sys2Proof.Machine.execFsyn f s
  | .plil f => Sys2Proof.Machine.execPlil f s
  | .plih f => Sys2Proof.Machine.execPlih f s
  | .padd f => Sys2Proof.Machine.execPadd f s
  | .paddi f => Sys2Proof.Machine.execPaddi f s
  | .pmov f => Sys2Proof.Machine.execPmov f s
  | .ldw f => Sys2Proof.Machine.execLdw f s
  | .ldr f => Sys2Proof.Machine.execLdr f s
  | .ldh f => Sys2Proof.Machine.execLdh f s
  | .ldv f => Sys2Proof.Machine.execLdv f s
  | .stw f => Sys2Proof.Machine.execStw f s
  | .str f => Sys2Proof.Machine.execStr f s
  | .sth f => Sys2Proof.Machine.execSth f s
  | .stv f => Sys2Proof.Machine.execStv f s
  | .ldq f => Sys2Proof.Machine.execLdq f s
  | .ldt f => Sys2Proof.Machine.execLdt f s
  | .stnt f => Sys2Proof.Machine.execStnt f s
  | .drain f => Sys2Proof.Machine.execDrain f s
  | .ldg f => Sys2Proof.Machine.execLdg f s
  | .stg f => Sys2Proof.Machine.execStg f s
  | .stg16 f => Sys2Proof.Machine.execStg16 f s
  | .amoAdd f => Sys2Proof.Machine.execAmoAdd f s
  | .amoMin f => Sys2Proof.Machine.execAmoMin f s
  | .amoMax f => Sys2Proof.Machine.execAmoMax f s
  | .amoSwap f => Sys2Proof.Machine.execAmoSwap f s
  | .amoCas f => Sys2Proof.Machine.execAmoCas f s
  | .agset f => Sys2Proof.Machine.execAgset f s
  | .agadv f => Sys2Proof.Machine.execAgadv f s
  | .lda f => Sys2Proof.Machine.execLda f s
  | .sta f => Sys2Proof.Machine.execSta f s
  | .fadd f => Sys2Proof.Machine.execFadd f s
  | .fsub f => Sys2Proof.Machine.execFsub f s
  | .fmul f => Sys2Proof.Machine.execFmul f s
  | .fmin f => Sys2Proof.Machine.execFmin f s
  | .fmax f => Sys2Proof.Machine.execFmax f s
  | .fabs f => Sys2Proof.Machine.execFabs f s
  | .fneg f => Sys2Proof.Machine.execFneg f s
  | .fcps f => Sys2Proof.Machine.execFcps f s
  | .fcmpEq f => Sys2Proof.Machine.execFcmpEq f s
  | .fcmpNe f => Sys2Proof.Machine.execFcmpNe f s
  | .fcmpLt f => Sys2Proof.Machine.execFcmpLt f s
  | .fcmpLe f => Sys2Proof.Machine.execFcmpLe f s
  | .fcmpUn f => Sys2Proof.Machine.execFcmpUn f s
  | .fclass f => Sys2Proof.Machine.execFclass f s
  | .fsel f => Sys2Proof.Machine.execFsel f s
  | .fma f => Sys2Proof.Machine.execFma f s
  | .fms f => Sys2Proof.Machine.execFms f s
  | .fnma f => Sys2Proof.Machine.execFnma f s
  | .iadd f => Sys2Proof.Machine.execIadd f s
  | .isub f => Sys2Proof.Machine.execIsub f s
  | .imul f => Sys2Proof.Machine.execImul f s
  | .imulh f => Sys2Proof.Machine.execImulh f s
  | .imin f => Sys2Proof.Machine.execImin f s
  | .imax f => Sys2Proof.Machine.execImax f s
  | .iand f => Sys2Proof.Machine.execIand f s
  | .ior f => Sys2Proof.Machine.execIor f s
  | .ixor f => Sys2Proof.Machine.execIxor f s
  | .ishl f => Sys2Proof.Machine.execIshl f s
  | .ishr f => Sys2Proof.Machine.execIshr f s
  | .isar f => Sys2Proof.Machine.execIsar f s
  | .icmpEq f => Sys2Proof.Machine.execIcmpEq f s
  | .icmpNe f => Sys2Proof.Machine.execIcmpNe f s
  | .icmpLt f => Sys2Proof.Machine.execIcmpLt f s
  | .icmpGe f => Sys2Proof.Machine.execIcmpGe f s
  | .icmpLtu f => Sys2Proof.Machine.execIcmpLtu f s
  | .icmpGeu f => Sys2Proof.Machine.execIcmpGeu f s
  | .iaddi f => Sys2Proof.Machine.execIaddi f s
  | .iandi f => Sys2Proof.Machine.execIandi f s
  | .iori f => Sys2Proof.Machine.execIori f s
  | .ixori f => Sys2Proof.Machine.execIxori f s
  | .ishli f => Sys2Proof.Machine.execIshli f s
  | .ishri f => Sys2Proof.Machine.execIshri f s
  | .isari f => Sys2Proof.Machine.execIsari f s
  | .vli f => Sys2Proof.Machine.execVli f s
  | .viota f => Sys2Proof.Machine.execViota f s
  | .vperm f => Sys2Proof.Machine.execVperm f s
  | .vrot f => Sys2Proof.Machine.execVrot f s
  | .vbcastl f => Sys2Proof.Machine.execVbcastl f s
  | .vrsum f => Sys2Proof.Machine.execVrsum f s
  | .vrmax f => Sys2Proof.Machine.execVrmax f s
  | .vrmin f => Sys2Proof.Machine.execVrmin f s
  | .vrsumg f => Sys2Proof.Machine.execVrsumg f s
  | .vstat f => Sys2Proof.Machine.execVstat f s
  | .cvtBf16F32 f => Sys2Proof.Machine.execCvtBf16F32 f s
  | .cvtF32Bf16 f => Sys2Proof.Machine.execCvtF32Bf16 f s
  | .cvtE4m3F32 f => Sys2Proof.Machine.execCvtE4m3F32 f s
  | .cvtF32E4m3 f => Sys2Proof.Machine.execCvtF32E4m3 f s
  | .cvtE5m2F32 f => Sys2Proof.Machine.execCvtE5m2F32 f s
  | .cvtF32E5m2 f => Sys2Proof.Machine.execCvtF32E5m2 f s
  | .cvtI32F32 f => Sys2Proof.Machine.execCvtI32F32 f s
  | .cvtF32I32 f => Sys2Proof.Machine.execCvtF32I32 f s
  | .cvtmx8 f => Sys2Proof.Machine.execCvtmx8 f s
  | .cvtmx4 f => Sys2Proof.Machine.execCvtmx4 f s
  | .unmx f => Sys2Proof.Machine.execUnmx f s
  | .cb4dec f => Sys2Proof.Machine.execCb4dec f s
  | .cb4enc f => Sys2Proof.Machine.execCb4enc f s
  | .exp f => Sys2Proof.Machine.execExp f s
  | .log f => Sys2Proof.Machine.execLog f s
  | .rcp f => Sys2Proof.Machine.execRcp f s
  | .rsq f => Sys2Proof.Machine.execRsq f s
  | .tiel f => Sys2Proof.Machine.execTiel f s
  | .tiev f => Sys2Proof.Machine.execTiev f s
  | .vrng f => Sys2Proof.Machine.execVrng f s
  | .vrngk f => Sys2Proof.Machine.execVrngk f s
  | .vrngc f => Sys2Proof.Machine.execVrngc f s
  | .vskip f => Sys2Proof.Machine.execVskip f s
  | .mand f => Sys2Proof.Machine.execMand f s
  | .mor f => Sys2Proof.Machine.execMor f s
  | .mnot f => Sys2Proof.Machine.execMnot f s
  | .mpop f => Sys2Proof.Machine.execMpop f s
  | .cpy f => Sys2Proof.Machine.execCpy f s
  | .cpyl f => Sys2Proof.Machine.execCpyl f s
  | .cbc f => Sys2Proof.Machine.execCbc f s
  | .cpm f => Sys2Proof.Machine.execCpm f s
  | .qpop f => Sys2Proof.Machine.execQpop f s
  | .qpeek f => Sys2Proof.Machine.execQpeek f s
  | .qpush f => Sys2Proof.Machine.execQpush f s
  | .cpyp f => Sys2Proof.Machine.execCpyp f s
  | .slatch f => Sys2Proof.Machine.execSlatch f s
  | .sswap f => Sys2Proof.Machine.execSswap f s
  | .spush f => Sys2Proof.Machine.execSpush f s
  | .sshift f => Sys2Proof.Machine.execSshift f s
  | .vopa f => Sys2Proof.Machine.execVopa f s
  | .vzero f => Sys2Proof.Machine.execVzero f s
  | .vdrain f => Sys2Proof.Machine.execVdrain f s
  | .svpair f => Sys2Proof.Machine.execSvpair f s
  | .cbld f => Sys2Proof.Machine.execCbld f s
  | .chs f => Sys2Proof.Machine.execChs f s
  | .chb f => Sys2Proof.Machine.execChb f s
  | .chn f => Sys2Proof.Machine.execChn f s
  | .chsv f => Sys2Proof.Machine.execChsv f s
  | .chld f => Sys2Proof.Machine.execChld f s
  | .shp f => Sys2Proof.Machine.execShp f s
  | .tagset f => Sys2Proof.Machine.execTagset f s
  | .xfer f => Sys2Proof.Machine.execXfer f s
  | .xferq f => Sys2Proof.Machine.execXferq f s
  | .xstore f => Sys2Proof.Machine.execXstore f s
  | .tlist f => Sys2Proof.Machine.execTlist f s
  | .xred f => Sys2Proof.Machine.execXred f s
  | .xacc f => Sys2Proof.Machine.execXacc f s
  | .xmc f => Sys2Proof.Machine.execXmc f s
  | .mkcfg f => Sys2Proof.Machine.execMkcfg f s
  | .pptld f => Sys2Proof.Machine.execPptld f s
  | .vbmld f => Sys2Proof.Machine.execVbmld f s
  | .nmc f => Sys2Proof.Machine.execNmc f s
  | .nmfence f => Sys2Proof.Machine.execNmfence f s
  | .lsend f => Sys2Proof.Machine.execLsend f s
  | .lfwd f => Sys2Proof.Machine.execLfwd f s
  | .bundleIssue => Sys2Proof.Machine.execBundleIssue s
  | .segmentExpansion => Sys2Proof.Machine.execSegmentExpansion s
  | .registerWrite => Sys2Proof.Machine.execRegisterWrite s
  | .ldAddressCheck => Sys2Proof.Machine.execLdAddressCheck s
  | .bankAccess => Sys2Proof.Machine.execBankAccess s
  | .queueLoadAppend => Sys2Proof.Machine.execQueueLoadAppend s
  | .queuePushAppend => Sys2Proof.Machine.execQueuePushAppend s
  | .pigeonholeWrite => Sys2Proof.Machine.execPigeonholeWrite s
  | .memorySlot => Sys2Proof.Machine.execMemorySlot s
  | .deviceWritePerform => Sys2Proof.Machine.execDeviceWritePerform s
  | .stntUnitWrite => Sys2Proof.Machine.execStntUnitWrite s
  | .drainCompletion => Sys2Proof.Machine.execDrainCompletion s
  | .openSlotService => Sys2Proof.Machine.execOpenSlotService s
  | .barrierArrival => Sys2Proof.Machine.execBarrierArrival s
  | .deliveryFault => Sys2Proof.Machine.execDeliveryFault s
  | .spawnDelivery => Sys2Proof.Machine.execSpawnDelivery s
  | .stagePerform => Sys2Proof.Machine.execStagePerform s
  | .twaitEnd => Sys2Proof.Machine.execTwaitEnd s
  | .teCommandStart => Sys2Proof.Machine.execTeCommandStart s
  | .engineElementIssue => Sys2Proof.Machine.execEngineElementIssue s
  | .engineElementArrival => Sys2Proof.Machine.execEngineElementArrival s
  | .engineFarWrite => Sys2Proof.Machine.execEngineFarWrite s
  | .tlistEntryRead => Sys2Proof.Machine.execTlistEntryRead s
  | .windowAddition => Sys2Proof.Machine.execWindowAddition s
  | .multicastDelivery => Sys2Proof.Machine.execMulticastDelivery s
  | .configWrite => Sys2Proof.Machine.execConfigWrite s
  | .ancestryReplace => Sys2Proof.Machine.execAncestryReplace s
  | .nmcStart => Sys2Proof.Machine.execNmcStart s
  | .nmBlockRead => Sys2Proof.Machine.execNmBlockRead s
  | .nmBlockWrite => Sys2Proof.Machine.execNmBlockWrite s
  | .nmDataFault => Sys2Proof.Machine.execNmDataFault s
  | .shadowRowWrite => Sys2Proof.Machine.execShadowRowWrite s
  | .planeExchange => Sys2Proof.Machine.execPlaneExchange s
  | .scoreRowAppend => Sys2Proof.Machine.execScoreRowAppend s
  | .accumulatorUpdate => Sys2Proof.Machine.execAccumulatorUpdate s
  | .accumulatorClear => Sys2Proof.Machine.execAccumulatorClear s
  | .drainRowAppend => Sys2Proof.Machine.execDrainRowAppend s
  | .codebookWrite => Sys2Proof.Machine.execCodebookWrite s
  | .chainReset => Sys2Proof.Machine.execChainReset s
  | .chainValueRead => Sys2Proof.Machine.execChainValueRead s
  | .chainUpdate => Sys2Proof.Machine.execChainUpdate s
  | .normalisedRowAppend => Sys2Proof.Machine.execNormalisedRowAppend s
  | .rowStateSaveAppend => Sys2Proof.Machine.execRowStateSaveAppend s
  | .rowStateLoad => Sys2Proof.Machine.execRowStateLoad s
  | .linkSendElement => Sys2Proof.Machine.execLinkSendElement s
  | .linkForwardElement => Sys2Proof.Machine.execLinkForwardElement s
  | .flitSlotPlacement => Sys2Proof.Machine.execFlitSlotPlacement s
  | .flitLanding => Sys2Proof.Machine.execFlitLanding s
  | .elasticOverrun => Sys2Proof.Machine.execElasticOverrun s
  | .groupRecess => Sys2Proof.Machine.execGroupRecess s
  | .bell => Sys2Proof.Machine.execBell s
  | .hangDetected => Sys2Proof.Machine.execHangDetected s
  | .queuePromotion => Sys2Proof.Machine.execQueuePromotion s
  | .partitionStart => Sys2Proof.Machine.execPartitionStart s
  | .submissionCheck => Sys2Proof.Machine.execSubmissionCheck s
  | .launchRetirement => Sys2Proof.Machine.execLaunchRetirement s
  | .rollCallComplete => Sys2Proof.Machine.execRollCallComplete s
  | .launchFailure => Sys2Proof.Machine.execLaunchFailure s
  | .contextMove => Sys2Proof.Machine.execContextMove s
  | .storePark => Sys2Proof.Machine.execStorePark s
  | .stackBandChange => Sys2Proof.Machine.execStackBandChange s
  | .dieBandChange => Sys2Proof.Machine.execDieBandChange s
  | .undervoltage => Sys2Proof.Machine.execUndervoltage s
  | .errorLasting => Sys2Proof.Machine.execErrorLasting s
  | .selfTest => Sys2Proof.Machine.execSelfTest s
  | .coreReset => Sys2Proof.Machine.execCoreReset s
  | .coreGating => Sys2Proof.Machine.execCoreGating s
  | .imageStage => Sys2Proof.Machine.execImageStage s
  | .handoverOrder => Sys2Proof.Machine.execHandoverOrder s
  | .handoverRecordComplete => Sys2Proof.Machine.execHandoverRecordComplete s
  | .quiesceTimeout => Sys2Proof.Machine.execQuiesceTimeout s
  | .heartbeat => Sys2Proof.Machine.execHeartbeat s
  | .heartbeatDeadline => Sys2Proof.Machine.execHeartbeatDeadline s
  | .abandonRequest => Sys2Proof.Machine.execAbandonRequest s
  | .journalAppend => Sys2Proof.Machine.execJournalAppend s
  | .probationCommit => Sys2Proof.Machine.execProbationCommit s
  | .quoteRequest => Sys2Proof.Machine.execQuoteRequest s
  | .submissionGo => Sys2Proof.Machine.execSubmissionGo s
  | .evtailWrite => Sys2Proof.Machine.execEvtailWrite s
  | .pigeonholePageWrite => Sys2Proof.Machine.execPigeonholePageWrite s
  | .deviceWindowRead => Sys2Proof.Machine.execDeviceWindowRead s
  | .deviceWindowWrite => Sys2Proof.Machine.execDeviceWindowWrite s
  | .hostRegisterWrite => Sys2Proof.Machine.execHostRegisterWrite s
  | .groupAgreement => Sys2Proof.Machine.execGroupAgreement s
  | .bringUp => Sys2Proof.Machine.execBringUp s
  | .createTenant => Sys2Proof.Machine.execCreateTenant s
  | .assignFunction => Sys2Proof.Machine.execAssignFunction s
  | .setHostMap => Sys2Proof.Machine.execSetHostMap s
  | .provisionKeySlot => Sys2Proof.Machine.execProvisionKeySlot s
  | .assignChannelGroups => Sys2Proof.Machine.execAssignChannelGroups s
  | .readTelemetry => Sys2Proof.Machine.execReadTelemetry s
  | .readFlashLog => Sys2Proof.Machine.execReadFlashLog s
  | .setIdeKeys => Sys2Proof.Machine.execSetIdeKeys s

end Sys2Proof.Machine
end

