-- ==== Sys2Proof/Machine/Step.lean ====
section
/-! DEFINITION. One step of the package: the next slot of the bundle that issues, or the first pending step of the cycle,
or the end of the cycle (00 R1, 01 R7, 02 R27). -/
namespace Sys2Proof.Machine

/-- The step. A package that has shut down does not run (R268, R404). -/
def step (s : State) : Host.Outcome State Fault Refusal :=
  if s.on then
    match s.cur.todo with
    | slot :: rest => match (s.enterSlot slot rest).fetch with
      | .ok i => exec i (s.enterSlot slot rest)
      | .error _ => .next (s.enterSlot slot rest).illegal
    | [] => match s.firstDue with
      | some x => exec x.what.instr (s.begin_ x)
      | none => .next s.turn
  else .fault .poweredOff

/-- The machine with a word of the opcode table as the next that `step` fetches (log entry 9). -/
def State.withFetchWord (s : State) (nbits w : Nat) : State := s.before (w % 2 ^ (max nbits 32))

end Sys2Proof.Machine
end

