-- ==== Sys2Proof/Safety.lean ====
section
/-! DEFINITION. The terms in which claims are stated: what an instruction leaves pending, when a guard lets it act, when
it meets no fault at its issue, and the canonical form of every memory of the machine. -/
namespace Sys2Proof.Machine

/-! ### What an instruction leaves behind -/

/-- A pending step of the present instruction, on the clock of its partition. -/
def State.pend (s : State) (due : Nat) (key : List Nat) (what : Work) : Timed :=
  { clock := some (s.partOf s.me), due := due, key := key, who := s.cur.who, what := what }

/-- `t` is `s` with steps of the present instruction, each with its cycle, added to those pending, in their order; the
rest of the machine is as it was. Where they fall among the other steps of their cycle is not said. -/
def State.Defers (s t : State) (ws : List (Nat × Work)) : Prop :=
  ∃ keys : List (List Nat), keys.length = ws.length ∧
    t = { s with due := s.due ++ List.zipWith (fun k (w : Nat × Work) => s.pend w.1 k w.2) keys ws }

/-- The present instruction leaves register writes of its own core, each so many cycles after its issue (R13, R14), and
nothing else. -/
def State.Writes (s t : State) (ws : List (Nat × RegWrite)) : Prop :=
  s.Defers t (ws.map fun w => (s.t + w.1, .registerWrite s.me w.2))

/-- A guard field of R11 lets its instruction act: g0 reads true, and the negate bit inverts. -/
def State.Takes (s : State) (g : Nat) (neg : Bool) : Prop := (g = 0 ∨ s.myCtx.g.getLsbD g = true) ↔ neg = false

/-- An instruction meets none of the conditions that fault at its issue (R25, R322). -/
def State.Clear (s : State) (i : Instr) : Prop :=
  s.issueConds s.me s.t s.cur.slot s.myCtx (s.myCtx.word s.cur.slot) i = []

/-- The machine with a pending step as the one being executed. -/
def State.doing (s : State) (w : Work) : State := { s with cur := { s.cur with work := w } }

/-- An instruction answers a next state of which `P` holds. -/
def State.Answers (s : State) (i : Instr) (P : State → Prop) : Prop := ∃ t, exec i s = .next t ∧ P t

/-- A step, of `w`, answers a next state of which `P` holds. -/
def State.Does (s : State) (i : Instr) (w : Work) (P : State → Prop) : Prop := (s.doing w).Answers i P

/-- `t` is `s` with the context of core `c` changed by `f`: every other core, this core's scratchpad, device memory,
the program stores, the partitions, the launches and the pending steps are as they were. -/
def State.Alters (s t : State) (c : Nat) (f : Ctx → Ctx) : Prop :=
  t.ctx c = f (s.ctx c) ∧ (∀ k, k ≠ c → t.core k = s.core k) ∧ (t.core c).spad = (s.core c).spad ∧ t.dram = s.dram ∧
    t.dies = s.dies ∧ t.parts = s.parts ∧ t.launches = s.launches ∧ t.due = s.due ∧ t.gtc = s.gtc

/-- A fault is recorded on a core, at the present cycle, and nothing else happens (R320, R322). -/
def State.Raises (s t : State) (core code src : Nat) (detail : List Word) : Prop :=
  ∃ f : FaultNow, f.code = code ∧ f.rank = s.rankOf core ∧ f.src = src ∧ f.detail = detail ∧
    t = s.modPart (s.partOf core) fun q => { q with faultsNow := q.faultsNow ++ [f] }

/-- A fault is recorded on a core in the present cycle; no register, memory or pending step changes. -/
def State.Records (s t : State) (core code src : Nat) (detail : List Word) : Prop :=
  ∃ f : FaultNow, f.code = code ∧ f.rank = s.rankOf core ∧ f.src = src ∧ f.detail = detail ∧
    t.parts = (s.modPart (s.partOf core) fun q => { q with faultsNow := q.faultsNow ++ [f] }).parts ∧ t.cores = s.cores ∧
    t.dram = s.dram ∧ t.due = s.due

/-- A step of `w` is pending at a cycle of a clock. -/
def State.Later (t : State) (clock : Option Nat) (due : Nat) (w : Work) : Prop :=
  ∃ x ∈ t.due, x.clock = clock ∧ x.due = due ∧ x.what = w

/-- The access table of a core's die port admits the requests of the present core's partition to it (R240). -/
def State.Admits (s : State) (c : Nat) (write : Bool) : Prop :=
  ∃ e ∈ (s.die (c / 96)).access, e.part = s.partOf s.me ∧ (if write then e.wr else e.rd) = true ∧ e.base ≤ c % 96 ∧
    c % 96 ≤ e.limit

/-- Only pending steps come and go: every core, partition, launch and memory is as it was. -/
def State.Same (s t : State) : Prop :=
  t.cores = s.cores ∧ t.parts = s.parts ∧ t.launches = s.launches ∧ t.dram = s.dram ∧ t.dies = s.dies ∧ t.gtc = s.gtc

/-! ### Results of the S slot -/

/-- A guarded three-register instruction writes one word, related to its operands by `P`, into its destination `lat`
cycles after its issue; squashed, it leaves the machine as it is. -/
def State.ScalarResult (s : State) (i : Instr) (f : SR) (lat : Nat) (P : Word → Word → Word → Prop) : Prop :=
  s.Answers i fun t =>
    (s.Takes f.g f.neg → ∃ w, P (s.myCtx.rs f.sa) (s.myCtx.rs f.sb) w ∧ s.Writes t [(lat, .s f.sd w)]) ∧
    (¬ s.Takes f.g f.neg → t = s)

/-- An immediate instruction writes one word, related to its operand by `P`, at t+1, whatever the guards hold. -/
def State.ImmediateResult (s : State) (i : Instr) (sd : Nat) (P : Word → Prop) : Prop :=
  s.Answers i fun t => ∃ w, P w ∧ s.Writes t [(1, .s sd w)]

/-- The write of one guard at t+1: the bit of that guard alone. -/
def guardWrite (n : Nat) (b : Bool) : RegWrite := .g (BitVec.twoPow 8 n) (if b then BitVec.twoPow 8 n else 0)

/-- A guarded compare or guard instruction writes the guard it names with a truth value that `P` allows. -/
def State.GuardResult (s : State) (i : Instr) (f : SR) (b : Bool) : Prop :=
  s.Answers i fun t =>
    (s.Takes f.g f.neg → s.Writes t [(1, guardWrite f.sd b)]) ∧ (¬ s.Takes f.g f.neg → t = s)

/-! ### Results of the vector slots -/

/-- A vector instruction writes the lanes that its mask selects, each related to the lane's number by `P`, and nothing
else; it sets no flag. -/
def State.LaneResult (s : State) (i : Instr) (vd mask lat : Nat) (P : Nat → Word → Prop) : Prop :=
  s.Answers i fun t => ∃ val : Lanes,
    (∀ k, k < 256 → (s.vunit.rm mask).getLsbD k = true → P k (lane val k)) ∧
    s.Writes t [(lat, .v s.vslot vd (laneMask (s.vunit.rm mask)) val)]

/-- The same of every lane, whatever the mask. -/
def State.FullResult (s : State) (i : Instr) (vd lat : Nat) (P : Nat → Word → Prop) : Prop :=
  s.Answers i fun t => ∃ val : Lanes,
    (∀ k, k < 256 → P k (lane val k)) ∧ s.Writes t [(lat, .v s.vslot vd allLanes val)]

/-- A vector instruction writes the selected lanes with the first components of `op`, and sets the flags that the
selected lanes raise, both at `lat`. -/
def State.FlaggedResult (s : State) (i : Instr) (vd mask lat : Nat) (op : Nat → Word × Flags) : Prop :=
  s.Answers i fun t => ∃ (val : Lanes) (fl : Flags),
    (∀ k, k < 256 → (s.vunit.rm mask).getLsbD k = true → lane val k = (op k).1) ∧
    (∀ b, b < 6 → (fl.getLsbD b = true ↔
      ∃ k, k < 256 ∧ (s.vunit.rm mask).getLsbD k = true ∧ (op k).2.getLsbD b = true)) ∧
    s.Writes t [(lat, .v s.vslot vd (laneMask (s.vunit.rm mask)) val), (lat, .flagsSet s.vslot fl)]

/-- A compare writes the selected bits of its target mask at t+2, and sets the flags that the selected lanes raise. -/
def State.CompareResult (s : State) (i : Instr) (vd mask : Nat) (op : Nat → Bool × Flags) : Prop :=
  s.Answers i fun t => ∃ (val : Mask) (fl : Flags),
    (∀ k, k < 256 → (s.vunit.rm mask).getLsbD k = true → val.getLsbD k = (op k).1) ∧
    (∀ b, b < 6 → (fl.getLsbD b = true ↔
      ∃ k, k < 256 ∧ (s.vunit.rm mask).getLsbD k = true ∧ (op k).2.getLsbD b = true)) ∧
    s.Writes t [(2, .vm s.vslot (vd % 8) (s.vunit.rm mask) val), (2, .flagsSet s.vslot fl)]

/-- A packing instruction writes the fields of `w` bits of the elements that its mask selects, element i in field
i mod 32/w of lane i / (32/w), each with what `op` gives it, and sets the flags that the selected elements raise. -/
def State.PackedResult (s : State) (i : Instr) (vd mask lat w : Nat) (op : Nat → Nat × Flags) : Prop :=
  s.Answers i fun t => ∃ (sel val : Lanes) (fl : Flags),
    (∀ l b, l < 256 → b < 32 → (lane sel l).getLsbD b = (s.vunit.rm mask).getLsbD (l * (32 / w) + b / w)) ∧
    (∀ k, k < 256 → (s.vunit.rm mask).getLsbD k = true →
      (lane val (k / (32 / w))).toNat / 2 ^ (w * (k % (32 / w))) % 2 ^ w = (op k).1 % 2 ^ w) ∧
    (∀ b, b < 6 → (fl.getLsbD b = true ↔
      ∃ k, k < 256 ∧ (s.vunit.rm mask).getLsbD k = true ∧ (op k).2.getLsbD b = true)) ∧
    s.Writes t [(lat, .v s.vslot vd sel val), (lat, .flagsSet s.vslot fl)]

/-- The nodes of the pairwise tree of R154 over the lanes `x`: what stands at level L in place m, absent or a word, and
the flags raised in forming it. -/
def treeNode (op : Word → Word → Word × Flags) (x : Nat → Option Word) : Nat → Nat → Option Word × Flags
  | 0, m => (x m, 0)
  | L + 1, m => match treeNode op x L (2 * m), treeNode op x L (2 * m + 1) with
    | (some u, fu), (some v, fv) => (some (op u v).1, fu ||| fv ||| (op u v).2)
    | (some u, fu), (none, fv) => (some u, fu ||| fv)
    | (none, fu), (v, fv) => (v, fu ||| fv)

/-- The exact value of a finite floating-point value. -/
def FV.real : FV → ℚ
  | .fin n m e => (if n then -1 else 1) * (m : ℚ) * (2 : ℚ) ^ e
  | _ => 0

/-- The order of values that are not NaN, with -0 equal to +0 and the infinities at the ends (R130, R132). -/
def FV.Below : FV → FV → Prop
  | .inf n, .inf n' => n = true ∧ n' = false
  | .inf n, _ => n = true
  | _, .inf n => n = false
  | a, b => a.real < b.real

/-- `w`, with its flags, is the exact value `x` rounded once to FP32 (R106, R107; what `fp32.round` gives, the statement
`NearestIsNearest` says); an exact zero is +0, or -0 when `zneg`, without a flag (R127). -/
def Rnd.Rounds (r : Rnd) (x : ℚ) (zneg : Bool) (w : Word × Flags) : Prop :=
  (x = 0 → w = (if zneg then 0x80000000 else 0, 0)) ∧
  (x ≠ 0 → ∃ (m : Nat) (e : Int), (m : ℚ) * (2 : ℚ) ^ e = |x| ∧
    w = (BitVec.ofNat 32 (fp32.round r (decide (x < 0)) m e).1, (fp32.round r (decide (x < 0)) m e).2))

/-- The sign of an exact zero that two terms add to, from the signs of the terms (R127). -/
def zeroSign (r : Rnd) (m n : Bool) : Bool := if m = n then m else decide (r = .rd)

/-! ### The sequencer over several bundles -/

/-- A sequencer after the `n` bundles that issue in the cycles following `t`, none of them transferring control. -/
def Seq.run (q : Seq) (t : Nat) : Nat → Seq
  | 0 => q
  | n + 1 => (Seq.run q t n).advance (t + n + 1)

/-! ### Memories -/

/-- The memories of a core and of the cores whose contexts the office keeps. -/
def Part.memOk (q : Part) : Prop := ∀ ks, q.parked = some ks → ∀ k ∈ ks, k.spad.wf = true

/-- Every memory of the machine is in its canonical form: scratchpads, program stores, device memory, and the
scratchpads of cores given away (R83, R43, R232, R344). -/
def State.MemInv (s : State) : Prop :=
  (∀ c : Fin 384, s.cores[c].spad.wf = true) ∧ (∀ d : Fin 4, s.dies[d].store.wf = true) ∧ s.dram.wf = true ∧
    ∀ q ∈ s.parts, q.memOk

end Sys2Proof.Machine
end

