-- ==== Sys2Proof/Certificates/Slice0/Obligations.lean ====
section
/-! DEFINITION. The statements for the provers: what the instructions and the steps of the machine do, from the numbered
rules of the spec. Where a clause rests on a choice of this model, it names the log entry. -/
open Sys2Proof Sys2Proof.Machine

/-! ### The S slot -/

/-- R62: the three-register integer instructions, in exact arithmetic on the words as numbers, and in bits for the logical
ones; `sx` of a word is `toInt`, `ux` is `toNat`. Guarded, one write of sd at t+1, nothing else changes. Opcodes 0x01 to 0x0E
of format S.R; the function field, and sb of CLZ and POPC, are reserved. -/
def Obligations.IntegerArithmeticAndLogic : Prop := ∀ (s : State) (f : SR),
  s.ScalarResult (.add f) f 1 (fun a b w => w.toNat = (a.toNat + b.toNat) % 2 ^ 32) ∧
  s.ScalarResult (.sub f) f 1 (fun a b w => w.toNat = (a.toNat + (2 ^ 32 - b.toNat)) % 2 ^ 32) ∧
  s.ScalarResult (.and f) f 1 (fun a b w => ∀ i, w.getLsbD i = (a.getLsbD i && b.getLsbD i)) ∧
  s.ScalarResult (.or f) f 1 (fun a b w => ∀ i, w.getLsbD i = (a.getLsbD i || b.getLsbD i)) ∧
  s.ScalarResult (.xor f) f 1 (fun a b w => ∀ i, w.getLsbD i = (a.getLsbD i != b.getLsbD i)) ∧
  s.ScalarResult (.shl f) f 1 (fun a b w => w.toNat = a.toNat * 2 ^ (b.toNat % 32) % 2 ^ 32) ∧
  s.ScalarResult (.shr f) f 1 (fun a b w => w.toNat = a.toNat / 2 ^ (b.toNat % 32)) ∧
  s.ScalarResult (.sar f) f 1 (fun a b w => w.toInt = a.toInt / 2 ^ (b.toNat % 32)) ∧
  s.ScalarResult (.min f) f 1 (fun a b w => w = if a.toInt ≤ b.toInt then a else b) ∧
  s.ScalarResult (.max f) f 1 (fun a b w => w = if a.toInt ≥ b.toInt then a else b) ∧
  s.ScalarResult (.minu f) f 1 (fun a b w => w = if a.toNat ≤ b.toNat then a else b) ∧
  s.ScalarResult (.maxu f) f 1 (fun a b w => w = if a.toNat ≥ b.toNat then a else b) ∧
  s.ScalarResult (.clz f) f 1 (fun a _ w => w.toNat ≤ 32 ∧ (∀ i, 32 - w.toNat ≤ i → a.getLsbD i = false) ∧
    (w.toNat < 32 → a.getLsbD (31 - w.toNat) = true)) ∧
  s.ScalarResult (.popc f) f 1 (fun a _ w => w.toNat = (List.range 32).countP fun i => a.getLsbD i) ∧
  (∀ i op, (i, op) ∈ [(Instr.add f, 0x01), (.sub f, 0x02), (.and f, 0x03), (.or f, 0x04), (.xor f, 0x05), (.shl f, 0x06),
      (.shr f, 0x07), (.sar f, 0x08), (.min f, 0x09), (.max f, 0x0A), (.minu f, 0x0B), (.maxu f, 0x0C), (.clz f, 0x0D),
      (.popc f, 0x0E)] → encode i = some (f.toWord op) ∧ (i.wf = true → f.fn = 0)) ∧
  ((Instr.clz f).wf = true → f.sb = 0) ∧ ((Instr.popc f).wf = true → f.sb = 0)

/-- R64: multiplication and division, the results for a zero divisor and for signed overflow among them. Opcodes 0x10 to 0x16
of format S.R, guarded; the function field is reserved. -/
def Obligations.MultiplyAndDivide : Prop := ∀ (s : State) (f : SR),
  s.ScalarResult (.mul f) f 3 (fun a b w => w.toNat = a.toNat * b.toNat % 2 ^ 32) ∧
  s.ScalarResult (.mulh f) f 3 (fun a b w => w.toInt = a.toInt * b.toInt / 2 ^ 32) ∧
  s.ScalarResult (.mulhu f) f 3 (fun a b w => w.toNat = a.toNat * b.toNat / 2 ^ 32) ∧
  s.ScalarResult (.div f) f 12 (fun a b w =>
    if b = 0 then w = 0xFFFFFFFF
    else if a = 0x80000000 ∧ b = 0xFFFFFFFF then w = 0x80000000
    else w.toInt = a.toInt.tdiv b.toInt) ∧
  s.ScalarResult (.divu f) f 12 (fun a b w =>
    if b = 0 then w = 0xFFFFFFFF else w.toNat = a.toNat / b.toNat) ∧
  s.ScalarResult (.rem f) f 12 (fun a b w =>
    if b = 0 then w = a
    else if a = 0x80000000 ∧ b = 0xFFFFFFFF then w = 0
    else w.toInt = a.toInt - b.toInt * a.toInt.tdiv b.toInt) ∧
  s.ScalarResult (.remu f) f 12 (fun a b w =>
    if b = 0 then w = a else w.toNat = a.toNat - b.toNat * (a.toNat / b.toNat)) ∧
  ∀ i op, (i, op) ∈ [(Instr.mul f, 0x10), (.mulh f, 0x11), (.mulhu f, 0x12), (.div f, 0x13), (.divu f, 0x14), (.rem f, 0x15),
      (.remu f, 0x16)] → encode i = some (f.toWord op) ∧ (i.wf = true → f.fn = 0)

/-- R63 and R68: immediates, LUI and SEL are never squashed. A shift count is the five-bit field that a well-formed word
leaves (R63). -/
def Obligations.ImmediatesAndSelect : Prop :=
  (∀ (s : State) (f : SI), f.imm < 2 ^ 14 →
    s.ImmediateResult (.addi f) f.sd (fun w => w.toInt = ((s.myCtx.rs f.sa).toInt + sext 14 f.imm).bmod (2 ^ 32)) ∧
    s.ImmediateResult (.andi f) f.sd (fun w => ∀ i, w.getLsbD i = ((s.myCtx.rs f.sa).getLsbD i && f.imm.testBit i)) ∧
    s.ImmediateResult (.ori f) f.sd (fun w => ∀ i, w.getLsbD i = ((s.myCtx.rs f.sa).getLsbD i || f.imm.testBit i)) ∧
    s.ImmediateResult (.xori f) f.sd (fun w => ∀ i, w.getLsbD i = ((s.myCtx.rs f.sa).getLsbD i != f.imm.testBit i))) ∧
  (∀ (s : State) (f : SI), f.imm < 32 →
    s.ImmediateResult (.shli f) f.sd (fun w => w.toNat = (s.myCtx.rs f.sa).toNat * 2 ^ f.imm % 2 ^ 32) ∧
    s.ImmediateResult (.shri f) f.sd (fun w => w.toNat = (s.myCtx.rs f.sa).toNat / 2 ^ f.imm) ∧
    s.ImmediateResult (.sari f) f.sd (fun w => w.toInt = (s.myCtx.rs f.sa).toInt / 2 ^ f.imm)) ∧
  (∀ (s : State) (f : SU), f.imm < 2 ^ 19 →
    s.ImmediateResult (.lui f) f.sd (fun w => w.toNat = f.imm * 2 ^ 13)) ∧
  ∀ (s : State) (f : SR),
    (s.Takes f.g f.neg → s.ImmediateResult (.sel f) f.sd (fun w => w = s.myCtx.rs f.sa)) ∧
    (¬ s.Takes f.g f.neg → s.ImmediateResult (.sel f) f.sd (fun w => w = s.myCtx.rs f.sb))

/-- R65 to R67: the six conditions, of two registers (guarded) and of a register and a sign-extended immediate (never
squashed), signed by `toInt` and unsigned by `toNat`; guards combined in pairs, with the inversion bits, and moved as a group.
-/
def Obligations.ComparesAndGuards : Prop :=
  ((∀ (s : State) (f : SR),
    let a := s.myCtx.rs f.sa
    let b := s.myCtx.rs f.sb
    s.GuardResult (.cmpEq f) f (decide (a.toNat = b.toNat)) ∧ s.GuardResult (.cmpNe f) f (decide (a.toNat ≠ b.toNat)) ∧
    s.GuardResult (.cmpLt f) f (decide (a.toInt < b.toInt)) ∧ s.GuardResult (.cmpGe f) f (decide (a.toInt ≥ b.toInt)) ∧
    s.GuardResult (.cmpLtu f) f (decide (a.toNat < b.toNat)) ∧
    s.GuardResult (.cmpGeu f) f (decide (a.toNat ≥ b.toNat))) ∧
  ∀ (s : State) (f : SI), f.imm < 2 ^ 14 →
    let a := s.myCtx.rs f.sa
    let b := sext 14 f.imm
    let writes (i : Instr) (v : Bool) : Prop := s.Answers i fun t => s.Writes t [(1, guardWrite f.sd v)]
    writes (.cmpiEq f) (decide (a.toInt = b)) ∧ writes (.cmpiNe f) (decide (a.toInt ≠ b)) ∧
    writes (.cmpiLt f) (decide (a.toInt < b)) ∧ writes (.cmpiGe f) (decide (a.toInt ≥ b)) ∧
    writes (.cmpiLtu f) (decide ((a.toNat : Int) < b % 2 ^ 32)) ∧
    writes (.cmpiGeu f) (decide ((a.toNat : Int) ≥ b % 2 ^ 32))) ∧
  (∀ (s : State) (f : SR),
  let x := s.myCtx.rg f.sa != f.fn.testBit 1
  let y := s.myCtx.rg f.sb != f.fn.testBit 0
  s.GuardResult (.gand f) f (x && y) ∧ s.GuardResult (.gor f) f (x || y) ∧ s.GuardResult (.gxor f) f (x != y) ∧
  s.ScalarResult (.gtos f) f 1 (fun _ _ w =>
    w.getLsbD 0 = true ∧ (∀ i, 1 ≤ i → i < 8 → w.getLsbD i = s.myCtx.g.getLsbD i) ∧ ∀ i, 8 ≤ i → w.getLsbD i = false) ∧
  s.Answers (.stog f) fun t =>
    (s.Takes f.g f.neg → ∃ m v : BitVec 8, s.Writes t [(1, .g m v)] ∧
      ∀ i, i < 8 → m.getLsbD i = decide (1 ≤ i) ∧ (1 ≤ i → v.getLsbD i = (s.myCtx.rs f.sa).getLsbD i)) ∧
    (¬ s.Takes f.g f.neg → t = s))

/-! ### Control -/

/-- R69 to R71 and R8: a branch in bundle i calls for its target at t+3, and its two delay bundles are counted; CALL leaves
the link i+3 for s31 at t+1, RET's target is s31 as read at t; squashed, the branch only marks its delay bundles. A taken SEGJ
gives up the successor's expansion and expands the segment that its offset names into the free half, from t to t+e, at which
its first bundle issues; e is 24 + ceil(z/32) for z = 16 + 16 ceil(LEN/16), LEN being the low 14 bits of the header as stored.
After a branch in bundle i the bundles i+1 and i+2 issue at t+1 and t+2, then the target at t+3 when the branch was taken,
bundle i+3 when it was squashed, no active level ending on the way. -/
def Obligations.BranchesAndJumps : Prop :=
  (∀ (s : State) (f : SB),
  let i := s.myCtx.seq.idx
  let toAt (u : State) (target : Nat) : State :=
    u.modSeq fun q => { q with delay := 2, xfer := some (s.t + 3, .bundle target) }
  let squashed : State := s.modSeq fun q => { q with delay := 2 }
  (s.Clear (.br f) → s.Answers (.br f) fun t =>
    (s.Takes f.g f.neg → t = toAt s ((i : Int) + sext 20 f.off).toNat) ∧ (¬ s.Takes f.g f.neg → t = squashed)) ∧
  (s.Clear (.call f) → s.Answers (.call f) fun t =>
    (s.Takes f.g f.neg → ∃ u, s.Writes u [(1, .s 31 (BitVec.ofNat 32 (i + 3)))] ∧
      t = toAt u ((i : Int) + sext 20 f.off).toNat) ∧
    (¬ s.Takes f.g f.neg → t = squashed)) ∧
  (s.Clear (.ret f) → s.Answers (.ret f) fun t =>
    (s.Takes f.g f.neg → t = toAt s (s.myCtx.rs 31).toNat) ∧ (¬ s.Takes f.g f.neg → t = squashed))) ∧
  (∀ (s : State) (f : SB), s.Clear (.segj f) →
  let q := s.myCtx.seq
  let h := ((q.segOff : Int) + 16 * sext 20 f.off).toNat
  let len := leNat ((s.store s.me).readBytes h 16) % 2 ^ 14
  let e := 24 + (16 + 16 * ((len + 15) / 16) + 31) / 32
  s.Answers (.segj f) fun t =>
    (s.Takes f.g f.neg → t = (((s.dropExpansion s.me).modSeq fun q =>
      { q.setHalf (!q.inB) (some { off := h, ready := s.t + e, seg := none }) with
        delay := 2, xfer := some (s.t + e, .enter), jump := true }).expandAt s.me (s.t + e) (!q.inB) h)) ∧
    (¬ s.Takes f.g f.neg → t = s.modSeq fun q => { q with delay := 2 })) ∧
  (∀ (q : Seq) (t : Nat),
  q.next = .bundle (q.idx + 1) → q.nextLevels = q.levels → q.filler = false → q.jump = false → q.idx + 2 < q.count →
  (∀ l ∈ q.levels, l.last ≠ q.idx + 1 ∧ l.last ≠ q.idx + 2) →
  let a := q.advance (t + 1)
  let b := a.advance (t + 2)
  let c := b.advance (t + 3)
  a.idx = q.idx + 1 ∧ b.idx = q.idx + 2 ∧
  (∀ target, q.xfer = some (t + 3, .bundle target) → c.idx = target ∧ c.issued = t + 3 ∧ c.levels = q.levels) ∧
  (q.xfer = none → q.idx + 3 < q.count → c.idx = q.idx + 3 ∧ c.issued = t + 3 ∧ c.levels = q.levels))

/-- R73 and R74: a loop instruction in bundle i makes its level active over bundles i+1 to i+L with its count, from t+1, and
bundle i+1 follows; a count of 0 calls for what follows bundle i+L, by the levels that end there; LOOP counts in a register,
LOOPI in its immediate. Once a level over bundles first to last has its count N, the next N * L bundles are its body N times
over, and the bundle after the body follows, the other levels as they were. -/
def Obligations.LoopsBeginAndRepeat : Prop :=
  (∀ (s : State) (f : SL),
  let begin (n : Nat) (t : State) : Prop := t = s.modSeq fun q =>
    if n = 0 then { q with next := (q.settle q.levels (q.idx + f.len + 1)).1,
                           nextLevels := (q.settle q.levels (q.idx + f.len + 1)).2 }
    else { q with next := .bundle (q.idx + 1),
                  nextLevels := { level := f.level, first := q.idx + 1, last := q.idx + (f.len + 1), count := n } :: q.levels }
  (s.Clear (.loop f) → s.Answers (.loop f) (begin (s.myCtx.rs (f.cnt / 512)).toNat)) ∧
  (s.Clear (.loopi f) → s.Answers (.loopi f) (begin f.cnt))) ∧
  (∀ (q : Seq) (t level first last n : Nat) (rest : List Level),
  q.next = .bundle first → q.xfer = none → q.filler = false → 1 ≤ n → first ≤ last → last + 1 < q.count →
  q.nextLevels = { level := level, first := first, last := last, count := n } :: rest → (∀ l ∈ rest, last < l.last) →
  (∀ k, k < n * (last + 1 - first) → (q.run t (k + 1)).idx = first + k % (last + 1 - first)) ∧
  (q.run t (n * (last + 1 - first) + 1)).idx = last + 1 ∧ (q.run t (n * (last + 1 - first) + 1)).levels = rest)

/-! ### Stopping and waiting -/

/-- R28, R81, R200 and R204: NOP changes nothing; TRAP raises fault 0x02 with its code, in every state; TCHK and TWAIT on the
bound T = (sb << 32) + sa: in time, TCHK is a sign of life (R350) and nothing else, late, it raises 0x11 with T and t; TWAIT
lets no bundle issue before T and closes a solo region at T; squashed, both do nothing. R82, R201: END leaves its core ended,
with no bundle to come, no level or transfer, its registers and memory as they were, its solo region to be closed when its
bundle has taken effect, and the launch's retirement to be judged in its cycle. -/
def Obligations.StopsWaitsAndEnd : Prop :=
  ((∀ s : State, exec .nop s = .next s) ∧
  (∀ (s : State) (f : SY), exec (.trap f) s = .next (s.raise 0x02 [BitVec.ofNat 32 f.sel])) ∧
  (∀ (s : State) (f : SR),
    let T := (s.myCtx.rs f.sb).toNat * 2 ^ 32 + (s.myCtx.rs f.sa).toNat
    (s.Clear (.tchk f) → s.Answers (.tchk f) fun t =>
      (s.Takes f.g f.neg → s.t ≤ T ∧ t = s.modPart (s.partOf s.me) fun q => { q with sign := s.t + 1 }) ∧
      (¬ s.Takes f.g f.neg → t = s)) ∧
    ((s.core s.me).regBad = [] → s.Takes f.g f.neg → T < s.t → s.cur.slot = 0 →
      exec (.tchk f) s = .next ((s.modPart (s.partOf s.me) fun q => { q with sign := s.t + 1 }).raise 0x11
        [BitVec.ofNat 32 T, BitVec.ofNat 32 (T / 2 ^ 32), BitVec.ofNat 32 s.t])) ∧
    (s.Clear (.twait f) → s.Answers (.twait f) fun t =>
      (s.Takes f.g f.neg → s.t < T ∧ (∀ x ∈ t.due, x.what = .bundleIssue s.me → x.due = T) ∧
        (∃ x ∈ t.due, x.what = .bundleIssue s.me ∧ x.clock = some (s.partOf s.me)) ∧
        (∃ x ∈ t.due, x.what = .twaitEnd s.me ∧ x.due = T) ∧
        (∀ x ∈ s.due, x.what ≠ .bundleIssue s.me → x ∈ t.due) ∧
        t.cores = (s.modSeq fun q => { q with nextAt := T }).cores ∧ t.parts = s.parts) ∧
      (¬ s.Takes f.g f.neg → t = s)))) ∧
  (∀ (s : State) (f : SY), s.me < 384 → s.Clear (.endI f) →
  s.Answers (.endI f) fun t =>
    t.ctx s.me = { s.myCtx with
      life := .ended,
      seq := { s.myCtx.seq with next := .stop, nextLevels := [], levels := [], xfer := none, jump := false, delay := 0 } } ∧
    (∀ x ∈ t.due, x.what ≠ .bundleIssue s.me) ∧ (∀ x ∈ s.due, x.what ≠ .bundleIssue s.me → x ∈ t.due) ∧
    (∃ x ∈ t.due, x.what = .twaitEnd s.me ∧ x.due = s.t) ∧
    (∃ x ∈ t.due, x.what = .launchRetirement (s.partOf s.me) ∧ x.due = s.t) ∧
    (t.core s.me).spad = (s.core s.me).spad ∧ (∀ c, c ≠ s.me → t.core c = s.core c) ∧ t.dram = s.dram ∧ t.dies = s.dies)

/-! ### Special registers, pigeonholes, the counter -/

/-- R16, R20, R156: RDSR leaves the register's value at t for sd at t+2; only a read of a low word latches its high words, of
the same core. R18 to R22: what CID, PID, TTCL, TTCH, GTCL, GTCH, PER, SEGB and the loop counts read. R110 to R112, R146,
R156, R196, R327: what the registers of the vector, stage and fault ranges read: FLAGS, the seeds, QOCC before the cycle's own
appends and removals, the keys and counters with the high words that the low word latched, STG, SPWE, PCORE, word 0 of the
retained syndrome, RBCNT, CKLN and ULOG. -/
def Obligations.SpecialRegisterValues : Prop :=
  (∀ (s : State) (f : SY),
  s.Answers (.rdsr f) fun t => ∃ u : State,
    u.Writes t [(2, .s f.sd (s.special f.sel))] ∧
    (f.sel ∉ [0x0004, 0x0006, 0x0108, 0x010A, 0x0110, 0x0112] → u = s) ∧
    (f.sel = 0x0004 → u = s.modCtx s.me fun x => { x with ttch := BitVec.ofNat 32 (s.t / 2 ^ 32) }) ∧
    (f.sel = 0x0006 → u = s.modCtx s.me fun x => { x with gtch := BitVec.ofNat 32 (s.gtc / 2 ^ 32) }) ∧
    (f.sel = 0x0108 → u = s.modCtx s.me fun x =>
      { x with va := { x.va with keyLatch := BitVec.ofNat 32 (x.va.key.toNat / 2 ^ 32) } }) ∧
    (f.sel = 0x0110 → u = s.modCtx s.me fun x =>
      { x with vb := { x.vb with keyLatch := BitVec.ofNat 32 (x.vb.key.toNat / 2 ^ 32) } }) ∧
    (f.sel = 0x010A → u = s.modCtx s.me fun x =>
      { x with va := { x.va with ctrLatch := BitVec.ofNat 96 (x.va.ctr.toNat / 2 ^ 32) } }) ∧
    (f.sel = 0x0112 → u = s.modCtx s.me fun x =>
      { x with vb := { x.vb with ctrLatch := BitVec.ofNat 96 (x.vb.ctr.toNat / 2 ^ 32) } })) ∧
  (∀ s : State,
  (s.me < 384 → s.coords.1 < 8 → s.coords.2.1 < 8 → s.coords.2.2 < 8 →
    (s.special 0x0000).toNat = s.coords.1 * 2 ^ 15 + s.coords.2.1 * 2 ^ 12 + s.coords.2.2 * 2 ^ 9 + s.me / 96 * 2 ^ 7 +
      s.me / 8 % 12 * 2 ^ 3 + s.me % 8) ∧
  s.special 0x0001 = s.myCtx.pid ∧
  (s.special 0x0004).toNat = s.t % 2 ^ 32 ∧ s.special 0x0005 = s.myCtx.ttch ∧
  (s.special 0x0006).toNat = s.gtc % 2 ^ 32 ∧ s.special 0x0007 = s.myCtx.gtch ∧
  (s.special 0x0008).toNat = s.t / 4032 % 2 ^ 20 * 2 ^ 12 + s.t % 4032 ∧
  (s.special 0x0010).toNat = s.myCtx.seq.segOff % 2 ^ 32 ∧
  (∀ n, n < 3 → (∀ l ∈ s.myCtx.seq.levels, l.level ≠ n) → s.special (0x0014 + n) = 0) ∧
  ∀ n l inner rest, n < 3 → s.myCtx.seq.levels = inner ++ l :: rest → (∀ m ∈ inner, m.level ≠ n) → l.level = n →
    (s.special (0x0014 + n)).toNat = l.count % 2 ^ 32) ∧
  ∀ s : State,
  let x := s.myCtx
  (s.special 0x0100).toNat = x.va.flags.toNat ∧ (s.special 0x0101).toNat = x.vb.flags.toNat ∧
  (s.special 0x0102).toNat = x.va.seed.toNat % 2 ^ 32 ∧ (s.special 0x0103).toNat = x.va.seed.toNat / 2 ^ 32 ∧
  (s.special 0x0104).toNat = x.vb.seed.toNat % 2 ^ 32 ∧ (s.special 0x0105).toNat = x.vb.seed.toNat / 2 ^ 32 ∧
  (
    let had (q : Nat) : Nat := (x.queue q).length + (s.moves.filter fun m => m == (s.me, q, false)).length -
      (s.moves.filter fun m => m == (s.me, q, true)).length
    (∀ q ∈ [0, 1, 2, 3, 10, 11], had q ≤ 8) →
      (∀ q, q < 4 → (s.special 0x0106).toNat / 2 ^ (4 * q) % 2 ^ 4 = had q) ∧
      (s.special 0x0106).toNat / 2 ^ 16 % 2 ^ 4 = had 10 ∧ (s.special 0x0106).toNat / 2 ^ 20 = had 11) ∧
  (s.special 0x0108).toNat = x.va.key.toNat % 2 ^ 32 ∧ s.special 0x0109 = x.va.keyLatch ∧
  (s.special 0x0110).toNat = x.vb.key.toNat % 2 ^ 32 ∧ s.special 0x0111 = x.vb.keyLatch ∧
  (s.special 0x010A).toNat = x.va.ctr.toNat % 2 ^ 32 ∧ (s.special 0x0112).toNat = x.vb.ctr.toNat % 2 ^ 32 ∧
  (∀ k, k < 3 → (s.special (0x010B + k)).toNat = x.va.ctrLatch.toNat / 2 ^ (32 * k) % 2 ^ 32 ∧
    (s.special (0x0113 + k)).toNat = x.vb.ctrLatch.toNat / 2 ^ (32 * k) % 2 ^ 32) ∧
  s.special 0x0200 = x.stg ∧ s.special 0x0201 = x.spwe ∧ s.special 0x0202 = x.pcore ∧
  s.special 0x0300 = (s.core s.me).syndrome[0]?.getD 0 ∧
  (s.special 0x0303).toNat = (s.core s.me).undo.length % 2 ^ 32 ∧
  ∀ q, s.part (s.partOf s.me) = some q →
    (s.special 0x0301).toNat = q.rbcnt % 2 ^ 32 ∧ (s.special 0x0302).toNat = q.line / 4032 % 2 ^ 32

/-- R16, R110, R111, R196: WRSR leaves sa for the selected register at t+1; the reserved bits of FLAGSA, FLAGSB and SPWE are
ignored. -/
def Obligations.SpecialRegisterWrites : Prop := ∀ (s : State) (f : SY),
  let w := s.myCtx.rs f.sa
  let writes (r : RegWrite) : Prop := s.Answers (.wrsr f) fun t => s.Writes t [(1, r)]
  (f.sel = 0x0100 → writes (.flagsWrite .a (w.truncate 6))) ∧ (f.sel = 0x0101 → writes (.flagsWrite .b (w.truncate 6))) ∧
  (f.sel = 0x0102 → writes (.seed .a false w)) ∧ (f.sel = 0x0103 → writes (.seed .a true w)) ∧
  (f.sel = 0x0104 → writes (.seed .b false w)) ∧ (f.sel = 0x0105 → writes (.seed .b true w)) ∧
  (f.sel = 0x0201 → writes (.spwe w)) ∧
  ((Instr.wrsr f).wf = true → f.sel ∈ [0x0100, 0x0101, 0x0102, 0x0103, 0x0104, 0x0105, 0x0201])

/-- R79, R80, R199, R328: PGRD leaves the latched word of pigeonholes 0 to 63 and the live word of 64 to 127, the old one
beside a write of the same cycle, for sd at t+2; PGWR leaves its write for t+1; FSYN samples the retained syndrome for t+2;
TRD the low or high word of TTC for t+1. A PGRD or PGWR that the pigeonhole block's table does not admit is fault 0x21 at that
cycle (R240; log entry 6). -/
def Obligations.PigeonholesAndSamples : Prop := ∀ (s : State) (f : SY),
  let open_ (write : Bool) : Prop := ∃ e ∈ s.pigAccess, e.part = s.partOf s.me ∧ (if write then e.wr else e.rd) = true ∧
    e.base ≤ s.partOf s.me ∧ s.partOf s.me ≤ e.limit
  (∀ q, s.part (s.partOf s.me) = some q → f.sel < 128 → open_ false →
    (f.sel < 64 → s.Answers (.pgrd f) fun t => s.Writes t [(2, .s f.sd (q.pigLatched[f.sel]?.getD 0))]) ∧
    (64 ≤ f.sel → (∀ w ∈ s.pigWrites, w.part = q.num → w.n ≠ f.sel) →
      s.Answers (.pgrd f) fun t => s.Writes t [(2, .s f.sd (q.pigLive[f.sel]?.getD 0))]) ∧
    (64 ≤ f.sel → ∀ w, s.pigWrites = [w] → w.part = q.num → w.n = f.sel →
      s.Answers (.pgrd f) fun t => s.Writes t [(2, .s f.sd w.old)])) ∧
  (¬ open_ false → s.Answers (.pgrd f) fun t =>
    s.Defers t [(s.t + 2, .registerWrite s.me (.fault 0x21 none [BitVec.ofNat 32 f.sel]))]) ∧
  (s.Clear (.pgwr f) → s.Answers (.pgwr f) fun t =>
    (open_ true → s.Defers t [(s.t + 1, .pigeonholeWrite (s.partOf s.me) f.sel (s.myCtx.rs f.sa))]) ∧
    (¬ open_ true → s.Defers t [(s.t + 1, .registerWrite s.me (.fault 0x21 none [BitVec.ofNat 32 f.sel]))])) ∧
  (s.Answers (.fsyn f) fun t => s.Writes t [(2, .s f.sd ((s.core s.me).syndrome[f.sel]?.getD 0))]) ∧
  (f.sel = 0 → s.Answers (.trd f) fun t => s.Writes t [(1, .s f.sd (BitVec.ofNat 32 s.t))]) ∧
  (f.sel = 1 → s.Answers (.trd f) fun t => s.Writes t [(1, .s f.sd (BitVec.ofNat 32 (s.t / 2 ^ 32)))])

/-! ### Concert -/

/-- R206: BINIT leaves the low half of sa for a barrier's expected count at t+1; when it lands, the arrival count is as it
was. -/
def Obligations.BarrierExpectation : Prop :=
  (∀ (s : State) (f : SY), (s.Answers (.binit f) fun t =>
      s.Writes t [(1, .barExpected f.sel ((s.myCtx.rs f.sa).truncate 16))]) ∧
    (encode (.binit f) = some (f.toWord 0x64)) ∧ ((Instr.binit f).wf = true → f.sd = 0 ∧ f.sel < 48)) ∧
  ∀ (x : Ctx) (n : Nat) (v : BitVec 16) (h : n < 48),
    (x.apply (.barExpected n v)).bars = x.bars.set n { expected := v, count := x.bars[n].count }

/-- R201, R207, R208, R211, R213: SOLO opens its region at t+1; BARR sends one arrival that performs at the cycle its target's
distance gives to a core that the access table of its die admits (R240), or is refused for an answer at t+2 when the rank is
NCORE or more (R329) or that table refuses the core (R240; that the answer is then the one for no such rank is log entry 6),
and an arrival whose transfer between two dies fails is fault 0x33 at the cycle of the arrival (R377; log entry 31; that its
detail words are the two dies, lesser first, is the model's reading, log entry 23); BCHK of equal counts empties the arrivals
at t; stage instructions perform at t+4; SPAWN's arguments and entry are read at t and reach the target at t+16. -/
def Obligations.SignalsBetweenCores : Prop := ∀ (s : State) (f : SY),
  let rank := (s.myCtx.rs f.sa).toNat % 2 ^ 16
  let me := s.me
  (s.Clear (.solo f) → s.Answers (.solo f) fun t => s.Writes t [(1, .solo (s.myCtx.rs f.sa))]) ∧
  (∀ q, s.part (s.partOf me) = some q → s.Clear (.barr f) →
    (∀ c, q.cores[rank]? = some c → s.Admits c true → ∃ lat,
      ((c / 96 = me / 96 ∨ (me, s.t, s.cur.who.src) ∉ s.linkErrs) → s.Answers (.barr f) fun t =>
        s.Defers t [(s.t + lat, .barrierArrival c f.sel)]) ∧
      (c / 96 ≠ me / 96 → (me, s.t, s.cur.who.src) ∈ s.linkErrs → s.Answers (.barr f) fun t =>
        s.Defers t [(s.t + lat, .registerWrite me (.fault 0x33 none
          [BitVec.ofNat 32 (min (me / 96) (c / 96)), BitVec.ofNat 32 (max (me / 96) (c / 96))]))]) ∧
      (c = me → lat = 1) ∧ (c ≠ me → c / 8 = me / 8 → lat = 10) ∧ (c / 8 ≠ me / 8 → c / 96 = me / 96 → lat = 20) ∧
      (c / 96 ≠ me / 96 → lat = 44)) ∧
    (∀ c, q.cores[rank]? = some c → ¬ s.Admits c true → s.Answers (.barr f) fun t =>
      s.Defers t [(s.t + 2, .deliveryFault rank 0)]) ∧
    (q.cores.length ≤ rank → s.Answers (.barr f) fun t => s.Defers t [(s.t + 2, .deliveryFault rank 0)])) ∧
  (s.Clear (.bchk f) → s.Answers (.bchk f) fun t => t = s.modCtx me fun x =>
    { x with bars := x.bars.setIfInBounds f.sel { (x.bars[f.sel]?.getD ⟨0, 0⟩) with count := 0 } }) ∧
  (s.Clear (.acqsW f) → s.Answers (.acqsW f) fun t => s.Defers t [(s.t + 4, .stagePerform true false f.sel)]) ∧
  (s.Clear (.acqsR f) → s.Answers (.acqsR f) fun t => s.Defers t [(s.t + 4, .stagePerform false false f.sel)]) ∧
  (s.Clear (.relsW f) → s.Answers (.relsW f) fun t => s.Defers t [(s.t + 4, .stagePerform true true f.sel)]) ∧
  (s.Clear (.relsR f) → s.Answers (.relsR f) fun t => s.Defers t [(s.t + 4, .stagePerform false true f.sel)]) ∧
  (s.Clear (.spawn f) → s.Answers (.spawn f) fun t => s.Defers t [(s.t + 16,
    .spawnDelivery rank (s.myCtx.spwe.toNat % 2 ^ 23) ((List.range f.sel).map fun k => s.myCtx.rs (f.sd + k)))])

/-- R330, R333, R334: a checkpoint line keeps a duplicate of the core's context, with the sequencer before the line's bundle,
and empties its undo log; registers, scratchpad and every core that has neither ended nor is starting stay; the lowest rank
marks the partition's line at its TTC. -/
def Obligations.CheckpointLine : Prop := ∀ (s : State) (f : SY), s.me < 384 → s.myCtx.life = .running →
  s.Clear (.ckpt f) → s.Answers (.ckpt f) fun t =>
    (t.core s.me).ctx = s.myCtx ∧ (t.core s.me).dup = some { s.myCtx with seq := s.myCtx.seqBefore } ∧
    (t.core s.me).undo = [] ∧ (t.core s.me).spad = (s.core s.me).spad ∧
    (∀ c, c ≠ s.me → (s.ctx c).life ≠ .ended → (s.ctx c).life ≠ .starting → t.core c = s.core c) ∧ t.due = s.due ∧ t.gtc = s.gtc ∧ t.dram = s.dram ∧
    ∀ q, s.part (s.partOf s.me) = some q → (s.lineSplit q s.t).1.head? = some (s.rankOf s.me) →
      ∃ r, t.part q.num = some r ∧ r.line = s.t

/-! ### The LD slot -/

/-- R89: the pointer instructions, never squashed, leave pd for t+1: PLIL replaces one halfword, PLIH sets the top one, PADD
and PADDI add modulo 2^64, PMOV copies. R298 to R300: AGSET loads a generator from lanes 0 to 7, lowest word first; AGADV
moves POS, bits [223:192], and nothing else; LDA and STA access BASE + ROW * PITCH + POS * STRIDE, or leave the generator's
fault when POS has reached PMAX. Which spaces they may name is judged at the address check; there R228 (space 0x0 only) and
R300 with its example disagree, and the model follows R300 (log entry 12, DEDUCED). -/
def Obligations.PointersAndGenerators : Prop :=
  (∀ (s : State) (f : LP),
  let result (i : Instr) (P : Ptr → Prop) : Prop := s.Answers i fun t => ∃ v, P v ∧ s.Writes t [(1, .p f.pd v)]
  (f.imm < 2 ^ 16 → f.pa < 4 → result (.plil f) fun v => ∀ i, i < 64 →
    v.getLsbD i = if i / 16 = f.pa then f.imm.testBit (i % 16) else (s.myCtx.rp f.pd).getLsbD i) ∧
  (f.imm < 2 ^ 16 → result (.plih f) fun v => v.toNat = f.imm * 2 ^ 48) ∧
  (result (.padd f) fun v => v.toNat = ((s.myCtx.rp f.pa).toNat + (s.myCtx.rp (f.imm / 2 ^ 12)).toNat) % 2 ^ 64) ∧
  (f.imm < 2 ^ 16 → result (.paddi f) fun v =>
    (v.toNat : Int) = (((s.myCtx.rp f.pa).toNat : Int) + sext 16 f.imm) % 2 ^ 64) ∧
  (result (.pmov f) fun v => v = s.myCtx.rp f.pa)) ∧
  (∀ (s : State) (f : LG),
  let v := (s.myCtx.rag f.ag).toNat
  let part (hi lo : Nat) : Nat := v / 2 ^ lo % 2 ^ (hi + 1 - lo)
  let guarded (i : Instr) (P : State → Prop) : Prop := s.Answers i fun t =>
    (s.Takes f.g f.neg → P t) ∧ (¬ s.Takes f.g f.neg → t = s)
  let access (i : Instr) (kind : AccessKind) : Prop := guarded i fun t => ∃ a : Access,
    a.kind = kind ∧ a.tg = f.tg ∧ a.size = [4, 256, 512, 1024].getD f.size 1024 ∧
    a.ea.toNat = (part 63 0 + part 191 160 * part 127 64 + part 223 192 * part 159 128) % 2 ^ 64 ∧
    (a.gen = none ↔ part 223 192 < part 255 224) ∧ (kind = .store → a.data = s.myCtx.rd f.tg) ∧
    s.Defers t [(s.t + 1, .ldAddressCheck a)]
  guarded (.agset f) (fun t => ∃ w : BitVec 256,
    (∀ k, k < 8 → w.toNat / 2 ^ (32 * k) % 2 ^ 32 = (lane (s.myCtx.rd f.tg) k).toNat) ∧
    s.Writes t [(1, .ag f.ag (BitVec.allOnes 256) w)]) ∧
  guarded (.agadv f) (fun t => ∃ m w : BitVec 256,
    (∀ i, i < 256 → m.getLsbD i = decide (192 ≤ i ∧ i < 224)) ∧
    ((w.toNat / 2 ^ 192 % 2 ^ 32 : Nat) : Int) = ((part 223 192 : Int) + sext 12 f.imm) % 2 ^ 32 ∧
    s.Writes t [(1, .ag f.ag m w)]) ∧
  access (.lda f) .load ∧ access (.sta f) .store)

/-- R84, R90 to R96, R249: the sized accesses, LDQ, LDT, STNT and the atomics leave, under their guard, one access to be
checked at t+1, at p + sext(offset) * z modulo 2^64, with the operands read at t; squashed, they leave nothing. LDG, STG and
STG16 leave one access of the lanes that their mask selects, each at p + w * index modulo 2^64, w being 4, 4 and 2 bytes. -/
def Obligations.AccessesLeftToCheck : Prop :=
  (∀ s : State,
  let leaves (i : Instr) (g : Nat) (neg : Bool) (P : Access → Prop) : Prop := s.Answers i fun t =>
    (s.Takes g neg → ∃ a, P a ∧ a.lanes = [] ∧ a.gen = none ∧ a.solo = s.myCtx.solo ∧
      s.Defers t [(s.t + 1, .ldAddressCheck a)]) ∧ (¬ s.Takes g neg → t = s)
  let at_ (p n bits off z : Nat) : Prop := (n : Int) = ((p : Int) + sext bits off * z) % 2 ^ 64
  (∀ f : LM,
    let plain (kind : AccessKind) (z : Nat) (a : Access) : Prop := a.kind = kind ∧ a.tg = f.tg ∧ a.size = z ∧
      at_ (s.myCtx.rp f.ptr).toNat a.ea.toNat 12 f.off z
    let load (i : Instr) (z : Nat) : Prop := leaves i f.g f.neg (plain .load z)
    let store (i : Instr) (z : Nat) : Prop := leaves i f.g f.neg fun a => plain .store z a ∧ a.data = s.myCtx.rd f.tg
    load (.ldw f) 4 ∧ load (.ldr f) 256 ∧ load (.ldh f) 512 ∧ load (.ldv f) 1024 ∧
    store (.stw f) 4 ∧ store (.str f) 256 ∧ store (.sth f) 512 ∧ store (.stv f) 1024 ∧
    leaves (.ldq f) f.g f.neg (plain .ldq 256) ∧
    leaves (.stnt f) f.g f.neg fun a => plain .stnt 1024 a ∧ a.data = s.myCtx.rd f.tg) ∧
  (∀ f : LA,
    let plain (kind : AccessKind) (z : Nat) (a : Access) : Prop := a.kind = kind ∧ a.tg = f.tg ∧ a.size = z ∧
      at_ (s.myCtx.rp f.ptr).toNat a.ea.toNat 8 f.off z
    let amo (i : Instr) (o : AmoOp) : Prop :=
      leaves i f.g f.neg fun a => plain (.amo o) 4 a ∧ a.data = s.myCtx.rd f.opd
    leaves (.ldt f) f.g f.neg (plain (.ldt ((lane (s.myCtx.rd f.opd) 0).toNat % 2 ^ 16)) 256) ∧
    amo (.amoAdd f) .add ∧ amo (.amoMin f) .min ∧ amo (.amoMax f) .max ∧ amo (.amoSwap f) .swap ∧ amo (.amoCas f) .cas)) ∧
  (∀ (s : State) (f : LX),
  let leaves (i : Instr) (kind : AccessKind) (w : Nat) (P : Access → Prop) : Prop := s.Answers i fun t =>
    (s.Takes f.g f.neg → ∃ a, P a ∧ a.kind = kind ∧ a.tg = f.tg ∧ a.size = w ∧ a.solo = s.myCtx.solo ∧
      (∀ k ea, (k, ea) ∈ a.lanes ↔ k < 256 ∧ (s.myCtx.rl f.lm).getLsbD k = true ∧
        ea.toNat = ((s.myCtx.rp f.ptr).toNat + w * (lane (s.myCtx.rd f.idx) k).toNat) % 2 ^ 64) ∧
      s.Defers t [(s.t + 1, .ldAddressCheck a)]) ∧ (¬ s.Takes f.g f.neg → t = s)
  leaves (.ldg f) .gather 4 (fun _ => True) ∧
  leaves (.stg f) (.scatter false) 4 (fun a => a.data = s.myCtx.rd f.tg) ∧
  leaves (.stg16 f) (.scatter true) 2 (fun a => a.data = s.myCtx.rd f.tg))

/-- R250: a DRAIN covers every STNT of its core not covered yet, which complete 2048 cycles later; with none, or squashed, it
has no effect. -/
def Obligations.DrainCovers : Prop := ∀ (s : State) (f : LM), s.me < 384 → s.Answers (.drain f) fun t =>
  (¬ s.Takes f.g f.neg → t = s) ∧
  (s.Takes f.g f.neg → (∀ r ∈ (s.core s.me).stnts, r.covered ≠ none) → t = s) ∧
  (s.Takes f.g f.neg → (∃ r ∈ (s.core s.me).stnts, r.covered = none) →
    (t.core s.me).stnts = (s.core s.me).stnts.map (fun r => { r with covered := some (r.covered.getD (s.t + 2048)) }) ∧
    (∃ x ∈ t.due, x.what = .drainCompletion s.me (s.t + 2048) ∧ x.due = s.t + 2048) ∧
    t.ctx s.me = s.myCtx ∧ (t.core s.me).spad = (s.core s.me).spad ∧ t.dram = s.dram)

/-! ### The vector slots -/

/-- R127 to R130: the rounded operations on the selected lanes, by the rounding code, with their flags. On finite operands the
result is the exact sum, difference, product or fused sum rounded once, with the sign of an exact zero as R127 gives it; what
one rounded result is, `NearestIsNearest` says. With a NaN operand it is the first NaN, quieted; an invalid operation gives
0x7FC00000 with INV; an infinity passes on. FMIN and FMAX give the extremum, -0 below +0. R132, R133: a compare writes the
selected bits of its target mask, each the comparison of the exact values, and raises INV for a signalling NaN, and for any
NaN under lt and le; FCLASS sets one bit, by the fields of the word. -/
def Obligations.FloatResults : Prop :=
  (∀ s : State,
  (∀ f : VR,
    let a (k : Nat) : Word := lane (s.vunit.rv f.va) k
    let b (k : Nat) : Word := lane (s.vunit.rv f.vb) k
    let r := Rnd.of f.rnd
    let result (i : Instr) (op : Nat → Word × Flags) : Prop := s.FlaggedResult i f.vd f.mask 4 op
    result (.fadd f) (fun k => fadd r (a k) (b k)) ∧ result (.fsub f) (fun k => fsub r (a k) (b k)) ∧
    result (.fmul f) (fun k => fmul r (a k) (b k)) ∧ result (.fmin f) (fun k => fminmax false (a k) (b k)) ∧
    result (.fmax f) (fun k => fminmax true (a k) (b k))) ∧
  ∀ f : VF,
    let a (k : Nat) : Word := lane (s.vunit.rv f.va) k
    let b (k : Nat) : Word := lane (s.vunit.rv f.vb) k
    let c (k : Nat) : Word := lane (s.vunit.rv f.vc) k
    let r := Rnd.of f.rnd
    let result (i : Instr) (op : Nat → Word × Flags) : Prop := s.FlaggedResult i f.vd f.mask 4 op
    result (.fma f) (fun k => ffma r false false (a k) (b k) (c k)) ∧
    result (.fms f) (fun k => ffma r false true (a k) (b k) (c k)) ∧
    result (.fnma f) (fun k => ffma r true false (a k) (b k) (c k))) ∧
  (∀ (s : State) (f : VR),
  let a (k : Nat) : Word := lane (s.vunit.rv f.va) k
  let b (k : Nat) : Word := lane (s.vunit.rv f.vb) k
  let compare (i : Instr) (n : Nat) : Prop := s.CompareResult i f.vd f.mask fun k => fcmp n (a k) (b k)
  compare (.fcmpEq f) 0 ∧ compare (.fcmpNe f) 1 ∧ compare (.fcmpLt f) 2 ∧ compare (.fcmpLe f) 3 ∧
  compare (.fcmpUn f) 4 ∧
  s.LaneResult (.fclass f) f.vd f.mask 2 (fun k w =>
    let ex := (a k).toNat / 2 ^ 23 % 2 ^ 8
    let fr := (a k).toNat % 2 ^ 23
    let neg := (a k).getLsbD 31
    w = BitVec.ofNat 32 (2 ^ (
      if ex = 255 ∧ fr ≠ 0 then (if (a k).getLsbD 22 then 9 else 8)
      else if ex = 255 then (if neg then 0 else 7)
      else if ex ≠ 0 then (if neg then 1 else 6)
      else if fr ≠ 0 then (if neg then 2 else 5)
      else if neg then 3 else 4)))) ∧
  ∀ (r : Rnd) (a b c : Word),
    let v (w : Word) : FV := FV.of32 w
    let num (w : Word) : Prop := (v w).isNaN = false ∧ (v w).isInf = false
    let sg (w : Word) : Bool := w.getLsbD 31
    let inv (p : Bool) : Flags := if p then fINV else 0
    let low (x y : Word) : Prop := (v x).Below (v y) ∨ ((v x).isZero ∧ (v y).isZero ∧ sg x = true ∧ sg y = false)
    let void (x y : Word) : Bool := ((v x).isZero && (v y).isInf) || ((v x).isInf && (v y).isZero)
    (num a → num b →
      r.Rounds ((v a).real + (v b).real) (zeroSign r (sg a) (sg b)) (fadd r a b) ∧
      r.Rounds ((v a).real - (v b).real) (zeroSign r (sg a) !sg b) (fsub r a b) ∧
      r.Rounds ((v a).real * (v b).real) (sg a ^^ sg b) (fmul r a b)) ∧
    (num a → num b → num c → ∀ np nc : Bool,
      r.Rounds ((if np then -1 else 1) * ((v a).real * (v b).real) + (if nc then -1 else 1) * (v c).real)
        (zeroSign r (sg a ^^ sg b ^^ np) (sg c ^^ nc)) (ffma r np nc a b c)) ∧
    ((v a).isNaN = true ∨ (v b).isNaN = true →
      let first : Word × Flags := (0x00400000 ||| (if (v a).isNaN then a else b), inv ((v a).sig || (v b).sig))
      fadd r a b = first ∧ fsub r a b = first ∧ fmul r a b = first) ∧
    ((v a).isNaN = true ∨ (v b).isNaN = true ∨ (v c).isNaN = true → ∀ np nc : Bool,
      ffma r np nc a b c = (0x00400000 ||| (if (v a).isNaN then a else if (v b).isNaN then b else c),
        inv ((v a).sig || (v b).sig || (v c).sig || void a b))) ∧
    ((v b).isNaN = false → fsub r a b = fadd r a (b ^^^ 0x80000000)) ∧
    ((v a).isInf = true → num b → fadd r a b = (a, 0) ∧ fadd r b a = (a, 0)) ∧
    ((v a).isInf = true → (v b).isInf = true → fadd r a b = if a = b then (a, 0) else (0x7FC00000, fINV)) ∧
    ((v a).isNaN = false → (v b).isNaN = false → (v a).isInf = true ∨ (v b).isInf = true →
      fmul r a b = if void a b then (0x7FC00000, fINV)
        else (if (sg a ^^ sg b) = true then 0xFF800000 else 0x7F800000, 0)) ∧
    ((v a).isNaN = false → (v b).isNaN = false → (v c).isNaN = false → ∀ np nc : Bool,
      (void a b = true → ffma r np nc a b c = (0x7FC00000, fINV)) ∧
      (void a b = false → (v a).isInf = true ∨ (v b).isInf = true →
        ffma r np nc a b c = if (v c).isInf = true ∧ (sg c ^^ nc) ≠ (sg a ^^ sg b ^^ np) then (0x7FC00000, fINV)
          else (if (sg a ^^ sg b ^^ np) = true then 0xFF800000 else 0x7F800000, 0)) ∧
      ((v a).isInf = false → (v b).isInf = false → (v c).isInf = true →
        ffma r np nc a b c = (if (sg c ^^ nc) = true then 0xFF800000 else 0x7F800000, 0))) ∧
    ((v a).isNaN = false → (v b).isNaN = false →
      (low b a → fminmax false a b = (b, 0)) ∧ (¬ low b a → fminmax false a b = (a, 0)) ∧
      (low a b → fminmax true a b = (b, 0)) ∧ (¬ low a b → fminmax true a b = (a, 0)) ∧
      ((fcmp 0 a b).1 = true ↔ ¬ (v a).Below (v b) ∧ ¬ (v b).Below (v a)) ∧
      ((fcmp 1 a b).1 = true ↔ (v a).Below (v b) ∨ (v b).Below (v a)) ∧
      ((fcmp 2 a b).1 = true ↔ (v a).Below (v b)) ∧ ((fcmp 3 a b).1 = true ↔ ¬ (v b).Below (v a)) ∧
      (fcmp 4 a b).1 = false ∧ ∀ n, n < 5 → (fcmp n a b).2 = 0) ∧
    ((v a).isNaN = true ∨ (v b).isNaN = true →
      (∀ m, fminmax m a b = (if (v a).isNaN then (if (v b).isNaN then 0x00400000 ||| a else b) else a,
        inv ((v a).sig || (v b).sig))) ∧
      (fcmp 0 a b).1 = false ∧ (fcmp 1 a b).1 = true ∧ (fcmp 2 a b).1 = false ∧ (fcmp 3 a b).1 = false ∧
      (fcmp 4 a b).1 = true ∧
      ∀ n, n < 5 → (fcmp n a b).2 = inv (n == 2 || n == 3 || (v a).sig || (v b).sig))

/-- R106 to R109: a finite magnitude m * 2^e rounded to FP32, to nearest and not beyond the largest finite number, lies no
farther from it than any finite FP32 number does; rounded towards zero, it is the greatest one not above it. The same of FP32,
BF16, E5M2, E4M3 and E2M1 in every mode: to nearest (a tie to the even code), towards zero, upwards and downwards; a magnitude
whose rounded value would lie beyond the largest finite one becomes infinity or that number, with OVF and INX, or, in E4M3 and
E2M1, that number with SAT and INX; the flags of a result within (UNF only of a tiny inexact one); stochastic rounding between
the neighbours K * 2^q and (K+1) * 2^q by the dither of R109; a negative value as its magnitude with upwards and downwards
exchanged. -/
def Obligations.NearestIsNearest : Prop :=
  (∀ (m : Nat) (e : Int),
  let v : ℚ := (m : ℚ) * (2 : ℚ) ^ e
  let value (c : Nat) : ℚ := match FV.of32 (BitVec.ofNat 32 c) with
    | .fin _ m e => (m : ℚ) * (2 : ℚ) ^ e
    | _ => 0
  ((fp32.round .rne false m e).1 ≤ 0x7F7FFFFF →
    ∀ c, c ≤ 0x7F7FFFFF → |v - value (fp32.round .rne false m e).1| ≤ |v - value c|) ∧
  ((fp32.round .rz false m e).1 ≤ 0x7F7FFFFF ∧ value (fp32.round .rz false m e).1 ≤ v ∧
    ∀ c, c ≤ 0x7F7FFFFF → value c ≤ v → value c ≤ value (fp32.round .rz false m e).1)) ∧
  (let holds (F : Fmt) (of : Nat → FV) : Prop :=
    let val (c : Nat) : ℚ := (of c).real
    let big : ℚ := val F.max
    let ulp : ℚ := big - val (F.max - 1)
    (∀ r, F.round r false 0 0 = (0, 0)) ∧
    ∀ (m : Nat) (e : Int), 0 < m →
      let v : ℚ := (m : ℚ) * (2 : ℚ) ^ e
      let beyond : Flags := if F.inf = none then fSAT ||| fINX else fOVF ||| fINX
      let tooBig (r : Rnd) : Prop := F.round r false m e = (F.inf.getD F.max, beyond)
      let capped (r : Rnd) : Prop := F.round r false m e = (F.max, beyond)
      let within (r : Rnd) (P : Nat → Prop) : Prop := ∃ c, c ≤ F.max ∧ P c ∧
        F.round r false m e = (c, if val c = v then 0 else if v < (2 : ℚ) ^ F.emin then fUNF ||| fINX else fINX)
      (if v < big + ulp / 2 ∨ (v = big + ulp / 2 ∧ F.max % 2 = 0)
        then within .rne fun c => ∀ d, d ≤ F.max → |v - val c| ≤ |v - val d| ∧ (|v - val c| = |v - val d| → d = c ∨ c % 2 = 0)
        else tooBig .rne) ∧
      (∀ r, r = .rz ∨ r = .rd → if v < big + ulp
        then within r fun c => val c ≤ v ∧ ∀ d, d ≤ F.max → val d ≤ v → val d ≤ val c
        else capped r) ∧
      (if v ≤ big then within .ru fun c => v ≤ val c ∧ ∀ d, d ≤ F.max → v ≤ val d → val c ≤ val d else tooBig .ru) ∧
      (∀ (seed : BitVec 64) (src q : Int) (K : Nat),
        (v < (2 : ℚ) ^ F.emin ∧ q = F.emin - F.f) ∨ (F.emin ≤ q + F.f ∧ (2 : ℚ) ^ (q + F.f) ≤ v ∧ v < (2 : ℚ) ^ (q + F.f + 1)) →
        (K : ℚ) * 2 ^ q ≤ v → v < (K + 1 : ℚ) * 2 ^ q →
        let wd := min (q - src).toNat 32
        let dd := ⌊(v / 2 ^ q - K) * 2 ^ wd⌋.toNat
        let up := v ≠ (K : ℚ) * 2 ^ q ∧ 2 ^ wd ≤ dd + (mix seed dd).toNat / 2 ^ (32 - wd)
        ∀ x : ℚ, (up → x = (K + 1 : ℚ) * 2 ^ q) → (¬ up → x = (K : ℚ) * 2 ^ q) →
          if x ≤ big then within (.sr seed src) fun c => val c = x else tooBig (.sr seed src)) ∧
      F.round .rne true m e = (2 ^ (F.width - 1) + (F.round .rne false m e).1, (F.round .rne false m e).2) ∧
      F.round .rz true m e = (2 ^ (F.width - 1) + (F.round .rz false m e).1, (F.round .rz false m e).2) ∧
      F.round .ru true m e = (2 ^ (F.width - 1) + (F.round .rd false m e).1, (F.round .rd false m e).2) ∧
      F.round .rd true m e = (2 ^ (F.width - 1) + (F.round .ru false m e).1, (F.round .ru false m e).2) ∧
      ∀ seed src, F.round (.sr seed src) true m e =
        (2 ^ (F.width - 1) + (F.round (.sr seed src) false m e).1, (F.round (.sr seed src) false m e).2)
   holds fp32 (fun c => FV.of32 (BitVec.ofNat 32 c)) ∧ holds bf16 FV.ofBF16 ∧ holds e5m2 FV.ofE5M2 ∧ holds e4m3 FV.ofE4M3 ∧
   holds e2m1 FV.ofE2M1) ∧
  (∀ (seed : BitVec 64) (dd : Nat), dd < 2 ^ 32 →
    let a := (dd ^^^ seed.toNat % 2 ^ 32) * 0x4C957F2D % 2 ^ 32
    let b := ((a ^^^ a / 2 ^ 15) + seed.toNat / 2 ^ 32) % 2 ^ 32
    let c := b * 0x3A8F05C5 % 2 ^ 32
    (mix seed dd).toNat = c ^^^ c / 2 ^ 13) ∧
  mix 0 0x8000 = 0x24171E10

/-- R131: the sign operations act on bits alone, in the selected lanes, at t+2, and set no flag. -/
def Obligations.SignOperations : Prop := ∀ (s : State) (f : VR),
  let a (k : Nat) : Word := lane (s.vunit.rv f.va) k
  let b (k : Nat) : Word := lane (s.vunit.rv f.vb) k
  s.LaneResult (.fabs f) f.vd f.mask 2 (fun k w =>
    w.getLsbD 31 = false ∧ ∀ i, i < 31 → w.getLsbD i = (a k).getLsbD i) ∧
  s.LaneResult (.fneg f) f.vd f.mask 2 (fun k w =>
    w.getLsbD 31 = (!(a k).getLsbD 31) ∧ ∀ i, i < 31 → w.getLsbD i = (a k).getLsbD i) ∧
  s.LaneResult (.fcps f) f.vd f.mask 2 (fun k w =>
    w.getLsbD 31 = (b k).getLsbD 31 ∧ ∀ i, i < 31 → w.getLsbD i = (a k).getLsbD i) ∧
  encode (.fabs f) = some (f.toWord 0x06) ∧ encode (.fneg f) = some (f.toWord 0x07) ∧
  encode (.fcps f) = some (f.toWord 0x08) ∧
  ((Instr.fabs f).wf = true → f.vb = 0 ∧ f.rnd = 0 ∧ f.sub = 0) ∧
  ((Instr.fneg f).wf = true → f.vb = 0 ∧ f.rnd = 0 ∧ f.sub = 0) ∧
  ((Instr.fcps f).wf = true → f.rnd = 0 ∧ f.sub = 0)

/-- R134: FSEL writes every lane at t+2, from va where the mask it names holds 1 and from vb elsewhere. -/
def Obligations.SelectByMask : Prop := ∀ (s : State) (f : VR),
  s.FullResult (.fsel f) f.vd 2 (fun k w =>
    ((s.vunit.rm f.mask).getLsbD k = true → w = lane (s.vunit.rv f.va) k) ∧
    ((s.vunit.rm f.mask).getLsbD k = false → w = lane (s.vunit.rv f.vb) k)) ∧
  encode (.fsel f) = some (f.toWord 0x0B) ∧ ((Instr.fsel f).wf = true → f.rnd = 0 ∧ f.sub = 0) ∧
  encode (.fsel { vd := 7, va := 8, vb := 9, mask := 4, rnd := 0, sub := 0 }) = some 0x0B3A1300

/-- R135 to R137: integer lanes in exact arithmetic, and bit by bit for the logical ones; shift counts are the low five bits;
the six integer conditions into a mask; no flag. -/
def Obligations.IntegerLaneResults : Prop :=
  (∀ s : State,
  (∀ f : VR,
    let two (i : Instr) (lat : Nat) (P : Word → Word → Word → Prop) : Prop :=
      s.LaneResult i f.vd f.mask lat fun k w => P (lane (s.vunit.rv f.va) k) (lane (s.vunit.rv f.vb) k) w
    two (.iadd f) 2 (fun a b w => w.toNat = (a.toNat + b.toNat) % 2 ^ 32) ∧
    two (.isub f) 2 (fun a b w => w.toNat = (a.toNat + (2 ^ 32 - b.toNat)) % 2 ^ 32) ∧
    two (.imul f) 4 (fun a b w => w.toNat = a.toNat * b.toNat % 2 ^ 32) ∧
    two (.imulh f) 4 (fun a b w => w.toInt = a.toInt * b.toInt / 2 ^ 32) ∧
    two (.imin f) 2 (fun a b w => w = if a.toInt ≤ b.toInt then a else b) ∧
    two (.imax f) 2 (fun a b w => w = if a.toInt ≥ b.toInt then a else b) ∧
    two (.iand f) 2 (fun a b w => ∀ i, w.getLsbD i = (a.getLsbD i && b.getLsbD i)) ∧
    two (.ior f) 2 (fun a b w => ∀ i, w.getLsbD i = (a.getLsbD i || b.getLsbD i)) ∧
    two (.ixor f) 2 (fun a b w => ∀ i, w.getLsbD i = (a.getLsbD i != b.getLsbD i)) ∧
    two (.ishl f) 2 (fun a b w => w.toNat = a.toNat * 2 ^ (b.toNat % 32) % 2 ^ 32) ∧
    two (.ishr f) 2 (fun a b w => w.toNat = a.toNat / 2 ^ (b.toNat % 32)) ∧
    two (.isar f) 2 (fun a b w => w.toInt = a.toInt / 2 ^ (b.toNat % 32))) ∧
  ∀ f : VI, f.imm < 2 ^ 11 →
    let one (i : Instr) (P : Word → Word → Prop) : Prop :=
      s.LaneResult i f.vd f.mask 2 fun k w => P (lane (s.vunit.rv f.va) k) w
    one (.iaddi f) (fun a w => w.toInt = (a.toInt + sext 11 f.imm).bmod (2 ^ 32)) ∧
    one (.iandi f) (fun a w => ∀ i, w.getLsbD i = (a.getLsbD i && f.imm.testBit i)) ∧
    one (.iori f) (fun a w => ∀ i, w.getLsbD i = (a.getLsbD i || f.imm.testBit i)) ∧
    one (.ixori f) (fun a w => ∀ i, w.getLsbD i = (a.getLsbD i != f.imm.testBit i)) ∧
    one (.ishli f) (fun a w => w.toNat = a.toNat * 2 ^ (f.imm % 32) % 2 ^ 32) ∧
    one (.ishri f) (fun a w => w.toNat = a.toNat / 2 ^ (f.imm % 32)) ∧
    one (.isari f) (fun a w => w.toInt = a.toInt / 2 ^ (f.imm % 32))) ∧
  (∀ (s : State) (f : VR),
  let compare (i : Instr) (P : Word → Word → Bool) : Prop :=
    s.CompareResult i f.vd f.mask fun k => (P (lane (s.vunit.rv f.va) k) (lane (s.vunit.rv f.vb) k), 0)
  compare (.icmpEq f) (fun a b => decide (a.toNat = b.toNat)) ∧ compare (.icmpNe f) (fun a b => decide (a.toNat ≠ b.toNat)) ∧
  compare (.icmpLt f) (fun a b => decide (a.toInt < b.toInt)) ∧ compare (.icmpGe f) (fun a b => decide (a.toInt ≥ b.toInt)) ∧
  compare (.icmpLtu f) (fun a b => decide (a.toNat < b.toNat)) ∧
  compare (.icmpGeu f) (fun a b => decide (a.toNat ≥ b.toNat)))

/-- R138: constants and lane movement in the selected lanes, all sources read at t. R139: masks combined in every bit, and the
count of a mask's ones in every lane; mask 0 reads all ones. -/
def Obligations.LaneMovementAndMasks : Prop :=
  (∀ s : State,
  (∀ f : VU, f.imm < 2 ^ 16 → s.LaneResult (.vli f) f.vd f.mask 2 fun _ w => w.toNat = f.imm * 2 ^ 16) ∧
  (∀ f : VR,
    s.LaneResult (.viota f) f.vd f.mask 2 (fun k w => w.toNat = k) ∧
    s.LaneResult (.vperm f) f.vd f.mask 3 (fun k w =>
      w = lane (s.vunit.rv f.va) ((lane (s.vunit.rv f.vb) k).toNat % 256))) ∧
  ∀ f : VI, f.imm < 256 →
    s.LaneResult (.vrot f) f.vd f.mask 3 (fun k w => w = lane (s.vunit.rv f.va) ((k + f.imm) % 256)) ∧
    s.LaneResult (.vbcastl f) f.vd f.mask 3 (fun _ w => w = lane (s.vunit.rv f.va) f.imm)) ∧
  (∀ (s : State) (f : VR),
  let x := s.vunit.rm (f.va % 8)
  let y := s.vunit.rm (f.vb % 8)
  let result (i : Instr) (P : Nat → Bool) : Prop := s.Answers i fun t => ∃ val : Mask,
    (∀ k, k < 256 → val.getLsbD k = P k) ∧ s.Writes t [(2, .vm s.vslot (f.vd % 8) (BitVec.allOnes 256) val)]
  result (.mand f) (fun k => x.getLsbD k && y.getLsbD k) ∧ result (.mor f) (fun k => x.getLsbD k || y.getLsbD k) ∧
  result (.mnot f) (fun k => !x.getLsbD k) ∧
  s.FullResult (.mpop f) f.vd 2 (fun _ w => w.toNat = (List.range 256).countP fun k => x.getLsbD k) ∧
  ∀ k, k < 256 → (s.vunit.rm 0).getLsbD k = true)

/-! ### Reductions, conversions, functions, draws -/

/-- R154 and R155: VRSUM, VRMAX, VRMIN and VRSUMG write every lane with its group's tree result, or what an empty group gives,
and the flags of the additions and comparisons performed; VSTAT writes mean and variance in the halves of each group, in
selected lanes, with the flags of the groups that have one. Of a group of finite values they are formed as R155 writes it, the
sums about the first value in lane order, each rounded; a NaN or an infinity in the group decides both. A group of one finite
value has that value for mean, +0 for variance and no flag; a variance is a NaN or has sign 0. -/
def Obligations.ReductionsAndStatistics : Prop :=
  (∀ (s : State) (f : VR),
    let sel (j : Nat) : Bool := (s.vunit.rm f.mask).getLsbD j
    let x (j : Nat) : Word := lane (s.vunit.rv f.va) j
    let tree (i : Instr) (n : Nat) (op : Word → Word → Word × Flags) (empty : Word) : Prop :=
      let node (m : Nat) : Option Word × Flags := treeNode op (fun j => if sel j then some (x j) else none) n m
      s.Answers i fun t => ∃ (val : Lanes) (fl : Flags),
        (∀ k, k < 256 → lane val k = (node (k / 2 ^ n)).1.getD empty) ∧
        (∀ b, b < 6 → (fl.getLsbD b = true ↔ ∃ m, m < 256 / 2 ^ n ∧ (node m).2.getLsbD b = true)) ∧
        s.Writes t [(8, .v s.vslot f.vd allLanes val), (8, .flagsSet s.vslot fl)]
    tree (.vrsum f) 8 (fadd .rne) 0 ∧ tree (.vrmax f) 8 (fminmax true) 0xFF800000 ∧
    tree (.vrmin f) 8 (fminmax false) 0x7F800000 ∧ (f.sub ≤ 5 → tree (.vrsumg f) (f.sub + 3) (fadd .rne) 0) ∧
    (f.sub ≤ 3 →
      let g := 2 ^ (f.sub + 5)
      let r (k : Nat) : Word × Word × Flags := stat (f.sub + 5) ((List.range g).map fun j => x (k / g * g + j))
      s.Answers (.vstat f) fun t => ∃ (val : Lanes) (fl : Flags),
        (∀ k, k < 256 → sel k = true → lane val k = if k % g < g / 2 then (r k).1 else (r k).2.1) ∧
        (∀ b, b < 6 → (fl.getLsbD b = true ↔ ∃ k, k < 256 ∧ sel k = true ∧ (r k).2.2.getLsbD b = true)) ∧
        s.Writes t [(14, .v s.vslot f.vd (laneMask (s.vunit.rm f.mask)) val), (14, .flagsSet s.vslot fl)])) ∧
  (∀ (c : Word) (n k : Nat), n ≤ 8 → (FV.of32 c).isNaN = false → (FV.of32 c).isInf = false →
    stat n (List.replicate (k + 1) c) = (c, 0, 0)) ∧
  (∀ (n : Nat) (xs : List Word) (c : Word),
    let v (w : Word) : FV := FV.of32 w
    let num (w : Word) : Prop := (v w).isNaN = false ∧ (v w).isInf = false
    (xs.head? = some c → (∀ x ∈ xs, num x) →
      let scaled (r : Word × Flags) (w : Word) : Prop :=
        (num w → Rnd.rne.Rounds ((v w).real / 2 ^ n) (w.getLsbD 31) r) ∧ ((v w).isInf = true → r = (w, 0)) ∧
        ((v w).isNaN = true → r = (w ||| 0x00400000, if (v w).sig = true then fINV else 0))
      let sums : Word × Word × Flags := xs.foldl (fun (a : Word × Word × Flags) x =>
        let d := fsub .rne x c
        let s1 := fadd .rne a.1 d.1
        let s2 := ffma .rne false false d.1 d.1 a.2.1
        (s1.1, s2.1, a.2.2 ||| d.2 ||| s1.2 ||| s2.2)) (0, 0, 0)
      ∃ q h : Word × Flags, scaled q sums.1 ∧ scaled h sums.2.1 ∧
        let mean : Word × Flags := if (v sums.1).isZero = true then (c, 0) else fadd .rne c q.1
        let var := ffma .rne true false q.1 q.1 h.1
        stat n xs = (mean.1, if (v var.1).isNaN = false ∧ var.1.getLsbD 31 = true then 0 else var.1,
          sums.2.2 ||| q.2 ||| mean.2 ||| h.2 ||| var.2)) ∧
    ((∃ x ∈ xs, ¬ num x) → ∃ r : Word,
      stat n xs = (r, r, if (∃ x ∈ xs, (v x).sig = true) ∨ ∀ x ∈ xs, (v x).isNaN = false then fINV else 0) ∧
      ((∀ x ∈ xs, (v x).isNaN = false) → r = 0x7FC00000) ∧
      ∀ before w after, xs = before ++ w :: after → (∀ x ∈ before, (v x).isNaN = false) → (v w).isNaN = true →
        r = w ||| 0x00400000)) ∧
  ∀ (n : Nat) (xs : List Word), (FV.of32 (stat n xs).2.1).isNaN = true ∨ (stat n xs).2.1.getLsbD 31 = false

/-- R113 and R114: the conversions of the selected elements at t+4, narrowing ones into the elements' own fields; their
rounding is by the code, or by the seed as it stands at t (R108). What a narrowing, a widening and an integer conversion give
is the statement `ConversionValues`, what a rounding gives the statement `NearestIsNearest`. -/
def Obligations.Conversions : Prop := ∀ (s : State) (f : VR),
  let x (k : Nat) : Word := lane (s.vunit.rv f.va) k
  let r (k : Nat) : Rnd := Rnd.ofCode f.rnd s.vunit.seed (ulp32 (x k))
  let field (w k : Nat) : Nat := (x (k / (32 / w))).toNat / 2 ^ (w * (k % (32 / w))) % 2 ^ w
  s.PackedResult (.cvtBf16F32 f) f.vd f.mask 4 16 (fun k => narrowTo bf16 (r k) (x k)) ∧
  s.PackedResult (.cvtE4m3F32 f) f.vd f.mask 4 8 (fun k => narrowTo e4m3 (r k) (x k)) ∧
  s.PackedResult (.cvtE5m2F32 f) f.vd f.mask 4 8 (fun k => narrowTo e5m2 (r k) (x k)) ∧
  s.PackedResult (.cvtI32F32 f) f.vd f.mask 4 32 (fun k => ((toInt32 (r k) (x k)).1.toNat, (toInt32 (r k) (x k)).2)) ∧
  s.FlaggedResult (.cvtF32Bf16 f) f.vd f.mask 4 (fun k => widen (FV.ofBF16 (field 16 k))) ∧
  s.FlaggedResult (.cvtF32E4m3 f) f.vd f.mask 4 (fun k => widen (FV.ofE4M3 (field 8 k))) ∧
  s.FlaggedResult (.cvtF32E5m2 f) f.vd f.mask 4 (fun k => widen (FV.ofE5M2 (field 8 k))) ∧
  s.FlaggedResult (.cvtF32I32 f) f.vd f.mask 4 (fun k => ofInt32 (x k))

/-- R107, R114, R115: a finite FP32 number becomes the integer that its mode names (the floor, the ceiling, the one towards
zero, a nearest one, the even one on a tie, or by the dither of R108), held to the 32-bit range, with INX alone where it is
not exact and INV and SAT out of range; an INT32 becomes the nearest FP32 number. A finite FP32 number is rounded to BF16,
E4M3 and E5M2 as `NearestIsNearest` says; BF16, E4M3 and E5M2 codes of finite values widen to their exact value without a
flag, and narrow back to themselves without one. Infinities and NaNs convert as the table of R115 says. -/
def Obligations.ConversionValues : Prop :=
  (∀ w : Word, (FV.of32 w).isNaN = false → (FV.of32 w).isInf = false →
    let v := (FV.of32 w).real
    let held (k : Int) : Int := max (-2 ^ 31) (min (2 ^ 31 - 1) k)
    (toInt32 .rd w).1.toInt = held ⌊v⌋ ∧ (toInt32 .ru w).1.toInt = held ⌈v⌉ ∧
    (toInt32 .rz w).1.toInt = held (if v < 0 then ⌈v⌉ else ⌊v⌋) ∧
    (∃ k : Int, (toInt32 .rne w).1.toInt = held k ∧ |v - k| ≤ 1 / 2 ∧ (|v - k| = 1 / 2 → k % 2 = 0)) ∧
    (∀ (seed : BitVec 64) (src : Int),
      let wd := min (-src).toNat 32
      let dd := ⌊(|v| - ⌊|v|⌋) * 2 ^ wd⌋.toNat
      let k : Int := if |v| ≠ ⌊|v|⌋ ∧ 2 ^ wd ≤ dd + (mix seed dd).toNat / 2 ^ (32 - wd) then ⌊|v|⌋ + 1 else ⌊|v|⌋
      (toInt32 (.sr seed src) w).1.toInt = held (if v < 0 then -k else k)) ∧
    ∀ r : Rnd, (toInt32 r w).2 =
      if ((toInt32 r w).1.toInt : ℚ) = v then 0
      else if |v - (toInt32 r w).1.toInt| < 1 then fINX else fINV ||| fSAT) ∧
  (let exact (F : Fmt) (of : Nat → FV) (n : Nat) : Prop := ∀ c, c < n → (of c).isNaN = false → (of c).isInf = false →
    (FV.of32 (widen (of c)).1).real = (of c).real ∧ (widen (of c)).2 = 0 ∧
    ∀ r : Rnd, narrowTo F r (widen (of c)).1 = (c, 0)
  exact bf16 FV.ofBF16 (2 ^ 16) ∧ exact e4m3 FV.ofE4M3 (2 ^ 8) ∧ exact e5m2 FV.ofE5M2 (2 ^ 8)) ∧
  (∀ w : Word, Rnd.rne.Rounds (w.toInt : ℚ) false (ofInt32 w)) ∧
  (∀ (w : Word) (n : Bool) (m : Nat) (e : Int) (r : Rnd), FV.of32 w = .fin n m e →
    narrowTo bf16 r w = bf16.round r n m e ∧ narrowTo e4m3 r w = e4m3.round r n m e ∧
    narrowTo e5m2 r w = e5m2.round r n m e) ∧
  (∀ r : Rnd,
    narrowTo bf16 r 0x7F800000 = (0x7F80, 0) ∧ narrowTo bf16 r 0xFF800000 = (0xFF80, 0) ∧
    narrowTo e4m3 r 0x7F800000 = (0x7E, fSAT ||| fINX) ∧ narrowTo e4m3 r 0xFF800000 = (0xFE, fSAT ||| fINX) ∧
    narrowTo e5m2 r 0x7F800000 = (0x7C, 0) ∧ narrowTo e5m2 r 0xFF800000 = (0xFC, 0) ∧
    toInt32 r 0x7F800000 = (0x7FFFFFFF, fINV ||| fSAT) ∧ toInt32 r 0xFF800000 = (0x80000000, fINV ||| fSAT)) ∧
  (∀ (w : Word) (r : Rnd), w.toNat / 2 ^ 23 % 2 ^ 8 = 0xFF → w.toNat % 2 ^ 23 ≠ 0 →
    let signals : Flags := if w.getLsbD 22 then 0 else fINV
    let s := w.toNat / 2 ^ 31
    narrowTo bf16 r w = (w.toNat / 2 ^ 16 ||| 2 ^ 6, signals) ∧ narrowTo e4m3 r w = (2 ^ 7 * s + 0x7F, signals) ∧
    narrowTo e5m2 r w = (2 ^ 7 * s + 0x7E, signals) ∧ toInt32 r w = (0, fINV)) ∧
  (∀ c, c < 2 ^ 16 → c / 2 ^ 7 % 2 ^ 8 = 0xFF → c % 2 ^ 7 ≠ 0 →
    widen (FV.ofBF16 c) = (BitVec.ofNat 32 (2 ^ 16 * c ||| 2 ^ 22), if c / 2 ^ 6 % 2 = 1 then 0 else fINV)) ∧
  widen (FV.ofBF16 0x7F80) = (0x7F800000, 0) ∧ widen (FV.ofBF16 0xFF80) = (0xFF800000, 0) ∧
  widen (FV.ofE5M2 0x7C) = (0x7F800000, 0) ∧ widen (FV.ofE5M2 0xFC) = (0xFF800000, 0) ∧
  widen (FV.ofE4M3 0x7F) = (0x7FC00000, 0) ∧ widen (FV.ofE4M3 0xFF) = (0xFFC00000, 0) ∧
  ∀ c, 0x7C < c → c ≤ 0x7F → widen (FV.ofE5M2 c) = (0x7FC00000, 0) ∧ widen (FV.ofE5M2 (2 ^ 7 + c)) = (0xFFC00000, 0)

/-- R116 to R121: CVTMX8 and CVTMX4 write the whole of vd at t+6 in their layout, each block of 32 lanes with its scale and
codes; UNMX and CB4DEC expand the selected elements at t+4, CB4ENC packs the selected indices. What a block's scale and codes
and an index are is the statement `BlockScaleAndNearestEntry`. -/
def Obligations.BlocksAndCodebooks : Prop := ∀ (s : State) (f : VR),
  let x (k : Nat) : Word := lane (s.vunit.rv f.va) k
  let byte (v : Lanes) (i : Nat) : Nat := (lane v (i / 4)).toNat / 2 ^ (8 * (i % 4)) % 2 ^ 8
  let code (v : Lanes) (w i : Nat) : Nat := (lane v (i / (32 / w))).toNat / 2 ^ (w * (i % (32 / w))) % 2 ^ w
  let mx (i : Instr) (F : Fmt) (emax : Int) (w : Nat) : Prop :=
    let block (b : Nat) : Nat × List Nat × Flags := mxBlock F emax f.rnd s.vunit.seed ((List.range 32).map fun j =>
      if (s.vunit.rm f.mask).getLsbD (32 * b + j) then x (32 * b + j) else 0)
    s.Answers i fun t => ∃ (val : Lanes) (fl : Flags),
      (∀ k, k < 256 → code val w k = (block (k / 32)).2.1.getD (k % 32) 0 % 2 ^ w) ∧
      (∀ b, b < 8 → byte val (32 * w + b) = (block b).1 % 2 ^ 8) ∧
      (∀ l, 8 * w + 2 ≤ l → l < 255 → lane val l = 0) ∧ (lane val 255).toNat = w ∧
      (∀ b, b < 6 → (fl.getLsbD b = true ↔ ∃ k, k < 8 ∧ (block k).2.2.getLsbD b = true)) ∧
      s.Writes t [(6, .v s.vslot f.vd allLanes val), (6, .flagsSet s.vslot fl)]
  mx (.cvtmx8 f) e4m3 8 8 ∧ mx (.cvtmx4 f) e2m1 2 4 ∧
  s.FlaggedResult (.unmx f) f.vd f.mask 4 (fun k =>
    let v := s.vunit.rv f.va
    let w := (x 255).toNat
    let sc := byte v (32 * w + k / 32)
    if w ≠ 8 ∧ w ≠ 4 then (0x7FC00000, fINV)
    else if sc = 0xFF then (0x7FC00000, 0)
    else widen ((if w = 8 then FV.ofE4M3 (code v 8 k) else FV.ofE2M1 (code v 4 k)).scale ((sc : Int) - 127))) ∧
  (let book : BitVec 256 := s.myCtx.mx.books[f.sub % 4]?.getD 0
   s.FlaggedResult (.cb4dec f) f.vd f.mask 4 (fun k =>
     widen (FV.ofBF16 (book.toNat / 2 ^ (16 * code (s.vunit.rv f.va) 4 k) % 2 ^ 16))) ∧
   s.PackedResult (.cb4enc f) f.vd f.mask 4 4 (fun k => cb4enc book f.rnd s.vunit.seed (x k)))

/-- R117 and R121: in a block without NaNs whose scale is not at its lower end, the largest finite magnitude lies in
[2^(e+emax), 2^(e+emax+1)) for e = scale - 127; a finite number under a codebook of finite entries takes, to nearest, an entry
no farther from it than any other. CB4ENC under each rounding code: an input equal to an entry, an infinity among them, takes
the lowest index of one, without flag; one between two entries the one that its code chooses, with INX, and one beyond them
all the nearest, with SAT and INX; among equal entries the lowest index; a NaN takes the lowest NaN entry; and where there is
none, or every entry is a NaN, index 0 with INV. R115, R117, R108: the scale of a block with a NaN is 0xFF and its codes 0,
that of a block without a finite nonzero value 0x7F, and 0 exactly when all magnitudes lie below 2^(emax-126); an element's
code is x * 2^-e rounded once to E4M3 or E2M1 (as `NearestIsNearest` says), the dither from the spacing of x times 2^-e, and
that of an infinity the largest finite one with SAT and INX; a block sets the flags that its elements raise. -/
def Obligations.BlockScaleAndNearestEntry : Prop :=
  (∀ (F : Fmt) (emax : Int) (code : Nat) (seed : BitVec 64) (xs : List Word),
    (∀ w ∈ xs, (FV.of32 w).isNaN = false) → 0 < (mxBlock F emax code seed xs).1 → 0 ≤ emax →
    (∃ w ∈ xs, (FV.of32 w).real ≠ 0) →
    let top : Int := (mxBlock F emax code seed xs).1 - 127 + emax
    (∀ w ∈ xs, |(FV.of32 w).real| < 2 ^ (top + 1)) ∧ ∃ w ∈ xs, (2 : ℚ) ^ top ≤ |(FV.of32 w).real|) ∧
  (∀ (F : Fmt) (emax : Int) (code : Nat) (seed : BitVec 64) (xs : List Word), (F = e4m3 ∧ emax = 8) ∨ (F = e2m1 ∧ emax = 2) →
    let out := mxBlock F emax code seed xs
    ((∃ w ∈ xs, (FV.of32 w).isNaN = true) → out.1 = 0xFF ∧ out.2.1 = List.replicate xs.length 0 ∧
      out.2.2 = if ∃ w ∈ xs, (FV.of32 w).isNaN = true ∧ w.getLsbD 22 = false then fINV else 0) ∧
    ((∀ w ∈ xs, (FV.of32 w).isNaN = false) →
      ((∀ w ∈ xs, (FV.of32 w).real = 0) → out.1 = 0x7F) ∧
      (out.1 = 0 ↔ (∃ w ∈ xs, (FV.of32 w).real ≠ 0) ∧ ∀ w ∈ xs, |(FV.of32 w).real| < (2 : ℚ) ^ (emax - 126)) ∧
      let e : Int := out.1 - 127
      let element (w : Word) : Nat × Flags := match FV.of32 w with
        | .fin n m ex => F.round (if code = 4 then .sr seed (ulp32 w - e) else Rnd.of code) n m (ex - e)
        | .inf n => ((if n then 2 ^ (F.width - 1) else 0) + F.max, fSAT ||| fINX)
        | .nan _ _ => (0, 0)
      out.2.1.length = xs.length ∧ (∀ k, (hk : k < xs.length) → out.2.1.getD k 0 = (element xs[k]).1) ∧
      ∀ b, out.2.2.getLsbD b = true ↔ ∃ w ∈ xs, (element w).2.getLsbD b = true)) ∧
  (∀ (w : Word) (n : Bool) (m : Nat) (ex : Int), FV.of32 w = .fin n m ex → m ≠ 0 →
    let top : Nat := w.toNat / 2 ^ 23 % 2 ^ 8
    ulp32 w = (if top = 0 then -149 else (top : Int) - 150) ∧ (2 : ℚ) ^ (ulp32 w) ≤ |(FV.of32 w).real| ∧
      ∃ k : Nat, |(FV.of32 w).real| = k * (2 : ℚ) ^ (ulp32 w)) ∧
  (∀ (book : BitVec 256) (code : Nat) (seed : BitVec 64) (w : Word), code ≤ 4 →
    let x := FV.of32 w
    let entry (j : Nat) : FV := bookEntry book j
    let num (j : Nat) : Prop := j < 16 ∧ (entry j).isNaN = false
    let out := cb4enc book code seed w
    let equal (u v : FV) : Prop := ¬ u.Below v ∧ ¬ v.Below u
    let first (P : Nat → Prop) (j : Nat) : Prop := P j ∧ ∀ i, i < j → ¬ P i
    let lo (l : Nat) : Prop := num l ∧ (entry l).Below x ∧ (∀ i, num i → (entry i).Below x → ¬ (entry l).Below (entry i)) ∧
      ∀ i, i < l → num i → ¬ equal (entry i) (entry l)
    let hi (h : Nat) : Prop := num h ∧ x.Below (entry h) ∧ (∀ i, num i → x.Below (entry i) → ¬ (entry i).Below (entry h)) ∧
      ∀ i, i < h → num i → ¬ equal (entry i) (entry h)
    (x.isNaN = true → (∀ j, first (fun j => j < 16 ∧ (entry j).isNaN = true) j → out = (j, 0)) ∧
      ((∀ j, j < 16 → num j) → out = (0, fINV))) ∧
    (x.isNaN = false →
      (∀ j, first (fun j => num j ∧ equal (entry j) x) j → out = (j, 0)) ∧
      ((∀ j, ¬ num j) → out = (0, fINV)) ∧
      ((∀ j, num j → ¬ equal (entry j) x) →
        (∀ l, lo l → (∀ h, ¬ hi h) → out = (l, fSAT ||| fINX)) ∧
        (∀ h, hi h → (∀ l, ¬ lo l) → out = (h, fSAT ||| fINX)) ∧
        ∀ l h, lo l → hi h →
          let L := (entry l).real
          let H := (entry h).real
          let lowInf := (entry l).isInf = true
          let highInf := (entry h).isInf = true
          let ends : Prop := (lowInf → ¬ highInf → out = (h, fINX)) ∧ (highInf → out = (l, fINX))
          let takes (P : Prop) : Prop := (P → out = (h, fINX)) ∧ (¬ P → out = (l, fINX))
          let dd : Nat := ⌊(2 ^ 32 * (x.real - L) / (H - L) : ℚ)⌋.toNat
          (code = 0 → ends ∧ (¬ lowInf → ¬ highInf → takes (H - x.real < x.real - L))) ∧
          (code = 1 → (0 < x.real → out = (l, fINX)) ∧ (x.real < 0 → out = (h, fINX)) ∧
            (x.real = 0 → ends ∧ (¬ lowInf → ¬ highInf → takes (H < -L)))) ∧
          (code = 2 → out = (h, fINX)) ∧ (code = 3 → out = (l, fINX)) ∧
          (code = 4 → ends ∧ (¬ lowInf → ¬ highInf → takes (2 ^ 32 ≤ dd + (mix seed dd).toNat)))))) ∧
  ∀ (book : BitVec 256) (seed : BitVec 64) (w : Word), (FV.of32 w).isNaN = false → (FV.of32 w).isInf = false →
    (∀ j, j < 16 → (bookEntry book j).isNaN = false ∧ (bookEntry book j).isInf = false) →
    (cb4enc book 0 seed w).1 < 16 ∧
    ∀ j, j < 16 → |(FV.of32 w).real - (bookEntry book (cb4enc book 0 seed w).1).real| ≤
      |(FV.of32 w).real - (bookEntry book j).real|

/-- R148, R152, R153: the special functions of the selected lanes at t+12; TIEL loads a whole image, valid when lo is finite
and e lies from -126 to 104, at t+2; TIEV evaluates the table as it stands at t, for t+10. A finite result of EXP and of LOG
lies no farther from the exact value than any finite FP32 number does, to within 2^-100 of the exact value, and INX is set:
that no rounding of an FP32 input is decided inside that margin, so that the result is the nearest, is log entry 8 (DEDUCED).
RCP and RSQ: `ReciprocalsAreNearest`. TIEV on a valid table: inside the range the segment polynomial of R153, one rounding for
the difference and one for each fused step; outside it the linear rule of its side, an infinite x too (that an exact zero of x
- hi is +0 there, also for x = -0 and hi = 0, is the model's reading, log entry 52); a NaN is quieted; on an invalid table the
result is 0x7FC00000 with INV. -/
def Obligations.FunctionsAndTables : Prop :=
  (∀ (s : State) (f : VR),
  let x (k : Nat) : Word := lane (s.vunit.rv f.va) k
  s.FlaggedResult (.exp f) f.vd f.mask 12 (fun k => fexp (x k)) ∧
  s.FlaggedResult (.log f) f.vd f.mask 12 (fun k => flog (x k)) ∧
  s.FlaggedResult (.rcp f) f.vd f.mask 12 (fun k => frcp (x k)) ∧
  s.FlaggedResult (.rsq f) f.vd f.mask 12 (fun k => frsq (x k)) ∧
  (s.Answers (.tiel f) fun t => s.Writes t [(2, .tie s.vslot (f.sub % 4) (s.vunit.rv f.va))]) ∧
  (∀ (c : Ctx) (img : Lanes) (n : Nat), n < 4 →
    (((c.apply (.tie s.vslot n img)).unit s.vslot).ties[n]?.map fun t => (t.img, t.valid)) =
      some (img, decide ((lane img 0).toNat / 2 ^ 23 % 2 ^ 8 ≠ 255 ∧ -126 ≤ (lane img 1).toInt ∧ (lane img 1).toInt ≤ 104))) ∧
  s.FlaggedResult (.tiev f) f.vd f.mask 10 (fun k =>
    let t := s.vunit.ties[f.sub % 4]?.getD Tie.launch
    tiev t.img t.valid (x k))) ∧
  (∀ w c : Word, (FV.of32 w).isNaN = false → (FV.of32 w).isInf = false → (FV.of32 c).isNaN = false →
    (FV.of32 c).isInf = false →
    let x : ℝ := (((FV.of32 w).real : ℚ) : ℝ)
    let real (w : Word) : ℝ := (((FV.of32 w).real : ℚ) : ℝ)
    (x ≠ 0 → (fexp w).2.getLsbD 4 = true ∧ ((FV.of32 (fexp w).1).isInf = false →
      |Real.exp x - real (fexp w).1| ≤ |Real.exp x - real c| + Real.exp x / 2 ^ 100)) ∧
    (0 < x → x ≠ 1 → (flog w).2.getLsbD 4 = true ∧
      |Real.log x - real (flog w).1| ≤ |Real.log x - real c| + |Real.log x| / 2 ^ 100)) ∧
  ∀ (img : Lanes) (x : Word),
    let v := FV.of32 x
    let at_ (i : Nat) : FV := FV.of32 (lane img i)
    let lo := (at_ 0).real
    let e := (lane img 1).toInt
    let hi := lo + 64 * (2 : ℚ) ^ e
    let sg (w : Word) : Bool := w.getLsbD 31
    let num (v : FV) : Prop := v.isNaN = false ∧ v.isInf = false
    -- the linear rule of the lanes `i` (slope) and `i` + 1 (intercept), from the boundary `b`
    let linear (i : Nat) (b : ℚ) : Prop :=
      let s := lane img i
      let c := lane img (i + 1)
      (s = 0 ∨ s = 0x80000000 → tiev img true x = (c, 0)) ∧
      (s ≠ 0 → s ≠ 0x80000000 → num v → num (at_ i) → num (at_ (i + 1)) →
        Rnd.rne.Rounds ((at_ i).real * (v.real - b) + (at_ (i + 1)).real)
          (zeroSign .rne (sg s ^^ decide (v.real < b)) (sg c)) (tiev img true x)) ∧
      (s ≠ 0 → s ≠ 0x80000000 → v.isInf = true → (at_ i).isNaN = false → (at_ (i + 1)).isNaN = false →
        tiev img true x = if (at_ (i + 1)).isInf = true ∧ sg c ≠ (sg s ^^ sg x) then (0x7FC00000, fINV)
          else (if (sg s ^^ sg x) = true then 0xFF800000 else 0x7F800000, 0))
    tiev img false x = (0x7FC00000, fINV) ∧
    (num (at_ 0) → -126 ≤ e → e ≤ 104 →
      (v.isNaN = true → tiev img true x = (0x00400000 ||| x, if v.sig then fINV else 0)) ∧
      (num v → lo ≤ v.real → v.real < hi → ∃ (k : Nat) (t : Word × Flags), k < 64 ∧
        lo + k * (2 : ℚ) ^ e ≤ v.real ∧ v.real < lo + (k + 1) * (2 : ℚ) ^ e ∧
        Rnd.rne.Rounds (v.real - (lo + k * (2 : ℚ) ^ e)) false t ∧
        let p := ffma .rne false false t.1 (lane img (4 + 3 * k)) (lane img (3 + 3 * k))
        let y := ffma .rne false false t.1 p.1 (lane img (2 + 3 * k))
        tiev img true x = (y.1, t.2 ||| p.2 ||| y.2)) ∧
      (v.isNaN = false → v.Below (at_ 0) → linear 194 lo) ∧
      (v = .inf false ∨ (num v ∧ hi ≤ v.real) → linear 196 hi))

/-- R148, R149: the reciprocal and the reciprocal square root of a finite number are no farther from the exact value than any
finite FP32 number, where the result is finite; the results of the special inputs are those of the table, and a NaN gives
itself, quieted, in all four, with INV when it is signalling. R107: an exact value of 2^128 - 2^103 or more in magnitude gives
infinity with OVF and INX; a smaller one a finite result, with INX exactly when it is inexact, and UNF too when the exact
value is below 2^-126. For EXP, whose values are irrational, both bounds hold outside a margin of 2^-100 of the bound (log
entry 8 says why no FP32 input falls inside it); LOG and RSQ neither overflow nor underflow. -/
def Obligations.ReciprocalsAreNearest : Prop :=
  (∀ w c : Word, (FV.of32 w).real ≠ 0 → (FV.of32 c).isNaN = false → (FV.of32 c).isInf = false →
    (FV.of32 (frcp w).1).isInf = false →
    |1 / (FV.of32 w).real - (FV.of32 (frcp w).1).real| ≤ |1 / (FV.of32 w).real - (FV.of32 c).real|) ∧
  (∀ w c : Word, 0 < (FV.of32 w).real → (FV.of32 c).isNaN = false → (FV.of32 c).isInf = false →
    |1 / Real.sqrt (FV.of32 w).real - (FV.of32 (frsq w).1).real| ≤ |1 / Real.sqrt (FV.of32 w).real - (FV.of32 c).real|) ∧
  fexp 0 = (0x3F800000, 0) ∧ fexp 0x80000000 = (0x3F800000, 0) ∧ fexp 0x7F800000 = (0x7F800000, 0) ∧
  fexp 0xFF800000 = (0, 0) ∧
  flog 0 = (0xFF800000, fDZ) ∧ flog 0x80000000 = (0xFF800000, fDZ) ∧ flog 0x7F800000 = (0x7F800000, 0) ∧
  flog 0xFF800000 = (0x7FC00000, fINV) ∧ flog 0x3F800000 = (0, 0) ∧
  frcp 0 = (0x7F800000, fDZ) ∧ frcp 0x80000000 = (0xFF800000, fDZ) ∧ frcp 0x7F800000 = (0, 0) ∧
  frcp 0xFF800000 = (0x80000000, 0) ∧
  frsq 0 = (0x7F800000, fDZ) ∧ frsq 0x80000000 = (0xFF800000, fDZ) ∧ frsq 0x7F800000 = (0, 0) ∧
  frsq 0xFF800000 = (0x7FC00000, fINV) ∧
  (∀ w : Word, (FV.of32 w).isNaN = true →
    let r : Word × Flags := (w ||| 0x00400000, if (FV.of32 w).sig = true then fINV else 0)
    fexp w = r ∧ flog w = r ∧ frcp w = r ∧ frsq w = r) ∧
  (∀ w : Word, (FV.of32 w).real ≠ 0 →
    let y := 1 / (FV.of32 w).real
    (2 ^ 128 - 2 ^ 103 ≤ |y| → frcp w = (if y < 0 then 0xFF800000 else 0x7F800000, fOVF ||| fINX)) ∧
    (|y| < 2 ^ 128 - 2 ^ 103 → (FV.of32 (frcp w).1).isNaN = false ∧ (FV.of32 (frcp w).1).isInf = false ∧
      (frcp w).1.getLsbD 31 = decide (y < 0) ∧
      (frcp w).2 = if (FV.of32 (frcp w).1).real = y then 0 else if |y| < 1 / 2 ^ 126 then fUNF ||| fINX else fINX)) ∧
  (∀ w : Word, 0 < (FV.of32 w).real →
    (FV.of32 (frsq w).1).isNaN = false ∧ (FV.of32 (frsq w).1).isInf = false ∧ 0 < (FV.of32 (frsq w).1).real ∧
    (((((FV.of32 (frsq w).1).real : ℚ) : ℝ) = 1 / Real.sqrt (FV.of32 w).real) → (frsq w).2 = 0) ∧
    (((((FV.of32 (frsq w).1).real : ℚ) : ℝ) ≠ 1 / Real.sqrt (FV.of32 w).real) → (frsq w).2 = fINX) ∧
    (w ≠ 0x3F800000 → (FV.of32 (flog w).1).isNaN = false ∧ (FV.of32 (flog w).1).isInf = false ∧ (flog w).2 = fINX)) ∧
  (∀ w : Word, (FV.of32 w).real ≠ 0 →
    let y := Real.exp (((FV.of32 w).real : ℚ) : ℝ)
    let m : ℝ := 1 / 2 ^ 100
    (fexp w).1.getLsbD 31 = false ∧ (FV.of32 (fexp w).1).isNaN = false ∧
    ((2 ^ 128 - 2 ^ 103) * (1 + m) ≤ y → fexp w = (0x7F800000, fOVF ||| fINX)) ∧
    (y ≤ (2 ^ 128 - 2 ^ 103) * (1 - m) → (FV.of32 (fexp w).1).isInf = false) ∧
    (1 / 2 ^ 126 * (1 + m) ≤ y → y ≤ (2 ^ 128 - 2 ^ 103) * (1 - m) → (fexp w).2 = fINX) ∧
    (y ≤ 1 / 2 ^ 126 * (1 - m) → (fexp w).2 = fUNF ||| fINX)) ∧
  ∀ w : Word, (FV.of32 w).real < 0 → flog w = (0x7FC00000, fINV) ∧ frsq w = (0x7FC00000, fINV)

/-- R158 and R159: VRNG draws G(key, ctr + i) for the selected lanes at t+6 and leaves the counter, at t+1, 256 further on;
VRNGK, VRNGC and VSKIP set key and counter from the low lanes of va at t+1. No flag. R157: G is the exclusive or of the four
words after six rounds, each of four additions and four rotations, under key words that go up by 0x9E3779B9. -/
def Obligations.RandomDraws : Prop :=
  (∀ (s : State) (f : VR),
  let x (k : Nat) : Nat := (lane (s.vunit.rv f.va) k).toNat
  let four := x 0 + x 1 * 2 ^ 32 + x 2 * 2 ^ 64 + x 3 * 2 ^ 96
  (s.Answers (.vrng f) fun t => ∃ (val : Lanes) (ctr : BitVec 128),
    (∀ k, k < 256 → (s.vunit.rm f.mask).getLsbD k = true →
      lane val k = gWord s.vunit.key (BitVec.ofNat 128 (s.vunit.ctr.toNat + k))) ∧
    ctr.toNat = (s.vunit.ctr.toNat + 256) % 2 ^ 128 ∧
    s.Writes t [(6, .v s.vslot f.vd (laneMask (s.vunit.rm f.mask)) val), (1, .ctr s.vslot ctr)]) ∧
  (s.Answers (.vrngk f) fun t => ∃ key : BitVec 64, key.toNat = x 1 * 2 ^ 32 + x 0 ∧ s.Writes t [(1, .key s.vslot key)]) ∧
  (s.Answers (.vrngc f) fun t => ∃ ctr : BitVec 128, ctr.toNat = four ∧ s.Writes t [(1, .ctr s.vslot ctr)]) ∧
  (s.Answers (.vskip f) fun t => ∃ ctr : BitVec 128, ctr.toNat = (s.vunit.ctr.toNat + four) % 2 ^ 128 ∧
    s.Writes t [(1, .ctr s.vslot ctr)]) ∧
  encode (.vrng f) = some (f.toWord 0x48) ∧ encode (.vrngk f) = some (f.toWord 0x49) ∧
  encode (.vrngc f) = some (f.toWord 0x4A) ∧ encode (.vskip f) = some (f.toWord 0x4B) ∧
  ((Instr.vrng f).wf = true → f.va = 0 ∧ f.vb = 0 ∧ f.sub = 0) ∧
  (∀ i, i ∈ [Instr.vrngk f, .vrngc f, .vskip f] → i.wf = true → f.vd = 0 ∧ f.vb = 0 ∧ f.sub = 0)) ∧
  ∀ (key : BitVec 64) (c : BitVec 128), ∃ X : Nat → Fin 4 → Word,
    (∀ i : Fin 4, (X 0 i).toNat = c.toNat / 2 ^ (32 * i.val) % 2 ^ 32) ∧
    (∀ n, n < 6 →
      let k0 := BitVec.ofNat 32 (key.toNat % 2 ^ 32 + n * 0x9E3779B9)
      let k1 := BitVec.ofNat 32 (key.toNat / 2 ^ 32 + n * 0x9E3779B9)
      let a0 := X n 0 + (X n 1 ^^^ k0)
      let a3 := (X n 3 ^^^ a0).rotateLeft 13
      let a2 := X n 2 + (a3 ^^^ k1)
      let a1 := (X n 1 ^^^ a2).rotateLeft 9
      let b0 := a0 + a1
      let b3 := (a3 ^^^ b0).rotateLeft 17
      let b2 := a2 + b3
      X (n + 1) 0 = b0 ∧ X (n + 1) 3 = b3 ∧ X (n + 1) 2 = b2 ∧ X (n + 1) 1 = (a1 ^^^ b2).rotateLeft 5) ∧
    gWord key c = X 6 0 ^^^ X 6 1 ^^^ X 6 2 ^^^ X 6 3

/-! ### Copies and queues -/

/-- R92, R140, R142 to R145: copies read at t and land at t+2 (CPYL at t+3); QPOP and QPEEK of a queue with a head read it at
t, for the quarter or half of the destination that they name, a pop leaving the rows behind the head; QPUSH leaves its row for
t+2, where it becomes the newest row of a queue that is not full. An append, of QPUSH or of LDQ, to a queue that holds 8 rows
is fault 0x14 there, with the queue, the issue cycle and the rows held, and the row is not appended. -/
def Obligations.CopiesAndQueues : Prop := ∀ s : State,
  (∀ f : XC,
    let src := s.myCtx.vec f.sfile f.sreg
    (s.Answers (.cpy f) fun t => s.Writes t [(2, vecWrite f.dfile f.dreg allLanes src)]) ∧
    (s.Answers (.cpyl f) fun t => s.Writes t [(3, .s f.dreg (lane src f.aux))]) ∧
    (s.Answers (.cbc f) fun t => ∃ val : Lanes, (∀ k, k < 256 → lane val k = s.myCtx.rs f.sreg) ∧
      s.Writes t [(2, vecWrite f.dfile f.dreg allLanes val)]) ∧
    (s.Answers (.cpm f) fun t => s.Writes t [(2, maskWrite f.dfile f.dreg (s.myCtx.maskReg f.sfile f.sreg))]) ∧
    (s.Answers (.cpyp f) fun t => ∃ v : Ptr,
      v.toNat = (s.myCtx.rs (f.sreg + 1)).toNat * 2 ^ 32 + (s.myCtx.rs f.sreg).toNat ∧ s.Writes t [(2, .p f.dreg v)]) ∧
    (s.Answers (.qpush f) fun t => ∃ r : Row, r.words.length = 64 ∧ r.mark = none ∧ r.poison = none ∧
      (∀ k, k < 64 → r.words.getD k 0 = lane src (64 * (f.aux % 4) + k)) ∧
      s.Defers t [(s.t + 2, .queuePushAppend s.me f.dreg r)]) ∧
    (let q := queueOf f.sfile f.sreg
     let n := if f.sfile = 6 then 128 else 64
     let base := if f.sfile = 6 then 128 * (f.aux % 2) else 64 * (f.aux % 4)
     let lands (u t : State) (r : Row) : Prop :=
       (∀ unit, r.poison = some unit →
         u.Writes t [(2, .fault 0x30 (some unit) [BitVec.ofNat 32 q, BitVec.ofNat 32 s.t])]) ∧
       (r.poison = none → ∃ sel val : Lanes,
         (∀ k, k < 256 → lane sel k = if base ≤ k ∧ k < base + n then 0xFFFFFFFF else 0) ∧
         (∀ k, base ≤ k → k < base + n → k < 256 → lane val k = r.words.getD (k - base) 0) ∧
         u.Writes t [(2, vecWrite f.dfile f.dreg sel val)])
     ∀ r rest, s.myCtx.queue q = r :: rest → s.me < 384 → q < 12 →
       (s.Clear (.qpeek f) → s.Answers (.qpeek f) fun t => lands s t r) ∧
       (s.Clear (.qpop f) → s.Answers (.qpop f) fun t => ∃ u : State, lands u t r ∧
         s.Alters u s.me fun x => { x with queues := x.queues.setIfInBounds q rest }))) ∧
  (∀ (c q : Nat) (r : Row), c < 384 → q < 4 → ((s.ctx c).queue q).length < 8 →
    s.Does .queuePushAppend (.queuePushAppend c q r) (fun t =>
      s.Alters t c fun x => { x with queues := x.queues.setIfInBounds q (x.queue q ++ [r]) }) ∧
    s.Does .queueLoadAppend (.queueLoadAppend c q r) fun t =>
      s.Alters t c fun x => { x with queues := x.queues.setIfInBounds q (x.queue q ++ [r]) }) ∧
  ∀ (q : Nat) (r : Row), q < 4 → (s.myCtx.queue q).length = 8 →
    let full (w : Work) (t : State) : Prop :=
      (s.doing w).Raises t s.me 0x14 s.cur.who.src [BitVec.ofNat 32 q, BitVec.ofNat 32 s.t, 8]
    s.Does .queuePushAppend (.queuePushAppend s.me q r) (full (.queuePushAppend s.me q r)) ∧
    s.Does .queueLoadAppend (.queueLoadAppend s.me q r) (full (.queueLoadAppend s.me q r))

/-! ### The MX slot -/

/-- R168 to R176: what the plane, value-array and streaming instructions take at t and leave for their latency, each row read
seeing the queues as the reads before it leave them. R170: a score is the sum of its 128 cells in order from +0, each rounded
once with what came before it, and the positions at or above the limit form no product; `MatrixSteps` says what one rounded
sum is. -/
def Obligations.MatrixSlot : Prop :=
  (∀ (s : State) (f : MXF),
  let m := s.myCtx.mx
  let out := if f.oq then 11 else 10
  let head (u : State) (q : Nat) : List Word := ((u.myCtx.queue q).head?.map Row.words).getD []
  let a := s.take s.me f.qa f.pa
  let ab := a.take s.me f.qb f.pb
  let abc := ab.take s.me f.qc f.pc
  let book (n : Nat) : BitVec 256 := m.books[n]?.getD 0
  let scores (ws : List Word) : Prop := ws.length = 128 ∧ (∀ i, 64 ≤ i → ws.getD i 0 = 0) ∧
    ∀ i, (h : i < 64) → ws.getD i 0 = scoreOf (depthOf f.fmt) (depthOf f.fmt)
      (rowValues m.active.fmt (book m.active.book) m.active.rows[i].toList) (rowValues f.fmt (book f.cb) (head s f.qa))
  (s.Clear (.slatch f) → s.Answers (.slatch f) fun t =>
    a.Defers t [(s.t + 2, .shadowRowWrite f.idx (head s f.qa) f.fmt (if f.fmt = 5 then some f.cb else none))]) ∧
  (s.Clear (.sswap f) → s.Answers (.sswap f) fun t => s.Defers t [(s.t + 2, .planeExchange)]) ∧
  (s.Clear (.spush f) → s.Answers (.spush f) fun t => ∃ ws, scores ws ∧
    a.Defers t [(s.t + 192, .scoreRowAppend out ws)]) ∧
  (s.Clear (.svpair f) → s.Answers (.svpair f) fun t => ∃ ws, scores ws ∧
    abc.Defers t [(s.t + 4, .accumulatorUpdate (head a f.qb) (head ab f.qc) f.vfmt (book f.cb)),
      (s.t + 192, .scoreRowAppend out ws)]) ∧
  (s.Clear (.vopa f) → s.Answers (.vopa f) fun t =>
    ab.Defers t [(s.t + 4, .accumulatorUpdate (head s f.qa) (head a f.qb) f.fmt (book f.cb))]) ∧
  (s.Clear (.vzero f) → s.Answers (.vzero f) fun t => s.Defers t [(s.t + 1, .accumulatorClear)]) ∧
  (s.Clear (.vdrain f) → m.dp < 64 → s.Answers (.vdrain f) fun t =>
    s.Defers t [(s.t + 6, .drainRowAppend out ((m.value[m.dp]?.getD (Vector.replicate 128 0)).toList)),
      (s.t + 1, .registerWrite s.me (.dp (m.dp + 1)))]) ∧
  (s.Clear (.cbld f) → (head s f.qa).length = 64 → s.Answers (.cbld f) fun t => ∃ v : BitVec 256,
    (∀ k, k < 8 → v.toNat / 2 ^ (32 * k) % 2 ^ 32 = ((head s f.qa).getD k 0).toNat) ∧
    a.Defers t [(s.t + 2, .codebookWrite f.cb v)])) ∧
  ∀ (D limit : Nat) (a b : List FV), D = 128 ∨ D = 256 ∨ D = 512 → a.length = D → b.length = D → ∃ acc : Nat → Word,
    acc 0 = 0 ∧
    (∀ c, c < 128 →
      let n := D / 128
      let ks := ((List.range n).map (c * n + ·)).filter fun k => decide (k < limit)
      let zero : FV := .fin false 0 0
      acc (c + 1) = if ks = [] then acc c else accumulate (acc c) (ks.map fun k => (a.getD k zero, b.getD k zero))) ∧
    scoreOf D limit a b = acc 128

/-- R168 to R175 at their cycles: the shadow row and latch written, the planes exchanged, rank updates, clearing, codebooks,
and rows appended to an o queue that is not full, or at one that holds 8 rows fault 0x14 (R165). R170, R173: an accumulation
of finite values is the exact sum of the accumulator and the products, rounded once; with a NaN it is the first of the
accumulator and the pairs in order, quieted, and an invalid product or sum gives 0x7FC00000 (R127, which orders the NaNs of up
to three operands; that the first in this order decides a sum of several products is log entry 28). -/
def Obligations.MatrixSteps : Prop :=
  (∀ s : State, s.me < 384 →
  let mxTo (t : State) (f : Mx → Mx) : Prop := s.Alters t s.me fun x => { x with mx := f x.mx }
  (∀ (row : Nat) (ws : List Word) (fmt : Nat) (cb : Option Nat), row < 64 →
    s.Does .shadowRowWrite (.shadowRowWrite row ws fmt cb) fun t => ∃ p : Plane,
      p.fmt = fmt ∧ p.book = cb.getD s.myCtx.mx.shadow.book ∧
      (∀ i, (h : i < 64) → i ≠ row → p.rows[i] = s.myCtx.mx.shadow.rows[i]) ∧
      (∀ i k, (h : i < 64) → (hk : k < 64) → i = row → p.rows[i][k] = ws.getD k 0) ∧
      mxTo t fun m => { m with shadow := p }) ∧
  (s.Does .planeExchange .planeExchange fun t => mxTo t fun m => { m with active := m.shadow, shadow := m.active }) ∧
  (∀ (o : Nat) (ws : List Word), o = 10 ∨ o = 11 → (s.myCtx.queue o).length < 8 →
    let appended (t : State) : Prop := s.Alters t s.me fun x =>
      { x with queues := x.queues.setIfInBounds o (x.queue o ++ [{ words := ws, mark := none, poison := none }]) }
    s.Does .scoreRowAppend (.scoreRowAppend o ws) appended ∧ s.Does .drainRowAppend (.drainRowAppend o ws) appended ∧
    s.Does .rowStateSaveAppend (.rowStateSaveAppend o ws) appended) ∧
  (∀ (o : Nat) (ws : List Word), o = 10 ∨ o = 11 → (s.myCtx.queue o).length = 8 →
    let full (w : Work) (t : State) : Prop :=
      (s.doing w).Raises t s.me 0x14 s.cur.who.src [BitVec.ofNat 32 o, BitVec.ofNat 32 s.t, 8]
    s.Does .scoreRowAppend (.scoreRowAppend o ws) (full (.scoreRowAppend o ws)) ∧
    s.Does .drainRowAppend (.drainRowAppend o ws) (full (.drainRowAppend o ws)) ∧
    s.Does .rowStateSaveAppend (.rowStateSaveAppend o ws) (full (.rowStateSaveAppend o ws))) ∧
  (∀ (col row : List Word) (fmt : Nat) (book : BitVec 256), (s.core s.me).mxBad = [] → (s.core s.me).mxSoft = [] →
    s.Does .accumulatorUpdate (.accumulatorUpdate col row fmt book) fun t => ∃ value : Vector OWords 64,
      (∀ i k, (hi : i < 64) → (hk : k < 128) → value[i][k] =
        let r := if fmt = 0 then 1 else if fmt = 5 then 4 else 2
        accumulate s.myCtx.mx.value[i][k] (List.zip (((rowValues fmt book col).drop (r * i)).take r)
          (((rowValues fmt book row).drop (r * k)).take r))) ∧
      mxTo t fun m => { m with value := value }) ∧
  (s.Does .accumulatorClear .accumulatorClear fun t => mxTo t fun m =>
    { m with value := Vector.replicate 64 (Vector.replicate 128 0), dp := 0 }) ∧
  ∀ (n : Nat) (v : BitVec 256), s.Does .codebookWrite (.codebookWrite n v) fun t =>
    mxTo t fun m => { m with books := m.books.setIfInBounds n v }) ∧
  ∀ (acc : Word) (ps : List (FV × FV)),
    let ops := FV.of32 acc :: ps.flatMap fun p => [p.1, p.2]
    let void (p : FV × FV) : Prop := (p.1.isZero = true ∧ p.2.isInf = true) ∨ (p.1.isInf = true ∧ p.2.isZero = true)
    -- an infinite term of the sum, of a sign
    let infinite (n : Bool) : Prop := FV.of32 acc = .inf n ∨
      ∃ p ∈ ps, (p.1.isInf = true ∨ p.2.isInf = true) ∧ ¬ void p ∧ (p.1.neg ^^ p.2.neg) = n
    ((∀ v ∈ ops, v.isNaN = false ∧ v.isInf = false) → ∃ fl : Flags,
      Rnd.rne.Rounds ((FV.of32 acc).real + (ps.map fun p => p.1.real * p.2.real).sum)
        (acc.getLsbD 31 && ps.all fun p => p.1.neg ^^ p.2.neg) (accumulate acc ps, fl)) ∧
    (∀ (i : Nat) (w : Word) (sig : Bool), ops[i]? = some (.nan w sig) →
      (∀ j v, j < i → ops[j]? = some v → v.isNaN = false) → accumulate acc ps = 0x00400000 ||| w) ∧
    ((∀ v ∈ ops, v.isNaN = false) →
      ((∃ p ∈ ps, void p) ∨ (infinite true ∧ infinite false) → accumulate acc ps = 0x7FC00000) ∧
      ∀ n, infinite n → (∀ p ∈ ps, ¬ void p) → ¬ infinite (!n) →
        accumulate acc ps = if n then 0xFF800000 else 0x7F800000)

/-- R178 to R191: CHS latches the configuration at t and leaves the reset for t+1; CHB adds its beat, with the scores and the
mask formed at t, to the open block or a new one, which closes with its 32nd beat, its value read following at t+248 (that a
block keeps the record latched at its first beat, counts with its 32nd, and reads its value rows after the removals by link
commands, is log entry 27); the mask of a row is the base rule of MODE (all keys, causal, window, ancestry), the bitmap and
the count, by the fields of the latched record; the scores are held to the depth limit DEPTH. SSHIFT adds a keyless beat to an
open block and does nothing elsewhere; in the bundle of an END a beat that leaves its block open abandons it (R183), and the
32nd closes it as in any other bundle. CHN drains row DP divided by its sum, +0 for an empty row; CHSV and CHLD save and load
a row's state. -/
def Obligations.ChainSlot : Prop := ∀ (s : State) (f : MXF),
  let m := s.myCtx.mx
  let out := if f.oq then 11 else 10
  let head : List Word := ((s.myCtx.queue f.qa).head?.map Row.words).getD []
  let a := s.take s.me f.qa f.pa
  let count := [(s.t + 1, Work.registerWrite s.me .keyCounter)]
  let bits (hi lo : Nat) : Nat := m.latched.toNat / 2 ^ lo % 2 ^ (hi - lo + 1)
  let depth := if f.fmt = 0 then 128 else if f.fmt = 1 ∨ f.fmt = 2 ∨ f.fmt = 3 then 256 else 512
  -- the MX state once a beat has joined the open block, or opened one
  let joined (b : Beat) (m' : Mx) : Prop :=
    (∃ blocks counter isOpen, m' = { m with blocks := blocks, blockCounter := counter, isOpen := isOpen }) ∧
    (m.isOpen = false → m'.isOpen = true ∧ m'.blockCounter = m.blockCounter ∧ m'.blocks = m.blocks ++
      [{ first := b.issue, cfg := m.latched, number := m.blockCounter, beats := [b], probs := [] }]) ∧
    ∀ earlier x, m.isOpen = true → m.blocks = earlier ++ [x] →
      m'.blocks = earlier ++ [{ x with beats := x.beats ++ [b] }] ∧
      (x.beats.length ≠ 31 → m'.isOpen = true ∧ m'.blockCounter = m.blockCounter) ∧
      (x.beats.length = 31 → m'.isOpen = false ∧ m'.blockCounter = m.blockCounter + 1)
  -- the bundle of an END, in which a beat that closes its block is as in any other
  let goes : Prop := s.myCtx.life ≠ .ended ∨ (m.isOpen = true ∧ ∃ earlier x, m.blocks = earlier ++ [x] ∧ x.beats.length = 31)
  (s.Clear (.chs f) → s.Answers (.chs f) fun t => ∃ u : State,
    (s.me < 384 → s.Alters u s.me fun x => { x with mx := { x.mx with latched := x.mx.cfg } }) ∧
    u.Defers t [(s.t + 1, .chainReset)]) ∧
  (s.Clear (.chb f) → goes → s.Answers (.chb f) fun t => ∃ (b : Beat) (m' : Mx), joined b m' ∧
    b.keyed = true ∧ b.issue = s.t ∧ b.qb = f.qb ∧ b.peek = f.pb ∧
    (∀ i, (h : i < 64) → b.scores.getD i 0 = scoreOf depth
      (if bits 274 266 = 0 ∨ depth < bits 274 266 then depth else bits 274 266)
      (rowValues m.active.fmt (m.books[m.active.book]?.getD 0) m.active.rows[i].toList)
      (rowValues f.fmt (m.books[f.cb]?.getD 0) head)) ∧
    (∀ i, i < 64 → (b.mask.getLsbD i = true ↔
      let kpos := bits 95 64 + m.keyCounter
      let qpos := bits 63 32 + i
      let tree := bits 191 160
      let map := bits 159 128
      (bits 257 256 = 1 → kpos ≤ qpos) ∧ (bits 257 256 = 2 → qpos ≤ kpos + bits 223 192 ∧ kpos ≤ qpos + bits 255 224) ∧
      (bits 257 256 = 3 → kpos < tree ∨ (tree ≤ kpos ∧ kpos < tree + 256 ∧ tree ≤ qpos ∧ qpos < tree + 256 ∧
        m.ancestry.getLsbD (256 * (qpos - tree) + (kpos - tree)) = true)) ∧
      (bits 264 264 = 0 ∨ (map ≤ kpos ∧ kpos < map + 65536 ∧ m.validity.getLsbD (kpos - map) = true) ∨
        ((kpos < map ∨ map + 65536 ≤ kpos) ∧ bits 263 263 = 1)) ∧ kpos < bits 127 96)) ∧
    (a.modMx s.me fun _ => m').Defers t ([(s.t + 248,
      .chainValueRead (if m.isOpen then (m.blocks.getLast?.map Block.first).getD s.t else s.t) m.openBeats)] ++ count)) ∧
  (s.Clear (.chb f) → s.myCtx.life = .ended → s.me < 384 → s.Answers (.chb f) fun t =>
    let abandoned (first : Nat) (blocks : List Block) : Prop :=
      t.myCtx.mx = { m with blocks := blocks, isOpen := false } ∧
      ∀ x ∈ t.due, x.who.core = s.me → ∀ k, x.what ≠ .chainValueRead first k
    (m.isOpen = false → abandoned s.t m.blocks) ∧
    ∀ earlier x, m.isOpen = true → m.blocks = earlier ++ [x] → x.beats.length ≠ 31 → abandoned x.first earlier) ∧
  (s.Clear (.sshift f) → m.isOpen = false → s.Answers (.sshift f) fun t => t = s) ∧
  (s.Clear (.sshift f) → m.isOpen = true → goes → s.Answers (.sshift f) fun t => ∃ (b : Beat) (m' : Mx),
    joined b m' ∧ b.keyed = false ∧ b.issue = s.t ∧ (s.modMx s.me fun _ => m').Defers t count) ∧
  (s.Clear (.sshift f) → s.myCtx.life = .ended → s.me < 384 → ∀ earlier x, m.isOpen = true → m.blocks = earlier ++ [x] →
    x.beats.length ≠ 31 → s.Answers (.sshift f) fun t => t.myCtx.mx = { m with blocks := earlier, isOpen := false } ∧
      ∀ y ∈ t.due, y.who.core = s.me → ∀ k, y.what ≠ .chainValueRead x.first k) ∧
  (s.Clear (.chn f) → m.dp < 64 → s.Answers (.chn f) fun t => ∃ (ws : List Word) (empty : Bool), ws.length = 128 ∧
    (let r := m.rows[m.dp]?.getD RowState.launch
     let den := rnAdd r.csum r.ccomp
     (empty = true ↔ den = 0 ∨ den = 0x80000000) ∧
     ∀ k, k < 128 → ws.getD k 0 =
       if empty then 0 else rnMul ((m.value[m.dp]?.getD (Vector.replicate 128 0))[k]?.getD 0) (frcp den).1) ∧
    s.Defers t [(s.t + 8, .normalisedRowAppend out m.dp ws empty), (s.t + 1, .registerWrite s.me (.dp (m.dp + 1)))]) ∧
  (s.Clear (.chsv f) → s.Answers (.chsv f) fun t =>
    let r := m.rows[f.idx]?.getD RowState.launch
    s.Defers t [(s.t + 4, .rowStateSaveAppend out ([r.cmax, r.csum, r.ccomp, r.cscl, r.status] ++ List.replicate 123 0))]) ∧
  (s.Clear (.chld f) → s.Answers (.chld f) fun t => a.Defers t [(s.t + 2, .rowStateLoad f.idx (head.take 5))])

/-- R180 to R187 at their cycles: the reset of the chain, a value row taken for its beat, a beat's update of a block (row by
row and accumulator by accumulator), the drained row with its status, and a loaded row state; at an o queue that holds 8 rows
the drained row is fault 0x14 and is not appended (R165). Log entry 27 (DEDUCED, the model's reading): the value row and the
probabilities are read under the record `cfg` captured when the block opened, and the maximum of a block is taken by R130.
R184, R185 as arithmetic, each rounding one of `FloatResults`: the scaled scores, the maximum, the scale factor and each
probability with its conversion (`ConversionValues`); a rescaled row; the two-sum of a probability; an accumulator with its
product added in one rounding; the values of a row under VFMT. -/
def Obligations.ChainSteps : Prop := (∀ s : State, s.me < 384 →
  let m := s.myCtx.mx
  let mxTo (t : State) (f : Mx → Mx) : Prop := s.Alters t s.me fun x => { x with mx := f x.mx }
  (s.Does .chainReset .chainReset fun t => mxTo t fun m =>
    { m with rows := Vector.replicate 64 RowState.launch, value := Vector.replicate 64 (Vector.replicate 128 0),
             keyCounter := 0, blockCounter := 0, dp := 0 }) ∧
  (∀ (first beat : Nat) (b : Block) (x : Beat) (r : Row) (rest : List Row), m.block first = some b →
    b.beats[beat]? = some x → s.myCtx.queue x.qb = r :: rest → x.qb < 12 → x.peek = false → r.poison = none →
    (x.qb < 4 ∨ s.myCtx.solo = none) → (∀ e, b.valueTag beat = some e → r.mark = some e) →
    s.Does .chainValueRead (.chainValueRead first beat) fun t => ∃ u : State,
      s.Alters u s.me (fun c => { c with queues := c.queues.setIfInBounds x.qb rest }) ∧
      u.Defers t [(s.t + 252, .chainUpdate first beat r.words)]) ∧
  (∀ (first beat : Nat) (row : List Word) (b : Block), m.block first = some b → (s.core s.me).mxBad = [] →
    (s.core s.me).mxSoft = [] → s.Does .chainUpdate (.chainUpdate first beat row) fun t => ∃ m' : Mx,
      (mxTo t fun _ => m') ∧
      (∀ i, (hi : i < 64) →
        let r := m.rows[i]
        let form := b.rowProbs i r.cmax
        let p : Word := if beat = 0 then form.2.2.getD 0 0 else (b.probs.getD i []).getD beat 0
        let r₁ := if beat = 0 then r.rescale form.1 form.2.1 else r
        m'.rows[i] = (if (FV.of32 p).isZero then r₁ else r₁.addProb p) ∧
        ∀ k, (hk : k < 128) →
          let o := if beat = 0 then rnMul m.value[i][k] form.2.1 else m.value[i][k]
          m'.value[i][k] = if (FV.of32 p).isZero then o else addProduct o p ((valueRow b.cfg row).getD k 0)) ∧
      (m'.block first = none ↔ ∀ x ∈ b.beats.drop (beat + 1), x.keyed = false) ∧
      (∀ x, m'.block first = some x → x.cfg = b.cfg ∧ x.beats = b.beats ∧ ∀ i, (hi : i < 64) →
        x.probs.getD i [] = if beat = 0 then (b.rowProbs i m.rows[i].cmax).2.2 else b.probs.getD i []) ∧
      m'.active = m.active ∧ m'.shadow = m.shadow ∧ m'.cfg = m.cfg ∧ m'.latched = m.latched ∧ m'.dp = m.dp) ∧
  (∀ (o row : Nat) (ws : List Word) (empty : Bool), o = 10 ∨ o = 11 → (s.myCtx.queue o).length < 8 → row < 64 →
    s.Does .normalisedRowAppend (.normalisedRowAppend o row ws empty) fun t =>
      s.Alters t s.me fun x =>
        { x with
          queues := x.queues.setIfInBounds o (x.queue o ++ [{ words := ws, mark := none, poison := none }]),
          mx := { x.mx with rows := if empty then
            x.mx.rows.setIfInBounds row { (x.mx.rows[row]?.getD RowState.launch) with
              status := (x.mx.rows[row]?.getD RowState.launch).status ||| 1 } else x.mx.rows } }) ∧
  (∀ (o row : Nat) (ws : List Word) (empty : Bool), o = 10 ∨ o = 11 → (s.myCtx.queue o).length = 8 → row < 64 →
    s.Does .normalisedRowAppend (.normalisedRowAppend o row ws empty) fun t => ∃ u : State,
      (s.doing (.normalisedRowAppend o row ws empty)).Raises u s.me 0x14 s.cur.who.src
        [BitVec.ofNat 32 o, BitVec.ofNat 32 s.t, 8] ∧ t.parts = u.parts ∧ t.due = s.due ∧ t.dram = s.dram ∧
      (∀ k, k ≠ s.me → t.core k = s.core k) ∧ (t.ctx s.me).queues = s.myCtx.queues ∧ (t.core s.me).spad = (s.core s.me).spad) ∧
  ∀ (g : Nat) (a b c d e : Word), s.Does .rowStateLoad (.rowStateLoad g [a, b, c, d, e]) fun t =>
    mxTo t fun m => { m with rows := m.rows.setIfInBounds g { cmax := a, csum := b, ccomp := c, cscl := d, status := e &&& 1 } }) ∧
  let sum (a b : Word) : Word := (fadd .rne a b).1
  let diff (a b : Word) : Word := (fsub .rne a b).1
  let prod (a b : Word) : Word := (fmul .rne a b).1
  let finite (w : Word) : Prop := (FV.of32 w).isNaN = false ∧ (FV.of32 w).isInf = false
  -- the exact value `x` rounded once to nearest, an exact zero with the sign `n`
  let rounded (x : ℚ) (n : Bool) (w : Word) : Prop := ∃ fl, Rnd.rne.Rounds x n (w, fl)
  (∀ (b : Block) (i : Nat) (cmax : Word),
    let bits (hi lo : Nat) : Nat := b.cfg.toNat / 2 ^ lo % 2 ^ (hi - lo + 1)
    let scale := BitVec.ofNat 32 (bits 31 0)
    let out := b.rowProbs i cmax
    ∃ z p : List Word, z.length = b.beats.length ∧ p.length = b.beats.length ∧ out.2.2.length = b.beats.length ∧
      (∀ j x, b.beats[j]? = some x → z.getD j 0 =
        if x.keyed = true ∧ x.mask.getLsbD i = true then prod (x.scores.getD i 0) scale else 0xFF800000) ∧
      (let m := out.1
       (m = 0xFF800000 ∨ ((FV.of32 m).isNaN = false ∧ m ∈ cmax :: z)) ∧
       (∀ w ∈ cmax :: z, (FV.of32 w).isNaN = false → ¬ (FV.of32 m).Below (FV.of32 w) ∧ ¬ (m = 0x80000000 ∧ w = 0)) ∧
       out.2.1 = (if m = 0xFF800000 then 0x3F800000 else (fexp (diff cmax m)).1) ∧
       ∀ j, j < z.length → p.getD j 0 =
         if (FV.of32 (z.getD j 0)).isNaN then 0x00400000 ||| z.getD j 0
         else if m = 0xFF800000 then 0 else (fexp (diff (z.getD j 0) m)).1) ∧
      ∀ j, j < z.length →
        let r : Rnd := if bits 261 261 = 1 then .sr (BitVec.ofNat 64 (bits 383 320)) (ulp32 (p.getD j 0)) else .rne
        out.2.2.getD j 0 = if bits 260 260 = 1 then (widen (FV.ofE4M3 (narrowTo e4m3 r (p.getD j 0)).1)).1
          else (widen (FV.ofBF16 (narrowTo bf16 r (p.getD j 0)).1)).1) ∧
  (∀ (r : RowState) (m cs : Word),
    r.rescale m cs = { r with cmax := m, cscl := cs, csum := prod r.csum cs, ccomp := prod r.ccomp cs } ∧
    (finite r.csum → finite cs → rounded ((FV.of32 r.csum).real * (FV.of32 cs).real) (r.csum.getLsbD 31 ^^ cs.getLsbD 31)
      (r.rescale m cs).csum)) ∧
  (∀ (r : RowState) (p : Word),
    let s := sum r.csum p
    let bv := diff s r.csum
    let e := sum (diff r.csum (diff s bv)) (diff p bv)
    r.addProb p = { r with csum := s, ccomp := sum r.ccomp e } ∧
    (finite r.csum → finite p → rounded ((FV.of32 r.csum).real + (FV.of32 p).real) (r.csum.getLsbD 31 && p.getLsbD 31)
        (r.addProb p).csum)) ∧
  (∀ o p v : Word, addProduct o p v = accumulate o [(FV.of32 p, FV.of32 v)] ∧
    (finite o → finite p → finite v → rounded ((FV.of32 o).real + (FV.of32 p).real * (FV.of32 v).real)
      (o.getLsbD 31 && (p.getLsbD 31 ^^ v.getLsbD 31)) (addProduct o p v))) ∧
  ∀ (cfg : BitVec 512) (row : List Word) (k : Nat), k < 128 →
    (valueRow cfg row).getD k 0 =
      if cfg.getLsbD 262 = true then (widen (FV.ofE4M3 ((row.getD (k / 4) 0).toNat / 2 ^ (8 * (k % 4)) % 2 ^ 8))).1
      else BitVec.ofNat 32 (2 ^ 16 * ((row.getD (k / 2) 0).toNat / 2 ^ (16 * (k % 2)) % 2 ^ 16))

/-! ### Transfer engine, near memory and links: the TE slot -/

/-- R276, R280, R281, R302, R305, R307, R385: SHP reads 16 bytes of its scratchpad at t+2 for the shape register at t+3;
TAGSET sets ETAG at t+1; a command carries its shape and ETAG as they stand at t, becomes outstanding and starts at t + lead;
NMC carries its register pair; NMFENCE, where it meets no fault, changes nothing. -/
def Obligations.TransferCommands : Prop := ∀ (s : State) (f : TEF),
  let command (i : Instr) (op : Nat) : Prop := s.Clear i → s.Answers i fun t => ∃ c : Cmd,
    c.op = op ∧ c.start = s.t + f.lead ∧ c.issue = s.t ∧ c.shape = s.myCtx.h[f.h]?.getD 0 ∧ c.tag = s.myCtx.etag ∧
    t.Later (some (s.partOf s.me)) c.start (.teCommandStart c) ∧ (∀ x ∈ s.due, x ∈ t.due) ∧
    (s.me < 384 → (t.core s.me).ctx = s.myCtx ∧ (t.core s.me).spad = (s.core s.me).spad ∧
      ∃ r ∈ (t.core s.me).te, r.cmd = c) ∧
    (∀ k, k ≠ s.me → t.core k = s.core k) ∧ t.parts = s.parts ∧ t.dram = s.dram
  (s.Clear (.shp f) → s.Answers (.shp f) fun t => ∃ req, s.Defers t [(s.t + 2, .bankAccess
    { holder := s.me, req := req, cyc := s.t, act := .load (16 * f.lead) 16 (.shape f.h (s.t + 3)) })]) ∧
  (s.Clear (.tagset f) → s.Answers (.tagset f) fun t => s.Writes t [(1, .etag (BitVec.ofNat 16 f.lead))]) ∧
  command (.xfer f) 0x08 ∧ command (.xferq f) 0x09 ∧ command (.xstore f) 0x0A ∧ command (.tlist f) 0x0B ∧
  command (.xred f) 0x10 ∧ command (.xacc f) 0x11 ∧ command (.xmc f) 0x12 ∧ command (.mkcfg f) 0x18 ∧
  command (.pptld f) 0x19 ∧ command (.vbmld f) 0x1A ∧ command (.lsend f) 0x28 ∧ command (.lfwd f) 0x29 ∧
  (s.Clear (.nmc f) → s.Answers (.nmc f) fun t => ∃ c : NmCmd,
    c.rec_.toNat = (s.myCtx.h[f.h]?.getD 0).toNat + (s.myCtx.h[f.h + 1]?.getD 0).toNat * 2 ^ 128 ∧
    c.start = s.t + f.lead ∧ c.issue = s.t ∧ t.Later (some (s.partOf s.me)) c.start (.nmcStart c) ∧
    (∀ x ∈ s.due, x ∈ t.due) ∧
    (s.me < 384 → (t.core s.me).ctx = s.myCtx ∧ (t.core s.me).spad = (s.core s.me).spad ∧
      ∃ r ∈ (t.core s.me).nm, r.issue = s.t ∧ r.start = c.start) ∧
    (∀ k, k ≠ s.me → t.core k = s.core k) ∧ t.parts = s.parts ∧ t.dram = s.dram) ∧
  (s.Clear (.nmfence f) → s.Answers (.nmfence f) fun t => t = s)

/-! ### The steps of a core -/

/-- R7, R8, R48, R204: a bundle whose partition's bundles of the cycle have been judged without a fault takes its cycle, with
its slots to execute in order and the next bundle at t+1; the first bundle of a segment also begins the expansion of the
segment's successor into the other half, to be resident E cycles on; an expanded segment becomes resident, and a starting core
runs; the end of a wait closes the solo region. A bundle does not issue, and its partition takes a fault, when the segment
that it enters is not resident (R9: 0x10, subcode 10, also when its expansion is not complete, log entry 47), has an invalid
header (R46: 0x01), is timed and stands in a solo region (R202: 0x19) or does not stand at its STAMP (R50: 0x10, subcode 1),
when the segment before has no successor (R49: 0x01), and when slot words of the bundle are no instructions (R28: one 0x01,
with the mask of the illegal slots and the lowest one's word, beside slots whose words are legal). A segment called for before
its expansion is complete that has an invalid header is both faults (R323; log entry 47). -/
def Obligations.BundlesAndExpansions : Prop :=
  (∀ (s : State) (c : Nat) (q : Part), c < 384 → s.part (s.partOf c) = some q → q.judged = some (q.ttc s.gtc) →
    q.faultsNow = [] → q.joining = false → (s.ctx c).seq.next ≠ .enter → (s.core c).regSoft = [] →
    (s.core c).mxSoft = [] → s.Does .bundleIssue (.bundleIssue c) fun t =>
      let T := q.ttc s.gtc
      let x := s.ctx c
      t.ctx c = { x with seqBefore := x.seq, seq := x.seq.advance T } ∧ (∀ k, k ≠ c → t.core k = s.core k) ∧
      (t.core c).spad = (s.core c).spad ∧ t.parts = s.parts ∧ t.dram = s.dram ∧
      t.cur.who.core = c ∧ t.cur.who.issue = T ∧
      (∀ i, i ∈ t.cur.todo ↔ i < 8 ∧ (t.ctx c).word i ≠ 0) ∧ t.cur.todo.Pairwise (· < ·) ∧
      t.Later (some (s.partOf c)) (T + 1) (.bundleIssue c)) ∧
  (∀ (s : State) (c : Nat) (q : Part) (g : Segment), c < 384 → s.part (s.partOf c) = some q → q.judged = some (q.ttc s.gtc) →
    q.faultsNow = [] → q.joining = false → (s.ctx c).seq.next = .enter → (s.core c).regSoft = [] → (s.core c).mxSoft = [] →
    let T := q.ttc s.gtc
    let x := s.ctx c
    let y := x.seq.advance T
    y.resident = some g → s.Does .bundleIssue (.bundleIssue c) fun t =>
      let off := (targetOffset g.off g.head.next).toNat
      let ready := T + s.costAt c off
      (g.head.next = 0 → t.ctx c = { x with seqBefore := x.seq, seq := y.setHalf (!y.inB) none }) ∧
      (g.head.next ≠ 0 →
        t.ctx c = { x with seqBefore := x.seq, seq := y.setHalf (!y.inB) (some { off := off, ready := ready, seg := none }) } ∧
        t.Later (some (s.partOf c)) ready (.segmentExpansion c (!y.inB) off)) ∧
      t.cur.who.core = c ∧ t.cur.who.issue = T ∧ t.Later (some (s.partOf c)) (T + 1) (.bundleIssue c)) ∧
  (∀ (s : State) (c : Nat) (q : Part), c < 384 → s.part (s.partOf c) = some q → c ∈ q.cores →
    q.judged ≠ some (q.ttc s.gtc) → q.joining = false → q.ttc s.gtc % 4032 ≠ 0 →
    let T := q.ttc s.gtc
    let x := s.ctx c
    let y := x.seq.advance T
    let halts (src code : Nat) (d : List Word → Prop) : Prop := s.Does .bundleIssue (.bundleIssue c) fun t =>
      t.cores = s.cores ∧ t.dram = s.dram ∧ (∀ p, p ≠ q.num → t.part p = s.part p) ∧
      ∃ r f, t.part q.num = some r ∧ f ∈ r.faultsNow ∧ f.code = code ∧ f.rank = s.rankOf c ∧ f.src = src ∧
        f.issue = some T ∧ d f.detail
    (x.seq.next = .enter → y.resident = none → halts 0 0x10 (· = [10, BitVec.ofNat 32 y.segOff]) ∧
      let bytes := (s.store c).readBytes y.segOff (segmentSize (decodeHeader ((s.store c).readBytes y.segOff 16)).len)
      ((parseSegment y.segOff bytes).valid = false → halts 0 0x01 (· = [BitVec.ofNat 32 y.segOff]))) ∧
    (∀ g h, x.seq.next = .enter → y.resident = some g → y.half y.inB = some h →
      (T < h.ready → halts 0 0x10 (· = [10, BitVec.ofNat 32 y.segOff]) ∧
        (g.valid = false → halts 0 0x01 (· = [BitVec.ofNat 32 y.segOff]))) ∧
      (h.ready ≤ T → g.valid = false → halts 0 0x01 (· = [BitVec.ofNat 32 y.segOff])) ∧
      (h.ready ≤ T → g.valid = true → g.head.timed = true →
        (x.solo ≠ none → halts 0 0x19 (· = [2, BitVec.ofNat 32 y.segOff])) ∧
        (x.solo = none → g.head.stamp ≠ T → halts 0 0x10 (· = [1])))) ∧
    (x.seq.next = .exhausted → halts 0 0x01 (· = [BitVec.ofNat 32 x.seq.segOff])) ∧
    -- the legal words beside them meet no condition that is an illegal instruction, whatever the queues hold
    let illegal (j : Nat) : Prop := j < 8 ∧ y.words.getD j 0 ≠ 0 ∧ ∀ ins, decodeSlot (slotKindOf j) (y.words.getD j 0) ≠ .ok ins
    let legal (j : Nat) : Prop := ∀ ins, decodeSlot (slotKindOf j) (y.words.getD j 0) = .ok ins → ∀ qs,
      ∀ e ∈ s.issueConds c T j { x with seq := y, queues := qs } (y.words.getD j 0) ins, e.1 ≠ 0x01
    ∀ i k, x.seq.next = .bundle i → illegal k → (∀ j, j < k → ¬ illegal j) → (∀ j, j < 8 → legal j) →
      halts k 0x01 fun d => ∃ m, d = [m, BitVec.ofNat 32 (y.words.getD k 0)] ∧
        ∀ j, j < 32 → (m.getLsbD j = true ↔ illegal j)) ∧
  (∀ (s : State) (c off : Nat) (half : Bool), c < 384 →
    let bytes := (s.store c).readBytes off (segmentSize (decodeHeader ((s.store c).readBytes off 16)).len)
    s.Does .segmentExpansion (.segmentExpansion c half off) fun t => s.Alters t c fun x =>
      { x with life := if x.life = .starting then .running else x.life,
               seq := x.seq.setHalf half ((x.seq.half half).map fun h =>
                 { h with seg := some (parseSegment off bytes) }) }) ∧
  ∀ (s : State) (c : Nat), c < 384 → s.Does .twaitEnd (.twaitEnd c) fun t => s.Alters t c fun x => { x with solo := none }

/-- R207, R211 to R213, R329: an arrival counts, up to 0xFFFF, at a core that can take it; a gated or reset core refuses it,
and the answer comes after as long a way back. A stage instruction that finds its slot as R211 requires, alone, changes it;
one whose requirement is not met is fault 0x16 with the state, owner and holder found (the codes of the states, and 0 for a
slot that the partition does not have, are log entry 22): ACQS.W takes an empty slot for writing, names the next stage its
owner and this core its holder; RELS.W of its holder makes it full; ACQS.R of the owner's stage takes a full one for reading;
RELS.R of its holder makes it empty, owner and holder kept; two that meet on one slot in one cycle both fault, and the slot
stays. A spawn of an ended core of the spawner's cluster starts it on its segment with its arguments; one that reaches a core
outside the cluster, one that has not ended or is starting, or one that another spawn reaches is fault 0x17 with its reason
and starts nothing; a refused delivery is fault 0x40 of its sender. -/
def Obligations.SignalsArrive : Prop :=
  (∀ (s : State) (c n : Nat), c < 384 → (s.ctx c).life ≠ .gated → (s.core c).wasReset = false →
    s.Does .barrierArrival (.barrierArrival c n) fun t => s.Alters t c fun x =>
      { x with bars := x.bars.setIfInBounds n { (x.bars[n]?.getD ⟨0, 0⟩) with
          count := BitVec.ofNat 16 (min 0xFFFF ((x.bars[n]?.getD ⟨0, 0⟩).count.toNat + 1)) } }) ∧
  (∀ (s : State) (c n st : Nat) (q : Part), s.part (s.partOf s.me) = some q →
    ((s.ctx c).life = .gated ∧ st = 1) ∨ ((s.ctx c).life ≠ .gated ∧ (s.core c).wasReset = true ∧ st = 2) →
    ∀ rank, q.cores.findIdx? (· == c) = some rank → s.Does .barrierArrival (.barrierArrival c n) fun t =>
      (s.doing (.barrierArrival c n)).Defers t [(s.now + (s.now - s.t), .deliveryFault rank st)]) ∧
  (∀ (s : State) (rank st : Nat), s.Does .deliveryFault (.deliveryFault rank st) fun t =>
    (s.doing (.deliveryFault rank st)).Raises t s.me 0x40 13 [BitVec.ofNat 32 rank, BitVec.ofNat 32 st]) ∧
  (∀ (s : State) (k : Nat) (y : StageSlot) (i : Fin 16), s.me < 384 → s.partOf s.me ≠ 0 →
    (s.die (dieOf s.me)).ring[i] = y → y.part = s.partOf s.me → y.k = k →
    (∀ j : Fin 16, j ≠ i → ((s.die (dieOf s.me)).ring[j].part, (s.die (dieOf s.me)).ring[j].k) ≠ (y.part, k)) →
    (∀ x ∈ s.due, ∀ w r n, x.what ≠ .stagePerform w r n) →
    let stage := s.myCtx.stg.toNat % 16
    let last := s.myCtx.stg.toNat / 16 % 16
    let own := s.rankOf s.me
    -- one of the four instructions, with the state it requires and the slot it leaves (R211)
    let performs (write release : Bool) (required : Prop) (z : StageSlot) : Prop :=
      let w : Work := .stagePerform write release k
      (required → s.Does .stagePerform w fun t =>
        (t.die (dieOf s.me)).ring = (s.die (dieOf s.me)).ring.set i z ∧
        (∀ d, d ≠ dieOf s.me → t.die d = s.die d) ∧ (t.die (dieOf s.me)).store = (s.die (dieOf s.me)).store ∧
        t.cores = s.cores ∧ t.parts = s.parts ∧ t.due = s.due) ∧
      (¬ required → s.Does .stagePerform w fun t => (s.doing w).Raises t s.me 0x16 13
        [BitVec.ofNat 32 k, BitVec.ofNat 32 y.state.code, BitVec.ofNat 32 y.owner, BitVec.ofNat 32 y.holder, BitVec.ofNat 32 own])
    performs true false (y.state = .empty) { y with state := .writing, owner := (stage + 1) % (last + 1), holder := own } ∧
    performs true true (y.state = .writing ∧ y.holder = own) { y with state := .full } ∧
    performs false false (y.state = .full ∧ y.owner = stage) { y with state := .reading, holder := own } ∧
    performs false true (y.state = .reading ∧ y.holder = own) { y with state := .empty }) ∧
  SlotState.empty.code = 0 ∧ SlotState.writing.code = 1 ∧ SlotState.full.code = 2 ∧ SlotState.reading.code = 3 ∧
  (∀ (s : State) (write release : Bool) (k : Nat), s.me < 384 → s.partOf s.me ≠ 0 →
    (∀ x ∈ s.due, ∀ w r n, x.what ≠ .stagePerform w r n) →
    (∀ j : Fin 16, ((s.die (dieOf s.me)).ring[j].part, (s.die (dieOf s.me)).ring[j].k) ≠ (s.partOf s.me, k)) →
    let w : Work := .stagePerform write release k
    s.Does .stagePerform w fun t => (s.doing w).Raises t s.me 0x16 13
      [BitVec.ofNat 32 k, 0, 0, 0, BitVec.ofNat 32 (s.rankOf s.me)]) ∧
  (∀ (s : State) (write release w r : Bool) (k : Nat) (q : Part) (before after : List Timed) (x : Timed),
    s.part (s.partOf s.me) = some q → s.due = before ++ x :: after → s.isDue x = true → x.what = .stagePerform w r k →
    dieOf x.who.core = dieOf s.me → s.partOf x.who.core = s.partOf s.me →
    (∀ y ∈ before ++ after, ∀ w r n, y.what ≠ .stagePerform w r n) →
    s.Does .stagePerform (.stagePerform write release k) fun t =>
      t.dies = s.dies ∧ t.cores = s.cores ∧ t.due = before ++ after ∧ ∃ f g : FaultNow,
        t.part q.num = some { q with faultsNow := q.faultsNow ++ [f, g] } ∧ f.code = 0x16 ∧ g.code = 0x16 ∧
        f.rank = s.rankOf s.me ∧ g.rank = s.rankOf x.who.core) ∧
  (∀ (s : State) (rank off c : Nat) (args : List Word) (q : Part), s.part (s.partOf s.me) = some q →
    q.cores[rank]? = some c → s.Admits c true → (s.ctx c).life ≠ .gated → (s.core c).wasReset = false →
    (∀ x ∈ s.due, ∀ r o a, x.what ≠ .spawnDelivery r o a) →
    let w : Work := .spawnDelivery rank off args
    let busy (reason : Nat) : Prop := s.Does .spawnDelivery w fun t => (s.doing w).Raises t s.me 0x17 13
      [BitVec.ofNat 32 rank, BitVec.ofNat 32 reason, 0xFFFFFFFF]
    (c / 8 ≠ s.me / 8 → busy 1) ∧
    (c / 8 = s.me / 8 → (s.ctx c).life ≠ .ended → (s.ctx c).life ≠ .starting → busy 2) ∧
    (c / 8 = s.me / 8 → (s.ctx c).life = .starting → busy 3)) ∧
  (∀ (s : State) (rank off off' c : Nat) (args args' : List Word) (q : Part) (before after : List Timed) (x : Timed),
    s.part (s.partOf s.me) = some q → q.cores[rank]? = some c → s.Admits c true → (s.ctx c).life = .ended →
    (s.core c).wasReset = false → c / 8 = s.me / 8 → x.who.core / 8 = s.me / 8 → x.who ≠ s.cur.who →
    s.due = before ++ x :: after → s.isDue x = true → x.what = .spawnDelivery rank off' args' →
    s.partOf x.who.core = s.partOf s.me → (∀ y ∈ before ++ after, ∀ r o a, y.what ≠ .spawnDelivery r o a) →
    s.Does .spawnDelivery (.spawnDelivery rank off args) fun t =>
      t.cores = s.cores ∧ t.due = before ++ after ∧ ∃ f g : FaultNow,
        t.part q.num = some { q with faultsNow := q.faultsNow ++ [f, g] } ∧
        f.code = 0x17 ∧ f.rank = s.rankOf s.me ∧
        f.detail = [BitVec.ofNat 32 rank, 4, BitVec.ofNat 32 (s.rankOf x.who.core)] ∧
        g.code = 0x17 ∧ g.rank = s.rankOf x.who.core ∧
        g.detail = [BitVec.ofNat 32 rank, 4, BitVec.ofNat 32 (s.rankOf s.me)]) ∧
  ∀ (s : State) (rank off : Nat) (args : List Word) (q : Part) (c : Nat), c < 384 → s.me < 384 →
    s.part (s.partOf s.me) = some q → q.cores[rank]? = some c → s.Admits c true → (s.ctx c).life = .ended → (s.core c).wasReset = false →
    c / 8 = s.me / 8 → c ≠ s.me → s.partOf c = s.partOf s.me → args.length ≤ 31 →
    (∀ x ∈ s.due, ∀ r o a, x.what ≠ .spawnDelivery r o a) →
    s.Does .spawnDelivery (.spawnDelivery rank off args) fun t =>
      let ready := q.ttc s.gtc + s.costAt c off
      (t.ctx c).life = .starting ∧ (∀ k, k < args.length → (t.ctx c).s[k + 1]?.getD 0 = args.getD k 0) ∧
      (∀ k, args.length < k → (t.ctx c).s[k]?.getD 0 = (s.ctx c).s[k]?.getD 0) ∧ (t.ctx c).p = (s.ctx c).p ∧
      (t.core c).spad = (s.core c).spad ∧ (∀ k, k ≠ c → t.core k = s.core k) ∧
      t.Later (some q.num) ready (.segmentExpansion c false off) ∧ t.Later (some q.num) ready (.bundleIssue c)

/-! ### The steps of memory -/

/-- R84, R91, R230, R231, R233: an access that meets no fault in its own scratchpad performs at t+3 (a load, for t+6) or t+4
(a store); one to a core named through space 0x1 or 0x2, its own core included, that the die's access table admits (R240),
performs in the core's cluster at t+8 for t+14 or stores at t+10, on its die at t+18 for t+28 or at t+20, on another die at
t+34 for t+60 or at t+44; a rank that names no core is refused at that W or store cycle (log entry 51). A gather reads, and a
scatter writes, the lanes of group k at t+3+k and t+4+k, and the lanes that a gather does not select become 0 at t+8. A
pigeonhole is written at t+4 and read at t+3 for t+6. A device-memory access, LDQ's too, reaches its controllers at t+256 (a
store t+200), 24 cycles later from another die, and ends at t+360 (t+408) or 100 cycles after its WR. To another package a
load sends a flit in the window of t+8 for t+360+380h (R383; until its answer lands, a free value), a store one for each 256
bytes, performing at t+300+190h; where the die link to the port's die (R378) fails, 0x33 at the cycle of use names the link by
its two dies (R377; log entry 23). R249 to R251: an STNT is outstanding, and each unit that its channel's table admits (log
entry 6) is left for the earliest usable open slot of its channel at or after t+300 that no earlier unit has taken, found
within two repetitions of the timeline past the last unit placed; where the core has ended, so in the bundle of an END, it is
covered at once (R252; that END covers an STNT of its own bundle is log entry 21). R84, R228, R236, R249: a space that the
kind does not reach is 0x23, a misaligned address 0x22, no region 0x20, a region without the right 0x21, a 33rd STNT 0x14, an
STNT in a solo region 0x19, each at t+1 with its address, and nothing is left; an access that meets no condition raises
nothing (the order of the first two is log entry 26). R236: the region that covers an address. -/
def Obligations.AccessCyclesAndFaults : Prop :=
  (∀ (s : State) (a : Access), s.accessFault a = none →
  let n := a.ea.toNat
  let addr := n % 2 ^ 20
  let sp := n / 2 ^ 60
  let does (P : State → Prop) : Prop := s.Does .ldAddressCheck (.ldAddressCheck a) P
  let leaves (due holder : Nat) (act : BankAct) : Prop := does fun t =>
    ∃ req, (s.doing (.ldAddressCheck a)).Defers t [(due, .bankAccess { holder := holder, req := req, cyc := s.t, act := act })]
  let stored (bytes : List Byte) : Prop := bytes.length = a.size ∧
    ∀ k, k < a.size → bytes.getD k 0 = BitVec.ofNat 8 ((lane a.data (k / 4)).toNat / 2 ^ (8 * (k % 4)))
  (sp = 0 → a.kind = .load → leaves (s.t + 3) s.me (.load addr a.size (.dreg a.tg (s.t + 6)))) ∧
  (sp = 0 → a.kind = .ldq → leaves (s.t + 3) s.me (.load addr 256 (.queue a.tg (s.t + 6)))) ∧
  (sp = 0 → a.kind = .store → a.size ∈ [4, 256, 512, 1024] → ∃ bytes : List Byte, stored bytes ∧
    leaves (s.t + 4) s.me (.store addr bytes)) ∧
  (∀ e, sp = 0 → a.kind = .ldt e → leaves (s.t + 3) s.me (.tagged addr e a.tg (s.t + 6))) ∧
  (∀ o, sp = 0 → a.kind = .amo o → leaves (s.t + 3) s.me
    (.amoRead addr o (lane a.data 0) (lane a.data 1) a.tg (s.t + 8))) ∧
  (∀ q c lp lw st, sp = 1 ∨ sp = 2 → s.part (s.partOf s.me) = some q →
    q.cores[if sp = 1 then s.rankOf s.me / 8 * 8 + n / 2 ^ 20 % 8 else n / 2 ^ 20 % 2 ^ 9]? = some c → s.Admits c a.writes →
    (c / 8 = s.me / 8 ∧ (lp, lw, st) = (8, 14, 10)) ∨
      (c / 8 ≠ s.me / 8 ∧ c / 96 = s.me / 96 ∧ (lp, lw, st) = (18, 28, 20)) ∨
      (c / 96 ≠ s.me / 96 ∧ (lp, lw, st) = (34, 60, 44)) →
    (a.kind = .load → leaves (s.t + lp) c (.load addr a.size (.dreg a.tg (s.t + lw)))) ∧
    (a.kind = .ldq → leaves (s.t + lp) c (.load addr 256 (.queue a.tg (s.t + lw)))) ∧
    (a.kind = .store → a.size ∈ [4, 256, 512, 1024] → ∃ bytes : List Byte, stored bytes ∧
      leaves (s.t + st) c (.store addr bytes)) ∧
    ∀ o, a.kind = .amo o → leaves (s.t + lp) c (.amoRead addr o (lane a.data 0) (lane a.data 1) a.tg (s.t + lw))) ∧
  (a.kind = .gather → does fun t => s.Same t ∧
    (∀ k, k < 4 → (∃ l ∈ a.lanes, l.1 / 64 = k) → ∃ req, t.Later (some (s.partOf s.me)) (s.t + 3 + k) (.bankAccess
      { holder := s.me, req := req, cyc := s.t,
        act := .gather ((a.lanes.filter fun l => l.1 / 64 == k).map fun l => (l.1, l.2.toNat % 2 ^ 20)) k a.tg (s.t + 8) })) ∧
    ∃ rest : Lanes, (∀ k, k < 256 → lane rest k = if ∃ l ∈ a.lanes, l.1 = k then 0 else 0xFFFFFFFF) ∧
      t.Later (some (s.partOf s.me)) (s.t + 8) (.registerWrite s.me (.d a.tg rest zeroLanes))) ∧
  (∀ half, a.kind = .scatter half → does fun t => s.Same t ∧
    ∀ k, k < 4 → (∃ l ∈ a.lanes, l.1 / 64 = k) → ∃ (req : Word) (els : List (Nat × Nat × List Byte)),
      t.Later (some (s.partOf s.me)) (s.t + 4 + k)
        (.bankAccess { holder := s.me, req := req, cyc := s.t, act := .scatter els half }) ∧
      els.map (fun l => (l.1, l.2.1)) = (a.lanes.filter fun l => l.1 / 64 == k).map (fun l => (l.1, l.2.toNat % 2 ^ 20)) ∧
      ∀ l ∈ els, l.2.2.length = (if half then 2 else 4) ∧ ∀ b, b < l.2.2.length →
        l.2.2.getD b 0 = BitVec.ofNat 8 ((lane a.data l.1).toNat / 2 ^ (8 * b))) ∧
  (∀ q lw st, sp = 1 ∨ sp = 2 → s.part (s.partOf s.me) = some q →
    let own := s.rankOf s.me
    let rank := if sp = 1 then own / 8 * 8 + n / 2 ^ 20 % 8 else n / 2 ^ 20 % 2 ^ 9
    q.cores[rank]? = none →
    (rank / 8 = own / 8 ∧ (lw, st) = (14, 10)) ∨ (rank / 8 ≠ own / 8 ∧ rank / 96 = own / 96 ∧ (lw, st) = (28, 20)) ∨
      (rank / 96 ≠ own / 96 ∧ (lw, st) = (60, 44)) →
    ((a.kind = .load ∨ a.kind = .ldq ∨ ∃ o, a.kind = .amo o) → does fun t => (s.doing (.ldAddressCheck a)).Defers t [(s.t + lw,
      .bankAccess { holder := s.me, req := 0, cyc := s.t, act := .refused [BitVec.ofNat 32 n, BitVec.ofNat 32 (n / 2 ^ 32)] })]) ∧
    (a.kind = .store → does fun t => (s.doing (.ldAddressCheck a)).Defers t [(s.t + st,
      .bankAccess { holder := s.me, req := 0, cyc := s.t, act := .refused [BitVec.ofNat 32 n, BitVec.ofNat 32 (n / 2 ^ 32)] })])) ∧
  (sp = 0xC → (∃ e ∈ s.pigAccess, e.part = s.partOf s.me ∧ (if a.writes then e.wr else e.rd) = true ∧
      e.base ≤ s.partOf s.me ∧ s.partOf s.me ≤ e.limit) →
    (a.kind = .store → does fun t => (s.doing (.ldAddressCheck a)).Defers t
      [(s.t + 4, .pigeonholeWrite (s.partOf s.me) (n / 4 % 2 ^ 10) (lane a.data 0))]) ∧
    (a.kind = .load → leaves (s.t + 3) s.me (.pigeonhole (n / 4 % 2 ^ 10) a.tg (s.t + 6)))) ∧
  (∀ q phys key, sp = 4 → s.part (s.partOf s.me) = some q → (a.kind = .load ∨ a.kind = .ldq ∨ a.kind = .store) →
    translate q.regions (a.kind == .store) (n % 2 ^ 48) = .ok (phys, key) → does fun t =>
      s.Same t ∧ ∃ r : MemReq, t.reqs = s.reqs ++ [r] ∧ t.Later (some (s.partOf s.me)) r.cycle (.memorySlot (s.partOf s.me)) ∧
        r.part = s.partOf s.me ∧ r.phys = phys ∧ r.size = a.size ∧ r.kind = 0 ∧ r.source = s.rankOf s.me ∧ r.key = key ∧
        r.who = s.cur.who ∧ r.write = (a.kind == .store) ∧ r.performs = r.cycle + 100 ∧
        r.cycle = s.t + (if a.kind = .store then 200 else 256) + (if phys / 2 ^ 36 % 8 / 2 = s.me / 96 then 0 else 24) ∧
        let w := s.t + if phys / 2 ^ 36 % 8 / 2 = s.me / 96 then 360 else 408
        r.sink = if a.kind = .ldq then .queue a.tg w else .dreg a.tg w) ∧
  (∀ h port, sp = 8 → s.route (n / 2 ^ 57 % 8, n / 2 ^ 54 % 8, n / 2 ^ 51 % 8) = (h, port) →
    let ends := s.t + 360 + 380 * h
    let flit (t : State) (i : Nat) (row : Option Row) : Prop :=
      ∃ f : Flit, t.Later (some (s.partOf s.me)) (s.t + 8) (.flitSlotPlacement f) ∧ f.port = port ∧ f.window = s.t + 8 ∧
        f.addr = n ∧ f.idx = i ∧ f.row = row ∧ f.transit = false ∧ f.reply = false ∧ f.from_ = s.coords ∧
        f.rank = s.rankOf s.me ∧ f.source = 0 ∧ f.start = s.t
    let kept (t : State) : Prop := t.parts = s.parts ∧ t.dram = s.dram ∧ ∀ k, t.ctx k = s.ctx k
    (s.linkErrs = [] ∨ port / 2 = s.me / 96 →
      (a.kind = .load → does fun t => flit t 0 none ∧
        (∃ val : Lanes, t.Later (some (s.partOf s.me)) ends (.registerWrite s.me (.d a.tg allLanes val))) ∧ kept t) ∧
      (a.kind = .ldq → does fun t => flit t 0 none ∧
        (∃ row : Row, row.mark = none ∧ row.poison = none ∧
          t.Later (some (s.partOf s.me)) ends (.queueLoadAppend s.me a.tg row)) ∧ kept t) ∧
      (a.kind = .store → a.size ∈ [256, 512, 1024] → does fun t =>
        (∀ i, i < a.size / 256 → flit t i
          (some { words := (List.range 64).map fun k => lane a.data (64 * i + k), mark := none, poison := none })) ∧
        (s.me < 384 → ∃ r ∈ (t.core s.me).away, r.who = s.cur.who ∧ r.performs = s.t + 300 + 190 * h ∧ r.faultAt = ends) ∧
        kept t)) ∧
    ((s.me, s.t, s.cur.who.src) ∈ s.linkErrs → port / 2 ≠ s.me / 96 → a.kind = .load ∨ a.kind = .ldq ∨ a.kind = .store →
      does fun t => (s.doing (.ldAddressCheck a)).Defers t [(if a.kind = .store then s.t + 300 + 190 * h else ends,
        .registerWrite s.me (.fault 0x33 none
          [BitVec.ofNat 32 (min (s.me / 96) (port / 2)), BitVec.ofNat 32 (max (s.me / 96) (port / 2))]))])) ∧
  (∀ q phys key, a.kind = .stnt → s.me < 384 → s.part (s.partOf s.me) = some q →
    translate q.regions true (n % 2 ^ 48) = .ok (phys, key) → does fun t =>
      let ended := s.myCtx.life = .ended
      (t.core s.me).stnts = (s.core s.me).stnts ++
        [{ issue := s.t, bundle := s.cur.who.bundle, covered := (if ended then some (s.t + 2048) else none),
           units := (List.range 16).map fun u => phys + 64 * u }] ∧
      (ended → t.Later (some (s.partOf s.me)) (s.t + 2048) (.drainCompletion s.me (s.t + 2048))) ∧
      (∀ u no k, u < 16 → q.chanNo (stackOf (phys + 64 * u)) (chanOf (phys + 64 * u)) = some no →
        s.linkErrs = [] ∨ stackOf (phys + 64 * u) / 2 = s.me / 96 →
        -- the slot is usable, beside the timeline and the units already placed, and the earliest such from t+300 on
        let free (j : Nat) : Prop := s.available q no j (bankOf (phys + 64 * u)) true (s.placedUnits q no) = true
        (∃ e ∈ (s.hbm[stackOf (phys + 64 * u)]?.getD Stack.reset).access, e.part = q.num ∧ e.wr = true ∧
          e.base ≤ chanOf (phys + 64 * u) ∧ chanOf (phys + 64 * u) ≤ e.limit) →
        free k → s.t + 300 ≤ slotCycle k → (∃ from_, (from_ = slotFrom (s.t + 300) ∨ ∃ p ∈ s.placedUnits q no, from_ = p.slot) ∧
          k < from_ + 2 * (s.timelineOf q no).slots) →
        (∀ j, s.t + 300 ≤ slotCycle j → free j → k ≤ j) →
        t.Later (some (s.partOf s.me)) (slotCycle k) (.stntUnitWrite
          { part := q.num, core := s.me, rank := s.rankOf s.me, issue := s.t, unit := u, phys := phys + 64 * u, key := key,
            data := (List.range 64).map fun b =>
              BitVec.ofNat 8 ((lane a.data (16 * u + b / 4)).toNat / 2 ^ (8 * (b % 4))) })) ∧
      (∀ k, t.ctx k = s.ctx k) ∧ t.parts = s.parts ∧ t.dram = s.dram)) ∧
  (∀ (s : State) (a : Access),
  a.solo = none → a.gen = none → (a.kind = .load ∨ a.kind = .ldq ∨ a.kind = .store) → a.size ∈ [4, 256, 512, 1024] →
  let n := a.ea.toNat
  let raises (code : Nat) : Prop := s.Does .ldAddressCheck (.ldAddressCheck a) fun t =>
    (s.doing (.ldAddressCheck a)).Raises t s.me code s.cur.who.src
      [BitVec.ofNat 32 n, BitVec.ofNat 32 (n / 2 ^ 32)]
  (n / 2 ^ 60 ∉ [0, 1, 2, 4, 8, 0xC] → raises 0x23) ∧ (n / 2 ^ 60 = 0xC → a.kind = .ldq ∨ a.size ≠ 4 → raises 0x23) ∧
  (n / 2 ^ 60 = 4 ∨ n / 2 ^ 60 = 8 → a.kind = .store → a.size = 4 → raises 0x23) ∧ (n / 2 ^ 60 = 0 → n / 2 ^ 20 % 2 ^ 40 ≠ 0 → raises 0x23) ∧
  (n / 2 ^ 60 = 0 → n / 2 ^ 20 % 2 ^ 40 = 0 → n % a.size ≠ 0 → raises 0x22) ∧
  (n / 2 ^ 60 = 0 → n / 2 ^ 20 % 2 ^ 40 = 0 → n % a.size = 0 → s.accessFault a = none) ∧
  (let accepted : Prop := n / 2 ^ 60 ∈ [0, 1, 2, 4, 8, 0xC] ∧ (n / 2 ^ 60 = 0xC → a.kind ≠ .ldq ∧ a.size = 4) ∧
     (n / 2 ^ 60 = 4 ∨ n / 2 ^ 60 = 8 → ¬ (a.kind = .store ∧ a.size = 4))
   let there := (n / 2 ^ 57 % 8, n / 2 ^ 54 % 8, n / 2 ^ 51 % 8)
   let zeroes : Prop := (n / 2 ^ 60 = 0 → n / 2 ^ 20 % 2 ^ 40 = 0) ∧ (n / 2 ^ 60 = 1 → n / 2 ^ 23 % 2 ^ 37 = 0) ∧
     (n / 2 ^ 60 = 2 → n / 2 ^ 29 % 2 ^ 31 = 0) ∧ (n / 2 ^ 60 = 4 → n / 2 ^ 48 % 2 ^ 12 = 0) ∧
     (n / 2 ^ 60 = 8 → n / 2 ^ 48 % 2 ^ 3 = 0 ∧ there ≠ s.coords ∧ there.1 < s.extents.1 ∧ there.2.1 < s.extents.2.1 ∧
       there.2.2 < s.extents.2.2) ∧ (n / 2 ^ 60 = 0xC → n / 2 ^ 12 % 2 ^ 48 = 0 ∧ n % 2 ^ 12 < 0x200)
   (¬ (accepted ∧ zeroes) → raises 0x23) ∧ (accepted → zeroes → n % a.size ≠ 0 → raises 0x22) ∧
   (accepted → zeroes → n % a.size = 0 →
     (n / 2 ^ 60 ∈ [1, 2, 8] → s.accessFault a = none) ∧
     (n / 2 ^ 60 = 0xC → a.kind = .load ∨ (64 ≤ n / 4 % 2 ^ 10 ∧ n / 4 % 2 ^ 10 ≤ 125) → s.accessFault a = none) ∧
     (n / 2 ^ 60 = 0xC → a.kind = .store → n / 4 % 2 ^ 10 < 64 ∨ 125 < n / 4 % 2 ^ 10 → raises 0x21) ∧
     (n / 2 ^ 60 = 4 → ∀ q r, s.part (s.partOf s.me) = some q →
       translate q.regions (a.kind == .store) (n % 2 ^ 48) = .ok r → s.accessFault a = none)))) ∧
  (∀ (s : State) (a : Access), a.solo = none →
  let num (n : Nat) : Word := BitVec.ofNat 32 n
  let raises (code : Nat) (d : List Word) : Prop := s.Does .ldAddressCheck (.ldAddressCheck a) fun t =>
    (s.doing (.ldAddressCheck a)).Raises t s.me code s.cur.who.src d
  (∀ d, a.gen = some d → raises 0x23 d) ∧
  (a.gen = none →
    (let n := a.ea.toNat
     let judged (reaches : Prop) : Prop := (¬ reaches → raises 0x23 [num n, num (n / 2 ^ 32)]) ∧
       (reaches → n % a.size ≠ 0 → raises 0x22 [num n, num (n / 2 ^ 32)]) ∧ (reaches → n % a.size = 0 → s.accessFault a = none)
     (∀ o, a.kind = .amo o → judged (n / 2 ^ 20 = 0 ∨ n / 2 ^ 23 = 2 ^ 37)) ∧ (∀ e, a.kind = .ldt e → judged (n / 2 ^ 20 = 0))) ∧
    (a.kind = .gather ∨ (∃ half, a.kind = .scatter half) →
      let well (x : Nat × Ptr) : Prop := x.2.toNat / 2 ^ 20 = 0 ∧ x.2.toNat % a.size = 0
      ((∀ x ∈ a.lanes, well x) → s.accessFault a = none) ∧
      ∀ before x after, a.lanes = before ++ x :: after → ¬ well x → (∀ y ∈ before, well y) →
        raises (if x.2.toNat / 2 ^ 20 = 0 then 0x22 else 0x23)
          [num x.2.toNat, num (x.2.toNat / 2 ^ 32), num x.1]))) ∧
  (∀ (s : State) (a : Access) (q : Part), a.gen = none → a.kind = .stnt → a.size = 1024 → s.part (s.partOf s.me) = some q →
  let n := a.ea.toNat
  let addr : List Word := [BitVec.ofNat 32 n, BitVec.ofNat 32 (n / 2 ^ 32)]
  let raises (code : Nat) (detail : List Word) : Prop := s.Does .ldAddressCheck (.ldAddressCheck a) fun t =>
    (s.doing (.ldAddressCheck a)).Raises t s.me code s.cur.who.src detail
  (a.solo ≠ none → raises 0x19 ([3] ++ addr ++ [0xFFFFFFFF])) ∧
  (a.solo = none → (n / 2 ^ 60 ≠ 5 ∨ n / 2 ^ 48 % 2 ^ 12 ≠ 0 → raises 0x23 addr) ∧
    (n / 2 ^ 48 = 0x5000 →
      (n % 1024 ≠ 0 → raises 0x22 addr) ∧
      (n % 1024 = 0 →
        (∀ code i, translate q.regions true (n % 2 ^ 48) = .error (code, i) → raises code (addr ++ [BitVec.ofNat 32 i])) ∧
        ∀ r, translate q.regions true (n % 2 ^ 48) = .ok r →
          (32 ≤ (s.core s.me).stnts.length → raises 0x14 (addr ++ [32])) ∧
          ((s.core s.me).stnts.length < 32 → s.accessFault a = none))))) ∧
  (∀ (s : State) (a : Access) (q : Part) (code i : Nat), a.gen = none → a.solo = none → s.part (s.partOf s.me) = some q →
    (a.kind = .load ∨ a.kind = .ldq ∨ a.kind = .store) → a.size ∈ [4, 256, 512, 1024] → (a.kind = .store → a.size ≠ 4) →
    let n := a.ea.toNat
    n / 2 ^ 48 = 0x4000 → n % a.size = 0 → translate q.regions (a.kind == .store) (n % 2 ^ 48) = .error (code, i) →
    s.Does .ldAddressCheck (.ldAddressCheck a) fun t => (s.doing (.ldAddressCheck a)).Raises t s.me code s.cur.who.src
      [BitVec.ofNat 32 n, BitVec.ofNat 32 (n / 2 ^ 32), BitVec.ofNat 32 i]) ∧
  (∀ (rs : List (BitVec 128)) (write : Bool) (a : Nat),
    let bits (e : BitVec 128) (hi lo : Nat) : Nat := e.toNat / 2 ^ lo % 2 ^ (hi - lo + 1)
    let covers (e : BitVec 128) : Prop :=
      e.getLsbD 127 = true ∧ 2 ^ 21 * bits e 47 21 ≤ a ∧ a < 2 ^ 21 * bits e 47 21 + 2 ^ bits e 105 100
    ((∀ e ∈ rs, ¬ covers e) → translate rs write a = .error (0x20, 0xFF)) ∧
    ∀ i e, rs[i]? = some e → covers e → (∀ j d, j < i → rs[j]? = some d → ¬ covers d) →
      translate rs write a = if e.getLsbD (if write then 107 else 106) = true
        then .ok (2 ^ 21 * bits e 81 64 + (a - 2 ^ 21 * bits e 47 21), bits e 113 108) else .error (0x21, i)) ∧
  ∀ (s : State) (q : Part) (no k bank : Nat) (placed : List Placed), s.available q no k bank true placed = true →
    (∀ p ∈ placed, p.slot ≠ k) ∧ ∃ first len word, wordAt (s.timelineOf q no).colSpans (k % (s.timelineOf q no).slots) =
      some (first, len, word) ∧ word.toNat / 2 ^ 28 = 7 ∧ first + 12 ≤ k % (s.timelineOf q no).slots ∧
      k % (s.timelineOf q no).slots + 13 ≤ first + len

/-- R80, R245, R250, R264, R265, R267: a pigeonhole written by one writer in a cycle; a memory slot whose one request agrees
with its column word, and is admitted by the access table of its stack (R240), serves it, a write performing at its cycle, and
a read giving at its RD the bytes of its units, decrypted under the key of its slot, to where it goes (a d register, a queue,
an element's arrival, a row of the answer to another package), poisoned when a unit is poisoned or uncorrectable (fault 0x30
at the W of a load, a mark on a row); one that breaks a rule is fault 0x18 and is not served, and so is an RD or WR word
without OPT that no request meets; two requests that meet in a slot are neither served, and each is a record of rule 8 that
names both, by rank, kind and source; the condition of each of rules 1 to 8, judged for the unit on the lowest pseudo-channel
that breaks one (the order in which the rules are judged, and the rank of a word whose source has no core, are log entry 13,
and that every bank is closed before the first repetition is log entry 10); units written to device memory read back under
their key (R238), change no byte outside themselves and lose their marks; a drain's completion ends the STNTs it covers; a
unit of the host or of a port served in its slot: a read answers its bytes, or that the unit is poisoned, a whole unit is
written, and a part of one is merged into the unit as it is read, or, in a poisoned unit, not written and logged. -/
def Obligations.MemorySteps : Prop :=
  (∀ (s : State) (q : Part) (n : Nat) (w : Word), s.part q.num = some q → n < 128 →
    (∀ x ∈ s.due, ∀ p k v, x.what ≠ .pigeonholeWrite p k v) →
    s.Does .pigeonholeWrite (.pigeonholeWrite q.num n w) fun t =>
      (∃ r, t.part q.num = some r ∧ r.pigLive = q.pigLive.setIfInBounds n w ∧ r.pigLatched = q.pigLatched) ∧
      (∀ p, p ≠ q.num → t.part p = s.part p) ∧ t.cores = s.cores ∧ t.dram = s.dram ∧ t.due = s.due) ∧
  (∀ (s : State) (q : Part) (r : MemReq) (k : Nat), s.part q.num = some q → slotAt (q.ttc s.gtc) = some k → s.reqs = [r] →
    r.part = q.num → r.cycle = q.ttc s.gtc → r.write = true → s.requestRule q [r] (some k) r = none → s.linkErrs = [] →
    q.unmet [r] k = [] → (∀ x ∈ s.due, q.nmUnits x.what = none) →
    (∀ u ∈ unitsOf r.phys r.size, ∃ st e, s.hbm[stackOf (64 * u)]? = some st ∧ e ∈ st.access ∧ e.part = q.num ∧ e.wr = true ∧
      e.base ≤ chanOf (64 * u) ∧ chanOf (64 * u) ≤ e.limit) → s.Does .memorySlot (.memorySlot q.num) fun t =>
      t.reqs = [] ∧ s.Same t ∧
      t.Later (some q.num) r.performs (.deviceWritePerform q.tenant (unitWrites r.phys r.key r.data))) ∧
  (∀ (s : State) (q : Part) (r : MemReq) (k : Nat), s.part q.num = some q → slotAt (q.ttc s.gtc) = some k → s.reqs = [r] →
    r.part = q.num → r.cycle = q.ttc s.gtc → r.write = false → s.requestRule q [r] (some k) r = none → s.linkErrs = [] →
    q.unmet [r] k = [] → (∀ x ∈ s.due, q.nmUnits x.what = none) → r.phys % 64 + r.size ≤ 64 * ((r.size + 63) / 64) →
    r.size % 4 = 0 →
    (∀ u ∈ unitsOf r.phys r.size, ∃ st e, s.hbm[stackOf (64 * u)]? = some st ∧ e ∈ st.access ∧ e.part = q.num ∧ e.rd = true ∧
      e.base ≤ chanOf (64 * u) ∧ chanOf (64 * u) ≤ e.limit) → s.Does .memorySlot (.memorySlot q.num) fun t =>
      let units := unitsOf r.phys r.size
      let data := ((units.flatMap (s.plainUnit (s.keyOf q.tenant r.key))).drop (r.phys % 64)).take r.size
      let word (k : Nat) : Nat := (data.getD (4 * k) 0).toNat + 2 ^ 8 * (data.getD (4 * k + 1) 0).toNat +
        2 ^ 16 * (data.getD (4 * k + 2) 0).toNat + 2 ^ 24 * (data.getD (4 * k + 3) 0).toNat
      let row (n first : Nat) (r : Row) : Prop := r.words.length = n ∧ ∀ k, k < n → (r.words.getD k 0).toNat = word (first + k)
      let core := r.who.core
      let later (at_ : Nat) (w : Work) : Prop := t.Later (some (s.partOf core)) at_ w
      t.reqs = [] ∧ data.length = r.size ∧ (s.dramBad = [] → s.dramSoft = [] → (∀ c e, r.sink ≠ .entry c e ∧ r.sink ≠ .send c e) → s.Same t) ∧
      ∃ bad : Option ErrUnit, (bad = none ↔ ∀ u ∈ units, u ∉ s.dramBad ∧ ∀ p ∈ s.poison, p.1 ≠ u) ∧
        (∀ n at_, r.sink = .dreg n at_ →
          (∀ b, bad = some b → later at_ (.registerWrite core (.fault 0x30 (some b) []))) ∧
          (bad = none → ∃ val : Lanes, (∀ k, k < 256 → (lane val k).toNat = if 4 * k < r.size then word k else 0) ∧
            later at_ (.registerWrite core (.d n allLanes val)))) ∧
        (∀ n at_, r.sink = .queue n at_ → ∃ x : Row, row (r.size / 4) 0 x ∧ x.mark = none ∧ x.poison = bad ∧
          later at_ (.queueLoadAppend core n x)) ∧
        (∀ c e at_, r.sink = .inbound c e at_ → later at_ (.engineElementArrival c e data bad)) ∧
        ∀ o at_ i, r.sink = .remote o at_ → r.size % 256 = 0 → i < r.size / 256 → ∃ (f : Flit) (x : Row),
          later at_ (.flitSlotPlacement f) ∧ f.row = some x ∧ row 64 (64 * i) x ∧ x.poison = bad ∧ f.reply = true ∧
          f.from_ = o.from_ ∧ f.rank = o.rank ∧ f.source = o.source ∧ f.start = o.start ∧ f.elem = o.elem ∧ f.idx = i ∧
          f.port = (s.route o.from_).2) ∧
  (∀ (s : State) (q : Part) (r : MemReq) (k rule p n : Nat), s.part q.num = some q → slotAt (q.ttc s.gtc) = some k →
    s.reqs = [r] → r.part = q.num → r.cycle = q.ttc s.gtc → s.requestRule q [r] (some k) r = some (rule, p) →
    q.unmet [r] k = [] → (∀ x ∈ s.due, q.nmUnits x.what = none) → q.chanNo (stackOf p) (chanOf p) = some n → rule ≠ 8 →
    r.kind ≠ 2 → s.partOf r.who.core = q.num → s.Does .memorySlot (.memorySlot q.num) fun t => t.reqs = [] ∧
      t.cores = s.cores ∧ t.dram = s.dram ∧ (∀ x ∈ t.due, x ∈ s.due ∨ x.what = .memorySlot q.num) ∧ ∃ f : FaultNow,
        t.parts = (s.modPart q.num fun q => { q with faultsNow := q.faultsNow ++ [f] }).parts ∧ f.code = 0x18 ∧
        f.rank = s.rankOf r.who.core ∧ f.src = 12 ∧ f.detail = [BitVec.ofNat 32 (rule * 2 ^ 28 + stackOf p * 2 ^ 25 +
            chanOf p * 2 ^ 19 + n * 2 ^ 10), BitVec.ofNat 32 (k % (s.timelineOf q n).slots),
          BitVec.ofNat 32 (r.kind * 2 ^ 30 + r.source), BitVec.ofNat 32 r.who.issue]) ∧
  (∀ (s : State) (q : Part) (r r' : MemReq) (k p p' n : Nat), s.part q.num = some q → slotAt (q.ttc s.gtc) = some k →
    s.reqs = [r, r'] → (∀ x ∈ [r, r'], x.part = q.num ∧ x.cycle = q.ttc s.gtc ∧ x.kind ≠ 2 ∧ s.partOf x.who.core = q.num) →
    s.requestRule q [r, r'] (some k) r = some (8, p) → s.requestRule q [r, r'] (some k) r' = some (8, p') →
    stackOf p = stackOf p' → chanOf p = chanOf p' → q.chanNo (stackOf p) (chanOf p) = some n → p / 64 ∈ unitsOf r.phys r.size →
    p' / 64 ∈ unitsOf r'.phys r'.size → p % 64 = 0 → p' % 64 = 0 → q.unmet [r, r'] k = [] →
    (∀ x ∈ s.due, q.nmUnits x.what = none) →
    let key (x : MemReq) : List Nat := [s.rankOf x.who.core, x.kind, x.source]
    let words (x : MemReq) : List Word := [BitVec.ofNat 32 (x.kind * 2 ^ 30 + x.source), BitVec.ofNat 32 x.who.issue]
    s.Does .memorySlot (.memorySlot q.num) fun t => t.reqs = [] ∧ t.cores = s.cores ∧ t.dram = s.dram ∧
      (∀ x ∈ t.due, x ∈ s.due ∨ x.what = .memorySlot q.num) ∧ ∃ f f' : FaultNow,
        t.parts = (s.modPart q.num fun q => { q with faultsNow := q.faultsNow ++ [f, f'] }).parts ∧
        f.rank = s.rankOf r.who.core ∧ f'.rank = s.rankOf r'.who.core ∧ ∀ g ∈ [f, f'], g.code = 0x18 ∧ g.src = 12 ∧
          ∃ named : List Word, g.detail = [BitVec.ofNat 32 (8 * 2 ^ 28 + stackOf p * 2 ^ 25 + chanOf p * 2 ^ 19 + n * 2 ^ 10),
              BitVec.ofNat 32 (k % (s.timelineOf q n).slots)] ++ named ∧
            (keyLt (key r) (key r') = true → named = words r ++ words r') ∧
            (keyLt (key r') (key r) = true → named = words r' ++ words r)) ∧
  (∀ (s : State) (q : Part) (k : Nat),
    let colWord (tl : Timeline) : Nat :=
      let at_ : Option (Nat × Nat × Word) := tl.colSpans.find? fun x => decide (x.1 ≤ k % tl.slots) && decide (k % tl.slots < x.1 + x.2.1)
      at_.elim 0 fun x => x.2.2.toNat
    -- the row that the last row command to name the bank leaves open; in the first repetition, since its start
    let rowOpen (tl : Timeline) (bank : Nat) : Option Nat :=
      let past := (if k < tl.slots then [] else tl.rowSpans) ++ tl.rowSpans.filter fun x => decide (x.1 ≤ k % tl.slots)
      let code (x : Nat × Nat × Word) : Nat := x.2.2.toNat / 2 ^ 28
      let last := (past.filter fun x => decide (code x = 3) ||
        (decide (code x = 1 ∨ code x = 2) && decide (x.2.2.toNat / 2 ^ 24 % 2 ^ 4 = bank))).getLast?
      last.bind fun x => if code x = 1 then some (x.2.2.toNat % 2 ^ 16) else none
    let meets (x : MemReq) (stack chan : Nat) : Bool :=
      (unitsOf x.phys x.size).any fun u => stackOf (64 * u) == stack && chanOf (64 * u) == chan
    let breaks (all : List MemReq) (r : MemReq) (p n : Nat) : Option Nat :=
      let w := colWord (s.timelineOf q n)
      if w / 2 ^ 28 ≠ 8 ∧ w / 2 ^ 28 ≠ 9 then some 2
      else if 2 ≤ (all.filter fun x => meets x (stackOf p) (chanOf p)).length then some 8
      else if (r.write = true ∧ w / 2 ^ 28 = 8) ∨ (r.write = false ∧ w / 2 ^ 28 = 9) then some 4
      else if w / 2 ^ 18 % 2 ^ 2 ≠ r.kind ∨ w / 2 ^ 8 % 2 ^ 9 ≠ r.source then some 5
      else if w / 2 ^ 24 % 2 ^ 4 ≠ p / 2 ^ 14 % 2 ^ 4 ∨ w / 2 ^ 20 % 2 ^ 4 ≠ p / 2 ^ 10 % 2 ^ 4 then some 6
      else if rowOpen (s.timelineOf q n) (p / 2 ^ 14 % 2 ^ 4) ≠ some (p / 2 ^ 18 % 2 ^ 16) then some 7
      else none
    (∀ (all : List MemReq) (r : MemReq), (∀ u ∈ unitsOf r.phys r.size, q.chanNo (stackOf (64 * u)) (chanOf (64 * u)) ≠ none) →
      let broken (p : Nat) (rule : Option Nat) : Prop := ∀ n, q.chanNo (stackOf p) (chanOf p) = some n → breaks all r p n = rule
      (s.requestRule q all (some k) r = none ↔ ∀ u ∈ unitsOf r.phys r.size, broken (64 * u) none) ∧
      (∀ rule p, s.requestRule q all (some k) r = some (rule, p) → p / 64 ∈ unitsOf r.phys r.size ∧ p % 64 = 0 ∧
        broken p (some rule) ∧ ∀ u ∈ unitsOf r.phys r.size, chanOf (64 * u) < chanOf p → broken (64 * u) none) ∧
      (s.requestRule q all none r = none ↔ r.size = 0) ∧
      ∀ rule p, s.requestRule q all none r = some (rule, p) → rule = 1 ∧ p / 64 ∈ unitsOf r.phys r.size ∧ p % 64 = 0 ∧
        ∀ u ∈ unitsOf r.phys r.size, chanOf p ≤ chanOf (64 * u)) ∧
    (∀ (all : List MemReq) (n : Nat) (w : Word), (n, w) ∈ q.unmet all k ↔ ∃ tl ∈ q.timelines, tl.chan = n ∧
      w.toNat = colWord tl ∧ (w.toNat / 2 ^ 28 = 8 ∨ w.toNat / 2 ^ 28 = 9) ∧ w.getLsbD 17 = false ∧
      ∀ x ∈ all, meets x (q.chanAt n).1 (q.chanAt n).2 = false) ∧
    ∀ (n : Nat) (w : Word), s.part q.num = some q → slotAt (q.ttc s.gtc) = some k → (∀ r ∈ s.reqs, r.part ≠ q.num) →
      q.unmet [] k = [(n, w)] → (∀ x ∈ s.due, q.nmUnits x.what = none) → s.Does .memorySlot (.memorySlot q.num) fun t =>
        t.reqs = s.reqs ∧ t.cores = s.cores ∧ t.dram = s.dram ∧ ∃ f : FaultNow,
        t.parts = (s.modPart q.num fun q => { q with faultsNow := q.faultsNow ++ [f] }).parts ∧ f.code = 0x18 ∧ f.src = 12 ∧
        f.rank = (if w.toNat / 2 ^ 18 % 2 ^ 2 = 2 ∨ q.cores.length ≤ w.toNat / 2 ^ 8 % 2 ^ 9 then 0
          else w.toNat / 2 ^ 8 % 2 ^ 9) ∧
        f.detail = [BitVec.ofNat 32 (3 * 2 ^ 28 + (q.chanAt n).1 * 2 ^ 25 + (q.chanAt n).2 * 2 ^ 19 + n * 2 ^ 10),
          BitVec.ofNat 32 (k % (s.timelineOf q n).slots),
          BitVec.ofNat 32 (w.toNat / 2 ^ 18 % 2 ^ 2 * 2 ^ 30 + w.toNat / 2 ^ 8 % 2 ^ 9), 0xFFFFFFFF]) ∧
  (∀ (s : State) (tenant : Nat) (u : UnitWrite), s.Does .deviceWritePerform (.deviceWritePerform tenant [u]) fun t =>
    (s.dram.wf = true → u.data.length = 64 → t.plainUnit (s.keyOf tenant u.key) (u.phys / 64) = u.data) ∧
    (∀ a, a / 64 ≠ u.phys / 64 → t.dram.read a = s.dram.read a) ∧ (∀ p ∈ t.poison, p.1 ≠ u.phys / 64) ∧
    t.cores = s.cores ∧ t.parts = s.parts ∧ t.due = s.due) ∧
  (∀ (s : State) (u : StntUnit), u.core < 384 → s.Does .stntUnitWrite (.stntUnitWrite u) fun t =>
    (∀ q, s.dram.wf = true → s.part u.part = some q → u.data.length = 64 →
      t.plainUnit (s.keyOf q.tenant u.key) (u.phys / 64) = u.data) ∧
    (∀ a, a / 64 ≠ u.phys / 64 → t.dram.read a = s.dram.read a) ∧ (∀ p ∈ t.poison, p.1 ≠ u.phys / 64) ∧
    (∀ r ∈ (t.core u.core).stnts, r.issue = u.issue → u.phys ∉ r.units) ∧ t.ctx u.core = s.ctx u.core ∧
    (∀ k, k ≠ u.core → t.core k = s.core k) ∧ t.parts = s.parts) ∧
  (∀ (s : State) (c upto : Nat), c < 384 → (∀ r ∈ (s.core c).stnts, r.covered = some upto → r.units = []) →
    s.Does .drainCompletion (.drainCompletion c upto) fun t =>
      (t.core c).stnts = ((s.core c).stnts.filter fun r => r.covered ≠ some upto) ∧ t.ctx c = s.ctx c ∧
      (∀ k, k ≠ c → t.core k = s.core k) ∧ t.parts = s.parts ∧ t.dram = s.dram) ∧
  ∀ (s : State) (a : OpenAccess) (k : Nat), a.slot = some k →
    let unit := a.phys / 64
    let held := s.plainUnit (s.keyOf a.tenant a.key) unit
    let bytes := (held.drop a.first).take a.data.length
    let does (P : State → Prop) : Prop := s.Does .openSlotService (.openSlotService a) P
    (a.write = false → s.dramBad = [] → s.dramSoft = [] →
      ((∀ p ∈ s.poison, p.1 ≠ unit) →
        (a.use = .host → does fun t => s.Same t ∧ t.out = s.out ++ [.data a.fn bytes]) ∧
        ∀ p, a.use = .peer p → does fun t => s.Same t ∧ t.out = s.out ++ [.peer p (some bytes)]) ∧
      ((∃ p ∈ s.poison, p.1 = unit) →
        (a.use = .host → does fun t => s.Same t ∧ t.out = s.out ++ [.poisoned a.fn]) ∧
        ∀ p, a.use = .peer p → does fun t => s.Same t ∧ t.out = s.out ++ [.peer p none])) ∧
    (a.write = true → a.use = .host ∨ (∃ p, a.use = .peer p) →
      (a.data.length = 64 → does fun t =>
        (s.dram.wf = true → t.plainUnit (s.keyOf a.tenant a.key) unit = a.data) ∧
        (∀ b, b / 64 ≠ unit → t.dram.read b = s.dram.read b) ∧ (∀ p ∈ t.poison, p.1 ≠ unit) ∧
        t.cores = s.cores ∧ t.parts = s.parts ∧ t.out = s.out) ∧
      (a.data.length < 64 → a.first + a.data.length ≤ 64 → s.dramBad = [] → s.dramSoft = [] →
        ((∀ p ∈ s.poison, p.1 ≠ unit) → does fun t =>
          (s.dram.wf = true → t.plainUnit (s.keyOf a.tenant a.key) unit =
            held.take a.first ++ a.data ++ held.drop (a.first + a.data.length)) ∧
          (∀ b, b / 64 ≠ unit → t.dram.read b = s.dram.read b) ∧ t.cores = s.cores ∧ t.parts = s.parts ∧ t.out = s.out) ∧
        ((∃ p ∈ s.poison, p.1 = unit) → does fun t => s.Same t ∧ t.poison = s.poison ∧ t.out = s.out ∧
          ∀ i : Fin 64, t.fns[i] = { s.fns[i] with aer := s.fns[i].aer + if a.use = .host ∧ a.fn = i.val then 1 else 0 })))

/-! ### The steps of the engines -/

/-- R279, R282, R284, R290, R294, R385: a command that passes its checks leaves the claim of every element at its issue cycle,
a list's entry and a row for a link at S+e; one that fails takes the fault of the first check that fails, at the lowest
element that fails it (log entry 33), and leaves nothing. An element that meets no other claim of its engine reads its own
scratchpad (MKCFG, PPTLD, XSTORE, XRED, XMC, and XFER, XFERQ and VBMLD from it) in that cycle; from a core of its cluster, die
or another die it reads at S+e+4, +12 or +28 and arrives at S+e+10, +24 or +56; from device memory its request stands at the
memory slot number e from S+16, or S+40 for a stack of another die. A list's entry is read likewise, and is a claim (log entry
33). Elements of two commands that meet read nothing, and are fault 0x10, which names the command of earlier start first (log
entry 23). -/
def Obligations.EngineElements : Prop := ∀ (s : State) (c : Cmd),
  (let w := c.shape.toNat
   let fld (hi lo : Nat) : Nat := w / 2 ^ lo % 2 ^ (hi + 1 - lo)
   let signed (x : Nat) : Int := if x < 2 ^ 11 then (x : Int) else (x : Int) - 2 ^ 12
   let X0 := fld 41 36 + 1
   let X1 := fld 35 30 + 1
   let X2 := fld 29 26 + 1
   let S1 := signed (fld 25 14)
   let S2 := signed (fld 13 2)
   let BASE := fld 127 64
   let LOC := fld 63 44
   let ESZ := fld 43 42
   let z := if c.op = 0x0B then 32 else if ESZ = 0 then 64 else if ESZ = 1 then 256 else 1024
   let far (e : Nat) : Nat := c.far e
   let sp (e : Nat) : Nat := far e / 2 ^ 60
   let bits (e hi lo : Nat) : Nat := far e / 2 ^ lo % 2 ^ (hi + 1 - lo)
   let win := c.op = 0x10 ∨ c.op = 0x11
   let zeroes (e : Nat) : Prop := (sp e = 0 ∧ bits e 59 20 ≠ 0) ∨ (sp e = 1 ∧ bits e 59 23 ≠ 0) ∨ (sp e = 2 ∧ bits e 59 29 ≠ 0) ∨
     (sp e = 4 ∧ bits e 59 48 ≠ 0) ∨ (sp e = 8 ∧ (bits e 50 48 ≠ 0 ∨ (bits e 59 57, bits e 56 54, bits e 53 51) = s.coords ∨
       s.extents.1 ≤ bits e 59 57 ∨ s.extents.2.1 ≤ bits e 56 54 ∨ s.extents.2.2 ≤ bits e 53 51))
   c.n = X0 * X1 * X2 ∧
   (∀ i0 i1 i2, i0 < X0 → i1 < X1 → i2 < X2 →
     (far (i0 + X0 * (i1 + X1 * i2)) : Int) = ((BASE : Int) + z * (i0 + S1 * i1 + S2 * i2)) % 2 ^ 64) ∧
   (∀ q, s.part (s.partOf s.me) = some q → c.op ∈ [0x08, 0x09, 0x0A, 0x0B, 0x10, 0x11, 0x12, 0x18, 0x19, 0x1A] →
     let fails (k e code : Nat) : Prop :=
       (k = 1 ∧ code = 0x23 ∧ (ESZ = 3 ∨ (fld 0 0 ≠ 0 ∧ c.op ≠ 0x11) ∨ (c.op = 0x09 ∧ (ESZ ≠ 1 ∨ fld 63 46 ≠ 0)) ∨
         (c.op = 0x0B ∧ (ESZ ≠ 0 ∨ X1 ≠ 1 ∨ X2 ≠ 1 ∨ S1 ≠ 0 ∨ S2 ≠ 0 ∨ fld 1 1 ≠ 0 ∨ LOC ≠ 0)) ∨
         (c.op = 0x10 ∧ (X1 ≠ 1 ∨ X2 ≠ 1 ∨ S1 ≠ 0 ∨ S2 ≠ 0)) ∨
         (c.op = 0x11 ∧ (X1 ≠ 1 ∨ X2 ≠ 1 ∨ S2 ≠ 0 ∨
           (fld 1 1 = 1 ∧ (BASE / 4 % 256 ≠ 0 ∨ z * c.n ≠ 1024 ∨ S1 < -160 ∨ 40 < S1)))) ∨
         (c.op = 0x12 ∧ (ESZ ≠ 1 ∨ fld 63 54 ≠ 0 ∨ fld 51 44 = 0)) ∨
         (c.op = 0x18 ∧ (ESZ ≠ 0 ∨ c.n ≠ 1 ∨ fld 1 1 ≠ 0 ∨ LOC ≠ 0)) ∨
         (c.op = 0x19 ∧ (z * c.n ≠ 512 ∨ fld 1 1 ≠ 0 ∨ LOC ≠ 0)) ∨
         (c.op = 0x1A ∧ (fld 1 1 ≠ 0 ∨ fld 63 57 ≠ 0 ∨ LOC % z ≠ 0 ∨ 8192 < LOC + z * c.n)))) ∨
       (k = 2 ∧ code = 0x23 ∧ sp e ∉ (if c.op ∈ [0x08, 0x09, 0x1A] then [0, 1, 2, 4, 8] else if c.op = 0x0A then [1, 2, 4, 8]
         else if c.op = 0x10 then [0, 1, 2, 8] else if c.op = 0x12 then [0, 1] else [0])) ∨
       (k = 3 ∧ c.op ∈ [0x08, 0x0A, 0x10, 0x11] ∧ ((code = 0x22 ∧ (LOC + z * e) % z ≠ 0) ∨
         (code = 0x23 ∧ (LOC + z * e) % z = 0 ∧ 2 ^ 20 < LOC + z * e + z))) ∨
       (k = 4 ∧ code = 0x22 ∧ ((win ∧ far e % 4 ≠ 0) ∨ (¬ win ∧ far e % z ≠ 0))) ∨
       (k = 5 ∧ code = 0x23 ∧ (zeroes e ∨ (sp e = 8 ∧ c.op = 0x10 ∧ (bits e 47 29 ≠ 0 ∨ bits e 19 13 ≠ 0)))) ∨
       (k = 6 ∧ code = 0x23 ∧ win ∧ (bits e 19 13 ≠ 0 ∨ 256 < BASE / 4 % 256 + c.n * z / 4)) ∨
       (k = 7 ∧ (sp e = 4 ∨ sp e = 8) ∧ c.op ≠ 0x10 ∧ ∃ i, translate q.regions (c.op == 0x0A) (far e % 2 ^ 48) = .error (code, i)) ∨
       (k = 8 ∧ code = 0x21 ∧ (sp e = 1 ∨ sp e = 2) ∧ ¬ ∃ core,
         q.cores[if sp e = 1 then s.rankOf s.me / 8 * 8 + bits e 22 20 else bits e 28 20]? = some core ∧
           s.Admits core (c.op == 0x0A || c.op == 0x10))
     ∀ code e, s.cmdFault c = some (code, e) ↔ e < c.n ∧ ∃ k, 1 ≤ k ∧ k ≤ 8 ∧ fails k e code ∧
       (∀ k' e' d, k' < k → e' < c.n → ¬ fails k' e' d) ∧ ∀ e' d, e' < e → ¬ fails k e' d) ∧
   (c.isLink = true ↔ c.op = 0x28 ∨ c.op = 0x29) ∧
   (c.isLink = true →
     let rows := c.op = 0x28 ∧ fld 60 60 = 0
     let fails (k e code : Nat) : Prop :=
       (k = 1 ∧ code = 0x23 ∧ (6 ≤ fld 63 61 ∨ ESZ ≠ 1 ∨ X1 ≠ 1 ∨ X2 ≠ 1 ∨ fld 0 0 ≠ 0 ∨ fld 47 44 ≠ 0 ∨
         (c.op = 0x28 ∧ fld 48 48 ≠ 0) ∨ (c.op = 0x29 ∧ 6 ≤ fld 60 58) ∨ (¬ rows ∧ BASE ≠ 0))) ∨
       (k = 2 ∧ code = 0x23 ∧ rows ∧ sp e ≠ 0) ∨ (k = 4 ∧ code = 0x22 ∧ rows ∧ far e % 256 ≠ 0) ∨
       (k = 5 ∧ code = 0x23 ∧ rows ∧ zeroes e) ∨
       (k = 8 ∧ code = 0x21 ∧ ¬ ∃ p, s.ports[fld 63 61]? = some p ∧ p.mode = .torus ∧ ∃ x ∈ p.access,
         x.part = s.partOf s.me ∧ x.wr = true ∧ x.base ≤ x.limit ∧ x.base < 6144)
     ∀ code e, s.linkFault c = some (code, e) ↔ e < c.n ∧ ∃ k, 1 ≤ k ∧ k ≤ 8 ∧ fails k e code ∧
       (∀ k' e' d, k' < k → e' < c.n → ¬ fails k' e' d) ∧ ∀ e' d, e' < e → ¬ fails k e' d)) ∧
  (c.isLink = false → c.op ≠ 0x0B → s.cmdFault c = none → s.Does .teCommandStart (.teCommandStart c) fun t =>
    (∀ e, e < c.n → t.Later (some (s.partOf s.me)) (s.elemCycles c e).1 (.engineElementIssue c e)) ∧
    (∀ x ∈ s.due, x ∈ t.due) ∧ (∀ k, (t.core k).spad = (s.core k).spad) ∧ t.parts = s.parts ∧ t.dram = s.dram) ∧
  (c.isLink = false → c.op = 0x0B → s.cmdFault c = none → s.Does .teCommandStart (.teCommandStart c) fun t =>
    (∀ e, e < c.n → t.Later (some (s.partOf s.me)) (c.start + e) (.tlistEntryRead c e)) ∧
    (∀ x ∈ s.due, x ∈ t.due) ∧ (∀ k, (t.core k).ctx = (s.core k).ctx ∧ (t.core k).spad = (s.core k).spad) ∧
    t.parts = s.parts ∧ t.dram = s.dram) ∧
  (c.isLink = true → s.linkFault c = none → s.Does .teCommandStart (.teCommandStart c) fun t =>
    (∀ e, e < c.n → t.Later (some (s.partOf s.me)) (c.start + e)
      (if c.op = 0x28 then .linkSendElement c e else .linkForwardElement c e)) ∧
    (∀ x ∈ s.due, x ∈ t.due) ∧ (∀ k, (t.core k).ctx = (s.core k).ctx ∧ (t.core k).spad = (s.core k).spad) ∧
    t.parts = s.parts ∧ t.dram = s.dram) ∧
  (∀ code e, c.isLink = true → s.linkFault c = some (code, e) → s.Does .teCommandStart (.teCommandStart c) fun t =>
    ∃ u, (s.doing (.teCommandStart c)).Raises u s.me code s.cur.who.src
      [BitVec.ofNat 32 c.op, BitVec.ofNat 32 c.start, BitVec.ofNat 32 e, BitVec.ofNat 32 (c.far e),
        BitVec.ofNat 32 (c.far e / 2 ^ 32)] ∧
    t.due = s.due ∧ t.parts = u.parts ∧ (∀ k, (t.core k).ctx = (s.core k).ctx ∧ (t.core k).spad = (s.core k).spad)) ∧
  (∀ code e, c.isLink = false → s.cmdFault c = some (code, e) → s.Does .teCommandStart (.teCommandStart c) fun t =>
    ∃ u, (s.doing (.teCommandStart c)).Raises u s.me code s.cur.who.src
      [BitVec.ofNat 32 c.op, BitVec.ofNat 32 c.start, BitVec.ofNat 32 e, BitVec.ofNat 32 (c.far e),
        BitVec.ofNat 32 (c.far e / 2 ^ 32)] ∧
    t.due = s.due ∧ t.parts = u.parts ∧ (∀ k, (t.core k).ctx = (s.core k).ctx ∧ (t.core k).spad = (s.core k).spad)) ∧
  (∀ e, s.rivals = [] →
    let reads (act : BankAct) : Prop := s.Does .engineElementIssue (.engineElementIssue c e) fun t => ∃ req,
      (s.doing (.engineElementIssue c e)).Defers t
        [(s.now, .bankAccess { holder := s.me, req := req, cyc := c.start, act := act })]
    (c.op = 0x18 → reads (.load (c.far e % 2 ^ 20) 64 (.config (c.start + 2)))) ∧
    (c.op = 0x19 → reads (.load (c.far e % 2 ^ 20) c.z (.parents c e))) ∧
    (c.op = 0x0A ∨ c.op = 0x10 →
      reads (.load (c.loc + c.z * e) c.z (.outbound c e (s.outAt c e (s.elemFar c e))))) ∧
    (c.op = 0x12 → c.far e / 2 ^ 60 = 0 → reads (.load (c.far e % 2 ^ 20) 256 (.outbound c e (c.start + e + 8)))) ∧
    (∀ q k rd at_, s.part (s.partOf s.me) = some q → c.far e / 2 ^ 60 = 1 ∨ c.far e / 2 ^ 60 = 2 →
      q.cores[if c.far e / 2 ^ 60 = 1 then s.rankOf s.me / 8 * 8 + c.far e / 2 ^ 20 % 8 else c.far e / 2 ^ 20 % 2 ^ 9]? = some k →
      s.Admits k false →
      (k / 8 = s.me / 8 ∧ (rd, at_) = (4, 10)) ∨ (k / 8 ≠ s.me / 8 ∧ k / 96 = s.me / 96 ∧ (rd, at_) = (12, 24)) ∨
        (k / 96 ≠ s.me / 96 ∧ (rd, at_) = (28, 56)) →
      (c.op ∈ [0x08, 0x09, 0x1A] → s.Does .engineElementIssue (.engineElementIssue c e) fun t => ∃ req,
        (s.doing (.engineElementIssue c e)).Defers t [(c.start + e + rd, .bankAccess
          { holder := k, req := req, cyc := s.t,
            act := .load (c.far e % 2 ^ 20) c.z (.inbound c e (c.start + e + at_)) })]) ∧
      (c.op = 0x12 → s.Does .engineElementIssue (.engineElementIssue c e) fun t => ∃ req,
        (s.doing (.engineElementIssue c e)).Defers t [(c.start + e + 4, .bankAccess
          { holder := k, req := req, cyc := s.t,
            act := .load (c.far e % 2 ^ 20) 256 (.outbound c e (c.start + e + 12)) })])) ∧
    (∀ q phys key, s.part (s.partOf s.me) = some q → c.op ∈ [0x08, 0x09, 0x1A] → c.far e / 2 ^ 60 = 4 →
      translate q.regions false (c.far e % 2 ^ 48) = .ok (phys, key) →
      s.Does .engineElementIssue (.engineElementIssue c e) fun t => s.Same t ∧ ∃ r : MemReq, t.reqs = s.reqs ++ [r] ∧
        t.Later (some (s.partOf s.me)) r.cycle (.memorySlot (s.partOf s.me)) ∧ r.part = s.partOf s.me ∧ r.phys = phys ∧
        r.size = c.z ∧ r.kind = 1 ∧ r.source = s.rankOf s.me ∧ r.key = key ∧ r.write = false ∧ r.who = s.cur.who ∧
        r.cycle = slotCycle (slotFrom (c.start + if phys / 2 ^ 36 % 8 / 2 = s.me / 96 then 16 else 40) + e) ∧
        r.sink = .inbound c e (r.cycle + if phys / 2 ^ 36 % 8 / 2 = s.me / 96 then 104 else 152)) ∧
    (c.op = 0x08 ∨ c.op = 0x09 ∨ c.op = 0x1A → c.far e / 2 ^ 60 = 0 → s.Does .engineElementIssue (.engineElementIssue c e) fun t => ∃ req,
      (s.doing (.engineElementIssue c e)).Defers t [(c.start + e, .bankAccess
        { holder := s.me, req := req, cyc := c.start,
          act := .load (c.far e % 2 ^ 20) c.z (.inbound c e (c.start + e + 2)) })]) ∧
    s.Does .tlistEntryRead (.tlistEntryRead c e) fun t => ∃ req,
      (s.doing (.tlistEntryRead c e)).Defers t [(s.now, .bankAccess
        { holder := s.me, req := req, cyc := c.start, act := .load (c.far e % 2 ^ 20) 32 (.entry c e) })]) ∧
  ∀ (e : Nat) (c' : Cmd) (e' : Nat), s.rivals = [(c', e')] →
    let before (a b : Cmd × Nat) : Prop := a.1.start < b.1.start ∨ (a.1.start = b.1.start ∧
      (a.1.issue < b.1.issue ∨ (a.1.issue = b.1.issue ∧ a.2 < b.2)))
    let named (i : Instr) (w : Work) (a b : Cmd × Nat) : Prop := s.Does i w fun t =>
      ∃ u : State, u.cores = s.cores ∧ u.parts = s.parts ∧ u.reqs = s.reqs ∧ (∀ x ∈ u.due, x ∈ s.due) ∧ u.cur.who = s.cur.who ∧
        u.Raises t s.me 0x10 s.cur.who.src
          [4, BitVec.ofNat 32 a.1.op, BitVec.ofNat 32 a.1.start, BitVec.ofNat 32 b.1.op, BitVec.ofNat 32 b.1.start,
            BitVec.ofNat 32 a.2, BitVec.ofNat 32 b.2]
    let either (i : Instr) (w : Work) : Prop := (before (c, e) (c', e') → named i w (c, e) (c', e')) ∧
      (before (c', e') (c, e) → named i w (c', e') (c, e))
    either .engineElementIssue (.engineElementIssue c e) ∧ either .tlistEntryRead (.tlistEntryRead c e)

/-- R242, R283, R286 to R289, R291 to R297: an element of XFER is written to its place in the scratchpad, of XFERQ appended to
its queue, of VBMLD written into the validity bitmap; poisoned, it is fault 0x30 and no byte is written, or the row carries
the mark. An outbound element is written in a peer's scratchpad, or added to a peer's window or to the core's own; an addition
whose crossing between two dies fails is fault 0x33 that names the link (R377; that its words are the two dies, lesser first,
is the model's reading, log entry 23). An append to a queue of 8 rows is fault 0x14. The bytes that an element reads alone on
its banks go to its arrival, its far write, its delivery, the configuration record or the parent table, each at its cycle; a
multicast row, with its mark, reaches every destination, or where one is refused, in a solo region or full, none, each
condition being a fault that names the lowest such (log entry 23 for the words); the configuration is replaced at S+2, and the
ancestry matrix at S+1088. R286: an XFER with TAG = 1 tags each tile slot that it writes, the slots in ascending order, at the
last arrival in it (where those fall is R282); without it no tag is written. R292: an addition of a finite word to an
accumulator that is not saturated adds an integer no farther than a half from the word's value over 2^E, and holds a sum
outside 96 bits at the nearer limit, saturated; a NaN sets NAN, an infinity saturates at its limit, a saturated accumulator
stays; no other accumulator changes. R293: XACC reads at S the accumulators of a window without marks, and each element's
words arrive at S+e+2: SAT and NAN, the canonical NaN, or the value A times 2^E rounded to nearest; CLR leaves the new E and
zeros, and without it the window stays. -/
def Obligations.WindowsAndArrivals : Prop :=
  (∀ (s : State) (c : Cmd) (e : Nat) (data : List Byte), s.me < 384 →
  (c.op = 0x08 → s.Does .engineElementArrival (.engineElementArrival c e data none) fun t => ∃ req,
    (s.doing (.engineElementArrival c e data none)).Defers t [(s.now, .bankAccess
      { holder := s.me, req := req, cyc := c.start, act := .store (c.loc + c.z * e) data })]) ∧
  (c.op = 0x09 → c.f 45 44 < 4 → (s.myCtx.queue (c.f 45 44)).length < 8 →
    s.Does .engineElementArrival (.engineElementArrival c e data none) fun t => ∃ r : Row,
      r.words = wordsOf data ∧ r.poison = none ∧
      r.mark = (if c.shape.getLsbD 1 then some ((c.tag.toNat + e / 32) % 2 ^ 16) else none) ∧
      s.Alters t s.me fun x =>
        { x with queues := x.queues.setIfInBounds (c.f 45 44) (x.queue (c.f 45 44) ++ [r]) }) ∧
  (∀ bad, c.op = 0x09 → c.f 45 44 < 4 → (s.myCtx.queue (c.f 45 44)).length = 8 →
    s.Does .engineElementArrival (.engineElementArrival c e data bad) fun t =>
      (s.doing (.engineElementArrival c e data bad)).Raises t s.me 0x14 s.cur.who.src
        [BitVec.ofNat 32 (c.f 45 44), BitVec.ofNat 32 c.start, 8]) ∧
  (c.op = 0x1A → c.loc + c.z * e + data.length ≤ 8192 →
    s.Does .engineElementArrival (.engineElementArrival c e data none) fun t => ∃ v : BitVec 65536,
      (∀ i, i < 65536 → v.getLsbD i = if c.loc + c.z * e ≤ i / 8 ∧ i / 8 < c.loc + c.z * e + data.length
        then (data.getD (i / 8 - (c.loc + c.z * e)) 0).getLsbD (i % 8) else s.myCtx.mx.validity.getLsbD i) ∧
      s.Alters t s.me fun x => { x with mx := { x.mx with validity := v } }) ∧
  (∀ u, c.op = 0x08 ∨ c.op = 0x1A → s.Does .engineElementArrival (.engineElementArrival c e data (some u)) fun t =>
    (s.doing (.engineElementArrival c e data (some u))).Raises t s.me 0x30 s.cur.who.src []) ∧
  (∀ u, c.op = 0x09 → c.f 45 44 < 4 → (s.myCtx.queue (c.f 45 44)).length < 8 →
    s.Does .engineElementArrival (.engineElementArrival c e data (some u)) fun t => ∃ r : Row,
      r.words = wordsOf data ∧ r.poison = some u ∧
      s.Alters t s.me fun x =>
        { x with queues := x.queues.setIfInBounds (c.f 45 44) (x.queue (c.f 45 44) ++ [r]) }) ∧
  (c.op = 0x10 → c.far e / 2 ^ 60 = 0 → s.Does .engineFarWrite (.engineFarWrite c e data) fun t =>
    (s.doing (.engineFarWrite c e data)).Defers t [(s.now,
      .windowAddition s.me (c.far e / 2 ^ 10 % 2 ^ 3) (c.base / 4 % 2 ^ 8 + c.z / 4 * e) (wordsOf data))]) ∧
  (∀ k r, s.elemFar c e = .peer k r →
    (c.op = 0x0A → s.Does .engineFarWrite (.engineFarWrite c e data) fun t => ∃ req,
      (s.doing (.engineFarWrite c e data)).Defers t [(s.now, .bankAccess
        { holder := k, req := req, cyc := s.t, act := .store (c.far e % 2 ^ 20) data })]) ∧
    (c.op = 0x10 → (k / 96 = s.me / 96 ∨ (s.me, s.t, s.cur.who.src) ∉ s.linkErrs) →
      s.Does .engineFarWrite (.engineFarWrite c e data) fun t =>
        (s.doing (.engineFarWrite c e data)).Defers t [(s.now,
          .windowAddition k (c.far e / 2 ^ 10 % 2 ^ 3) (c.base / 4 % 2 ^ 8 + c.z / 4 * e) (wordsOf data))]) ∧
    (c.op = 0x10 → k / 96 ≠ s.me / 96 → (s.me, s.t, s.cur.who.src) ∈ s.linkErrs →
      s.Does .engineFarWrite (.engineFarWrite c e data) fun t =>
        (s.doing (.engineFarWrite c e data)).Raises t s.me 0x33 s.cur.who.src
          [BitVec.ofNat 32 (min (s.me / 96) (k / 96)), BitVec.ofNat 32 (max (s.me / 96) (k / 96))])) ∧
  (∀ row : Row, s.deliveryFaults c = [] →
    (∀ f g k, s.clusterCore f = some k → s.clusterCore g = some k → f = g) →
    s.Does .multicastDelivery (.multicastDelivery c e row) fun t =>
      (∀ f k, f ∈ c.dests → s.clusterCore f = some k → k < 384 →
        t.ctx k = { s.ctx k with queues := (s.ctx k).queues.setIfInBounds (c.f 53 52) ((s.ctx k).queue (c.f 53 52) ++ [row]) }) ∧
      (∀ k, (∀ f ∈ c.dests, s.clusterCore f ≠ some k) → t.core k = s.core k) ∧
      t.parts = s.parts ∧ t.due = s.due ∧ t.dram = s.dram) ∧
  (∀ (row : Row) (q : Part), s.part (s.partOf s.me) = some q → c.f 53 52 < 4 →
    let names (f : Nat) : Prop := f < 8 ∧ (c.f 51 44).testBit f = true
    let at_ (f : Nat) : Option Nat := q.cores[s.rankOf s.me / 8 * 8 + f]?
    let refused (f : Nat) (d : List Word) : Prop := names f ∧ (¬ ∃ k, at_ f = some k ∧ s.Admits k true) ∧
      d = [BitVec.ofNat 32 f]
    let solo (f : Nat) (d : List Word) : Prop := names f ∧ (∃ k, at_ f = some k ∧ s.Admits k true ∧ (s.ctx k).solo ≠ none) ∧
      d = [6, BitVec.ofNat 32 f]
    let full (f : Nat) (d : List Word) : Prop := names f ∧ ∃ k, at_ f = some k ∧ s.Admits k true ∧
      8 ≤ ((s.ctx k).queue (c.f 53 52)).length ∧ d = [BitVec.ofNat 32 (c.f 53 52), BitVec.ofNat 32 c.start,
        BitVec.ofNat 32 ((s.ctx k).queue (c.f 53 52)).length, BitVec.ofNat 32 f]
    let lowest (P : Nat → List Word → Prop) (d : List Word) : Prop := ∃ f, P f d ∧ ∀ f' d', f' < f → ¬ P f' d'
    (s.deliveryFaults c = [] ↔ ∀ f d, ¬ refused f d ∧ ¬ solo f d ∧ ¬ full f d) ∧
    (s.deliveryFaults c ≠ [] → s.Does .multicastDelivery (.multicastDelivery c e row) fun t =>
      t.cores = s.cores ∧ t.due = s.due ∧ t.dram = s.dram ∧ ∃ fs : List FaultNow,
        t.parts = (s.modPart q.num fun q => { q with faultsNow := q.faultsNow ++ fs }).parts ∧
        (∀ f ∈ fs, f.rank = s.rankOf s.me ∧ f.src = s.cur.who.src) ∧
        ∀ code d, (∃ f ∈ fs, f.code = code ∧ f.detail = d) ↔
          (code = 0x21 ∧ lowest refused d) ∨ (code = 0x19 ∧ lowest solo d) ∨ (code = 0x14 ∧ lowest full d))) ∧
  (∀ e,
    let M (lead : Nat) : Nat := slotCycle (slotFrom (c.start + lead) + e)
    (∀ k r, c.op = 0x0A ∨ c.op = 0x10 → s.elemFar c e = .peer k r → s.elemCycles c e = (c.start + e, c.start + e + (match r with
      | .self => 2
      | .cluster => 8
      | .die => 18
      | .far => 42))) ∧
    (c.op = 0x10 → s.elemFar c e = .own → s.elemCycles c e = (c.start + e, c.start + e + 2)) ∧
    (∀ phys key, c.op = 0x0A → s.elemFar c e = .device phys key →
      let lead := if phys / 2 ^ 36 % 8 / 2 = s.me / 96 then 16 else 40
      s.elemCycles c e = (M lead - lead, M lead + 100)) ∧
    (∀ h p, s.elemFar c e = .remote h p →
      (c.op = 0x0A → s.elemCycles c e = (M (16 + 190 * h) - (16 + 190 * h), M (16 + 190 * h) + 100)) ∧
      (c.op = 0x10 → s.elemCycles c e = (c.start + e, c.start + e + 12 + 190 * h))) ∧
    (c.op = 0x12 → (s.elemFar c e = .own → s.elemCycles c e = (c.start + e, c.start + e + 8)) ∧
      ∀ k r, s.elemFar c e = .peer k r → s.elemCycles c e = (c.start + e, c.start + e + 12)) ∧
    (c.op = 0x18 → s.elemCycles c e = (c.start + e, c.start + e + 2)) ∧
    (c.op = 0x19 → s.elemCycles c e = (c.start + e, c.start + 1088))) ∧
  (∀ v, s.Does .configWrite (.configWrite v) fun t => s.Alters t s.me fun x => { x with mx := { x.mx with cfg := v } }) ∧
  (∀ table : List (Nat × List Byte), table.length = c.n → (table.map (·.1)).Pairwise (· < ·) →
    (table.flatMap Prod.snd).length = 512 → s.Does .ancestryReplace (.ancestryReplace c table) fun t => ∃ v : BitVec 65536,
    (let byte (b : Nat) : Nat := ((table.flatMap Prod.snd).getD b 0).toNat
     let parent (a : Nat) : Nat := byte (2 * a) + 2 ^ 8 * byte (2 * a + 1)
     ∀ a b, a < 256 → b < 256 → v.getLsbD (256 * a + b) =
       (decide (b = a) || (decide (parent a < a) && v.getLsbD (256 * parent a + b)))) ∧
    s.Alters t s.me fun x => { x with mx := { x.mx with ancestry := v } }) ∧
  (c.op = 0x19 → s.cmdFault c = none → s.Does .teCommandStart (.teCommandStart c) fun t =>
    t.Later (some (s.partOf s.me)) (c.start + 1088) (.ancestryReplace c [])) ∧
  (c.op = 0x08 → s.cmdFault c = none → s.Does .teCommandStart (.teCommandStart c) fun t =>
    let tile (e : Nat) : Nat := (c.loc + c.z * e) / 8192
    let arrival (e : Nat) : Nat := (s.elemCycles c e).2
    (c.shape.getLsbD 1 = false → ∀ x ∈ t.due, x ∈ s.due ∨ ∀ k v, x.what ≠ .registerWrite s.me (.tag k v)) ∧
    (c.shape.getLsbD 1 = true → ∀ e, e < c.n → (∀ e', e' < c.n → tile e' = tile e → arrival e' ≤ arrival e) →
      t.Later (some (s.partOf s.me)) (arrival e)
        (.registerWrite s.me (.tag (tile e) (c.tag + BitVec.ofNat 16 (tile e - tile 0)))))) ∧
  (∀ e k r, c.op = 0x08 →
    (c.far e / 2 ^ 60 = 0 → (s.elemCycles c e).2 = c.start + e + 2) ∧
    (s.elemFar c e = .peer k r → (s.elemCycles c e).2 = c.start + e + (match r with
      | .self => 2
      | .cluster => 10
      | .die => 24
      | .far => 56)) ∧
    ∀ phys key, s.elemFar c e = .device phys key → (s.elemCycles c e).2 =
      if phys / 2 ^ 36 % 8 / 2 = s.me / 96 then slotCycle (slotFrom (c.start + 16) + e) + 104
      else slotCycle (slotFrom (c.start + 40) + e) + 152) ∧
  (c.op = 0x11 → s.cmdFault c = none → (∀ b ∈ (s.core s.me).mxBad ++ (s.core s.me).mxSoft, b.1 ≠ 7) →
    s.Does .teCommandStart (.teCommandStart c) fun t =>
      let w := c.base / 2 ^ 10 % 2 ^ 3
      let old := s.myCtx.windows[w]?.getD Window.launch
      (∀ e, e < c.n → ∃ d, t.Later (some (s.partOf s.me)) (c.start + e + 2) (.engineElementArrival c e d none) ∧
        d.length = c.z ∧ ∀ i (j : Fin 256), i < c.z / 4 → j.val = c.base / 4 % 2 ^ 8 + c.z / 4 * e + i →
          let x := old.accs[j]
          (wordsOf d).getD i 0 =
            if c.shape.getLsbD 0 then BitVec.ofNat 32 ((if x.nan then 2 else 0) + (if x.sat then 1 else 0))
            else if x.nan then 0x7FC00000
            else BitVec.ofNat 32 (fp32.round .rne (decide (x.a.toInt < 0)) x.a.toInt.natAbs old.e).1) ∧
      (t.ctx s.me = if c.shape.getLsbD 1
        then { s.myCtx with windows := s.myCtx.windows.setIfInBounds w { Window.launch with e := c.s1 } } else s.myCtx) ∧
      (∀ k, k ≠ s.me → t.core k = s.core k) ∧ (∀ x ∈ s.due, x ∈ t.due) ∧ t.parts = s.parts ∧ t.dram = s.dram)) ∧
  (∀ (s : State) (holder cyc a n : Nat) (req : Word) (sink : Sink), holder < 384 → n ≤ 1024 →
  (s.ctx holder).solo = none ∨ req.toNat / 2 ^ 28 = 0 →
  holder / 96 = s.me / 96 ∨ (s.me, s.t, s.cur.who.src) ∉ s.linkErrs → (s.core holder).bad = [] → (s.core holder).soft = [] →
  (∀ u ∈ s.bankUses, u.holder ≠ holder) →
  (∀ x ∈ s.due, s.isDue x = true → ∀ b, x.what = .bankAccess b → b.holder ≠ holder) →
  s.Does .bankAccess (.bankAccess { holder := holder, req := req, cyc := cyc, act := .load a n sink }) fun t =>
    ∃ data : List Byte, data.length = n ∧ (∀ b, b < n → data.getD b 0 = (s.core holder).spad.read (a + b)) ∧
      let later (at_ : Nat) (w : Work) : Prop := t.Later (some (s.partOf s.me)) at_ w ∧ t.cores = s.cores ∧ t.parts = s.parts ∧
        t.dram = s.dram
      (∀ c e at_, sink = .inbound c e at_ → later at_ (.engineElementArrival c e data none)) ∧
      (∀ c e at_, sink = .outbound c e at_ → c.op ≠ 0x12 → later at_ (.engineFarWrite c e data)) ∧
      (∀ c e at_, sink = .outbound c e at_ → c.op = 0x12 → n = 256 → ∃ r : Row, later at_ (.multicastDelivery c e r) ∧
        r.words.length = 64 ∧ (∀ i, i < 64 → ∀ b, b < 4 →
          (r.words.getD i 0).toNat / 2 ^ (8 * b) % 2 ^ 8 = (data.getD (4 * i + b) 0).toNat) ∧ r.poison = none ∧
        r.mark = (if c.shape.getLsbD 1 then some ((c.tag.toNat + e / 32) % 2 ^ 16) else none)) ∧
      (∀ at_, sink = .config at_ → n = 64 → ∃ v : BitVec 512, later at_ (.configWrite v) ∧
        ∀ b, b < 64 → v.toNat / 2 ^ (8 * b) % 2 ^ 8 = (data.getD b 0).toNat) ∧
      ∀ c e, sink = .parents c e → t.cores = s.cores ∧ ∀ x ∈ s.due, x.who.core = s.me → ∀ table,
        x.what = .ancestryReplace c table → { x with what := .ancestryReplace c (table ++ [(e, data)]) } ∈ t.due) ∧
  (∀ (s : State) (core w i : Nat) (word : Word), core < 384 → w < 8 → i < 256 →
  (∀ x ∈ s.dueNow, ∀ j ws, x.what ≠ .windowAddition core w j ws) →
  (∀ b ∈ (s.core core).mxBad ++ (s.core core).mxSoft, b.1 ≠ 7) →
  s.Does .windowAddition (.windowAddition core w i [word]) fun t =>
    ∃ win : Window, s.Alters t core (fun x => { x with windows := x.windows.setIfInBounds w win }) ∧
      let old := (s.ctx core).windows[w]?.getD Window.launch
      win.e = old.e ∧ (∀ j : Fin 256, j.val ≠ i → win.accs[j] = old.accs[j]) ∧
      ∀ j : Fin 256, j.val = i →
        ((FV.of32 word).isNaN = true → win.accs[j] = { old.accs[j] with nan := true }) ∧
        (word = 0x7F800000 → win.accs[j] = { old.accs[j] with sat := true, a := BitVec.ofInt 96 (2 ^ 95 - 1) }) ∧
        (word = 0xFF800000 → win.accs[j] = { old.accs[j] with sat := true, a := BitVec.ofInt 96 (-2 ^ 95) }) ∧
        ((FV.of32 word).isNaN = false → (FV.of32 word).isInf = false → old.accs[j].sat = true →
          win.accs[j] = old.accs[j]) ∧
        ((FV.of32 word).isNaN = false → (FV.of32 word).isInf = false → old.accs[j].sat = false →
          win.accs[j].nan = old.accs[j].nan ∧ ∃ k : Int, |(k : ℚ) - (FV.of32 word).real / 2 ^ old.e| ≤ 1 / 2 ∧
            win.accs[j].a.toInt = max (-2 ^ 95) (min (2 ^ 95 - 1) (old.accs[j].a.toInt + k)) ∧
            (win.accs[j].sat = true ↔ old.accs[j].a.toInt + k < -2 ^ 95 ∨ 2 ^ 95 - 1 < old.accs[j].a.toInt + k)))

/-- R303 to R311: a near-memory command whose record, ranges, regions, channel group, access table, slots and lane pass the
six checks of R306 takes its lane to the end of its window and reads its first block at S+24; a block's result, word by word,
is written 16 cycles after it is read, the next block being read three cycles later: under SCALE each word of A times α, under
COPY the block A bit for bit, under AXPY and ADD the fused sum with α and the sum; under UPD, for finite words, the rounded
product with α plus the exact product of B and β, rounded. A failed source, or the operand buffer, which meets its error once,
has the block written poisoned at S+40+3k; the write, which changes no byte outside its unit, leaves the fault for 12 cycles
later, and that is fault 0x31 (the code of where the error lay, 0 in A, 1 in B, 2 in the buffer, of which the first is named,
is log entry 35). A command that fails takes the fault of the first check that fails, with S, the check and the block, or for
check 6 the first slot that is not NMC on its lowest pseudo-channel, or else the first slot in both windows and the earlier
command's S, and does nothing else; which block and range a check names is log entry 35. -/
def Obligations.NearMemorySteps : Prop := ∀ (s : State) (c : NmCmd) (q : Part), s.part (s.partOf s.me) = some q →
  (s.nmFault q c = none → 1 ≤ c.count → s.nmLane c < 32 → s.Does .nmcStart (.nmcStart c) fun t =>
    t.Later (some (s.partOf s.me)) (c.start + 24) (.nmBlockRead c 0) ∧ t.cores = s.cores ∧ t.parts = s.parts ∧
    t.dram = s.dram ∧ ∀ st : Stack, t.hbm[s.nmLane c / 4]? = some st →
      (q.num, s.nmLane c % 4, c.start, c.start + 40 + 3 * (c.count - 1)) ∈ st.lanes) ∧
  (let F (hi lo : Nat) : Nat := c.rec_.toNat / 2 ^ lo % 2 ^ (hi + 1 - lo)
   let S := c.start
   let n := F 31 16
   let last := S + 40 + 3 * (n - 1)
   let uses : List (Nat × Bool) := [(F 79 40, false)] ++ (if F 7 0 ∈ [1, 2, 4] then [(F 119 80, false)] else []) ++ [(F 159 120, true)]
   let block (r : Nat × Bool) (k : Nat) : Except (Nat × Nat) (Nat × Nat) := translate q.regions r.2 (64 * (r.1 + k))
   let group (phys : Nat) : Nat := phys / 2 ^ 34 % 32
   let bad1 : Prop := F 7 0 = 0 ∨ 5 < F 7 0 ∨ F 191 160 ≠ 0 ∨ F 39 32 ≠ 0 ∨ F 13 8 ≠ 0 ∨ n = 0
   let bad2 : Prop := ∃ r ∈ uses, 2 ^ 46 ≤ 64 * (r.1 + n - 1)
   let bad3 (k code : Nat) : Prop := ∃ before r after i, uses = before ++ r :: after ∧ block r k = .error (code, i) ∧
     ∀ x ∈ before, ∃ p, block x k = .ok p
   let none3 : Prop := ¬ bad1 ∧ ¬ bad2 ∧ ∀ k code, k < n → ¬ bad3 k code
   let gives (code : Nat) (d : List Word) : Prop := s.Does .nmcStart (.nmcStart c) fun t =>
     (∃ u, (s.doing (.nmcStart c)).Raises u s.me code s.cur.who.src d ∧ t.parts = u.parts) ∧ t.due = s.due ∧ t.dram = s.dram ∧
     t.hbm = s.hbm ∧ (∀ x, (t.core x).ctx = (s.core x).ctx ∧ (t.core x).spad = (s.core x).spad) ∧
     (t.core s.me).nm = (s.core s.me).nm.map fun r => if r.issue = c.issue then { r with last := S } else r
   let fails (code check k : Nat) : Prop := gives code [BitVec.ofNat 32 S, BitVec.ofNat 32 check, BitVec.ofNat 32 k]
   (bad1 → fails 0x23 1 0) ∧ (¬ bad1 → bad2 → fails 0x23 2 (n - 1)) ∧
   (∀ k code, ¬ bad1 → ¬ bad2 → k < n → bad3 k code → (∀ k' d, k' < k → ¬ bad3 k' d) → fails code 3 k) ∧
   (∀ phys key, none3 → block (F 79 40, false) 0 = .ok (phys, key) →
     let g := group phys
     let bad4 (k : Nat) : Prop := ∃ r ∈ uses, ∀ p, block r k = .ok p → group p.1 ≠ g
     let bad5 : Prop := ∃ ch, ch / 16 = g % 4 ∧ ∀ st, s.hbm[g / 4]? = some st →
       ∀ a ∈ st.access, ∀ b ∈ st.access, ¬ ((a.part = q.num ∧ a.rd = true ∧ a.base ≤ ch ∧ ch ≤ a.limit) ∧
         (b.part = q.num ∧ b.wr = true ∧ b.base ≤ ch ∧ ch ≤ b.limit))
     let other (k ch : Nat) : Prop := S ≤ slotCycle k ∧ slotCycle k ≤ last ∧ ch / 16 = g % 4 ∧
       ∀ j, q.chanNo (g / 4) ch = some j → ((s.timelineOf q j).colAt k).toNat / 2 ^ 28 ≠ 0xA
     let slotWord (k ch : Nat) : Word := BitVec.ofNat 32 (k % (s.timelineOf q ((q.chanNo (g / 4) ch).getD 0)).slots)
     let names (ch k why start : Nat) : Prop := gives 0x18 [BitVec.ofNat 32 S, 6, 0xFFFFFFFF, BitVec.ofNat 32 ch,
       slotWord k ch, BitVec.ofNat 32 why, BitVec.ofNat 32 start]
     (∀ k, k < n → bad4 k → (∀ k', k' < k → ¬ bad4 k') → fails 0x23 4 k) ∧
     ((∀ k, k < n → ¬ bad4 k) → bad5 → fails 0x21 5 0) ∧
     ((∀ k, k < n → ¬ bad4 k) → ¬ bad5 →
       (∀ k ch, other k ch → (∀ k' ch', other k' ch' → k ≤ k' ∧ (k = k' → ch ≤ ch')) → names ch k 1 0) ∧
       ((∀ k ch, ¬ other k ch) → ∀ st before after start end_ k, s.hbm[g / 4]? = some st →
         let meets (x : Nat × Nat × Nat × Nat) : Prop := x.1 = q.num ∧ x.2.1 = g % 4 ∧ x.2.2.1 ≤ last ∧ S ≤ x.2.2.2
         st.lanes = before ++ (q.num, g % 4, start, end_) :: after → meets (q.num, g % 4, start, end_) →
         (∀ x ∈ before, ¬ meets x) → S ≤ slotCycle k → start ≤ slotCycle k →
         (∀ k', S ≤ slotCycle k' → start ≤ slotCycle k' → k ≤ k') → names (16 * (g % 4)) k 2 start))) ∧
   ((s.nmFault q c = none) ↔ none3 ∧ ∃ phys key, block (F 79 40, false) 0 = .ok (phys, key) ∧
     let g := group phys
     (∀ k r, k < n → r ∈ uses → ∃ p, block r k = .ok p ∧ group p.1 = g) ∧
     (∀ ch, ch / 16 = g % 4 → ∃ st, s.hbm[g / 4]? = some st ∧ (∃ a ∈ st.access, a.part = q.num ∧ a.rd = true ∧ a.base ≤ ch ∧
       ch ≤ a.limit) ∧ ∃ a ∈ st.access, a.part = q.num ∧ a.wr = true ∧ a.base ≤ ch ∧ ch ≤ a.limit) ∧
     (∀ k ch, S ≤ slotCycle k → slotCycle k ≤ last → ch / 16 = g % 4 →
       ∃ j, q.chanNo (g / 4) ch = some j ∧ ((s.timelineOf q j).colAt k).toNat / 2 ^ 28 = 0xA) ∧
     ∀ st x, s.hbm[g / 4]? = some st → x ∈ st.lanes → x.1 = q.num → x.2.1 = g % 4 → last < x.2.2.1 ∨ x.2.2.2 < S)) ∧
  (∀ k pa ka pb kb, s.poison = [] → s.dramBad = [] → s.dramSoft = [] →
    (∀ st ∈ s.hbm.toList, st.bufferErr = [] ∧ st.bufferSoft = []) → k < c.count →
    s.nmBlock c .a k = .ok (pa, ka) → s.nmBlock c .b k = .ok (pb, kb) → pa % 64 = 0 → pb % 64 = 0 →
    c.op ∈ [1, 2, 4] → s.Does .nmBlockRead (.nmBlockRead c k) fun t => ∃ data : List Byte,
      (s.doing (.nmBlockRead c k)).Defers t ([(c.start + 40 + 3 * k, .nmBlockWrite c k data none)] ++
        if k + 1 < c.count then [(c.start + 24 + 3 * (k + 1), .nmBlockRead c (k + 1))] else []) ∧
      wordsOf data = List.zipWith c.element (wordsOf (s.plainUnit (s.keyOf q.tenant ka) (pa / 64)))
        (wordsOf (s.plainUnit (s.keyOf q.tenant kb) (pb / 64)))) ∧
  (∀ k pa ka, s.poison = [] → s.dramBad = [] → s.dramSoft = [] →
    (∀ st ∈ s.hbm.toList, st.bufferErr = [] ∧ st.bufferSoft = []) → k < c.count →
    s.nmBlock c .a k = .ok (pa, ka) → pa % 64 = 0 → c.op ∈ [3, 5] →
    s.Does .nmBlockRead (.nmBlockRead c k) fun t => ∃ data : List Byte,
      (s.doing (.nmBlockRead c k)).Defers t ([(c.start + 40 + 3 * k, .nmBlockWrite c k data none)] ++
        if k + 1 < c.count then [(c.start + 24 + 3 * (k + 1), .nmBlockRead c (k + 1))] else []) ∧
      (let a := wordsOf (s.plainUnit (s.keyOf q.tenant ka) (pa / 64))
       wordsOf data = if c.op = 3 then a.map fun x => (fmul c.rnd x c.alpha).1 else a)) ∧
  (∀ a b : Word, (c.op = 2 → c.element a b = (ffma c.rnd false false a c.alpha b).1) ∧
    (c.op = 4 → c.element a b = (fadd c.rnd a b).1) ∧
    (c.op = 1 → (∀ w ∈ [(fmul c.rnd a c.alpha).1, b, c.beta], (FV.of32 w).isNaN = false ∧ (FV.of32 w).isInf = false) →
      ∃ fl, c.rnd.Rounds ((FV.of32 (fmul c.rnd a c.alpha).1).real + (FV.of32 b).real * (FV.of32 c.beta).real)
        (zeroSign c.rnd ((fmul c.rnd a c.alpha).1.getLsbD 31) (b.getLsbD 31 ^^ c.beta.getLsbD 31)) (c.element a b, fl))) ∧
  (∀ k pa ka u, k < c.count → s.nmBlock c .a k = .ok (pa, ka) → pa % 64 = 0 → (pa / 64, u) ∈ s.poison →
    pa / 64 ∉ s.dramBad →
    s.Does .nmBlockRead (.nmBlockRead c k) fun t => ∃ data v, (pa / 64, v) ∈ s.poison ∧
      t.Later (some (s.partOf s.me)) (c.start + 40 + 3 * k) (.nmBlockWrite c k data (some (0, v))) ∧ t.parts = s.parts ∧
      t.dram = s.dram) ∧
  (∀ k pa ka pb kb, s.poison = [] → s.dramBad = [] → s.dramSoft = [] → k < c.count → s.nmLane c < 32 →
    s.nmBlock c .a k = .ok (pa, ka) → s.nmBlock c .b k = .ok (pb, kb) → pa % 64 = 0 → pb % 64 = 0 →
    (∃ st, s.hbm[s.nmLane c / 4]? = some st ∧ (s.nmLane c % 4, c.start, k) ∈ st.bufferErr) →
    s.Does .nmBlockRead (.nmBlockRead c k) fun t => ∃ data,
      t.Later (some (s.partOf s.me)) (c.start + 40 + 3 * k)
        (.nmBlockWrite c k data (some (2, .nmUnit (s.nmLane c / 4)))) ∧
      (∀ st, t.hbm[s.nmLane c / 4]? = some st → (s.nmLane c % 4, c.start, k) ∉ st.bufferErr) ∧ t.parts = s.parts ∧
      t.dram = s.dram) ∧
  (∀ k data phys key which u, s.nmBlock c .dst k = .ok (phys, key) →
    s.Does .nmBlockWrite (.nmBlockWrite c k data (some (which, u))) fun t =>
      (phys / 64, u) ∈ t.poison ∧ (∀ a, a / 64 ≠ phys / 64 → t.dram.read a = s.dram.read a) ∧
      t.Later (some (s.partOf s.me)) (c.start + 52 + 3 * k) (.nmDataFault c k which u) ∧ t.cores = s.cores ∧
      t.parts = s.parts) ∧
  (∀ k data phys key, s.nmBlock c .dst k = .ok (phys, key) →
    s.Does .nmBlockWrite (.nmBlockWrite c k data none) fun t =>
      (s.dram.wf = true → data.length = 64 → t.plainUnit (s.keyOf q.tenant key) (phys / 64) = data) ∧ (∀ a, a / 64 ≠ phys / 64 → t.dram.read a = s.dram.read a) ∧ (∀ p ∈ t.poison, p.1 ≠ phys / 64) ∧
      t.cores = s.cores ∧ t.parts = s.parts ∧ t.due = s.due) ∧
  (∀ k which u, s.Does .nmDataFault (.nmDataFault c k which u) fun t =>
    (s.doing (.nmDataFault c k which u)).Raises t s.me 0x31 s.cur.who.src
      [BitVec.ofNat 32 (s.nmLane c / 4), BitVec.ofNat 32 (s.nmLane c % 4), BitVec.ofNat 32 c.start, BitVec.ofNat 32 k,
        BitVec.ofNat 32 which])

/-- R377, R379, R381 to R391, R405: a link command's row leaves the head of its queue, or the scratchpad, for the window at
S+e+4; a peeked row stays; an empty queue is fault 0x14; a row whose transfer to the port's die fails is fault 0x33 at S+e+194
(the port's die is log entry 31; the words of 0x33, the two dies, and of 0x32 beside the port and the window, the piece of
traffic, are log entry 23). A flit takes the first free slot of its group within its window; one that finds none is fault 0x32
three cycles later; one that its port refuses, by mode, by table under the right it needs (R240; which right is log entry 6),
or by the slot, is fault 0x21. A landed row is its queue's newest; in a queue of 64 rows it is lost and is fault 0x14 with the
start of the command that sent it; one of a group that this package's partition is no member of reaches nobody, and one that
the link to its core's die spoils is fault 0x33. A load's answer is written or appended 64 cycles after it lands, or is fault
0x33 there; another package's access to this one's memory is requested at the cycle given (24 later on another die), or does
nothing here; a flit in transit goes on by its route; one that failed its check is fault 0x32 (log entry 31). An overrun is
slip subcode 3 in every member here, running or in recess, of a group that owns a slot on the port. A member follows a fault
detected at D, h hops away, at D + 190h, and one in recess at once; it follows a bell entry with the thermal cause, and the
longer duty (log entry 34). A route takes the shorter way around each ring, X before Y before Z, a tie upwards. -/
def Obligations.LinkSteps : Prop :=
  (∀ (s : State) (c : Cmd) (e q : Nat) (r : Row) (rest : List Row), s.me < 384 → q < 12 → s.myCtx.queue q = r :: rest →
    let port := field c.shape.toNat 63 61
    let ok : Prop := s.me / 96 = port / 2 ∨ (s.me, s.t, s.cur.who.src) ∉ s.linkErrs
    let leaves (i : Instr) (w : Work) (mark : Option Nat) (left : List Row) : Prop :=
      (ok → s.Does i w fun t => ∃ (u : State) (f : Flit),
        s.Alters u s.me (fun x => { x with queues := x.queues.setIfInBounds q left }) ∧
        f.port = port ∧ f.window = c.start + e + 4 ∧ f.transit = false ∧ f.rank = s.rankOf s.me ∧ f.start = c.start ∧
        f.elem = e ∧ f.dest = field c.shape.toNat 57 49 ∧ f.row = some { r with mark := mark } ∧
        u.Defers t [(c.start + e + 4, .flitSlotPlacement f)]) ∧
      (¬ ok → s.Does i w fun t => ∃ u : State,
        s.Alters u s.me (fun x => { x with queues := x.queues.setIfInBounds q left }) ∧
        u.Defers t [(c.start + e + 194, .registerWrite s.me (.fault 0x33 none
          [BitVec.ofNat 32 (min (s.me / 96) (port / 2)), BitVec.ofNat 32 (max (s.me / 96) (port / 2))]))])
    (c.op = 0x28 → c.f 60 60 = 1 → q = c.f 59 58 → leaves .linkSendElement (.linkSendElement c e)
      (if c.bit1 then some ((c.tag.toNat + e / 32) % 2 ^ 16) else r.mark) rest) ∧
    (q = 4 + c.f 60 58 → leaves .linkForwardElement (.linkForwardElement c e) r.mark
      (if c.f 48 48 = 1 then r :: rest else rest))) ∧
  (∀ (s : State) (c : Cmd) (e : Nat),
    (c.op = 0x28 → c.f 60 60 = 0 → s.Does .linkSendElement (.linkSendElement c e) fun t => ∃ req,
      (s.doing (.linkSendElement c e)).Defers t [(s.now, .bankAccess
        { holder := s.me, req := req, cyc := c.start, act := .load (c.far e % 2 ^ 20) 256 (.send c e) })]) ∧
    (c.op = 0x28 → c.f 60 60 = 1 → s.myCtx.queue (c.f 59 58) = [] →
      s.Does .linkSendElement (.linkSendElement c e) fun t => (s.doing (.linkSendElement c e)).Raises t s.me 0x14
        s.cur.who.src [BitVec.ofNat 32 (c.f 59 58), BitVec.ofNat 32 c.start, 0]) ∧
    (s.myCtx.queue (4 + c.f 60 58) = [] →
      s.Does .linkForwardElement (.linkForwardElement c e) fun t => (s.doing (.linkForwardElement c e)).Raises t s.me 0x14
        s.cur.who.src [BitVec.ofNat 32 (4 + c.f 60 58), BitVec.ofNat 32 c.start, 0])) ∧
  (∀ (s : State) (f : Flit), f.port < 6 →
    let p := s.port f.port
    let free (g bell k : Nat) : Prop := s.gtc ≤ g ∧ g < s.gtc + 4 ∧ bell % 4032 = 0 ∧ k < 6144 ∧ g = bell + 21 * k / 32 ∧
      (bell, k) ∉ p.taken ∧
      ∃ r ∈ p.table, r.open_ = false ∧ some r.group = f.group ∧ r.first ≤ k ∧ k < r.first + r.count
    let first (g bell k : Nat) : Prop := free g bell k ∧ ∀ g' bell' k', free g' bell' k' → g < g' ∨ g = g' ∧ k ≤ k'
    let right (e : AccessEntry) : Prop := e.part = s.partOf s.me ∧ (if f.row ≠ none ∧ f.reply = false then e.wr else e.rd) = true
    let refused : Prop := p.mode ≠ .torus ∨ f.group = none ∨
      (∀ e ∈ p.access, right e → e.base ≤ e.limit → ¬ e.base < 6144) ∨
      ∃ g bell k, first g bell k ∧ ∀ e ∈ p.access, right e → ¬ (e.base ≤ k ∧ k ≤ e.limit)
    (∀ g bell k, s.now < f.window + 3 → ¬ refused → first g bell k →
      s.Does .flitSlotPlacement (.flitSlotPlacement f) fun t =>
        t.sent = s.sent ++ [(g, f)] ∧ (bell, k) ∈ (t.port f.port).taken ∧ s.Same t ∧ t.due = s.due) ∧
    (s.now < f.window + 3 → ¬ refused → (∀ g bell k, ¬ free g bell k) →
      s.Does .flitSlotPlacement (.flitSlotPlacement f) fun t =>
        t.sent = s.sent ∧ t.ports = s.ports ∧ s.Same t ∧
        t.Later (some (s.partOf s.me)) (f.window + 3) (.flitSlotPlacement f)) ∧
    (f.window + 3 ≤ s.now → f.transit = false → f.reply = false →
      s.Does .flitSlotPlacement (.flitSlotPlacement f) fun t => ∃ u : State, s.Same u ∧ (∀ x ∈ u.sent, x ∈ s.sent) ∧
        (∀ x ∈ u.due, x ∈ s.due) ∧ u.Raises t s.me 0x32 11
          [2, BitVec.ofNat 32 f.port, BitVec.ofNat 32 f.window, BitVec.ofNat 32 f.source, BitVec.ofNat 32 f.start,
            BitVec.ofNat 32 f.elem]) ∧
    (s.now < f.window + 3 → refused → f.transit = false → f.reply = false →
      s.Does .flitSlotPlacement (.flitSlotPlacement f) fun t => ∃ u : State, s.Same u ∧ u.sent = s.sent ∧
        (∀ x ∈ u.due, x ∈ s.due) ∧ u.Raises t s.me 0x21 11
          [BitVec.ofNat 32 f.addr, BitVec.ofNat 32 (f.addr / 2 ^ 32)])) ∧
  (∀ (s : State) (port slot g p rank start c : Nat) (q : Part) (r : Row), port < 6 → c < 384 → s.part p = some q →
    q.cores[rank]? = some c → s.Does .flitLanding (.flitLanding port slot (.row g p rank start r)) fun t =>
      let rows := (s.ctx c).queue (4 + port)
      let now := s.doing (.flitLanding port slot (.row g p rank start r))
      let whole : Prop := c / 96 = port / 2 ∨ (c, s.ttc (s.partOf c), 11) ∉ s.linkErrs
      (q.group ≠ some g → t = now) ∧
      (q.group = some g → whole → rows.length < 64 →
        s.Alters t c fun x => { x with queues := x.queues.setIfInBounds (4 + port) (x.queue (4 + port) ++ [r]) }) ∧
      (q.group = some g → whole → 64 ≤ rows.length → now.Raises t c 0x14 11
        [BitVec.ofNat 32 (4 + port), BitVec.ofNat 32 start, BitVec.ofNat 32 rows.length]) ∧
      (q.group = some g → ¬ whole → now.Raises t c 0x33 11
        [BitVec.ofNat 32 (min (port / 2) (c / 96)), BitVec.ofNat 32 (max (port / 2) (c / 96))])) ∧
  (∀ (s : State) (port slot p rank issue c : Nat) (q : Part) (data : List Byte) (x : Timed), port < 6 → c < 384 →
    s.part p = some q → q.cores[rank]? = some c → x ∈ s.due → x.who.core = c → x.who.issue = issue → x.who.src = 1 →
    (∀ y ∈ s.due, y.who.core = c → y.who.issue = issue → y.who.src = 1 → y = x) →
    let answer (w : Work) : Prop :=
      s.Does .flitLanding (.flitLanding port slot (.reply p rank issue data none)) fun t => s.Same t ∧
        ∃ y : Timed, t.due = s.due.erase x ++ [y] ∧ y.clock = some (s.partOf c) ∧ y.due = s.ttc (s.partOf c) + 64 ∧
          y.who = x.who ∧ y.what = w
    let spoilt : Prop := c / 96 ≠ port / 2 ∧ (c, s.ttc (s.partOf c), 11) ∈ s.linkErrs
    let link : List Word := [BitVec.ofNat 32 (min (port / 2) (c / 96)), BitVec.ofNat 32 (max (port / 2) (c / 96))]
    (∀ k n m v, x.what = .registerWrite k (.d n m v) →
      (¬ spoilt → answer (.registerWrite c (.d n allLanes (lanesOf (wordsOf data))))) ∧
      (spoilt → answer (.registerWrite c (.fault 0x33 none link)))) ∧
    ∀ k n r, x.what = .queueLoadAppend k n r →
      (¬ spoilt → answer (.queueLoadAppend c n { words := wordsOf data, mark := none, poison := none })) ∧
      (spoilt → answer (.registerWrite c (.fault 0x33 none link)))) ∧
  (∀ (s : State) (port slot g p vaddr size cycle : Nat) (write : Bool) (data : List Byte) (o : Origin) (q : Part),
    s.part p = some q →
    let w : Work := .flitLanding port slot (.access g p write vaddr size cycle data o)
    (q.group ≠ some g → s.Does .flitLanding w fun t => t = s.doing w) ∧
    (∀ e, q.group = some g → translate q.regions write vaddr = .error e → s.Does .flitLanding w fun t => t = s.doing w) ∧
    ∀ phys key, q.group = some g → translate q.regions write vaddr = .ok (phys, key) → s.Does .flitLanding w fun t => ∃ r : MemReq,
      t.reqs = s.reqs ++ [r] ∧ r.part = p ∧ r.cycle = (if phys / 2 ^ 36 % 8 / 2 = port / 2 then cycle else cycle + 24) ∧
      r.write = write ∧ r.phys = phys ∧ r.size = size ∧ r.kind = 2 ∧ r.source = port ∧ r.key = key ∧ r.data = data ∧
      r.performs = r.cycle + 100 ∧ r.sink = .remote o (r.cycle + (if phys / 2 ^ 36 % 8 / 2 = port / 2 then 40 else 64)) ∧ s.Same t) ∧
  (∀ (s : State) (port slot : Nat) (dst : Nat × Nat × Nat) (f : Flit),
    let w : Work := .flitLanding port slot (.transit dst f)
    ((∀ q ∈ s.parts, q.group = none ∨ q.group ≠ f.group) → s.Does .flitLanding w fun t => t = s.doing w) ∧
    ∀ (q : Part) (c : Nat), s.parts.find? (fun q => q.group.isSome && q.group == f.group) = some q → s.part q.num = some q →
      q.cores[0]? = some c → s.partOf c = q.num → s.Does .flitLanding w fun t => s.Same t ∧
        t.Later (some q.num) (s.ttc q.num) (.flitSlotPlacement
          { f with port := (s.route dst).2, window := s.ttc q.num, transit := true })) ∧
  (∀ (s : State) (port slot p rank c : Nat) (q : Part), s.part p = some q → q.cores[rank]? = some c →
    let fails (answers : Option (Nat × Nat × Nat)) (P : State → FaultNow → Prop) : Prop :=
      s.Does .flitLanding (.flitLanding port slot (.bad p rank answers)) fun t => ∃ f : FaultNow, f.code = 0x32 ∧
        f.rank = s.rankOf c ∧ f.src = 11 ∧ f.detail = [1, BitVec.ofNat 32 port] ∧ f.blame = some (.port port) ∧
        t.parts = (s.modPart (s.partOf c) fun q => { q with faultsNow := q.faultsNow ++ [f] }).parts ∧ t.cores = s.cores ∧
        t.dram = s.dram ∧ { unit := .port port, hard := true, gtc := s.gtc } ∈ t.errs ∧ P t f
    fails none (fun _ f => f.bundle = 0xFFFFFFFF ∧ f.issue = none) ∧
    ∀ issue src elem r, (s.core c).away.find? (fun r => r.who.issue == issue && r.who.src == src && r.elem == elem) = some r →
      fails (some (issue, src, elem)) fun t f => f.bundle = r.who.bundle ∧ f.issue = some issue ∧
        ∀ x ∈ t.due, x.who = r.who → (∀ k n m v, x.what ≠ .registerWrite k (.d n m v)) ∧
          (∀ k n row, x.what ≠ .queueLoadAppend k n row) ∧ ∀ cmd data bad, x.what ≠ .engineElementArrival cmd r.elem data bad) ∧
  (∀ (s : State) (port : Nat), (s.parts.map (·.num)).Nodup →
    s.Does .elasticOverrun (.elasticOverrun port) fun t => ∃ f : FaultNow, f.code = 0x10 ∧ f.rank = 0 ∧ f.src = 11 ∧
      f.detail = [3, BitVec.ofNat 32 port] ∧ f.blame = some (.port port) ∧
      (t.parts = s.parts.map fun q =>
        if (q.runs || q.recess.isSome) && (s.port port).table.any (fun r => !r.open_ && some r.group == q.group)
        then { q with faultsNow := q.faultsNow ++ [f] } else q) ∧
      t.cores = s.cores ∧ t.dram = s.dram) ∧
  (∀ (s : State) (q : Part) (d : Nat) (from_ : Nat × Nat × Nat), s.part q.num = some q →
    (s.ttc q.num < d + 190 * (s.route from_).1 → q.recess = none → s.Does .groupRecess (.groupRecess q.num false d from_) fun t =>
      s.Same t ∧ t.Later (some q.num) (d + 190 * (s.route from_).1) (.groupRecess q.num false d from_)) ∧
    (d + 190 * (s.route from_).1 ≤ s.ttc q.num ∨ q.recess ≠ none → s.Does .groupRecess (.groupRecess q.num false d from_) fun t =>
      t.part q.num = some { q with joining := true } ∧ t.cores = s.cores ∧ t.due = s.due ∧
      ∀ p, p ≠ q.num → t.part p = s.part p) ∧
    s.Does .groupRecess (.groupRecess q.num true d from_) fun t =>
      t.part q.num = some { q with
        order := some (q.order.getD .thermal),
        groupDuty := ((s.gtc / 4032 + 1) / 8 * 8,
          max d (if q.groupDuty.1 = (s.gtc / 4032 + 1) / 8 * 8 then q.groupDuty.2 else 0)) } ∧ t.cores = s.cores ∧ t.due = s.due ∧
      ∀ p, p ≠ q.num → t.part p = s.part p) ∧
  ∀ (s : State) (x y z : Nat),
    let around (a b n : Nat) : Nat := min ((b + n - a) % n) ((a + n - b) % n)
    s.coords.1 < s.extents.1 → x < s.extents.1 → s.coords.2.1 < s.extents.2.1 → y < s.extents.2.1 →
    s.coords.2.2 < s.extents.2.2 → z < s.extents.2.2 →
    let step (i a b n : Nat) : Nat := if 2 * ((b + n - a) % n) ≤ n then 2 * i else 2 * i + 1
    (s.route (x, y, z)).1 = around s.coords.1 x s.extents.1 + around s.coords.2.1 y s.extents.2.1 +
      around s.coords.2.2 z s.extents.2.2 ∧
    (s.route (x, y, z)).2 = if s.coords.1 ≠ x then step 0 s.coords.1 x s.extents.1
      else if s.coords.2.1 ≠ y then step 1 s.coords.2.1 y s.extents.2.1
      else if s.coords.2.2 ≠ z then step 2 s.coords.2.2 z s.extents.2.2 else 0

/-! ### Bells, launches and recess -/

/-- R2, R78: a bell latches every pigeonhole of every partition, whatever else it does, and the next bell is 4032 cycles on;
where every launch is admitted or settled and every partition runs, no memory changes. R350: a hung partition is ordered into
recess. R218: a launch that has stood at its queue's head for 64 periods moves to the tail of the next more urgent queue, and
those behind it wait for it (the head of a queue is log entry 41). R215, R219, R220: a submission whose image has been read
and is sound is queued with its level; one whose fields are wrong is refused (when an image is read and what its pieces give
is log entry 36). R220, R347: at a bell where one launch stands ready at the head of its queue and every partition runs, it is
admitted in the lowest variant that fits, to start at the next bell; when none fits, the fewest less urgent running launches
whose cores and stage slots would make one fit are ordered into recess, and where no launches would, none is. R195, R210,
R220, R409: an admitted launch takes a free partition number, idle cores in rising order, quad by quad, cluster by cluster and
die by die, free stage slots of its dies, free channel groups of its tenant on the dies that R409 says, and a place of its
blocks in each die's store. R24, R220: a partition starts at TTC 0, every core with its duplicate, or ended without a head
segment; under thermal duty it enters recess there; while one of its images is not in place, its start moves to the next bell.
R221: a launch whose cores have ended retires once its engine operations have performed, and its completion word is written;
before that it waits for the first of them (log entry 41). -/
def Obligations.BellsAndLaunches : Prop :=
  (∀ s : State, (s.parts.map Part.num).Nodup → s.Does .bell .bell fun t =>
    t.gtc = s.gtc ∧ t.Later none (s.gtc + 4032) .bell ∧
    (∀ q ∈ s.parts, ∃ r ∈ t.parts, r.num = q.num ∧ r.pigLatched = q.pigLive) ∧
    ((∀ l ∈ s.launches, l.state = .admitted ∨ l.state = .retired ∨ l.state = .failed ∨ l.state = .refused) →
      (∀ q ∈ s.parts, q.status = .running ∧ q.recess = none) →
      (∀ q ∈ s.parts, ∃ r ∈ t.parts, r.num = q.num ∧ r.pigLive = q.pigLive ∧ r.pigLatched = q.pigLive) ∧
      (∀ k, (t.core k).spad = (s.core k).spad) ∧ (∀ d, (t.die d).store = (s.die d).store) ∧ t.dram = s.dram)) ∧
  (∀ s : State,
  (∀ q : Part, s.part q.num = some q → s.holds 1 = false → (s.svc .registrar).journal.length < 65536 → s.Does .hangDetected (.hangDetected q.num) fun t =>
    t.part q.num = some { q with order := some .hang } ∧ (∀ p, p ≠ q.num → t.part p = s.part p) ∧ t.cores = s.cores ∧
    t.due = s.due) ∧
  (∀ (l : Launch) (h : Nat), s.launch l.sub = some l → (s.launches.map Launch.sub).Nodup → l.headSince = some h →
    h + 64 * 4032 ≤ s.gtc → s.isHead l = true → 0 < l.level → s.holds 1 = false → (s.svc .registrar).journal.length < 65536 →
    s.Does .queuePromotion (.queuePromotion l.sub) fun t =>
      (∃ m, t.launch l.sub = some m ∧ m.level = l.level - 1 ∧ m.headSince = none ∧ m.state = l.state ∧
        (∀ x ∈ s.launches, x.joined < m.joined)) ∧
      (∀ x ∈ s.launches, x.tenant = l.tenant → x.level = l.level → l.joined < x.joined → x.state.settled = false →
        ∃ y ∈ t.launches, y.sub = x.sub ∧ y.level = x.level ∧ y.joined = x.joined ∧ l.sub ∈ y.ahead) ∧
      t.parts = s.parts ∧ t.cores = s.cores) ∧
  (∀ l : Launch, s.launch l.sub = some l → (s.launches.map Launch.sub).Nodup →
    l.state = .reading → s.holds 1 = false → (s.svc .registrar).journal.length < 65536 →
    (∀ x ∈ s.launches, x.tenant = l.tenant → x.sub < l.sub → x.state ≠ .reading) →
    (l.malformed = true → s.Does .submissionCheck (.submissionCheck l.sub) fun t =>
      t.launch l.sub = some { l with state := .refused } ∧ t.parts = s.parts ∧ t.cores = s.cores) ∧
    ∀ (n : Tenant) (bytes : List Byte), l.malformed = false →
      s.tenants.find? (fun t => t.num == l.tenant) = some n → l.bytes = some bytes → imageOk bytes l.len = true →
      refusalReason bytes l.len (n.keys.map (·.1)) (s.tenantTimings n) = none → (readSyllabus bytes).preds = [] →
      s.Does .submissionCheck (.submissionCheck l.sub) fun t => t.launch l.sub = some
        { l with syl := some (readSyllabus bytes), level := (readSyllabus bytes).level, state := .queued, preds := [] } ∧
        t.parts = s.parts ∧ t.cores = s.cores) ∧
  (∀ q : Part, s.part q.num = some q → q.status = .loaded → q.recess = none → q.cores.Nodup →
    (∀ c ∈ q.cores, c < 384 ∧ s.partOf c = q.num) →
    (q.group = none → (∃ a ∈ s.openUnits, a.use = .place q.num) → s.Does .partitionStart (.partitionStart q.num) fun t =>
      t.part q.num = some { q with startBell := s.gtc + 4032, base := s.gtc + 4032 } ∧ t.cores = s.cores ∧ t.dram = s.dram ∧
      t.Later none (s.gtc + 4032) (.partitionStart q.num)) ∧
    (q.group ≠ none ∨ (∀ a ∈ s.openUnits, a.use ≠ .place q.num) →
    (s.onDuty q = true → s.Does .partitionStart (.partitionStart q.num) fun t =>
      ∃ r, t.part q.num = some r ∧ r.status = .recessed ∧ r.recess =
        some { e := 0, gtcE := s.gtc, cause := .thermal, primary := none, rolled := false, unread := [] }) ∧
    (s.onDuty q = false → s.Does .partitionStart (.partitionStart q.num) fun t =>
      (∃ r, t.part q.num = some r ∧ r.status = .running ∧ r.recess = none ∧ r.ttc t.gtc = 0 ∧ r.line = 0 ∧
        r.pigLive = q.pigLive) ∧
      (∀ c ∈ q.cores,
        let life := if (s.ctx c).seq.next = .stop then Life.ended else .running
        t.ctx c = { s.ctx c with life := life } ∧ (t.core c).dup = some (t.ctx c) ∧ (t.core c).undo = [] ∧
        (t.core c).spad = (s.core c).spad ∧ (life = .running → t.Later (some q.num) 0 (.bundleIssue c))) ∧
      ∀ c, c ∉ q.cores → t.core c = s.core c))) ∧
  (∀ l : Launch, l.level < 4 → l.members = 0 → s.launch l.sub = some l → s.isReady l = true → (s.parts.map Part.num).Nodup →
    (s.launches.map Launch.sub).Nodup → (∀ x ∈ s.launches, x.sub ≠ l.sub → x.state ≠ .queued) → s.holds 1 = false →
    (s.svc .registrar).journal.length < 65536 →
    (∀ q ∈ s.parts, q.status = .running ∧ q.recess = none ∧ q.order ≠ some .preempt) →
    let level (q : Part) : Nat := ((s.launch q.sub).map Launch.level).getD 0
    let victims (w : List Part) : Prop := w.Nodup ∧ ∀ q ∈ w, q ∈ s.parts ∧ q.order = none ∧ l.level < level q
    -- the least urgent level first, and in a level the latest admitted; the partitions stand in the order of admission
    let before (q q' : Part) : Prop := level q' < level q ∨ (level q' = level q ∧ ∃ a b c, s.parts = a ++ q' :: b ++ q :: c)
    (∀ vn v, s.fitting s.avail l = some (vn, v) → (∃ n, 1 ≤ n ∧ n ≤ 96 ∧ s.part n = none) →
      v.links = [] ∨ s.holds 2 = false ∧ (s.svc .porter).journal.length < 65536 → s.Does .bell .bell fun t =>
        ∃ q : Part, t.part q.num = some q ∧ s.part q.num = none ∧ q.sub = l.sub ∧ q.variant = vn ∧ q.status = .loaded ∧
          (t.launch l.sub).map Launch.state = some .admitted ∧ t.Later none (s.gtc + 4032) (.partitionStart q.num)) ∧
    (s.fitting s.avail l = none →
      (∀ w, victims w → (s.fitting (s.availWith w) l).isSome = true → s.Does .bell .bell fun t => ∃ set : List Part,
        victims set ∧ set.length ≤ w.length ∧ (s.fitting (s.availWith set) l).isSome = true ∧
        (∀ q ∈ s.parts, ∃ x, t.part q.num = some x ∧ (x.order = some .preempt ↔ q ∈ set)) ∧ set.Pairwise before ∧
        ∀ w', victims w' → w'.Pairwise before → w'.length = set.length → (s.fitting (s.availWith w') l).isSome = true →
          w' = set ∨ ∃ k x y, set.take k = w'.take k ∧ set[k]? = some x ∧ w'[k]? = some y ∧ before x y) ∧
      ((∀ w, victims w → s.fitting (s.availWith w) l = none) → s.Does .bell .bell fun t =>
        ∀ q ∈ s.parts, ∃ x, t.part q.num = some x ∧ x.order ≠ some .preempt))) ∧
  (∀ (l : Launch) (y : Syllabus) (a : Avail), l.syl = some y → y.variants.Pairwise (fun u v => u.1 < v.1) →
    (s.fitting a l = none ↔ ∀ x ∈ y.variants, s.fits a l x.2 = false) ∧
    ∀ vn v, s.fitting a l = some (vn, v) ↔ (vn, v) ∈ y.variants ∧ s.fits a l v = true ∧
      ∀ x ∈ y.variants, x.1 < vn → s.fits a l x.2 = false) ∧
  (∀ (l : Launch) (v : Variant) (n : Tenant), s.tenants.find? (fun t => t.num == l.tenant) = some n → 0 < v.ncore →
    v.ncore % 4 = 0 → v.ncore ≤ 384 →
    let lost (cl : Nat) : Prop := ∃ u ∈ s.lasting, ∃ c, c / 8 = cl ∧ (u = .coreArrays c ∨ ∃ b, u = .spadBank c b)
    (s.fits s.avail l v = true ↔ 4352 + 1268224 * v.ncore ≤ n.dumpLen ∧ (v.links = [] ∨ s.linksFree l.link v.links = true) ∧
      (l.members = 0 ∨ ∀ q ∈ s.parts, q.group ≠ some l.group) ∧ ∃ dies quads groups : List Nat,
      dies.length = (v.ncore + 95) / 96 ∧ dies.Pairwise (· < ·) ∧ (∀ d ∈ dies, d < 4) ∧
      (v.links ≠ [] → dies = List.range dies.length) ∧
      (∀ d ∈ dies, v.nslot ≤ ((s.die d).ring.toList.filter fun x => x.part == 0).length) ∧
      (∀ i d, dies[i]? = some d → v.blockOf i = [] ∨ ∃ off, off % 16 = 0 ∧ off + (v.blockOf i).length ≤ 2 ^ 23 ∧
        ∀ x ∈ s.storeSpans d, x.2 = 0 ∨ off + (v.blockOf i).length ≤ x.1 ∨ x.1 + x.2 ≤ off) ∧
      quads.length = v.ncore / 4 ∧ quads.Pairwise (· < ·) ∧
      (∀ i k, quads[i]? = some k → dies[i / 24]? = some (k / 24) ∧ ¬ lost (k / 2) ∧
        (∀ j, j < 4 → (s.ctx (4 * k + j)).life = .idle ∧ (s.ctx (4 * k + j)).part = 0) ∧
        (i % 2 = 0 → i + 1 < quads.length → k % 2 = 0 ∧ quads[i + 1]? = some (k + 1))) ∧
      groups.length = v.groups ∧ groups.Nodup ∧ ∀ j g, groups[j]? = some g → g ∈ n.groups ∧ g < 32 ∧ g ∉ s.testing ∧
        (∀ q ∈ s.parts, g ∉ q.groups) ∧ (∀ u ∈ s.lasting, u ≠ .nmUnit (g / 4) ∧ ∀ st ch b, u = .dramBank st ch b → st * 4 + ch / 16 ≠ g) ∧
        (if j < 8 * dies.length then dies[j % dies.length]? = some (g / 8) else g / 8 ∉ dies) ∧
        ∀ t ∈ v.timelines, t.chan / 16 = j → t.timed (s.timing (g / 4)) = true)) ∧
  (∀ l : Launch, s.isReady l = true ↔ l.state = .queued ∧ l.joined ≠ 0 ∧
    (∀ x ∈ s.launches, x.tenant = l.tenant → x.level = l.level → x.joined ≠ 0 → x.joined < l.joined → x.state.settled = true) ∧
    (∀ k ∈ l.ahead, ∀ x, s.launch k = some x → x.state.settled = true) ∧
    ∀ k ∈ l.preds, ∃ x, s.launch k = some x ∧ x.state = .retired) ∧
  (∀ (l : Launch) (n : Tenant) (bytes : List Byte), s.launch l.sub = some l → (s.launches.map Launch.sub).Nodup →
    l.state = .reading → s.holds 1 = false → (s.svc .registrar).journal.length < 65536 → l.malformed = false →
    (∀ x ∈ s.launches, x.tenant = l.tenant → x.sub < l.sub → x.state ≠ .reading) →
    s.tenants.find? (fun t => t.num == l.tenant) = some n → l.bytes = some bytes → imageOk bytes l.len = true →
    refusalReason bytes l.len (n.keys.map (·.1)) (s.tenantTimings n) = none →
    let y := readSyllabus bytes
    let named (name : List Byte) (x : Launch) : Prop := x ∈ s.launches ∧ x.tenant = l.tenant ∧ x.sub < l.sub ∧
      ∃ z, x.syl = some z ∧ z.name = name
    let met (name : List Byte) (x : Launch) : Prop := named name x ∧ ∀ x', named name x' → x'.sub ≤ x.sub
    let does (P : State → Prop) : Prop := s.Does .submissionCheck (.submissionCheck l.sub) P
    ((∀ name ∈ y.preds, ∃ x, met name x ∧ x.state.lost = false) → does fun t => ∃ subs : List Nat,
      subs.length = y.preds.length ∧ (∀ (i : Nat) name x, y.preds[i]? = some name → met name x → subs[i]? = some x.sub) ∧
      t.launch l.sub = some { l with syl := some y, level := y.level, state := .queued, preds := subs } ∧ t.parts = s.parts) ∧
    ((∃ name ∈ y.preds, ∀ x, met name x → x.state.lost = true) → does fun t =>
      t.launch l.sub = some { l with syl := some y, level := y.level, state := .refused } ∧ t.parts = s.parts ∧
      ∀ i : Fin 64, i.val = l.fn →
        (t.fns[i].ring[s.fns[i].evhead % 256]?).map Prod.snd = some (BitVec.ofNat 32 (5 * 2 ^ 24)))) ∧
  (∀ q ∈ s.parts, (s.parts.map Part.num).Nodup → s.holds 1 = false → s.heldWork = [] →
    (∀ l ∈ s.launches, l.state = .admitted ∨ l.state = .retired ∨ l.state = .failed ∨ l.state = .refused) →
    (∀ p ∈ s.parts, p.status = .running ∧ p.recess = none ∧ p.order = none ∧ p.resumeFrom = none ∧ p.outcome = none ∧
      s.onDuty p = false) → (∀ x ∈ s.due, x.what ≠ .hangDetected q.num) →
    s.Does .bell .bell fun t => t.Later none s.gtc (.hangDetected q.num) ↔ q.sign + 4096 * 4032 ≤ q.ttc s.gtc) ∧
  (∀ q : Part, s.part (s.partOf s.me) = some q →
    (∀ f : SR, s.Takes f.g f.neg → s.Answers (.tchk f) fun t => ∃ r, t.part q.num = some r ∧ r.sign = s.t + 1) ∧
    (∀ f : SR, ¬ s.Takes f.g f.neg → s.Answers (.tchk f) fun t => ∃ r, t.part q.num = some r ∧ r.sign = q.sign) ∧
    ∀ f : SY, s.Clear (.endI f) → s.Answers (.endI f) fun t => ∃ r, t.part q.num = some r ∧ r.sign = s.t + 1) ∧
  (∀ (l : Launch) (vn bell : Nat) (v : Variant) (n : Tenant), s.launch l.sub = some l → s.fits s.avail l v = true →
    (∃ k, 1 ≤ k ∧ k ≤ 96 ∧ s.part k = none) → s.tenants.find? (fun t => t.num == l.tenant) = some n →
    0 < v.ncore → v.ncore % 4 = 0 → v.ncore ≤ 384 → (∀ d, (s.die d).store.wf = true) →
    let t := s.admission l vn v bell
    ∃ q : Part, t.part q.num = some q ∧ 1 ≤ q.num ∧ q.num ≤ 96 ∧ s.part q.num = none ∧ q.sub = l.sub ∧ q.variant = vn ∧
      q.tenant = l.tenant ∧ q.status = .loaded ∧ (t.launch l.sub).map Launch.state = some .admitted ∧
      t.Later none bell (.partitionStart q.num) ∧ q.cores.length = v.ncore ∧ q.dies.length = (v.ncore + 95) / 96 ∧
      q.dies.Pairwise (· < ·) ∧ (v.links ≠ [] → q.dies = List.range q.dies.length) ∧
      (∀ r c, q.cores[r]? = some c → c < 384 ∧ c % 4 = r % 4 ∧ q.dies[r / 96]? = some (c / 96) ∧ (s.ctx c).life = .idle ∧
        (t.ctx c).life = .loaded ∧ t.partOf c = q.num ∧ t.rankOf c = r) ∧
      (∀ r r' c c', q.cores[r]? = some c → q.cores[r']? = some c' → r < r' → c < c' ∧ (r / 8 = r' / 8 ↔ c / 8 = c' / 8)) ∧
      (∀ d ∈ q.dies, ∀ k, k < v.nslot → ∃ i : Fin 16, (s.die d).ring[i].part = 0 ∧ (t.die d).ring[i].part = q.num ∧
        (t.die d).ring[i].k = k) ∧
      q.groups.length = v.groups ∧ q.groups.Nodup ∧ (∀ g ∈ q.groups, g ∈ n.groups ∧ ∀ x ∈ s.parts, g ∉ x.groups) ∧
      (∀ j g, q.groups[j]? = some g → if j < 8 * q.dies.length then q.dies[j % q.dies.length]? = some (g / 8)
        else g / 8 ∉ q.dies) ∧
      ∀ d die, q.dies[d]? = some die → v.blockOf d ≠ [] → q.offsets.getD d 0 % 16 = 0 ∧
        ∀ k, (hk : k < (v.blockOf d).length) → (t.die die).store.read (q.offsets.getD d 0 + k) = (v.blockOf d)[k]) ∧
  ∀ q : Part, s.part q.num = some q → q.status = .running → q.recess = none → q.faultsNow = [] → q.joining = false →
    (∀ c ∈ q.cores, (s.ctx c).life = .ended) →
    (s.unperformed q = [] → s.holds 1 = false →
      s.Does .launchRetirement (.launchRetirement q.num) fun t => ∃ r, t.part q.num = some r ∧ r.status = .retired ∧
        r.retiredAt = some (q.ttc s.gtc) ∧
        (r.pigLive[126]?.getD 0).toNat = 2 ^ 28 + q.variant % 4 * 2 ^ 26 + q.sub % 2 ^ 16 ∧
        (∀ n, n ≠ 126 → r.pigLive[n]?.getD 0 = q.pigLive[n]?.getD 0) ∧ t.cores = s.cores ∧ t.dram = s.dram) ∧
    (s.unperformed q ≠ [] → (∀ x ∈ s.due, x.what ≠ .launchRetirement q.num) →
      s.Does .launchRetirement (.launchRetirement q.num) fun t => s.Same t ∧ ∃ d, q.ttc s.gtc < d ∧
        (d = q.ttc s.gtc + 1 ∨ d ∈ s.unperformed q) ∧ t.Later (some q.num) d (.launchRetirement q.num)))

/-- R335, R338, R342, R344, R345, R349, R351, R352: an order, or thermal duty, recesses a running partition at a bell. Its
roll call names the engines that do not answer, each marked lasting, and records held poisoned returns (log entry 39); a
pre-empted partition's contexts move to the shadow storages 840 cycles later, or after those they hold have left, and the
stores, each presented unit by unit at a free place of the parking area, leave 15053 cycles after that, when the quads are
idle; a move that finds no such place is made again a period later, and parked cores go by numbers from 384 up (log entry 40).
Taken back, what is parked is presented unit by unit to be read in open slots (R253), its place free after the last unit (log
entry 40); every core has its stores, and 840 cycles later the context that it gave. At a bell a partition whose recess is not
by fault resumes with the TTC at which it stopped; one whose chain is transient goes back to its line: the duplicates, the
logged bank words and the retained syndromes, RBCNT one more, everything kept discarded, to resume from the next bell. A move
to another variant takes the line of that variant, keeps the fault list and pigeonholes 64 to 125, and copies what the items
name: scratchpad bytes, registers, keys with their counters. A failed launch's card is presented unit by unit (log entry 38);
after its last unit the completion word follows, and once that is posted the partition is released. -/
def Obligations.RecessSteps : Prop := ∀ (s : State) (q : Part), s.part q.num = some q →
  let calm : Prop := (s.parts.map Part.num).Nodup ∧ s.holds 1 = false ∧ (s.svc .registrar).journal.length < 65536 ∧
    (∀ l ∈ s.launches, l.state = .admitted ∨ l.state = .retired ∨ l.state = .failed ∨ l.state = .refused) ∧
    ∀ x ∈ s.parts, x.num ≠ q.num → x.status = .running ∧ x.recess = none ∧ ∀ c ∈ x.cores, c ∉ q.cores
  (calm → q.status = .running → q.recess = none → (∀ c ∈ q.cores, c < 384) →
    (q.order.isSome = true ∨ s.thermalBell.onDuty q = true) → s.Does .bell .bell fun t =>
      (∃ x, t.part q.num = some x ∧ x.status = .recessed ∧ x.order = none ∧ x.recess =
        some { e := q.ttc s.gtc, gtcE := s.gtc, cause := q.order.getD .thermal, primary := none, rolled := false,
               unread := [] }) ∧
      t.Later none (s.gtc + 3072) (.rollCallComplete q.num) ∧ ∀ c ∈ q.cores, (t.core c).spad = (s.core c).spad ∧
        ((s.ctx c).life = .running → t.ctx c = { s.ctx c with life := .recessed })) ∧
  (∀ r : Recess, q.recess = some r → s.Does .rollCallComplete (.rollCallComplete q.num) fun t =>
    (∃ x, t.part q.num = some x ∧ x.recess = some { r with rolled := true, unread := s.stuck.filter q.has } ∧
      ((∀ y ∈ s.due, y.clock = some q.num → y.poisoned = none) → x.faultsNow = q.faultsNow) ∧
      ∀ y ∈ s.due, y.clock = some q.num → y.poisoned.isSome = true → y ∉ t.due ∧ (s.partOf y.who.core = q.num →
        ∃ f ∈ x.faultsNow, f.code = 0x30 ∧ f.src = y.who.src ∧ f.issue = some y.who.issue ∧ f.blame = y.poisoned)) ∧
    (∀ e ∈ s.stuck.filter q.has, t.Later none s.gtc (.errorLasting e.unit)) ∧ t.dram = s.dram ∧ (s.shadowFull q = false → t.cores = s.cores) ∧
    (∀ c, t.core c = { s.core c with shadow := (t.core c).shadow }) ∧
    (r.cause = .preempt → r.primary = none → s.stuck = [] → q.faultsNow = [] →
      (∀ y ∈ s.due, y.clock = some q.num → y.poisoned = none) →
      t.Later none (s.gtc + 840 + if s.shadowFull q then 15053 else 0) (.contextMove q.num true))) ∧
  (q.cores.Nodup → (∀ c ∈ q.cores, c < 384) →
    (s.shadowFull q = false → s.Does .contextMove (.contextMove q.num true) fun t =>
      let len := (2 ^ 20 + 2 ^ 18 + 2 ^ 16) * q.cores.length
      let place (a : Nat) : Prop := a % 64 = 0 ∧ a + len ≤ 2 ^ 31 ∧
        ∀ x ∈ s.parkSpans, x.2 = 0 ∨ a + len ≤ x.1 ∨ x.1 + x.2 ≤ a
      (∀ c ∈ q.cores, t.core c = { s.core c with shadow := some (q.num, s.ctx c) }) ∧
      (∀ c, c ∉ q.cores → t.core c = s.core c) ∧ (∀ p, p ≠ q.num → t.part p = s.part p) ∧ t.dram = s.dram ∧
      (q.cores ≠ [] → (∃ a, place a) → (∃ a, place a ∧ t.part q.num = some { q with parkAt := q.parkAt ++ [(a, len)] } ∧
        ∀ i, 64 * i < len → ∃ y ∈ t.due, ∃ u : OpenAccess, y.what = .openSlotService u ∧ u.use = .park q.num ∧
          u.write = true ∧ u.slot = none ∧ u.data.length = 64 ∧ u.phys = parkAddr (a + 64 * i)) ∧
        t.Later none (s.gtc + 15053) (.storePark q.num true)) ∧
      (q.cores ≠ [] → (∀ a, ¬ place a) →
        t.part q.num = some q ∧ t.Later none (s.gtc + 4032) (.contextMove q.num true))) ∧
    (s.shadowFull q = true → s.Does .contextMove (.contextMove q.num true) fun t =>
      t.Later none (s.gtc + 15053) (.contextMove q.num true) ∧
      ∀ c, t.core c = { s.core c with shadow := (t.core c).shadow }) ∧
    (s.Does .storePark (.storePark q.num true) fun t =>
      (∃ x, t.part q.num = some x ∧ x.parked = some (q.cores.map s.core) ∧ x.cores.length = q.cores.length ∧
        (∀ c ∈ x.cores, 384 ≤ c) ∧ x.parkAt = q.parkAt) ∧
      (∀ c ∈ q.cores, t.ctx c = Ctx.reset ∧ (t.core c).spad = (s.core c).spad) ∧
      (∀ c, c ∉ q.cores → t.core c = s.core c) ∧ (∀ d, ∀ e ∈ (t.die d).access, e.part ≠ q.num) ∧ t.dram = s.dram) ∧
    ∀ ks : List Core, q.parked = some ks → ks.length = q.cores.length →
      (s.Does .storePark (.storePark q.num false) fun t =>
        (∀ (r c : Nat) (k : Core), q.cores[r]? = some c → ks[r]? = some k →
          t.core c = { k with ctx := s.ctx c, shadow := (s.core c).shadow }) ∧
        (∀ c, c ∉ q.cores → t.core c = s.core c) ∧ t.parts = s.parts ∧ t.dram = s.dram ∧
        t.Later none (s.gtc + 840) (.contextMove q.num false)) ∧
      s.Does .contextMove (.contextMove q.num false) fun t =>
        (∀ (r c : Nat) (k : Core), q.cores[r]? = some c → ks[r]? = some k → t.ctx c = k.ctx) ∧
        (∀ c, c ∉ q.cores → t.ctx c = s.ctx c) ∧ (∀ c, (t.core c).spad = (s.core c).spad) ∧
        (∀ c x, (t.core c).shadow ≠ some (q.num, x)) ∧
        t.part q.num = some { q with parked := none } ∧ t.dram = s.dram) ∧
  (
    let reads (t : State) : Prop := ∀ x ∈ q.parkAt, ∀ i, 64 * i < x.2 → ∃ y ∈ t.due, ∃ u : OpenAccess,
      y.what = .openSlotService u ∧ u.use = .park q.num ∧ u.write = false ∧ u.slot = none ∧ u.phys = parkAddr (x.1 + 64 * i)
    (∀ v dies quads, reads (s.takeBack q v dies quads)) ∧
    (∀ y n w v dies quads, reads (s.reshape q y n w v dies quads)) ∧
    ∀ u : OpenAccess, u.use = .park q.num → u.write = false → u.slot.isSome = true →
      s.Does .openSlotService (.openSlotService u) fun t => ∃ x, t.part q.num = some x ∧ x = { q with parkAt := x.parkAt } ∧
        ∀ a, a ∈ x.parkAt ↔ a ∈ q.parkAt ∧ ¬ ∃ j, a.1 ≤ j ∧ j < a.1 + a.2 ∧ a.1 + a.2 ≤ j + 64 ∧
          j = u.phys / 2 ^ 34 % 32 * 2 ^ 26 + u.phys % 2 ^ 26) ∧
  (∀ r : Recess, calm → q.status = .recessed → q.recess = some r → r.rolled = true → r.unread = [] → q.mustFail = false →
    q.parked = none → q.resumeFrom = none → q.group = none → q.order = none → q.faultsNow = [] → q.joining = false →
    (∀ y ∈ s.due ++ s.heldWork.map (·.2), Timed.follows q.num y = false) → q.cores.Nodup → (∀ c ∈ q.cores, c < 384) →
    (r.primary = none → r.cause = .thermal ∨ r.cause = .preempt → s.thermalBell.onDuty q = false →
      s.Does .bell .bell fun t =>
        (∃ x, t.part q.num = some x ∧ x.status = .running ∧ x.recess = none ∧ x.ttc t.gtc = r.e ∧ x.cores = q.cores ∧
          x.pigLatched = q.pigLive) ∧
        ∀ c ∈ q.cores, t.ctx c = { s.ctx c with life := if (s.ctx c).life = .recessed then .running else (s.ctx c).life } ∧
          (t.core c).spad = (s.core c).spad) ∧
    ∀ i, r.primary = some i → r.cause = .fault → s.recent q = false → s.holds 0 = false → (s.svc .prefect).journal.length < 65536 →
      (∀ j, i ≤ j → j < q.faults.length →
        (let w := q.faults.getD j []
         let code := (w.getD 0 0).toNat % 2 ^ 8
         code ∈ [0x30, 0x31, 0x33] ∨ (code = 0x32 ∧ w.getD 6 0 = 1) ∨ (code = 0x10 ∧ w.getD 6 0 = 3)) ∧
        ∀ u, (j, u) ∈ q.blames → u ∉ s.lasting ∧ u ≠ .remote true ∧
          ∀ y ∈ s.due ++ s.heldWork.map (·.2), y.what ≠ .errorLasting u) →
      s.Does .bell .bell fun t =>
        (∃ x, t.part q.num = some x ∧ x.status = .recessed ∧ x.recess = some { r with e := q.line } ∧
          x.rbcnt = q.rbcnt + 1 ∧ x.resumeFrom = some (s.gtc + 1) ∧
          ∀ n : Fin 128, x.pigLive[n] = if 64 ≤ n.val ∧ n.val ≤ 125 then q.dupPig.getD (n.val - 64) 0 else q.pigLive[n]) ∧
        (∀ c ∈ q.cores, ∀ d : Ctx, (s.core c).dup = some d → (s.core c).spad.wf = true →
          (∀ u ∈ (s.core c).undo, u.word < 16384 ∧ u.old.length = 64) →
          t.ctx c = { d with life := if d.life = .running then .recessed else d.life } ∧ (t.core c).undo = [] ∧
          (t.core c).te = [] ∧ (t.core c).nm = [] ∧ (t.core c).stnts = [] ∧
          (t.core c).syndrome = (match q.faults.getD i (List.replicate 16 0) with
            | [] => []
            | w :: ws => (w ||| 0x40000000) :: ws) ∧
          ∀ a, (t.core c).spad.read a = match (s.core c).undo.find? fun u => u.word == a / 64 with
            | some u => u.old.getD (a % 64) 0
            | none => (s.core c).spad.read a) ∧
        ∀ y ∈ t.due, y.clock = some q.num → y.what = .memorySlot q.num ∨
          ∃ c ∈ q.cores, y.what = .bundleIssue c ∨ ∃ h o, y.what = .segmentExpansion c h o) ∧
  (∀ (y : Syllabus) (n w : Nat) (v : Variant) (dies quads : List Nat) (line : Nat),
    (y.equiv.find? fun e => e.kind == 1 && e.n == n && e.v == w).map (·.x) = some line → q.num < 256 →
    let t := s.reshape q y n w v dies quads
    (∃ x, t.part q.num = some x ∧ x.variant = w ∧ x.line = line ∧ x.rbcnt = q.rbcnt ∧ x.faults = q.faults ∧
      x.groups = q.groups ∧ x.parked = none ∧ x.recess = q.recess.map (fun r => { r with e := line }) ∧
      x.resumeFrom = some (s.gtc + 15053 + 840) ∧
      ∀ k : Fin 128, k.val ≠ 126 →
        x.pigLive[k] = if 64 ≤ k.val ∧ k.val ≤ 125 then q.dupPig.getD (k.val - 64) 0 else q.pigLive[k]) ∧
    (∀ r c, (coresOf quads)[r]? = some c → (coresOf quads).Nodup → c < 384 →
      match y.equiv.find? fun e => e.kind == 2 && e.n == n && e.v == w && e.rank == r with
      | none => (t.ctx c).life = .ended
      | some _ => (t.ctx c).life = .recessed ∧ (t.ctx c).seq.next = .enter ∧ (t.ctx c).seq.nextAt = line ∧
          (t.core c).dup = some { t.ctx c with life := .running } ∧ t.Later (some q.num) line (.bundleIssue c)) ∧
    ∀ (cores : List Nat) (old : List Core) (e : EquivLine) (c : Nat) (k : Core) (x : Ctx),
      cores[e.rank2]? = some c → c < 384 → old[e.rank]? = some k → k.dup = some x →
      let u := s.applyItem cores old e
      (∀ d, d ≠ c → u.core d = s.core d) ∧
      (e.kind = 4 → e.x = 0 → 0 < e.z → e.z < 32 → u.ctx c = { s.ctx c with s := (s.ctx c).s.setIfInBounds e.z (x.rs e.y) }) ∧
      (e.kind = 4 → e.x = 1 → 0 < e.z → e.z < 16 → u.ctx c = { s.ctx c with p := (s.ctx c).p.setIfInBounds e.z (x.rp e.y) }) ∧
      (e.kind = 4 → e.x = 2 → u.ctx c = { s.ctx c with d := (s.ctx c).d.setIfInBounds e.z (x.rd e.y) }) ∧
      (e.kind = 4 → e.x = 3 → u.ctx c = { s.ctx c with
        va := { (s.ctx c).va with regs := (s.ctx c).va.regs.setIfInBounds e.z (x.va.rv e.y) } }) ∧
      (e.kind = 4 → e.x = 4 → u.ctx c = { s.ctx c with
        vb := { (s.ctx c).vb with regs := (s.ctx c).vb.regs.setIfInBounds e.z (x.vb.rv e.y) } }) ∧
      (e.kind = 4 → e.x = 8 → u.ctx c = { s.ctx c with h := (s.ctx c).h.setIfInBounds e.z (x.rh e.y) }) ∧
      (e.kind = 5 → e.x ≤ 1 → e.y ≤ 1 → e.z < 2 ^ 64 →
        let k := if e.x = 0 then x.va else x.vb
        let add : Int := if e.z < 2 ^ 63 then e.z else (e.z : Int) - 2 ^ 64
        let gen (v : VecUnit) : VecUnit := { v with key := k.key, ctr := BitVec.ofInt 128 ((k.ctr.toNat : Int) + add) }
        u.ctx c = if e.y = 0 then { s.ctx c with va := gen (s.ctx c).va } else { s.ctx c with vb := gen (s.ctx c).vb }) ∧
      (e.kind = 3 → (s.core c).spad.wf = true → ∀ i, (u.core c).spad.read i =
        if e.y ≤ i ∧ i < e.y + e.z then k.spad.read (e.x + (i - e.y)) else (s.core c).spad.read i)) ∧
  (q.status = .failing → s.posted q = false → s.holds 1 = false →
    (∀ (r : Recess) (n : Tenant), q.card = none → q.recess = some r →
      s.tenants.find? (fun t => t.num == q.tenant) = some n → 0 < n.dumpLen →
      s.Does .launchFailure (.launchFailure q.num) fun t =>
        t.part q.num = some { q with card := some (n.dump, s.gtc) } ∧ t.cores = s.cores ∧ t.dram = s.dram ∧
        (∃ y ∈ t.due, ∃ a : OpenAccess, y.what = .openSlotService a ∧ a.use = .card q.num ∧ a.write = true) ∧
        (wordsOf (s.reportCard q r)).take 11 = [1, BitVec.ofNat 32 q.sub,
          BitVec.ofNat 32 (q.tenant % 2 ^ 16 * 2 ^ 16 + q.num % 2 ^ 8 * 2 ^ 8 + q.variant % 4),
          if r.unread ≠ [] then 3 else if r.cause = .hang then 2 else 1, BitVec.ofNat 32 r.e,
          BitVec.ofNat 32 (r.e / 2 ^ 32), BitVec.ofNat 32 r.gtcE, BitVec.ofNat 32 (r.gtcE / 2 ^ 32),
          BitVec.ofNat 32 q.cores.length, BitVec.ofNat 32 q.faults.length, BitVec.ofNat 32 q.rbcnt]) ∧
    ∀ a g, q.card = some (a, g) → s.Does .launchFailure (.launchFailure q.num) fun t => ∃ x, t.part q.num = some x ∧
      x.card = some (a, s.gtc) ∧
      (x.pigLive[126]?.getD 0).toNat = 2 * 2 ^ 28 + q.variant % 4 * 2 ^ 26 + q.sub % 2 ^ 16 ∧
      (∀ k, k ≠ 126 → x.pigLive[k]?.getD 0 = q.pigLive[k]?.getD 0) ∧ t.cores = s.cores) ∧
  (∀ a : OpenAccess, a.use = .card q.num → a.write = true → a.data.length = 64 → a.slot.isSome = true →
    s.usePending (.card q.num) = false → s.Does .openSlotService (.openSlotService a) fun t =>
      t.Later none (s.gtc + 1) (.launchFailure q.num) ∧ t.parts = s.parts) ∧
  (q.status = .failing → s.posted q = true → s.holds 1 = false → (s.svc .registrar).journal.length < 65536 → q.claims = [] ∨ s.holds 2 = false ∧ (s.svc .porter).journal.length < 65536 →
    q.cores.Nodup →
    s.Does .launchFailure (.launchFailure q.num) fun t => t.part q.num = none ∧
      ∀ c ∈ q.cores, c < 384 → t.ctx c = Ctx.reset ∧ (t.core c).spad = (s.core c).spad)

/-! ### The office -/

/-- R268, R269, R404, R405: a temperature enters its telemetry word, the band rises at once to the one it reaches, and falls
at a bell at which TMAX lies 3 °C below its threshold; a rise to band 2 orders duty for the first aligned group of 8 periods
that begins a period or more later, and the bell one period before a group for each stack and die then at band 2; in a group a
partition takes the largest duty of its stacks and dies, and of any member of its link group (log entry 34 says how a member
learns it); DUTY stays or takes what the office writes, and band 3 or an undervoltage shuts the package down with an entry in
the flash log; a shut-down package does not step. R389, R408: a unit is marked lasting once; the groups that own a slot on a
lasting port fail. R270 (log entry 45): a bank under test withholds its channel group, but waits while the prefect holds its
work; its units are read and parked one after another, under the office's key (R238), in rows of another group of its stack,
and restored after the march, when the group is free again, and a failed march marks the bank lasting. R23, R24, R329: a core
reset leaves the registers at the values of R24, of a core of no admitted launch alone; that it keeps the scratchpad and marks
the core is log entry 45. Gating changes idle and gated cores alone. -/
def Obligations.TemperatureUnitsAndCores : Prop :=
  (∀ s : State,
  let enters (w w' : Word) (tmax band : Nat) (duty : Option Nat) : Prop := w'.toNat % 2 ^ 11 = tmax % 2 ^ 11 ∧
    w'.toNat / 2 ^ 11 % 4 = max (w.toNat / 2 ^ 11 % 4) band ∧ w'.toNat / 2 ^ 16 = w.toNat / 2 ^ 16 ∧
    w'.toNat / 2 ^ 13 % 8 = duty.elim (w.toNat / 2 ^ 13 % 8) (fun d => max 1 (d % 8))
  let power (t : State) (w' : Word) (e : FlashEntry) : Prop :=
    if w'.toNat / 2 ^ 11 % 4 = 3 then t.on = false ∧ t.flash = s.flash ++ [e] else t.on = s.on ∧ t.flash = s.flash
  (∀ i tmax duty, i < 8 → s.Does .stackBandChange (.stackBandChange i tmax duty) fun t =>
    enters (s.tstackOf i) (t.tstackOf i) tmax
      (if 840 ≤ tmax then 3 else if 760 ≤ tmax then 2 else if 680 ≤ tmax then 1 else 0) duty ∧
    (∀ k, k ≠ i → t.tstackOf k = s.tstackOf k) ∧ power t (t.tstackOf i) (.catastrophic i tmax) ∧ s.Same t) ∧
  (∀ d tmax duty, d < 4 → s.Does .dieBandChange (.dieBandChange d tmax duty) fun t =>
    enters (s.die d).tdie (t.die d).tdie tmax (if 880 ≤ tmax then 3 else if 760 ≤ tmax then 2 else 0) duty ∧
    (t.die d).store = (s.die d).store ∧
    (∀ k, k ≠ d → t.die k = s.die k) ∧ power t (t.die d).tdie (.catastrophic (8 + d) tmax) ∧ t.cores = s.cores ∧
    t.parts = s.parts ∧ t.dram = s.dram) ∧
  (let band (w : Word) : Nat := w.toNat / 2 ^ 11 % 4
   let dutied (w : Word) : Nat := max 1 (w.toNat / 2 ^ 13 % 8)
   let idx := s.gtc / 4032
   -- the band falls by `down` where TMAX lies 24 eighths of a degree or more below the threshold of the band held
   let falls (w w' : Word) (threshold down : Nat) : Prop := w'.toNat % 2 ^ 11 = w.toNat % 2 ^ 11 ∧ w'.toNat / 2 ^ 13 = w.toNat / 2 ^ 13 ∧
     band w' = if 0 < band w ∧ w.toNat % 2 ^ 11 + 24 ≤ threshold then band w - down else band w
   (s.Does .bell .bell fun t =>
     (∀ i, i < 8 → falls (s.tstackOf i) (t.tstackOf i) (8 * (75 + 10 * band (s.tstackOf i))) 1) ∧
     (∀ d, d < 4 → falls (s.die d).tdie (t.die d).tdie (if band (s.die d).tdie = 3 then 880 else 760) (band (s.die d).tdie)) ∧
     (idx % 8 = 7 →
       (∀ i, i < 8 → 2 ≤ band (t.tstackOf i) → ∃ x ∈ t.duty, x.first = idx + 1 ∧ (i, dutied (t.tstackOf i)) ∈ x.hbm) ∧
       (∀ d, d < 4 → 2 ≤ band (t.die d).tdie → ∃ x ∈ t.duty, x.first = idx + 1 ∧ (d, dutied (t.die d).tdie) ∈ x.dies) ∧
       ((∀ x ∈ s.duty, x.first ≠ idx + 1) → ∀ x ∈ t.duty, x.first = idx + 1 →
         (∀ k ∈ x.hbm, 2 ≤ band (t.tstackOf k.1)) ∧ ∀ k ∈ x.dies, 2 ≤ band (t.die k.1).tdie)) ∧
     (idx % 8 ≠ 7 → ∀ x ∈ t.duty, x ∈ s.duty) ∧ ∀ x ∈ s.duty, idx < x.first + 8 → x.first ≠ idx + 1 → x ∈ t.duty) ∧
   (∀ i tmax duty first, i < 8 → 760 ≤ tmax → band (s.tstackOf i) < 2 → first % 8 = 0 → s.gtc + 4032 ≤ 4032 * first →
     4032 * first < s.gtc + 4032 + 8 * 4032 → s.Does .stackBandChange (.stackBandChange i tmax duty) fun t =>
       ∃ x ∈ t.duty, x.first = first ∧ (i, dutied (t.tstackOf i)) ∈ x.hbm) ∧
   (∀ d tmax duty first, d < 4 → 760 ≤ tmax → band (s.die d).tdie < 2 → first % 8 = 0 → s.gtc + 4032 ≤ 4032 * first →
     4032 * first < s.gtc + 4032 + 8 * 4032 → s.Does .dieBandChange (.dieBandChange d tmax duty) fun t =>
       ∃ x ∈ t.duty, x.first = first ∧ (d, dutied (t.die d).tdie) ∈ x.dies) ∧
   ∀ q : Part,
     let first := idx / 8 * 8
     let takes (n : Nat) : Prop := (∃ x k, s.duty.find? (fun x => x.first == first) = some x ∧
         ((k, n) ∈ x.hbm ∧ (∃ g ∈ q.groups, g / 4 = k) ∨ (k, n) ∈ x.dies ∧ ∃ c ∈ q.cores, c / 96 = k)) ∨
       (q.group ≠ none ∧ q.groupDuty = (first, n))
     let D := s.dutyPeriods q
     (∀ n, takes n → n ≤ D) ∧ (D = 0 ∨ takes D) ∧ (s.onDuty q = true ↔ idx % 8 < D)) ∧
  (s.Does .undervoltage .undervoltage fun t => t.on = false ∧ t.flash = s.flash ++ [.undervoltage] ∧ s.Same t) ∧
  (s.on = false → step s = .fault .poweredOff)) ∧
  (∀ (s : State) (u : ErrUnit), s.holds 0 = false → (s.svc .prefect).journal.length < 65536 → u ∉ s.lasting →
    s.Does .errorLasting (.errorLasting u) fun t =>
    t.lasting = s.lasting ++ [u] ∧ t.cores = s.cores ∧ t.dram = s.dram ∧ t.due = s.due ∧
    ((∀ p, u ≠ .port p) → t.parts = s.parts) ∧
    ∀ p, u = .port p → t.parts = s.parts.map fun q =>
      if q.group.isSome && (s.port p).table.any (fun r => !r.open_ && some r.group == q.group)
      then { q with mustFail := true, order := some (q.order.getD .fault) } else q) ∧
  (∀ (s : State) (st ch bank : Nat) (pass : Bool), st < 8 → ch < 64 → bank < 16 →
    let g := st * 4 + ch / 16
    let asks (s t : State) (i : Nat) (restore write : Bool) (data : List Byte) : Prop :=
      ∃ y ∈ t.due, ∃ a : OpenAccess, y.clock = none ∧ y.due = s.gtc ∧ y.what = .openSlotService a ∧ a.slot = none ∧
        a.use = .test st ch bank i restore pass ∧ a.write = write ∧ a.first = 0 ∧ a.data.length = 64 ∧
        (write = true → a.data = data) ∧ a.phys = if restore = write
          then st * 2 ^ 36 + ch / 16 * 2 ^ 34 + i / 16 * 2 ^ 18 + bank * 2 ^ 14 + i % 16 * 2 ^ 10 + ch % 16 * 2 ^ 6
          else parkAddr (t.testFirst st ch + 64 * i)
    (s.cur.who ≠ testDone → g ∉ s.testing → (∀ q ∈ s.parts, g ∉ q.groups) → s.holds 0 = true →
      s.Does .selfTest (.selfTest st ch bank pass) fun t => t.testing = s.testing ∧ s.Same t ∧
        ∃ x : Timed, x.what = .selfTest st ch bank pass ∧ t.heldWork = s.heldWork ++ [(0, x)]) ∧
    (s.cur.who ≠ testDone → g ∉ s.testing → (∀ q ∈ s.parts, g ∉ q.groups ∧ q.parkAt = []) → s.tenants = [] → s.testAt = [] →
      s.holds 0 = false → (s.svc .prefect).journal.length < 65536 →
      s.Does .selfTest (.selfTest st ch bank pass) fun t => t.testing = s.testing ++ [g] ∧ s.Same t ∧
        asks s t 0 false false [] ∧ t.testFirst st ch / 2 ^ 28 = st ∧ t.testFirst st ch / 2 ^ 26 % 4 ≠ ch / 16 ∧
        (t.testFirst st ch + 2 ^ 26 - 1) / 2 ^ 28 = st ∧ (t.testFirst st ch + 2 ^ 26 - 1) / 2 ^ 26 % 4 ≠ ch / 16) ∧
    (s.cur.who = testDone → s.Does .selfTest (.selfTest st ch bank pass) fun t => t.testing = s.testing ∧ s.Same t ∧
      asks s t 0 true false []) ∧
    ∀ (a : OpenAccess) (i : Nat) (restore : Bool), a.slot.isSome = true → a.first = 0 → a.data.length = 64 → i < 2 ^ 20 →
      a.use = .test st ch bank i restore pass →
      (a.write = false → s.Does .openSlotService (.openSlotService a) fun t => s.Same t ∧ t.testing = s.testing ∧
        asks s t i restore true ((s.plainUnit Config.officeKey (a.phys / 64)).take 64)) ∧
      (a.write = true → s.dram.wf = true → s.Does .openSlotService (.openSlotService a) fun t =>
        t.plainUnit Config.officeKey (a.phys / 64) = a.data ∧ (∀ x, x / 64 ≠ a.phys / 64 → t.dram.read x = s.dram.read x) ∧
        (∀ p ∈ t.poison, p.1 ≠ a.phys / 64) ∧ t.cores = s.cores ∧ t.parts = s.parts ∧
        (i + 1 < 2 ^ 20 → t.testing = s.testing ∧ asks s t (i + 1) restore false []) ∧
        (i + 1 = 2 ^ 20 → restore = false → t.testing = s.testing ∧ ∃ y ∈ t.due, y.clock = none ∧ s.gtc < y.due ∧
          y.who = testDone ∧ y.what = .selfTest st ch bank pass) ∧
        (i + 1 = 2 ^ 20 → restore = true → g ∉ t.testing ∧ (∀ k ∈ s.testing, k ≠ g → k ∈ t.testing) ∧
          (pass = false → t.Later none s.gtc (.errorLasting (.dramBank st ch bank)))))) ∧
  ∀ s : State,
  (∀ c, c < 384 →
    ((∀ q ∈ s.parts, q.parked = none → c ∉ q.cores) → s.Does .coreReset (.coreReset c) fun t =>
      t.ctx c = Ctx.reset ∧ (t.core c).spad = (s.core c).spad ∧ (t.core c).wasReset = true ∧
      (∀ k, k ≠ c → t.core k = s.core k) ∧ t.parts = s.parts ∧ t.dram = s.dram) ∧
    ∀ q ∈ s.parts, q.parked = none → c ∈ q.cores → s.Does .coreReset (.coreReset c) fun t => s.Same t) ∧
  ∀ c gate, c < 384 → s.Does .coreGating (.coreGating c gate) fun t => s.Alters t c fun x =>
    { x with life := if gate = true ∧ x.life = .idle then .gated else if gate = false ∧ x.life = .gated then .idle
      else x.life }

/-- R355 to R363: the handover of a service, state by state: an image that passes the checks of R355 is staged; an order
begins its QUIESCE, which is abandoned when it runs out; the record, its header of R356 and the tagged entries, starts the new
image's IMPORT in the other slot, with a first heartbeat due in 20 ms; a heartbeat begins PROBATION for 2 s, which a further
heartbeat keeps. A missed heartbeat in IMPORT or PROBATION, an image that gives up and a full journal end in FALLBACK, whose
first heartbeat sets aside the entries above its schema and runs the old image, and whose missed one is FAILED; a service that
failed is ordered anew and restarts in the image staged for it, on the record it has and under the next handover number (what
it imports is log entry 43; R358 says only that a later handover is ordered). A heartbeat in the cycle of its deadline is in
time. The end of PROBATION commits for a cycle, then runs: the measurement log takes the running image's header, and the event
stands in pigeonhole 127. The journal takes entries the old image can read. A write of HBMON sets ARMED alone, which RUN keeps
clear. A quote answers its function, but not in recovery mode (R402). -/
def Obligations.HandoverSteps : Prop := ∀ (s : State) (v : Service),
  let x := s.svc v
  let frame (t : State) : Prop := t.cores = s.cores ∧ t.dram = s.dram ∧ t.launches = s.launches ∧ t.gtc = s.gtc ∧
    ∀ u, u ≠ v → t.svc u = s.svc u
  -- the same of a step that makes `n` facts of the prefect (R362), which a prefect in probation journals (R357)
  let noted (n : Nat) (t : State) : Prop := t.cores = s.cores ∧ t.dram = s.dram ∧ t.launches = s.launches ∧ t.gtc = s.gtc ∧
    ∀ u, u ≠ v → (u ≠ .prefect ∨ (s.svc u).state ≠ .probation → t.svc u = s.svc u) ∧
      (u = .prefect → (s.svc u).state = .probation → (s.svc u).journal.length + n ≤ 65536 → ∃ es : List JournalEntry,
        es.length = n ∧ t.svc u = { s.svc u with journal := (s.svc u).journal ++ es })
  let imported (y : Svc) (r : List Byte) : Svc :=
    { y with state := .import_, slot := 1 - y.slot, armed := true, record := r, journal := [], probationEnd := none,
             held := true, deadline := some (s.gtc + 21000000) }
  let back (y : Svc) : Svc := { y with state := .fallback, slot := 1 - y.slot, held := true, probationEnd := none,
                                       deadline := some (s.gtc + 21000000) }
  let event (t : State) (kind : Nat) : Prop := t.offev.toNat / 2 ^ 24 = kind ∧ t.offev.toNat / 2 ^ 20 % 2 ^ 4 = v.idx + 1 ∧
    t.offev.toNat % 2 ^ 16 = (s.offev.toNat + 1) % 2 ^ 16 ∧
    (∀ f, f < 64 → Reply.signal f 1 ∈ t.out) ∧
    t.parts = s.parts.map fun q => { q with pigLive := q.pigLive.setIfInBounds 127 t.offev }
  let extended (t : State) : Prop := t.mlog = shake256 (s.mlog ++ shake256 (x.running.take 128))
  let missed (P : State → Prop) : Prop := ∀ d, x.armed = true → x.deadline = some d → d ≤ s.gtc →
    s.beatNow v = false → s.Does .heartbeatDeadline (.heartbeatDeadline v) P
  (∀ im, x.state = .run → s.Does .imageStage (.imageStage v im) fun t => frame t ∧
    t.svc v = if x.accepts v im = true
      then { x with images := x.images.setIfInBounds (1 - x.slot) im, state := .staged } else x) ∧
  (s.session = true → x.state = .staged → s.Does .handoverOrder (.handoverOrder v) fun t =>
    t.svc v = { x with state := .quiesce, held := true, seq := x.seq + 1 } ∧ frame t ∧
    t.Later none (s.gtc + 31500000) (.quiesceTimeout v)) ∧
  (s.session = true → x.state = .failed → x.other ≠ [] → s.Does .handoverOrder (.handoverOrder v) fun t =>
    t.svc v = imported { x with seq := x.seq + 1 } x.record ∧ frame t ∧
    t.Later none (s.gtc + 21000000) (.heartbeatDeadline v)) ∧
  (s.session = false → s.Does .handoverOrder (.handoverOrder v) fun t => t = s.doing (.handoverOrder v)) ∧
  (∀ entries, x.state = .quiesce → s.Does .handoverRecordComplete (.handoverRecordComplete v entries) fun t =>
    ∃ h body : List Byte, h.length = 128 ∧ t.svc v = imported x (h ++ body) ∧ body = (entries.flatMap fun e =>
      leBytes 2 e.type ++ leBytes 2 e.schema ++ leBytes 4 e.data.length ++ e.data ++
        List.replicate ((8 - e.data.length % 8) % 8) 0) ∧
      (let bytes (first n : Nat) : Nat := leNat ((h.drop first).take n)
       bytes 0 4 = 0x4443524B ∧ bytes 4 5 = 0 ∧ bytes 9 1 = v.idx + 1 ∧ bytes 10 2 = leNat ((x.running.drop 12).take 2) ∧
       bytes 12 4 = body.length % 2 ^ 32 ∧ bytes 16 4 = x.seq % 2 ^ 32 ∧ bytes 20 8 = s.gtc % 2 ^ 64 ∧ bytes 28 36 = 0 ∧
       h.drop 64 = shake256 body) ∧ frame t ∧
    t.Later none (s.gtc + 21000000) (.heartbeatDeadline v)) ∧
  (x.state = .quiesce → s.Does .quiesceTimeout (.quiesceTimeout v) fun t =>
    t.svc v = { x with state := .run, record := [], armed := false } ∧ noted 1 t ∧ event t 3) ∧
  (∀ im : List Byte,
    let bytes (im : List Byte) (first n : Nat) : Nat := leNat ((im.drop first).take n)
    let body := im.drop 3437
    (x.accepts v im = true ↔ bytes im 0 4 = 0x474D494B ∧ bytes im 4 1 = v.idx + 1 ∧ bytes im 5 3 = 0 ∧ bytes im 88 40 = 0 ∧
      bytes im 16 4 = body.length ∧ 1 ≤ body.length ∧ body.length ≤ 4194304 ∧ (im.drop 24).take 64 = shake256 body ∧
      Config.mldsaVerify Config.imageKey (shake256 (im.take 128)) ((im.drop 128).take 3309) = true ∧
      x.floor ≤ bytes im 8 4 ∧ bytes im 14 2 ≤ bytes x.running 12 2) ∧
    ∀ r : List Byte, importable im r = true ↔
      (r.drop 64).take 64 = shake256 ((r.drop 128).take (bytes r 12 4)) ∧ bytes im 14 2 ≤ bytes r 10 2) ∧
  (x.state = .import_ → importable x.running x.record = true → s.Does .heartbeat (.heartbeat v none) fun t =>
    t.svc v = { x with state := .probation, probationEnd := some (s.gtc + 2100000000),
                       deadline := some (s.gtc + 5250000) } ∧ frame t ∧
    t.Later none (s.gtc + 2100000000) (.probationCommit v) ∧ t.Later none (s.gtc + 5250000) (.heartbeatDeadline v)) ∧
  (x.state = .probation → s.Does .heartbeat (.heartbeat v none) fun t =>
    t.svc v = { x with deadline := some (s.gtc + 5250000) } ∧ frame t) ∧
  (x.state = .fallback → s.Does .heartbeat (.heartbeat v none) fun t =>
    t.svc v = { x with state := .run, armed := false, deadline := none, probationEnd := none, journal := [] } ∧ noted 2 t ∧
    event t 2 ∧ extended t ∧ t.flash = s.flash ++ (x.journal.filter fun e => decide (imageSchema x.running < e.schema)).map
      fun e => FlashEntry.setAside e.seq e.index e.type e.schema) ∧
  (∀ w : Word, s.Does .heartbeat (.heartbeat v (some w)) fun t =>
    t.svc v = { x with armed := w.getLsbD 10 && x.state != .run } ∧ frame t ∧ t.due = s.due) ∧
  (x.state = .import_ ∨ x.state = .probation → missed fun t => frame t ∧ t.svc v = back { x with misses := min 255 (x.misses + 1) } ∧
    t.Later none (s.gtc + 21000000) (.heartbeatDeadline v)) ∧
  (x.state = .fallback → missed fun t => noted 1 t ∧ event t 4 ∧
    t.svc v = { x with state := .failed, held := true, misses := min 255 (x.misses + 1), deadline := none }) ∧
  (s.beatNow v = true ∨ x.armed = false → s.Does .heartbeatDeadline (.heartbeatDeadline v) fun t =>
    t = s.doing (.heartbeatDeadline v)) ∧
  (x.state = .probation → s.Does .abandonRequest (.abandonRequest v) fun t => t.svc v = back x ∧ frame t) ∧
  (∀ e, x.state = .probation → s.Does .journalAppend (.journalAppend v e) fun t => frame t ∧
    t.svc v = if e.essential = true ∧ recordSchema x.record < e.schema then x
      else if 65536 ≤ x.journal.length then back x
      else { x with journal := x.journal ++ [{ e with seq := x.seq, index := x.journal.length }] }) ∧
  (∀ d, x.state = .probation → x.probationEnd = some d → d ≤ s.gtc → s.Does .probationCommit (.probationCommit v) fun t =>
    t.svc v = { x with state := .commit, images := x.images.setIfInBounds (1 - x.slot) [], armed := false, deadline := none,
                       probationEnd := none, floor := max x.floor (imageFloor x.running), journal := [] } ∧ noted 2 t ∧
    event t 1 ∧ extended t ∧ t.Later none (s.gtc + 1) (.probationCommit v)) ∧
  (x.state = .commit → s.Does .probationCommit (.probationCommit v) fun t =>
    t.svc v = { x with state := .run, armed := false } ∧ frame t ∧ t.due = s.due) ∧
  (s.recovery = true → ∀ fn nonce, s.Does .quoteRequest (.quoteRequest fn nonce) fun t =>
    t = s.doing (.quoteRequest fn nonce)) ∧
  ∀ fn n nonce, s.recovery = false → (s.fn fn).tenant = some n → (∀ k, k < 3 → s.holds k = false) →
    s.Does .quoteRequest (.quoteRequest fn nonce) fun t => s.Same t ∧ t.out = s.out ++ [.quote fn (s.quote n nonce)]

/-! ### The host port and the management port -/

/-- R253 to R255, R394 to R401: what a function's accesses do when none of the host's waits before them and the window has
applied no write in this cycle, and what its window accesses leave for open slots; an unmapped byte, or a read or write that
its entry does not permit, moves nothing. A GO write waits for its function's device-memory writes, a pigeonhole write for all
of the host's. An access that finds others waiting joins the end of their queue, and one that must wait begins it, to be tried
a cycle later in its turn (one order for all functions, one write in a cycle: log entry 44). In recovery mode nothing is
answered (R402). R401: a group's ready member is admitted for an agreed bell, two periods ahead at least, in its first variant
that fits and claims the slots that the neighbours' members claim on the facing ports (R380), and the turn passes to its
tenant (R220); a write of EVTAIL is taken unless it lies ahead of EVHEAD (modulo 2^32: log entry 44); a member is refused, or
fails, with its group. -/
def Obligations.HostSteps : Prop := ∀ (s : State) (fn : Nat), fn < 64 →
  let only (t : State) (f : Func → Func) : Prop := s.Same t ∧ t.fn fn = f (s.fn fn) ∧ (∀ k, k ≠ fn → t.fn k = s.fn k) ∧
    t.due = s.due
  let still (P : OpenAccess → Prop) : Prop := ∀ a ∈ s.openUnits, a.use = .host → a.write = true → ¬ P a
  let first : Prop := s.recovery = false ∧ s.hostQueue = [] ∧ s.cur.who ≠ hostTurn ∧ s.applied ≠ some s.gtc
  let each (P : Instr → Work → Prop) : Prop := ∀ (v : Word) (p n off len : Nat) (data : List Byte),
    P .submissionGo (.submissionGo fn v) ∧ P .evtailWrite (.evtailWrite fn v) ∧
    P .pigeonholePageWrite (.pigeonholePageWrite fn p n v) ∧ P .hostRegisterWrite (.hostRegisterWrite fn off v) ∧
    P .deviceWindowRead (.deviceWindowRead fn off len) ∧ P .deviceWindowWrite (.deviceWindowWrite fn off data)
  each (fun i w =>
    (s.recovery = true → s.Does i w fun t => t = s.doing w) ∧
    (s.recovery = false → s.cur.who ≠ hostTurn → s.hostQueue ≠ [] → s.Does i w fun t =>
      t = { s.doing w with hostQueue := s.hostQueue ++ [w] }) ∧
    (s.recovery = false → s.cur.who ≠ hostTurn → s.hostQueue = [] → s.hostWaits w = true → s.Does i w fun t =>
      t.hostQueue = [w] ∧ s.Same t ∧ t.fns = s.fns ∧
      ∃ x ∈ t.due, x.clock = none ∧ x.due = s.gtc + 1 ∧ x.who = hostTurn ∧ x.what = w)) ∧
  (first → still (fun a => a.fn = fn) → (∀ x ∈ s.launches, x.sub ≤ s.subCount) → ∀ (v : Word) (n : Nat), (s.fn fn).tenant = some n →
    let members := v.toNat / 2 ^ 12 % 2 ^ 10
    let bad : Prop := v.toNat / 2 ^ 22 % 2 ^ 9 ≠ 0 ∨ (s.fn fn).sublo.toNat % 64 ≠ 0 ∨ members = 1 ∨ 512 < members
    s.Does .submissionGo (.submissionGo fn v) fun t => ∃ l : Launch, t.launches = s.launches ++ [l] ∧
      l.sub = s.subCount + 1 ∧ l.fn = fn ∧ l.tenant = n ∧
      l.image = (s.fn fn).sublo.toNat + 2 ^ 32 * (s.fn fn).subhi.toNat ∧ l.len = (s.fn fn).sublen.toNat ∧
      l.members = members ∧ (t.fn fn).seq = l.sub % 2 ^ 16 ∧ t.subCount = l.sub ∧ t.parts = s.parts ∧ t.cores = s.cores ∧
      (¬ bad → l.state = .reading ∧ l.malformed = false) ∧
      (bad → s.holds 1 = false → (s.svc .registrar).journal.length < 65536 → l.state = .refused)) ∧
  (first → (∀ v : Word, ((s.fn fn).evhead + 2 ^ 32 - v.toNat) % 2 ^ 32 ≤ 2 ^ 31 →
      s.Does .evtailWrite (.evtailWrite fn v) fun t => only t fun f => { f with evtail := v.toNat }) ∧
    (∀ v : Word, 2 ^ 31 < ((s.fn fn).evhead + 2 ^ 32 - v.toNat) % 2 ^ 32 →
      s.Does .evtailWrite (.evtailWrite fn v) fun t => only t id) ∧
    (∀ (q : Part) (n : Nat) (v : Word), still (fun _ => True) → s.part q.num = some q →
      s.Does .pigeonholePageWrite (.pigeonholePageWrite fn q.num n v) fun t =>
        (t.part q.num = if n < 64 ∧ (s.fn fn).tenant = some q.tenant
          then some { q with pigLive := q.pigLive.setIfInBounds n v } else some q) ∧
        (∀ p, p ≠ q.num → t.part p = s.part p) ∧ t.cores = s.cores ∧ t.dram = s.dram ∧ t.due = s.due) ∧
    ∀ v : Word,
      (s.Does .hostRegisterWrite (.hostRegisterWrite fn 0x0 v) fun t => only t fun f => { f with sublo := v }) ∧
      (s.Does .hostRegisterWrite (.hostRegisterWrite fn 0x4 v) fun t => only t fun f => { f with subhi := v }) ∧
      s.Does .hostRegisterWrite (.hostRegisterWrite fn 0x8 v) fun t => only t fun f => { f with sublen := v }) ∧
  (first →
    let leaves (i : Instr) (w : Work) (write : Bool) (ps : List (List Byte × Nat × MapEntry)) : Prop :=
      s.Does i w fun t => s.Same t ∧ t.out = s.out ∧ ∀ x ∈ ps, ∃ a : OpenAccess, a.fn = fn ∧ a.use = .host ∧
        a.write = write ∧ a.slot = none ∧ a.data = x.1 ∧ a.phys + a.first = x.2.1 ∧ a.phys % 64 = 0 ∧
        a.first + x.1.length ≤ 64 ∧ t.Later none s.gtc (.openSlotService a)
    (∀ off len ps, s.mapPieces fn off (List.replicate len 0) = some ps → (∀ x ∈ ps, x.2.2.rd = true) →
      leaves .deviceWindowRead (.deviceWindowRead fn off len) false ps) ∧
    (∀ off data ps, s.mapPieces fn off data = some ps → (∀ x ∈ ps, x.2.2.wr = true) →
      (ps.map (·.1)).flatten = data ∧ leaves .deviceWindowWrite (.deviceWindowWrite fn off data) true ps) ∧
    (∀ off len ps x, s.mapPieces fn off (List.replicate len 0) = some ps → x ∈ ps → x.2.2.rd = false →
      s.Does .deviceWindowRead (.deviceWindowRead fn off len) fun t => s.Same t ∧ t.out = s.out ++ [.unsupported fn]) ∧
    (∀ off data ps x, s.mapPieces fn off data = some ps → x ∈ ps → x.2.2.wr = false →
      s.Does .deviceWindowWrite (.deviceWindowWrite fn off data) fun t => only t fun f => { f with aer := f.aer + 1 }) ∧
    ∀ off len i (data : List Byte), i < len → data.length = len →
      (∀ e ∈ (s.fn fn).map, ¬ (e.2.off ≤ off + i ∧ off + i < e.2.off + e.2.len)) →
      (s.Does .deviceWindowRead (.deviceWindowRead fn off len) fun t => s.Same t ∧ t.out = s.out ++ [.unsupported fn]) ∧
      s.Does .deviceWindowWrite (.deviceWindowWrite fn off data) fun t => s.Same t ∧ t.out = s.out ++ [.unsupported fn]) ∧
  (∀ (g bell : Nat) (l : Launch) (vn : Nat) (v : Variant) (y : Syllabus) (facing : List (Nat × Nat × Nat)), s.holds 1 = false → (s.launches.map Launch.sub).Nodup →
    (s.svc .registrar).journal.length < 65536 →
    bell % 4032 = 0 → s.gtc + 8064 ≤ bell → v.links = [] ∨ s.holds 2 = false ∧ (s.svc .porter).journal.length < 65536 →
    (s.launches.filter fun l => l.members != 0 && l.group == g && !l.state.settled).find? s.isReady = some l →
    (let same (w : Variant) : Prop := ∀ p k,
       (∃ c ∈ w.links, c.1 = p ∧ c.2.1 ≤ k ∧ k < c.2.1 + c.2.2) ↔ ∃ c ∈ facing, c.1 = p ∧ c.2.1 ≤ k ∧ k < c.2.1 + c.2.2
     l.syl = some y ∧ same v ∧ s.fits s.avail l v = true ∧ ∃ before after, y.variants = before ++ (vn, v) :: after ∧
       ∀ x ∈ before, s.fits s.avail l x.2 = false ∨ ¬ same x.2) → (∃ n, 1 ≤ n ∧ n ≤ 96 ∧ s.part n = none) →
    s.Does .groupAgreement (.groupAgreement g bell true facing) fun t => ∃ q : Part, t.part q.num = some q ∧
      s.part q.num = none ∧ q.sub = l.sub ∧ q.variant = vn ∧ q.status = .loaded ∧
      (t.launch l.sub).map Launch.state = some .admitted ∧ (l.level < 4 → t.lastTenant[l.level]? = some l.tenant) ∧ t.Later none bell (.partitionStart q.num)) ∧
  ∀ g bell facing, s.holds 1 = false → (s.launches.map Launch.sub).Nodup →
    (s.svc .registrar).journal.length + s.launches.length ≤ 65536 →
    s.Does .groupAgreement (.groupAgreement g bell false facing) fun t =>
      ∀ l ∈ s.launches, l.members ≠ 0 → l.group = g →
        (l.state = .reading ∨ l.state = .queued → (t.launch l.sub).map Launch.state = some .refused) ∧
        (l.state = .admitted → ∀ q, s.part q.num = some q → q.sub = l.sub →
          ∃ x, t.part q.num = some x ∧ x.mustFail = true ∧ x.order.isSome = true)

/-- R239, R393, R395, R400, R402, R403, R409: bring-up that passes its checks leaves the module ready, its clock, measurement
log and bell set, and one that fails leaves it in recovery mode; the commands of the management port, taken only within a
session under the operator key and held while the prefect holds its work, or falls back because its journal is full (R357; log
entry 43), and then made whether or not the session lasts (R359; log entry 44); what the operator reads, and with the input
power and the coolant temperature the baseboard, at any time (R268, R405). A new tenant's dump area lies apart from every
other's (its place and length are log entry 38); a function goes to one tenant with nothing of the one before but the counts
of its event entries (R395), PF0 and a function in use stay (log entry 44); a key that a running launch names stays; a host
map loses its entries on groups taken away. -/
def Obligations.ManagementSteps : Prop := ∀ s : State,
  (∀ b : BringUp, s.ready = false → s.recovery = false →
    (b.ok = true → s.Does .bringUp (.bringUp b) fun t =>
      t.ready = true ∧ t.recovery = false ∧ t.gtc = b.gtc ∧ t.coords = b.coords ∧ t.extents = b.extents ∧
      t.mlog = b.log ∧ t.cores = s.cores ∧ t.dram = s.dram ∧
      (∀ p : Fin 6, t.ports[p].mode = if b.hostPort = some p.val then .host
        else if 1 < (if p.val < 2 then b.extents.1 else if p.val < 4 then b.extents.2.1 else b.extents.2.2)
          then .torus else .untrained) ∧
      ∃ g, b.gtc ≤ g ∧ g < b.gtc + 4032 ∧ g % 4032 = 0 ∧ t.Later none g .bell) ∧
    (b.ok = false → s.Does .bringUp (.bringUp b) fun t => t = { s.doing (.bringUp b) with recovery := true })) ∧
  (let commands (P : Instr → Work → Prop) : Prop := ∀ n fn i e slot key gs,
     P .createTenant (.createTenant n) ∧ P .assignFunction (.assignFunction fn n) ∧ P .setHostMap (.setHostMap fn i e) ∧
     P .provisionKeySlot (.provisionKeySlot n slot key) ∧ P .assignChannelGroups (.assignChannelGroups n gs) ∧
     P .readFlashLog .readFlashLog ∧ P .setIdeKeys (.setIdeKeys key) ∧ P .readTelemetry (.readTelemetry false)
   (s.session = false → s.cur.who ≠ accepted → commands fun i w => s.Does i w fun t => t = s.doing w) ∧
   (s.session = true ∨ s.cur.who = accepted → s.holds 0 = true → commands fun i w => s.Does i w fun t => s.Same t ∧ t.tenants = s.tenants ∧
     t.fns = s.fns ∧ t.out = s.out ∧ ∃ x : Timed, x.what = w ∧ x.who = accepted ∧ t.heldWork = s.heldWork ++ [(0, x)])) ∧
  (s.session = true ∨ s.cur.who = accepted → s.holds 0 = false → (s.svc .prefect).journal.length < 65536 →
    (∀ n, (∀ x ∈ s.tenants, x.num ≠ n) → s.Does .createTenant (.createTenant n) fun t => s.Same t ∧
      ∃ x, t.tenants = s.tenants ++ [x] ∧ x.num = n ∧ x.groups = [] ∧ x.keys = [] ∧ x.dump % 2 ^ 34 < 2 ^ 26 ∧
        ∀ y ∈ s.tenants, 0 < y.dumpLen → 0 < x.dumpLen → parkIndex x.dump + x.dumpLen ≤ parkIndex y.dump ∨
          parkIndex y.dump + y.dumpLen ≤ parkIndex x.dump) ∧
    (∀ fn n, fn < 64 →
      (fn ≠ 0 → (s.fn fn).tenant ≠ some n → s.fnInUse fn = false →
        s.Does .assignFunction (.assignFunction fn n) fun t => s.Same t ∧
          t.fn fn = { Func.reset with tenant := some n, evhead := (s.fn fn).evhead, evtail := (s.fn fn).evtail, evlost := (s.fn fn).evlost } ∧ ∀ k, k ≠ fn → t.fn k = s.fn k) ∧
      (fn = 0 ∨ s.fnInUse fn = true → s.Does .assignFunction (.assignFunction fn n) fun t =>
        t = s.doing (.assignFunction fn n))) ∧
    (∀ fn i e, fn < 64 →
      (s.mapOk fn i e = true → s.Does .setHostMap (.setHostMap fn i e) fun t => s.Same t ∧
        (∀ k x, (k, x) ∈ (t.fn fn).map ↔ if k = i then x = e else (k, x) ∈ (s.fn fn).map) ∧
        ∀ k, k ≠ fn → t.fn k = s.fn k) ∧
      (s.mapOk fn i e = false → s.Does .setHostMap (.setHostMap fn i e) fun t => t = s.doing (.setHostMap fn i e))) ∧
    (∀ n slot key, slot < 64 →
      (s.keyFixed n slot = false → s.Does .provisionKeySlot (.provisionKeySlot n slot key) fun t =>
        s.Same t ∧ (∀ x ∈ s.tenants, x.num = n → t.keyOf n slot = key) ∧
        ∀ m k, (m ≠ n ∨ k ≠ slot) → t.keyOf m k = s.keyOf m k) ∧
      (s.keyFixed n slot = true → s.Does .provisionKeySlot (.provisionKeySlot n slot key) fun t => t.tenants = s.tenants)) ∧
    (∀ n gs, s.Does .assignChannelGroups (.assignChannelGroups n gs) fun t => s.Same t ∧
      t.tenants.length = s.tenants.length ∧
      (∀ x ∈ t.tenants, x.num = n → x.groups.Nodup ∧ ∀ g, g ∈ x.groups ↔ g ∈ gs ∧ g < 32) ∧
      ∀ fn, fn < 64 → (t.fn fn).map = if (s.fn fn).tenant = some n
        then (s.fn fn).map.filter (fun e => e.1 == 15 || gs.contains (e.2.phys / 2 ^ 34 % 32)) else (s.fn fn).map) ∧
    (s.Does .readTelemetry (.readTelemetry false) fun t => s.Same t ∧ ∃ ws : List Word, t.out = s.out ++ [.telemetry ws] ∧
      ws.length = 12 ∧ (∀ i, i < 8 → ws.getD i 0 = s.tstackOf i) ∧ ∀ d, d < 4 → ws.getD (8 + d) 0 = (s.die d).tdie) ∧
    (s.Does .readFlashLog .readFlashLog fun t => s.Same t ∧ t.out = s.out ++ [.flash s.flash]) ∧
    ∀ k, s.Does .setIdeKeys (.setIdeKeys k) fun t => s.Same t ∧ t.ideKeys = k ∧ t.due = s.due) ∧
  (s.session = true ∨ s.cur.who = accepted → s.holds 0 = false → (s.svc .prefect).state = .probation → 65536 ≤ (s.svc .prefect).journal.length →
    ∀ n, (∀ x ∈ s.tenants, x.num ≠ n) → s.Does .createTenant (.createTenant n) fun t => s.Same t ∧ t.tenants = s.tenants ∧
      (t.svc .prefect).state = .fallback ∧ t.holds 0 = true ∧ ∃ x : Timed, x.what = .createTenant n ∧ x.who = accepted ∧
        t.heldWork = s.heldWork ++ [(0, x)]) ∧
  (s.Does .readTelemetry (.readTelemetry true) fun t => s.Same t ∧ ∃ ws : List Word,
    t.out = s.out ++ [.telemetry ([s.inputPower, s.coolant] ++ ws)] ∧ ws.length = 12 ∧
    (∀ i, i < 8 → ws.getD i 0 = s.tstackOf i) ∧ ∀ d, d < 4 → ws.getD (8 + d) 0 = (s.die d).tdie)

/-! ### The step -/

/-- R7, R27, R28: while slots of a bundle remain, a step executes the instruction that the next slot's word decodes to, on the
machine with that slot entered; a word that decodes to none is fault 0x01 of the core. R1 to R3: with no slot left, a step
executes the pending step of least place among those due in the present cycle, the earlier scheduled on a tie, and takes it
from the pending ones (the places of the kinds of step are the model's, log entry 2); a landing stands among the appends of
the link, in slot order (R388), and any other step where it was scheduled; with none due, the cycle ends and GTC runs on by
one. -/
def Obligations.StepRunsTheDecoded : Prop :=
  (∀ (s : State) (slot : Nat) (rest : List Nat), s.on = true →
  s.cur.todo = slot :: rest →
  let s' : State := { s with cur := { s.cur with who := { s.cur.who with src := slot }, slot := slot, todo := rest } }
  (∀ i, decodeSlot (slotKindOf slot) (s.myCtx.word slot) = .ok i → step s = exec i s') ∧
  ∀ e, decodeSlot (slotKindOf slot) (s.myCtx.word slot) = .error e →
    ∃ t, step s = .next t ∧ s'.Raises t s.me 0x01 slot [BitVec.ofNat 32 (2 ^ slot), BitVec.ofNat 32 (s.myCtx.word slot)]) ∧
  (∀ s : State, s.on = true → s.cur.todo = [] →
  (∀ (before after : List Timed) (x : Timed), s.due = before ++ x :: after → s.isDue x = true →
    (∀ y ∈ before, s.isDue y = true → keyLt x.place y.place = true) →
    (∀ y ∈ after, s.isDue y = true → keyLt y.place x.place = false) →
    step s = exec x.what.instr { s with due := before ++ after,
                                        cur := { who := x.who, slot := 8, work := x.what, todo := [] } }) ∧
  (∀ x ∈ s.due, (∀ port slot l, x.what = .flitLanding port slot l → x.place = [20, 6, port, slot]) ∧
    ((∀ port slot l, x.what ≠ .flitLanding port slot l) → x.place = x.key)) ∧
  ((∀ x ∈ s.due, s.isDue x = false) → ∃ t, step s = .next t ∧ t.gtc = s.gtc + 1 ∧ t.dram = s.dram ∧ t.dies = s.dies ∧
    ∀ k, (t.core k).spad = (s.core k).spad))

/-- R25, R182, R322, R323: an instruction that meets conditions at its issue has no effect, and raises the lowest code among
them. The conditions, where no register or array word is uncorrectable, with their details (R406, R407): a queue read whose
queue has no row left is fault 0x14, one of a link queue in a solo region 0x19 subcode 5, and a poisoned row read in slot MX
0x30 (its words, the queue and t, are log entry 23, the count 0 of a queue that earlier slots of the bundle have emptied is
log entry 16); an MX instruction other than a beat meets 0x14 while a chain block is open, one whose stream format has another
depth than the active plane's 0x01, and the first CHB of a block that checks tags 0x13 when its row carries another mark; a
transfer that breaks the rules of delay bundles, filler, segment and loops is 0x01, and so is a loop whose body does not nest;
TRAP is 0x02, a late TCHK 0x11, a TWAIT whose T has come 0x10 subcode 2, and one inside a block, or beside a CHB that opens
one, 0x14; unequal BCHK counts are 0x12; what a solo region forbids is 0x19 subcode 1; a CKPT off its line is 0x10 subcode 8,
and the lowest rank of a line that not every running core issues has subcode 7, with the counts, quads and ranks of R407 (that
8 is judged before 7 is log entry 20); the sixty-fifth command and the ninth near-memory command are 0x14 (the model's
reading, log entry 33: a command whose last access falls in the cycle of issue still counts), and an NMFENCE before an earlier
command's end 0x10 subcode 6 (the model's choice, log entry 35: of several it names the earliest issued). R182: an empty MX
slot beside an open block is 0x14. R320: a marked word of a register or array that an instruction reads is 0x33, which names
the first such word (log entry 23), and no instruction of the bundle executes. An instruction that meets none of its
conditions is clear. -/
def Obligations.FaultAtIssue : Prop := ∀ s : State, (
  let conds (i : Instr) : List (Nat × List Word) := s.issueConds s.me s.t s.cur.slot s.myCtx (s.myCtx.word s.cur.slot) i
  let stops (i : Instr) : Prop := conds i ≠ [] → ∃ code d t, (code, d) ∈ conds i ∧ (∀ c ∈ conds i, code ≤ c.1) ∧
    exec i s = .next t ∧ s.Raises t s.me code s.cur.who.src d
  (∀ f : MXF, stops (.slatch f) ∧ stops (.sswap f) ∧ stops (.spush f) ∧ stops (.svpair f) ∧ stops (.vopa f) ∧
    stops (.vzero f) ∧ stops (.vdrain f) ∧ stops (.cbld f) ∧ stops (.chs f) ∧ stops (.chb f) ∧
    stops (.chn f) ∧ stops (.chsv f) ∧ stops (.chld f)) ∧
  (∀ f : XC, stops (.qpop f) ∧ stops (.qpeek f)) ∧
  (∀ f : SB, stops (.br f) ∧ stops (.call f) ∧ stops (.ret f) ∧ stops (.segj f)) ∧
  (∀ f : SL, stops (.loop f) ∧ stops (.loopi f)) ∧ (∀ f : SR, stops (.twait f)) ∧
  (∀ f : SY, stops (.trap f) ∧ stops (.solo f) ∧ stops (.pgwr f) ∧ stops (.barr f) ∧ stops (.bchk f) ∧
    stops (.acqsW f) ∧ stops (.acqsR f) ∧ stops (.relsW f) ∧ stops (.relsR f) ∧ stops (.spawn f) ∧ stops (.ckpt f)) ∧
  ∀ f : TEF, stops (.shp f) ∧ stops (.tagset f) ∧ stops (.xfer f) ∧ stops (.xferq f) ∧ stops (.xstore f) ∧
    stops (.tlist f) ∧ stops (.xred f) ∧ stops (.xacc f) ∧ stops (.xmc f) ∧ stops (.mkcfg f) ∧ stops (.pptld f) ∧
    stops (.vbmld f) ∧ stops (.nmc f) ∧ stops (.nmfence f) ∧ stops (.lsend f) ∧ stops (.lfwd f)) ∧
  ((s.core s.me).regBad = [] → (s.core s.me).mxBad = [] →
  let x := s.myCtx
  let m := x.mx
  let slot := s.cur.slot
  let num (n : Nat) : Word := BitVec.ofNat 32 n
  let hi (n : Nat) : Word := BitVec.ofNat 32 (n / 2 ^ 32)
  let ww := num (x.word slot)
  let only (i : Instr) (ms : List (Prop × Nat × List Word)) : Prop :=
    ((∃ e ∈ ms, e.1) → ∃ e ∈ ms, e.1 ∧ (∀ e' ∈ ms, e'.1 → e.2.1 ≤ e'.2.1) ∧
      ∃ t, exec i s = .next t ∧ s.Raises t s.me e.2.1 s.cur.who.src e.2.2) ∧
    ((∀ e ∈ ms, ¬ e.1) → s.Clear i)
  let bad (p : Prop) : Prop × Nat × List Word := (p, 0x01, [num (2 ^ slot), ww])
  let solo : Prop × Nat × List Word := (x.solo ≠ none, 0x19, [1, num slot, ww])
  let shut : Prop × Nat × List Word := (m.isOpen = true, 0x14, [num m.blockCounter, num m.openBeats, ww])
  let reads (rs : List (Nat × Bool)) : List (Prop × Nat × List Word) := (List.range rs.length).flatMap fun j =>
    let q (i : Nat) : Nat := (rs.getD i (0, false)).1
    let row (i : Nat) : Option Row :=
      ((x.queue (q i)).drop ((rs.take i).filter fun r => r.1 == q i && !r.2).length).head?
    let link (i : Nat) : Prop := 4 ≤ q i ∧ q i ≤ 9
    [(x.solo ≠ none ∧ link j ∧ ∀ i, i < j → ¬ link i, 0x19, [5, num slot, num (q j)]),
     (row j = none ∧ ∀ i, i < j → row i ≠ none, 0x14, [num (q j), num s.t, 0]),
     (slot = 4 ∧ (∀ i, i < j → row i ≠ none ∧ (row i).bind Row.poison = none) ∧ (row j).bind Row.poison ≠ none, 0x30,
       [num (q j), num s.t])]
  (slot = 4 → ∀ f : MXF,
    let depth (n : Nat) : Nat := if n = 0 then 128 else if n ≤ 3 then 256 else 512
    let other := bad (depth f.fmt ≠ depth m.active.fmt)
    let e := (m.latched.toNat / 2 ^ 288 % 2 ^ 16 + m.blockCounter) % 2 ^ 16
    let head := (x.queue f.qa).head?
    let mark := head.bind Row.mark
    only (.slatch f) (shut :: reads [(f.qa, f.pa)]) ∧ only (.sswap f) [shut] ∧
    only (.spush f) (other :: shut :: reads [(f.qa, f.pa)]) ∧ only (.vopa f) (shut :: reads [(f.qa, f.pa), (f.qb, f.pb)]) ∧
    only (.svpair f) (other :: shut :: reads [(f.qa, f.pa), (f.qb, f.pb), (f.qc, f.pc)]) ∧
    only (.vzero f) [shut] ∧ only (.vdrain f) [shut] ∧ only (.cbld f) (shut :: reads [(f.qa, f.pa)]) ∧
    only (.chs f) [shut] ∧ only (.chn f) [shut] ∧ only (.chsv f) [shut] ∧
    only (.chld f) (shut :: reads [(f.qa, f.pa)]) ∧ only (.sshift f) [] ∧
    only (.chb f) (other :: (m.latched.getLsbD 265 = true ∧ m.isOpen = false ∧ head ≠ none ∧ mark ≠ some e, 0x13,
      [num f.qa, num e, num (mark.getD 0x10000)]) :: reads [(f.qa, f.pa)])) ∧
  (slot ≠ 4 →
    (∀ f : XC, only (.qpop f) (reads [(queueOf f.sfile f.sreg, false)]) ∧
      only (.qpeek f) (reads [(queueOf f.sfile f.sreg, true)])) ∧
    (let here := x.seq.idx
     let sx (n : Nat) : Int := if n < 2 ^ 19 then n else (n : Int) - 2 ^ 20
     let held : Prop := x.seq.inDelay = true ∨ x.seq.jump = true
     let leaves (target : Int) := bad (held ∨ x.seq.count ≤ here + 2 ∨ target < 0 ∨ x.seq.count ≤ target ∨
       ∃ l ls, x.seq.levels = l :: ls ∧ ¬ (l.first ≤ here ∧ here + 2 < l.last ∧ l.first ≤ target ∧ target ≤ l.last))
     (∀ f : SB, only (.br f) [leaves (here + sx f.off)] ∧ only (.call f) [leaves (here + sx f.off)] ∧
       only (.ret f) [leaves (x.rs 31).toNat] ∧ only (.segj f) [bad (held ∨ x.seq.levels ≠ [] ∨ x.seq.count ≤ here + 2 ∨
         x.seq.segOff + 16 * sx f.off < 0 ∨ 2 ^ 23 ≤ x.seq.segOff + 16 * sx f.off)]) ∧
     (∀ f : SL,
       let body := bad (held ∨ x.seq.count ≤ here + f.len + 1 ∨ ∃ l ∈ x.seq.levels, l.level = f.level ∨ here + 1 < l.first ∨
         l.last < here + f.len + 1)
       only (.loop f) [body] ∧ only (.loopi f) [body]) ∧
     ∀ f : SR,
       let T := (x.rs f.sb).toNat * 2 ^ 32 + (x.rs f.sa).toNat
       only (.tchk f) [(s.Takes f.g f.neg ∧ T < s.t, 0x11, [num T, hi T, num s.t])] ∧
       only (.twait f) [bad held, (s.Takes f.g f.neg ∧ T ≤ s.t, 0x10, [2, num T, hi T, num s.t]),
         (s.Takes f.g f.neg ∧ s.t + 1 < T ∧ ((m.isOpen = true ∧ m.openBeats ≠ 31) ∨
           (m.isOpen = false ∧ x.word 4 / 2 ^ 24 = 0x11)), 0x14, [num m.blockCounter, num m.openBeats, ww])]) ∧
    (∀ f : SY,
      let b := x.bars[f.sel]?.getD ⟨0, 0⟩
      only (.trap f) [(True, 0x02, [num f.sel])] ∧ only (.solo f) [solo] ∧ only (.pgwr f) [solo] ∧
      only (.barr f) [(x.solo ≠ none ∧ (x.rs f.sa).toNat % 2 ^ 16 ≠ s.rankOf s.me, 0x19, [1, num slot, ww])] ∧
      only (.bchk f) [(b.expected ≠ b.count, 0x12, [num f.sel, b.expected.zeroExtend 32, b.count.zeroExtend 32])] ∧
      only (.acqsW f) [solo] ∧ only (.acqsR f) [solo] ∧ only (.relsW f) [solo] ∧ only (.relsR f) [solo] ∧
      only (.spawn f) [solo] ∧
      ∀ q, s.part (s.partOf s.me) = some q →
        let did := (s.lineSplit q s.t).1
        let didnt := (s.lineSplit q s.t).2
        did.Pairwise (· < ·) ∧ didnt.Pairwise (· < ·) ∧ (∀ r ∈ did, r ∉ didnt) ∧
        (∀ r, r ∈ did ++ didnt ↔ ∃ c, q.cores[r]? = some c ∧ (s.ctx c).life = .running) ∧
        (∃ w : Nat → Word, splitDetail did didnt = [7, num didnt.length, num did.length, w 3, w 4, w 5, w 6, w 7] ∧
          (∀ j b, j < 3 → b < 32 → ((w (3 + j)).getLsbD b = true ↔ ∃ r ∈ didnt, r / 4 = 32 * j + b)) ∧
          ∀ lo hi, lo ∈ didnt → hi ∈ didnt → (∀ r ∈ didnt, lo ≤ r ∧ r ≤ hi) → w 6 = num lo ∧ w 7 = num hi) ∧
        only (.ckpt f) [solo, (s.t % 4032 ≠ 0, 0x10, [8]),
          (s.t % 4032 = 0 ∧ didnt ≠ [] ∧ did.head? = some (s.rankOf s.me), 0x10, splitDetail did didnt)]) ∧
    ∀ f : TEF,
      let full (op : Nat) : List (Prop × Nat × List Word) :=
        [solo, (64 ≤ ((s.core s.me).te.filter fun r => s.t ≤ r.last).length, 0x14, [64, num op])]
      only (.shp f) [solo] ∧ only (.tagset f) [solo] ∧ only (.xfer f) (full 0x08) ∧ only (.xferq f) (full 0x09) ∧
      only (.xstore f) (full 0x0A) ∧ only (.tlist f) (full 0x0B) ∧ only (.xred f) (full 0x10) ∧ only (.xacc f) (full 0x11) ∧
      only (.xmc f) (full 0x12) ∧ only (.mkcfg f) (full 0x18) ∧ only (.pptld f) (full 0x19) ∧ only (.vbmld f) (full 0x1A) ∧
      only (.lsend f) (full 0x28) ∧ only (.lfwd f) (full 0x29) ∧
      only (.nmc f) [solo, (8 ≤ ((s.core s.me).nm.filter fun n => s.t ≤ n.last).length, 0x14, [8])] ∧
      only (.nmfence f) (solo :: match (s.core s.me).nm.find? fun n => decide (n.issue < s.t) && decide (s.t ≤ n.last) with
        | some n => [(True, 0x10, [6, num n.start, num n.last])]
        | none => []))) ∧
  ∀ (q : Part) (c : Nat), s.part q.num = some q → c ∈ q.cores → s.partOf c = q.num → q.judged ≠ some (q.ttc s.gtc) →
    q.faultsNow = [] → q.joining = false → q.ttc s.gtc % 4032 ≠ 0 →
    (∀ x ∈ s.due, s.isDue x = true → ∀ k, x.what ≠ .bundleIssue k) →
    (s.ctx c).seq.next = .filler ∨ (∃ n, (s.ctx c).seq.next = .bundle n) →
    let y : Ctx := { s.ctx c with seq := (s.ctx c).seq.advance (q.ttc s.gtc) }
    let num (n : Nat) : Word := BitVec.ofNat 32 n
    let faults (code slot : Nat) (d : List Word) : Prop := s.Does .bundleIssue (.bundleIssue c) fun t =>
      t.cur.todo = s.cur.todo ∧ (∀ k, t.ctx k = s.ctx k) ∧ t.dram = s.dram ∧ (∀ x ∈ s.due, x ∈ t.due) ∧
      ∃ r f, t.part q.num = some r ∧ f ∈ r.faultsNow ∧ f.code = code ∧ f.src = slot ∧ f.rank = y.rank ∧ f.detail = d ∧
        (code = 0x33 → ∃ e ∈ t.errs, e.unit = .coreArrays c ∧ e.hard = true ∧ e.gtc = s.gtc)
    (y.mx.isOpen = true → y.word 4 = 0 → faults 0x14 4 [num y.mx.blockCounter, num y.mx.openBeats, 0]) ∧
    (∀ slot i, slot < 8 → y.word slot ≠ 0 → decodeSlot (slotKindOf slot) (y.word slot) = .ok i →
      let acts (g : Nat) (neg : Bool) : Prop := (g = 0 ∨ y.g.getLsbD g = true) ↔ neg = false
      let lost (regs : List (Nat × Nat)) : Prop := ∀ before file n k after, (s.core c).regBad = before ++ (file, n, k) :: after →
        let meets (b : Nat × Nat × Nat) : Prop := (b.1, b.2.1) ∈ regs ∧ b.2.2 < 256 ∧
          (b.1, b.2.1) ∉ [(0, 0), (1, 0), (11, 0), (12, 0)]
        meets (file, n, k) → (∀ b ∈ before, ¬ meets b) → faults 0x33 slot [num file, num n, num k]
      (∀ f : SR, acts f.g f.neg → i ∈ [.add f, .sub f, .and f, .or f, .xor f, .shl f, .shr f, .sar f, .min f, .max f, .minu f,
        .maxu f, .mul f, .mulh f, .mulhu f, .div f, .divu f, .rem f, .remu f, .cmpEq f, .cmpNe f, .cmpLt f, .cmpGe f, .cmpLtu f,
        .cmpGeu f] → lost [(0, f.sa), (0, f.sb)]) ∧
      (∀ f, i = .ldw f ∨ i = .ldv f → acts f.g f.neg → lost [(1, f.ptr)]) ∧
      (∀ f, i ∈ [.fadd f, .fsub f, .fmul f, .fmin f, .fmax f, .iadd f, .isub f, .imul f, .vperm f] →
        lost [(slot + 1, f.va), (slot + 1, f.vb), (slot + 9, f.mask)]) ∧
      (∀ f, i = .fma f ∨ i = .fms f ∨ i = .fnma f →
        lost [(slot + 1, f.va), (slot + 1, f.vb), (slot + 1, f.vc), (slot + 9, f.mask)]) ∧
      (∀ f, i = .vli f → lost [(slot + 9, f.mask)]) ∧ (∀ f, i = .cpy f → lost [(f.sfile, f.sreg)]) ∧
      ∀ before b after, (s.core c).mxBad = before ++ b :: after → y.mx.isOpen = false → (s.core c).regBad = [] →
        let lies (x : Nat × Nat × Nat) : Prop := (∃ f, i = .vdrain f ∧ x.1 = 2 ∧ x.2.1 = y.mx.dp) ∨
          ∃ f, i = .chsv f ∧ x.1 = 3 ∧ x.2.1 = f.idx
        lies b → (∀ x ∈ before, ¬ lies x) → faults 0x33 slot [num b.1, num b.2.1, num b.2.2])

/-- R322, R323, R326, R338: at the end of a cycle each running partition that took a fault holds its records, the primary
(lowest code, then rank, then source) first, and is in recess at its present TTC, its running cores recessed, its TTC frozen,
its roll call 3072 cycles on; a partition that took none, and follows no member of a link group, is as it was, with its cores,
and so is every memory. -/
def Obligations.FaultEntersRecess : Prop := ∀ (s : State), (s.parts.map Part.num).Nodup → s.on = true → s.cur.todo = [] →
  (∀ x ∈ s.due, s.isDue x = false) →
  ∃ t, step s = .next t ∧ t.dram = s.dram ∧ (∀ c, (t.core c).spad = (s.core c).spad) ∧
    (∀ x ∈ s.parts, x.faultsNow = [] → x.joining = false → t.part x.num = some x) ∧
    (∀ c, (∀ x ∈ s.parts, x.faultsNow ≠ [] ∨ x.joining = true → c ∉ x.cores) → t.core c = s.core c) ∧
    ∀ (q : Part) (f : FaultNow), s.part q.num = some q → q.status = .running →
      q.recess = none → f ∈ q.faultsNow → q.faults.length + q.faultsNow.length ≤ 64 →
      (∀ g ∈ q.faultsNow, FaultNow.before g f = false) → (∀ c ∈ q.cores, c < 384) →
      (∀ x ∈ s.parts, x.num ≠ q.num → ∀ c ∈ x.cores, c ∉ q.cores) →
      ∃ r e, t.part q.num = some r ∧ r.status = .recessed ∧ r.recess = some e ∧
        e.e = q.ttc s.gtc ∧ e.gtcE = s.gtc ∧ e.cause = .fault ∧ e.primary = some q.faults.length ∧
        (∀ g, r.ttc g = q.ttc s.gtc) ∧ r.faultsNow = [] ∧
        r.faults.length = q.faults.length + q.faultsNow.length ∧ (∀ k, k < q.faults.length → r.faults[k]? = q.faults[k]?) ∧
        (∃ g ∈ q.faultsNow, FaultNow.before f g = false ∧ ∀ w, r.faults[q.faults.length]? = some w → w.length = 16 ∧
          (w.getD 0 0).toNat % 256 = g.code % 256 ∧ (w.getD 0 0).toNat / 2 ^ 24 % 16 = g.src % 16 ∧ w.getD 1 0 = g.bundle ∧
          (w.drop 6).take 8 = (g.detail ++ List.replicate 8 0).take 8) ∧
        (∀ c ∈ q.cores, t.ctx c = { s.ctx c with life := if (s.ctx c).life = .running then .recessed else (s.ctx c).life }) ∧
        t.Later none (s.gtc + 3072) (.rollCallComplete q.num)

/-! ### Registers and memories -/

/-- R10, R13, R93, R110, R111, R123, R125, R150, R156, R196, R201, R205, R280: a register write of any kind lands in its
register alone, in the bits and lanes that it carries; s0, g0, p0 and mask 0 take none; flags set accumulate, flags written
replace; a write that carries a fault records it and writes nothing (R267), what a neighbour sent on the core itself (R324).
-/
def Obligations.RegisterWriteLands : Prop := ∀ (s : State) (c : Nat), c < 384 →
  let lands (w : RegWrite) (P : Ctx → Prop) : Prop := s.Does .registerWrite (.registerWrite c w) fun t => P (t.ctx c) ∧
    (∀ k, k ≠ c → t.core k = s.core k) ∧ (t.core c).spad = (s.core c).spad ∧ t.parts = s.parts ∧ t.dram = s.dram ∧
    t.due = s.due
  let x := s.ctx c
  let bits {n : Nat} (old m v new : BitVec n) : Prop := ∀ k, k < n → new.getLsbD k = if m.getLsbD k then v.getLsbD k else old.getLsbD k
  let lanes (old m v new : Lanes) : Prop := ∀ k, k < 256 → bits (lane old k) (lane m k) (lane v k) (lane new k)
  (∀ n w, 0 < n → n < 32 → lands (.s n w) fun y => y = { x with s := x.s.setIfInBounds n w } ∧ y.rs n = w) ∧
  (∀ w, lands (.s 0 w) fun y => y = x) ∧ (∀ w, lands (.p 0 w) fun y => y = x) ∧
  (∀ n w, 0 < n → n < 16 → lands (.p n w) fun y => y = { x with p := x.p.setIfInBounds n w } ∧ y.rp n = w) ∧
  (∀ m v, lands (.g m v) fun y => (∃ g, y = { x with g := g }) ∧ y.rg 0 = true ∧
    ∀ n, 0 < n → n < 8 → y.rg n = if m.getLsbD n then v.getLsbD n else x.g.getLsbD n) ∧
  (∀ n m v, n < 16 → lands (.d n m v) fun y => ∃ d, y = { x with d := x.d.setIfInBounds n d } ∧ lanes (x.rd n) m v d) ∧
  (∀ n m v, n < 4 → lands (.l n m v) fun y => ∃ d, y = { x with l := x.l.setIfInBounds n d } ∧ bits (x.rl n) m v d) ∧
  (∀ n m v, n < 4 → lands (.ag n m v) fun y => ∃ d, y = { x with ag := x.ag.setIfInBounds n d } ∧ bits (x.rag n) m v d) ∧
  (∀ u : VSlot,
    let at_ (P : VecUnit → Prop) (y : Ctx) : Prop := ∃ w : VecUnit, P w ∧
      y = match u with
        | .a => { x with va := w }
        | .b => { x with vb := w }
    let old := x.unit u
    (∀ n m v, n < 24 → lands (.v u n m v)
      (at_ fun w => ∃ d, w = { old with regs := old.regs.setIfInBounds n d } ∧ lanes (old.rv n) m v d)) ∧
    (∀ m v, lands (.vm u 0 m v) fun y => y = x) ∧
    (∀ n m v, 0 < n → n < 8 → lands (.vm u n m v)
      (at_ fun w => ∃ d, w = { old with masks := old.masks.setIfInBounds n d } ∧ bits (old.rm n) m v d)) ∧
    (∀ f, lands (.flagsSet u f) (at_ fun w => w = { old with flags := w.flags } ∧
      ∀ b, b < 6 → w.flags.getLsbD b = (old.flags.getLsbD b || f.getLsbD b))) ∧
    (∀ f, lands (.flagsWrite u f) (at_ fun w => w = { old with flags := f })) ∧
    (∀ hi v, lands (.seed u hi v) (at_ fun w => w = { old with seed := w.seed } ∧
      ∀ b, b < 64 → w.seed.getLsbD b = if decide (32 ≤ b) = hi then v.getLsbD (b % 32) else old.seed.getLsbD b)) ∧
    (∀ k, lands (.key u k) (at_ fun w => w = { old with key := k })) ∧
    (∀ k, lands (.ctr u k) (at_ fun w => w = { old with ctr := k })) ∧
    ∀ n img, n < 4 → lands (.tie u n img) (at_ fun w => ∃ e : Tie, w = { old with ties := old.ties.setIfInBounds n e } ∧
      e.img = img ∧ (e.valid = true ↔ (lane img 0).toNat / 2 ^ 23 % 2 ^ 8 ≠ 255 ∧ -126 ≤ (lane img 1).toInt ∧
        (lane img 1).toInt ≤ 104))) ∧
  (∀ n v, n < 16 → lands (.h n v) fun y => y = { x with h := x.h.setIfInBounds n v } ∧ y.rh n = v) ∧
  (∀ v, lands (.etag v) fun y => y = { x with etag := v }) ∧
  (∀ w, lands (.spwe w) fun y => y = { x with spwe := y.spwe } ∧
    ∀ b, b < 32 → y.spwe.getLsbD b = (w.getLsbD b && decide (4 ≤ b ∧ b < 23))) ∧
  (∀ n v, n < 48 → lands (.barExpected n v) fun y => ∃ b : Barrier, x.bars[n]? = some b ∧
    y = { x with bars := x.bars.setIfInBounds n { b with expected := v } }) ∧
  (∀ n v, n < 128 → lands (.tag n v) fun y => y = { x with tags := x.tags.setIfInBounds n v }) ∧
  (∀ v, v < 64 → lands (.dp v) fun y => y = { x with mx := { x.mx with dp := v } }) ∧
  (lands .keyCounter fun y => y = { x with mx := { x.mx with keyCounter := x.mx.keyCounter + 1 } }) ∧
  (∀ m, lands (.solo m) fun y => y = { x with solo := some m }) ∧
  ∀ code u d, s.Does .registerWrite (.registerWrite c (.fault code u d)) fun t =>
    if s.cur.who.src = 13 then (s.doing (.registerWrite c (.fault code u d))).Raises t c code 11 d
    else (s.doing (.registerWrite c (.fault code u d))).Raises t s.me code s.cur.who.src d

/-- R83, R86, R87, R91 to R97, R334: what an access does in its bank cycle. Alone on the banks of its core in that cycle, with
room in the undo log and no uncorrectable word: a store writes its bytes and no other byte; a load delivers the bytes it
finds, little-endian, to its d register or as a row to its queue; a gather delivers the words of its lanes, a scatter writes
the elements of its lanes, the highest lane last; a tagged load delivers its row when the tile's tag is the expected one, and
is else fault 0x13; an entry of a transfer list (R290) starts its command at S + OFF, under the shape and TAGV it holds, is
nothing with a KIND of 0, or takes fault 0x23, 0x10 or 0x14 (log entry 23); an atomic delivers the old word and writes the new
one in the next cycle; LDW reads a pigeonhole, latched or live; a refused access is fault 0x21. Of two accesses of one word's
bytes each that meet on a bank, neither performs, and fault 0x15 names bank, row and both requesters, the lower code first,
then the lower cycle of a core's own (that the row is that of the first requester named is log entry 49). A store of part of
one word that a full undo log has no room for writes nothing, and the core that holds the bank records fault 0x1A (R323, R334;
log entry 24). An access whose conflict is known performs on its other banks alone, and a load of one conflicting bank
delivers nothing. -/
def Obligations.BankAccesses : Prop := ∀ (s : State) (holder cyc : Nat) (req : Word), holder < 384 →
  (s.ctx holder).solo = none ∨ req.toNat / 2 ^ 28 = 0 →
  holder / 96 = s.me / 96 ∨ (s.me, s.t, s.cur.who.src) ∉ s.linkErrs → (s.core holder).bad = [] → (s.core holder).soft = [] →
  let k := s.core holder
  let word (a : Nat) : Nat := (k.spad.read a).toNat + 2 ^ 8 * (k.spad.read (a + 1)).toNat +
    2 ^ 16 * (k.spad.read (a + 2)).toNat + 2 ^ 24 * (k.spad.read (a + 3)).toNat
  let work (act : BankAct) : Work := .bankAccess { holder := holder, req := req, cyc := cyc, act := act }
  let does (act : BankAct) (P : State → Prop) : Prop := s.Does .bankAccess (work act) P
  let still (t : State) : Prop := t.cores = s.cores ∧ t.parts = s.parts ∧ t.dram = s.dram
  let lands (act : BankAct) (t : State) (at_ : Nat) (w : Work) : Prop := still t ∧
    ∃ key, t.due = s.due ++ [(s.doing (work act)).pend at_ key w]
  let kept (t : State) : Prop := t.ctx holder = s.ctx holder ∧ (∀ c, c ≠ holder → t.core c = s.core c) ∧ t.parts = s.parts ∧
    t.dram = s.dram ∧ t.due = s.due
  let unused : Prop := ∀ u ∈ s.bankUses, u.holder ≠ holder
  let apart (xs : List Nat) : Prop := ∀ a ∈ xs, ∀ b ∈ xs, a / 64 % 32 = b / 64 % 32 → a / 64 = b / 64
  (unused → (∀ x ∈ s.due, s.isDue x = true → ∀ b, x.what = .bankAccess b → b.holder ≠ holder) →
    (∀ a (data : List Byte), 0 < data.length → data.length ≤ 1024 → k.undo.length + 17 ≤ 1024 →
      does (.store a data) fun t => k.spad.wf = true →
        (∀ b, (t.core holder).spad.read b = if a ≤ b ∧ b < a + data.length then data.getD (b - a) 0 else k.spad.read b) ∧
        kept t ∧ ∀ b, a ≤ b → b < a + data.length → ∃ u ∈ (t.core holder).undo, u.word = b / 64) ∧
    (∀ a (data : List Byte), 0 < data.length → a % 64 + data.length ≤ 64 → 1024 ≤ k.undo.length →
      (∀ u ∈ k.undo, u.word ≠ a / 64) → does (.store a data) fun t => s.Records t holder 0x1A s.cur.who.src
        [BitVec.ofNat 32 (a / 64 % 32), BitVec.ofNat 32 (a / 2048 % 512), BitVec.ofNat 32 (req.toNat / 2 ^ 28)]) ∧
    (∀ a n tg at_, n ∈ [4, 256, 512, 1024] → does (.load a n (.dreg tg at_)) fun t => ∃ val : Lanes,
      (∀ i, i < 256 → (lane val i).toNat = if 4 * i < n then word (a + 4 * i) else 0) ∧
      lands (.load a n (.dreg tg at_)) t at_ (.registerWrite s.me (.d tg allLanes val))) ∧
    (∀ a q at_, does (.load a 256 (.queue q at_)) fun t => ∃ r : Row, r.words.length = 64 ∧ r.mark = none ∧ r.poison = none ∧
      (∀ i, i < 64 → (r.words.getD i 0).toNat = word (a + 4 * i)) ∧
      lands (.load a 256 (.queue q at_)) t at_ (.queueLoadAppend s.me q r)) ∧
    (∀ (els : List (Nat × Nat)) g tg at_, (els.map (·.1)).Nodup → (∀ e ∈ els, e.1 < 256 ∧ e.2 % 4 = 0) →
      apart (els.map (·.2)) → does (.gather els g tg at_) fun t => ∃ sel val : Lanes,
        (∀ i, i < 256 → lane sel i = if i ∈ els.map (·.1) then 0xFFFFFFFF else 0) ∧
        (∀ e ∈ els, (lane val e.1).toNat = word e.2) ∧
        lands (.gather els g tg at_) t at_ (.registerWrite s.me (.d tg sel val))) ∧
    (∀ (els : List (Nat × Nat × List Byte)) half,
      (∀ e ∈ els, e.2.2.length = (if half = true then 2 else 4) ∧ e.2.1 % e.2.2.length = 0) → apart (els.map (·.2.1)) →
      k.undo.length + els.length ≤ 1024 → does (.scatter els half) fun t => k.spad.wf = true →
        (∀ before e after, els = before ++ e :: after → ∀ i, i < e.2.2.length →
          (∀ x ∈ after, e.2.1 + i < x.2.1 ∨ x.2.1 + x.2.2.length ≤ e.2.1 + i) →
          (t.core holder).spad.read (e.2.1 + i) = e.2.2.getD i 0) ∧
        (∀ b, (∀ e ∈ els, b < e.2.1 ∨ e.2.1 + e.2.2.length ≤ b) → (t.core holder).spad.read b = k.spad.read b) ∧ kept t) ∧
    (∀ a e tg at_,
      let tag := ((s.ctx holder).tags[a / 8192]?.getD 0).toNat
      (tag = e → does (.tagged a e tg at_) fun t => ∃ val : Lanes,
        (∀ i, i < 256 → (lane val i).toNat = if i < 64 then word (a + 4 * i) else 0) ∧
        lands (.tagged a e tg at_) t at_ (.registerWrite s.me (.d tg allLanes val))) ∧
      (tag ≠ e → does (.tagged a e tg at_) fun t => s.Records t s.me 0x13 s.cur.who.src
        [BitVec.ofNat 32 (a / 8192), BitVec.ofNat 32 e, BitVec.ofNat 32 tag])) ∧
    (∀ a (o : AmoOp) (v c : Word) tg at_, a % 4 = 0 → does (.amoRead a o v c tg at_) fun t =>
      ∃ (old new : Word) (bytes : List Byte) (val : Lanes), old.toNat = word a ∧
        new = (match o with
          | .add => old + v
          | .min => if old.toInt ≤ v.toInt then old else v
          | .max => if v.toInt ≤ old.toInt then old else v
          | .swap => v
          | .cas => if old = c then v else old) ∧
        bytes.length = 4 ∧ (∀ i, i < 4 → bytes.getD i 0 = BitVec.ofNat 8 (new.toNat / 2 ^ (8 * i))) ∧
        (∀ i, i < 256 → lane val i = if i = 0 then old else 0) ∧ still t ∧
        ∃ k₁ k₂, t.due = s.due ++ [(s.doing (work (.amoRead a o v c tg at_))).pend (s.now + 1) k₁ (work (.store a bytes)),
          (s.doing (work (.amoRead a o v c tg at_))).pend at_ k₂ (.registerWrite s.me (.d tg allLanes val))]) ∧
    (∀ n tg at_ q, s.part (s.partOf s.me) = some q → n < 128 → (∀ w ∈ s.pigWrites, w.part = q.num → w.n ≠ n) →
      does (.pigeonhole n tg at_) fun t => ∃ val : Lanes,
        (∀ i, i < 256 → lane val i = if i ≠ 0 then 0 else if n < 64 then q.pigLatched[n]?.getD 0 else q.pigLive[n]?.getD 0) ∧
        lands (.pigeonhole n tg at_) t at_ (.registerWrite s.me (.d tg allLanes val))) ∧
    (∀ a (c : Cmd) i, holder = s.me →
      let W (j : Nat) : Nat := word (a + 4 * j)
      let kind := W 5 / 2 ^ 16 % 2 ^ 8
      let fits := W 5 / 2 ^ 24 = 0 ∧ W 6 = 0 ∧ W 7 = 0 ∧ W 4 ≤ 1048575 ∧
        kind ∈ [0x00, 0x08, 0x09, 0x0A, 0x10, 0x11, 0x12, 0x18, 0x19, 0x1A]
      let live := (k.te.filter fun r => c.start + i ≤ r.last).length
      let ends (P : State → Prop) : Prop := does (.load a 32 (.entry c i)) P
      let faults (code : Nat) (d : List Word) : Prop := ends fun t => s.Records t s.me code 8 d
      let which : List Word := [BitVec.ofNat 32 c.op, BitVec.ofNat 32 c.start, BitVec.ofNat 32 i]
      (¬ fits → faults 0x23 which) ∧
      (fits → kind = 0 → ends fun t => t = s.doing (work (.load a 32 (.entry c i)))) ∧
      (fits → kind ≠ 0 → W 4 < i + 4 → faults 0x10 (5 :: which)) ∧
      (fits → kind ≠ 0 → i + 4 ≤ W 4 → 64 ≤ live → faults 0x14 [64, BitVec.ofNat 32 kind]) ∧
      (fits → kind ≠ 0 → i + 4 ≤ W 4 → live < 64 → ends fun t => ∃ cmd : Cmd,
        cmd.op = kind ∧ cmd.start = c.start + W 4 ∧ cmd.issue = c.start + i ∧ cmd.tag.toNat = W 5 % 2 ^ 16 ∧
        cmd.shape.toNat = W 0 + 2 ^ 32 * W 1 + 2 ^ 64 * W 2 + 2 ^ 96 * W 3 ∧
        t.Later (some (s.partOf s.me)) (c.start + W 4) (.teCommandStart cmd) ∧ t.due.length = s.due.length + 1 ∧
        (∀ x ∈ s.due, x ∈ t.due) ∧ ((t.core s.me).te.map (·.cmd)).getLast? = some cmd ∧
        (t.core s.me).spad = k.spad ∧ t.ctx s.me = s.ctx s.me ∧ (∀ c, c ≠ s.me → t.core c = s.core c) ∧ t.parts = s.parts ∧
        t.dram = s.dram)) ∧
    ∀ d, does (.refused d) fun t => s.Records t s.me 0x21 s.cur.who.src d) ∧
  (let one (act : BankAct) (a : Nat) : Prop := (a % 4 = 0 ∧ ∃ tg at_, act = .load a 4 (.dreg tg at_)) ∨
     ∃ data : List Byte, 0 < data.length ∧ a % 64 + data.length ≤ 64 ∧ act = .store a data
   ∀ (act act' : BankAct) (a a' cyc' : Nat) (req' : Word) (before after : List Timed) (x : Timed), (s.ctx holder).solo = none →
    unused → one act a → one act' a' → a / 64 % 32 = a' / 64 % 32 → s.due = before ++ x :: after → s.isDue x = true →
    x.what = .bankAccess { holder := holder, req := req', cyc := cyc', act := act' } →
    (∀ y ∈ before ++ after, s.isDue y = true → ∀ b, y.what = .bankAccess b → b.holder ≠ holder) →
    let names (src p c c' : Nat) (r r' : Word) : Prop := does act fun t => s.Records t holder 0x15 src
      [BitVec.ofNat 32 (a / 64 % 32), BitVec.ofNat 32 (p / 2048 % 512), r, BitVec.ofNat 32 c, r', BitVec.ofNat 32 c']
    let code (r : Word) : Nat := r.toNat / 2 ^ 28
    (code req < code req' ∨ (code req = code req' ∧ code req ≤ 1 ∧ cyc < cyc') → names s.cur.who.src a cyc cyc' req req') ∧
    (code req' < code req ∨ (code req = code req' ∧ code req ≤ 1 ∧ cyc' < cyc) → names x.who.src a' cyc' cyc req' req)) ∧
  (let busy (b : Nat) : Prop := 2 ≤ (s.bankUses.filter fun u => u.holder == holder && u.bank == b / 64 % 32).length
   (∃ u ∈ s.bankUses, u.holder = holder) →
    (∀ a (data : List Byte), 0 < data.length → data.length ≤ 1024 → k.undo.length + 17 ≤ 1024 →
      does (.store a data) fun t => k.spad.wf = true → kept t ∧
        ∀ b, (a ≤ b → b < a + data.length → ¬ busy b → (t.core holder).spad.read b = data.getD (b - a) 0) ∧
          (b < a ∨ a + data.length ≤ b ∨ busy b → (t.core holder).spad.read b = k.spad.read b)) ∧
    ∀ a n sink b, a ≤ b → b < a + n → busy b → does (.load a n sink) fun t => t = s.doing (work (.load a n sink)))

/-- Every memory of the machine keeps its canonical form in every step (R83, R43, R232, R344; log entry 4). -/
def Obligations.StepKeepsMemoriesCanonical : Prop := ∀ s t : State, s.MemInv → step s = .next t → t.MemInv

/-- The memories of the machine after reset (the scratchpads, the program stores of the dies and device memory) are in their
canonical form, and read 0 (log entry 4). -/
def Obligations.ResetMemoriesCanonical : Prop := State.reset.MemInv ∧ (∀ a, State.reset.dram.read a = 0) ∧
  (∀ c a, c < 384 → (State.reset.core c).spad.read a = 0) ∧ ∀ d a, d < 4 → (State.reset.die d).store.read a = 0

/-! ### Encodings -/

/-- The words that the spec gives as examples decode to the instructions it gives them for, one or more of each slot (R28, R30
to R42), and the zero word is the no-operation in every slot. -/
def Obligations.DecodeWords : Prop :=
  decodeSlot .s 0x02214CA0 = .ok (.sub { sd := 4, sa := 5, sb := 6, g := 2, neg := true, fn := 0 }) ∧
  decodeSlot .s 0x2D09FFFF = .ok (.cmpiGeu { sd := 1, sa := 7, imm := 0x3FFF }) ∧
  decodeSlot .s 0x45000017 = .ok (.loopi { level := 0, len := 0, cnt := 23 }) ∧
  decodeSlot .ld 0x11530025 = .ok (.ldr { tg := 5, ptr := 3, off := 2, g := 2, neg := true }) ∧
  decodeSlot .ld 0x28124030 = .ok (.amoAdd { tg := 1, ptr := 2, opd := 4, off := 3, g := 0, neg := false }) ∧
  decodeSlot .v 0x0C31D09B = .ok (.fma { vd := 6, va := 7, vb := 8, vc := 9, mask := 2, rnd := 3 }) ∧
  decodeSlot .v 0x3811C060 = .ok (.cvtBf16F32 { vd := 2, va := 7, vb := 0, mask := 1, rnd := 4, sub := 0 }) ∧
  decodeSlot .x 0x020762C8 = .ok (.cpyl { dfile := 0, dreg := 7, sfile := 3, sreg := 2, aux := 200 }) ∧
  decodeSlot .mx 0x1100C800 = .ok (.chb { qa := 0, pa := false, qb := 1, pb := true, fmt := 1, flags := 0 }) ∧
  decodeSlot .te 0x08200028 = .ok (.xfer { h := 2, lead := 40 }) ∧
  ∀ k : SlotKind, decodeSlot k 0 = .ok .nop

/-- Decoding is what encoding undoes: for every instruction of a slot, well formed, its word is 32 bits wide and decodes to it
(R29 to R36). -/
def Obligations.DecodeEncode : Prop := ∀ i : Instr, i.wf = true → ∀ w, encode i = some w →
  w < 2 ^ 32 ∧ decodeSlot i.slotKind w = .ok i

/-- A word that decodes to an instruction is the word of that instruction, which is well formed (R28). -/
def Obligations.EncodeDecode : Prop := ∀ (k : SlotKind) (w : Nat) (i : Instr), w < 2 ^ 32 → decodeSlot k w = .ok i →
  i.wf = true ∧ encode i = some w
end

