-- ==== Sys2Proof/Laws/State.lean ====
section
/-! SUPPORT. What each update of the state leaves as it was: one lemma for a field and an update, so that no proof
unfolds a record update. -/
namespace Sys2Proof.Machine

/-! ### setCore -/

@[simp] theorem State.setCore_gtc (s : State) (c : Nat) (k : Core) : (s.setCore c k).gtc = s.gtc := rfl
@[simp] theorem State.setCore_on (s : State) (c : Nat) (k : Core) : (s.setCore c k).on = s.on := rfl
@[simp] theorem State.setCore_cur (s : State) (c : Nat) (k : Core) : (s.setCore c k).cur = s.cur := rfl
@[simp] theorem State.setCore_me (s : State) (c : Nat) (k : Core) : (s.setCore c k).me = s.me := rfl
@[simp] theorem State.setCore_t (s : State) (c : Nat) (k : Core) : (s.setCore c k).t = s.t := rfl
@[simp] theorem State.setCore_free (s : State) (c : Nat) (k : Core) : (s.setCore c k).free = s.free := rfl
@[simp] theorem State.setCore_due (s : State) (c : Nat) (k : Core) : (s.setCore c k).due = s.due := rfl
@[simp] theorem State.setCore_dies (s : State) (c : Nat) (k : Core) : (s.setCore c k).dies = s.dies := rfl
@[simp] theorem State.setCore_hbm (s : State) (c : Nat) (k : Core) : (s.setCore c k).hbm = s.hbm := rfl
@[simp] theorem State.setCore_dram (s : State) (c : Nat) (k : Core) : (s.setCore c k).dram = s.dram := rfl
@[simp] theorem State.setCore_parts (s : State) (c : Nat) (k : Core) : (s.setCore c k).parts = s.parts := rfl
@[simp] theorem State.setCore_launches (s : State) (c : Nat) (k : Core) : (s.setCore c k).launches = s.launches := rfl
@[simp] theorem State.setCore_svcs (s : State) (c : Nat) (k : Core) : (s.setCore c k).svcs = s.svcs := rfl
@[simp] theorem State.setCore_session (s : State) (c : Nat) (k : Core) : (s.setCore c k).session = s.session := rfl
@[simp] theorem State.setCore_ports (s : State) (c : Nat) (k : Core) : (s.setCore c k).ports = s.ports := rfl
@[simp] theorem State.setCore_tenants (s : State) (c : Nat) (k : Core) : (s.setCore c k).tenants = s.tenants := rfl
@[simp] theorem State.setCore_fns (s : State) (c : Nat) (k : Core) : (s.setCore c k).fns = s.fns := rfl
@[simp] theorem State.setCore_pigAccess (s : State) (c : Nat) (k : Core) : (s.setCore c k).pigAccess = s.pigAccess := rfl
@[simp] theorem State.setCore_unitCount (s : State) (c : Nat) (k : Core) : (s.setCore c k).unitCount = s.unitCount := rfl
@[simp] theorem State.setCore_hostQueue (s : State) (c : Nat) (k : Core) : (s.setCore c k).hostQueue = s.hostQueue := rfl
@[simp] theorem State.setCore_served (s : State) (c : Nat) (k : Core) : (s.setCore c k).served = s.served := rfl
@[simp] theorem State.setCore_applied (s : State) (c : Nat) (k : Core) : (s.setCore c k).applied = s.applied := rfl
@[simp] theorem State.setCore_testing (s : State) (c : Nat) (k : Core) : (s.setCore c k).testing = s.testing := rfl
@[simp] theorem State.setCore_stuck (s : State) (c : Nat) (k : Core) : (s.setCore c k).stuck = s.stuck := rfl
@[simp] theorem State.setCore_recovery (s : State) (c : Nat) (k : Core) : (s.setCore c k).recovery = s.recovery := rfl
@[simp] theorem State.setCore_ready (s : State) (c : Nat) (k : Core) : (s.setCore c k).ready = s.ready := rfl
@[simp] theorem State.setCore_bankUses (s : State) (c : Nat) (k : Core) : (s.setCore c k).bankUses = s.bankUses := rfl
@[simp] theorem State.setCore_pigWrites (s : State) (c : Nat) (k : Core) : (s.setCore c k).pigWrites = s.pigWrites := rfl
@[simp] theorem State.setCore_moves (s : State) (c : Nat) (k : Core) : (s.setCore c k).moves = s.moves := rfl
@[simp] theorem State.setCore_poison (s : State) (c : Nat) (k : Core) : (s.setCore c k).poison = s.poison := rfl
@[simp] theorem State.setCore_dramBad (s : State) (c : Nat) (k : Core) : (s.setCore c k).dramBad = s.dramBad := rfl
@[simp] theorem State.setCore_dramSoft (s : State) (c : Nat) (k : Core) : (s.setCore c k).dramSoft = s.dramSoft := rfl
@[simp] theorem State.setCore_reqs (s : State) (c : Nat) (k : Core) : (s.setCore c k).reqs = s.reqs := rfl
@[simp] theorem State.setCore_linkErrs (s : State) (c : Nat) (k : Core) : (s.setCore c k).linkErrs = s.linkErrs := rfl
@[simp] theorem State.setCore_sent (s : State) (c : Nat) (k : Core) : (s.setCore c k).sent = s.sent := rfl
@[simp] theorem State.setCore_subCount (s : State) (c : Nat) (k : Core) : (s.setCore c k).subCount = s.subCount := rfl
@[simp] theorem State.setCore_out (s : State) (c : Nat) (k : Core) : (s.setCore c k).out = s.out := rfl
@[simp] theorem State.setCore_errs (s : State) (c : Nat) (k : Core) : (s.setCore c k).errs = s.errs := rfl
@[simp] theorem State.setCore_lasting (s : State) (c : Nat) (k : Core) : (s.setCore c k).lasting = s.lasting := rfl
@[simp] theorem State.setCore_duty (s : State) (c : Nat) (k : Core) : (s.setCore c k).duty = s.duty := rfl
@[simp] theorem State.setCore_heldWork (s : State) (c : Nat) (k : Core) : (s.setCore c k).heldWork = s.heldWork := rfl
@[simp] theorem State.setCore_testAt (s : State) (c : Nat) (k : Core) : (s.setCore c k).testAt = s.testAt := rfl
@[simp] theorem State.setCore_mlog (s : State) (c : Nat) (k : Core) : (s.setCore c k).mlog = s.mlog := rfl
@[simp] theorem State.setCore_flash (s : State) (c : Nat) (k : Core) : (s.setCore c k).flash = s.flash := rfl

/-! ### modCore -/

@[simp] theorem State.modCore_gtc (s : State) (c : Nat) (f : Core → Core) : (s.modCore c f).gtc = s.gtc := rfl
@[simp] theorem State.modCore_on (s : State) (c : Nat) (f : Core → Core) : (s.modCore c f).on = s.on := rfl
@[simp] theorem State.modCore_cur (s : State) (c : Nat) (f : Core → Core) : (s.modCore c f).cur = s.cur := rfl
@[simp] theorem State.modCore_me (s : State) (c : Nat) (f : Core → Core) : (s.modCore c f).me = s.me := rfl
@[simp] theorem State.modCore_t (s : State) (c : Nat) (f : Core → Core) : (s.modCore c f).t = s.t := rfl
@[simp] theorem State.modCore_free (s : State) (c : Nat) (f : Core → Core) : (s.modCore c f).free = s.free := rfl
@[simp] theorem State.modCore_due (s : State) (c : Nat) (f : Core → Core) : (s.modCore c f).due = s.due := rfl
@[simp] theorem State.modCore_dies (s : State) (c : Nat) (f : Core → Core) : (s.modCore c f).dies = s.dies := rfl
@[simp] theorem State.modCore_hbm (s : State) (c : Nat) (f : Core → Core) : (s.modCore c f).hbm = s.hbm := rfl
@[simp] theorem State.modCore_dram (s : State) (c : Nat) (f : Core → Core) : (s.modCore c f).dram = s.dram := rfl
@[simp] theorem State.modCore_parts (s : State) (c : Nat) (f : Core → Core) : (s.modCore c f).parts = s.parts := rfl
@[simp] theorem State.modCore_launches (s : State) (c : Nat) (f : Core → Core) : (s.modCore c f).launches = s.launches := rfl
@[simp] theorem State.modCore_svcs (s : State) (c : Nat) (f : Core → Core) : (s.modCore c f).svcs = s.svcs := rfl
@[simp] theorem State.modCore_session (s : State) (c : Nat) (f : Core → Core) : (s.modCore c f).session = s.session := rfl
@[simp] theorem State.modCore_ports (s : State) (c : Nat) (f : Core → Core) : (s.modCore c f).ports = s.ports := rfl
@[simp] theorem State.modCore_tenants (s : State) (c : Nat) (f : Core → Core) : (s.modCore c f).tenants = s.tenants := rfl
@[simp] theorem State.modCore_fns (s : State) (c : Nat) (f : Core → Core) : (s.modCore c f).fns = s.fns := rfl
@[simp] theorem State.modCore_pigAccess (s : State) (c : Nat) (f : Core → Core) : (s.modCore c f).pigAccess = s.pigAccess := rfl
@[simp] theorem State.modCore_unitCount (s : State) (c : Nat) (f : Core → Core) : (s.modCore c f).unitCount = s.unitCount := rfl
@[simp] theorem State.modCore_hostQueue (s : State) (c : Nat) (f : Core → Core) : (s.modCore c f).hostQueue = s.hostQueue := rfl
@[simp] theorem State.modCore_served (s : State) (c : Nat) (f : Core → Core) : (s.modCore c f).served = s.served := rfl
@[simp] theorem State.modCore_applied (s : State) (c : Nat) (f : Core → Core) : (s.modCore c f).applied = s.applied := rfl
@[simp] theorem State.modCore_testing (s : State) (c : Nat) (f : Core → Core) : (s.modCore c f).testing = s.testing := rfl
@[simp] theorem State.modCore_stuck (s : State) (c : Nat) (f : Core → Core) : (s.modCore c f).stuck = s.stuck := rfl
@[simp] theorem State.modCore_recovery (s : State) (c : Nat) (f : Core → Core) : (s.modCore c f).recovery = s.recovery := rfl
@[simp] theorem State.modCore_ready (s : State) (c : Nat) (f : Core → Core) : (s.modCore c f).ready = s.ready := rfl
@[simp] theorem State.modCore_bankUses (s : State) (c : Nat) (f : Core → Core) : (s.modCore c f).bankUses = s.bankUses := rfl
@[simp] theorem State.modCore_pigWrites (s : State) (c : Nat) (f : Core → Core) : (s.modCore c f).pigWrites = s.pigWrites := rfl
@[simp] theorem State.modCore_moves (s : State) (c : Nat) (f : Core → Core) : (s.modCore c f).moves = s.moves := rfl
@[simp] theorem State.modCore_poison (s : State) (c : Nat) (f : Core → Core) : (s.modCore c f).poison = s.poison := rfl
@[simp] theorem State.modCore_dramBad (s : State) (c : Nat) (f : Core → Core) : (s.modCore c f).dramBad = s.dramBad := rfl
@[simp] theorem State.modCore_dramSoft (s : State) (c : Nat) (f : Core → Core) : (s.modCore c f).dramSoft = s.dramSoft := rfl
@[simp] theorem State.modCore_reqs (s : State) (c : Nat) (f : Core → Core) : (s.modCore c f).reqs = s.reqs := rfl
@[simp] theorem State.modCore_linkErrs (s : State) (c : Nat) (f : Core → Core) : (s.modCore c f).linkErrs = s.linkErrs := rfl
@[simp] theorem State.modCore_sent (s : State) (c : Nat) (f : Core → Core) : (s.modCore c f).sent = s.sent := rfl
@[simp] theorem State.modCore_subCount (s : State) (c : Nat) (f : Core → Core) : (s.modCore c f).subCount = s.subCount := rfl
@[simp] theorem State.modCore_out (s : State) (c : Nat) (f : Core → Core) : (s.modCore c f).out = s.out := rfl
@[simp] theorem State.modCore_errs (s : State) (c : Nat) (f : Core → Core) : (s.modCore c f).errs = s.errs := rfl
@[simp] theorem State.modCore_lasting (s : State) (c : Nat) (f : Core → Core) : (s.modCore c f).lasting = s.lasting := rfl
@[simp] theorem State.modCore_duty (s : State) (c : Nat) (f : Core → Core) : (s.modCore c f).duty = s.duty := rfl
@[simp] theorem State.modCore_heldWork (s : State) (c : Nat) (f : Core → Core) : (s.modCore c f).heldWork = s.heldWork := rfl
@[simp] theorem State.modCore_testAt (s : State) (c : Nat) (f : Core → Core) : (s.modCore c f).testAt = s.testAt := rfl
@[simp] theorem State.modCore_mlog (s : State) (c : Nat) (f : Core → Core) : (s.modCore c f).mlog = s.mlog := rfl
@[simp] theorem State.modCore_flash (s : State) (c : Nat) (f : Core → Core) : (s.modCore c f).flash = s.flash := rfl

/-! ### modCtx -/

@[simp] theorem State.modCtx_gtc (s : State) (c : Nat) (f : Ctx → Ctx) : (s.modCtx c f).gtc = s.gtc := rfl
@[simp] theorem State.modCtx_on (s : State) (c : Nat) (f : Ctx → Ctx) : (s.modCtx c f).on = s.on := rfl
@[simp] theorem State.modCtx_cur (s : State) (c : Nat) (f : Ctx → Ctx) : (s.modCtx c f).cur = s.cur := rfl
@[simp] theorem State.modCtx_me (s : State) (c : Nat) (f : Ctx → Ctx) : (s.modCtx c f).me = s.me := rfl
@[simp] theorem State.modCtx_t (s : State) (c : Nat) (f : Ctx → Ctx) : (s.modCtx c f).t = s.t := rfl
@[simp] theorem State.modCtx_free (s : State) (c : Nat) (f : Ctx → Ctx) : (s.modCtx c f).free = s.free := rfl
@[simp] theorem State.modCtx_due (s : State) (c : Nat) (f : Ctx → Ctx) : (s.modCtx c f).due = s.due := rfl
@[simp] theorem State.modCtx_dies (s : State) (c : Nat) (f : Ctx → Ctx) : (s.modCtx c f).dies = s.dies := rfl
@[simp] theorem State.modCtx_hbm (s : State) (c : Nat) (f : Ctx → Ctx) : (s.modCtx c f).hbm = s.hbm := rfl
@[simp] theorem State.modCtx_dram (s : State) (c : Nat) (f : Ctx → Ctx) : (s.modCtx c f).dram = s.dram := rfl
@[simp] theorem State.modCtx_parts (s : State) (c : Nat) (f : Ctx → Ctx) : (s.modCtx c f).parts = s.parts := rfl
@[simp] theorem State.modCtx_launches (s : State) (c : Nat) (f : Ctx → Ctx) : (s.modCtx c f).launches = s.launches := rfl
@[simp] theorem State.modCtx_svcs (s : State) (c : Nat) (f : Ctx → Ctx) : (s.modCtx c f).svcs = s.svcs := rfl
@[simp] theorem State.modCtx_session (s : State) (c : Nat) (f : Ctx → Ctx) : (s.modCtx c f).session = s.session := rfl
@[simp] theorem State.modCtx_ports (s : State) (c : Nat) (f : Ctx → Ctx) : (s.modCtx c f).ports = s.ports := rfl
@[simp] theorem State.modCtx_tenants (s : State) (c : Nat) (f : Ctx → Ctx) : (s.modCtx c f).tenants = s.tenants := rfl
@[simp] theorem State.modCtx_fns (s : State) (c : Nat) (f : Ctx → Ctx) : (s.modCtx c f).fns = s.fns := rfl
@[simp] theorem State.modCtx_pigAccess (s : State) (c : Nat) (f : Ctx → Ctx) : (s.modCtx c f).pigAccess = s.pigAccess := rfl
@[simp] theorem State.modCtx_unitCount (s : State) (c : Nat) (f : Ctx → Ctx) : (s.modCtx c f).unitCount = s.unitCount := rfl
@[simp] theorem State.modCtx_hostQueue (s : State) (c : Nat) (f : Ctx → Ctx) : (s.modCtx c f).hostQueue = s.hostQueue := rfl
@[simp] theorem State.modCtx_served (s : State) (c : Nat) (f : Ctx → Ctx) : (s.modCtx c f).served = s.served := rfl
@[simp] theorem State.modCtx_applied (s : State) (c : Nat) (f : Ctx → Ctx) : (s.modCtx c f).applied = s.applied := rfl
@[simp] theorem State.modCtx_testing (s : State) (c : Nat) (f : Ctx → Ctx) : (s.modCtx c f).testing = s.testing := rfl
@[simp] theorem State.modCtx_stuck (s : State) (c : Nat) (f : Ctx → Ctx) : (s.modCtx c f).stuck = s.stuck := rfl
@[simp] theorem State.modCtx_recovery (s : State) (c : Nat) (f : Ctx → Ctx) : (s.modCtx c f).recovery = s.recovery := rfl
@[simp] theorem State.modCtx_ready (s : State) (c : Nat) (f : Ctx → Ctx) : (s.modCtx c f).ready = s.ready := rfl
@[simp] theorem State.modCtx_bankUses (s : State) (c : Nat) (f : Ctx → Ctx) : (s.modCtx c f).bankUses = s.bankUses := rfl
@[simp] theorem State.modCtx_pigWrites (s : State) (c : Nat) (f : Ctx → Ctx) : (s.modCtx c f).pigWrites = s.pigWrites := rfl
@[simp] theorem State.modCtx_moves (s : State) (c : Nat) (f : Ctx → Ctx) : (s.modCtx c f).moves = s.moves := rfl
@[simp] theorem State.modCtx_poison (s : State) (c : Nat) (f : Ctx → Ctx) : (s.modCtx c f).poison = s.poison := rfl
@[simp] theorem State.modCtx_dramBad (s : State) (c : Nat) (f : Ctx → Ctx) : (s.modCtx c f).dramBad = s.dramBad := rfl
@[simp] theorem State.modCtx_dramSoft (s : State) (c : Nat) (f : Ctx → Ctx) : (s.modCtx c f).dramSoft = s.dramSoft := rfl
@[simp] theorem State.modCtx_reqs (s : State) (c : Nat) (f : Ctx → Ctx) : (s.modCtx c f).reqs = s.reqs := rfl
@[simp] theorem State.modCtx_linkErrs (s : State) (c : Nat) (f : Ctx → Ctx) : (s.modCtx c f).linkErrs = s.linkErrs := rfl
@[simp] theorem State.modCtx_sent (s : State) (c : Nat) (f : Ctx → Ctx) : (s.modCtx c f).sent = s.sent := rfl
@[simp] theorem State.modCtx_subCount (s : State) (c : Nat) (f : Ctx → Ctx) : (s.modCtx c f).subCount = s.subCount := rfl
@[simp] theorem State.modCtx_out (s : State) (c : Nat) (f : Ctx → Ctx) : (s.modCtx c f).out = s.out := rfl
@[simp] theorem State.modCtx_errs (s : State) (c : Nat) (f : Ctx → Ctx) : (s.modCtx c f).errs = s.errs := rfl
@[simp] theorem State.modCtx_lasting (s : State) (c : Nat) (f : Ctx → Ctx) : (s.modCtx c f).lasting = s.lasting := rfl
@[simp] theorem State.modCtx_duty (s : State) (c : Nat) (f : Ctx → Ctx) : (s.modCtx c f).duty = s.duty := rfl
@[simp] theorem State.modCtx_heldWork (s : State) (c : Nat) (f : Ctx → Ctx) : (s.modCtx c f).heldWork = s.heldWork := rfl
@[simp] theorem State.modCtx_testAt (s : State) (c : Nat) (f : Ctx → Ctx) : (s.modCtx c f).testAt = s.testAt := rfl
@[simp] theorem State.modCtx_mlog (s : State) (c : Nat) (f : Ctx → Ctx) : (s.modCtx c f).mlog = s.mlog := rfl
@[simp] theorem State.modCtx_flash (s : State) (c : Nat) (f : Ctx → Ctx) : (s.modCtx c f).flash = s.flash := rfl

/-! ### modMx -/

@[simp] theorem State.modMx_gtc (s : State) (c : Nat) (f : Mx → Mx) : (s.modMx c f).gtc = s.gtc := rfl
@[simp] theorem State.modMx_on (s : State) (c : Nat) (f : Mx → Mx) : (s.modMx c f).on = s.on := rfl
@[simp] theorem State.modMx_cur (s : State) (c : Nat) (f : Mx → Mx) : (s.modMx c f).cur = s.cur := rfl
@[simp] theorem State.modMx_me (s : State) (c : Nat) (f : Mx → Mx) : (s.modMx c f).me = s.me := rfl
@[simp] theorem State.modMx_t (s : State) (c : Nat) (f : Mx → Mx) : (s.modMx c f).t = s.t := rfl
@[simp] theorem State.modMx_free (s : State) (c : Nat) (f : Mx → Mx) : (s.modMx c f).free = s.free := rfl
@[simp] theorem State.modMx_due (s : State) (c : Nat) (f : Mx → Mx) : (s.modMx c f).due = s.due := rfl
@[simp] theorem State.modMx_dies (s : State) (c : Nat) (f : Mx → Mx) : (s.modMx c f).dies = s.dies := rfl
@[simp] theorem State.modMx_hbm (s : State) (c : Nat) (f : Mx → Mx) : (s.modMx c f).hbm = s.hbm := rfl
@[simp] theorem State.modMx_dram (s : State) (c : Nat) (f : Mx → Mx) : (s.modMx c f).dram = s.dram := rfl
@[simp] theorem State.modMx_parts (s : State) (c : Nat) (f : Mx → Mx) : (s.modMx c f).parts = s.parts := rfl
@[simp] theorem State.modMx_launches (s : State) (c : Nat) (f : Mx → Mx) : (s.modMx c f).launches = s.launches := rfl
@[simp] theorem State.modMx_svcs (s : State) (c : Nat) (f : Mx → Mx) : (s.modMx c f).svcs = s.svcs := rfl
@[simp] theorem State.modMx_session (s : State) (c : Nat) (f : Mx → Mx) : (s.modMx c f).session = s.session := rfl
@[simp] theorem State.modMx_ports (s : State) (c : Nat) (f : Mx → Mx) : (s.modMx c f).ports = s.ports := rfl
@[simp] theorem State.modMx_tenants (s : State) (c : Nat) (f : Mx → Mx) : (s.modMx c f).tenants = s.tenants := rfl
@[simp] theorem State.modMx_fns (s : State) (c : Nat) (f : Mx → Mx) : (s.modMx c f).fns = s.fns := rfl
@[simp] theorem State.modMx_pigAccess (s : State) (c : Nat) (f : Mx → Mx) : (s.modMx c f).pigAccess = s.pigAccess := rfl
@[simp] theorem State.modMx_unitCount (s : State) (c : Nat) (f : Mx → Mx) : (s.modMx c f).unitCount = s.unitCount := rfl
@[simp] theorem State.modMx_hostQueue (s : State) (c : Nat) (f : Mx → Mx) : (s.modMx c f).hostQueue = s.hostQueue := rfl
@[simp] theorem State.modMx_served (s : State) (c : Nat) (f : Mx → Mx) : (s.modMx c f).served = s.served := rfl
@[simp] theorem State.modMx_applied (s : State) (c : Nat) (f : Mx → Mx) : (s.modMx c f).applied = s.applied := rfl
@[simp] theorem State.modMx_testing (s : State) (c : Nat) (f : Mx → Mx) : (s.modMx c f).testing = s.testing := rfl
@[simp] theorem State.modMx_stuck (s : State) (c : Nat) (f : Mx → Mx) : (s.modMx c f).stuck = s.stuck := rfl
@[simp] theorem State.modMx_recovery (s : State) (c : Nat) (f : Mx → Mx) : (s.modMx c f).recovery = s.recovery := rfl
@[simp] theorem State.modMx_ready (s : State) (c : Nat) (f : Mx → Mx) : (s.modMx c f).ready = s.ready := rfl
@[simp] theorem State.modMx_bankUses (s : State) (c : Nat) (f : Mx → Mx) : (s.modMx c f).bankUses = s.bankUses := rfl
@[simp] theorem State.modMx_pigWrites (s : State) (c : Nat) (f : Mx → Mx) : (s.modMx c f).pigWrites = s.pigWrites := rfl
@[simp] theorem State.modMx_moves (s : State) (c : Nat) (f : Mx → Mx) : (s.modMx c f).moves = s.moves := rfl
@[simp] theorem State.modMx_poison (s : State) (c : Nat) (f : Mx → Mx) : (s.modMx c f).poison = s.poison := rfl
@[simp] theorem State.modMx_dramBad (s : State) (c : Nat) (f : Mx → Mx) : (s.modMx c f).dramBad = s.dramBad := rfl
@[simp] theorem State.modMx_dramSoft (s : State) (c : Nat) (f : Mx → Mx) : (s.modMx c f).dramSoft = s.dramSoft := rfl
@[simp] theorem State.modMx_reqs (s : State) (c : Nat) (f : Mx → Mx) : (s.modMx c f).reqs = s.reqs := rfl
@[simp] theorem State.modMx_linkErrs (s : State) (c : Nat) (f : Mx → Mx) : (s.modMx c f).linkErrs = s.linkErrs := rfl
@[simp] theorem State.modMx_sent (s : State) (c : Nat) (f : Mx → Mx) : (s.modMx c f).sent = s.sent := rfl
@[simp] theorem State.modMx_subCount (s : State) (c : Nat) (f : Mx → Mx) : (s.modMx c f).subCount = s.subCount := rfl
@[simp] theorem State.modMx_out (s : State) (c : Nat) (f : Mx → Mx) : (s.modMx c f).out = s.out := rfl
@[simp] theorem State.modMx_errs (s : State) (c : Nat) (f : Mx → Mx) : (s.modMx c f).errs = s.errs := rfl
@[simp] theorem State.modMx_lasting (s : State) (c : Nat) (f : Mx → Mx) : (s.modMx c f).lasting = s.lasting := rfl
@[simp] theorem State.modMx_duty (s : State) (c : Nat) (f : Mx → Mx) : (s.modMx c f).duty = s.duty := rfl
@[simp] theorem State.modMx_heldWork (s : State) (c : Nat) (f : Mx → Mx) : (s.modMx c f).heldWork = s.heldWork := rfl
@[simp] theorem State.modMx_testAt (s : State) (c : Nat) (f : Mx → Mx) : (s.modMx c f).testAt = s.testAt := rfl
@[simp] theorem State.modMx_mlog (s : State) (c : Nat) (f : Mx → Mx) : (s.modMx c f).mlog = s.mlog := rfl
@[simp] theorem State.modMx_flash (s : State) (c : Nat) (f : Mx → Mx) : (s.modMx c f).flash = s.flash := rfl

/-! ### modSeq -/

@[simp] theorem State.modSeq_gtc (s : State) (f : Seq → Seq) : (s.modSeq f).gtc = s.gtc := rfl
@[simp] theorem State.modSeq_on (s : State) (f : Seq → Seq) : (s.modSeq f).on = s.on := rfl
@[simp] theorem State.modSeq_cur (s : State) (f : Seq → Seq) : (s.modSeq f).cur = s.cur := rfl
@[simp] theorem State.modSeq_me (s : State) (f : Seq → Seq) : (s.modSeq f).me = s.me := rfl
@[simp] theorem State.modSeq_t (s : State) (f : Seq → Seq) : (s.modSeq f).t = s.t := rfl
@[simp] theorem State.modSeq_free (s : State) (f : Seq → Seq) : (s.modSeq f).free = s.free := rfl
@[simp] theorem State.modSeq_due (s : State) (f : Seq → Seq) : (s.modSeq f).due = s.due := rfl
@[simp] theorem State.modSeq_dies (s : State) (f : Seq → Seq) : (s.modSeq f).dies = s.dies := rfl
@[simp] theorem State.modSeq_hbm (s : State) (f : Seq → Seq) : (s.modSeq f).hbm = s.hbm := rfl
@[simp] theorem State.modSeq_dram (s : State) (f : Seq → Seq) : (s.modSeq f).dram = s.dram := rfl
@[simp] theorem State.modSeq_parts (s : State) (f : Seq → Seq) : (s.modSeq f).parts = s.parts := rfl
@[simp] theorem State.modSeq_launches (s : State) (f : Seq → Seq) : (s.modSeq f).launches = s.launches := rfl
@[simp] theorem State.modSeq_svcs (s : State) (f : Seq → Seq) : (s.modSeq f).svcs = s.svcs := rfl
@[simp] theorem State.modSeq_session (s : State) (f : Seq → Seq) : (s.modSeq f).session = s.session := rfl
@[simp] theorem State.modSeq_ports (s : State) (f : Seq → Seq) : (s.modSeq f).ports = s.ports := rfl
@[simp] theorem State.modSeq_tenants (s : State) (f : Seq → Seq) : (s.modSeq f).tenants = s.tenants := rfl
@[simp] theorem State.modSeq_fns (s : State) (f : Seq → Seq) : (s.modSeq f).fns = s.fns := rfl
@[simp] theorem State.modSeq_pigAccess (s : State) (f : Seq → Seq) : (s.modSeq f).pigAccess = s.pigAccess := rfl
@[simp] theorem State.modSeq_unitCount (s : State) (f : Seq → Seq) : (s.modSeq f).unitCount = s.unitCount := rfl
@[simp] theorem State.modSeq_hostQueue (s : State) (f : Seq → Seq) : (s.modSeq f).hostQueue = s.hostQueue := rfl
@[simp] theorem State.modSeq_served (s : State) (f : Seq → Seq) : (s.modSeq f).served = s.served := rfl
@[simp] theorem State.modSeq_applied (s : State) (f : Seq → Seq) : (s.modSeq f).applied = s.applied := rfl
@[simp] theorem State.modSeq_testing (s : State) (f : Seq → Seq) : (s.modSeq f).testing = s.testing := rfl
@[simp] theorem State.modSeq_stuck (s : State) (f : Seq → Seq) : (s.modSeq f).stuck = s.stuck := rfl
@[simp] theorem State.modSeq_recovery (s : State) (f : Seq → Seq) : (s.modSeq f).recovery = s.recovery := rfl
@[simp] theorem State.modSeq_ready (s : State) (f : Seq → Seq) : (s.modSeq f).ready = s.ready := rfl
@[simp] theorem State.modSeq_bankUses (s : State) (f : Seq → Seq) : (s.modSeq f).bankUses = s.bankUses := rfl
@[simp] theorem State.modSeq_pigWrites (s : State) (f : Seq → Seq) : (s.modSeq f).pigWrites = s.pigWrites := rfl
@[simp] theorem State.modSeq_moves (s : State) (f : Seq → Seq) : (s.modSeq f).moves = s.moves := rfl
@[simp] theorem State.modSeq_poison (s : State) (f : Seq → Seq) : (s.modSeq f).poison = s.poison := rfl
@[simp] theorem State.modSeq_dramBad (s : State) (f : Seq → Seq) : (s.modSeq f).dramBad = s.dramBad := rfl
@[simp] theorem State.modSeq_dramSoft (s : State) (f : Seq → Seq) : (s.modSeq f).dramSoft = s.dramSoft := rfl
@[simp] theorem State.modSeq_reqs (s : State) (f : Seq → Seq) : (s.modSeq f).reqs = s.reqs := rfl
@[simp] theorem State.modSeq_linkErrs (s : State) (f : Seq → Seq) : (s.modSeq f).linkErrs = s.linkErrs := rfl
@[simp] theorem State.modSeq_sent (s : State) (f : Seq → Seq) : (s.modSeq f).sent = s.sent := rfl
@[simp] theorem State.modSeq_subCount (s : State) (f : Seq → Seq) : (s.modSeq f).subCount = s.subCount := rfl
@[simp] theorem State.modSeq_out (s : State) (f : Seq → Seq) : (s.modSeq f).out = s.out := rfl
@[simp] theorem State.modSeq_errs (s : State) (f : Seq → Seq) : (s.modSeq f).errs = s.errs := rfl
@[simp] theorem State.modSeq_lasting (s : State) (f : Seq → Seq) : (s.modSeq f).lasting = s.lasting := rfl
@[simp] theorem State.modSeq_duty (s : State) (f : Seq → Seq) : (s.modSeq f).duty = s.duty := rfl
@[simp] theorem State.modSeq_heldWork (s : State) (f : Seq → Seq) : (s.modSeq f).heldWork = s.heldWork := rfl
@[simp] theorem State.modSeq_testAt (s : State) (f : Seq → Seq) : (s.modSeq f).testAt = s.testAt := rfl
@[simp] theorem State.modSeq_mlog (s : State) (f : Seq → Seq) : (s.modSeq f).mlog = s.mlog := rfl
@[simp] theorem State.modSeq_flash (s : State) (f : Seq → Seq) : (s.modSeq f).flash = s.flash := rfl

/-! ### modDie -/

@[simp] theorem State.modDie_gtc (s : State) (d : Nat) (f : Die → Die) : (s.modDie d f).gtc = s.gtc := rfl
@[simp] theorem State.modDie_on (s : State) (d : Nat) (f : Die → Die) : (s.modDie d f).on = s.on := rfl
@[simp] theorem State.modDie_cur (s : State) (d : Nat) (f : Die → Die) : (s.modDie d f).cur = s.cur := rfl
@[simp] theorem State.modDie_me (s : State) (d : Nat) (f : Die → Die) : (s.modDie d f).me = s.me := rfl
@[simp] theorem State.modDie_t (s : State) (d : Nat) (f : Die → Die) : (s.modDie d f).t = s.t := rfl
@[simp] theorem State.modDie_free (s : State) (d : Nat) (f : Die → Die) : (s.modDie d f).free = s.free := rfl
@[simp] theorem State.modDie_due (s : State) (d : Nat) (f : Die → Die) : (s.modDie d f).due = s.due := rfl
@[simp] theorem State.modDie_cores (s : State) (d : Nat) (f : Die → Die) : (s.modDie d f).cores = s.cores := rfl
@[simp] theorem State.modDie_hbm (s : State) (d : Nat) (f : Die → Die) : (s.modDie d f).hbm = s.hbm := rfl
@[simp] theorem State.modDie_dram (s : State) (d : Nat) (f : Die → Die) : (s.modDie d f).dram = s.dram := rfl
@[simp] theorem State.modDie_parts (s : State) (d : Nat) (f : Die → Die) : (s.modDie d f).parts = s.parts := rfl
@[simp] theorem State.modDie_launches (s : State) (d : Nat) (f : Die → Die) : (s.modDie d f).launches = s.launches := rfl
@[simp] theorem State.modDie_svcs (s : State) (d : Nat) (f : Die → Die) : (s.modDie d f).svcs = s.svcs := rfl
@[simp] theorem State.modDie_session (s : State) (d : Nat) (f : Die → Die) : (s.modDie d f).session = s.session := rfl
@[simp] theorem State.modDie_ports (s : State) (d : Nat) (f : Die → Die) : (s.modDie d f).ports = s.ports := rfl
@[simp] theorem State.modDie_tenants (s : State) (d : Nat) (f : Die → Die) : (s.modDie d f).tenants = s.tenants := rfl
@[simp] theorem State.modDie_fns (s : State) (d : Nat) (f : Die → Die) : (s.modDie d f).fns = s.fns := rfl
@[simp] theorem State.modDie_pigAccess (s : State) (d : Nat) (f : Die → Die) : (s.modDie d f).pigAccess = s.pigAccess := rfl
@[simp] theorem State.modDie_unitCount (s : State) (d : Nat) (f : Die → Die) : (s.modDie d f).unitCount = s.unitCount := rfl
@[simp] theorem State.modDie_hostQueue (s : State) (d : Nat) (f : Die → Die) : (s.modDie d f).hostQueue = s.hostQueue := rfl
@[simp] theorem State.modDie_served (s : State) (d : Nat) (f : Die → Die) : (s.modDie d f).served = s.served := rfl
@[simp] theorem State.modDie_applied (s : State) (d : Nat) (f : Die → Die) : (s.modDie d f).applied = s.applied := rfl
@[simp] theorem State.modDie_testing (s : State) (d : Nat) (f : Die → Die) : (s.modDie d f).testing = s.testing := rfl
@[simp] theorem State.modDie_stuck (s : State) (d : Nat) (f : Die → Die) : (s.modDie d f).stuck = s.stuck := rfl
@[simp] theorem State.modDie_recovery (s : State) (d : Nat) (f : Die → Die) : (s.modDie d f).recovery = s.recovery := rfl
@[simp] theorem State.modDie_ready (s : State) (d : Nat) (f : Die → Die) : (s.modDie d f).ready = s.ready := rfl
@[simp] theorem State.modDie_bankUses (s : State) (d : Nat) (f : Die → Die) : (s.modDie d f).bankUses = s.bankUses := rfl
@[simp] theorem State.modDie_pigWrites (s : State) (d : Nat) (f : Die → Die) : (s.modDie d f).pigWrites = s.pigWrites := rfl
@[simp] theorem State.modDie_moves (s : State) (d : Nat) (f : Die → Die) : (s.modDie d f).moves = s.moves := rfl
@[simp] theorem State.modDie_poison (s : State) (d : Nat) (f : Die → Die) : (s.modDie d f).poison = s.poison := rfl
@[simp] theorem State.modDie_dramBad (s : State) (d : Nat) (f : Die → Die) : (s.modDie d f).dramBad = s.dramBad := rfl
@[simp] theorem State.modDie_dramSoft (s : State) (d : Nat) (f : Die → Die) : (s.modDie d f).dramSoft = s.dramSoft := rfl
@[simp] theorem State.modDie_reqs (s : State) (d : Nat) (f : Die → Die) : (s.modDie d f).reqs = s.reqs := rfl
@[simp] theorem State.modDie_linkErrs (s : State) (d : Nat) (f : Die → Die) : (s.modDie d f).linkErrs = s.linkErrs := rfl
@[simp] theorem State.modDie_sent (s : State) (d : Nat) (f : Die → Die) : (s.modDie d f).sent = s.sent := rfl
@[simp] theorem State.modDie_subCount (s : State) (d : Nat) (f : Die → Die) : (s.modDie d f).subCount = s.subCount := rfl
@[simp] theorem State.modDie_out (s : State) (d : Nat) (f : Die → Die) : (s.modDie d f).out = s.out := rfl
@[simp] theorem State.modDie_errs (s : State) (d : Nat) (f : Die → Die) : (s.modDie d f).errs = s.errs := rfl
@[simp] theorem State.modDie_lasting (s : State) (d : Nat) (f : Die → Die) : (s.modDie d f).lasting = s.lasting := rfl
@[simp] theorem State.modDie_duty (s : State) (d : Nat) (f : Die → Die) : (s.modDie d f).duty = s.duty := rfl
@[simp] theorem State.modDie_heldWork (s : State) (d : Nat) (f : Die → Die) : (s.modDie d f).heldWork = s.heldWork := rfl
@[simp] theorem State.modDie_testAt (s : State) (d : Nat) (f : Die → Die) : (s.modDie d f).testAt = s.testAt := rfl
@[simp] theorem State.modDie_mlog (s : State) (d : Nat) (f : Die → Die) : (s.modDie d f).mlog = s.mlog := rfl
@[simp] theorem State.modDie_flash (s : State) (d : Nat) (f : Die → Die) : (s.modDie d f).flash = s.flash := rfl

/-! ### modFn -/

@[simp] theorem State.modFn_gtc (s : State) (n : Nat) (f : Func → Func) : (s.modFn n f).gtc = s.gtc := rfl
@[simp] theorem State.modFn_on (s : State) (n : Nat) (f : Func → Func) : (s.modFn n f).on = s.on := rfl
@[simp] theorem State.modFn_cur (s : State) (n : Nat) (f : Func → Func) : (s.modFn n f).cur = s.cur := rfl
@[simp] theorem State.modFn_me (s : State) (n : Nat) (f : Func → Func) : (s.modFn n f).me = s.me := rfl
@[simp] theorem State.modFn_t (s : State) (n : Nat) (f : Func → Func) : (s.modFn n f).t = s.t := rfl
@[simp] theorem State.modFn_free (s : State) (n : Nat) (f : Func → Func) : (s.modFn n f).free = s.free := rfl
@[simp] theorem State.modFn_due (s : State) (n : Nat) (f : Func → Func) : (s.modFn n f).due = s.due := rfl
@[simp] theorem State.modFn_cores (s : State) (n : Nat) (f : Func → Func) : (s.modFn n f).cores = s.cores := rfl
@[simp] theorem State.modFn_dies (s : State) (n : Nat) (f : Func → Func) : (s.modFn n f).dies = s.dies := rfl
@[simp] theorem State.modFn_hbm (s : State) (n : Nat) (f : Func → Func) : (s.modFn n f).hbm = s.hbm := rfl
@[simp] theorem State.modFn_dram (s : State) (n : Nat) (f : Func → Func) : (s.modFn n f).dram = s.dram := rfl
@[simp] theorem State.modFn_parts (s : State) (n : Nat) (f : Func → Func) : (s.modFn n f).parts = s.parts := rfl
@[simp] theorem State.modFn_launches (s : State) (n : Nat) (f : Func → Func) : (s.modFn n f).launches = s.launches := rfl
@[simp] theorem State.modFn_svcs (s : State) (n : Nat) (f : Func → Func) : (s.modFn n f).svcs = s.svcs := rfl
@[simp] theorem State.modFn_session (s : State) (n : Nat) (f : Func → Func) : (s.modFn n f).session = s.session := rfl
@[simp] theorem State.modFn_ports (s : State) (n : Nat) (f : Func → Func) : (s.modFn n f).ports = s.ports := rfl
@[simp] theorem State.modFn_tenants (s : State) (n : Nat) (f : Func → Func) : (s.modFn n f).tenants = s.tenants := rfl
@[simp] theorem State.modFn_pigAccess (s : State) (n : Nat) (f : Func → Func) : (s.modFn n f).pigAccess = s.pigAccess := rfl
@[simp] theorem State.modFn_unitCount (s : State) (n : Nat) (f : Func → Func) : (s.modFn n f).unitCount = s.unitCount := rfl
@[simp] theorem State.modFn_hostQueue (s : State) (n : Nat) (f : Func → Func) : (s.modFn n f).hostQueue = s.hostQueue := rfl
@[simp] theorem State.modFn_served (s : State) (n : Nat) (f : Func → Func) : (s.modFn n f).served = s.served := rfl
@[simp] theorem State.modFn_applied (s : State) (n : Nat) (f : Func → Func) : (s.modFn n f).applied = s.applied := rfl
@[simp] theorem State.modFn_testing (s : State) (n : Nat) (f : Func → Func) : (s.modFn n f).testing = s.testing := rfl
@[simp] theorem State.modFn_stuck (s : State) (n : Nat) (f : Func → Func) : (s.modFn n f).stuck = s.stuck := rfl
@[simp] theorem State.modFn_recovery (s : State) (n : Nat) (f : Func → Func) : (s.modFn n f).recovery = s.recovery := rfl
@[simp] theorem State.modFn_ready (s : State) (n : Nat) (f : Func → Func) : (s.modFn n f).ready = s.ready := rfl
@[simp] theorem State.modFn_bankUses (s : State) (n : Nat) (f : Func → Func) : (s.modFn n f).bankUses = s.bankUses := rfl
@[simp] theorem State.modFn_pigWrites (s : State) (n : Nat) (f : Func → Func) : (s.modFn n f).pigWrites = s.pigWrites := rfl
@[simp] theorem State.modFn_moves (s : State) (n : Nat) (f : Func → Func) : (s.modFn n f).moves = s.moves := rfl
@[simp] theorem State.modFn_poison (s : State) (n : Nat) (f : Func → Func) : (s.modFn n f).poison = s.poison := rfl
@[simp] theorem State.modFn_dramBad (s : State) (n : Nat) (f : Func → Func) : (s.modFn n f).dramBad = s.dramBad := rfl
@[simp] theorem State.modFn_dramSoft (s : State) (n : Nat) (f : Func → Func) : (s.modFn n f).dramSoft = s.dramSoft := rfl
@[simp] theorem State.modFn_reqs (s : State) (n : Nat) (f : Func → Func) : (s.modFn n f).reqs = s.reqs := rfl
@[simp] theorem State.modFn_linkErrs (s : State) (n : Nat) (f : Func → Func) : (s.modFn n f).linkErrs = s.linkErrs := rfl
@[simp] theorem State.modFn_sent (s : State) (n : Nat) (f : Func → Func) : (s.modFn n f).sent = s.sent := rfl
@[simp] theorem State.modFn_subCount (s : State) (n : Nat) (f : Func → Func) : (s.modFn n f).subCount = s.subCount := rfl
@[simp] theorem State.modFn_out (s : State) (n : Nat) (f : Func → Func) : (s.modFn n f).out = s.out := rfl
@[simp] theorem State.modFn_errs (s : State) (n : Nat) (f : Func → Func) : (s.modFn n f).errs = s.errs := rfl
@[simp] theorem State.modFn_lasting (s : State) (n : Nat) (f : Func → Func) : (s.modFn n f).lasting = s.lasting := rfl
@[simp] theorem State.modFn_duty (s : State) (n : Nat) (f : Func → Func) : (s.modFn n f).duty = s.duty := rfl
@[simp] theorem State.modFn_heldWork (s : State) (n : Nat) (f : Func → Func) : (s.modFn n f).heldWork = s.heldWork := rfl
@[simp] theorem State.modFn_testAt (s : State) (n : Nat) (f : Func → Func) : (s.modFn n f).testAt = s.testAt := rfl
@[simp] theorem State.modFn_mlog (s : State) (n : Nat) (f : Func → Func) : (s.modFn n f).mlog = s.mlog := rfl
@[simp] theorem State.modFn_flash (s : State) (n : Nat) (f : Func → Func) : (s.modFn n f).flash = s.flash := rfl

/-! ### modPart -/

@[simp] theorem State.modPart_gtc (s : State) (p : Nat) (f : Part → Part) : (s.modPart p f).gtc = s.gtc := rfl
@[simp] theorem State.modPart_on (s : State) (p : Nat) (f : Part → Part) : (s.modPart p f).on = s.on := rfl
@[simp] theorem State.modPart_cur (s : State) (p : Nat) (f : Part → Part) : (s.modPart p f).cur = s.cur := rfl
@[simp] theorem State.modPart_me (s : State) (p : Nat) (f : Part → Part) : (s.modPart p f).me = s.me := rfl
@[simp] theorem State.modPart_t (s : State) (p : Nat) (f : Part → Part) : (s.modPart p f).t = s.t := rfl
@[simp] theorem State.modPart_free (s : State) (p : Nat) (f : Part → Part) : (s.modPart p f).free = s.free := rfl
@[simp] theorem State.modPart_due (s : State) (p : Nat) (f : Part → Part) : (s.modPart p f).due = s.due := rfl
@[simp] theorem State.modPart_cores (s : State) (p : Nat) (f : Part → Part) : (s.modPart p f).cores = s.cores := rfl
@[simp] theorem State.modPart_dies (s : State) (p : Nat) (f : Part → Part) : (s.modPart p f).dies = s.dies := rfl
@[simp] theorem State.modPart_hbm (s : State) (p : Nat) (f : Part → Part) : (s.modPart p f).hbm = s.hbm := rfl
@[simp] theorem State.modPart_dram (s : State) (p : Nat) (f : Part → Part) : (s.modPart p f).dram = s.dram := rfl
@[simp] theorem State.modPart_launches (s : State) (p : Nat) (f : Part → Part) : (s.modPart p f).launches = s.launches := rfl
@[simp] theorem State.modPart_svcs (s : State) (p : Nat) (f : Part → Part) : (s.modPart p f).svcs = s.svcs := rfl
@[simp] theorem State.modPart_session (s : State) (p : Nat) (f : Part → Part) : (s.modPart p f).session = s.session := rfl
@[simp] theorem State.modPart_ports (s : State) (p : Nat) (f : Part → Part) : (s.modPart p f).ports = s.ports := rfl
@[simp] theorem State.modPart_tenants (s : State) (p : Nat) (f : Part → Part) : (s.modPart p f).tenants = s.tenants := rfl
@[simp] theorem State.modPart_fns (s : State) (p : Nat) (f : Part → Part) : (s.modPart p f).fns = s.fns := rfl
@[simp] theorem State.modPart_pigAccess (s : State) (p : Nat) (f : Part → Part) : (s.modPart p f).pigAccess = s.pigAccess := rfl
@[simp] theorem State.modPart_unitCount (s : State) (p : Nat) (f : Part → Part) : (s.modPart p f).unitCount = s.unitCount := rfl
@[simp] theorem State.modPart_hostQueue (s : State) (p : Nat) (f : Part → Part) : (s.modPart p f).hostQueue = s.hostQueue := rfl
@[simp] theorem State.modPart_served (s : State) (p : Nat) (f : Part → Part) : (s.modPart p f).served = s.served := rfl
@[simp] theorem State.modPart_applied (s : State) (p : Nat) (f : Part → Part) : (s.modPart p f).applied = s.applied := rfl
@[simp] theorem State.modPart_testing (s : State) (p : Nat) (f : Part → Part) : (s.modPart p f).testing = s.testing := rfl
@[simp] theorem State.modPart_stuck (s : State) (p : Nat) (f : Part → Part) : (s.modPart p f).stuck = s.stuck := rfl
@[simp] theorem State.modPart_recovery (s : State) (p : Nat) (f : Part → Part) : (s.modPart p f).recovery = s.recovery := rfl
@[simp] theorem State.modPart_ready (s : State) (p : Nat) (f : Part → Part) : (s.modPart p f).ready = s.ready := rfl
@[simp] theorem State.modPart_bankUses (s : State) (p : Nat) (f : Part → Part) : (s.modPart p f).bankUses = s.bankUses := rfl
@[simp] theorem State.modPart_pigWrites (s : State) (p : Nat) (f : Part → Part) : (s.modPart p f).pigWrites = s.pigWrites := rfl
@[simp] theorem State.modPart_moves (s : State) (p : Nat) (f : Part → Part) : (s.modPart p f).moves = s.moves := rfl
@[simp] theorem State.modPart_poison (s : State) (p : Nat) (f : Part → Part) : (s.modPart p f).poison = s.poison := rfl
@[simp] theorem State.modPart_dramBad (s : State) (p : Nat) (f : Part → Part) : (s.modPart p f).dramBad = s.dramBad := rfl
@[simp] theorem State.modPart_dramSoft (s : State) (p : Nat) (f : Part → Part) : (s.modPart p f).dramSoft = s.dramSoft := rfl
@[simp] theorem State.modPart_reqs (s : State) (p : Nat) (f : Part → Part) : (s.modPart p f).reqs = s.reqs := rfl
@[simp] theorem State.modPart_linkErrs (s : State) (p : Nat) (f : Part → Part) : (s.modPart p f).linkErrs = s.linkErrs := rfl
@[simp] theorem State.modPart_sent (s : State) (p : Nat) (f : Part → Part) : (s.modPart p f).sent = s.sent := rfl
@[simp] theorem State.modPart_subCount (s : State) (p : Nat) (f : Part → Part) : (s.modPart p f).subCount = s.subCount := rfl
@[simp] theorem State.modPart_out (s : State) (p : Nat) (f : Part → Part) : (s.modPart p f).out = s.out := rfl
@[simp] theorem State.modPart_errs (s : State) (p : Nat) (f : Part → Part) : (s.modPart p f).errs = s.errs := rfl
@[simp] theorem State.modPart_lasting (s : State) (p : Nat) (f : Part → Part) : (s.modPart p f).lasting = s.lasting := rfl
@[simp] theorem State.modPart_duty (s : State) (p : Nat) (f : Part → Part) : (s.modPart p f).duty = s.duty := rfl
@[simp] theorem State.modPart_heldWork (s : State) (p : Nat) (f : Part → Part) : (s.modPart p f).heldWork = s.heldWork := rfl
@[simp] theorem State.modPart_testAt (s : State) (p : Nat) (f : Part → Part) : (s.modPart p f).testAt = s.testAt := rfl
@[simp] theorem State.modPart_mlog (s : State) (p : Nat) (f : Part → Part) : (s.modPart p f).mlog = s.mlog := rfl
@[simp] theorem State.modPart_flash (s : State) (p : Nat) (f : Part → Part) : (s.modPart p f).flash = s.flash := rfl

/-! ### modStack -/

@[simp] theorem State.modStack_gtc (s : State) (n : Nat) (f : Stack → Stack) : (s.modStack n f).gtc = s.gtc := rfl
@[simp] theorem State.modStack_on (s : State) (n : Nat) (f : Stack → Stack) : (s.modStack n f).on = s.on := rfl
@[simp] theorem State.modStack_cur (s : State) (n : Nat) (f : Stack → Stack) : (s.modStack n f).cur = s.cur := rfl
@[simp] theorem State.modStack_me (s : State) (n : Nat) (f : Stack → Stack) : (s.modStack n f).me = s.me := rfl
@[simp] theorem State.modStack_t (s : State) (n : Nat) (f : Stack → Stack) : (s.modStack n f).t = s.t := rfl
@[simp] theorem State.modStack_free (s : State) (n : Nat) (f : Stack → Stack) : (s.modStack n f).free = s.free := rfl
@[simp] theorem State.modStack_due (s : State) (n : Nat) (f : Stack → Stack) : (s.modStack n f).due = s.due := rfl
@[simp] theorem State.modStack_cores (s : State) (n : Nat) (f : Stack → Stack) : (s.modStack n f).cores = s.cores := rfl
@[simp] theorem State.modStack_dies (s : State) (n : Nat) (f : Stack → Stack) : (s.modStack n f).dies = s.dies := rfl
@[simp] theorem State.modStack_dram (s : State) (n : Nat) (f : Stack → Stack) : (s.modStack n f).dram = s.dram := rfl
@[simp] theorem State.modStack_parts (s : State) (n : Nat) (f : Stack → Stack) : (s.modStack n f).parts = s.parts := rfl
@[simp] theorem State.modStack_launches (s : State) (n : Nat) (f : Stack → Stack) : (s.modStack n f).launches = s.launches := rfl
@[simp] theorem State.modStack_svcs (s : State) (n : Nat) (f : Stack → Stack) : (s.modStack n f).svcs = s.svcs := rfl
@[simp] theorem State.modStack_session (s : State) (n : Nat) (f : Stack → Stack) : (s.modStack n f).session = s.session := rfl
@[simp] theorem State.modStack_ports (s : State) (n : Nat) (f : Stack → Stack) : (s.modStack n f).ports = s.ports := rfl
@[simp] theorem State.modStack_tenants (s : State) (n : Nat) (f : Stack → Stack) : (s.modStack n f).tenants = s.tenants := rfl
@[simp] theorem State.modStack_fns (s : State) (n : Nat) (f : Stack → Stack) : (s.modStack n f).fns = s.fns := rfl
@[simp] theorem State.modStack_pigAccess (s : State) (n : Nat) (f : Stack → Stack) : (s.modStack n f).pigAccess = s.pigAccess := rfl
@[simp] theorem State.modStack_unitCount (s : State) (n : Nat) (f : Stack → Stack) : (s.modStack n f).unitCount = s.unitCount := rfl
@[simp] theorem State.modStack_hostQueue (s : State) (n : Nat) (f : Stack → Stack) : (s.modStack n f).hostQueue = s.hostQueue := rfl
@[simp] theorem State.modStack_served (s : State) (n : Nat) (f : Stack → Stack) : (s.modStack n f).served = s.served := rfl
@[simp] theorem State.modStack_applied (s : State) (n : Nat) (f : Stack → Stack) : (s.modStack n f).applied = s.applied := rfl
@[simp] theorem State.modStack_testing (s : State) (n : Nat) (f : Stack → Stack) : (s.modStack n f).testing = s.testing := rfl
@[simp] theorem State.modStack_stuck (s : State) (n : Nat) (f : Stack → Stack) : (s.modStack n f).stuck = s.stuck := rfl
@[simp] theorem State.modStack_recovery (s : State) (n : Nat) (f : Stack → Stack) : (s.modStack n f).recovery = s.recovery := rfl
@[simp] theorem State.modStack_ready (s : State) (n : Nat) (f : Stack → Stack) : (s.modStack n f).ready = s.ready := rfl
@[simp] theorem State.modStack_bankUses (s : State) (n : Nat) (f : Stack → Stack) : (s.modStack n f).bankUses = s.bankUses := rfl
@[simp] theorem State.modStack_pigWrites (s : State) (n : Nat) (f : Stack → Stack) : (s.modStack n f).pigWrites = s.pigWrites := rfl
@[simp] theorem State.modStack_moves (s : State) (n : Nat) (f : Stack → Stack) : (s.modStack n f).moves = s.moves := rfl
@[simp] theorem State.modStack_poison (s : State) (n : Nat) (f : Stack → Stack) : (s.modStack n f).poison = s.poison := rfl
@[simp] theorem State.modStack_dramBad (s : State) (n : Nat) (f : Stack → Stack) : (s.modStack n f).dramBad = s.dramBad := rfl
@[simp] theorem State.modStack_dramSoft (s : State) (n : Nat) (f : Stack → Stack) : (s.modStack n f).dramSoft = s.dramSoft := rfl
@[simp] theorem State.modStack_reqs (s : State) (n : Nat) (f : Stack → Stack) : (s.modStack n f).reqs = s.reqs := rfl
@[simp] theorem State.modStack_linkErrs (s : State) (n : Nat) (f : Stack → Stack) : (s.modStack n f).linkErrs = s.linkErrs := rfl
@[simp] theorem State.modStack_sent (s : State) (n : Nat) (f : Stack → Stack) : (s.modStack n f).sent = s.sent := rfl
@[simp] theorem State.modStack_subCount (s : State) (n : Nat) (f : Stack → Stack) : (s.modStack n f).subCount = s.subCount := rfl
@[simp] theorem State.modStack_out (s : State) (n : Nat) (f : Stack → Stack) : (s.modStack n f).out = s.out := rfl
@[simp] theorem State.modStack_errs (s : State) (n : Nat) (f : Stack → Stack) : (s.modStack n f).errs = s.errs := rfl
@[simp] theorem State.modStack_lasting (s : State) (n : Nat) (f : Stack → Stack) : (s.modStack n f).lasting = s.lasting := rfl
@[simp] theorem State.modStack_duty (s : State) (n : Nat) (f : Stack → Stack) : (s.modStack n f).duty = s.duty := rfl
@[simp] theorem State.modStack_heldWork (s : State) (n : Nat) (f : Stack → Stack) : (s.modStack n f).heldWork = s.heldWork := rfl
@[simp] theorem State.modStack_testAt (s : State) (n : Nat) (f : Stack → Stack) : (s.modStack n f).testAt = s.testAt := rfl
@[simp] theorem State.modStack_mlog (s : State) (n : Nat) (f : Stack → Stack) : (s.modStack n f).mlog = s.mlog := rfl
@[simp] theorem State.modStack_flash (s : State) (n : Nat) (f : Stack → Stack) : (s.modStack n f).flash = s.flash := rfl

/-! ### modPort -/

@[simp] theorem State.modPort_gtc (s : State) (p : Nat) (f : Port → Port) : (s.modPort p f).gtc = s.gtc := rfl
@[simp] theorem State.modPort_on (s : State) (p : Nat) (f : Port → Port) : (s.modPort p f).on = s.on := rfl
@[simp] theorem State.modPort_cur (s : State) (p : Nat) (f : Port → Port) : (s.modPort p f).cur = s.cur := rfl
@[simp] theorem State.modPort_me (s : State) (p : Nat) (f : Port → Port) : (s.modPort p f).me = s.me := rfl
@[simp] theorem State.modPort_t (s : State) (p : Nat) (f : Port → Port) : (s.modPort p f).t = s.t := rfl
@[simp] theorem State.modPort_free (s : State) (p : Nat) (f : Port → Port) : (s.modPort p f).free = s.free := rfl
@[simp] theorem State.modPort_due (s : State) (p : Nat) (f : Port → Port) : (s.modPort p f).due = s.due := rfl
@[simp] theorem State.modPort_cores (s : State) (p : Nat) (f : Port → Port) : (s.modPort p f).cores = s.cores := rfl
@[simp] theorem State.modPort_dies (s : State) (p : Nat) (f : Port → Port) : (s.modPort p f).dies = s.dies := rfl
@[simp] theorem State.modPort_hbm (s : State) (p : Nat) (f : Port → Port) : (s.modPort p f).hbm = s.hbm := rfl
@[simp] theorem State.modPort_dram (s : State) (p : Nat) (f : Port → Port) : (s.modPort p f).dram = s.dram := rfl
@[simp] theorem State.modPort_parts (s : State) (p : Nat) (f : Port → Port) : (s.modPort p f).parts = s.parts := rfl
@[simp] theorem State.modPort_launches (s : State) (p : Nat) (f : Port → Port) : (s.modPort p f).launches = s.launches := rfl
@[simp] theorem State.modPort_svcs (s : State) (p : Nat) (f : Port → Port) : (s.modPort p f).svcs = s.svcs := rfl
@[simp] theorem State.modPort_session (s : State) (p : Nat) (f : Port → Port) : (s.modPort p f).session = s.session := rfl
@[simp] theorem State.modPort_tenants (s : State) (p : Nat) (f : Port → Port) : (s.modPort p f).tenants = s.tenants := rfl
@[simp] theorem State.modPort_fns (s : State) (p : Nat) (f : Port → Port) : (s.modPort p f).fns = s.fns := rfl
@[simp] theorem State.modPort_pigAccess (s : State) (p : Nat) (f : Port → Port) : (s.modPort p f).pigAccess = s.pigAccess := rfl
@[simp] theorem State.modPort_unitCount (s : State) (p : Nat) (f : Port → Port) : (s.modPort p f).unitCount = s.unitCount := rfl
@[simp] theorem State.modPort_hostQueue (s : State) (p : Nat) (f : Port → Port) : (s.modPort p f).hostQueue = s.hostQueue := rfl
@[simp] theorem State.modPort_served (s : State) (p : Nat) (f : Port → Port) : (s.modPort p f).served = s.served := rfl
@[simp] theorem State.modPort_applied (s : State) (p : Nat) (f : Port → Port) : (s.modPort p f).applied = s.applied := rfl
@[simp] theorem State.modPort_testing (s : State) (p : Nat) (f : Port → Port) : (s.modPort p f).testing = s.testing := rfl
@[simp] theorem State.modPort_stuck (s : State) (p : Nat) (f : Port → Port) : (s.modPort p f).stuck = s.stuck := rfl
@[simp] theorem State.modPort_recovery (s : State) (p : Nat) (f : Port → Port) : (s.modPort p f).recovery = s.recovery := rfl
@[simp] theorem State.modPort_ready (s : State) (p : Nat) (f : Port → Port) : (s.modPort p f).ready = s.ready := rfl
@[simp] theorem State.modPort_bankUses (s : State) (p : Nat) (f : Port → Port) : (s.modPort p f).bankUses = s.bankUses := rfl
@[simp] theorem State.modPort_pigWrites (s : State) (p : Nat) (f : Port → Port) : (s.modPort p f).pigWrites = s.pigWrites := rfl
@[simp] theorem State.modPort_moves (s : State) (p : Nat) (f : Port → Port) : (s.modPort p f).moves = s.moves := rfl
@[simp] theorem State.modPort_poison (s : State) (p : Nat) (f : Port → Port) : (s.modPort p f).poison = s.poison := rfl
@[simp] theorem State.modPort_dramBad (s : State) (p : Nat) (f : Port → Port) : (s.modPort p f).dramBad = s.dramBad := rfl
@[simp] theorem State.modPort_dramSoft (s : State) (p : Nat) (f : Port → Port) : (s.modPort p f).dramSoft = s.dramSoft := rfl
@[simp] theorem State.modPort_reqs (s : State) (p : Nat) (f : Port → Port) : (s.modPort p f).reqs = s.reqs := rfl
@[simp] theorem State.modPort_linkErrs (s : State) (p : Nat) (f : Port → Port) : (s.modPort p f).linkErrs = s.linkErrs := rfl
@[simp] theorem State.modPort_sent (s : State) (p : Nat) (f : Port → Port) : (s.modPort p f).sent = s.sent := rfl
@[simp] theorem State.modPort_subCount (s : State) (p : Nat) (f : Port → Port) : (s.modPort p f).subCount = s.subCount := rfl
@[simp] theorem State.modPort_out (s : State) (p : Nat) (f : Port → Port) : (s.modPort p f).out = s.out := rfl
@[simp] theorem State.modPort_errs (s : State) (p : Nat) (f : Port → Port) : (s.modPort p f).errs = s.errs := rfl
@[simp] theorem State.modPort_lasting (s : State) (p : Nat) (f : Port → Port) : (s.modPort p f).lasting = s.lasting := rfl
@[simp] theorem State.modPort_duty (s : State) (p : Nat) (f : Port → Port) : (s.modPort p f).duty = s.duty := rfl
@[simp] theorem State.modPort_heldWork (s : State) (p : Nat) (f : Port → Port) : (s.modPort p f).heldWork = s.heldWork := rfl
@[simp] theorem State.modPort_testAt (s : State) (p : Nat) (f : Port → Port) : (s.modPort p f).testAt = s.testAt := rfl
@[simp] theorem State.modPort_mlog (s : State) (p : Nat) (f : Port → Port) : (s.modPort p f).mlog = s.mlog := rfl
@[simp] theorem State.modPort_flash (s : State) (p : Nat) (f : Port → Port) : (s.modPort p f).flash = s.flash := rfl

/-! ### modLaunch -/

@[simp] theorem State.modLaunch_gtc (s : State) (k : Nat) (f : Launch → Launch) : (s.modLaunch k f).gtc = s.gtc := rfl
@[simp] theorem State.modLaunch_on (s : State) (k : Nat) (f : Launch → Launch) : (s.modLaunch k f).on = s.on := rfl
@[simp] theorem State.modLaunch_cur (s : State) (k : Nat) (f : Launch → Launch) : (s.modLaunch k f).cur = s.cur := rfl
@[simp] theorem State.modLaunch_me (s : State) (k : Nat) (f : Launch → Launch) : (s.modLaunch k f).me = s.me := rfl
@[simp] theorem State.modLaunch_t (s : State) (k : Nat) (f : Launch → Launch) : (s.modLaunch k f).t = s.t := rfl
@[simp] theorem State.modLaunch_free (s : State) (k : Nat) (f : Launch → Launch) : (s.modLaunch k f).free = s.free := rfl
@[simp] theorem State.modLaunch_due (s : State) (k : Nat) (f : Launch → Launch) : (s.modLaunch k f).due = s.due := rfl
@[simp] theorem State.modLaunch_cores (s : State) (k : Nat) (f : Launch → Launch) : (s.modLaunch k f).cores = s.cores := rfl
@[simp] theorem State.modLaunch_dies (s : State) (k : Nat) (f : Launch → Launch) : (s.modLaunch k f).dies = s.dies := rfl
@[simp] theorem State.modLaunch_hbm (s : State) (k : Nat) (f : Launch → Launch) : (s.modLaunch k f).hbm = s.hbm := rfl
@[simp] theorem State.modLaunch_dram (s : State) (k : Nat) (f : Launch → Launch) : (s.modLaunch k f).dram = s.dram := rfl
@[simp] theorem State.modLaunch_parts (s : State) (k : Nat) (f : Launch → Launch) : (s.modLaunch k f).parts = s.parts := rfl
@[simp] theorem State.modLaunch_svcs (s : State) (k : Nat) (f : Launch → Launch) : (s.modLaunch k f).svcs = s.svcs := rfl
@[simp] theorem State.modLaunch_session (s : State) (k : Nat) (f : Launch → Launch) : (s.modLaunch k f).session = s.session := rfl
@[simp] theorem State.modLaunch_ports (s : State) (k : Nat) (f : Launch → Launch) : (s.modLaunch k f).ports = s.ports := rfl
@[simp] theorem State.modLaunch_tenants (s : State) (k : Nat) (f : Launch → Launch) : (s.modLaunch k f).tenants = s.tenants := rfl
@[simp] theorem State.modLaunch_fns (s : State) (k : Nat) (f : Launch → Launch) : (s.modLaunch k f).fns = s.fns := rfl
@[simp] theorem State.modLaunch_pigAccess (s : State) (k : Nat) (f : Launch → Launch) : (s.modLaunch k f).pigAccess = s.pigAccess := rfl
@[simp] theorem State.modLaunch_unitCount (s : State) (k : Nat) (f : Launch → Launch) : (s.modLaunch k f).unitCount = s.unitCount := rfl
@[simp] theorem State.modLaunch_hostQueue (s : State) (k : Nat) (f : Launch → Launch) : (s.modLaunch k f).hostQueue = s.hostQueue := rfl
@[simp] theorem State.modLaunch_served (s : State) (k : Nat) (f : Launch → Launch) : (s.modLaunch k f).served = s.served := rfl
@[simp] theorem State.modLaunch_applied (s : State) (k : Nat) (f : Launch → Launch) : (s.modLaunch k f).applied = s.applied := rfl
@[simp] theorem State.modLaunch_testing (s : State) (k : Nat) (f : Launch → Launch) : (s.modLaunch k f).testing = s.testing := rfl
@[simp] theorem State.modLaunch_stuck (s : State) (k : Nat) (f : Launch → Launch) : (s.modLaunch k f).stuck = s.stuck := rfl
@[simp] theorem State.modLaunch_recovery (s : State) (k : Nat) (f : Launch → Launch) : (s.modLaunch k f).recovery = s.recovery := rfl
@[simp] theorem State.modLaunch_ready (s : State) (k : Nat) (f : Launch → Launch) : (s.modLaunch k f).ready = s.ready := rfl
@[simp] theorem State.modLaunch_bankUses (s : State) (k : Nat) (f : Launch → Launch) : (s.modLaunch k f).bankUses = s.bankUses := rfl
@[simp] theorem State.modLaunch_pigWrites (s : State) (k : Nat) (f : Launch → Launch) : (s.modLaunch k f).pigWrites = s.pigWrites := rfl
@[simp] theorem State.modLaunch_moves (s : State) (k : Nat) (f : Launch → Launch) : (s.modLaunch k f).moves = s.moves := rfl
@[simp] theorem State.modLaunch_poison (s : State) (k : Nat) (f : Launch → Launch) : (s.modLaunch k f).poison = s.poison := rfl
@[simp] theorem State.modLaunch_dramBad (s : State) (k : Nat) (f : Launch → Launch) : (s.modLaunch k f).dramBad = s.dramBad := rfl
@[simp] theorem State.modLaunch_dramSoft (s : State) (k : Nat) (f : Launch → Launch) : (s.modLaunch k f).dramSoft = s.dramSoft := rfl
@[simp] theorem State.modLaunch_reqs (s : State) (k : Nat) (f : Launch → Launch) : (s.modLaunch k f).reqs = s.reqs := rfl
@[simp] theorem State.modLaunch_linkErrs (s : State) (k : Nat) (f : Launch → Launch) : (s.modLaunch k f).linkErrs = s.linkErrs := rfl
@[simp] theorem State.modLaunch_sent (s : State) (k : Nat) (f : Launch → Launch) : (s.modLaunch k f).sent = s.sent := rfl
@[simp] theorem State.modLaunch_subCount (s : State) (k : Nat) (f : Launch → Launch) : (s.modLaunch k f).subCount = s.subCount := rfl
@[simp] theorem State.modLaunch_out (s : State) (k : Nat) (f : Launch → Launch) : (s.modLaunch k f).out = s.out := rfl
@[simp] theorem State.modLaunch_errs (s : State) (k : Nat) (f : Launch → Launch) : (s.modLaunch k f).errs = s.errs := rfl
@[simp] theorem State.modLaunch_lasting (s : State) (k : Nat) (f : Launch → Launch) : (s.modLaunch k f).lasting = s.lasting := rfl
@[simp] theorem State.modLaunch_duty (s : State) (k : Nat) (f : Launch → Launch) : (s.modLaunch k f).duty = s.duty := rfl
@[simp] theorem State.modLaunch_heldWork (s : State) (k : Nat) (f : Launch → Launch) : (s.modLaunch k f).heldWork = s.heldWork := rfl
@[simp] theorem State.modLaunch_testAt (s : State) (k : Nat) (f : Launch → Launch) : (s.modLaunch k f).testAt = s.testAt := rfl
@[simp] theorem State.modLaunch_mlog (s : State) (k : Nat) (f : Launch → Launch) : (s.modLaunch k f).mlog = s.mlog := rfl
@[simp] theorem State.modLaunch_flash (s : State) (k : Nat) (f : Launch → Launch) : (s.modLaunch k f).flash = s.flash := rfl

/-! ### reply -/

@[simp] theorem State.reply_gtc (s : State) (r : Reply) : (s.reply r).gtc = s.gtc := rfl
@[simp] theorem State.reply_on (s : State) (r : Reply) : (s.reply r).on = s.on := rfl
@[simp] theorem State.reply_cur (s : State) (r : Reply) : (s.reply r).cur = s.cur := rfl
@[simp] theorem State.reply_me (s : State) (r : Reply) : (s.reply r).me = s.me := rfl
@[simp] theorem State.reply_t (s : State) (r : Reply) : (s.reply r).t = s.t := rfl
@[simp] theorem State.reply_free (s : State) (r : Reply) : (s.reply r).free = s.free := rfl
@[simp] theorem State.reply_due (s : State) (r : Reply) : (s.reply r).due = s.due := rfl
@[simp] theorem State.reply_cores (s : State) (r : Reply) : (s.reply r).cores = s.cores := rfl
@[simp] theorem State.reply_dies (s : State) (r : Reply) : (s.reply r).dies = s.dies := rfl
@[simp] theorem State.reply_hbm (s : State) (r : Reply) : (s.reply r).hbm = s.hbm := rfl
@[simp] theorem State.reply_dram (s : State) (r : Reply) : (s.reply r).dram = s.dram := rfl
@[simp] theorem State.reply_parts (s : State) (r : Reply) : (s.reply r).parts = s.parts := rfl
@[simp] theorem State.reply_launches (s : State) (r : Reply) : (s.reply r).launches = s.launches := rfl
@[simp] theorem State.reply_svcs (s : State) (r : Reply) : (s.reply r).svcs = s.svcs := rfl
@[simp] theorem State.reply_session (s : State) (r : Reply) : (s.reply r).session = s.session := rfl
@[simp] theorem State.reply_ports (s : State) (r : Reply) : (s.reply r).ports = s.ports := rfl
@[simp] theorem State.reply_tenants (s : State) (r : Reply) : (s.reply r).tenants = s.tenants := rfl
@[simp] theorem State.reply_fns (s : State) (r : Reply) : (s.reply r).fns = s.fns := rfl
@[simp] theorem State.reply_pigAccess (s : State) (r : Reply) : (s.reply r).pigAccess = s.pigAccess := rfl
@[simp] theorem State.reply_unitCount (s : State) (r : Reply) : (s.reply r).unitCount = s.unitCount := rfl
@[simp] theorem State.reply_hostQueue (s : State) (r : Reply) : (s.reply r).hostQueue = s.hostQueue := rfl
@[simp] theorem State.reply_served (s : State) (r : Reply) : (s.reply r).served = s.served := rfl
@[simp] theorem State.reply_applied (s : State) (r : Reply) : (s.reply r).applied = s.applied := rfl
@[simp] theorem State.reply_testing (s : State) (r : Reply) : (s.reply r).testing = s.testing := rfl
@[simp] theorem State.reply_stuck (s : State) (r : Reply) : (s.reply r).stuck = s.stuck := rfl
@[simp] theorem State.reply_recovery (s : State) (r : Reply) : (s.reply r).recovery = s.recovery := rfl
@[simp] theorem State.reply_ready (s : State) (r : Reply) : (s.reply r).ready = s.ready := rfl
@[simp] theorem State.reply_bankUses (s : State) (r : Reply) : (s.reply r).bankUses = s.bankUses := rfl
@[simp] theorem State.reply_pigWrites (s : State) (r : Reply) : (s.reply r).pigWrites = s.pigWrites := rfl
@[simp] theorem State.reply_moves (s : State) (r : Reply) : (s.reply r).moves = s.moves := rfl
@[simp] theorem State.reply_poison (s : State) (r : Reply) : (s.reply r).poison = s.poison := rfl
@[simp] theorem State.reply_dramBad (s : State) (r : Reply) : (s.reply r).dramBad = s.dramBad := rfl
@[simp] theorem State.reply_dramSoft (s : State) (r : Reply) : (s.reply r).dramSoft = s.dramSoft := rfl
@[simp] theorem State.reply_reqs (s : State) (r : Reply) : (s.reply r).reqs = s.reqs := rfl
@[simp] theorem State.reply_linkErrs (s : State) (r : Reply) : (s.reply r).linkErrs = s.linkErrs := rfl
@[simp] theorem State.reply_sent (s : State) (r : Reply) : (s.reply r).sent = s.sent := rfl
@[simp] theorem State.reply_subCount (s : State) (r : Reply) : (s.reply r).subCount = s.subCount := rfl
@[simp] theorem State.reply_errs (s : State) (r : Reply) : (s.reply r).errs = s.errs := rfl
@[simp] theorem State.reply_lasting (s : State) (r : Reply) : (s.reply r).lasting = s.lasting := rfl
@[simp] theorem State.reply_duty (s : State) (r : Reply) : (s.reply r).duty = s.duty := rfl
@[simp] theorem State.reply_heldWork (s : State) (r : Reply) : (s.reply r).heldWork = s.heldWork := rfl
@[simp] theorem State.reply_testAt (s : State) (r : Reply) : (s.reply r).testAt = s.testAt := rfl
@[simp] theorem State.reply_mlog (s : State) (r : Reply) : (s.reply r).mlog = s.mlog := rfl
@[simp] theorem State.reply_flash (s : State) (r : Reply) : (s.reply r).flash = s.flash := rfl

/-! ### sched -/

@[simp] theorem State.sched_gtc (s : State) (d : Nat) (k : List Nat) (w : Work) : (s.sched d k w).gtc = s.gtc := rfl
@[simp] theorem State.sched_on (s : State) (d : Nat) (k : List Nat) (w : Work) : (s.sched d k w).on = s.on := rfl
@[simp] theorem State.sched_cur (s : State) (d : Nat) (k : List Nat) (w : Work) : (s.sched d k w).cur = s.cur := rfl
@[simp] theorem State.sched_me (s : State) (d : Nat) (k : List Nat) (w : Work) : (s.sched d k w).me = s.me := rfl
@[simp] theorem State.sched_t (s : State) (d : Nat) (k : List Nat) (w : Work) : (s.sched d k w).t = s.t := rfl
@[simp] theorem State.sched_free (s : State) (d : Nat) (k : List Nat) (w : Work) : (s.sched d k w).free = s.free := rfl
@[simp] theorem State.sched_cores (s : State) (d : Nat) (k : List Nat) (w : Work) : (s.sched d k w).cores = s.cores := rfl
@[simp] theorem State.sched_dies (s : State) (d : Nat) (k : List Nat) (w : Work) : (s.sched d k w).dies = s.dies := rfl
@[simp] theorem State.sched_hbm (s : State) (d : Nat) (k : List Nat) (w : Work) : (s.sched d k w).hbm = s.hbm := rfl
@[simp] theorem State.sched_dram (s : State) (d : Nat) (k : List Nat) (w : Work) : (s.sched d k w).dram = s.dram := rfl
@[simp] theorem State.sched_parts (s : State) (d : Nat) (k : List Nat) (w : Work) : (s.sched d k w).parts = s.parts := rfl
@[simp] theorem State.sched_launches (s : State) (d : Nat) (k : List Nat) (w : Work) : (s.sched d k w).launches = s.launches := rfl
@[simp] theorem State.sched_svcs (s : State) (d : Nat) (k : List Nat) (w : Work) : (s.sched d k w).svcs = s.svcs := rfl
@[simp] theorem State.sched_session (s : State) (d : Nat) (k : List Nat) (w : Work) : (s.sched d k w).session = s.session := rfl
@[simp] theorem State.sched_ports (s : State) (d : Nat) (k : List Nat) (w : Work) : (s.sched d k w).ports = s.ports := rfl
@[simp] theorem State.sched_tenants (s : State) (d : Nat) (k : List Nat) (w : Work) : (s.sched d k w).tenants = s.tenants := rfl
@[simp] theorem State.sched_fns (s : State) (d : Nat) (k : List Nat) (w : Work) : (s.sched d k w).fns = s.fns := rfl
@[simp] theorem State.sched_pigAccess (s : State) (d : Nat) (k : List Nat) (w : Work) : (s.sched d k w).pigAccess = s.pigAccess := rfl
@[simp] theorem State.sched_unitCount (s : State) (d : Nat) (k : List Nat) (w : Work) : (s.sched d k w).unitCount = s.unitCount := rfl
@[simp] theorem State.sched_hostQueue (s : State) (d : Nat) (k : List Nat) (w : Work) : (s.sched d k w).hostQueue = s.hostQueue := rfl
@[simp] theorem State.sched_served (s : State) (d : Nat) (k : List Nat) (w : Work) : (s.sched d k w).served = s.served := rfl
@[simp] theorem State.sched_applied (s : State) (d : Nat) (k : List Nat) (w : Work) : (s.sched d k w).applied = s.applied := rfl
@[simp] theorem State.sched_testing (s : State) (d : Nat) (k : List Nat) (w : Work) : (s.sched d k w).testing = s.testing := rfl
@[simp] theorem State.sched_stuck (s : State) (d : Nat) (k : List Nat) (w : Work) : (s.sched d k w).stuck = s.stuck := rfl
@[simp] theorem State.sched_recovery (s : State) (d : Nat) (k : List Nat) (w : Work) : (s.sched d k w).recovery = s.recovery := rfl
@[simp] theorem State.sched_ready (s : State) (d : Nat) (k : List Nat) (w : Work) : (s.sched d k w).ready = s.ready := rfl
@[simp] theorem State.sched_bankUses (s : State) (d : Nat) (k : List Nat) (w : Work) : (s.sched d k w).bankUses = s.bankUses := rfl
@[simp] theorem State.sched_pigWrites (s : State) (d : Nat) (k : List Nat) (w : Work) : (s.sched d k w).pigWrites = s.pigWrites := rfl
@[simp] theorem State.sched_moves (s : State) (d : Nat) (k : List Nat) (w : Work) : (s.sched d k w).moves = s.moves := rfl
@[simp] theorem State.sched_poison (s : State) (d : Nat) (k : List Nat) (w : Work) : (s.sched d k w).poison = s.poison := rfl
@[simp] theorem State.sched_dramBad (s : State) (d : Nat) (k : List Nat) (w : Work) : (s.sched d k w).dramBad = s.dramBad := rfl
@[simp] theorem State.sched_dramSoft (s : State) (d : Nat) (k : List Nat) (w : Work) : (s.sched d k w).dramSoft = s.dramSoft := rfl
@[simp] theorem State.sched_reqs (s : State) (d : Nat) (k : List Nat) (w : Work) : (s.sched d k w).reqs = s.reqs := rfl
@[simp] theorem State.sched_linkErrs (s : State) (d : Nat) (k : List Nat) (w : Work) : (s.sched d k w).linkErrs = s.linkErrs := rfl
@[simp] theorem State.sched_sent (s : State) (d : Nat) (k : List Nat) (w : Work) : (s.sched d k w).sent = s.sent := rfl
@[simp] theorem State.sched_subCount (s : State) (d : Nat) (k : List Nat) (w : Work) : (s.sched d k w).subCount = s.subCount := rfl
@[simp] theorem State.sched_out (s : State) (d : Nat) (k : List Nat) (w : Work) : (s.sched d k w).out = s.out := rfl
@[simp] theorem State.sched_errs (s : State) (d : Nat) (k : List Nat) (w : Work) : (s.sched d k w).errs = s.errs := rfl
@[simp] theorem State.sched_lasting (s : State) (d : Nat) (k : List Nat) (w : Work) : (s.sched d k w).lasting = s.lasting := rfl
@[simp] theorem State.sched_duty (s : State) (d : Nat) (k : List Nat) (w : Work) : (s.sched d k w).duty = s.duty := rfl
@[simp] theorem State.sched_heldWork (s : State) (d : Nat) (k : List Nat) (w : Work) : (s.sched d k w).heldWork = s.heldWork := rfl
@[simp] theorem State.sched_testAt (s : State) (d : Nat) (k : List Nat) (w : Work) : (s.sched d k w).testAt = s.testAt := rfl
@[simp] theorem State.sched_mlog (s : State) (d : Nat) (k : List Nat) (w : Work) : (s.sched d k w).mlog = s.mlog := rfl
@[simp] theorem State.sched_flash (s : State) (d : Nat) (k : List Nat) (w : Work) : (s.sched d k w).flash = s.flash := rfl

/-! ### schedG -/

@[simp] theorem State.schedG_gtc (s : State) (d : Nat) (k : List Nat) (w : Work) : (s.schedG d k w).gtc = s.gtc := rfl
@[simp] theorem State.schedG_on (s : State) (d : Nat) (k : List Nat) (w : Work) : (s.schedG d k w).on = s.on := rfl
@[simp] theorem State.schedG_cur (s : State) (d : Nat) (k : List Nat) (w : Work) : (s.schedG d k w).cur = s.cur := rfl
@[simp] theorem State.schedG_me (s : State) (d : Nat) (k : List Nat) (w : Work) : (s.schedG d k w).me = s.me := rfl
@[simp] theorem State.schedG_t (s : State) (d : Nat) (k : List Nat) (w : Work) : (s.schedG d k w).t = s.t := rfl
@[simp] theorem State.schedG_free (s : State) (d : Nat) (k : List Nat) (w : Work) : (s.schedG d k w).free = s.free := rfl
@[simp] theorem State.schedG_cores (s : State) (d : Nat) (k : List Nat) (w : Work) : (s.schedG d k w).cores = s.cores := rfl
@[simp] theorem State.schedG_dies (s : State) (d : Nat) (k : List Nat) (w : Work) : (s.schedG d k w).dies = s.dies := rfl
@[simp] theorem State.schedG_hbm (s : State) (d : Nat) (k : List Nat) (w : Work) : (s.schedG d k w).hbm = s.hbm := rfl
@[simp] theorem State.schedG_dram (s : State) (d : Nat) (k : List Nat) (w : Work) : (s.schedG d k w).dram = s.dram := rfl
@[simp] theorem State.schedG_parts (s : State) (d : Nat) (k : List Nat) (w : Work) : (s.schedG d k w).parts = s.parts := rfl
@[simp] theorem State.schedG_launches (s : State) (d : Nat) (k : List Nat) (w : Work) : (s.schedG d k w).launches = s.launches := rfl
@[simp] theorem State.schedG_svcs (s : State) (d : Nat) (k : List Nat) (w : Work) : (s.schedG d k w).svcs = s.svcs := rfl
@[simp] theorem State.schedG_session (s : State) (d : Nat) (k : List Nat) (w : Work) : (s.schedG d k w).session = s.session := rfl
@[simp] theorem State.schedG_ports (s : State) (d : Nat) (k : List Nat) (w : Work) : (s.schedG d k w).ports = s.ports := rfl
@[simp] theorem State.schedG_tenants (s : State) (d : Nat) (k : List Nat) (w : Work) : (s.schedG d k w).tenants = s.tenants := rfl
@[simp] theorem State.schedG_fns (s : State) (d : Nat) (k : List Nat) (w : Work) : (s.schedG d k w).fns = s.fns := rfl
@[simp] theorem State.schedG_pigAccess (s : State) (d : Nat) (k : List Nat) (w : Work) : (s.schedG d k w).pigAccess = s.pigAccess := rfl
@[simp] theorem State.schedG_unitCount (s : State) (d : Nat) (k : List Nat) (w : Work) : (s.schedG d k w).unitCount = s.unitCount := rfl
@[simp] theorem State.schedG_hostQueue (s : State) (d : Nat) (k : List Nat) (w : Work) : (s.schedG d k w).hostQueue = s.hostQueue := rfl
@[simp] theorem State.schedG_served (s : State) (d : Nat) (k : List Nat) (w : Work) : (s.schedG d k w).served = s.served := rfl
@[simp] theorem State.schedG_applied (s : State) (d : Nat) (k : List Nat) (w : Work) : (s.schedG d k w).applied = s.applied := rfl
@[simp] theorem State.schedG_testing (s : State) (d : Nat) (k : List Nat) (w : Work) : (s.schedG d k w).testing = s.testing := rfl
@[simp] theorem State.schedG_stuck (s : State) (d : Nat) (k : List Nat) (w : Work) : (s.schedG d k w).stuck = s.stuck := rfl
@[simp] theorem State.schedG_recovery (s : State) (d : Nat) (k : List Nat) (w : Work) : (s.schedG d k w).recovery = s.recovery := rfl
@[simp] theorem State.schedG_ready (s : State) (d : Nat) (k : List Nat) (w : Work) : (s.schedG d k w).ready = s.ready := rfl
@[simp] theorem State.schedG_bankUses (s : State) (d : Nat) (k : List Nat) (w : Work) : (s.schedG d k w).bankUses = s.bankUses := rfl
@[simp] theorem State.schedG_pigWrites (s : State) (d : Nat) (k : List Nat) (w : Work) : (s.schedG d k w).pigWrites = s.pigWrites := rfl
@[simp] theorem State.schedG_moves (s : State) (d : Nat) (k : List Nat) (w : Work) : (s.schedG d k w).moves = s.moves := rfl
@[simp] theorem State.schedG_poison (s : State) (d : Nat) (k : List Nat) (w : Work) : (s.schedG d k w).poison = s.poison := rfl
@[simp] theorem State.schedG_dramBad (s : State) (d : Nat) (k : List Nat) (w : Work) : (s.schedG d k w).dramBad = s.dramBad := rfl
@[simp] theorem State.schedG_dramSoft (s : State) (d : Nat) (k : List Nat) (w : Work) : (s.schedG d k w).dramSoft = s.dramSoft := rfl
@[simp] theorem State.schedG_reqs (s : State) (d : Nat) (k : List Nat) (w : Work) : (s.schedG d k w).reqs = s.reqs := rfl
@[simp] theorem State.schedG_linkErrs (s : State) (d : Nat) (k : List Nat) (w : Work) : (s.schedG d k w).linkErrs = s.linkErrs := rfl
@[simp] theorem State.schedG_sent (s : State) (d : Nat) (k : List Nat) (w : Work) : (s.schedG d k w).sent = s.sent := rfl
@[simp] theorem State.schedG_subCount (s : State) (d : Nat) (k : List Nat) (w : Work) : (s.schedG d k w).subCount = s.subCount := rfl
@[simp] theorem State.schedG_out (s : State) (d : Nat) (k : List Nat) (w : Work) : (s.schedG d k w).out = s.out := rfl
@[simp] theorem State.schedG_errs (s : State) (d : Nat) (k : List Nat) (w : Work) : (s.schedG d k w).errs = s.errs := rfl
@[simp] theorem State.schedG_lasting (s : State) (d : Nat) (k : List Nat) (w : Work) : (s.schedG d k w).lasting = s.lasting := rfl
@[simp] theorem State.schedG_duty (s : State) (d : Nat) (k : List Nat) (w : Work) : (s.schedG d k w).duty = s.duty := rfl
@[simp] theorem State.schedG_heldWork (s : State) (d : Nat) (k : List Nat) (w : Work) : (s.schedG d k w).heldWork = s.heldWork := rfl
@[simp] theorem State.schedG_testAt (s : State) (d : Nat) (k : List Nat) (w : Work) : (s.schedG d k w).testAt = s.testAt := rfl
@[simp] theorem State.schedG_mlog (s : State) (d : Nat) (k : List Nat) (w : Work) : (s.schedG d k w).mlog = s.mlog := rfl
@[simp] theorem State.schedG_flash (s : State) (d : Nat) (k : List Nat) (w : Work) : (s.schedG d k w).flash = s.flash := rfl

/-! ### schedOn -/

@[simp] theorem State.schedOn_gtc (s : State) (p d : Nat) (k : List Nat) (w : Work) : (s.schedOn p d k w).gtc = s.gtc := rfl
@[simp] theorem State.schedOn_on (s : State) (p d : Nat) (k : List Nat) (w : Work) : (s.schedOn p d k w).on = s.on := rfl
@[simp] theorem State.schedOn_cur (s : State) (p d : Nat) (k : List Nat) (w : Work) : (s.schedOn p d k w).cur = s.cur := rfl
@[simp] theorem State.schedOn_me (s : State) (p d : Nat) (k : List Nat) (w : Work) : (s.schedOn p d k w).me = s.me := rfl
@[simp] theorem State.schedOn_t (s : State) (p d : Nat) (k : List Nat) (w : Work) : (s.schedOn p d k w).t = s.t := rfl
@[simp] theorem State.schedOn_free (s : State) (p d : Nat) (k : List Nat) (w : Work) : (s.schedOn p d k w).free = s.free := rfl
@[simp] theorem State.schedOn_cores (s : State) (p d : Nat) (k : List Nat) (w : Work) : (s.schedOn p d k w).cores = s.cores := rfl
@[simp] theorem State.schedOn_dies (s : State) (p d : Nat) (k : List Nat) (w : Work) : (s.schedOn p d k w).dies = s.dies := rfl
@[simp] theorem State.schedOn_hbm (s : State) (p d : Nat) (k : List Nat) (w : Work) : (s.schedOn p d k w).hbm = s.hbm := rfl
@[simp] theorem State.schedOn_dram (s : State) (p d : Nat) (k : List Nat) (w : Work) : (s.schedOn p d k w).dram = s.dram := rfl
@[simp] theorem State.schedOn_parts (s : State) (p d : Nat) (k : List Nat) (w : Work) : (s.schedOn p d k w).parts = s.parts := rfl
@[simp] theorem State.schedOn_launches (s : State) (p d : Nat) (k : List Nat) (w : Work) : (s.schedOn p d k w).launches = s.launches := rfl
@[simp] theorem State.schedOn_svcs (s : State) (p d : Nat) (k : List Nat) (w : Work) : (s.schedOn p d k w).svcs = s.svcs := rfl
@[simp] theorem State.schedOn_session (s : State) (p d : Nat) (k : List Nat) (w : Work) : (s.schedOn p d k w).session = s.session := rfl
@[simp] theorem State.schedOn_ports (s : State) (p d : Nat) (k : List Nat) (w : Work) : (s.schedOn p d k w).ports = s.ports := rfl
@[simp] theorem State.schedOn_tenants (s : State) (p d : Nat) (k : List Nat) (w : Work) : (s.schedOn p d k w).tenants = s.tenants := rfl
@[simp] theorem State.schedOn_fns (s : State) (p d : Nat) (k : List Nat) (w : Work) : (s.schedOn p d k w).fns = s.fns := rfl
@[simp] theorem State.schedOn_pigAccess (s : State) (p d : Nat) (k : List Nat) (w : Work) : (s.schedOn p d k w).pigAccess = s.pigAccess := rfl
@[simp] theorem State.schedOn_unitCount (s : State) (p d : Nat) (k : List Nat) (w : Work) : (s.schedOn p d k w).unitCount = s.unitCount := rfl
@[simp] theorem State.schedOn_hostQueue (s : State) (p d : Nat) (k : List Nat) (w : Work) : (s.schedOn p d k w).hostQueue = s.hostQueue := rfl
@[simp] theorem State.schedOn_served (s : State) (p d : Nat) (k : List Nat) (w : Work) : (s.schedOn p d k w).served = s.served := rfl
@[simp] theorem State.schedOn_applied (s : State) (p d : Nat) (k : List Nat) (w : Work) : (s.schedOn p d k w).applied = s.applied := rfl
@[simp] theorem State.schedOn_testing (s : State) (p d : Nat) (k : List Nat) (w : Work) : (s.schedOn p d k w).testing = s.testing := rfl
@[simp] theorem State.schedOn_stuck (s : State) (p d : Nat) (k : List Nat) (w : Work) : (s.schedOn p d k w).stuck = s.stuck := rfl
@[simp] theorem State.schedOn_recovery (s : State) (p d : Nat) (k : List Nat) (w : Work) : (s.schedOn p d k w).recovery = s.recovery := rfl
@[simp] theorem State.schedOn_ready (s : State) (p d : Nat) (k : List Nat) (w : Work) : (s.schedOn p d k w).ready = s.ready := rfl
@[simp] theorem State.schedOn_bankUses (s : State) (p d : Nat) (k : List Nat) (w : Work) : (s.schedOn p d k w).bankUses = s.bankUses := rfl
@[simp] theorem State.schedOn_pigWrites (s : State) (p d : Nat) (k : List Nat) (w : Work) : (s.schedOn p d k w).pigWrites = s.pigWrites := rfl
@[simp] theorem State.schedOn_moves (s : State) (p d : Nat) (k : List Nat) (w : Work) : (s.schedOn p d k w).moves = s.moves := rfl
@[simp] theorem State.schedOn_poison (s : State) (p d : Nat) (k : List Nat) (w : Work) : (s.schedOn p d k w).poison = s.poison := rfl
@[simp] theorem State.schedOn_dramBad (s : State) (p d : Nat) (k : List Nat) (w : Work) : (s.schedOn p d k w).dramBad = s.dramBad := rfl
@[simp] theorem State.schedOn_dramSoft (s : State) (p d : Nat) (k : List Nat) (w : Work) : (s.schedOn p d k w).dramSoft = s.dramSoft := rfl
@[simp] theorem State.schedOn_reqs (s : State) (p d : Nat) (k : List Nat) (w : Work) : (s.schedOn p d k w).reqs = s.reqs := rfl
@[simp] theorem State.schedOn_linkErrs (s : State) (p d : Nat) (k : List Nat) (w : Work) : (s.schedOn p d k w).linkErrs = s.linkErrs := rfl
@[simp] theorem State.schedOn_sent (s : State) (p d : Nat) (k : List Nat) (w : Work) : (s.schedOn p d k w).sent = s.sent := rfl
@[simp] theorem State.schedOn_subCount (s : State) (p d : Nat) (k : List Nat) (w : Work) : (s.schedOn p d k w).subCount = s.subCount := rfl
@[simp] theorem State.schedOn_out (s : State) (p d : Nat) (k : List Nat) (w : Work) : (s.schedOn p d k w).out = s.out := rfl
@[simp] theorem State.schedOn_errs (s : State) (p d : Nat) (k : List Nat) (w : Work) : (s.schedOn p d k w).errs = s.errs := rfl
@[simp] theorem State.schedOn_lasting (s : State) (p d : Nat) (k : List Nat) (w : Work) : (s.schedOn p d k w).lasting = s.lasting := rfl
@[simp] theorem State.schedOn_duty (s : State) (p d : Nat) (k : List Nat) (w : Work) : (s.schedOn p d k w).duty = s.duty := rfl
@[simp] theorem State.schedOn_heldWork (s : State) (p d : Nat) (k : List Nat) (w : Work) : (s.schedOn p d k w).heldWork = s.heldWork := rfl
@[simp] theorem State.schedOn_testAt (s : State) (p d : Nat) (k : List Nat) (w : Work) : (s.schedOn p d k w).testAt = s.testAt := rfl
@[simp] theorem State.schedOn_mlog (s : State) (p d : Nat) (k : List Nat) (w : Work) : (s.schedOn p d k w).mlog = s.mlog := rfl
@[simp] theorem State.schedOn_flash (s : State) (p d : Nat) (k : List Nat) (w : Work) : (s.schedOn p d k w).flash = s.flash := rfl

/-! ### write -/

@[simp] theorem State.write_gtc (s : State) (lat : Nat) (w : RegWrite) : (s.write lat w).gtc = s.gtc := rfl
@[simp] theorem State.write_on (s : State) (lat : Nat) (w : RegWrite) : (s.write lat w).on = s.on := rfl
@[simp] theorem State.write_cur (s : State) (lat : Nat) (w : RegWrite) : (s.write lat w).cur = s.cur := rfl
@[simp] theorem State.write_me (s : State) (lat : Nat) (w : RegWrite) : (s.write lat w).me = s.me := rfl
@[simp] theorem State.write_t (s : State) (lat : Nat) (w : RegWrite) : (s.write lat w).t = s.t := rfl
@[simp] theorem State.write_free (s : State) (lat : Nat) (w : RegWrite) : (s.write lat w).free = s.free := rfl
@[simp] theorem State.write_cores (s : State) (lat : Nat) (w : RegWrite) : (s.write lat w).cores = s.cores := rfl
@[simp] theorem State.write_dies (s : State) (lat : Nat) (w : RegWrite) : (s.write lat w).dies = s.dies := rfl
@[simp] theorem State.write_hbm (s : State) (lat : Nat) (w : RegWrite) : (s.write lat w).hbm = s.hbm := rfl
@[simp] theorem State.write_dram (s : State) (lat : Nat) (w : RegWrite) : (s.write lat w).dram = s.dram := rfl
@[simp] theorem State.write_parts (s : State) (lat : Nat) (w : RegWrite) : (s.write lat w).parts = s.parts := rfl
@[simp] theorem State.write_launches (s : State) (lat : Nat) (w : RegWrite) : (s.write lat w).launches = s.launches := rfl
@[simp] theorem State.write_svcs (s : State) (lat : Nat) (w : RegWrite) : (s.write lat w).svcs = s.svcs := rfl
@[simp] theorem State.write_session (s : State) (lat : Nat) (w : RegWrite) : (s.write lat w).session = s.session := rfl
@[simp] theorem State.write_ports (s : State) (lat : Nat) (w : RegWrite) : (s.write lat w).ports = s.ports := rfl
@[simp] theorem State.write_tenants (s : State) (lat : Nat) (w : RegWrite) : (s.write lat w).tenants = s.tenants := rfl
@[simp] theorem State.write_fns (s : State) (lat : Nat) (w : RegWrite) : (s.write lat w).fns = s.fns := rfl
@[simp] theorem State.write_pigAccess (s : State) (lat : Nat) (w : RegWrite) : (s.write lat w).pigAccess = s.pigAccess := rfl
@[simp] theorem State.write_unitCount (s : State) (lat : Nat) (w : RegWrite) : (s.write lat w).unitCount = s.unitCount := rfl
@[simp] theorem State.write_hostQueue (s : State) (lat : Nat) (w : RegWrite) : (s.write lat w).hostQueue = s.hostQueue := rfl
@[simp] theorem State.write_served (s : State) (lat : Nat) (w : RegWrite) : (s.write lat w).served = s.served := rfl
@[simp] theorem State.write_applied (s : State) (lat : Nat) (w : RegWrite) : (s.write lat w).applied = s.applied := rfl
@[simp] theorem State.write_testing (s : State) (lat : Nat) (w : RegWrite) : (s.write lat w).testing = s.testing := rfl
@[simp] theorem State.write_stuck (s : State) (lat : Nat) (w : RegWrite) : (s.write lat w).stuck = s.stuck := rfl
@[simp] theorem State.write_recovery (s : State) (lat : Nat) (w : RegWrite) : (s.write lat w).recovery = s.recovery := rfl
@[simp] theorem State.write_ready (s : State) (lat : Nat) (w : RegWrite) : (s.write lat w).ready = s.ready := rfl
@[simp] theorem State.write_bankUses (s : State) (lat : Nat) (w : RegWrite) : (s.write lat w).bankUses = s.bankUses := rfl
@[simp] theorem State.write_pigWrites (s : State) (lat : Nat) (w : RegWrite) : (s.write lat w).pigWrites = s.pigWrites := rfl
@[simp] theorem State.write_moves (s : State) (lat : Nat) (w : RegWrite) : (s.write lat w).moves = s.moves := rfl
@[simp] theorem State.write_poison (s : State) (lat : Nat) (w : RegWrite) : (s.write lat w).poison = s.poison := rfl
@[simp] theorem State.write_dramBad (s : State) (lat : Nat) (w : RegWrite) : (s.write lat w).dramBad = s.dramBad := rfl
@[simp] theorem State.write_dramSoft (s : State) (lat : Nat) (w : RegWrite) : (s.write lat w).dramSoft = s.dramSoft := rfl
@[simp] theorem State.write_reqs (s : State) (lat : Nat) (w : RegWrite) : (s.write lat w).reqs = s.reqs := rfl
@[simp] theorem State.write_linkErrs (s : State) (lat : Nat) (w : RegWrite) : (s.write lat w).linkErrs = s.linkErrs := rfl
@[simp] theorem State.write_sent (s : State) (lat : Nat) (w : RegWrite) : (s.write lat w).sent = s.sent := rfl
@[simp] theorem State.write_subCount (s : State) (lat : Nat) (w : RegWrite) : (s.write lat w).subCount = s.subCount := rfl
@[simp] theorem State.write_out (s : State) (lat : Nat) (w : RegWrite) : (s.write lat w).out = s.out := rfl
@[simp] theorem State.write_errs (s : State) (lat : Nat) (w : RegWrite) : (s.write lat w).errs = s.errs := rfl
@[simp] theorem State.write_lasting (s : State) (lat : Nat) (w : RegWrite) : (s.write lat w).lasting = s.lasting := rfl
@[simp] theorem State.write_duty (s : State) (lat : Nat) (w : RegWrite) : (s.write lat w).duty = s.duty := rfl
@[simp] theorem State.write_heldWork (s : State) (lat : Nat) (w : RegWrite) : (s.write lat w).heldWork = s.heldWork := rfl
@[simp] theorem State.write_testAt (s : State) (lat : Nat) (w : RegWrite) : (s.write lat w).testAt = s.testAt := rfl
@[simp] theorem State.write_mlog (s : State) (lat : Nat) (w : RegWrite) : (s.write lat w).mlog = s.mlog := rfl
@[simp] theorem State.write_flash (s : State) (lat : Nat) (w : RegWrite) : (s.write lat w).flash = s.flash := rfl

/-! ### mxWrite -/

@[simp] theorem State.mxWrite_gtc (s : State) (lat : Nat) (w : Work) : (s.mxWrite lat w).gtc = s.gtc := rfl
@[simp] theorem State.mxWrite_on (s : State) (lat : Nat) (w : Work) : (s.mxWrite lat w).on = s.on := rfl
@[simp] theorem State.mxWrite_cur (s : State) (lat : Nat) (w : Work) : (s.mxWrite lat w).cur = s.cur := rfl
@[simp] theorem State.mxWrite_me (s : State) (lat : Nat) (w : Work) : (s.mxWrite lat w).me = s.me := rfl
@[simp] theorem State.mxWrite_t (s : State) (lat : Nat) (w : Work) : (s.mxWrite lat w).t = s.t := rfl
@[simp] theorem State.mxWrite_free (s : State) (lat : Nat) (w : Work) : (s.mxWrite lat w).free = s.free := rfl
@[simp] theorem State.mxWrite_cores (s : State) (lat : Nat) (w : Work) : (s.mxWrite lat w).cores = s.cores := rfl
@[simp] theorem State.mxWrite_dies (s : State) (lat : Nat) (w : Work) : (s.mxWrite lat w).dies = s.dies := rfl
@[simp] theorem State.mxWrite_hbm (s : State) (lat : Nat) (w : Work) : (s.mxWrite lat w).hbm = s.hbm := rfl
@[simp] theorem State.mxWrite_dram (s : State) (lat : Nat) (w : Work) : (s.mxWrite lat w).dram = s.dram := rfl
@[simp] theorem State.mxWrite_parts (s : State) (lat : Nat) (w : Work) : (s.mxWrite lat w).parts = s.parts := rfl
@[simp] theorem State.mxWrite_launches (s : State) (lat : Nat) (w : Work) : (s.mxWrite lat w).launches = s.launches := rfl
@[simp] theorem State.mxWrite_svcs (s : State) (lat : Nat) (w : Work) : (s.mxWrite lat w).svcs = s.svcs := rfl
@[simp] theorem State.mxWrite_session (s : State) (lat : Nat) (w : Work) : (s.mxWrite lat w).session = s.session := rfl
@[simp] theorem State.mxWrite_ports (s : State) (lat : Nat) (w : Work) : (s.mxWrite lat w).ports = s.ports := rfl
@[simp] theorem State.mxWrite_tenants (s : State) (lat : Nat) (w : Work) : (s.mxWrite lat w).tenants = s.tenants := rfl
@[simp] theorem State.mxWrite_fns (s : State) (lat : Nat) (w : Work) : (s.mxWrite lat w).fns = s.fns := rfl
@[simp] theorem State.mxWrite_pigAccess (s : State) (lat : Nat) (w : Work) : (s.mxWrite lat w).pigAccess = s.pigAccess := rfl
@[simp] theorem State.mxWrite_unitCount (s : State) (lat : Nat) (w : Work) : (s.mxWrite lat w).unitCount = s.unitCount := rfl
@[simp] theorem State.mxWrite_hostQueue (s : State) (lat : Nat) (w : Work) : (s.mxWrite lat w).hostQueue = s.hostQueue := rfl
@[simp] theorem State.mxWrite_served (s : State) (lat : Nat) (w : Work) : (s.mxWrite lat w).served = s.served := rfl
@[simp] theorem State.mxWrite_applied (s : State) (lat : Nat) (w : Work) : (s.mxWrite lat w).applied = s.applied := rfl
@[simp] theorem State.mxWrite_testing (s : State) (lat : Nat) (w : Work) : (s.mxWrite lat w).testing = s.testing := rfl
@[simp] theorem State.mxWrite_stuck (s : State) (lat : Nat) (w : Work) : (s.mxWrite lat w).stuck = s.stuck := rfl
@[simp] theorem State.mxWrite_recovery (s : State) (lat : Nat) (w : Work) : (s.mxWrite lat w).recovery = s.recovery := rfl
@[simp] theorem State.mxWrite_ready (s : State) (lat : Nat) (w : Work) : (s.mxWrite lat w).ready = s.ready := rfl
@[simp] theorem State.mxWrite_bankUses (s : State) (lat : Nat) (w : Work) : (s.mxWrite lat w).bankUses = s.bankUses := rfl
@[simp] theorem State.mxWrite_pigWrites (s : State) (lat : Nat) (w : Work) : (s.mxWrite lat w).pigWrites = s.pigWrites := rfl
@[simp] theorem State.mxWrite_moves (s : State) (lat : Nat) (w : Work) : (s.mxWrite lat w).moves = s.moves := rfl
@[simp] theorem State.mxWrite_poison (s : State) (lat : Nat) (w : Work) : (s.mxWrite lat w).poison = s.poison := rfl
@[simp] theorem State.mxWrite_dramBad (s : State) (lat : Nat) (w : Work) : (s.mxWrite lat w).dramBad = s.dramBad := rfl
@[simp] theorem State.mxWrite_dramSoft (s : State) (lat : Nat) (w : Work) : (s.mxWrite lat w).dramSoft = s.dramSoft := rfl
@[simp] theorem State.mxWrite_reqs (s : State) (lat : Nat) (w : Work) : (s.mxWrite lat w).reqs = s.reqs := rfl
@[simp] theorem State.mxWrite_linkErrs (s : State) (lat : Nat) (w : Work) : (s.mxWrite lat w).linkErrs = s.linkErrs := rfl
@[simp] theorem State.mxWrite_sent (s : State) (lat : Nat) (w : Work) : (s.mxWrite lat w).sent = s.sent := rfl
@[simp] theorem State.mxWrite_subCount (s : State) (lat : Nat) (w : Work) : (s.mxWrite lat w).subCount = s.subCount := rfl
@[simp] theorem State.mxWrite_out (s : State) (lat : Nat) (w : Work) : (s.mxWrite lat w).out = s.out := rfl
@[simp] theorem State.mxWrite_errs (s : State) (lat : Nat) (w : Work) : (s.mxWrite lat w).errs = s.errs := rfl
@[simp] theorem State.mxWrite_lasting (s : State) (lat : Nat) (w : Work) : (s.mxWrite lat w).lasting = s.lasting := rfl
@[simp] theorem State.mxWrite_duty (s : State) (lat : Nat) (w : Work) : (s.mxWrite lat w).duty = s.duty := rfl
@[simp] theorem State.mxWrite_heldWork (s : State) (lat : Nat) (w : Work) : (s.mxWrite lat w).heldWork = s.heldWork := rfl
@[simp] theorem State.mxWrite_testAt (s : State) (lat : Nat) (w : Work) : (s.mxWrite lat w).testAt = s.testAt := rfl
@[simp] theorem State.mxWrite_mlog (s : State) (lat : Nat) (w : Work) : (s.mxWrite lat w).mlog = s.mlog := rfl
@[simp] theorem State.mxWrite_flash (s : State) (lat : Nat) (w : Work) : (s.mxWrite lat w).flash = s.flash := rfl

/-! ### issueAt -/

@[simp] theorem State.issueAt_gtc (s : State) (c d : Nat) : (s.issueAt c d).gtc = s.gtc := rfl
@[simp] theorem State.issueAt_on (s : State) (c d : Nat) : (s.issueAt c d).on = s.on := rfl
@[simp] theorem State.issueAt_cur (s : State) (c d : Nat) : (s.issueAt c d).cur = s.cur := rfl
@[simp] theorem State.issueAt_me (s : State) (c d : Nat) : (s.issueAt c d).me = s.me := rfl
@[simp] theorem State.issueAt_t (s : State) (c d : Nat) : (s.issueAt c d).t = s.t := rfl
@[simp] theorem State.issueAt_free (s : State) (c d : Nat) : (s.issueAt c d).free = s.free := rfl
@[simp] theorem State.issueAt_cores (s : State) (c d : Nat) : (s.issueAt c d).cores = s.cores := rfl
@[simp] theorem State.issueAt_dies (s : State) (c d : Nat) : (s.issueAt c d).dies = s.dies := rfl
@[simp] theorem State.issueAt_hbm (s : State) (c d : Nat) : (s.issueAt c d).hbm = s.hbm := rfl
@[simp] theorem State.issueAt_dram (s : State) (c d : Nat) : (s.issueAt c d).dram = s.dram := rfl
@[simp] theorem State.issueAt_parts (s : State) (c d : Nat) : (s.issueAt c d).parts = s.parts := rfl
@[simp] theorem State.issueAt_launches (s : State) (c d : Nat) : (s.issueAt c d).launches = s.launches := rfl
@[simp] theorem State.issueAt_svcs (s : State) (c d : Nat) : (s.issueAt c d).svcs = s.svcs := rfl
@[simp] theorem State.issueAt_session (s : State) (c d : Nat) : (s.issueAt c d).session = s.session := rfl
@[simp] theorem State.issueAt_ports (s : State) (c d : Nat) : (s.issueAt c d).ports = s.ports := rfl
@[simp] theorem State.issueAt_tenants (s : State) (c d : Nat) : (s.issueAt c d).tenants = s.tenants := rfl
@[simp] theorem State.issueAt_fns (s : State) (c d : Nat) : (s.issueAt c d).fns = s.fns := rfl
@[simp] theorem State.issueAt_pigAccess (s : State) (c d : Nat) : (s.issueAt c d).pigAccess = s.pigAccess := rfl
@[simp] theorem State.issueAt_unitCount (s : State) (c d : Nat) : (s.issueAt c d).unitCount = s.unitCount := rfl
@[simp] theorem State.issueAt_hostQueue (s : State) (c d : Nat) : (s.issueAt c d).hostQueue = s.hostQueue := rfl
@[simp] theorem State.issueAt_served (s : State) (c d : Nat) : (s.issueAt c d).served = s.served := rfl
@[simp] theorem State.issueAt_applied (s : State) (c d : Nat) : (s.issueAt c d).applied = s.applied := rfl
@[simp] theorem State.issueAt_testing (s : State) (c d : Nat) : (s.issueAt c d).testing = s.testing := rfl
@[simp] theorem State.issueAt_stuck (s : State) (c d : Nat) : (s.issueAt c d).stuck = s.stuck := rfl
@[simp] theorem State.issueAt_recovery (s : State) (c d : Nat) : (s.issueAt c d).recovery = s.recovery := rfl
@[simp] theorem State.issueAt_ready (s : State) (c d : Nat) : (s.issueAt c d).ready = s.ready := rfl
@[simp] theorem State.issueAt_bankUses (s : State) (c d : Nat) : (s.issueAt c d).bankUses = s.bankUses := rfl
@[simp] theorem State.issueAt_pigWrites (s : State) (c d : Nat) : (s.issueAt c d).pigWrites = s.pigWrites := rfl
@[simp] theorem State.issueAt_moves (s : State) (c d : Nat) : (s.issueAt c d).moves = s.moves := rfl
@[simp] theorem State.issueAt_poison (s : State) (c d : Nat) : (s.issueAt c d).poison = s.poison := rfl
@[simp] theorem State.issueAt_dramBad (s : State) (c d : Nat) : (s.issueAt c d).dramBad = s.dramBad := rfl
@[simp] theorem State.issueAt_dramSoft (s : State) (c d : Nat) : (s.issueAt c d).dramSoft = s.dramSoft := rfl
@[simp] theorem State.issueAt_reqs (s : State) (c d : Nat) : (s.issueAt c d).reqs = s.reqs := rfl
@[simp] theorem State.issueAt_linkErrs (s : State) (c d : Nat) : (s.issueAt c d).linkErrs = s.linkErrs := rfl
@[simp] theorem State.issueAt_sent (s : State) (c d : Nat) : (s.issueAt c d).sent = s.sent := rfl
@[simp] theorem State.issueAt_subCount (s : State) (c d : Nat) : (s.issueAt c d).subCount = s.subCount := rfl
@[simp] theorem State.issueAt_out (s : State) (c d : Nat) : (s.issueAt c d).out = s.out := rfl
@[simp] theorem State.issueAt_errs (s : State) (c d : Nat) : (s.issueAt c d).errs = s.errs := rfl
@[simp] theorem State.issueAt_lasting (s : State) (c d : Nat) : (s.issueAt c d).lasting = s.lasting := rfl
@[simp] theorem State.issueAt_duty (s : State) (c d : Nat) : (s.issueAt c d).duty = s.duty := rfl
@[simp] theorem State.issueAt_heldWork (s : State) (c d : Nat) : (s.issueAt c d).heldWork = s.heldWork := rfl
@[simp] theorem State.issueAt_testAt (s : State) (c d : Nat) : (s.issueAt c d).testAt = s.testAt := rfl
@[simp] theorem State.issueAt_mlog (s : State) (c d : Nat) : (s.issueAt c d).mlog = s.mlog := rfl
@[simp] theorem State.issueAt_flash (s : State) (c d : Nat) : (s.issueAt c d).flash = s.flash := rfl

/-! ### expandAt -/

@[simp] theorem State.expandAt_gtc (s : State) (c d : Nat) (h : Bool) (o : Nat) : (s.expandAt c d h o).gtc = s.gtc := rfl
@[simp] theorem State.expandAt_on (s : State) (c d : Nat) (h : Bool) (o : Nat) : (s.expandAt c d h o).on = s.on := rfl
@[simp] theorem State.expandAt_cur (s : State) (c d : Nat) (h : Bool) (o : Nat) : (s.expandAt c d h o).cur = s.cur := rfl
@[simp] theorem State.expandAt_me (s : State) (c d : Nat) (h : Bool) (o : Nat) : (s.expandAt c d h o).me = s.me := rfl
@[simp] theorem State.expandAt_t (s : State) (c d : Nat) (h : Bool) (o : Nat) : (s.expandAt c d h o).t = s.t := rfl
@[simp] theorem State.expandAt_free (s : State) (c d : Nat) (h : Bool) (o : Nat) : (s.expandAt c d h o).free = s.free := rfl
@[simp] theorem State.expandAt_cores (s : State) (c d : Nat) (h : Bool) (o : Nat) : (s.expandAt c d h o).cores = s.cores := rfl
@[simp] theorem State.expandAt_dies (s : State) (c d : Nat) (h : Bool) (o : Nat) : (s.expandAt c d h o).dies = s.dies := rfl
@[simp] theorem State.expandAt_hbm (s : State) (c d : Nat) (h : Bool) (o : Nat) : (s.expandAt c d h o).hbm = s.hbm := rfl
@[simp] theorem State.expandAt_dram (s : State) (c d : Nat) (h : Bool) (o : Nat) : (s.expandAt c d h o).dram = s.dram := rfl
@[simp] theorem State.expandAt_parts (s : State) (c d : Nat) (h : Bool) (o : Nat) : (s.expandAt c d h o).parts = s.parts := rfl
@[simp] theorem State.expandAt_launches (s : State) (c d : Nat) (h : Bool) (o : Nat) : (s.expandAt c d h o).launches = s.launches := rfl
@[simp] theorem State.expandAt_svcs (s : State) (c d : Nat) (h : Bool) (o : Nat) : (s.expandAt c d h o).svcs = s.svcs := rfl
@[simp] theorem State.expandAt_session (s : State) (c d : Nat) (h : Bool) (o : Nat) : (s.expandAt c d h o).session = s.session := rfl
@[simp] theorem State.expandAt_ports (s : State) (c d : Nat) (h : Bool) (o : Nat) : (s.expandAt c d h o).ports = s.ports := rfl
@[simp] theorem State.expandAt_tenants (s : State) (c d : Nat) (h : Bool) (o : Nat) : (s.expandAt c d h o).tenants = s.tenants := rfl
@[simp] theorem State.expandAt_fns (s : State) (c d : Nat) (h : Bool) (o : Nat) : (s.expandAt c d h o).fns = s.fns := rfl
@[simp] theorem State.expandAt_pigAccess (s : State) (c d : Nat) (h : Bool) (o : Nat) : (s.expandAt c d h o).pigAccess = s.pigAccess := rfl
@[simp] theorem State.expandAt_unitCount (s : State) (c d : Nat) (h : Bool) (o : Nat) : (s.expandAt c d h o).unitCount = s.unitCount := rfl
@[simp] theorem State.expandAt_hostQueue (s : State) (c d : Nat) (h : Bool) (o : Nat) : (s.expandAt c d h o).hostQueue = s.hostQueue := rfl
@[simp] theorem State.expandAt_served (s : State) (c d : Nat) (h : Bool) (o : Nat) : (s.expandAt c d h o).served = s.served := rfl
@[simp] theorem State.expandAt_applied (s : State) (c d : Nat) (h : Bool) (o : Nat) : (s.expandAt c d h o).applied = s.applied := rfl
@[simp] theorem State.expandAt_testing (s : State) (c d : Nat) (h : Bool) (o : Nat) : (s.expandAt c d h o).testing = s.testing := rfl
@[simp] theorem State.expandAt_stuck (s : State) (c d : Nat) (h : Bool) (o : Nat) : (s.expandAt c d h o).stuck = s.stuck := rfl
@[simp] theorem State.expandAt_recovery (s : State) (c d : Nat) (h : Bool) (o : Nat) : (s.expandAt c d h o).recovery = s.recovery := rfl
@[simp] theorem State.expandAt_ready (s : State) (c d : Nat) (h : Bool) (o : Nat) : (s.expandAt c d h o).ready = s.ready := rfl
@[simp] theorem State.expandAt_bankUses (s : State) (c d : Nat) (h : Bool) (o : Nat) : (s.expandAt c d h o).bankUses = s.bankUses := rfl
@[simp] theorem State.expandAt_pigWrites (s : State) (c d : Nat) (h : Bool) (o : Nat) : (s.expandAt c d h o).pigWrites = s.pigWrites := rfl
@[simp] theorem State.expandAt_moves (s : State) (c d : Nat) (h : Bool) (o : Nat) : (s.expandAt c d h o).moves = s.moves := rfl
@[simp] theorem State.expandAt_poison (s : State) (c d : Nat) (h : Bool) (o : Nat) : (s.expandAt c d h o).poison = s.poison := rfl
@[simp] theorem State.expandAt_dramBad (s : State) (c d : Nat) (h : Bool) (o : Nat) : (s.expandAt c d h o).dramBad = s.dramBad := rfl
@[simp] theorem State.expandAt_dramSoft (s : State) (c d : Nat) (h : Bool) (o : Nat) : (s.expandAt c d h o).dramSoft = s.dramSoft := rfl
@[simp] theorem State.expandAt_reqs (s : State) (c d : Nat) (h : Bool) (o : Nat) : (s.expandAt c d h o).reqs = s.reqs := rfl
@[simp] theorem State.expandAt_linkErrs (s : State) (c d : Nat) (h : Bool) (o : Nat) : (s.expandAt c d h o).linkErrs = s.linkErrs := rfl
@[simp] theorem State.expandAt_sent (s : State) (c d : Nat) (h : Bool) (o : Nat) : (s.expandAt c d h o).sent = s.sent := rfl
@[simp] theorem State.expandAt_subCount (s : State) (c d : Nat) (h : Bool) (o : Nat) : (s.expandAt c d h o).subCount = s.subCount := rfl
@[simp] theorem State.expandAt_out (s : State) (c d : Nat) (h : Bool) (o : Nat) : (s.expandAt c d h o).out = s.out := rfl
@[simp] theorem State.expandAt_errs (s : State) (c d : Nat) (h : Bool) (o : Nat) : (s.expandAt c d h o).errs = s.errs := rfl
@[simp] theorem State.expandAt_lasting (s : State) (c d : Nat) (h : Bool) (o : Nat) : (s.expandAt c d h o).lasting = s.lasting := rfl
@[simp] theorem State.expandAt_duty (s : State) (c d : Nat) (h : Bool) (o : Nat) : (s.expandAt c d h o).duty = s.duty := rfl
@[simp] theorem State.expandAt_heldWork (s : State) (c d : Nat) (h : Bool) (o : Nat) : (s.expandAt c d h o).heldWork = s.heldWork := rfl
@[simp] theorem State.expandAt_testAt (s : State) (c d : Nat) (h : Bool) (o : Nat) : (s.expandAt c d h o).testAt = s.testAt := rfl
@[simp] theorem State.expandAt_mlog (s : State) (c d : Nat) (h : Bool) (o : Nat) : (s.expandAt c d h o).mlog = s.mlog := rfl
@[simp] theorem State.expandAt_flash (s : State) (c d : Nat) (h : Bool) (o : Nat) : (s.expandAt c d h o).flash = s.flash := rfl

/-! ### dropIssue -/

@[simp] theorem State.dropIssue_gtc (s : State) (c : Nat) : (s.dropIssue c).gtc = s.gtc := rfl
@[simp] theorem State.dropIssue_on (s : State) (c : Nat) : (s.dropIssue c).on = s.on := rfl
@[simp] theorem State.dropIssue_cur (s : State) (c : Nat) : (s.dropIssue c).cur = s.cur := rfl
@[simp] theorem State.dropIssue_me (s : State) (c : Nat) : (s.dropIssue c).me = s.me := rfl
@[simp] theorem State.dropIssue_t (s : State) (c : Nat) : (s.dropIssue c).t = s.t := rfl
@[simp] theorem State.dropIssue_free (s : State) (c : Nat) : (s.dropIssue c).free = s.free := rfl
@[simp] theorem State.dropIssue_cores (s : State) (c : Nat) : (s.dropIssue c).cores = s.cores := rfl
@[simp] theorem State.dropIssue_dies (s : State) (c : Nat) : (s.dropIssue c).dies = s.dies := rfl
@[simp] theorem State.dropIssue_hbm (s : State) (c : Nat) : (s.dropIssue c).hbm = s.hbm := rfl
@[simp] theorem State.dropIssue_dram (s : State) (c : Nat) : (s.dropIssue c).dram = s.dram := rfl
@[simp] theorem State.dropIssue_parts (s : State) (c : Nat) : (s.dropIssue c).parts = s.parts := rfl
@[simp] theorem State.dropIssue_launches (s : State) (c : Nat) : (s.dropIssue c).launches = s.launches := rfl
@[simp] theorem State.dropIssue_svcs (s : State) (c : Nat) : (s.dropIssue c).svcs = s.svcs := rfl
@[simp] theorem State.dropIssue_session (s : State) (c : Nat) : (s.dropIssue c).session = s.session := rfl
@[simp] theorem State.dropIssue_ports (s : State) (c : Nat) : (s.dropIssue c).ports = s.ports := rfl
@[simp] theorem State.dropIssue_tenants (s : State) (c : Nat) : (s.dropIssue c).tenants = s.tenants := rfl
@[simp] theorem State.dropIssue_fns (s : State) (c : Nat) : (s.dropIssue c).fns = s.fns := rfl
@[simp] theorem State.dropIssue_pigAccess (s : State) (c : Nat) : (s.dropIssue c).pigAccess = s.pigAccess := rfl
@[simp] theorem State.dropIssue_unitCount (s : State) (c : Nat) : (s.dropIssue c).unitCount = s.unitCount := rfl
@[simp] theorem State.dropIssue_hostQueue (s : State) (c : Nat) : (s.dropIssue c).hostQueue = s.hostQueue := rfl
@[simp] theorem State.dropIssue_served (s : State) (c : Nat) : (s.dropIssue c).served = s.served := rfl
@[simp] theorem State.dropIssue_applied (s : State) (c : Nat) : (s.dropIssue c).applied = s.applied := rfl
@[simp] theorem State.dropIssue_testing (s : State) (c : Nat) : (s.dropIssue c).testing = s.testing := rfl
@[simp] theorem State.dropIssue_stuck (s : State) (c : Nat) : (s.dropIssue c).stuck = s.stuck := rfl
@[simp] theorem State.dropIssue_recovery (s : State) (c : Nat) : (s.dropIssue c).recovery = s.recovery := rfl
@[simp] theorem State.dropIssue_ready (s : State) (c : Nat) : (s.dropIssue c).ready = s.ready := rfl
@[simp] theorem State.dropIssue_bankUses (s : State) (c : Nat) : (s.dropIssue c).bankUses = s.bankUses := rfl
@[simp] theorem State.dropIssue_pigWrites (s : State) (c : Nat) : (s.dropIssue c).pigWrites = s.pigWrites := rfl
@[simp] theorem State.dropIssue_moves (s : State) (c : Nat) : (s.dropIssue c).moves = s.moves := rfl
@[simp] theorem State.dropIssue_poison (s : State) (c : Nat) : (s.dropIssue c).poison = s.poison := rfl
@[simp] theorem State.dropIssue_dramBad (s : State) (c : Nat) : (s.dropIssue c).dramBad = s.dramBad := rfl
@[simp] theorem State.dropIssue_dramSoft (s : State) (c : Nat) : (s.dropIssue c).dramSoft = s.dramSoft := rfl
@[simp] theorem State.dropIssue_reqs (s : State) (c : Nat) : (s.dropIssue c).reqs = s.reqs := rfl
@[simp] theorem State.dropIssue_linkErrs (s : State) (c : Nat) : (s.dropIssue c).linkErrs = s.linkErrs := rfl
@[simp] theorem State.dropIssue_sent (s : State) (c : Nat) : (s.dropIssue c).sent = s.sent := rfl
@[simp] theorem State.dropIssue_subCount (s : State) (c : Nat) : (s.dropIssue c).subCount = s.subCount := rfl
@[simp] theorem State.dropIssue_out (s : State) (c : Nat) : (s.dropIssue c).out = s.out := rfl
@[simp] theorem State.dropIssue_errs (s : State) (c : Nat) : (s.dropIssue c).errs = s.errs := rfl
@[simp] theorem State.dropIssue_lasting (s : State) (c : Nat) : (s.dropIssue c).lasting = s.lasting := rfl
@[simp] theorem State.dropIssue_duty (s : State) (c : Nat) : (s.dropIssue c).duty = s.duty := rfl
@[simp] theorem State.dropIssue_heldWork (s : State) (c : Nat) : (s.dropIssue c).heldWork = s.heldWork := rfl
@[simp] theorem State.dropIssue_testAt (s : State) (c : Nat) : (s.dropIssue c).testAt = s.testAt := rfl
@[simp] theorem State.dropIssue_mlog (s : State) (c : Nat) : (s.dropIssue c).mlog = s.mlog := rfl
@[simp] theorem State.dropIssue_flash (s : State) (c : Nat) : (s.dropIssue c).flash = s.flash := rfl

/-! ### dropExpansion -/

@[simp] theorem State.dropExpansion_gtc (s : State) (c : Nat) : (s.dropExpansion c).gtc = s.gtc := rfl
@[simp] theorem State.dropExpansion_on (s : State) (c : Nat) : (s.dropExpansion c).on = s.on := rfl
@[simp] theorem State.dropExpansion_cur (s : State) (c : Nat) : (s.dropExpansion c).cur = s.cur := rfl
@[simp] theorem State.dropExpansion_me (s : State) (c : Nat) : (s.dropExpansion c).me = s.me := rfl
@[simp] theorem State.dropExpansion_t (s : State) (c : Nat) : (s.dropExpansion c).t = s.t := rfl
@[simp] theorem State.dropExpansion_free (s : State) (c : Nat) : (s.dropExpansion c).free = s.free := rfl
@[simp] theorem State.dropExpansion_cores (s : State) (c : Nat) : (s.dropExpansion c).cores = s.cores := rfl
@[simp] theorem State.dropExpansion_dies (s : State) (c : Nat) : (s.dropExpansion c).dies = s.dies := rfl
@[simp] theorem State.dropExpansion_hbm (s : State) (c : Nat) : (s.dropExpansion c).hbm = s.hbm := rfl
@[simp] theorem State.dropExpansion_dram (s : State) (c : Nat) : (s.dropExpansion c).dram = s.dram := rfl
@[simp] theorem State.dropExpansion_parts (s : State) (c : Nat) : (s.dropExpansion c).parts = s.parts := rfl
@[simp] theorem State.dropExpansion_launches (s : State) (c : Nat) : (s.dropExpansion c).launches = s.launches := rfl
@[simp] theorem State.dropExpansion_svcs (s : State) (c : Nat) : (s.dropExpansion c).svcs = s.svcs := rfl
@[simp] theorem State.dropExpansion_session (s : State) (c : Nat) : (s.dropExpansion c).session = s.session := rfl
@[simp] theorem State.dropExpansion_ports (s : State) (c : Nat) : (s.dropExpansion c).ports = s.ports := rfl
@[simp] theorem State.dropExpansion_tenants (s : State) (c : Nat) : (s.dropExpansion c).tenants = s.tenants := rfl
@[simp] theorem State.dropExpansion_fns (s : State) (c : Nat) : (s.dropExpansion c).fns = s.fns := rfl
@[simp] theorem State.dropExpansion_pigAccess (s : State) (c : Nat) : (s.dropExpansion c).pigAccess = s.pigAccess := rfl
@[simp] theorem State.dropExpansion_unitCount (s : State) (c : Nat) : (s.dropExpansion c).unitCount = s.unitCount := rfl
@[simp] theorem State.dropExpansion_hostQueue (s : State) (c : Nat) : (s.dropExpansion c).hostQueue = s.hostQueue := rfl
@[simp] theorem State.dropExpansion_served (s : State) (c : Nat) : (s.dropExpansion c).served = s.served := rfl
@[simp] theorem State.dropExpansion_applied (s : State) (c : Nat) : (s.dropExpansion c).applied = s.applied := rfl
@[simp] theorem State.dropExpansion_testing (s : State) (c : Nat) : (s.dropExpansion c).testing = s.testing := rfl
@[simp] theorem State.dropExpansion_stuck (s : State) (c : Nat) : (s.dropExpansion c).stuck = s.stuck := rfl
@[simp] theorem State.dropExpansion_recovery (s : State) (c : Nat) : (s.dropExpansion c).recovery = s.recovery := rfl
@[simp] theorem State.dropExpansion_ready (s : State) (c : Nat) : (s.dropExpansion c).ready = s.ready := rfl
@[simp] theorem State.dropExpansion_bankUses (s : State) (c : Nat) : (s.dropExpansion c).bankUses = s.bankUses := rfl
@[simp] theorem State.dropExpansion_pigWrites (s : State) (c : Nat) : (s.dropExpansion c).pigWrites = s.pigWrites := rfl
@[simp] theorem State.dropExpansion_moves (s : State) (c : Nat) : (s.dropExpansion c).moves = s.moves := rfl
@[simp] theorem State.dropExpansion_poison (s : State) (c : Nat) : (s.dropExpansion c).poison = s.poison := rfl
@[simp] theorem State.dropExpansion_dramBad (s : State) (c : Nat) : (s.dropExpansion c).dramBad = s.dramBad := rfl
@[simp] theorem State.dropExpansion_dramSoft (s : State) (c : Nat) : (s.dropExpansion c).dramSoft = s.dramSoft := rfl
@[simp] theorem State.dropExpansion_reqs (s : State) (c : Nat) : (s.dropExpansion c).reqs = s.reqs := rfl
@[simp] theorem State.dropExpansion_linkErrs (s : State) (c : Nat) : (s.dropExpansion c).linkErrs = s.linkErrs := rfl
@[simp] theorem State.dropExpansion_sent (s : State) (c : Nat) : (s.dropExpansion c).sent = s.sent := rfl
@[simp] theorem State.dropExpansion_subCount (s : State) (c : Nat) : (s.dropExpansion c).subCount = s.subCount := rfl
@[simp] theorem State.dropExpansion_out (s : State) (c : Nat) : (s.dropExpansion c).out = s.out := rfl
@[simp] theorem State.dropExpansion_errs (s : State) (c : Nat) : (s.dropExpansion c).errs = s.errs := rfl
@[simp] theorem State.dropExpansion_lasting (s : State) (c : Nat) : (s.dropExpansion c).lasting = s.lasting := rfl
@[simp] theorem State.dropExpansion_duty (s : State) (c : Nat) : (s.dropExpansion c).duty = s.duty := rfl
@[simp] theorem State.dropExpansion_heldWork (s : State) (c : Nat) : (s.dropExpansion c).heldWork = s.heldWork := rfl
@[simp] theorem State.dropExpansion_testAt (s : State) (c : Nat) : (s.dropExpansion c).testAt = s.testAt := rfl
@[simp] theorem State.dropExpansion_mlog (s : State) (c : Nat) : (s.dropExpansion c).mlog = s.mlog := rfl
@[simp] theorem State.dropExpansion_flash (s : State) (c : Nat) : (s.dropExpansion c).flash = s.flash := rfl

/-! ### dropDue -/

@[simp] theorem State.dropDue_gtc (s : State) (f : Timed → Bool) : (s.dropDue f).gtc = s.gtc := rfl
@[simp] theorem State.dropDue_on (s : State) (f : Timed → Bool) : (s.dropDue f).on = s.on := rfl
@[simp] theorem State.dropDue_cur (s : State) (f : Timed → Bool) : (s.dropDue f).cur = s.cur := rfl
@[simp] theorem State.dropDue_me (s : State) (f : Timed → Bool) : (s.dropDue f).me = s.me := rfl
@[simp] theorem State.dropDue_t (s : State) (f : Timed → Bool) : (s.dropDue f).t = s.t := rfl
@[simp] theorem State.dropDue_free (s : State) (f : Timed → Bool) : (s.dropDue f).free = s.free := rfl
@[simp] theorem State.dropDue_cores (s : State) (f : Timed → Bool) : (s.dropDue f).cores = s.cores := rfl
@[simp] theorem State.dropDue_dies (s : State) (f : Timed → Bool) : (s.dropDue f).dies = s.dies := rfl
@[simp] theorem State.dropDue_hbm (s : State) (f : Timed → Bool) : (s.dropDue f).hbm = s.hbm := rfl
@[simp] theorem State.dropDue_dram (s : State) (f : Timed → Bool) : (s.dropDue f).dram = s.dram := rfl
@[simp] theorem State.dropDue_parts (s : State) (f : Timed → Bool) : (s.dropDue f).parts = s.parts := rfl
@[simp] theorem State.dropDue_launches (s : State) (f : Timed → Bool) : (s.dropDue f).launches = s.launches := rfl
@[simp] theorem State.dropDue_svcs (s : State) (f : Timed → Bool) : (s.dropDue f).svcs = s.svcs := rfl
@[simp] theorem State.dropDue_session (s : State) (f : Timed → Bool) : (s.dropDue f).session = s.session := rfl
@[simp] theorem State.dropDue_ports (s : State) (f : Timed → Bool) : (s.dropDue f).ports = s.ports := rfl
@[simp] theorem State.dropDue_tenants (s : State) (f : Timed → Bool) : (s.dropDue f).tenants = s.tenants := rfl
@[simp] theorem State.dropDue_fns (s : State) (f : Timed → Bool) : (s.dropDue f).fns = s.fns := rfl
@[simp] theorem State.dropDue_pigAccess (s : State) (f : Timed → Bool) : (s.dropDue f).pigAccess = s.pigAccess := rfl
@[simp] theorem State.dropDue_unitCount (s : State) (f : Timed → Bool) : (s.dropDue f).unitCount = s.unitCount := rfl
@[simp] theorem State.dropDue_hostQueue (s : State) (f : Timed → Bool) : (s.dropDue f).hostQueue = s.hostQueue := rfl
@[simp] theorem State.dropDue_served (s : State) (f : Timed → Bool) : (s.dropDue f).served = s.served := rfl
@[simp] theorem State.dropDue_applied (s : State) (f : Timed → Bool) : (s.dropDue f).applied = s.applied := rfl
@[simp] theorem State.dropDue_testing (s : State) (f : Timed → Bool) : (s.dropDue f).testing = s.testing := rfl
@[simp] theorem State.dropDue_stuck (s : State) (f : Timed → Bool) : (s.dropDue f).stuck = s.stuck := rfl
@[simp] theorem State.dropDue_recovery (s : State) (f : Timed → Bool) : (s.dropDue f).recovery = s.recovery := rfl
@[simp] theorem State.dropDue_ready (s : State) (f : Timed → Bool) : (s.dropDue f).ready = s.ready := rfl
@[simp] theorem State.dropDue_bankUses (s : State) (f : Timed → Bool) : (s.dropDue f).bankUses = s.bankUses := rfl
@[simp] theorem State.dropDue_pigWrites (s : State) (f : Timed → Bool) : (s.dropDue f).pigWrites = s.pigWrites := rfl
@[simp] theorem State.dropDue_moves (s : State) (f : Timed → Bool) : (s.dropDue f).moves = s.moves := rfl
@[simp] theorem State.dropDue_poison (s : State) (f : Timed → Bool) : (s.dropDue f).poison = s.poison := rfl
@[simp] theorem State.dropDue_dramBad (s : State) (f : Timed → Bool) : (s.dropDue f).dramBad = s.dramBad := rfl
@[simp] theorem State.dropDue_dramSoft (s : State) (f : Timed → Bool) : (s.dropDue f).dramSoft = s.dramSoft := rfl
@[simp] theorem State.dropDue_reqs (s : State) (f : Timed → Bool) : (s.dropDue f).reqs = s.reqs := rfl
@[simp] theorem State.dropDue_linkErrs (s : State) (f : Timed → Bool) : (s.dropDue f).linkErrs = s.linkErrs := rfl
@[simp] theorem State.dropDue_sent (s : State) (f : Timed → Bool) : (s.dropDue f).sent = s.sent := rfl
@[simp] theorem State.dropDue_subCount (s : State) (f : Timed → Bool) : (s.dropDue f).subCount = s.subCount := rfl
@[simp] theorem State.dropDue_out (s : State) (f : Timed → Bool) : (s.dropDue f).out = s.out := rfl
@[simp] theorem State.dropDue_errs (s : State) (f : Timed → Bool) : (s.dropDue f).errs = s.errs := rfl
@[simp] theorem State.dropDue_lasting (s : State) (f : Timed → Bool) : (s.dropDue f).lasting = s.lasting := rfl
@[simp] theorem State.dropDue_duty (s : State) (f : Timed → Bool) : (s.dropDue f).duty = s.duty := rfl
@[simp] theorem State.dropDue_heldWork (s : State) (f : Timed → Bool) : (s.dropDue f).heldWork = s.heldWork := rfl
@[simp] theorem State.dropDue_testAt (s : State) (f : Timed → Bool) : (s.dropDue f).testAt = s.testAt := rfl
@[simp] theorem State.dropDue_mlog (s : State) (f : Timed → Bool) : (s.dropDue f).mlog = s.mlog := rfl
@[simp] theorem State.dropDue_flash (s : State) (f : Timed → Bool) : (s.dropDue f).flash = s.flash := rfl

/-! ### raiseFor -/

@[simp] theorem State.raiseFor_gtc (s : State) (b : Option ErrUnit) (c k r : Nat) (a : Word) (i : Option Nat) (d : List Word) : (s.raiseFor b c k r a i d).gtc = s.gtc := rfl
@[simp] theorem State.raiseFor_on (s : State) (b : Option ErrUnit) (c k r : Nat) (a : Word) (i : Option Nat) (d : List Word) : (s.raiseFor b c k r a i d).on = s.on := rfl
@[simp] theorem State.raiseFor_cur (s : State) (b : Option ErrUnit) (c k r : Nat) (a : Word) (i : Option Nat) (d : List Word) : (s.raiseFor b c k r a i d).cur = s.cur := rfl
@[simp] theorem State.raiseFor_me (s : State) (b : Option ErrUnit) (c k r : Nat) (a : Word) (i : Option Nat) (d : List Word) : (s.raiseFor b c k r a i d).me = s.me := rfl
@[simp] theorem State.raiseFor_t (s : State) (b : Option ErrUnit) (c k r : Nat) (a : Word) (i : Option Nat) (d : List Word) : (s.raiseFor b c k r a i d).t = s.t := rfl
@[simp] theorem State.raiseFor_free (s : State) (b : Option ErrUnit) (c k r : Nat) (a : Word) (i : Option Nat) (d : List Word) : (s.raiseFor b c k r a i d).free = s.free := rfl
@[simp] theorem State.raiseFor_due (s : State) (b : Option ErrUnit) (c k r : Nat) (a : Word) (i : Option Nat) (d : List Word) : (s.raiseFor b c k r a i d).due = s.due := rfl
@[simp] theorem State.raiseFor_cores (s : State) (b : Option ErrUnit) (c k r : Nat) (a : Word) (i : Option Nat) (d : List Word) : (s.raiseFor b c k r a i d).cores = s.cores := rfl
@[simp] theorem State.raiseFor_dies (s : State) (b : Option ErrUnit) (c k r : Nat) (a : Word) (i : Option Nat) (d : List Word) : (s.raiseFor b c k r a i d).dies = s.dies := rfl
@[simp] theorem State.raiseFor_hbm (s : State) (b : Option ErrUnit) (c k r : Nat) (a : Word) (i : Option Nat) (d : List Word) : (s.raiseFor b c k r a i d).hbm = s.hbm := rfl
@[simp] theorem State.raiseFor_dram (s : State) (b : Option ErrUnit) (c k r : Nat) (a : Word) (i : Option Nat) (d : List Word) : (s.raiseFor b c k r a i d).dram = s.dram := rfl
@[simp] theorem State.raiseFor_launches (s : State) (b : Option ErrUnit) (c k r : Nat) (a : Word) (i : Option Nat) (d : List Word) : (s.raiseFor b c k r a i d).launches = s.launches := rfl
@[simp] theorem State.raiseFor_svcs (s : State) (b : Option ErrUnit) (c k r : Nat) (a : Word) (i : Option Nat) (d : List Word) : (s.raiseFor b c k r a i d).svcs = s.svcs := rfl
@[simp] theorem State.raiseFor_session (s : State) (b : Option ErrUnit) (c k r : Nat) (a : Word) (i : Option Nat) (d : List Word) : (s.raiseFor b c k r a i d).session = s.session := rfl
@[simp] theorem State.raiseFor_ports (s : State) (b : Option ErrUnit) (c k r : Nat) (a : Word) (i : Option Nat) (d : List Word) : (s.raiseFor b c k r a i d).ports = s.ports := rfl
@[simp] theorem State.raiseFor_tenants (s : State) (b : Option ErrUnit) (c k r : Nat) (a : Word) (i : Option Nat) (d : List Word) : (s.raiseFor b c k r a i d).tenants = s.tenants := rfl
@[simp] theorem State.raiseFor_fns (s : State) (b : Option ErrUnit) (c k r : Nat) (a : Word) (i : Option Nat) (d : List Word) : (s.raiseFor b c k r a i d).fns = s.fns := rfl
@[simp] theorem State.raiseFor_pigAccess (s : State) (b : Option ErrUnit) (c k r : Nat) (a : Word) (i : Option Nat) (d : List Word) : (s.raiseFor b c k r a i d).pigAccess = s.pigAccess := rfl
@[simp] theorem State.raiseFor_unitCount (s : State) (b : Option ErrUnit) (c k r : Nat) (a : Word) (i : Option Nat) (d : List Word) : (s.raiseFor b c k r a i d).unitCount = s.unitCount := rfl
@[simp] theorem State.raiseFor_hostQueue (s : State) (b : Option ErrUnit) (c k r : Nat) (a : Word) (i : Option Nat) (d : List Word) : (s.raiseFor b c k r a i d).hostQueue = s.hostQueue := rfl
@[simp] theorem State.raiseFor_served (s : State) (b : Option ErrUnit) (c k r : Nat) (a : Word) (i : Option Nat) (d : List Word) : (s.raiseFor b c k r a i d).served = s.served := rfl
@[simp] theorem State.raiseFor_applied (s : State) (b : Option ErrUnit) (c k r : Nat) (a : Word) (i : Option Nat) (d : List Word) : (s.raiseFor b c k r a i d).applied = s.applied := rfl
@[simp] theorem State.raiseFor_testing (s : State) (b : Option ErrUnit) (c k r : Nat) (a : Word) (i : Option Nat) (d : List Word) : (s.raiseFor b c k r a i d).testing = s.testing := rfl
@[simp] theorem State.raiseFor_stuck (s : State) (b : Option ErrUnit) (c k r : Nat) (a : Word) (i : Option Nat) (d : List Word) : (s.raiseFor b c k r a i d).stuck = s.stuck := rfl
@[simp] theorem State.raiseFor_recovery (s : State) (b : Option ErrUnit) (c k r : Nat) (a : Word) (i : Option Nat) (d : List Word) : (s.raiseFor b c k r a i d).recovery = s.recovery := rfl
@[simp] theorem State.raiseFor_ready (s : State) (b : Option ErrUnit) (c k r : Nat) (a : Word) (i : Option Nat) (d : List Word) : (s.raiseFor b c k r a i d).ready = s.ready := rfl
@[simp] theorem State.raiseFor_bankUses (s : State) (b : Option ErrUnit) (c k r : Nat) (a : Word) (i : Option Nat) (d : List Word) : (s.raiseFor b c k r a i d).bankUses = s.bankUses := rfl
@[simp] theorem State.raiseFor_pigWrites (s : State) (b : Option ErrUnit) (c k r : Nat) (a : Word) (i : Option Nat) (d : List Word) : (s.raiseFor b c k r a i d).pigWrites = s.pigWrites := rfl
@[simp] theorem State.raiseFor_moves (s : State) (b : Option ErrUnit) (c k r : Nat) (a : Word) (i : Option Nat) (d : List Word) : (s.raiseFor b c k r a i d).moves = s.moves := rfl
@[simp] theorem State.raiseFor_poison (s : State) (b : Option ErrUnit) (c k r : Nat) (a : Word) (i : Option Nat) (d : List Word) : (s.raiseFor b c k r a i d).poison = s.poison := rfl
@[simp] theorem State.raiseFor_dramBad (s : State) (b : Option ErrUnit) (c k r : Nat) (a : Word) (i : Option Nat) (d : List Word) : (s.raiseFor b c k r a i d).dramBad = s.dramBad := rfl
@[simp] theorem State.raiseFor_dramSoft (s : State) (b : Option ErrUnit) (c k r : Nat) (a : Word) (i : Option Nat) (d : List Word) : (s.raiseFor b c k r a i d).dramSoft = s.dramSoft := rfl
@[simp] theorem State.raiseFor_reqs (s : State) (b : Option ErrUnit) (c k r : Nat) (a : Word) (i : Option Nat) (d : List Word) : (s.raiseFor b c k r a i d).reqs = s.reqs := rfl
@[simp] theorem State.raiseFor_linkErrs (s : State) (b : Option ErrUnit) (c k r : Nat) (a : Word) (i : Option Nat) (d : List Word) : (s.raiseFor b c k r a i d).linkErrs = s.linkErrs := rfl
@[simp] theorem State.raiseFor_sent (s : State) (b : Option ErrUnit) (c k r : Nat) (a : Word) (i : Option Nat) (d : List Word) : (s.raiseFor b c k r a i d).sent = s.sent := rfl
@[simp] theorem State.raiseFor_subCount (s : State) (b : Option ErrUnit) (c k r : Nat) (a : Word) (i : Option Nat) (d : List Word) : (s.raiseFor b c k r a i d).subCount = s.subCount := rfl
@[simp] theorem State.raiseFor_out (s : State) (b : Option ErrUnit) (c k r : Nat) (a : Word) (i : Option Nat) (d : List Word) : (s.raiseFor b c k r a i d).out = s.out := rfl
@[simp] theorem State.raiseFor_errs (s : State) (b : Option ErrUnit) (c k r : Nat) (a : Word) (i : Option Nat) (d : List Word) : (s.raiseFor b c k r a i d).errs = s.errs := rfl
@[simp] theorem State.raiseFor_lasting (s : State) (b : Option ErrUnit) (c k r : Nat) (a : Word) (i : Option Nat) (d : List Word) : (s.raiseFor b c k r a i d).lasting = s.lasting := rfl
@[simp] theorem State.raiseFor_duty (s : State) (b : Option ErrUnit) (c k r : Nat) (a : Word) (i : Option Nat) (d : List Word) : (s.raiseFor b c k r a i d).duty = s.duty := rfl
@[simp] theorem State.raiseFor_heldWork (s : State) (b : Option ErrUnit) (c k r : Nat) (a : Word) (i : Option Nat) (d : List Word) : (s.raiseFor b c k r a i d).heldWork = s.heldWork := rfl
@[simp] theorem State.raiseFor_testAt (s : State) (b : Option ErrUnit) (c k r : Nat) (a : Word) (i : Option Nat) (d : List Word) : (s.raiseFor b c k r a i d).testAt = s.testAt := rfl
@[simp] theorem State.raiseFor_mlog (s : State) (b : Option ErrUnit) (c k r : Nat) (a : Word) (i : Option Nat) (d : List Word) : (s.raiseFor b c k r a i d).mlog = s.mlog := rfl
@[simp] theorem State.raiseFor_flash (s : State) (b : Option ErrUnit) (c k r : Nat) (a : Word) (i : Option Nat) (d : List Word) : (s.raiseFor b c k r a i d).flash = s.flash := rfl

/-! ### raisePart -/

@[simp] theorem State.raisePart_gtc (s : State) (p : Nat) (f : FaultNow) : (s.raisePart p f).gtc = s.gtc := rfl
@[simp] theorem State.raisePart_on (s : State) (p : Nat) (f : FaultNow) : (s.raisePart p f).on = s.on := rfl
@[simp] theorem State.raisePart_cur (s : State) (p : Nat) (f : FaultNow) : (s.raisePart p f).cur = s.cur := rfl
@[simp] theorem State.raisePart_me (s : State) (p : Nat) (f : FaultNow) : (s.raisePart p f).me = s.me := rfl
@[simp] theorem State.raisePart_t (s : State) (p : Nat) (f : FaultNow) : (s.raisePart p f).t = s.t := rfl
@[simp] theorem State.raisePart_free (s : State) (p : Nat) (f : FaultNow) : (s.raisePart p f).free = s.free := rfl
@[simp] theorem State.raisePart_due (s : State) (p : Nat) (f : FaultNow) : (s.raisePart p f).due = s.due := rfl
@[simp] theorem State.raisePart_cores (s : State) (p : Nat) (f : FaultNow) : (s.raisePart p f).cores = s.cores := rfl
@[simp] theorem State.raisePart_dies (s : State) (p : Nat) (f : FaultNow) : (s.raisePart p f).dies = s.dies := rfl
@[simp] theorem State.raisePart_hbm (s : State) (p : Nat) (f : FaultNow) : (s.raisePart p f).hbm = s.hbm := rfl
@[simp] theorem State.raisePart_dram (s : State) (p : Nat) (f : FaultNow) : (s.raisePart p f).dram = s.dram := rfl
@[simp] theorem State.raisePart_launches (s : State) (p : Nat) (f : FaultNow) : (s.raisePart p f).launches = s.launches := rfl
@[simp] theorem State.raisePart_svcs (s : State) (p : Nat) (f : FaultNow) : (s.raisePart p f).svcs = s.svcs := rfl
@[simp] theorem State.raisePart_session (s : State) (p : Nat) (f : FaultNow) : (s.raisePart p f).session = s.session := rfl
@[simp] theorem State.raisePart_ports (s : State) (p : Nat) (f : FaultNow) : (s.raisePart p f).ports = s.ports := rfl
@[simp] theorem State.raisePart_tenants (s : State) (p : Nat) (f : FaultNow) : (s.raisePart p f).tenants = s.tenants := rfl
@[simp] theorem State.raisePart_fns (s : State) (p : Nat) (f : FaultNow) : (s.raisePart p f).fns = s.fns := rfl
@[simp] theorem State.raisePart_pigAccess (s : State) (p : Nat) (f : FaultNow) : (s.raisePart p f).pigAccess = s.pigAccess := rfl
@[simp] theorem State.raisePart_unitCount (s : State) (p : Nat) (f : FaultNow) : (s.raisePart p f).unitCount = s.unitCount := rfl
@[simp] theorem State.raisePart_hostQueue (s : State) (p : Nat) (f : FaultNow) : (s.raisePart p f).hostQueue = s.hostQueue := rfl
@[simp] theorem State.raisePart_served (s : State) (p : Nat) (f : FaultNow) : (s.raisePart p f).served = s.served := rfl
@[simp] theorem State.raisePart_applied (s : State) (p : Nat) (f : FaultNow) : (s.raisePart p f).applied = s.applied := rfl
@[simp] theorem State.raisePart_testing (s : State) (p : Nat) (f : FaultNow) : (s.raisePart p f).testing = s.testing := rfl
@[simp] theorem State.raisePart_stuck (s : State) (p : Nat) (f : FaultNow) : (s.raisePart p f).stuck = s.stuck := rfl
@[simp] theorem State.raisePart_recovery (s : State) (p : Nat) (f : FaultNow) : (s.raisePart p f).recovery = s.recovery := rfl
@[simp] theorem State.raisePart_ready (s : State) (p : Nat) (f : FaultNow) : (s.raisePart p f).ready = s.ready := rfl
@[simp] theorem State.raisePart_bankUses (s : State) (p : Nat) (f : FaultNow) : (s.raisePart p f).bankUses = s.bankUses := rfl
@[simp] theorem State.raisePart_pigWrites (s : State) (p : Nat) (f : FaultNow) : (s.raisePart p f).pigWrites = s.pigWrites := rfl
@[simp] theorem State.raisePart_moves (s : State) (p : Nat) (f : FaultNow) : (s.raisePart p f).moves = s.moves := rfl
@[simp] theorem State.raisePart_poison (s : State) (p : Nat) (f : FaultNow) : (s.raisePart p f).poison = s.poison := rfl
@[simp] theorem State.raisePart_dramBad (s : State) (p : Nat) (f : FaultNow) : (s.raisePart p f).dramBad = s.dramBad := rfl
@[simp] theorem State.raisePart_dramSoft (s : State) (p : Nat) (f : FaultNow) : (s.raisePart p f).dramSoft = s.dramSoft := rfl
@[simp] theorem State.raisePart_reqs (s : State) (p : Nat) (f : FaultNow) : (s.raisePart p f).reqs = s.reqs := rfl
@[simp] theorem State.raisePart_linkErrs (s : State) (p : Nat) (f : FaultNow) : (s.raisePart p f).linkErrs = s.linkErrs := rfl
@[simp] theorem State.raisePart_sent (s : State) (p : Nat) (f : FaultNow) : (s.raisePart p f).sent = s.sent := rfl
@[simp] theorem State.raisePart_subCount (s : State) (p : Nat) (f : FaultNow) : (s.raisePart p f).subCount = s.subCount := rfl
@[simp] theorem State.raisePart_out (s : State) (p : Nat) (f : FaultNow) : (s.raisePart p f).out = s.out := rfl
@[simp] theorem State.raisePart_errs (s : State) (p : Nat) (f : FaultNow) : (s.raisePart p f).errs = s.errs := rfl
@[simp] theorem State.raisePart_lasting (s : State) (p : Nat) (f : FaultNow) : (s.raisePart p f).lasting = s.lasting := rfl
@[simp] theorem State.raisePart_duty (s : State) (p : Nat) (f : FaultNow) : (s.raisePart p f).duty = s.duty := rfl
@[simp] theorem State.raisePart_heldWork (s : State) (p : Nat) (f : FaultNow) : (s.raisePart p f).heldWork = s.heldWork := rfl
@[simp] theorem State.raisePart_testAt (s : State) (p : Nat) (f : FaultNow) : (s.raisePart p f).testAt = s.testAt := rfl
@[simp] theorem State.raisePart_mlog (s : State) (p : Nat) (f : FaultNow) : (s.raisePart p f).mlog = s.mlog := rfl
@[simp] theorem State.raisePart_flash (s : State) (p : Nat) (f : FaultNow) : (s.raisePart p f).flash = s.flash := rfl

/-! ### raise -/

@[simp] theorem State.raise_gtc (s : State) (k : Nat) (d : List Word) : (s.raise k d).gtc = s.gtc := rfl
@[simp] theorem State.raise_on (s : State) (k : Nat) (d : List Word) : (s.raise k d).on = s.on := rfl
@[simp] theorem State.raise_cur (s : State) (k : Nat) (d : List Word) : (s.raise k d).cur = s.cur := rfl
@[simp] theorem State.raise_me (s : State) (k : Nat) (d : List Word) : (s.raise k d).me = s.me := rfl
@[simp] theorem State.raise_t (s : State) (k : Nat) (d : List Word) : (s.raise k d).t = s.t := rfl
@[simp] theorem State.raise_free (s : State) (k : Nat) (d : List Word) : (s.raise k d).free = s.free := rfl
@[simp] theorem State.raise_due (s : State) (k : Nat) (d : List Word) : (s.raise k d).due = s.due := rfl
@[simp] theorem State.raise_cores (s : State) (k : Nat) (d : List Word) : (s.raise k d).cores = s.cores := rfl
@[simp] theorem State.raise_dies (s : State) (k : Nat) (d : List Word) : (s.raise k d).dies = s.dies := rfl
@[simp] theorem State.raise_hbm (s : State) (k : Nat) (d : List Word) : (s.raise k d).hbm = s.hbm := rfl
@[simp] theorem State.raise_dram (s : State) (k : Nat) (d : List Word) : (s.raise k d).dram = s.dram := rfl
@[simp] theorem State.raise_launches (s : State) (k : Nat) (d : List Word) : (s.raise k d).launches = s.launches := rfl
@[simp] theorem State.raise_svcs (s : State) (k : Nat) (d : List Word) : (s.raise k d).svcs = s.svcs := rfl
@[simp] theorem State.raise_session (s : State) (k : Nat) (d : List Word) : (s.raise k d).session = s.session := rfl
@[simp] theorem State.raise_ports (s : State) (k : Nat) (d : List Word) : (s.raise k d).ports = s.ports := rfl
@[simp] theorem State.raise_tenants (s : State) (k : Nat) (d : List Word) : (s.raise k d).tenants = s.tenants := rfl
@[simp] theorem State.raise_fns (s : State) (k : Nat) (d : List Word) : (s.raise k d).fns = s.fns := rfl
@[simp] theorem State.raise_pigAccess (s : State) (k : Nat) (d : List Word) : (s.raise k d).pigAccess = s.pigAccess := rfl
@[simp] theorem State.raise_unitCount (s : State) (k : Nat) (d : List Word) : (s.raise k d).unitCount = s.unitCount := rfl
@[simp] theorem State.raise_hostQueue (s : State) (k : Nat) (d : List Word) : (s.raise k d).hostQueue = s.hostQueue := rfl
@[simp] theorem State.raise_served (s : State) (k : Nat) (d : List Word) : (s.raise k d).served = s.served := rfl
@[simp] theorem State.raise_applied (s : State) (k : Nat) (d : List Word) : (s.raise k d).applied = s.applied := rfl
@[simp] theorem State.raise_testing (s : State) (k : Nat) (d : List Word) : (s.raise k d).testing = s.testing := rfl
@[simp] theorem State.raise_stuck (s : State) (k : Nat) (d : List Word) : (s.raise k d).stuck = s.stuck := rfl
@[simp] theorem State.raise_recovery (s : State) (k : Nat) (d : List Word) : (s.raise k d).recovery = s.recovery := rfl
@[simp] theorem State.raise_ready (s : State) (k : Nat) (d : List Word) : (s.raise k d).ready = s.ready := rfl
@[simp] theorem State.raise_bankUses (s : State) (k : Nat) (d : List Word) : (s.raise k d).bankUses = s.bankUses := rfl
@[simp] theorem State.raise_pigWrites (s : State) (k : Nat) (d : List Word) : (s.raise k d).pigWrites = s.pigWrites := rfl
@[simp] theorem State.raise_moves (s : State) (k : Nat) (d : List Word) : (s.raise k d).moves = s.moves := rfl
@[simp] theorem State.raise_poison (s : State) (k : Nat) (d : List Word) : (s.raise k d).poison = s.poison := rfl
@[simp] theorem State.raise_dramBad (s : State) (k : Nat) (d : List Word) : (s.raise k d).dramBad = s.dramBad := rfl
@[simp] theorem State.raise_dramSoft (s : State) (k : Nat) (d : List Word) : (s.raise k d).dramSoft = s.dramSoft := rfl
@[simp] theorem State.raise_reqs (s : State) (k : Nat) (d : List Word) : (s.raise k d).reqs = s.reqs := rfl
@[simp] theorem State.raise_linkErrs (s : State) (k : Nat) (d : List Word) : (s.raise k d).linkErrs = s.linkErrs := rfl
@[simp] theorem State.raise_sent (s : State) (k : Nat) (d : List Word) : (s.raise k d).sent = s.sent := rfl
@[simp] theorem State.raise_subCount (s : State) (k : Nat) (d : List Word) : (s.raise k d).subCount = s.subCount := rfl
@[simp] theorem State.raise_out (s : State) (k : Nat) (d : List Word) : (s.raise k d).out = s.out := rfl
@[simp] theorem State.raise_errs (s : State) (k : Nat) (d : List Word) : (s.raise k d).errs = s.errs := rfl
@[simp] theorem State.raise_lasting (s : State) (k : Nat) (d : List Word) : (s.raise k d).lasting = s.lasting := rfl
@[simp] theorem State.raise_duty (s : State) (k : Nat) (d : List Word) : (s.raise k d).duty = s.duty := rfl
@[simp] theorem State.raise_heldWork (s : State) (k : Nat) (d : List Word) : (s.raise k d).heldWork = s.heldWork := rfl
@[simp] theorem State.raise_testAt (s : State) (k : Nat) (d : List Word) : (s.raise k d).testAt = s.testAt := rfl
@[simp] theorem State.raise_mlog (s : State) (k : Nat) (d : List Word) : (s.raise k d).mlog = s.mlog := rfl
@[simp] theorem State.raise_flash (s : State) (k : Nat) (d : List Word) : (s.raise k d).flash = s.flash := rfl

/-! ### raiseBlame -/

@[simp] theorem State.raiseBlame_gtc (s : State) (b : Option ErrUnit) (k : Nat) (d : List Word) : (s.raiseBlame b k d).gtc = s.gtc := rfl
@[simp] theorem State.raiseBlame_on (s : State) (b : Option ErrUnit) (k : Nat) (d : List Word) : (s.raiseBlame b k d).on = s.on := rfl
@[simp] theorem State.raiseBlame_cur (s : State) (b : Option ErrUnit) (k : Nat) (d : List Word) : (s.raiseBlame b k d).cur = s.cur := rfl
@[simp] theorem State.raiseBlame_me (s : State) (b : Option ErrUnit) (k : Nat) (d : List Word) : (s.raiseBlame b k d).me = s.me := rfl
@[simp] theorem State.raiseBlame_t (s : State) (b : Option ErrUnit) (k : Nat) (d : List Word) : (s.raiseBlame b k d).t = s.t := rfl
@[simp] theorem State.raiseBlame_free (s : State) (b : Option ErrUnit) (k : Nat) (d : List Word) : (s.raiseBlame b k d).free = s.free := rfl
@[simp] theorem State.raiseBlame_due (s : State) (b : Option ErrUnit) (k : Nat) (d : List Word) : (s.raiseBlame b k d).due = s.due := rfl
@[simp] theorem State.raiseBlame_cores (s : State) (b : Option ErrUnit) (k : Nat) (d : List Word) : (s.raiseBlame b k d).cores = s.cores := rfl
@[simp] theorem State.raiseBlame_dies (s : State) (b : Option ErrUnit) (k : Nat) (d : List Word) : (s.raiseBlame b k d).dies = s.dies := rfl
@[simp] theorem State.raiseBlame_hbm (s : State) (b : Option ErrUnit) (k : Nat) (d : List Word) : (s.raiseBlame b k d).hbm = s.hbm := rfl
@[simp] theorem State.raiseBlame_dram (s : State) (b : Option ErrUnit) (k : Nat) (d : List Word) : (s.raiseBlame b k d).dram = s.dram := rfl
@[simp] theorem State.raiseBlame_launches (s : State) (b : Option ErrUnit) (k : Nat) (d : List Word) : (s.raiseBlame b k d).launches = s.launches := rfl
@[simp] theorem State.raiseBlame_svcs (s : State) (b : Option ErrUnit) (k : Nat) (d : List Word) : (s.raiseBlame b k d).svcs = s.svcs := rfl
@[simp] theorem State.raiseBlame_session (s : State) (b : Option ErrUnit) (k : Nat) (d : List Word) : (s.raiseBlame b k d).session = s.session := rfl
@[simp] theorem State.raiseBlame_ports (s : State) (b : Option ErrUnit) (k : Nat) (d : List Word) : (s.raiseBlame b k d).ports = s.ports := rfl
@[simp] theorem State.raiseBlame_tenants (s : State) (b : Option ErrUnit) (k : Nat) (d : List Word) : (s.raiseBlame b k d).tenants = s.tenants := rfl
@[simp] theorem State.raiseBlame_fns (s : State) (b : Option ErrUnit) (k : Nat) (d : List Word) : (s.raiseBlame b k d).fns = s.fns := rfl
@[simp] theorem State.raiseBlame_pigAccess (s : State) (b : Option ErrUnit) (k : Nat) (d : List Word) : (s.raiseBlame b k d).pigAccess = s.pigAccess := rfl
@[simp] theorem State.raiseBlame_unitCount (s : State) (b : Option ErrUnit) (k : Nat) (d : List Word) : (s.raiseBlame b k d).unitCount = s.unitCount := rfl
@[simp] theorem State.raiseBlame_hostQueue (s : State) (b : Option ErrUnit) (k : Nat) (d : List Word) : (s.raiseBlame b k d).hostQueue = s.hostQueue := rfl
@[simp] theorem State.raiseBlame_served (s : State) (b : Option ErrUnit) (k : Nat) (d : List Word) : (s.raiseBlame b k d).served = s.served := rfl
@[simp] theorem State.raiseBlame_applied (s : State) (b : Option ErrUnit) (k : Nat) (d : List Word) : (s.raiseBlame b k d).applied = s.applied := rfl
@[simp] theorem State.raiseBlame_testing (s : State) (b : Option ErrUnit) (k : Nat) (d : List Word) : (s.raiseBlame b k d).testing = s.testing := rfl
@[simp] theorem State.raiseBlame_stuck (s : State) (b : Option ErrUnit) (k : Nat) (d : List Word) : (s.raiseBlame b k d).stuck = s.stuck := rfl
@[simp] theorem State.raiseBlame_recovery (s : State) (b : Option ErrUnit) (k : Nat) (d : List Word) : (s.raiseBlame b k d).recovery = s.recovery := rfl
@[simp] theorem State.raiseBlame_ready (s : State) (b : Option ErrUnit) (k : Nat) (d : List Word) : (s.raiseBlame b k d).ready = s.ready := rfl
@[simp] theorem State.raiseBlame_bankUses (s : State) (b : Option ErrUnit) (k : Nat) (d : List Word) : (s.raiseBlame b k d).bankUses = s.bankUses := rfl
@[simp] theorem State.raiseBlame_pigWrites (s : State) (b : Option ErrUnit) (k : Nat) (d : List Word) : (s.raiseBlame b k d).pigWrites = s.pigWrites := rfl
@[simp] theorem State.raiseBlame_moves (s : State) (b : Option ErrUnit) (k : Nat) (d : List Word) : (s.raiseBlame b k d).moves = s.moves := rfl
@[simp] theorem State.raiseBlame_poison (s : State) (b : Option ErrUnit) (k : Nat) (d : List Word) : (s.raiseBlame b k d).poison = s.poison := rfl
@[simp] theorem State.raiseBlame_dramBad (s : State) (b : Option ErrUnit) (k : Nat) (d : List Word) : (s.raiseBlame b k d).dramBad = s.dramBad := rfl
@[simp] theorem State.raiseBlame_dramSoft (s : State) (b : Option ErrUnit) (k : Nat) (d : List Word) : (s.raiseBlame b k d).dramSoft = s.dramSoft := rfl
@[simp] theorem State.raiseBlame_reqs (s : State) (b : Option ErrUnit) (k : Nat) (d : List Word) : (s.raiseBlame b k d).reqs = s.reqs := rfl
@[simp] theorem State.raiseBlame_linkErrs (s : State) (b : Option ErrUnit) (k : Nat) (d : List Word) : (s.raiseBlame b k d).linkErrs = s.linkErrs := rfl
@[simp] theorem State.raiseBlame_sent (s : State) (b : Option ErrUnit) (k : Nat) (d : List Word) : (s.raiseBlame b k d).sent = s.sent := rfl
@[simp] theorem State.raiseBlame_subCount (s : State) (b : Option ErrUnit) (k : Nat) (d : List Word) : (s.raiseBlame b k d).subCount = s.subCount := rfl
@[simp] theorem State.raiseBlame_out (s : State) (b : Option ErrUnit) (k : Nat) (d : List Word) : (s.raiseBlame b k d).out = s.out := rfl
@[simp] theorem State.raiseBlame_errs (s : State) (b : Option ErrUnit) (k : Nat) (d : List Word) : (s.raiseBlame b k d).errs = s.errs := rfl
@[simp] theorem State.raiseBlame_lasting (s : State) (b : Option ErrUnit) (k : Nat) (d : List Word) : (s.raiseBlame b k d).lasting = s.lasting := rfl
@[simp] theorem State.raiseBlame_duty (s : State) (b : Option ErrUnit) (k : Nat) (d : List Word) : (s.raiseBlame b k d).duty = s.duty := rfl
@[simp] theorem State.raiseBlame_heldWork (s : State) (b : Option ErrUnit) (k : Nat) (d : List Word) : (s.raiseBlame b k d).heldWork = s.heldWork := rfl
@[simp] theorem State.raiseBlame_testAt (s : State) (b : Option ErrUnit) (k : Nat) (d : List Word) : (s.raiseBlame b k d).testAt = s.testAt := rfl
@[simp] theorem State.raiseBlame_mlog (s : State) (b : Option ErrUnit) (k : Nat) (d : List Word) : (s.raiseBlame b k d).mlog = s.mlog := rfl
@[simp] theorem State.raiseBlame_flash (s : State) (b : Option ErrUnit) (k : Nat) (d : List Word) : (s.raiseBlame b k d).flash = s.flash := rfl

/-! ### raiseAs -/

@[simp] theorem State.raiseAs_gtc (s : State) (r k : Nat) (d : List Word) : (s.raiseAs r k d).gtc = s.gtc := rfl
@[simp] theorem State.raiseAs_on (s : State) (r k : Nat) (d : List Word) : (s.raiseAs r k d).on = s.on := rfl
@[simp] theorem State.raiseAs_cur (s : State) (r k : Nat) (d : List Word) : (s.raiseAs r k d).cur = s.cur := rfl
@[simp] theorem State.raiseAs_me (s : State) (r k : Nat) (d : List Word) : (s.raiseAs r k d).me = s.me := rfl
@[simp] theorem State.raiseAs_t (s : State) (r k : Nat) (d : List Word) : (s.raiseAs r k d).t = s.t := rfl
@[simp] theorem State.raiseAs_free (s : State) (r k : Nat) (d : List Word) : (s.raiseAs r k d).free = s.free := rfl
@[simp] theorem State.raiseAs_due (s : State) (r k : Nat) (d : List Word) : (s.raiseAs r k d).due = s.due := rfl
@[simp] theorem State.raiseAs_cores (s : State) (r k : Nat) (d : List Word) : (s.raiseAs r k d).cores = s.cores := rfl
@[simp] theorem State.raiseAs_dies (s : State) (r k : Nat) (d : List Word) : (s.raiseAs r k d).dies = s.dies := rfl
@[simp] theorem State.raiseAs_hbm (s : State) (r k : Nat) (d : List Word) : (s.raiseAs r k d).hbm = s.hbm := rfl
@[simp] theorem State.raiseAs_dram (s : State) (r k : Nat) (d : List Word) : (s.raiseAs r k d).dram = s.dram := rfl
@[simp] theorem State.raiseAs_launches (s : State) (r k : Nat) (d : List Word) : (s.raiseAs r k d).launches = s.launches := rfl
@[simp] theorem State.raiseAs_svcs (s : State) (r k : Nat) (d : List Word) : (s.raiseAs r k d).svcs = s.svcs := rfl
@[simp] theorem State.raiseAs_session (s : State) (r k : Nat) (d : List Word) : (s.raiseAs r k d).session = s.session := rfl
@[simp] theorem State.raiseAs_ports (s : State) (r k : Nat) (d : List Word) : (s.raiseAs r k d).ports = s.ports := rfl
@[simp] theorem State.raiseAs_tenants (s : State) (r k : Nat) (d : List Word) : (s.raiseAs r k d).tenants = s.tenants := rfl
@[simp] theorem State.raiseAs_fns (s : State) (r k : Nat) (d : List Word) : (s.raiseAs r k d).fns = s.fns := rfl
@[simp] theorem State.raiseAs_pigAccess (s : State) (r k : Nat) (d : List Word) : (s.raiseAs r k d).pigAccess = s.pigAccess := rfl
@[simp] theorem State.raiseAs_unitCount (s : State) (r k : Nat) (d : List Word) : (s.raiseAs r k d).unitCount = s.unitCount := rfl
@[simp] theorem State.raiseAs_hostQueue (s : State) (r k : Nat) (d : List Word) : (s.raiseAs r k d).hostQueue = s.hostQueue := rfl
@[simp] theorem State.raiseAs_served (s : State) (r k : Nat) (d : List Word) : (s.raiseAs r k d).served = s.served := rfl
@[simp] theorem State.raiseAs_applied (s : State) (r k : Nat) (d : List Word) : (s.raiseAs r k d).applied = s.applied := rfl
@[simp] theorem State.raiseAs_testing (s : State) (r k : Nat) (d : List Word) : (s.raiseAs r k d).testing = s.testing := rfl
@[simp] theorem State.raiseAs_stuck (s : State) (r k : Nat) (d : List Word) : (s.raiseAs r k d).stuck = s.stuck := rfl
@[simp] theorem State.raiseAs_recovery (s : State) (r k : Nat) (d : List Word) : (s.raiseAs r k d).recovery = s.recovery := rfl
@[simp] theorem State.raiseAs_ready (s : State) (r k : Nat) (d : List Word) : (s.raiseAs r k d).ready = s.ready := rfl
@[simp] theorem State.raiseAs_bankUses (s : State) (r k : Nat) (d : List Word) : (s.raiseAs r k d).bankUses = s.bankUses := rfl
@[simp] theorem State.raiseAs_pigWrites (s : State) (r k : Nat) (d : List Word) : (s.raiseAs r k d).pigWrites = s.pigWrites := rfl
@[simp] theorem State.raiseAs_moves (s : State) (r k : Nat) (d : List Word) : (s.raiseAs r k d).moves = s.moves := rfl
@[simp] theorem State.raiseAs_poison (s : State) (r k : Nat) (d : List Word) : (s.raiseAs r k d).poison = s.poison := rfl
@[simp] theorem State.raiseAs_dramBad (s : State) (r k : Nat) (d : List Word) : (s.raiseAs r k d).dramBad = s.dramBad := rfl
@[simp] theorem State.raiseAs_dramSoft (s : State) (r k : Nat) (d : List Word) : (s.raiseAs r k d).dramSoft = s.dramSoft := rfl
@[simp] theorem State.raiseAs_reqs (s : State) (r k : Nat) (d : List Word) : (s.raiseAs r k d).reqs = s.reqs := rfl
@[simp] theorem State.raiseAs_linkErrs (s : State) (r k : Nat) (d : List Word) : (s.raiseAs r k d).linkErrs = s.linkErrs := rfl
@[simp] theorem State.raiseAs_sent (s : State) (r k : Nat) (d : List Word) : (s.raiseAs r k d).sent = s.sent := rfl
@[simp] theorem State.raiseAs_subCount (s : State) (r k : Nat) (d : List Word) : (s.raiseAs r k d).subCount = s.subCount := rfl
@[simp] theorem State.raiseAs_out (s : State) (r k : Nat) (d : List Word) : (s.raiseAs r k d).out = s.out := rfl
@[simp] theorem State.raiseAs_errs (s : State) (r k : Nat) (d : List Word) : (s.raiseAs r k d).errs = s.errs := rfl
@[simp] theorem State.raiseAs_lasting (s : State) (r k : Nat) (d : List Word) : (s.raiseAs r k d).lasting = s.lasting := rfl
@[simp] theorem State.raiseAs_duty (s : State) (r k : Nat) (d : List Word) : (s.raiseAs r k d).duty = s.duty := rfl
@[simp] theorem State.raiseAs_heldWork (s : State) (r k : Nat) (d : List Word) : (s.raiseAs r k d).heldWork = s.heldWork := rfl
@[simp] theorem State.raiseAs_testAt (s : State) (r k : Nat) (d : List Word) : (s.raiseAs r k d).testAt = s.testAt := rfl
@[simp] theorem State.raiseAs_mlog (s : State) (r k : Nat) (d : List Word) : (s.raiseAs r k d).mlog = s.mlog := rfl
@[simp] theorem State.raiseAs_flash (s : State) (r k : Nat) (d : List Word) : (s.raiseAs r k d).flash = s.flash := rfl

/-! ### signOfLife -/

@[simp] theorem State.signOfLife_gtc (s : State) : (s.signOfLife).gtc = s.gtc := rfl
@[simp] theorem State.signOfLife_on (s : State) : (s.signOfLife).on = s.on := rfl
@[simp] theorem State.signOfLife_cur (s : State) : (s.signOfLife).cur = s.cur := rfl
@[simp] theorem State.signOfLife_me (s : State) : (s.signOfLife).me = s.me := rfl
@[simp] theorem State.signOfLife_t (s : State) : (s.signOfLife).t = s.t := rfl
@[simp] theorem State.signOfLife_free (s : State) : (s.signOfLife).free = s.free := rfl
@[simp] theorem State.signOfLife_due (s : State) : (s.signOfLife).due = s.due := rfl
@[simp] theorem State.signOfLife_cores (s : State) : (s.signOfLife).cores = s.cores := rfl
@[simp] theorem State.signOfLife_dies (s : State) : (s.signOfLife).dies = s.dies := rfl
@[simp] theorem State.signOfLife_hbm (s : State) : (s.signOfLife).hbm = s.hbm := rfl
@[simp] theorem State.signOfLife_dram (s : State) : (s.signOfLife).dram = s.dram := rfl
@[simp] theorem State.signOfLife_launches (s : State) : (s.signOfLife).launches = s.launches := rfl
@[simp] theorem State.signOfLife_svcs (s : State) : (s.signOfLife).svcs = s.svcs := rfl
@[simp] theorem State.signOfLife_session (s : State) : (s.signOfLife).session = s.session := rfl
@[simp] theorem State.signOfLife_ports (s : State) : (s.signOfLife).ports = s.ports := rfl
@[simp] theorem State.signOfLife_tenants (s : State) : (s.signOfLife).tenants = s.tenants := rfl
@[simp] theorem State.signOfLife_fns (s : State) : (s.signOfLife).fns = s.fns := rfl
@[simp] theorem State.signOfLife_pigAccess (s : State) : (s.signOfLife).pigAccess = s.pigAccess := rfl
@[simp] theorem State.signOfLife_unitCount (s : State) : (s.signOfLife).unitCount = s.unitCount := rfl
@[simp] theorem State.signOfLife_hostQueue (s : State) : (s.signOfLife).hostQueue = s.hostQueue := rfl
@[simp] theorem State.signOfLife_served (s : State) : (s.signOfLife).served = s.served := rfl
@[simp] theorem State.signOfLife_applied (s : State) : (s.signOfLife).applied = s.applied := rfl
@[simp] theorem State.signOfLife_testing (s : State) : (s.signOfLife).testing = s.testing := rfl
@[simp] theorem State.signOfLife_stuck (s : State) : (s.signOfLife).stuck = s.stuck := rfl
@[simp] theorem State.signOfLife_recovery (s : State) : (s.signOfLife).recovery = s.recovery := rfl
@[simp] theorem State.signOfLife_ready (s : State) : (s.signOfLife).ready = s.ready := rfl
@[simp] theorem State.signOfLife_bankUses (s : State) : (s.signOfLife).bankUses = s.bankUses := rfl
@[simp] theorem State.signOfLife_pigWrites (s : State) : (s.signOfLife).pigWrites = s.pigWrites := rfl
@[simp] theorem State.signOfLife_moves (s : State) : (s.signOfLife).moves = s.moves := rfl
@[simp] theorem State.signOfLife_poison (s : State) : (s.signOfLife).poison = s.poison := rfl
@[simp] theorem State.signOfLife_dramBad (s : State) : (s.signOfLife).dramBad = s.dramBad := rfl
@[simp] theorem State.signOfLife_dramSoft (s : State) : (s.signOfLife).dramSoft = s.dramSoft := rfl
@[simp] theorem State.signOfLife_reqs (s : State) : (s.signOfLife).reqs = s.reqs := rfl
@[simp] theorem State.signOfLife_linkErrs (s : State) : (s.signOfLife).linkErrs = s.linkErrs := rfl
@[simp] theorem State.signOfLife_sent (s : State) : (s.signOfLife).sent = s.sent := rfl
@[simp] theorem State.signOfLife_subCount (s : State) : (s.signOfLife).subCount = s.subCount := rfl
@[simp] theorem State.signOfLife_out (s : State) : (s.signOfLife).out = s.out := rfl
@[simp] theorem State.signOfLife_errs (s : State) : (s.signOfLife).errs = s.errs := rfl
@[simp] theorem State.signOfLife_lasting (s : State) : (s.signOfLife).lasting = s.lasting := rfl
@[simp] theorem State.signOfLife_duty (s : State) : (s.signOfLife).duty = s.duty := rfl
@[simp] theorem State.signOfLife_heldWork (s : State) : (s.signOfLife).heldWork = s.heldWork := rfl
@[simp] theorem State.signOfLife_testAt (s : State) : (s.signOfLife).testAt = s.testAt := rfl
@[simp] theorem State.signOfLife_mlog (s : State) : (s.signOfLife).mlog = s.mlog := rfl
@[simp] theorem State.signOfLife_flash (s : State) : (s.signOfLife).flash = s.flash := rfl

/-! ### modSvc -/

@[simp] theorem State.modSvc_gtc (s : State) (v : Service) (f : Svc → Svc) : (s.modSvc v f).gtc = s.gtc := rfl
@[simp] theorem State.modSvc_on (s : State) (v : Service) (f : Svc → Svc) : (s.modSvc v f).on = s.on := rfl
@[simp] theorem State.modSvc_cur (s : State) (v : Service) (f : Svc → Svc) : (s.modSvc v f).cur = s.cur := rfl
@[simp] theorem State.modSvc_me (s : State) (v : Service) (f : Svc → Svc) : (s.modSvc v f).me = s.me := rfl
@[simp] theorem State.modSvc_t (s : State) (v : Service) (f : Svc → Svc) : (s.modSvc v f).t = s.t := rfl
@[simp] theorem State.modSvc_free (s : State) (v : Service) (f : Svc → Svc) : (s.modSvc v f).free = s.free := rfl
@[simp] theorem State.modSvc_due (s : State) (v : Service) (f : Svc → Svc) : (s.modSvc v f).due = s.due := rfl
@[simp] theorem State.modSvc_cores (s : State) (v : Service) (f : Svc → Svc) : (s.modSvc v f).cores = s.cores := rfl
@[simp] theorem State.modSvc_dies (s : State) (v : Service) (f : Svc → Svc) : (s.modSvc v f).dies = s.dies := rfl
@[simp] theorem State.modSvc_hbm (s : State) (v : Service) (f : Svc → Svc) : (s.modSvc v f).hbm = s.hbm := rfl
@[simp] theorem State.modSvc_dram (s : State) (v : Service) (f : Svc → Svc) : (s.modSvc v f).dram = s.dram := rfl
@[simp] theorem State.modSvc_parts (s : State) (v : Service) (f : Svc → Svc) : (s.modSvc v f).parts = s.parts := rfl
@[simp] theorem State.modSvc_launches (s : State) (v : Service) (f : Svc → Svc) : (s.modSvc v f).launches = s.launches := rfl
@[simp] theorem State.modSvc_session (s : State) (v : Service) (f : Svc → Svc) : (s.modSvc v f).session = s.session := rfl
@[simp] theorem State.modSvc_ports (s : State) (v : Service) (f : Svc → Svc) : (s.modSvc v f).ports = s.ports := rfl
@[simp] theorem State.modSvc_tenants (s : State) (v : Service) (f : Svc → Svc) : (s.modSvc v f).tenants = s.tenants := rfl
@[simp] theorem State.modSvc_fns (s : State) (v : Service) (f : Svc → Svc) : (s.modSvc v f).fns = s.fns := rfl
@[simp] theorem State.modSvc_pigAccess (s : State) (v : Service) (f : Svc → Svc) : (s.modSvc v f).pigAccess = s.pigAccess := rfl
@[simp] theorem State.modSvc_unitCount (s : State) (v : Service) (f : Svc → Svc) : (s.modSvc v f).unitCount = s.unitCount := rfl
@[simp] theorem State.modSvc_hostQueue (s : State) (v : Service) (f : Svc → Svc) : (s.modSvc v f).hostQueue = s.hostQueue := rfl
@[simp] theorem State.modSvc_served (s : State) (v : Service) (f : Svc → Svc) : (s.modSvc v f).served = s.served := rfl
@[simp] theorem State.modSvc_applied (s : State) (v : Service) (f : Svc → Svc) : (s.modSvc v f).applied = s.applied := rfl
@[simp] theorem State.modSvc_testing (s : State) (v : Service) (f : Svc → Svc) : (s.modSvc v f).testing = s.testing := rfl
@[simp] theorem State.modSvc_stuck (s : State) (v : Service) (f : Svc → Svc) : (s.modSvc v f).stuck = s.stuck := rfl
@[simp] theorem State.modSvc_recovery (s : State) (v : Service) (f : Svc → Svc) : (s.modSvc v f).recovery = s.recovery := rfl
@[simp] theorem State.modSvc_ready (s : State) (v : Service) (f : Svc → Svc) : (s.modSvc v f).ready = s.ready := rfl
@[simp] theorem State.modSvc_bankUses (s : State) (v : Service) (f : Svc → Svc) : (s.modSvc v f).bankUses = s.bankUses := rfl
@[simp] theorem State.modSvc_pigWrites (s : State) (v : Service) (f : Svc → Svc) : (s.modSvc v f).pigWrites = s.pigWrites := rfl
@[simp] theorem State.modSvc_moves (s : State) (v : Service) (f : Svc → Svc) : (s.modSvc v f).moves = s.moves := rfl
@[simp] theorem State.modSvc_poison (s : State) (v : Service) (f : Svc → Svc) : (s.modSvc v f).poison = s.poison := rfl
@[simp] theorem State.modSvc_dramBad (s : State) (v : Service) (f : Svc → Svc) : (s.modSvc v f).dramBad = s.dramBad := rfl
@[simp] theorem State.modSvc_dramSoft (s : State) (v : Service) (f : Svc → Svc) : (s.modSvc v f).dramSoft = s.dramSoft := rfl
@[simp] theorem State.modSvc_reqs (s : State) (v : Service) (f : Svc → Svc) : (s.modSvc v f).reqs = s.reqs := rfl
@[simp] theorem State.modSvc_linkErrs (s : State) (v : Service) (f : Svc → Svc) : (s.modSvc v f).linkErrs = s.linkErrs := rfl
@[simp] theorem State.modSvc_sent (s : State) (v : Service) (f : Svc → Svc) : (s.modSvc v f).sent = s.sent := rfl
@[simp] theorem State.modSvc_subCount (s : State) (v : Service) (f : Svc → Svc) : (s.modSvc v f).subCount = s.subCount := rfl
@[simp] theorem State.modSvc_out (s : State) (v : Service) (f : Svc → Svc) : (s.modSvc v f).out = s.out := rfl
@[simp] theorem State.modSvc_errs (s : State) (v : Service) (f : Svc → Svc) : (s.modSvc v f).errs = s.errs := rfl
@[simp] theorem State.modSvc_lasting (s : State) (v : Service) (f : Svc → Svc) : (s.modSvc v f).lasting = s.lasting := rfl
@[simp] theorem State.modSvc_duty (s : State) (v : Service) (f : Svc → Svc) : (s.modSvc v f).duty = s.duty := rfl
@[simp] theorem State.modSvc_heldWork (s : State) (v : Service) (f : Svc → Svc) : (s.modSvc v f).heldWork = s.heldWork := rfl
@[simp] theorem State.modSvc_testAt (s : State) (v : Service) (f : Svc → Svc) : (s.modSvc v f).testAt = s.testAt := rfl
@[simp] theorem State.modSvc_mlog (s : State) (v : Service) (f : Svc → Svc) : (s.modSvc v f).mlog = s.mlog := rfl
@[simp] theorem State.modSvc_flash (s : State) (v : Service) (f : Svc → Svc) : (s.modSvc v f).flash = s.flash := rfl

/-! ### present -/

@[simp] theorem State.present_gtc (s : State) (a : OpenAccess) : (s.present a).gtc = s.gtc := rfl
@[simp] theorem State.present_on (s : State) (a : OpenAccess) : (s.present a).on = s.on := rfl
@[simp] theorem State.present_cur (s : State) (a : OpenAccess) : (s.present a).cur = s.cur := rfl
@[simp] theorem State.present_me (s : State) (a : OpenAccess) : (s.present a).me = s.me := rfl
@[simp] theorem State.present_t (s : State) (a : OpenAccess) : (s.present a).t = s.t := rfl
@[simp] theorem State.present_free (s : State) (a : OpenAccess) : (s.present a).free = s.free := rfl
@[simp] theorem State.present_cores (s : State) (a : OpenAccess) : (s.present a).cores = s.cores := rfl
@[simp] theorem State.present_dies (s : State) (a : OpenAccess) : (s.present a).dies = s.dies := rfl
@[simp] theorem State.present_hbm (s : State) (a : OpenAccess) : (s.present a).hbm = s.hbm := rfl
@[simp] theorem State.present_dram (s : State) (a : OpenAccess) : (s.present a).dram = s.dram := rfl
@[simp] theorem State.present_parts (s : State) (a : OpenAccess) : (s.present a).parts = s.parts := rfl
@[simp] theorem State.present_launches (s : State) (a : OpenAccess) : (s.present a).launches = s.launches := rfl
@[simp] theorem State.present_svcs (s : State) (a : OpenAccess) : (s.present a).svcs = s.svcs := rfl
@[simp] theorem State.present_session (s : State) (a : OpenAccess) : (s.present a).session = s.session := rfl
@[simp] theorem State.present_ports (s : State) (a : OpenAccess) : (s.present a).ports = s.ports := rfl
@[simp] theorem State.present_tenants (s : State) (a : OpenAccess) : (s.present a).tenants = s.tenants := rfl
@[simp] theorem State.present_fns (s : State) (a : OpenAccess) : (s.present a).fns = s.fns := rfl
@[simp] theorem State.present_pigAccess (s : State) (a : OpenAccess) : (s.present a).pigAccess = s.pigAccess := rfl
@[simp] theorem State.present_hostQueue (s : State) (a : OpenAccess) : (s.present a).hostQueue = s.hostQueue := rfl
@[simp] theorem State.present_served (s : State) (a : OpenAccess) : (s.present a).served = s.served := rfl
@[simp] theorem State.present_applied (s : State) (a : OpenAccess) : (s.present a).applied = s.applied := rfl
@[simp] theorem State.present_testing (s : State) (a : OpenAccess) : (s.present a).testing = s.testing := rfl
@[simp] theorem State.present_stuck (s : State) (a : OpenAccess) : (s.present a).stuck = s.stuck := rfl
@[simp] theorem State.present_recovery (s : State) (a : OpenAccess) : (s.present a).recovery = s.recovery := rfl
@[simp] theorem State.present_ready (s : State) (a : OpenAccess) : (s.present a).ready = s.ready := rfl
@[simp] theorem State.present_bankUses (s : State) (a : OpenAccess) : (s.present a).bankUses = s.bankUses := rfl
@[simp] theorem State.present_pigWrites (s : State) (a : OpenAccess) : (s.present a).pigWrites = s.pigWrites := rfl
@[simp] theorem State.present_moves (s : State) (a : OpenAccess) : (s.present a).moves = s.moves := rfl
@[simp] theorem State.present_poison (s : State) (a : OpenAccess) : (s.present a).poison = s.poison := rfl
@[simp] theorem State.present_dramBad (s : State) (a : OpenAccess) : (s.present a).dramBad = s.dramBad := rfl
@[simp] theorem State.present_dramSoft (s : State) (a : OpenAccess) : (s.present a).dramSoft = s.dramSoft := rfl
@[simp] theorem State.present_reqs (s : State) (a : OpenAccess) : (s.present a).reqs = s.reqs := rfl
@[simp] theorem State.present_linkErrs (s : State) (a : OpenAccess) : (s.present a).linkErrs = s.linkErrs := rfl
@[simp] theorem State.present_sent (s : State) (a : OpenAccess) : (s.present a).sent = s.sent := rfl
@[simp] theorem State.present_subCount (s : State) (a : OpenAccess) : (s.present a).subCount = s.subCount := rfl
@[simp] theorem State.present_out (s : State) (a : OpenAccess) : (s.present a).out = s.out := rfl
@[simp] theorem State.present_errs (s : State) (a : OpenAccess) : (s.present a).errs = s.errs := rfl
@[simp] theorem State.present_lasting (s : State) (a : OpenAccess) : (s.present a).lasting = s.lasting := rfl
@[simp] theorem State.present_duty (s : State) (a : OpenAccess) : (s.present a).duty = s.duty := rfl
@[simp] theorem State.present_heldWork (s : State) (a : OpenAccess) : (s.present a).heldWork = s.heldWork := rfl
@[simp] theorem State.present_testAt (s : State) (a : OpenAccess) : (s.present a).testAt = s.testAt := rfl
@[simp] theorem State.present_mlog (s : State) (a : OpenAccess) : (s.present a).mlog = s.mlog := rfl
@[simp] theorem State.present_flash (s : State) (a : OpenAccess) : (s.present a).flash = s.flash := rfl

end Sys2Proof.Machine
end

