-- ==== Sys2Proof/Laws/Ops.lean ====
section
/-! SUPPORT. What the shared operations do, said once: reading a core, a context or a partition after a change of one, what
a write or a step leaves pending, guards, and an instruction that meets no fault at its issue. -/
namespace Sys2Proof.Machine

/-! ### Cores -/

/-- The core that a change names. -/
theorem State.core_modCore_self {s : State} {c : Nat} (h : c < 384) (f : Core → Core) :
    (s.modCore c f).core c = f (s.core c) := by
  simp [State.core, State.modCore, State.setCore, h]

/-- Every other core. -/
theorem State.core_modCore_ne {s : State} {c k : Nat} (h : k ≠ c) (f : Core → Core) :
    (s.modCore c f).core k = s.core k := by
  simp [State.core, State.modCore, State.setCore, Ne.symm h]

theorem State.ctx_modCtx_self {s : State} {c : Nat} (h : c < 384) (f : Ctx → Ctx) :
    (s.modCtx c f).ctx c = f (s.ctx c) := by
  simp only [State.ctx, State.modCtx, State.core_modCore_self h]

theorem State.ctx_modCtx_ne {s : State} {c k : Nat} (h : k ≠ c) (f : Ctx → Ctx) :
    (s.modCtx c f).ctx k = s.ctx k := by
  simp only [State.ctx, State.modCtx, State.core_modCore_ne h]

/-- No physical core has a number of 384 or more. -/
theorem State.core_absent {s : State} {c : Nat} (h : 384 ≤ c) : s.core c = Core.reset := by
  simp [State.core, Vector.getElem?_eq_none h]

theorem State.modCore_absent {s : State} {c : Nat} (h : 384 ≤ c) (f : Core → Core) : s.modCore c f = s := by
  have : s.cores.setIfInBounds c (f (s.core c)) = s.cores := by
    ext i hi; simp [show c ≠ i by omega]
  simp only [State.modCore, State.setCore, this]

/-- Two changes of one core are one. -/
theorem State.modCore_modCore (s : State) (c : Nat) (f g : Core → Core) :
    (s.modCore c f).modCore c g = s.modCore c fun k => g (f k) := by
  by_cases h : c < 384
  · have e : (s.modCore c f).core c = f (s.core c) := State.core_modCore_self h f
    show { s.modCore c f with cores := (s.modCore c f).cores.setIfInBounds c (g ((s.modCore c f).core c)) } = _
    rw [e]
    simp [State.modCore, State.setCore]
  · simp only [State.modCore_absent (Nat.le_of_not_lt h)]

theorem State.modCtx_modCtx (s : State) (c : Nat) (f g : Ctx → Ctx) :
    (s.modCtx c f).modCtx c g = s.modCtx c fun x => g (f x) := State.modCore_modCore ..

theorem State.modSeq_modSeq (s : State) (f g : Seq → Seq) :
    (s.modSeq f).modSeq g = s.modSeq fun q => g (f q) := State.modCtx_modCtx ..

/-- A change of a context that keeps a field keeps it on every core. -/
theorem State.ctx_modCtx_field {α : Type} {s : State} {c : Nat} {f : Ctx → Ctx} (p : Ctx → α) (h : ∀ x, p (f x) = p x)
    (k : Nat) : p ((s.modCtx c f).ctx k) = p (s.ctx k) := by
  by_cases e : k = c
  · subst e
    by_cases hk : k < 384
    · rw [State.ctx_modCtx_self hk, h]
    · simp only [State.modCtx, State.modCore_absent (Nat.le_of_not_lt hk)]
  · rw [State.ctx_modCtx_ne e]

/-! ### Partitions -/

/-- The partition of a number after a change of one that keeps numbers. -/
theorem State.part_modPart {s : State} {p k : Nat} {f : Part → Part} (hf : ∀ q, (f q).num = q.num) :
    (s.modPart p f).part k = (s.part k).map fun q => if q.num == p then f q else q := by
  have e : ∀ l : List Part, (l.map fun q => if q.num == p then f q else q).find? (fun q => q.num == k)
      = (l.find? fun q => q.num == k).map fun q => if q.num == p then f q else q := by
    intro l
    induction l with
    | nil => rfl
    | cons q l ih =>
      have : (if q.num == p then f q else q).num = q.num := by split <;> simp [hf]
      simp only [List.map_cons, List.find?_cons, this]
      cases q.num == k
      · exact ih
      · rfl
  exact e s.parts

theorem State.part_num {s : State} {p : Nat} {q : Part} (h : s.part p = some q) : q.num = p := by
  have := List.find?_some h
  simpa using this

/-! ### Guards and what is left pending -/

/-- The guard of R11, as the model computes it. -/
theorem State.takes_iff (s : State) (g : Nat) (neg : Bool) : s.Takes g neg ↔ s.myCtx.guard g neg = true := by
  unfold State.Takes Ctx.guard Ctx.rg
  by_cases h : g = 0 <;> cases neg <;> simp [h]

/-- A register write of the present instruction is all that `write` adds. -/
theorem State.writes_write (s : State) (lat : Nat) (w : RegWrite) : s.Writes (s.write lat w) [(lat, w)] :=
  ⟨[[10, s.t, s.cur.who.src]], rfl, rfl⟩

theorem State.writes_two (s : State) (l₁ l₂ : Nat) (w₁ w₂ : RegWrite) :
    s.Writes ((s.write l₁ w₁).write l₂ w₂) [(l₁, w₁), (l₂, w₂)] :=
  ⟨[[10, s.t, s.cur.who.src], [10, s.t, s.cur.who.src]], rfl, by
    simp only [State.write, State.sched, List.append_assoc]; rfl⟩

/-- A step of the present instruction is all that `sched` adds. -/
theorem State.defers_sched (s : State) (due : Nat) (key : List Nat) (w : Work) :
    s.Defers (s.sched due key w) [(due, w)] := ⟨[key], rfl, rfl⟩

/-- An instruction without a condition at its issue has its effect. -/
theorem State.issue_clear {s : State} {i : Instr} (h : s.Clear i) (effect : State → State) :
    s.issue i effect = effect s := by
  unfold State.Clear at h
  simp [State.issue, h, lowest, sortBy]

/-- The same of an instruction whose meaning is guarded by `issue`. -/
theorem State.answers_issue {s : State} {i : Instr} {effect : State → State} {P : State → Prop}
    (he : exec i s = .next (s.issue i effect)) (h : s.Clear i) (hP : P (effect s)) : s.Answers i P :=
  ⟨_, by rw [he, State.issue_clear h], hP⟩

/-- A step of the present instruction commutes with a change of a context that keeps its partition. -/
theorem State.modCtx_sched {s : State} {c due : Nat} {key : List Nat} {w : Work} {f : Ctx → Ctx}
    (hf : ∀ x, (f x).pid = x.pid) : (s.modCtx c f).sched due key w = (s.sched due key w).modCtx c f := by
  have e : (s.modCtx c f).partOf s.me = s.partOf s.me :=
    State.ctx_modCtx_field (p := Ctx.part) (fun x => by simp [Ctx.part, hf]) _
  unfold State.sched
  rw [show (s.modCtx c f).me = s.me from rfl, e]
  rfl

/-! ### Results of the arithmetic shapes -/

/-- A three-register instruction whose meaning is `alu`. -/
theorem State.alu_result {s : State} {i : Instr} {f : SR} {lat : Nat} {op : Word → Word → Word}
    {P : Word → Word → Word → Prop} (he : exec i s = .next (s.alu f lat op))
    (hP : P (s.myCtx.rs f.sa) (s.myCtx.rs f.sb) (op (s.myCtx.rs f.sa) (s.myCtx.rs f.sb))) : s.ScalarResult i f lat P := by
  refine ⟨_, he, fun h => ⟨_, hP, ?_⟩, fun h => ?_⟩
  · rw [State.takes_iff] at h
    simpa [State.alu, h] using s.writes_write lat _
  · rw [State.takes_iff] at h
    simp [State.alu, h]

/-- An immediate instruction whose meaning is `aluImm`. -/
theorem State.imm_result {s : State} {i : Instr} {f : SI} {op : Word → Word} {P : Word → Prop}
    (he : exec i s = .next (s.aluImm f op)) (hP : P (op (s.myCtx.rs f.sa))) : s.ImmediateResult i f.sd P :=
  ⟨_, he, _, hP, s.writes_write 1 _⟩

/-- A flag is set by the lanes together exactly when some lane sets it. -/
theorem laneFlags_bit (rs : Vector (Word × Flags) 256) (b : Nat) :
    (laneFlags rs).getLsbD b = true ↔ ∃ k, ∃ h : k < 256, (rs[k]).2.getLsbD b = true := by
  have e : ∀ (l : List (Word × Flags)) (fl : Flags),
      (l.foldl (fun fl r => fl ||| r.2) fl).getLsbD b = true ↔ fl.getLsbD b = true ∨ ∃ r ∈ l, r.2.getLsbD b = true := by
    intro l
    induction l with
    | nil => simp
    | cons x l ih => intro fl; simp [ih, or_assoc]
  unfold laneFlags
  rw [e]
  constructor
  · rintro (h | ⟨r, hr, hb⟩)
    · simp at h
    · obtain ⟨k, hk, rfl⟩ := List.getElem_of_mem hr
      exact ⟨k, by simpa using hk, by simpa using hb⟩
  · rintro ⟨k, hk, hb⟩
    exact .inr ⟨rs[k], by simp [Vector.mem_toList_iff], hb⟩

/-- What `vArith` answers: the selected lanes and the flags that they raise. -/
theorem State.arith_result {s : State} {i : Instr} {vd mask lat : Nat} {op : Nat → Word × Flags}
    (he : exec i s = .next (s.vArith vd mask lat op)) : s.FlaggedResult i vd mask lat op := by
  refine ⟨_, he, _, _, ?_, ?_, s.writes_two ..⟩
  · intro k hk hm
    simp [lane, hk, hm]
  · intro b hb
    rw [laneFlags_bit]
    constructor
    · rintro ⟨k, hk, h⟩
      refine ⟨k, hk, ?_⟩
      by_cases hm : (s.vunit.rm mask).getLsbD k = true <;> simp_all
    · rintro ⟨k, hk, hm, h⟩
      exact ⟨k, hk, by simp [hm, h]⟩

/-- What `vWrite` answers. -/
theorem State.lanes_result {s : State} {i : Instr} {vd mask lat : Nat} {f : Nat → Word} {P : Nat → Word → Prop}
    (he : exec i s = .next (s.vWrite vd mask lat f)) (hP : ∀ k, k < 256 → P k (f k)) :
    s.LaneResult i vd mask lat P := by
  refine ⟨_, he, _, ?_, s.writes_write ..⟩
  intro k hk _
  simpa [lane, hk] using hP k hk

/-- What `vWriteAll` answers. -/
theorem State.full_result {s : State} {i : Instr} {vd lat : Nat} {f : Nat → Word} {P : Nat → Word → Prop}
    (he : exec i s = .next (s.vWriteAll vd lat f)) (hP : ∀ k, k < 256 → P k (f k)) :
    s.FullResult i vd lat P := by
  refine ⟨_, he, _, ?_, s.writes_write ..⟩
  intro k hk
  simpa [lane, hk] using hP k hk

/-! ### Accesses outside the timetable, ports and the journal -/

/-- A presented access stands in the next place of the order, in the present cycle of GTC. -/
theorem State.present_due (s : State) (a : OpenAccess) :
    (s.present a).due = s.due ++
      [{ clock := none, due := s.gtc, key := [90, 3, s.unitCount], who := Meta.none,
         what := .openSlotService { a with seq := s.unitCount } }] := rfl
theorem State.present_unitCount (s : State) (a : OpenAccess) : (s.present a).unitCount = s.unitCount + 1 := rfl

/-- What goes to a port goes as it is where no die link fails, and is fault 0x33 where it is used otherwise. -/
theorem State.toPort_clear {s : State} {port : Nat} (h : s.crossed (dieOfPort port) = none) (use : Nat)
    (send : State → State) : s.toPort port use send = send s := by simp only [State.toPort, h]
theorem State.toPort_crossed {s : State} {port : Nat} {d : List Word} (h : s.crossed (dieOfPort port) = some d) (use : Nat)
    (send : State → State) : s.toPort port use send = s.faultAt use 0x33 d := by simp only [State.toPort, h]

/-- A service that is not in probation journals nothing. -/
theorem State.journal_idle {s : State} {v : Service} (h : (s.svc v).state ≠ .probation) (f : Fact) : s.journal v f = s := by
  unfold State.journal State.journalEntry
  simp [h]

/-- A management command without a session has no effect, unless one that has been taken before comes again. -/
theorem State.manage_closed {s : State} (h : s.session = false) (fresh : s.cur.who ≠ accepted) (f : State → State) :
    s.manage f = s := by
  simp [State.manage, h, fresh]
/-- One that has been taken is made whether or not the session is still open. -/
theorem State.manage_taken {s : State} (h : s.cur.who = accepted) (f : State → State) :
    s.manage f = s.classifyFor accepted f := by
  simp [State.manage, h]
/-- A fact recorded by a service leaves the machine, but for the office and what it schedules, as it was. -/
theorem State.journal_frame (s : State) (v : Service) (f : Fact) :
    (s.journal v f).cores = s.cores ∧ (s.journal v f).parts = s.parts ∧ (s.journal v f).dram = s.dram ∧
      (s.journal v f).dies = s.dies ∧ (s.journal v f).launches = s.launches ∧ (s.journal v f).gtc = s.gtc := by
  simp only [State.journal, State.journalEntry]
  split_ifs <;> exact ⟨rfl, rfl, rfl, rfl, rfl, rfl⟩

/-- Where a step stands within its cycle (R145, R388). -/
@[simp] theorem Timed.place_landing {x : Timed} {port slot : Nat} {l : Landing} (h : x.what = .flitLanding port slot l) :
    x.place = [20, 6, port, slot] := by simp [Timed.place, h]

end Sys2Proof.Machine
end

