-- ==== Sys2Proof/Laws/Memory.lean ====
section
/-! SUPPORT. The canonical sparse memory: a write keeps the canonical form, a read after a write gives the byte written or
the byte of before, and what each shared operation does to the memories of the machine (log entry 4). -/
namespace Sys2Proof.Machine

/-! ### One memory -/

/-- The canonical form, said of the list's head and tail. -/
theorem Mem.wf_cons {a : Nat} {b : Byte} {m : Mem} :
    Mem.wf ((a, b) :: m) = true ↔ b ≠ 0 ∧ (∀ x ∈ m, a < x.1) ∧ m.wf = true := by
  induction m generalizing a b with
  | nil => simp [Mem.wf]
  | cons y m ih =>
    obtain ⟨a', b'⟩ := y
    simp only [Mem.wf, Bool.and_eq_true, bne_iff_ne, ne_eq, decide_eq_true_eq, ih, List.forall_mem_cons]
    constructor
    · rintro ⟨⟨hb, ha⟩, h⟩
      exact ⟨hb, ⟨ha, fun x hx => Nat.lt_trans ha (h.2.1 x hx)⟩, h⟩
    · rintro ⟨hb, ⟨ha, _⟩, h⟩
      exact ⟨⟨hb, ha⟩, h⟩

/-- The addresses of a memory after a write are those of before, and the one written. -/
theorem Mem.mem_write {m : Mem} {x : Nat} {v : Byte} {y : Nat × Byte} (h : y ∈ m.write x v) : y ∈ m ∨ y.1 = x := by
  induction m with
  | nil =>
    simp only [Mem.write] at h
    split at h <;> simp_all
  | cons c m ih =>
    obtain ⟨a, b⟩ := c
    simp only [Mem.write] at h
    split at h
    · split at h
      · exact .inl h
      · rcases List.mem_cons.mp h with rfl | h
        · exact .inr rfl
        · exact .inl h
    · split at h
      · rename_i hx
        split at h
        · exact .inl (List.mem_cons_of_mem _ h)
        · rcases List.mem_cons.mp h with rfl | h
          · exact .inr rfl
          · exact .inl (List.mem_cons_of_mem _ h)
      · rcases List.mem_cons.mp h with h | h
        · simp [h]
        · rcases ih h with h | h <;> simp [h]

/-- A write keeps the canonical form. -/
theorem Mem.write_wf {m : Mem} (h : m.wf = true) (x : Nat) (v : Byte) : (m.write x v).wf = true := by
  induction m with
  | nil =>
    simp only [Mem.write]
    split <;> simp_all [Mem.wf]
  | cons c m ih =>
    obtain ⟨a, b⟩ := c
    have hc := Mem.wf_cons.mp h
    simp only [Mem.write]
    split
    · split
      · exact h
      · rename_i hx hv
        refine Mem.wf_cons.mpr ⟨hv, ?_, h⟩
        intro y hy
        rcases List.mem_cons.mp hy with rfl | hy
        · exact hx
        · exact Nat.lt_trans hx (hc.2.1 y hy)
    · split
      · split
        · exact hc.2.2
        · rename_i hv
          rename_i hx
          subst hx
          exact Mem.wf_cons.mpr ⟨hv, hc.2.1, hc.2.2⟩
      · rename_i hx hne
        refine Mem.wf_cons.mpr ⟨hc.1, ?_, ih hc.2.2⟩
        intro y hy
        rcases Mem.mem_write hy with hy | hy
        · exact hc.2.1 y hy
        · omega

/-- An address below every listed one reads 0. -/
theorem Mem.read_below {m : Mem} {x : Nat} (h : ∀ y ∈ m, x < y.1) : m.read x = 0 := by
  induction m with
  | nil => rfl
  | cons c m ih =>
    obtain ⟨a, b⟩ := c
    have := h (a, b) (by simp)
    simp only [Mem.read]
    rw [if_neg (by simp only at this; omega), ih fun y hy => h y (by simp [hy])]

/-- A read after a write. -/
theorem Mem.read_write {m : Mem} (h : m.wf = true) (x y : Nat) (v : Byte) :
    (m.write x v).read y = if y = x then v else m.read y := by
  induction m with
  | nil =>
    by_cases hv : v = 0 <;> by_cases hy : y = x
    · simp [Mem.write, Mem.read, hv]
    · simp [Mem.write, Mem.read, hv]
    · rw [Mem.write, if_neg hv]; simp [Mem.read, hy]
    · rw [Mem.write, if_neg hv]; simp [Mem.read, hy, Ne.symm hy]
  | cons c m ih =>
    obtain ⟨a, b⟩ := c
    have hc := Mem.wf_cons.mp h
    have below : ∀ z, z ≤ a → z ≠ a → Mem.read ((a, b) :: m) z = 0 := fun z hz hn =>
      Mem.read_below fun w hw => by
        rcases List.mem_cons.mp hw with rfl | hw
        · show z < a; omega
        · have := hc.2.1 w hw; omega
    have tail0 : Mem.read m a = 0 := Mem.read_below hc.2.1
    by_cases h1 : x < a
    · by_cases hv : v = 0
      · simp only [Mem.write, h1, hv, if_true]
        by_cases hy : y = x
        · subst hy; simp [below y (by omega) (by omega)]
        · simp [hy]
      · simp only [Mem.write, h1, hv, if_true, if_false]
        by_cases hy : y = x
        · subst hy; simp [Mem.read]
        · simp [Mem.read, hy, Ne.symm hy]
    · by_cases h2 : x = a
      · subst h2
        by_cases hv : v = 0
        · simp only [Mem.write, lt_irrefl, hv, if_true, if_false]
          by_cases hy : y = x
          · subst hy; simp [tail0]
          · simp [Mem.read, hy, Ne.symm hy]
        · simp only [Mem.write, lt_irrefl, hv, if_true, if_false]
          by_cases hy : y = x
          · subst hy; simp [Mem.read]
          · simp [Mem.read, hy, Ne.symm hy]
      · simp only [Mem.write, h1, h2, if_false, Mem.read, ih hc.2.2]
        by_cases hy : y = x
        · subst hy; simp [Ne.symm h2]
        · simp [hy]

/-- Writing bytes keeps the canonical form. -/
theorem Mem.writeBytes_wf {m : Mem} (h : m.wf = true) (a : Nat) (bs : List Byte) : (m.writeBytes a bs).wf = true := by
  induction bs generalizing m a with
  | nil => exact h
  | cons b bs ih => exact ih (Mem.write_wf h a b) (a + 1)

/-- A read after writing bytes: the bytes written stand where they were written, and every other byte is as it was. -/
theorem Mem.read_writeBytes {m : Mem} (h : m.wf = true) (a : Nat) (bs : List Byte) (y : Nat) :
    (m.writeBytes a bs).read y = if a ≤ y ∧ y < a + bs.length then bs.getD (y - a) 0 else m.read y := by
  induction bs generalizing m a with
  | nil =>
    simp only [Mem.writeBytes, List.length_nil]
    rw [if_neg (by omega)]
  | cons b bs ih =>
    simp only [Mem.writeBytes, ih (Mem.write_wf h a b), Mem.read_write h, List.length_cons]
    by_cases hy : y = a
    · subst hy; simp
    · by_cases h1 : a + 1 ≤ y ∧ y < a + 1 + bs.length
      · have : y - a = (y - (a + 1)) + 1 := by omega
        rw [if_pos h1, if_pos (by omega), this, List.getD_cons_succ]
      · rw [if_neg h1, if_neg hy, if_neg (by omega)]

/-- Several writes of bytes, one after another. -/
theorem Mem.foldl_writeBytes_wf {m : Mem} (h : m.wf = true) (ps : List (Nat × List Byte)) :
    (ps.foldl (fun m p => m.writeBytes p.1 p.2) m).wf = true := by
  induction ps generalizing m with
  | nil => exact h
  | cons p ps ih => exact ih (Mem.writeBytes_wf h p.1 p.2)

theorem Mem.length_readBytes (m : Mem) (a n : Nat) : (m.readBytes a n).length = n := by
  induction n generalizing a with
  | zero => rfl
  | succ n ih => simp [Mem.readBytes, ih]

theorem Mem.getD_readBytes (m : Mem) (a n k : Nat) (h : k < n) : (m.readBytes a n).getD k 0 = m.read (a + k) := by
  induction n generalizing a k with
  | zero => omega
  | succ n ih =>
    cases k with
    | zero => simp [Mem.readBytes]
    | succ k =>
      rw [Mem.readBytes, List.getD_cons_succ, ih (a + 1) k (by omega)]
      congr 1; omega

/-! ### The memories of the machine -/

/-- A state with the memories of another is canonical when it is. -/
theorem State.MemInv.congr {s t : State} (h : s.MemInv) (hc : t.cores = s.cores) (hd : t.dies = s.dies)
    (hm : t.dram = s.dram) (hp : t.parts = s.parts) : t.MemInv := by
  simpa only [State.MemInv, hc, hd, hm, hp] using h

theorem State.MemInv.core {s : State} (h : s.MemInv) (c : Nat) : (s.core c).spad.wf = true := by
  by_cases hc : c < 384
  · simpa [State.core, hc] using h.1 ⟨c, hc⟩
  · rw [State.core_absent (Nat.le_of_not_lt hc)]; rfl

/-- Changing one core to one with a canonical scratchpad. -/
theorem State.MemInv.setCore {s : State} (h : s.MemInv) (c : Nat) {k : Core} (hk : k.spad.wf = true) :
    (s.setCore c k).MemInv := by
  refine ⟨fun i => ?_, h.2⟩
  have e : (s.setCore c k).cores = s.cores.setIfInBounds c k := rfl
  simp only [e, Fin.getElem_fin]
  rw [Vector.getElem_setIfInBounds]
  split
  · exact hk
  · exact h.1 i

theorem State.MemInv.modCore {s : State} (h : s.MemInv) (c : Nat) {f : Core → Core}
    (hf : (f (s.core c)).spad.wf = true) : (s.modCore c f).MemInv := h.setCore c hf

/-- A change of a core that leaves its scratchpad. -/
theorem State.MemInv.modCore_keep {s : State} (h : s.MemInv) (c : Nat) {f : Core → Core}
    (hf : ∀ k, (f k).spad = k.spad) : (s.modCore c f).MemInv := h.modCore c (by rw [hf]; exact h.core c)

theorem State.MemInv.modCtx {s : State} (h : s.MemInv) (c : Nat) (f : Ctx → Ctx) : (s.modCtx c f).MemInv :=
  h.modCore_keep c fun _ => rfl

/-- A change of a partition that leaves the cores that it keeps in the office. -/
theorem State.MemInv.modPart {s : State} (h : s.MemInv) (p : Nat) {f : Part → Part}
    (hf : ∀ q, q.memOk → (f q).memOk) : (s.modPart p f).MemInv := by
  refine ⟨h.1, h.2.1, h.2.2.1, fun q hq => ?_⟩
  obtain ⟨x, hx, rfl⟩ := List.mem_map.mp hq
  split
  · exact hf x (h.2.2.2 x hx)
  · exact h.2.2.2 x hx

theorem State.MemInv.modPart_keep {s : State} (h : s.MemInv) (p : Nat) {f : Part → Part}
    (hf : ∀ q, (f q).parked = q.parked) : (s.modPart p f).MemInv :=
  h.modPart p fun q hq ks hk => hq ks (by rw [← hf]; exact hk)

theorem State.MemInv.modDie {s : State} (h : s.MemInv) (d : Nat) {f : Die → Die}
    (hf : ∀ k, k.store.wf = true → (f k).store.wf = true) : (s.modDie d f).MemInv := by
  refine ⟨h.1, fun i => ?_, h.2.2⟩
  have e : (s.modDie d f).dies = s.dies.setIfInBounds d (f (s.die d)) := rfl
  simp only [e, Fin.getElem_fin]
  rw [Vector.getElem_setIfInBounds]
  split
  · rename_i hd
    refine hf _ ?_
    have := h.2.1 i
    simpa [State.die, hd, i.isLt] using this
  · exact h.2.1 i

/-- Leaving a step, writing a register and recording a fault touch no memory. -/
theorem State.MemInv.sched {s : State} (h : s.MemInv) (due : Nat) (key : List Nat) (w : Work) :
    (s.sched due key w).MemInv := h.congr rfl rfl rfl rfl
theorem State.MemInv.schedG {s : State} (h : s.MemInv) (due : Nat) (key : List Nat) (w : Work) :
    (s.schedG due key w).MemInv := h.congr rfl rfl rfl rfl
theorem State.MemInv.write {s : State} (h : s.MemInv) (lat : Nat) (w : RegWrite) : (s.write lat w).MemInv :=
  h.congr rfl rfl rfl rfl
theorem State.MemInv.raiseFor {s : State} (h : s.MemInv) (u : Option ErrUnit) (core code src : Nat) (b : Word)
    (i : Option Nat) (d : List Word) : (s.raiseFor u core code src b i d).MemInv :=
  h.modPart_keep _ fun _ => rfl
theorem State.MemInv.raise {s : State} (h : s.MemInv) (code : Nat) (d : List Word) : (s.raise code d).MemInv :=
  h.raiseFor ..

/-- An instruction guarded by its conditions keeps canonical memories when its effect does. -/
theorem State.MemInv.issue {s : State} (h : s.MemInv) (i : Instr) {f : State → State} (hf : (f s).MemInv) :
    (s.issue i f).MemInv := by
  unfold State.issue
  split
  · exact h.raise ..
  · exact hf

/-- A fold of changes that each keep canonical memories. -/
theorem State.MemInv.foldl {α : Type} {s : State} (h : s.MemInv) (xs : List α) {f : State → α → State}
    (hf : ∀ s x, s.MemInv → (f s x).MemInv) : (xs.foldl f s).MemInv := by
  induction xs generalizing s with
  | nil => exact h
  | cons x xs ih => exact ih (hf s x h)

/-- An answer, an access presented and a change of a launch, a service or a function touch no memory. -/
theorem State.MemInv.reply {s : State} (h : s.MemInv) (r : Reply) : (s.reply r).MemInv := h.congr rfl rfl rfl rfl
theorem State.MemInv.present {s : State} (h : s.MemInv) (a : OpenAccess) : (s.present a).MemInv := h.congr rfl rfl rfl rfl
theorem State.MemInv.presentBytes {s : State} (h : s.MemInv) (use : OpenUse) (tenant key : Nat) (phys : Nat → Nat)
    (bs : List Byte) : (s.presentBytes use tenant key phys bs).MemInv := h.foldl _ fun _ _ hs => hs.present _
theorem State.MemInv.modLaunch {s : State} (h : s.MemInv) (k : Nat) (f : Launch → Launch) : (s.modLaunch k f).MemInv :=
  h.congr rfl rfl rfl rfl
theorem State.MemInv.modSvc {s : State} (h : s.MemInv) (v : Service) (f : Svc → Svc) : (s.modSvc v f).MemInv :=
  h.congr rfl rfl rfl rfl
theorem State.MemInv.modFn {s : State} (h : s.MemInv) (n : Nat) (f : Func → Func) : (s.modFn n f).MemInv :=
  h.congr rfl rfl rfl rfl

/-- Device memory is written unit by unit, which keeps its canonical form. -/
theorem State.MemInv.dram {s t : State} (h : s.MemInv) (hc : t.cores = s.cores) (hd : t.dies = s.dies)
    (hp : t.parts = s.parts) (hm : t.dram.wf = true) : t.MemInv := by
  refine ⟨?_, ?_, hm, ?_⟩
  · simpa only [hc] using h.1
  · simpa only [hd] using h.2.1
  · simpa only [hp] using h.2.2.2

theorem State.MemInv.writeUnit {s : State} (h : s.MemInv) (key : BitVec 512) (unit : Nat) (data : List Byte) :
    (s.writeUnit key unit data).MemInv := by
  have e : (s.writeUnit key unit data).dram =
      s.dram.writeBytes (64 * unit) (xtsUnit true key unit ((data ++ List.replicate 64 0).take 64)) := by
    rw [State.writeUnit]
  refine h.dram ?_ ?_ ?_ (by rw [e]; exact Mem.writeBytes_wf h.2.2.1 ..) <;> rw [State.writeUnit]

/-- What a partition enters in the access tables, and takes out of them, is no memory. -/
theorem State.MemInv.grant {s : State} (h : s.MemInv) (q : Part) : (s.grant q).MemInv := by
  refine ⟨h.1, fun d => ?_, h.2.2⟩
  have := h.2.1 d
  simpa [State.grant, State.grantPorts, State.grantCores] using this
theorem State.MemInv.revoke {s : State} (h : s.MemInv) (p : Nat) : (s.revoke p).MemInv := by
  refine ⟨h.1, fun d => ?_, h.2.2⟩
  have := h.2.1 d
  simpa [State.revoke, State.revokePorts, State.revokeCores] using this

end Sys2Proof.Machine
end

