-- ==== Sys2Proof/Laws/Cipher.lean ====
section
/-! SUPPORT. The laws of the cipher of device memory: decryption undoes encryption, and a unit written reads back under the
same key (11 R238). -/
namespace Sys2Proof.Machine

/-! ### Bytes -/

theorem byte_xor_left_comm (a b c : Byte) : a ^^^ (b ^^^ c) = b ^^^ (a ^^^ c) := by
  rw [← BitVec.xor_assoc, BitVec.xor_comm a b, BitVec.xor_assoc]

theorem byte_xor_cancel (a b : Byte) : a ^^^ b ^^^ b = a := by rw [BitVec.xor_assoc, BitVec.xor_self, BitVec.xor_zero]

theorem byte_xor_cancel_left (a b : Byte) : a ^^^ (a ^^^ b) = b := by
  rw [← BitVec.xor_assoc, BitVec.xor_self, BitVec.zero_xor]

theorem subInv_sub_fin : ∀ a : Fin 256, subInv (sub (BitVec.ofFin a)) = BitVec.ofFin a := by decide +kernel

theorem subInv_sub (a : Byte) : subInv (sub a) = a := subInv_sub_fin a.toFin

theorem gmulBits_xor (n a x y : Nat) : gmulBits n a (x ^^^ y) = gmulBits n a x ^^^ gmulBits n a y := by
  induction n generalizing a x y with
  | zero => simp [gmulBits]
  | succ n ih =>
    simp only [gmulBits, Nat.xor_div_two, Nat.xor_mod_two_eq, ih]
    rcases Nat.mod_two_eq_zero_or_one x with hx | hx <;> rcases Nat.mod_two_eq_zero_or_one y with hy | hy <;>
      simp [Nat.add_mod, hx, hy, Nat.xor_assoc, Nat.xor_left_comm _ a]

theorem gmul_xor (a x y : Byte) : gmul a (x ^^^ y) = gmul a x ^^^ gmul a y := by
  simp only [gmul, BitVec.toNat_xor, gmulBits_xor]
  ext i
  simp

/-- A byte is its halves. -/
theorem byte_halves (x : Byte) : ∃ h l : Fin 16, x = BitVec.ofNat 8 (16 * h.val) ^^^ BitVec.ofNat 8 l.val := by
  revert x
  have : ∀ x : Fin 256, BitVec.ofFin x = BitVec.ofNat 8 (16 * (x.val / 16)) ^^^ BitVec.ofNat 8 (x.val % 16) := by decide +kernel
  exact fun x => ⟨⟨x.toNat / 16, by have := x.isLt; omega⟩, ⟨x.toNat % 16, Nat.mod_lt _ (by decide)⟩, this x.toFin⟩

/-- What the two circulant matrices make of one byte, at distance k in its column. -/
def mixEntry (k : Nat) (x : Byte) : Byte :=
  gmul 14 (gmul ([2, 3, 1, 1].getD k 0) x) ^^^ gmul 11 (gmul ([1, 2, 3, 1].getD k 0) x) ^^^
    gmul 13 (gmul ([1, 1, 2, 3].getD k 0) x) ^^^ gmul 9 (gmul ([3, 1, 1, 2].getD k 0) x)

theorem mixEntry_xor (k : Nat) (x y : Byte) : mixEntry k (x ^^^ y) = mixEntry k x ^^^ mixEntry k y := by
  simp only [mixEntry, gmul_xor]; ac_rfl

theorem mixEntry_halves : ∀ k : Fin 4, ∀ x : Fin 16,
    mixEntry k (BitVec.ofNat 8 (16 * x.val)) = (if k.val = 0 then BitVec.ofNat 8 (16 * x.val) else 0) ∧
    mixEntry k (BitVec.ofNat 8 x.val) = (if k.val = 0 then BitVec.ofNat 8 x.val else 0) := by decide +kernel

/-- The product of the two matrices is the unit matrix. -/
theorem mixEntry_unit (k : Fin 4) (x : Byte) : mixEntry k x = if k.val = 0 then x else 0 := by
  obtain ⟨h, l, rfl⟩ := byte_halves x
  rw [mixEntry_xor, (mixEntry_halves k h).1, (mixEntry_halves k l).2]
  split <;> simp

/-- A byte of a column through both matrices. -/
theorem mix_column (a b c d : Byte) :
    gmul 14 (gmul 2 a ^^^ gmul 3 b ^^^ gmul 1 c ^^^ gmul 1 d) ^^^ gmul 11 (gmul 1 a ^^^ gmul 2 b ^^^ gmul 3 c ^^^ gmul 1 d) ^^^
      gmul 13 (gmul 1 a ^^^ gmul 1 b ^^^ gmul 2 c ^^^ gmul 3 d) ^^^ gmul 9 (gmul 3 a ^^^ gmul 1 b ^^^ gmul 1 c ^^^ gmul 2 d) = a := by
  simp only [gmul_xor]
  calc _ = mixEntry 0 a ^^^ mixEntry 1 b ^^^ mixEntry 2 c ^^^ mixEntry 3 d := by
        simp only [mixEntry, List.getD_cons_zero, List.getD_cons_succ]; ac_rfl
    _ = a := by
      have := mixEntry_unit 0 a; have := mixEntry_unit 1 b; have := mixEntry_unit 2 c; have := mixEntry_unit 3 d
      simp_all

/-! ### Blocks -/

/-- A list of 16 bytes is its bytes. -/
theorem eq_bytes16 {s : List Byte} (h : s.length = 16) : s = (List.range 16).map (at16 s) := by
  apply List.ext_getElem (by simp [h])
  intro i h1 h2
  simp [at16, List.getD_eq_getElem?_getD, h1]

theorem at16_map {f : Nat → Byte} {i : Nat} (h : i < 16) : at16 ((List.range 16).map f) i = f i := by
  simp [at16, List.getD_eq_getElem?_getD, h]

theorem shiftRowsInv_shiftRows {s : List Byte} (h : s.length = 16) : shiftRowsInv (shiftRows s) = s := by
  conv_rhs => rw [eq_bytes16 h]
  rw [shiftRowsInv, shiftRows]
  apply List.map_congr_left
  intro i hi
  have hi' := List.mem_range.1 hi
  rw [at16_map (Nat.mod_lt _ (by decide))]
  congr 1
  omega

theorem length_shiftRows (s : List Byte) : (shiftRows s).length = 16 := by simp [shiftRows]
theorem length_mixColumns (s : List Byte) : (mixColumns s).length = 16 := by simp [mixColumns, mixWith]

theorem length_xorBytes (a b : List Byte) : (xorBytes a b).length = min a.length b.length := by simp [xorBytes]

theorem xorBytes_xorBytes {a b : List Byte} (h : a.length = b.length) : xorBytes (xorBytes a b) b = a := by
  apply List.ext_getElem (by simp [xorBytes, h])
  intro i h1 h2
  simp [xorBytes]

/-- A byte of the product of a block with a circulant matrix. -/
theorem mixWith_at (c s : List Byte) {m r : Nat} (hm : m < 4) (hr : r < 4) :
    at16 (mixWith c s) (4 * m + r) =
      gmul (at16 c ((0 + 4 - r) % 4)) (at16 s (4 * m)) ^^^ gmul (at16 c ((1 + 4 - r) % 4)) (at16 s (4 * m + 1)) ^^^
      gmul (at16 c ((2 + 4 - r) % 4)) (at16 s (4 * m + 2)) ^^^ gmul (at16 c ((3 + 4 - r) % 4)) (at16 s (4 * m + 3)) := by
  have h1 : (4 * m + r) % 4 = r := by omega
  have h2 : (4 * m + r) / 4 * 4 = 4 * m := by omega
  rw [mixWith, at16_map (by omega), h1, h2]
  simp [List.range_succ]

theorem mixColumnsInv_mixColumns {s : List Byte} (h : s.length = 16) : mixColumnsInv (mixColumns s) = s := by
  have key (m r : Nat) (hm : m < 4) (hr : r < 4) : at16 (mixColumnsInv (mixColumns s)) (4 * m + r) = at16 s (4 * m + r) := by
    have h0 := mixWith_at [2, 3, 1, 1] s hm (show 0 < 4 by decide)
    have h1 := mixWith_at [2, 3, 1, 1] s hm (show 1 < 4 by decide)
    have h2 := mixWith_at [2, 3, 1, 1] s hm (show 2 < 4 by decide)
    have h3 := mixWith_at [2, 3, 1, 1] s hm (show 3 < 4 by decide)
    rw [Nat.add_zero] at h0
    rw [mixColumnsInv, mixColumns, mixWith_at _ _ hm hr, h0, h1, h2, h3]
    have f : at16 [2, 3, 1, 1] 0 = 2 ∧ at16 [2, 3, 1, 1] 1 = 3 ∧ at16 [2, 3, 1, 1] 2 = 1 ∧ at16 [2, 3, 1, 1] 3 = 1 :=
      ⟨rfl, rfl, rfl, rfl⟩
    have g : at16 [14, 11, 13, 9] 0 = 14 ∧ at16 [14, 11, 13, 9] 1 = 11 ∧ at16 [14, 11, 13, 9] 2 = 13 ∧
      at16 [14, 11, 13, 9] 3 = 9 := ⟨rfl, rfl, rfl, rfl⟩
    interval_cases r <;>
      simp only [f, g, Nat.reduceAdd, Nat.reduceSub, Nat.reduceMod, Nat.add_zero]
    · exact Eq.trans (by ac_rfl) (mix_column (at16 s (4 * m)) (at16 s (4 * m + 1)) (at16 s (4 * m + 2)) (at16 s (4 * m + 3)))
    · exact Eq.trans (by ac_rfl) (mix_column (at16 s (4 * m + 1)) (at16 s (4 * m + 2)) (at16 s (4 * m + 3)) (at16 s (4 * m)))
    · exact Eq.trans (by ac_rfl) (mix_column (at16 s (4 * m + 2)) (at16 s (4 * m + 3)) (at16 s (4 * m)) (at16 s (4 * m + 1)))
    · exact Eq.trans (by ac_rfl) (mix_column (at16 s (4 * m + 3)) (at16 s (4 * m)) (at16 s (4 * m + 1)) (at16 s (4 * m + 2)))
  refine (eq_bytes16 (by simp [mixColumnsInv, mixWith])).trans (Eq.trans (List.map_congr_left fun i hi => ?_) (eq_bytes16 h).symm)
  have := key (i / 4) (i % 4) (by have := List.mem_range.1 hi; omega) (Nat.mod_lt _ (by decide))
  rwa [Nat.div_add_mod] at this

/-! ### Rounds -/

/-- The inverse of a round's SubBytes and ShiftRows. -/
theorem sub_shift_inv {s : List Byte} (h : s.length = 16) : (shiftRowsInv (shiftRows (s.map sub))).map subInv = s := by
  rw [shiftRowsInv_shiftRows (by simpa using h), List.map_map]
  exact (List.map_congr_left fun a _ => subInv_sub a).trans (List.map_id s)

/-- One round of decryption that is not the last. -/
def decryptRound (s k : List Byte) : List Byte := mixColumnsInv (xorBytes ((shiftRowsInv s).map subInv) k)

theorem decryptRounds_append (l : List (List Byte)) (k x : List Byte) :
    decryptRounds (l ++ [k]) x = xorBytes ((shiftRowsInv (l.foldl decryptRound x)).map subInv) k := by
  induction l generalizing x with
  | nil => rfl
  | cons a l ih =>
    rw [List.foldl_cons, ← ih]
    cases l <;> rfl

theorem decryptRounds_encryptRounds (ks : List (List Byte)) (s : List Byte) (hs : s.length = 16)
    (hk : ∀ k ∈ ks, k.length = 16) (kl : List Byte) (r : List (List Byte)) (hr : ks.reverse = kl :: r) :
    (encryptRounds ks s).length = 16 ∧
      (shiftRowsInv (r.foldl decryptRound (xorBytes (encryptRounds ks s) kl))).map subInv = s := by
  induction ks generalizing s kl r with
  | nil => simp at hr
  | cons k ks ih =>
    have hk0 : k.length = 16 := hk k (List.mem_cons_self ..)
    cases ks with
    | nil =>
      obtain ⟨rfl, rfl⟩ : k = kl ∧ [] = r := by simpa using hr
      simp only [encryptRounds, List.foldl_nil]
      refine ⟨by simp [length_xorBytes, length_shiftRows, hk0], ?_⟩
      rw [xorBytes_xorBytes (by rw [length_shiftRows, hk0]), sub_shift_inv hs]
    | cons k' ks =>
      obtain ⟨r', hr'⟩ : ∃ r', (k' :: ks).reverse = kl :: r' ∧ r = r' ++ [k] := by
        rw [List.reverse_cons] at hr
        cases h : (k' :: ks).reverse with
        | nil => simp at h
        | cons x xs =>
          rw [h] at hr
          obtain ⟨rfl, rfl⟩ : x = kl ∧ xs ++ [k] = r := by simpa using hr
          exact ⟨xs, rfl, rfl⟩
      obtain ⟨h1, rfl⟩ := hr'
      let s' := xorBytes (mixColumns (shiftRows (s.map sub))) k
      have hs' : s'.length = 16 := by simp [s', length_xorBytes, length_mixColumns, hk0]
      obtain ⟨e1, e2⟩ := ih s' hs' (fun k hk' => hk k (List.mem_cons_of_mem _ hk')) kl r' h1
      refine ⟨e1, ?_⟩
      rw [List.foldl_append, List.foldl_cons, List.foldl_nil, decryptRound]
      rw [show encryptRounds (k :: k' :: ks) s = encryptRounds (k' :: ks) s' from rfl, e2]
      rw [xorBytes_xorBytes (by rw [length_mixColumns, hk0]), mixColumnsInv_mixColumns (length_shiftRows _), sub_shift_inv hs]

theorem aesDecrypt_aesEncrypt {ks : List (List Byte)} {s : List Byte} (hs : s.length = 16) (hk : ∀ k ∈ ks, k.length = 16)
    (h2 : 2 ≤ ks.length) : (aesEncrypt ks s).length = 16 ∧ aesDecrypt ks (aesEncrypt ks s) = s := by
  match ks, h2 with
  | k :: k' :: ks, _ =>
    have hk0 : k.length = 16 := hk k (List.mem_cons_self ..)
    cases h : (k' :: ks).reverse with
    | nil => simp at h
    | cons kl r =>
      obtain ⟨e1, e2⟩ := decryptRounds_encryptRounds (k' :: ks) (xorBytes s k) (by simp [length_xorBytes, hs, hk0])
        (fun x hx => hk x (List.mem_cons_of_mem _ hx)) kl r h
      refine ⟨e1, ?_⟩
      have hrev : (k :: k' :: ks).reverse = kl :: (r ++ [k]) := by rw [List.reverse_cons, h]; rfl
      rw [aesDecrypt, hrev]
      show decryptRounds (r ++ [k]) (xorBytes (encryptRounds (k' :: ks) (xorBytes s k)) kl) = s
      rw [decryptRounds_append, e2, xorBytes_xorBytes (by rw [hs, hk0])]

/-! ### The key schedule -/

theorem length_nextKeyWord {p l : List Byte} (hp : p.length = 4) (hl : l.length = 4) (i : Nat) (c : Byte) :
    (nextKeyWord p l i c).length = 4 := by
  rw [nextKeyWord, length_xorBytes]
  split
  · simp [length_xorBytes, hp, hl]
  · split <;> simp [hp, hl]

theorem extendKey_words (n i : Nat) (c : Byte) (ws : List (List Byte)) (h : ∀ w ∈ ws, w.length = 4) (h8 : 8 ≤ ws.length) :
    (∀ w ∈ extendKey n i c ws, w.length = 4) ∧ (extendKey n i c ws).length = n + ws.length := by
  induction n generalizing i c ws with
  | zero => exact ⟨h, by simp [extendKey]⟩
  | succ n ih =>
    have at_ (k : Nat) (hk : k < 8) : (ws.getD k []).length = 4 := by
      rw [List.getD_eq_getElem _ _ (by omega)]
      exact h _ (List.getElem_mem _)
    obtain ⟨a, b⟩ := ih (i + 1) (if i % 8 = 0 then gmul 2 c else c) (nextKeyWord (ws.getD 7 []) (ws.getD 0 []) i c :: ws)
      (by
        intro w hw
        rcases List.mem_cons.1 hw with rfl | hw
        · exact length_nextKeyWord (at_ 7 (by decide)) (at_ 0 (by decide)) i c
        · exact h w hw) (by simp; omega)
    exact ⟨a, by rw [extendKey, b, List.length_cons]; omega⟩

theorem length_flatten_words {ws : List (List Byte)} (h : ∀ w ∈ ws, w.length = 4) : ws.flatten.length = 4 * ws.length := by
  induction ws with
  | nil => rfl
  | cons w ws ih =>
    rw [List.flatten_cons, List.length_append, h w (List.mem_cons_self ..), ih fun x hx => h x (List.mem_cons_of_mem _ hx),
      List.length_cons]
    omega

theorem roundKeys_length {key : List Byte} (hk : key.length = 32) :
    (roundKeys key).length = 15 ∧ ∀ k ∈ roundKeys key, k.length = 16 := by
  refine ⟨by simp [roundKeys], fun k h => ?_⟩
  obtain ⟨r, hr, rfl⟩ := List.mem_map.1 h
  have hr' := List.mem_range.1 hr
  obtain ⟨a, b⟩ := extendKey_words 52 8 1 ((List.range 8).map fun i => (key.drop (4 * i)).take 4).reverse (by
    intro w hw
    obtain ⟨i, hi, rfl⟩ := List.mem_map.1 (List.mem_reverse.1 hw)
    have := List.mem_range.1 hi
    simp [hk]; omega) (by simp)
  rw [length_flatten_words fun w hw => a w (List.mem_reverse.1 (List.mem_of_mem_drop (List.mem_of_mem_take hw)))]
  have hb := b
  simp only [List.length_reverse, List.length_map, List.length_range] at hb
  simp only [List.length_take, List.length_drop, List.length_reverse, hb]
  omega

/-! ### Units -/

theorem length_leBytes (n v : Nat) : (leBytes n v).length = n := by
  induction n generalizing v with
  | zero => rfl
  | succ n ih => simp [leBytes, ih]

theorem xtsBlocks_inverse {f g : List Byte → List Byte}
    (h : ∀ x : List Byte, x.length = 16 → (f x).length = 16 ∧ g (f x) = x) (n t : Nat) (bs : List Byte)
    (hb : bs.length = 16 * n) : (xtsBlocks f n t bs).length = 16 * n ∧ xtsBlocks g n t (xtsBlocks f n t bs) = bs := by
  induction n generalizing t bs with
  | zero => exact ⟨rfl, (List.eq_nil_of_length_eq_zero (by simpa using hb)).symm ▸ rfl⟩
  | succ n ih =>
    have hw : (leBytes 16 t).length = 16 := length_leBytes 16 t
    have hx : (xorBytes (bs.take 16) (leBytes 16 t)).length = 16 := by
      rw [length_xorBytes, List.length_take, hw]; omega
    obtain ⟨h1, h2⟩ := h _ hx
    obtain ⟨i1, i2⟩ := ih (nextTweak t) (bs.drop 16) (by rw [List.length_drop]; omega)
    have hc : (xorBytes (f (xorBytes (bs.take 16) (leBytes 16 t))) (leBytes 16 t)).length = 16 := by
      rw [length_xorBytes, h1, hw]; rfl
    refine ⟨by rw [xtsBlocks, List.length_append, hc, i1]; omega, ?_⟩
    rw [xtsBlocks, xtsBlocks]
    rw [List.take_left' hc, List.drop_left' hc, i2, xorBytes_xorBytes (by rw [h1, hw]), h2,
      xorBytes_xorBytes (by rw [List.length_take, hw]; omega), List.take_append_drop]

/-- Decryption undoes encryption (R238). -/
theorem xtsUnit_inverse (key : BitVec 512) (unit : Nat) {bs : List Byte} (h : bs.length = 64) :
    (xtsUnit true key unit bs).length = 64 ∧ xtsUnit false key unit (xtsUnit true key unit bs) = bs := by
  obtain ⟨k1, k2⟩ := roundKeys_length (length_leBytes 32 (key.toNat % 2 ^ 256))
  simp only [xtsUnit, if_true, Bool.false_eq_true, if_false]
  generalize leNat _ = t
  generalize roundKeys _ = ks at k1 k2 ⊢
  exact xtsBlocks_inverse (fun x hx => aesDecrypt_aesEncrypt hx k2 (by rw [k1]; decide)) 4 t bs h

/-! ### Device memory -/

theorem Mem.readBytes_writeBytes {m : Mem} (h : m.wf = true) (a : Nat) {bs : List Byte} {n : Nat} (hn : bs.length = n) :
    (m.writeBytes a bs).readBytes a n = bs := by
  apply List.ext_getElem ((Mem.length_readBytes ..).trans hn.symm)
  intro i h1 h2
  have e := Mem.getD_readBytes (m.writeBytes a bs) a n i (hn ▸ h2)
  rw [List.getD_eq_getElem _ _ h1, Mem.read_writeBytes h] at e
  rw [e, if_pos (by omega), Nat.add_sub_cancel_left, List.getD_eq_getElem _ _ h2]

theorem Mem.readBytes_writeBytes_apart {m : Mem} (h : m.wf = true) (a b n : Nat) (bs : List Byte)
    (hab : a + bs.length ≤ b ∨ b + n ≤ a) : (m.writeBytes a bs).readBytes b n = m.readBytes b n := by
  apply List.ext_getElem (by simp [Mem.length_readBytes])
  intro i h1 h2
  have hi : i < n := by simpa [Mem.length_readBytes] using h1
  have e1 := Mem.getD_readBytes (m.writeBytes a bs) b n i hi
  have e2 := Mem.getD_readBytes m b n i hi
  rw [List.getD_eq_getElem _ _ h1] at e1
  rw [List.getD_eq_getElem _ _ h2] at e2
  rw [e1, e2, Mem.read_writeBytes h, if_neg (by omega)]

theorem State.writeUnit_dram (s : State) (key : BitVec 512) (unit : Nat) (data : List Byte) :
    (s.writeUnit key unit data).dram =
      s.dram.writeBytes (64 * unit) (xtsUnit true key unit ((data ++ List.replicate 64 0).take 64)) := by rw [State.writeUnit]

/-- A unit written reads back under the key it was written with (R238). -/
theorem State.plainUnit_writeUnit {s : State} (h : s.dram.wf = true) (key : BitVec 512) (unit : Nat) {data : List Byte}
    (hd : data.length = 64) : (s.writeUnit key unit data).plainUnit key unit = data := by
  have e : (data ++ List.replicate 64 0).take 64 = data := List.take_left' hd
  obtain ⟨h1, h2⟩ := xtsUnit_inverse key unit hd
  rw [State.plainUnit, State.writeUnit_dram, e, Mem.readBytes_writeBytes h _ h1, h2]

/-- A unit keeps its bytes when another is written. -/
theorem State.plainUnit_writeUnit_ne {s : State} (h : s.dram.wf = true) (key key' : BitVec 512) {unit other : Nat}
    (hne : other ≠ unit) (data : List Byte) : (s.writeUnit key unit data).plainUnit key' other = s.plainUnit key' other := by
  have e : ((data ++ List.replicate 64 0).take 64).length = 64 := by
    rw [List.length_take, List.length_append, List.length_replicate]; omega
  have l := (xtsUnit_inverse key unit e).1
  rw [State.plainUnit, State.plainUnit, State.writeUnit_dram, Mem.readBytes_writeBytes_apart h _ _ _ _ (by omega)]

end Sys2Proof.Machine
end

