-- ==== Sys2Proof/Laws/Encoding.lean ====
section
/-! SUPPORT. The formats of a slot word: a word of well-formed fields is 32 bits wide with its opcode on top, and reading
its fields gives them back (R30, R32, R35, R37, R39, R41). -/
namespace Sys2Proof

theorem b2n_lt (b : Bool) : b2n b < 2 := by cases b <;> simp [b2n]

theorem bit_of_b2n {w i : Nat} {b : Bool} (h : w / 2 ^ i % 2 = b2n b) : bit w i = b := by
  cases b <;> simp_all [bit, b2n]

/-- The opcode of a word of format SR, and its width. -/
theorem SR.toWord_top {f : SR} (h : f.ok = true) (op : Nat) : f.toWord op / 2 ^ 24 = op := by
  simp only [SR.ok, Bool.and_eq_true, decide_eq_true_eq] at h
  have hneg := b2n_lt f.neg
  simp only [SR.toWord]
  omega

theorem SR.toWord_lt {f : SR} (h : f.ok = true) {op : Nat} (ho : op < 256) : f.toWord op < 2 ^ 32 := by
  have := SR.toWord_top h op
  omega

theorem SR.ofWord_toWord {f : SR} (h : f.ok = true) (op : Nat) : SR.ofWord (f.toWord op) = f := by
  simp only [SR.ok, Bool.and_eq_true, decide_eq_true_eq] at h
  have hneg := b2n_lt f.neg
  obtain ⟨sd, sa, sb, g, neg, fn⟩ := f
  simp only [SR.ofWord, SR.toWord, SR.mk.injEq] at *
  refine ⟨?_, ?_, ?_, ?_, ?_, ?_⟩ <;> first | omega | exact bit_of_b2n (by omega)

/-- The opcode of a word of format SI, and its width. -/
theorem SI.toWord_top {f : SI} (h : f.ok = true) (op : Nat) : f.toWord op / 2 ^ 24 = op := by
  simp only [SI.ok, Bool.and_eq_true, decide_eq_true_eq] at h
  simp only [SI.toWord]
  omega

theorem SI.toWord_lt {f : SI} (h : f.ok = true) {op : Nat} (ho : op < 256) : f.toWord op < 2 ^ 32 := by
  have := SI.toWord_top h op
  omega

theorem SI.ofWord_toWord {f : SI} (h : f.ok = true) (op : Nat) : SI.ofWord (f.toWord op) = f := by
  simp only [SI.ok, Bool.and_eq_true, decide_eq_true_eq] at h
  obtain ⟨sd, sa, imm⟩ := f
  simp only [SI.ofWord, SI.toWord, SI.mk.injEq] at *
  refine ⟨?_, ?_, ?_⟩ <;> omega

/-- The opcode of a word of format SU, and its width. -/
theorem SU.toWord_top {f : SU} (h : f.ok = true) (op : Nat) : f.toWord op / 2 ^ 24 = op := by
  simp only [SU.ok, Bool.and_eq_true, decide_eq_true_eq] at h
  simp only [SU.toWord]
  omega

theorem SU.toWord_lt {f : SU} (h : f.ok = true) {op : Nat} (ho : op < 256) : f.toWord op < 2 ^ 32 := by
  have := SU.toWord_top h op
  omega

theorem SU.ofWord_toWord {f : SU} (h : f.ok = true) (op : Nat) : SU.ofWord (f.toWord op) = f := by
  simp only [SU.ok, Bool.and_eq_true, decide_eq_true_eq] at h
  obtain ⟨sd, imm⟩ := f
  simp only [SU.ofWord, SU.toWord, SU.mk.injEq] at *
  refine ⟨?_, ?_⟩ <;> omega

/-- The opcode of a word of format SB, and its width. -/
theorem SB.toWord_top {f : SB} (h : f.ok = true) (op : Nat) : f.toWord op / 2 ^ 24 = op := by
  simp only [SB.ok, Bool.and_eq_true, decide_eq_true_eq] at h
  have hneg := b2n_lt f.neg
  simp only [SB.toWord]
  omega

theorem SB.toWord_lt {f : SB} (h : f.ok = true) {op : Nat} (ho : op < 256) : f.toWord op < 2 ^ 32 := by
  have := SB.toWord_top h op
  omega

theorem SB.ofWord_toWord {f : SB} (h : f.ok = true) (op : Nat) : SB.ofWord (f.toWord op) = f := by
  simp only [SB.ok, Bool.and_eq_true, decide_eq_true_eq] at h
  have hneg := b2n_lt f.neg
  obtain ⟨g, neg, off⟩ := f
  simp only [SB.ofWord, SB.toWord, SB.mk.injEq] at *
  refine ⟨?_, ?_, ?_⟩ <;> first | omega | exact bit_of_b2n (by omega)

/-- The opcode of a word of format SL, and its width. -/
theorem SL.toWord_top {f : SL} (h : f.ok = true) (op : Nat) : f.toWord op / 2 ^ 24 = op := by
  simp only [SL.ok, Bool.and_eq_true, decide_eq_true_eq] at h
  simp only [SL.toWord]
  omega

theorem SL.toWord_lt {f : SL} (h : f.ok = true) {op : Nat} (ho : op < 256) : f.toWord op < 2 ^ 32 := by
  have := SL.toWord_top h op
  omega

theorem SL.ofWord_toWord {f : SL} (h : f.ok = true) (op : Nat) : SL.ofWord (f.toWord op) = f := by
  simp only [SL.ok, Bool.and_eq_true, decide_eq_true_eq] at h
  obtain ⟨level, len, cnt⟩ := f
  simp only [SL.ofWord, SL.toWord, SL.mk.injEq] at *
  refine ⟨?_, ?_, ?_⟩ <;> omega

/-- The opcode of a word of format SY, and its width. -/
theorem SY.toWord_top {f : SY} (h : f.ok = true) (op : Nat) : f.toWord op / 2 ^ 24 = op := by
  simp only [SY.ok, Bool.and_eq_true, decide_eq_true_eq] at h
  simp only [SY.toWord]
  omega

theorem SY.toWord_lt {f : SY} (h : f.ok = true) {op : Nat} (ho : op < 256) : f.toWord op < 2 ^ 32 := by
  have := SY.toWord_top h op
  omega

theorem SY.ofWord_toWord {f : SY} (h : f.ok = true) (op : Nat) : SY.ofWord (f.toWord op) = f := by
  simp only [SY.ok, Bool.and_eq_true, decide_eq_true_eq] at h
  obtain ⟨sd, sa, sel⟩ := f
  simp only [SY.ofWord, SY.toWord, SY.mk.injEq] at *
  refine ⟨?_, ?_, ?_⟩ <;> omega

/-- The opcode of a word of format LM, and its width. -/
theorem LM.toWord_top {f : LM} (h : f.ok = true) (op : Nat) : f.toWord op / 2 ^ 24 = op := by
  simp only [LM.ok, Bool.and_eq_true, decide_eq_true_eq] at h
  have hneg := b2n_lt f.neg
  simp only [LM.toWord]
  omega

theorem LM.toWord_lt {f : LM} (h : f.ok = true) {op : Nat} (ho : op < 256) : f.toWord op < 2 ^ 32 := by
  have := LM.toWord_top h op
  omega

theorem LM.ofWord_toWord {f : LM} (h : f.ok = true) (op : Nat) : LM.ofWord (f.toWord op) = f := by
  simp only [LM.ok, Bool.and_eq_true, decide_eq_true_eq] at h
  have hneg := b2n_lt f.neg
  obtain ⟨tg, ptr, off, g, neg⟩ := f
  simp only [LM.ofWord, LM.toWord, LM.mk.injEq] at *
  refine ⟨?_, ?_, ?_, ?_, ?_⟩ <;> first | omega | exact bit_of_b2n (by omega)

/-- The opcode of a word of format LP, and its width. -/
theorem LP.toWord_top {f : LP} (h : f.ok = true) (op : Nat) : f.toWord op / 2 ^ 24 = op := by
  simp only [LP.ok, Bool.and_eq_true, decide_eq_true_eq] at h
  simp only [LP.toWord]
  omega

theorem LP.toWord_lt {f : LP} (h : f.ok = true) {op : Nat} (ho : op < 256) : f.toWord op < 2 ^ 32 := by
  have := LP.toWord_top h op
  omega

theorem LP.ofWord_toWord {f : LP} (h : f.ok = true) (op : Nat) : LP.ofWord (f.toWord op) = f := by
  simp only [LP.ok, Bool.and_eq_true, decide_eq_true_eq] at h
  obtain ⟨pd, pa, imm⟩ := f
  simp only [LP.ofWord, LP.toWord, LP.mk.injEq] at *
  refine ⟨?_, ?_, ?_⟩ <;> omega

/-- The opcode of a word of format LX, and its width. -/
theorem LX.toWord_top {f : LX} (h : f.ok = true) (op : Nat) : f.toWord op / 2 ^ 24 = op := by
  simp only [LX.ok, Bool.and_eq_true, decide_eq_true_eq] at h
  have hneg := b2n_lt f.neg
  simp only [LX.toWord]
  omega

theorem LX.toWord_lt {f : LX} (h : f.ok = true) {op : Nat} (ho : op < 256) : f.toWord op < 2 ^ 32 := by
  have := LX.toWord_top h op
  omega

theorem LX.ofWord_toWord {f : LX} (h : f.ok = true) (op : Nat) : LX.ofWord (f.toWord op) = f := by
  simp only [LX.ok, Bool.and_eq_true, decide_eq_true_eq] at h
  have hneg := b2n_lt f.neg
  obtain ⟨tg, ptr, idx, lm, rsv, g, neg⟩ := f
  simp only [LX.ofWord, LX.toWord, LX.mk.injEq] at *
  refine ⟨?_, ?_, ?_, ?_, ?_, ?_, ?_⟩ <;> first | omega | exact bit_of_b2n (by omega)

/-- The opcode of a word of format LA, and its width. -/
theorem LA.toWord_top {f : LA} (h : f.ok = true) (op : Nat) : f.toWord op / 2 ^ 24 = op := by
  simp only [LA.ok, Bool.and_eq_true, decide_eq_true_eq] at h
  have hneg := b2n_lt f.neg
  simp only [LA.toWord]
  omega

theorem LA.toWord_lt {f : LA} (h : f.ok = true) {op : Nat} (ho : op < 256) : f.toWord op < 2 ^ 32 := by
  have := LA.toWord_top h op
  omega

theorem LA.ofWord_toWord {f : LA} (h : f.ok = true) (op : Nat) : LA.ofWord (f.toWord op) = f := by
  simp only [LA.ok, Bool.and_eq_true, decide_eq_true_eq] at h
  have hneg := b2n_lt f.neg
  obtain ⟨tg, ptr, opd, off, g, neg⟩ := f
  simp only [LA.ofWord, LA.toWord, LA.mk.injEq] at *
  refine ⟨?_, ?_, ?_, ?_, ?_, ?_⟩ <;> first | omega | exact bit_of_b2n (by omega)

/-- The opcode of a word of format LG, and its width. -/
theorem LG.toWord_top {f : LG} (h : f.ok = true) (op : Nat) : f.toWord op / 2 ^ 24 = op := by
  simp only [LG.ok, Bool.and_eq_true, decide_eq_true_eq] at h
  have hneg := b2n_lt f.neg
  simp only [LG.toWord]
  omega

theorem LG.toWord_lt {f : LG} (h : f.ok = true) {op : Nat} (ho : op < 256) : f.toWord op < 2 ^ 32 := by
  have := LG.toWord_top h op
  omega

theorem LG.ofWord_toWord {f : LG} (h : f.ok = true) (op : Nat) : LG.ofWord (f.toWord op) = f := by
  simp only [LG.ok, Bool.and_eq_true, decide_eq_true_eq] at h
  have hneg := b2n_lt f.neg
  obtain ⟨tg, ag, size, imm, g, neg⟩ := f
  simp only [LG.ofWord, LG.toWord, LG.mk.injEq] at *
  refine ⟨?_, ?_, ?_, ?_, ?_, ?_⟩ <;> first | omega | exact bit_of_b2n (by omega)

/-- The opcode of a word of format VR, and its width. -/
theorem VR.toWord_top {f : VR} (h : f.ok = true) (op : Nat) : f.toWord op / 2 ^ 24 = op := by
  simp only [VR.ok, Bool.and_eq_true, decide_eq_true_eq] at h
  simp only [VR.toWord]
  omega

theorem VR.toWord_lt {f : VR} (h : f.ok = true) {op : Nat} (ho : op < 256) : f.toWord op < 2 ^ 32 := by
  have := VR.toWord_top h op
  omega

theorem VR.ofWord_toWord {f : VR} (h : f.ok = true) (op : Nat) : VR.ofWord (f.toWord op) = f := by
  simp only [VR.ok, Bool.and_eq_true, decide_eq_true_eq] at h
  obtain ⟨vd, va, vb, mask, rnd, sub⟩ := f
  simp only [VR.ofWord, VR.toWord, VR.mk.injEq] at *
  refine ⟨?_, ?_, ?_, ?_, ?_, ?_⟩ <;> omega

/-- The opcode of a word of format VF, and its width. -/
theorem VF.toWord_top {f : VF} (h : f.ok = true) (op : Nat) : f.toWord op / 2 ^ 24 = op := by
  simp only [VF.ok, Bool.and_eq_true, decide_eq_true_eq] at h
  simp only [VF.toWord]
  omega

theorem VF.toWord_lt {f : VF} (h : f.ok = true) {op : Nat} (ho : op < 256) : f.toWord op < 2 ^ 32 := by
  have := VF.toWord_top h op
  omega

theorem VF.ofWord_toWord {f : VF} (h : f.ok = true) (op : Nat) : VF.ofWord (f.toWord op) = f := by
  simp only [VF.ok, Bool.and_eq_true, decide_eq_true_eq] at h
  obtain ⟨vd, va, vb, vc, mask, rnd⟩ := f
  simp only [VF.ofWord, VF.toWord, VF.mk.injEq] at *
  refine ⟨?_, ?_, ?_, ?_, ?_, ?_⟩ <;> omega

/-- The opcode of a word of format VI, and its width. -/
theorem VI.toWord_top {f : VI} (h : f.ok = true) (op : Nat) : f.toWord op / 2 ^ 24 = op := by
  simp only [VI.ok, Bool.and_eq_true, decide_eq_true_eq] at h
  simp only [VI.toWord]
  omega

theorem VI.toWord_lt {f : VI} (h : f.ok = true) {op : Nat} (ho : op < 256) : f.toWord op < 2 ^ 32 := by
  have := VI.toWord_top h op
  omega

theorem VI.ofWord_toWord {f : VI} (h : f.ok = true) (op : Nat) : VI.ofWord (f.toWord op) = f := by
  simp only [VI.ok, Bool.and_eq_true, decide_eq_true_eq] at h
  obtain ⟨vd, va, imm, mask⟩ := f
  simp only [VI.ofWord, VI.toWord, VI.mk.injEq] at *
  refine ⟨?_, ?_, ?_, ?_⟩ <;> omega

/-- The opcode of a word of format VU, and its width. -/
theorem VU.toWord_top {f : VU} (h : f.ok = true) (op : Nat) : f.toWord op / 2 ^ 24 = op := by
  simp only [VU.ok, Bool.and_eq_true, decide_eq_true_eq] at h
  simp only [VU.toWord]
  omega

theorem VU.toWord_lt {f : VU} (h : f.ok = true) {op : Nat} (ho : op < 256) : f.toWord op < 2 ^ 32 := by
  have := VU.toWord_top h op
  omega

theorem VU.ofWord_toWord {f : VU} (h : f.ok = true) (op : Nat) : VU.ofWord (f.toWord op) = f := by
  simp only [VU.ok, Bool.and_eq_true, decide_eq_true_eq] at h
  obtain ⟨vd, imm, mask⟩ := f
  simp only [VU.ofWord, VU.toWord, VU.mk.injEq] at *
  refine ⟨?_, ?_, ?_⟩ <;> omega

/-- The opcode of a word of format XC, and its width. -/
theorem XC.toWord_top {f : XC} (h : f.ok = true) (op : Nat) : f.toWord op / 2 ^ 24 = op := by
  simp only [XC.ok, Bool.and_eq_true, decide_eq_true_eq] at h
  simp only [XC.toWord]
  omega

theorem XC.toWord_lt {f : XC} (h : f.ok = true) {op : Nat} (ho : op < 256) : f.toWord op < 2 ^ 32 := by
  have := XC.toWord_top h op
  omega

theorem XC.ofWord_toWord {f : XC} (h : f.ok = true) (op : Nat) : XC.ofWord (f.toWord op) = f := by
  simp only [XC.ok, Bool.and_eq_true, decide_eq_true_eq] at h
  obtain ⟨dfile, dreg, sfile, sreg, aux⟩ := f
  simp only [XC.ofWord, XC.toWord, XC.mk.injEq] at *
  refine ⟨?_, ?_, ?_, ?_, ?_⟩ <;> omega

/-- The opcode of a word of format MXF, and its width. -/
theorem MXF.toWord_top {f : MXF} (h : f.ok = true) (op : Nat) : f.toWord op / 2 ^ 24 = op := by
  simp only [MXF.ok, Bool.and_eq_true, decide_eq_true_eq] at h
  have hpa := b2n_lt f.pa
  have hpb := b2n_lt f.pb
  simp only [MXF.toWord]
  omega

theorem MXF.toWord_lt {f : MXF} (h : f.ok = true) {op : Nat} (ho : op < 256) : f.toWord op < 2 ^ 32 := by
  have := MXF.toWord_top h op
  omega

theorem MXF.ofWord_toWord {f : MXF} (h : f.ok = true) (op : Nat) : MXF.ofWord (f.toWord op) = f := by
  simp only [MXF.ok, Bool.and_eq_true, decide_eq_true_eq] at h
  have hpa := b2n_lt f.pa
  have hpb := b2n_lt f.pb
  obtain ⟨qa, pa, qb, pb, fmt, flags⟩ := f
  simp only [MXF.ofWord, MXF.toWord, MXF.mk.injEq] at *
  refine ⟨?_, ?_, ?_, ?_, ?_, ?_⟩ <;> first | omega | exact bit_of_b2n (by omega)

/-- The opcode of a word of format TEF, and its width. -/
theorem TEF.toWord_top {f : TEF} (h : f.ok = true) (op : Nat) : f.toWord op / 2 ^ 24 = op := by
  simp only [TEF.ok, Bool.and_eq_true, decide_eq_true_eq] at h
  simp only [TEF.toWord]
  omega

theorem TEF.toWord_lt {f : TEF} (h : f.ok = true) {op : Nat} (ho : op < 256) : f.toWord op < 2 ^ 32 := by
  have := TEF.toWord_top h op
  omega

theorem TEF.ofWord_toWord {f : TEF} (h : f.ok = true) (op : Nat) : TEF.ofWord (f.toWord op) = f := by
  simp only [TEF.ok, Bool.and_eq_true, decide_eq_true_eq] at h
  obtain ⟨h, lead⟩ := f
  simp only [TEF.ofWord, TEF.toWord, TEF.mk.injEq] at *
  refine ⟨?_, ?_⟩ <;> omega

end Sys2Proof
end

