-- ==== Sys2Proof/Laws/PerInstr.lean ====
section
/-! SUPPORT. For every instruction: the word of a well-formed slot instruction is 32 bits wide, and is 0 for the no-operation
alone; a step that has no slot has no word (R28, R29). One lemma for each constructor. -/
namespace Sys2Proof.Laws

/-- What is said of an instruction. -/
def Width.Statement (i : Instr) : Prop := i.wf = true → ∀ w, encode i = some w → w < 2 ^ 32 ∧ (w = 0 → i = .nop)

theorem Width.left {a b : Bool} (h : (a && b) = true) : a = true := (Bool.and_eq_true_iff.mp h).1

theorem Width.ofTop {i : Instr} {v op : Nat} (he : encode i = some v) (ho : 0 < op ∧ op < 256)
    (ht : i.wf = true → v / 2 ^ 24 = op) : Width.Statement i := by
  intro h w hw
  have hv : w = v := by simpa [he] using hw.symm
  have := ht h
  omega

theorem Width.ofSR {i : Instr} {f : SR} {op : Nat} (he : encode i = some (f.toWord op)) (ho : decide (0 < op ∧ op < 256) = true)
    (h : i.wf = true → f.ok = true) : Width.Statement i := Width.ofTop he (of_decide_eq_true ho) fun w => SR.toWord_top (h w) op

theorem Width.ofSI {i : Instr} {f : SI} {op : Nat} (he : encode i = some (f.toWord op)) (ho : decide (0 < op ∧ op < 256) = true)
    (h : i.wf = true → f.ok = true) : Width.Statement i := Width.ofTop he (of_decide_eq_true ho) fun w => SI.toWord_top (h w) op

theorem Width.ofSU {i : Instr} {f : SU} {op : Nat} (he : encode i = some (f.toWord op)) (ho : decide (0 < op ∧ op < 256) = true)
    (h : i.wf = true → f.ok = true) : Width.Statement i := Width.ofTop he (of_decide_eq_true ho) fun w => SU.toWord_top (h w) op

theorem Width.ofSB {i : Instr} {f : SB} {op : Nat} (he : encode i = some (f.toWord op)) (ho : decide (0 < op ∧ op < 256) = true)
    (h : i.wf = true → f.ok = true) : Width.Statement i := Width.ofTop he (of_decide_eq_true ho) fun w => SB.toWord_top (h w) op

theorem Width.ofSL {i : Instr} {f : SL} {op : Nat} (he : encode i = some (f.toWord op)) (ho : decide (0 < op ∧ op < 256) = true)
    (h : i.wf = true → f.ok = true) : Width.Statement i := Width.ofTop he (of_decide_eq_true ho) fun w => SL.toWord_top (h w) op

theorem Width.ofSY {i : Instr} {f : SY} {op : Nat} (he : encode i = some (f.toWord op)) (ho : decide (0 < op ∧ op < 256) = true)
    (h : i.wf = true → f.ok = true) : Width.Statement i := Width.ofTop he (of_decide_eq_true ho) fun w => SY.toWord_top (h w) op

theorem Width.ofLP {i : Instr} {f : LP} {op : Nat} (he : encode i = some (f.toWord op)) (ho : decide (0 < op ∧ op < 256) = true)
    (h : i.wf = true → f.ok = true) : Width.Statement i := Width.ofTop he (of_decide_eq_true ho) fun w => LP.toWord_top (h w) op

theorem Width.ofLM {i : Instr} {f : LM} {op : Nat} (he : encode i = some (f.toWord op)) (ho : decide (0 < op ∧ op < 256) = true)
    (h : i.wf = true → f.ok = true) : Width.Statement i := Width.ofTop he (of_decide_eq_true ho) fun w => LM.toWord_top (h w) op

theorem Width.ofLA {i : Instr} {f : LA} {op : Nat} (he : encode i = some (f.toWord op)) (ho : decide (0 < op ∧ op < 256) = true)
    (h : i.wf = true → f.ok = true) : Width.Statement i := Width.ofTop he (of_decide_eq_true ho) fun w => LA.toWord_top (h w) op

theorem Width.ofLX {i : Instr} {f : LX} {op : Nat} (he : encode i = some (f.toWord op)) (ho : decide (0 < op ∧ op < 256) = true)
    (h : i.wf = true → f.ok = true) : Width.Statement i := Width.ofTop he (of_decide_eq_true ho) fun w => LX.toWord_top (h w) op

theorem Width.ofLG {i : Instr} {f : LG} {op : Nat} (he : encode i = some (f.toWord op)) (ho : decide (0 < op ∧ op < 256) = true)
    (h : i.wf = true → f.ok = true) : Width.Statement i := Width.ofTop he (of_decide_eq_true ho) fun w => LG.toWord_top (h w) op

theorem Width.ofVR {i : Instr} {f : VR} {op : Nat} (he : encode i = some (f.toWord op)) (ho : decide (0 < op ∧ op < 256) = true)
    (h : i.wf = true → f.ok = true) : Width.Statement i := Width.ofTop he (of_decide_eq_true ho) fun w => VR.toWord_top (h w) op

theorem Width.ofVF {i : Instr} {f : VF} {op : Nat} (he : encode i = some (f.toWord op)) (ho : decide (0 < op ∧ op < 256) = true)
    (h : i.wf = true → f.ok = true) : Width.Statement i := Width.ofTop he (of_decide_eq_true ho) fun w => VF.toWord_top (h w) op

theorem Width.ofVI {i : Instr} {f : VI} {op : Nat} (he : encode i = some (f.toWord op)) (ho : decide (0 < op ∧ op < 256) = true)
    (h : i.wf = true → f.ok = true) : Width.Statement i := Width.ofTop he (of_decide_eq_true ho) fun w => VI.toWord_top (h w) op

theorem Width.ofVU {i : Instr} {f : VU} {op : Nat} (he : encode i = some (f.toWord op)) (ho : decide (0 < op ∧ op < 256) = true)
    (h : i.wf = true → f.ok = true) : Width.Statement i := Width.ofTop he (of_decide_eq_true ho) fun w => VU.toWord_top (h w) op

theorem Width.ofXC {i : Instr} {f : XC} {op : Nat} (he : encode i = some (f.toWord op)) (ho : decide (0 < op ∧ op < 256) = true)
    (h : i.wf = true → f.ok = true) : Width.Statement i := Width.ofTop he (of_decide_eq_true ho) fun w => XC.toWord_top (h w) op

theorem Width.ofMXF {i : Instr} {f : MXF} {op : Nat} (he : encode i = some (f.toWord op)) (ho : decide (0 < op ∧ op < 256) = true)
    (h : i.wf = true → f.ok = true) : Width.Statement i := Width.ofTop he (of_decide_eq_true ho) fun w => MXF.toWord_top (h w) op

theorem Width.ofTEF {i : Instr} {f : TEF} {op : Nat} (he : encode i = some (f.toWord op)) (ho : decide (0 < op ∧ op < 256) = true)
    (h : i.wf = true → f.ok = true) : Width.Statement i := Width.ofTop he (of_decide_eq_true ho) fun w => TEF.toWord_top (h w) op

theorem Width.nop : Width.Statement .nop := by
  intro _ w h
  cases h
  exact ⟨by decide, fun _ => rfl⟩
theorem Width.add (f : SR) : Width.Statement (.add f) :=
  Width.ofSR (op := 0x01) rfl rfl fun h => Width.left h
theorem Width.sub (f : SR) : Width.Statement (.sub f) :=
  Width.ofSR (op := 0x02) rfl rfl fun h => Width.left h
theorem Width.and (f : SR) : Width.Statement (.and f) :=
  Width.ofSR (op := 0x03) rfl rfl fun h => Width.left h
theorem Width.or (f : SR) : Width.Statement (.or f) :=
  Width.ofSR (op := 0x04) rfl rfl fun h => Width.left h
theorem Width.xor (f : SR) : Width.Statement (.xor f) :=
  Width.ofSR (op := 0x05) rfl rfl fun h => Width.left h
theorem Width.shl (f : SR) : Width.Statement (.shl f) :=
  Width.ofSR (op := 0x06) rfl rfl fun h => Width.left h
theorem Width.shr (f : SR) : Width.Statement (.shr f) :=
  Width.ofSR (op := 0x07) rfl rfl fun h => Width.left h
theorem Width.sar (f : SR) : Width.Statement (.sar f) :=
  Width.ofSR (op := 0x08) rfl rfl fun h => Width.left h
theorem Width.min (f : SR) : Width.Statement (.min f) :=
  Width.ofSR (op := 0x09) rfl rfl fun h => Width.left h
theorem Width.max (f : SR) : Width.Statement (.max f) :=
  Width.ofSR (op := 0x0A) rfl rfl fun h => Width.left h
theorem Width.minu (f : SR) : Width.Statement (.minu f) :=
  Width.ofSR (op := 0x0B) rfl rfl fun h => Width.left h
theorem Width.maxu (f : SR) : Width.Statement (.maxu f) :=
  Width.ofSR (op := 0x0C) rfl rfl fun h => Width.left h
theorem Width.clz (f : SR) : Width.Statement (.clz f) :=
  Width.ofSR (op := 0x0D) rfl rfl fun h => Width.left (Width.left h)
theorem Width.popc (f : SR) : Width.Statement (.popc f) :=
  Width.ofSR (op := 0x0E) rfl rfl fun h => Width.left (Width.left h)
theorem Width.sel (f : SR) : Width.Statement (.sel f) :=
  Width.ofSR (op := 0x0F) rfl rfl fun h => Width.left h
theorem Width.mul (f : SR) : Width.Statement (.mul f) :=
  Width.ofSR (op := 0x10) rfl rfl fun h => Width.left h
theorem Width.mulh (f : SR) : Width.Statement (.mulh f) :=
  Width.ofSR (op := 0x11) rfl rfl fun h => Width.left h
theorem Width.mulhu (f : SR) : Width.Statement (.mulhu f) :=
  Width.ofSR (op := 0x12) rfl rfl fun h => Width.left h
theorem Width.div (f : SR) : Width.Statement (.div f) :=
  Width.ofSR (op := 0x13) rfl rfl fun h => Width.left h
theorem Width.divu (f : SR) : Width.Statement (.divu f) :=
  Width.ofSR (op := 0x14) rfl rfl fun h => Width.left h
theorem Width.rem (f : SR) : Width.Statement (.rem f) :=
  Width.ofSR (op := 0x15) rfl rfl fun h => Width.left h
theorem Width.remu (f : SR) : Width.Statement (.remu f) :=
  Width.ofSR (op := 0x16) rfl rfl fun h => Width.left h
theorem Width.addi (f : SI) : Width.Statement (.addi f) :=
  Width.ofSI (op := 0x20) rfl rfl fun h => h
theorem Width.andi (f : SI) : Width.Statement (.andi f) :=
  Width.ofSI (op := 0x21) rfl rfl fun h => h
theorem Width.ori (f : SI) : Width.Statement (.ori f) :=
  Width.ofSI (op := 0x22) rfl rfl fun h => h
theorem Width.xori (f : SI) : Width.Statement (.xori f) :=
  Width.ofSI (op := 0x23) rfl rfl fun h => h
theorem Width.shli (f : SI) : Width.Statement (.shli f) :=
  Width.ofSI (op := 0x24) rfl rfl fun h => Width.left h
theorem Width.shri (f : SI) : Width.Statement (.shri f) :=
  Width.ofSI (op := 0x25) rfl rfl fun h => Width.left h
theorem Width.sari (f : SI) : Width.Statement (.sari f) :=
  Width.ofSI (op := 0x26) rfl rfl fun h => Width.left h
theorem Width.lui (f : SU) : Width.Statement (.lui f) :=
  Width.ofSU (op := 0x27) rfl rfl fun h => h
theorem Width.cmpiEq (f : SI) : Width.Statement (.cmpiEq f) :=
  Width.ofSI (op := 0x28) rfl rfl fun h => Width.left h
theorem Width.cmpiNe (f : SI) : Width.Statement (.cmpiNe f) :=
  Width.ofSI (op := 0x29) rfl rfl fun h => Width.left h
theorem Width.cmpiLt (f : SI) : Width.Statement (.cmpiLt f) :=
  Width.ofSI (op := 0x2A) rfl rfl fun h => Width.left h
theorem Width.cmpiGe (f : SI) : Width.Statement (.cmpiGe f) :=
  Width.ofSI (op := 0x2B) rfl rfl fun h => Width.left h
theorem Width.cmpiLtu (f : SI) : Width.Statement (.cmpiLtu f) :=
  Width.ofSI (op := 0x2C) rfl rfl fun h => Width.left h
theorem Width.cmpiGeu (f : SI) : Width.Statement (.cmpiGeu f) :=
  Width.ofSI (op := 0x2D) rfl rfl fun h => Width.left h
theorem Width.cmpEq (f : SR) : Width.Statement (.cmpEq f) :=
  Width.ofSR (op := 0x2E) rfl rfl fun h => Width.left (Width.left h)
theorem Width.cmpNe (f : SR) : Width.Statement (.cmpNe f) :=
  Width.ofSR (op := 0x2E) rfl rfl fun h => Width.left (Width.left h)
theorem Width.cmpLt (f : SR) : Width.Statement (.cmpLt f) :=
  Width.ofSR (op := 0x2E) rfl rfl fun h => Width.left (Width.left h)
theorem Width.cmpGe (f : SR) : Width.Statement (.cmpGe f) :=
  Width.ofSR (op := 0x2E) rfl rfl fun h => Width.left (Width.left h)
theorem Width.cmpLtu (f : SR) : Width.Statement (.cmpLtu f) :=
  Width.ofSR (op := 0x2E) rfl rfl fun h => Width.left (Width.left h)
theorem Width.cmpGeu (f : SR) : Width.Statement (.cmpGeu f) :=
  Width.ofSR (op := 0x2E) rfl rfl fun h => Width.left (Width.left h)
theorem Width.gand (f : SR) : Width.Statement (.gand f) :=
  Width.ofSR (op := 0x2F) rfl rfl fun h => Width.left (Width.left (Width.left (Width.left h)))
theorem Width.gor (f : SR) : Width.Statement (.gor f) :=
  Width.ofSR (op := 0x30) rfl rfl fun h => Width.left (Width.left (Width.left (Width.left h)))
theorem Width.gxor (f : SR) : Width.Statement (.gxor f) :=
  Width.ofSR (op := 0x31) rfl rfl fun h => Width.left (Width.left (Width.left (Width.left h)))
theorem Width.gtos (f : SR) : Width.Statement (.gtos f) :=
  Width.ofSR (op := 0x32) rfl rfl fun h => Width.left (Width.left (Width.left h))
theorem Width.stog (f : SR) : Width.Statement (.stog f) :=
  Width.ofSR (op := 0x33) rfl rfl fun h => Width.left (Width.left (Width.left h))
theorem Width.br (f : SB) : Width.Statement (.br f) :=
  Width.ofSB (op := 0x40) rfl rfl fun h => h
theorem Width.call (f : SB) : Width.Statement (.call f) :=
  Width.ofSB (op := 0x41) rfl rfl fun h => h
theorem Width.ret (f : SB) : Width.Statement (.ret f) :=
  Width.ofSB (op := 0x42) rfl rfl fun h => Width.left h
theorem Width.segj (f : SB) : Width.Statement (.segj f) :=
  Width.ofSB (op := 0x43) rfl rfl fun h => h
theorem Width.loop (f : SL) : Width.Statement (.loop f) :=
  Width.ofSL (op := 0x44) rfl rfl fun h => Width.left (Width.left h)
theorem Width.loopi (f : SL) : Width.Statement (.loopi f) :=
  Width.ofSL (op := 0x45) rfl rfl fun h => Width.left h
theorem Width.rdsr (f : SY) : Width.Statement (.rdsr f) :=
  Width.ofSY (op := 0x50) rfl rfl fun h => Width.left (Width.left h)
theorem Width.wrsr (f : SY) : Width.Statement (.wrsr f) :=
  Width.ofSY (op := 0x51) rfl rfl fun h => Width.left (Width.left h)
theorem Width.pgrd (f : SY) : Width.Statement (.pgrd f) :=
  Width.ofSY (op := 0x52) rfl rfl fun h => Width.left (Width.left h)
theorem Width.pgwr (f : SY) : Width.Statement (.pgwr f) :=
  Width.ofSY (op := 0x53) rfl rfl fun h => Width.left (Width.left (Width.left h))
theorem Width.trap (f : SY) : Width.Statement (.trap f) :=
  Width.ofSY (op := 0x54) rfl rfl fun h => Width.left (Width.left h)
theorem Width.endI (f : SY) : Width.Statement (.endI f) :=
  Width.ofSY (op := 0x55) rfl rfl fun h => Width.left (Width.left (Width.left h))
theorem Width.trd (f : SY) : Width.Statement (.trd f) :=
  Width.ofSY (op := 0x60) rfl rfl fun h => Width.left (Width.left h)
theorem Width.twait (f : SR) : Width.Statement (.twait f) :=
  Width.ofSR (op := 0x61) rfl rfl fun h => Width.left (Width.left h)
theorem Width.tchk (f : SR) : Width.Statement (.tchk f) :=
  Width.ofSR (op := 0x62) rfl rfl fun h => Width.left (Width.left h)
theorem Width.solo (f : SY) : Width.Statement (.solo f) :=
  Width.ofSY (op := 0x63) rfl rfl fun h => Width.left (Width.left h)
theorem Width.binit (f : SY) : Width.Statement (.binit f) :=
  Width.ofSY (op := 0x64) rfl rfl fun h => Width.left (Width.left h)
theorem Width.barr (f : SY) : Width.Statement (.barr f) :=
  Width.ofSY (op := 0x65) rfl rfl fun h => Width.left (Width.left h)
theorem Width.bchk (f : SY) : Width.Statement (.bchk f) :=
  Width.ofSY (op := 0x66) rfl rfl fun h => Width.left (Width.left (Width.left h))
theorem Width.spawn (f : SY) : Width.Statement (.spawn f) :=
  Width.ofSY (op := 0x67) rfl rfl fun h => Width.left (Width.left (Width.left h))
theorem Width.acqsW (f : SY) : Width.Statement (.acqsW f) :=
  Width.ofSY (op := 0x68) rfl rfl fun h => Width.left (Width.left (Width.left h))
theorem Width.acqsR (f : SY) : Width.Statement (.acqsR f) :=
  Width.ofSY (op := 0x69) rfl rfl fun h => Width.left (Width.left (Width.left h))
theorem Width.relsW (f : SY) : Width.Statement (.relsW f) :=
  Width.ofSY (op := 0x6A) rfl rfl fun h => Width.left (Width.left (Width.left h))
theorem Width.relsR (f : SY) : Width.Statement (.relsR f) :=
  Width.ofSY (op := 0x6B) rfl rfl fun h => Width.left (Width.left (Width.left h))
theorem Width.ckpt (f : SY) : Width.Statement (.ckpt f) :=
  Width.ofSY (op := 0x6C) rfl rfl fun h => Width.left (Width.left (Width.left h))
theorem Width.fsyn (f : SY) : Width.Statement (.fsyn f) :=
  Width.ofSY (op := 0x6D) rfl rfl fun h => Width.left (Width.left h)
theorem Width.plil (f : LP) : Width.Statement (.plil f) :=
  Width.ofLP (op := 0x01) rfl rfl fun h => Width.left h
theorem Width.plih (f : LP) : Width.Statement (.plih f) :=
  Width.ofLP (op := 0x02) rfl rfl fun h => Width.left h
theorem Width.padd (f : LP) : Width.Statement (.padd f) :=
  Width.ofLP (op := 0x03) rfl rfl fun h => Width.left h
theorem Width.paddi (f : LP) : Width.Statement (.paddi f) :=
  Width.ofLP (op := 0x04) rfl rfl fun h => h
theorem Width.pmov (f : LP) : Width.Statement (.pmov f) :=
  Width.ofLP (op := 0x05) rfl rfl fun h => Width.left h
theorem Width.ldw (f : LM) : Width.Statement (.ldw f) :=
  Width.ofLM (op := 0x10) rfl rfl fun h => h
theorem Width.ldr (f : LM) : Width.Statement (.ldr f) :=
  Width.ofLM (op := 0x11) rfl rfl fun h => h
theorem Width.ldh (f : LM) : Width.Statement (.ldh f) :=
  Width.ofLM (op := 0x12) rfl rfl fun h => h
theorem Width.ldv (f : LM) : Width.Statement (.ldv f) :=
  Width.ofLM (op := 0x13) rfl rfl fun h => h
theorem Width.stw (f : LM) : Width.Statement (.stw f) :=
  Width.ofLM (op := 0x14) rfl rfl fun h => h
theorem Width.str (f : LM) : Width.Statement (.str f) :=
  Width.ofLM (op := 0x15) rfl rfl fun h => h
theorem Width.sth (f : LM) : Width.Statement (.sth f) :=
  Width.ofLM (op := 0x16) rfl rfl fun h => h
theorem Width.stv (f : LM) : Width.Statement (.stv f) :=
  Width.ofLM (op := 0x17) rfl rfl fun h => h
theorem Width.ldq (f : LM) : Width.Statement (.ldq f) :=
  Width.ofLM (op := 0x18) rfl rfl fun h => Width.left h
theorem Width.ldt (f : LA) : Width.Statement (.ldt f) :=
  Width.ofLA (op := 0x19) rfl rfl fun h => h
theorem Width.stnt (f : LM) : Width.Statement (.stnt f) :=
  Width.ofLM (op := 0x1A) rfl rfl fun h => h
theorem Width.drain (f : LM) : Width.Statement (.drain f) :=
  Width.ofLM (op := 0x1B) rfl rfl fun h => Width.left (Width.left (Width.left h))
theorem Width.ldg (f : LX) : Width.Statement (.ldg f) :=
  Width.ofLX (op := 0x20) rfl rfl fun h => Width.left h
theorem Width.stg (f : LX) : Width.Statement (.stg f) :=
  Width.ofLX (op := 0x21) rfl rfl fun h => Width.left h
theorem Width.stg16 (f : LX) : Width.Statement (.stg16 f) :=
  Width.ofLX (op := 0x22) rfl rfl fun h => Width.left h
theorem Width.amoAdd (f : LA) : Width.Statement (.amoAdd f) :=
  Width.ofLA (op := 0x28) rfl rfl fun h => h
theorem Width.amoMin (f : LA) : Width.Statement (.amoMin f) :=
  Width.ofLA (op := 0x29) rfl rfl fun h => h
theorem Width.amoMax (f : LA) : Width.Statement (.amoMax f) :=
  Width.ofLA (op := 0x2A) rfl rfl fun h => h
theorem Width.amoSwap (f : LA) : Width.Statement (.amoSwap f) :=
  Width.ofLA (op := 0x2B) rfl rfl fun h => h
theorem Width.amoCas (f : LA) : Width.Statement (.amoCas f) :=
  Width.ofLA (op := 0x2C) rfl rfl fun h => h
theorem Width.agset (f : LG) : Width.Statement (.agset f) :=
  Width.ofLG (op := 0x30) rfl rfl fun h => Width.left (Width.left h)
theorem Width.agadv (f : LG) : Width.Statement (.agadv f) :=
  Width.ofLG (op := 0x31) rfl rfl fun h => Width.left (Width.left h)
theorem Width.lda (f : LG) : Width.Statement (.lda f) :=
  Width.ofLG (op := 0x32) rfl rfl fun h => Width.left h
theorem Width.sta (f : LG) : Width.Statement (.sta f) :=
  Width.ofLG (op := 0x33) rfl rfl fun h => Width.left h
theorem Width.fadd (f : VR) : Width.Statement (.fadd f) :=
  Width.ofVR (op := 0x01) rfl rfl fun h => Width.left (Width.left (Width.left (Width.left (Width.left h))))
theorem Width.fsub (f : VR) : Width.Statement (.fsub f) :=
  Width.ofVR (op := 0x02) rfl rfl fun h => Width.left (Width.left (Width.left (Width.left (Width.left h))))
theorem Width.fmul (f : VR) : Width.Statement (.fmul f) :=
  Width.ofVR (op := 0x03) rfl rfl fun h => Width.left (Width.left (Width.left (Width.left (Width.left h))))
theorem Width.fmin (f : VR) : Width.Statement (.fmin f) :=
  Width.ofVR (op := 0x04) rfl rfl fun h => Width.left (Width.left (Width.left (Width.left (Width.left h))))
theorem Width.fmax (f : VR) : Width.Statement (.fmax f) :=
  Width.ofVR (op := 0x05) rfl rfl fun h => Width.left (Width.left (Width.left (Width.left (Width.left h))))
theorem Width.fabs (f : VR) : Width.Statement (.fabs f) :=
  Width.ofVR (op := 0x06) rfl rfl fun h => Width.left (Width.left (Width.left (Width.left (Width.left h))))
theorem Width.fneg (f : VR) : Width.Statement (.fneg f) :=
  Width.ofVR (op := 0x07) rfl rfl fun h => Width.left (Width.left (Width.left (Width.left (Width.left h))))
theorem Width.fcps (f : VR) : Width.Statement (.fcps f) :=
  Width.ofVR (op := 0x08) rfl rfl fun h => Width.left (Width.left (Width.left (Width.left (Width.left h))))
theorem Width.fcmpEq (f : VR) : Width.Statement (.fcmpEq f) :=
  Width.ofVR (op := 0x09) rfl rfl fun h => Width.left (Width.left (Width.left (Width.left (Width.left h))))
theorem Width.fcmpNe (f : VR) : Width.Statement (.fcmpNe f) :=
  Width.ofVR (op := 0x09) rfl rfl fun h => Width.left (Width.left (Width.left (Width.left (Width.left h))))
theorem Width.fcmpLt (f : VR) : Width.Statement (.fcmpLt f) :=
  Width.ofVR (op := 0x09) rfl rfl fun h => Width.left (Width.left (Width.left (Width.left (Width.left h))))
theorem Width.fcmpLe (f : VR) : Width.Statement (.fcmpLe f) :=
  Width.ofVR (op := 0x09) rfl rfl fun h => Width.left (Width.left (Width.left (Width.left (Width.left h))))
theorem Width.fcmpUn (f : VR) : Width.Statement (.fcmpUn f) :=
  Width.ofVR (op := 0x09) rfl rfl fun h => Width.left (Width.left (Width.left (Width.left (Width.left h))))
theorem Width.fclass (f : VR) : Width.Statement (.fclass f) :=
  Width.ofVR (op := 0x0A) rfl rfl fun h => Width.left (Width.left (Width.left (Width.left (Width.left h))))
theorem Width.fsel (f : VR) : Width.Statement (.fsel f) :=
  Width.ofVR (op := 0x0B) rfl rfl fun h => Width.left (Width.left (Width.left (Width.left (Width.left h))))
theorem Width.fma (f : VF) : Width.Statement (.fma f) :=
  Width.ofVF (op := 0x0C) rfl rfl fun h => Width.left (Width.left (Width.left (Width.left h)))
theorem Width.fms (f : VF) : Width.Statement (.fms f) :=
  Width.ofVF (op := 0x0D) rfl rfl fun h => Width.left (Width.left (Width.left (Width.left h)))
theorem Width.fnma (f : VF) : Width.Statement (.fnma f) :=
  Width.ofVF (op := 0x0E) rfl rfl fun h => Width.left (Width.left (Width.left (Width.left h)))
theorem Width.iadd (f : VR) : Width.Statement (.iadd f) :=
  Width.ofVR (op := 0x10) rfl rfl fun h => Width.left (Width.left (Width.left (Width.left (Width.left h))))
theorem Width.isub (f : VR) : Width.Statement (.isub f) :=
  Width.ofVR (op := 0x11) rfl rfl fun h => Width.left (Width.left (Width.left (Width.left (Width.left h))))
theorem Width.imul (f : VR) : Width.Statement (.imul f) :=
  Width.ofVR (op := 0x12) rfl rfl fun h => Width.left (Width.left (Width.left (Width.left (Width.left h))))
theorem Width.imulh (f : VR) : Width.Statement (.imulh f) :=
  Width.ofVR (op := 0x13) rfl rfl fun h => Width.left (Width.left (Width.left (Width.left (Width.left h))))
theorem Width.imin (f : VR) : Width.Statement (.imin f) :=
  Width.ofVR (op := 0x14) rfl rfl fun h => Width.left (Width.left (Width.left (Width.left (Width.left h))))
theorem Width.imax (f : VR) : Width.Statement (.imax f) :=
  Width.ofVR (op := 0x15) rfl rfl fun h => Width.left (Width.left (Width.left (Width.left (Width.left h))))
theorem Width.iand (f : VR) : Width.Statement (.iand f) :=
  Width.ofVR (op := 0x16) rfl rfl fun h => Width.left (Width.left (Width.left (Width.left (Width.left h))))
theorem Width.ior (f : VR) : Width.Statement (.ior f) :=
  Width.ofVR (op := 0x17) rfl rfl fun h => Width.left (Width.left (Width.left (Width.left (Width.left h))))
theorem Width.ixor (f : VR) : Width.Statement (.ixor f) :=
  Width.ofVR (op := 0x18) rfl rfl fun h => Width.left (Width.left (Width.left (Width.left (Width.left h))))
theorem Width.ishl (f : VR) : Width.Statement (.ishl f) :=
  Width.ofVR (op := 0x19) rfl rfl fun h => Width.left (Width.left (Width.left (Width.left (Width.left h))))
theorem Width.ishr (f : VR) : Width.Statement (.ishr f) :=
  Width.ofVR (op := 0x1A) rfl rfl fun h => Width.left (Width.left (Width.left (Width.left (Width.left h))))
theorem Width.isar (f : VR) : Width.Statement (.isar f) :=
  Width.ofVR (op := 0x1B) rfl rfl fun h => Width.left (Width.left (Width.left (Width.left (Width.left h))))
theorem Width.icmpEq (f : VR) : Width.Statement (.icmpEq f) :=
  Width.ofVR (op := 0x1C) rfl rfl fun h => Width.left (Width.left (Width.left (Width.left (Width.left h))))
theorem Width.icmpNe (f : VR) : Width.Statement (.icmpNe f) :=
  Width.ofVR (op := 0x1C) rfl rfl fun h => Width.left (Width.left (Width.left (Width.left (Width.left h))))
theorem Width.icmpLt (f : VR) : Width.Statement (.icmpLt f) :=
  Width.ofVR (op := 0x1C) rfl rfl fun h => Width.left (Width.left (Width.left (Width.left (Width.left h))))
theorem Width.icmpGe (f : VR) : Width.Statement (.icmpGe f) :=
  Width.ofVR (op := 0x1C) rfl rfl fun h => Width.left (Width.left (Width.left (Width.left (Width.left h))))
theorem Width.icmpLtu (f : VR) : Width.Statement (.icmpLtu f) :=
  Width.ofVR (op := 0x1C) rfl rfl fun h => Width.left (Width.left (Width.left (Width.left (Width.left h))))
theorem Width.icmpGeu (f : VR) : Width.Statement (.icmpGeu f) :=
  Width.ofVR (op := 0x1C) rfl rfl fun h => Width.left (Width.left (Width.left (Width.left (Width.left h))))
theorem Width.iaddi (f : VI) : Width.Statement (.iaddi f) :=
  Width.ofVI (op := 0x20) rfl rfl fun h => Width.left (Width.left h)
theorem Width.iandi (f : VI) : Width.Statement (.iandi f) :=
  Width.ofVI (op := 0x21) rfl rfl fun h => Width.left (Width.left h)
theorem Width.iori (f : VI) : Width.Statement (.iori f) :=
  Width.ofVI (op := 0x22) rfl rfl fun h => Width.left (Width.left h)
theorem Width.ixori (f : VI) : Width.Statement (.ixori f) :=
  Width.ofVI (op := 0x23) rfl rfl fun h => Width.left (Width.left h)
theorem Width.ishli (f : VI) : Width.Statement (.ishli f) :=
  Width.ofVI (op := 0x24) rfl rfl fun h => Width.left (Width.left (Width.left h))
theorem Width.ishri (f : VI) : Width.Statement (.ishri f) :=
  Width.ofVI (op := 0x25) rfl rfl fun h => Width.left (Width.left (Width.left h))
theorem Width.isari (f : VI) : Width.Statement (.isari f) :=
  Width.ofVI (op := 0x26) rfl rfl fun h => Width.left (Width.left (Width.left h))
theorem Width.vli (f : VU) : Width.Statement (.vli f) :=
  Width.ofVU (op := 0x28) rfl rfl fun h => Width.left h
theorem Width.viota (f : VR) : Width.Statement (.viota f) :=
  Width.ofVR (op := 0x29) rfl rfl fun h => Width.left (Width.left (Width.left (Width.left (Width.left h))))
theorem Width.vperm (f : VR) : Width.Statement (.vperm f) :=
  Width.ofVR (op := 0x2A) rfl rfl fun h => Width.left (Width.left (Width.left (Width.left (Width.left h))))
theorem Width.vrot (f : VI) : Width.Statement (.vrot f) :=
  Width.ofVI (op := 0x2B) rfl rfl fun h => Width.left (Width.left (Width.left h))
theorem Width.vbcastl (f : VI) : Width.Statement (.vbcastl f) :=
  Width.ofVI (op := 0x2C) rfl rfl fun h => Width.left (Width.left (Width.left h))
theorem Width.vrsum (f : VR) : Width.Statement (.vrsum f) :=
  Width.ofVR (op := 0x30) rfl rfl fun h => Width.left (Width.left (Width.left (Width.left (Width.left h))))
theorem Width.vrmax (f : VR) : Width.Statement (.vrmax f) :=
  Width.ofVR (op := 0x31) rfl rfl fun h => Width.left (Width.left (Width.left (Width.left (Width.left h))))
theorem Width.vrmin (f : VR) : Width.Statement (.vrmin f) :=
  Width.ofVR (op := 0x32) rfl rfl fun h => Width.left (Width.left (Width.left (Width.left (Width.left h))))
theorem Width.vrsumg (f : VR) : Width.Statement (.vrsumg f) :=
  Width.ofVR (op := 0x33) rfl rfl fun h => Width.left (Width.left (Width.left (Width.left (Width.left h))))
theorem Width.vstat (f : VR) : Width.Statement (.vstat f) :=
  Width.ofVR (op := 0x34) rfl rfl fun h => Width.left (Width.left (Width.left (Width.left (Width.left h))))
theorem Width.cvtBf16F32 (f : VR) : Width.Statement (.cvtBf16F32 f) :=
  Width.ofVR (op := 0x38) rfl rfl fun h => Width.left (Width.left (Width.left (Width.left (Width.left h))))
theorem Width.cvtF32Bf16 (f : VR) : Width.Statement (.cvtF32Bf16 f) :=
  Width.ofVR (op := 0x38) rfl rfl fun h => Width.left (Width.left (Width.left (Width.left (Width.left h))))
theorem Width.cvtE4m3F32 (f : VR) : Width.Statement (.cvtE4m3F32 f) :=
  Width.ofVR (op := 0x38) rfl rfl fun h => Width.left (Width.left (Width.left (Width.left (Width.left h))))
theorem Width.cvtF32E4m3 (f : VR) : Width.Statement (.cvtF32E4m3 f) :=
  Width.ofVR (op := 0x38) rfl rfl fun h => Width.left (Width.left (Width.left (Width.left (Width.left h))))
theorem Width.cvtE5m2F32 (f : VR) : Width.Statement (.cvtE5m2F32 f) :=
  Width.ofVR (op := 0x38) rfl rfl fun h => Width.left (Width.left (Width.left (Width.left (Width.left h))))
theorem Width.cvtF32E5m2 (f : VR) : Width.Statement (.cvtF32E5m2 f) :=
  Width.ofVR (op := 0x38) rfl rfl fun h => Width.left (Width.left (Width.left (Width.left (Width.left h))))
theorem Width.cvtI32F32 (f : VR) : Width.Statement (.cvtI32F32 f) :=
  Width.ofVR (op := 0x38) rfl rfl fun h => Width.left (Width.left (Width.left (Width.left (Width.left h))))
theorem Width.cvtF32I32 (f : VR) : Width.Statement (.cvtF32I32 f) :=
  Width.ofVR (op := 0x38) rfl rfl fun h => Width.left (Width.left (Width.left (Width.left (Width.left h))))
theorem Width.cvtmx8 (f : VR) : Width.Statement (.cvtmx8 f) :=
  Width.ofVR (op := 0x39) rfl rfl fun h => Width.left (Width.left (Width.left (Width.left (Width.left h))))
theorem Width.cvtmx4 (f : VR) : Width.Statement (.cvtmx4 f) :=
  Width.ofVR (op := 0x3A) rfl rfl fun h => Width.left (Width.left (Width.left (Width.left (Width.left h))))
theorem Width.unmx (f : VR) : Width.Statement (.unmx f) :=
  Width.ofVR (op := 0x3B) rfl rfl fun h => Width.left (Width.left (Width.left (Width.left (Width.left h))))
theorem Width.cb4dec (f : VR) : Width.Statement (.cb4dec f) :=
  Width.ofVR (op := 0x3C) rfl rfl fun h => Width.left (Width.left (Width.left (Width.left (Width.left h))))
theorem Width.cb4enc (f : VR) : Width.Statement (.cb4enc f) :=
  Width.ofVR (op := 0x3D) rfl rfl fun h => Width.left (Width.left (Width.left (Width.left (Width.left h))))
theorem Width.exp (f : VR) : Width.Statement (.exp f) :=
  Width.ofVR (op := 0x40) rfl rfl fun h => Width.left (Width.left (Width.left (Width.left (Width.left h))))
theorem Width.log (f : VR) : Width.Statement (.log f) :=
  Width.ofVR (op := 0x41) rfl rfl fun h => Width.left (Width.left (Width.left (Width.left (Width.left h))))
theorem Width.rcp (f : VR) : Width.Statement (.rcp f) :=
  Width.ofVR (op := 0x42) rfl rfl fun h => Width.left (Width.left (Width.left (Width.left (Width.left h))))
theorem Width.rsq (f : VR) : Width.Statement (.rsq f) :=
  Width.ofVR (op := 0x43) rfl rfl fun h => Width.left (Width.left (Width.left (Width.left (Width.left h))))
theorem Width.tiel (f : VR) : Width.Statement (.tiel f) :=
  Width.ofVR (op := 0x44) rfl rfl fun h => Width.left (Width.left (Width.left (Width.left (Width.left h))))
theorem Width.tiev (f : VR) : Width.Statement (.tiev f) :=
  Width.ofVR (op := 0x45) rfl rfl fun h => Width.left (Width.left (Width.left (Width.left (Width.left h))))
theorem Width.vrng (f : VR) : Width.Statement (.vrng f) :=
  Width.ofVR (op := 0x48) rfl rfl fun h => Width.left (Width.left (Width.left (Width.left (Width.left h))))
theorem Width.vrngk (f : VR) : Width.Statement (.vrngk f) :=
  Width.ofVR (op := 0x49) rfl rfl fun h => Width.left (Width.left (Width.left (Width.left (Width.left h))))
theorem Width.vrngc (f : VR) : Width.Statement (.vrngc f) :=
  Width.ofVR (op := 0x4A) rfl rfl fun h => Width.left (Width.left (Width.left (Width.left (Width.left h))))
theorem Width.vskip (f : VR) : Width.Statement (.vskip f) :=
  Width.ofVR (op := 0x4B) rfl rfl fun h => Width.left (Width.left (Width.left (Width.left (Width.left h))))
theorem Width.mand (f : VR) : Width.Statement (.mand f) :=
  Width.ofVR (op := 0x50) rfl rfl fun h => Width.left (Width.left (Width.left (Width.left (Width.left (Width.left h)))))
theorem Width.mor (f : VR) : Width.Statement (.mor f) :=
  Width.ofVR (op := 0x51) rfl rfl fun h => Width.left (Width.left (Width.left (Width.left (Width.left (Width.left h)))))
theorem Width.mnot (f : VR) : Width.Statement (.mnot f) :=
  Width.ofVR (op := 0x52) rfl rfl fun h => Width.left (Width.left (Width.left (Width.left (Width.left (Width.left h)))))
theorem Width.mpop (f : VR) : Width.Statement (.mpop f) :=
  Width.ofVR (op := 0x53) rfl rfl fun h => Width.left (Width.left (Width.left (Width.left (Width.left (Width.left h)))))
theorem Width.cpy (f : XC) : Width.Statement (.cpy f) :=
  Width.ofXC (op := 0x01) rfl rfl fun h => Width.left (Width.left (Width.left h))
theorem Width.cpyl (f : XC) : Width.Statement (.cpyl f) :=
  Width.ofXC (op := 0x02) rfl rfl fun h => Width.left (Width.left h)
theorem Width.cbc (f : XC) : Width.Statement (.cbc f) :=
  Width.ofXC (op := 0x03) rfl rfl fun h => Width.left (Width.left (Width.left h))
theorem Width.cpm (f : XC) : Width.Statement (.cpm f) :=
  Width.ofXC (op := 0x04) rfl rfl fun h => Width.left (Width.left (Width.left h))
theorem Width.qpop (f : XC) : Width.Statement (.qpop f) :=
  Width.ofXC (op := 0x05) rfl rfl fun h => Width.left (Width.left (Width.left h))
theorem Width.qpeek (f : XC) : Width.Statement (.qpeek f) :=
  Width.ofXC (op := 0x06) rfl rfl fun h => Width.left (Width.left (Width.left h))
theorem Width.qpush (f : XC) : Width.Statement (.qpush f) :=
  Width.ofXC (op := 0x07) rfl rfl fun h => Width.left (Width.left (Width.left (Width.left h)))
theorem Width.cpyp (f : XC) : Width.Statement (.cpyp f) :=
  Width.ofXC (op := 0x08) rfl rfl fun h => Width.left (Width.left (Width.left (Width.left (Width.left h))))
theorem Width.slatch (f : MXF) : Width.Statement (.slatch f) :=
  Width.ofMXF (op := 0x01) rfl rfl fun h => Width.left (Width.left (Width.left (Width.left (Width.left (Width.left h)))))
theorem Width.sswap (f : MXF) : Width.Statement (.sswap f) :=
  Width.ofMXF (op := 0x02) rfl rfl fun h => Width.left (Width.left (Width.left (Width.left h)))
theorem Width.spush (f : MXF) : Width.Statement (.spush f) :=
  Width.ofMXF (op := 0x03) rfl rfl fun h => Width.left (Width.left (Width.left (Width.left (Width.left h))))
theorem Width.sshift (f : MXF) : Width.Statement (.sshift f) :=
  Width.ofMXF (op := 0x04) rfl rfl fun h => Width.left (Width.left (Width.left (Width.left h)))
theorem Width.vopa (f : MXF) : Width.Statement (.vopa f) :=
  Width.ofMXF (op := 0x08) rfl rfl fun h => Width.left (Width.left (Width.left (Width.left (Width.left (Width.left (Width.left (Width.left h)))))))
theorem Width.vzero (f : MXF) : Width.Statement (.vzero f) :=
  Width.ofMXF (op := 0x09) rfl rfl fun h => Width.left (Width.left (Width.left (Width.left h)))
theorem Width.vdrain (f : MXF) : Width.Statement (.vdrain f) :=
  Width.ofMXF (op := 0x0A) rfl rfl fun h => Width.left (Width.left (Width.left (Width.left (Width.left h))))
theorem Width.svpair (f : MXF) : Width.Statement (.svpair f) :=
  Width.ofMXF (op := 0x0B) rfl rfl fun h => Width.left (Width.left (Width.left (Width.left (Width.left (Width.left h)))))
theorem Width.cbld (f : MXF) : Width.Statement (.cbld f) :=
  Width.ofMXF (op := 0x0C) rfl rfl fun h => Width.left (Width.left (Width.left (Width.left (Width.left h))))
theorem Width.chs (f : MXF) : Width.Statement (.chs f) :=
  Width.ofMXF (op := 0x10) rfl rfl fun h => Width.left (Width.left (Width.left (Width.left h)))
theorem Width.chb (f : MXF) : Width.Statement (.chb f) :=
  Width.ofMXF (op := 0x11) rfl rfl fun h => Width.left (Width.left (Width.left (Width.left (Width.left (Width.left h)))))
theorem Width.chn (f : MXF) : Width.Statement (.chn f) :=
  Width.ofMXF (op := 0x12) rfl rfl fun h => Width.left (Width.left (Width.left (Width.left (Width.left h))))
theorem Width.chsv (f : MXF) : Width.Statement (.chsv f) :=
  Width.ofMXF (op := 0x13) rfl rfl fun h => Width.left (Width.left (Width.left (Width.left (Width.left h))))
theorem Width.chld (f : MXF) : Width.Statement (.chld f) :=
  Width.ofMXF (op := 0x14) rfl rfl fun h => Width.left (Width.left (Width.left (Width.left (Width.left (Width.left h)))))
theorem Width.shp (f : TEF) : Width.Statement (.shp f) :=
  Width.ofTEF (op := 0x01) rfl rfl fun h => Width.left h
theorem Width.tagset (f : TEF) : Width.Statement (.tagset f) :=
  Width.ofTEF (op := 0x02) rfl rfl fun h => Width.left (Width.left h)
theorem Width.xfer (f : TEF) : Width.Statement (.xfer f) :=
  Width.ofTEF (op := 0x08) rfl rfl fun h => Width.left h
theorem Width.xferq (f : TEF) : Width.Statement (.xferq f) :=
  Width.ofTEF (op := 0x09) rfl rfl fun h => Width.left h
theorem Width.xstore (f : TEF) : Width.Statement (.xstore f) :=
  Width.ofTEF (op := 0x0A) rfl rfl fun h => Width.left h
theorem Width.tlist (f : TEF) : Width.Statement (.tlist f) :=
  Width.ofTEF (op := 0x0B) rfl rfl fun h => Width.left h
theorem Width.xred (f : TEF) : Width.Statement (.xred f) :=
  Width.ofTEF (op := 0x10) rfl rfl fun h => Width.left h
theorem Width.xacc (f : TEF) : Width.Statement (.xacc f) :=
  Width.ofTEF (op := 0x11) rfl rfl fun h => Width.left h
theorem Width.xmc (f : TEF) : Width.Statement (.xmc f) :=
  Width.ofTEF (op := 0x12) rfl rfl fun h => Width.left h
theorem Width.mkcfg (f : TEF) : Width.Statement (.mkcfg f) :=
  Width.ofTEF (op := 0x18) rfl rfl fun h => Width.left h
theorem Width.pptld (f : TEF) : Width.Statement (.pptld f) :=
  Width.ofTEF (op := 0x19) rfl rfl fun h => Width.left h
theorem Width.vbmld (f : TEF) : Width.Statement (.vbmld f) :=
  Width.ofTEF (op := 0x1A) rfl rfl fun h => Width.left h
theorem Width.nmc (f : TEF) : Width.Statement (.nmc f) :=
  Width.ofTEF (op := 0x20) rfl rfl fun h => Width.left (Width.left h)
theorem Width.nmfence (f : TEF) : Width.Statement (.nmfence f) :=
  Width.ofTEF (op := 0x21) rfl rfl fun h => Width.left (Width.left h)
theorem Width.lsend (f : TEF) : Width.Statement (.lsend f) :=
  Width.ofTEF (op := 0x28) rfl rfl fun h => Width.left h
theorem Width.lfwd (f : TEF) : Width.Statement (.lfwd f) :=
  Width.ofTEF (op := 0x29) rfl rfl fun h => Width.left h
theorem Width.bundleIssue : Width.Statement .bundleIssue := fun _ _ h => nomatch h
theorem Width.segmentExpansion : Width.Statement .segmentExpansion := fun _ _ h => nomatch h
theorem Width.registerWrite : Width.Statement .registerWrite := fun _ _ h => nomatch h
theorem Width.ldAddressCheck : Width.Statement .ldAddressCheck := fun _ _ h => nomatch h
theorem Width.bankAccess : Width.Statement .bankAccess := fun _ _ h => nomatch h
theorem Width.queueLoadAppend : Width.Statement .queueLoadAppend := fun _ _ h => nomatch h
theorem Width.queuePushAppend : Width.Statement .queuePushAppend := fun _ _ h => nomatch h
theorem Width.pigeonholeWrite : Width.Statement .pigeonholeWrite := fun _ _ h => nomatch h
theorem Width.memorySlot : Width.Statement .memorySlot := fun _ _ h => nomatch h
theorem Width.deviceWritePerform : Width.Statement .deviceWritePerform := fun _ _ h => nomatch h
theorem Width.stntUnitWrite : Width.Statement .stntUnitWrite := fun _ _ h => nomatch h
theorem Width.drainCompletion : Width.Statement .drainCompletion := fun _ _ h => nomatch h
theorem Width.openSlotService : Width.Statement .openSlotService := fun _ _ h => nomatch h
theorem Width.barrierArrival : Width.Statement .barrierArrival := fun _ _ h => nomatch h
theorem Width.deliveryFault : Width.Statement .deliveryFault := fun _ _ h => nomatch h
theorem Width.spawnDelivery : Width.Statement .spawnDelivery := fun _ _ h => nomatch h
theorem Width.stagePerform : Width.Statement .stagePerform := fun _ _ h => nomatch h
theorem Width.twaitEnd : Width.Statement .twaitEnd := fun _ _ h => nomatch h
theorem Width.teCommandStart : Width.Statement .teCommandStart := fun _ _ h => nomatch h
theorem Width.engineElementIssue : Width.Statement .engineElementIssue := fun _ _ h => nomatch h
theorem Width.engineElementArrival : Width.Statement .engineElementArrival := fun _ _ h => nomatch h
theorem Width.engineFarWrite : Width.Statement .engineFarWrite := fun _ _ h => nomatch h
theorem Width.tlistEntryRead : Width.Statement .tlistEntryRead := fun _ _ h => nomatch h
theorem Width.windowAddition : Width.Statement .windowAddition := fun _ _ h => nomatch h
theorem Width.multicastDelivery : Width.Statement .multicastDelivery := fun _ _ h => nomatch h
theorem Width.configWrite : Width.Statement .configWrite := fun _ _ h => nomatch h
theorem Width.ancestryReplace : Width.Statement .ancestryReplace := fun _ _ h => nomatch h
theorem Width.nmcStart : Width.Statement .nmcStart := fun _ _ h => nomatch h
theorem Width.nmBlockRead : Width.Statement .nmBlockRead := fun _ _ h => nomatch h
theorem Width.nmBlockWrite : Width.Statement .nmBlockWrite := fun _ _ h => nomatch h
theorem Width.nmDataFault : Width.Statement .nmDataFault := fun _ _ h => nomatch h
theorem Width.shadowRowWrite : Width.Statement .shadowRowWrite := fun _ _ h => nomatch h
theorem Width.planeExchange : Width.Statement .planeExchange := fun _ _ h => nomatch h
theorem Width.scoreRowAppend : Width.Statement .scoreRowAppend := fun _ _ h => nomatch h
theorem Width.accumulatorUpdate : Width.Statement .accumulatorUpdate := fun _ _ h => nomatch h
theorem Width.accumulatorClear : Width.Statement .accumulatorClear := fun _ _ h => nomatch h
theorem Width.drainRowAppend : Width.Statement .drainRowAppend := fun _ _ h => nomatch h
theorem Width.codebookWrite : Width.Statement .codebookWrite := fun _ _ h => nomatch h
theorem Width.chainReset : Width.Statement .chainReset := fun _ _ h => nomatch h
theorem Width.chainValueRead : Width.Statement .chainValueRead := fun _ _ h => nomatch h
theorem Width.chainUpdate : Width.Statement .chainUpdate := fun _ _ h => nomatch h
theorem Width.normalisedRowAppend : Width.Statement .normalisedRowAppend := fun _ _ h => nomatch h
theorem Width.rowStateSaveAppend : Width.Statement .rowStateSaveAppend := fun _ _ h => nomatch h
theorem Width.rowStateLoad : Width.Statement .rowStateLoad := fun _ _ h => nomatch h
theorem Width.linkSendElement : Width.Statement .linkSendElement := fun _ _ h => nomatch h
theorem Width.linkForwardElement : Width.Statement .linkForwardElement := fun _ _ h => nomatch h
theorem Width.flitSlotPlacement : Width.Statement .flitSlotPlacement := fun _ _ h => nomatch h
theorem Width.flitLanding : Width.Statement .flitLanding := fun _ _ h => nomatch h
theorem Width.elasticOverrun : Width.Statement .elasticOverrun := fun _ _ h => nomatch h
theorem Width.groupRecess : Width.Statement .groupRecess := fun _ _ h => nomatch h
theorem Width.bell : Width.Statement .bell := fun _ _ h => nomatch h
theorem Width.hangDetected : Width.Statement .hangDetected := fun _ _ h => nomatch h
theorem Width.queuePromotion : Width.Statement .queuePromotion := fun _ _ h => nomatch h
theorem Width.partitionStart : Width.Statement .partitionStart := fun _ _ h => nomatch h
theorem Width.submissionCheck : Width.Statement .submissionCheck := fun _ _ h => nomatch h
theorem Width.launchRetirement : Width.Statement .launchRetirement := fun _ _ h => nomatch h
theorem Width.rollCallComplete : Width.Statement .rollCallComplete := fun _ _ h => nomatch h
theorem Width.launchFailure : Width.Statement .launchFailure := fun _ _ h => nomatch h
theorem Width.contextMove : Width.Statement .contextMove := fun _ _ h => nomatch h
theorem Width.storePark : Width.Statement .storePark := fun _ _ h => nomatch h
theorem Width.stackBandChange : Width.Statement .stackBandChange := fun _ _ h => nomatch h
theorem Width.dieBandChange : Width.Statement .dieBandChange := fun _ _ h => nomatch h
theorem Width.undervoltage : Width.Statement .undervoltage := fun _ _ h => nomatch h
theorem Width.errorLasting : Width.Statement .errorLasting := fun _ _ h => nomatch h
theorem Width.selfTest : Width.Statement .selfTest := fun _ _ h => nomatch h
theorem Width.coreReset : Width.Statement .coreReset := fun _ _ h => nomatch h
theorem Width.coreGating : Width.Statement .coreGating := fun _ _ h => nomatch h
theorem Width.imageStage : Width.Statement .imageStage := fun _ _ h => nomatch h
theorem Width.handoverOrder : Width.Statement .handoverOrder := fun _ _ h => nomatch h
theorem Width.handoverRecordComplete : Width.Statement .handoverRecordComplete := fun _ _ h => nomatch h
theorem Width.quiesceTimeout : Width.Statement .quiesceTimeout := fun _ _ h => nomatch h
theorem Width.heartbeat : Width.Statement .heartbeat := fun _ _ h => nomatch h
theorem Width.heartbeatDeadline : Width.Statement .heartbeatDeadline := fun _ _ h => nomatch h
theorem Width.abandonRequest : Width.Statement .abandonRequest := fun _ _ h => nomatch h
theorem Width.journalAppend : Width.Statement .journalAppend := fun _ _ h => nomatch h
theorem Width.probationCommit : Width.Statement .probationCommit := fun _ _ h => nomatch h
theorem Width.quoteRequest : Width.Statement .quoteRequest := fun _ _ h => nomatch h
theorem Width.submissionGo : Width.Statement .submissionGo := fun _ _ h => nomatch h
theorem Width.evtailWrite : Width.Statement .evtailWrite := fun _ _ h => nomatch h
theorem Width.pigeonholePageWrite : Width.Statement .pigeonholePageWrite := fun _ _ h => nomatch h
theorem Width.deviceWindowRead : Width.Statement .deviceWindowRead := fun _ _ h => nomatch h
theorem Width.deviceWindowWrite : Width.Statement .deviceWindowWrite := fun _ _ h => nomatch h
theorem Width.hostRegisterWrite : Width.Statement .hostRegisterWrite := fun _ _ h => nomatch h
theorem Width.groupAgreement : Width.Statement .groupAgreement := fun _ _ h => nomatch h
theorem Width.bringUp : Width.Statement .bringUp := fun _ _ h => nomatch h
theorem Width.createTenant : Width.Statement .createTenant := fun _ _ h => nomatch h
theorem Width.assignFunction : Width.Statement .assignFunction := fun _ _ h => nomatch h
theorem Width.setHostMap : Width.Statement .setHostMap := fun _ _ h => nomatch h
theorem Width.provisionKeySlot : Width.Statement .provisionKeySlot := fun _ _ h => nomatch h
theorem Width.assignChannelGroups : Width.Statement .assignChannelGroups := fun _ _ h => nomatch h
theorem Width.readTelemetry : Width.Statement .readTelemetry := fun _ _ h => nomatch h
theorem Width.readFlashLog : Width.Statement .readFlashLog := fun _ _ h => nomatch h
theorem Width.setIdeKeys : Width.Statement .setIdeKeys := fun _ _ h => nomatch h

end Sys2Proof.Laws
end

