-- ==== Sys2Proof/Tests/Slice0.lean ====
section
/-! SUPPORT. Tests: terms that the checks of well-formedness refuse, the words that the spec writes out, steps whose results
the spec gives as examples, and for every statement with hypotheses a state that meets them. -/
namespace Sys2Proof.Tests
open Sys2Proof Sys2Proof.Machine
set_option Elab.async false

/-- Partition 1 with the cores 0, 1, 8 and 96. -/
def part1 : Part := Part.fresh 1 0 [0, 1, 8, 96] 0 .running
/-- A package whose partition 1 holds the cores 0, 1, 8 and 96, with a word in one slot of core 0's bundle, and its
context changed by `f`. -/
def at_ (slot w : Nat) (f : Ctx → Ctx) : State :=
  (({ State.reset with parts := [part1] }.grant part1).beforeIn slot w).modCtx 0 f

/-- The pending steps that one step of the machine leaves: cycle and work. -/
def left (s : State) : List (Nat × Work) := match step s with
  | .next t => (t.due.drop s.due.length).map fun x => (x.due, x.what)
  | _ => []

/-- The s registers of a context from a list. -/
def withS (l : List (Nat × Word)) (x : Ctx) : Ctx := { x with s := l.foldl (fun v p => v.setIfInBounds p.1 p.2) x.s }
/-- A vector register of VA with its first lanes given. -/
def withA (n : Nat) (ws : List Word) (x : Ctx) : Ctx := { x with va := { x.va with regs := x.va.regs.setIfInBounds n (lanesOf ws) } }
def withP (n : Nat) (v : Ptr) (x : Ctx) : Ctx := { x with p := x.p.setIfInBounds n v }
def withD (n : Nat) (ws : List Word) (x : Ctx) : Ctx := { x with d := x.d.setIfInBounds n (lanesOf ws) }

def row (w : Word) : Row := { words := List.replicate 64 w, mark := none, poison := none }
def withQ (q : Nat) (rows : List Row) (x : Ctx) : Ctx := { x with queues := x.queues.setIfInBounds q rows }
/-- The same machine at another cycle. -/
def atT (t : Nat) (s : State) : State :=
  { s with gtc := t, cur := { s.cur with who := { s.cur.who with issue := t } } }

/-! ### Well-formedness: for each check, a term that only it refuses (R28, R29, R31 to R42) -/

theorem test_refused_SR : ([.add { sd := 32, sa := 0, sb := 0, g := 0, neg := false, fn := 0 },
    .add { sd := 0, sa := 32, sb := 0, g := 0, neg := false, fn := 0 },
    .add { sd := 0, sa := 0, sb := 32, g := 0, neg := false, fn := 0 },
    .add { sd := 0, sa := 0, sb := 0, g := 8, neg := false, fn := 0 },
    .add { sd := 0, sa := 0, sb := 0, g := 0, neg := false, fn := 1 },
    .clz { sd := 0, sa := 0, sb := 1, g := 0, neg := false, fn := 0 },
    .cmpEq { sd := 8, sa := 0, sb := 0, g := 0, neg := false, fn := 0 },
    .cmpNe { sd := 0, sa := 0, sb := 0, g := 0, neg := false, fn := 0 },
    .cmpLt { sd := 0, sa := 0, sb := 0, g := 0, neg := false, fn := 0 },
    .cmpGe { sd := 0, sa := 0, sb := 0, g := 0, neg := false, fn := 0 },
    .cmpLtu { sd := 0, sa := 0, sb := 0, g := 0, neg := false, fn := 0 },
    .cmpGeu { sd := 0, sa := 0, sb := 0, g := 0, neg := false, fn := 0 },
    .gand { sd := 0, sa := 8, sb := 0, g := 0, neg := false, fn := 0 },
    .gand { sd := 0, sa := 0, sb := 8, g := 0, neg := false, fn := 0 },
    .gand { sd := 0, sa := 0, sb := 0, g := 0, neg := false, fn := 4 },
    .gtos { sd := 0, sa := 1, sb := 0, g := 0, neg := false, fn := 0 },
    .stog { sd := 1, sa := 0, sb := 0, g := 0, neg := false, fn := 0 }] : List Instr).all (fun i => !i.wf) = true := by
  decide

theorem test_refused_SI : ([.addi { sd := 32, sa := 0, imm := 0 },
    .addi { sd := 0, sa := 32, imm := 0 },
    .addi { sd := 0, sa := 0, imm := 16384 },
    .shli { sd := 0, sa := 0, imm := 32 },
    .cmpiEq { sd := 8, sa := 0, imm := 0 }] : List Instr).all (fun i => !i.wf) = true := by
  decide

theorem test_refused_SU : ([.lui { sd := 32, imm := 0 },
    .lui { sd := 0, imm := 524288 }] : List Instr).all (fun i => !i.wf) = true := by
  decide

theorem test_refused_SB : ([.br { g := 8, neg := false, off := 0 },
    .br { g := 0, neg := false, off := 1048576 },
    .ret { g := 0, neg := false, off := 1 }] : List Instr).all (fun i => !i.wf) = true := by
  decide

theorem test_refused_SL : ([.loop { level := 0, len := 256, cnt := 0 },
    .loop { level := 0, len := 0, cnt := 16384 },
    .loop { level := 3, len := 0, cnt := 0 },
    .loop { level := 0, len := 0, cnt := 1 }] : List Instr).all (fun i => !i.wf) = true := by
  decide

theorem test_refused_SY : ([.rdsr { sd := 32, sa := 0, sel := 0 },
    .rdsr { sd := 0, sa := 1, sel := 0 },
    .rdsr { sd := 0, sa := 0, sel := 2 },
    .wrsr { sd := 0, sa := 32, sel := 256 },
    .wrsr { sd := 1, sa := 0, sel := 256 },
    .wrsr { sd := 0, sa := 0, sel := 0 },
    .pgrd { sd := 0, sa := 0, sel := 128 },
    .pgwr { sd := 0, sa := 0, sel := 0 },
    .pgwr { sd := 0, sa := 0, sel := 126 },
    .trap { sd := 0, sa := 0, sel := 16384 },
    .endI { sd := 0, sa := 0, sel := 1 },
    .trd { sd := 0, sa := 0, sel := 2 },
    .binit { sd := 0, sa := 0, sel := 48 },
    .spawn { sd := 0, sa := 0, sel := 9 },
    .spawn { sd := 1, sa := 0, sel := 0 },
    .acqsW { sd := 0, sa := 0, sel := 16 },
    .spawn { sd := 31, sa := 0, sel := 2 }] : List Instr).all (fun i => !i.wf) = true := by
  decide

theorem test_refused_LP : ([.plil { pd := 16, pa := 0, imm := 0 },
    .plil { pd := 0, pa := 0, imm := 65536 },
    .plil { pd := 0, pa := 4, imm := 0 },
    .plih { pd := 0, pa := 1, imm := 0 },
    .padd { pd := 0, pa := 16, imm := 0 },
    .padd { pd := 0, pa := 0, imm := 1 },
    .pmov { pd := 0, pa := 0, imm := 1 }] : List Instr).all (fun i => !i.wf) = true := by
  decide

theorem test_refused_LM : ([.ldw { tg := 16, ptr := 0, off := 0, g := 0, neg := false },
    .ldw { tg := 0, ptr := 16, off := 0, g := 0, neg := false },
    .ldw { tg := 0, ptr := 0, off := 4096, g := 0, neg := false },
    .ldw { tg := 0, ptr := 0, off := 0, g := 8, neg := false },
    .ldq { tg := 4, ptr := 0, off := 0, g := 0, neg := false },
    .drain { tg := 1, ptr := 0, off := 0, g := 0, neg := false },
    .drain { tg := 0, ptr := 1, off := 0, g := 0, neg := false },
    .drain { tg := 0, ptr := 0, off := 1, g := 0, neg := false }] : List Instr).all (fun i => !i.wf) = true := by
  decide

theorem test_refused_LA : ([.ldt { tg := 16, ptr := 0, opd := 0, off := 0, g := 0, neg := false },
    .ldt { tg := 0, ptr := 16, opd := 0, off := 0, g := 0, neg := false },
    .ldt { tg := 0, ptr := 0, opd := 16, off := 0, g := 0, neg := false },
    .ldt { tg := 0, ptr := 0, opd := 0, off := 256, g := 0, neg := false },
    .ldt { tg := 0, ptr := 0, opd := 0, off := 0, g := 8, neg := false }] : List Instr).all (fun i => !i.wf) = true := by
  decide

theorem test_refused_LX : ([.ldg { tg := 16, ptr := 0, idx := 0, lm := 0, rsv := 0, g := 0, neg := false },
    .ldg { tg := 0, ptr := 16, idx := 0, lm := 0, rsv := 0, g := 0, neg := false },
    .ldg { tg := 0, ptr := 0, idx := 16, lm := 0, rsv := 0, g := 0, neg := false },
    .ldg { tg := 0, ptr := 0, idx := 0, lm := 4, rsv := 0, g := 0, neg := false },
    .ldg { tg := 0, ptr := 0, idx := 0, lm := 0, rsv := 0, g := 8, neg := false },
    .ldg { tg := 0, ptr := 0, idx := 0, lm := 0, rsv := 1, g := 0, neg := false }] : List Instr).all (fun i => !i.wf) = true := by
  decide

theorem test_refused_LG : ([.agset { tg := 16, ag := 0, size := 0, imm := 0, g := 0, neg := false },
    .agset { tg := 0, ag := 4, size := 0, imm := 0, g := 0, neg := false },
    .agset { tg := 0, ag := 0, size := 0, imm := 0, g := 8, neg := false },
    .agset { tg := 0, ag := 0, size := 1, imm := 0, g := 0, neg := false },
    .agset { tg := 0, ag := 0, size := 0, imm := 1, g := 0, neg := false },
    .agadv { tg := 0, ag := 0, size := 0, imm := 4096, g := 0, neg := false },
    .agadv { tg := 1, ag := 0, size := 0, imm := 0, g := 0, neg := false },
    .lda { tg := 0, ag := 0, size := 4, imm := 0, g := 0, neg := false }] : List Instr).all (fun i => !i.wf) = true := by
  decide

theorem test_refused_VR : ([.fadd { vd := 0, va := 0, vb := 0, mask := 8, rnd := 0, sub := 0 },
    .fadd { vd := 24, va := 0, vb := 0, mask := 0, rnd := 0, sub := 0 },
    .fadd { vd := 0, va := 24, vb := 0, mask := 0, rnd := 0, sub := 0 },
    .fadd { vd := 0, va := 0, vb := 24, mask := 0, rnd := 0, sub := 0 },
    .fadd { vd := 0, va := 0, vb := 0, mask := 0, rnd := 4, sub := 0 },
    .fadd { vd := 0, va := 0, vb := 0, mask := 0, rnd := 0, sub := 1 },
    .fabs { vd := 0, va := 0, vb := 1, mask := 0, rnd := 0, sub := 0 },
    .fabs { vd := 0, va := 0, vb := 0, mask := 0, rnd := 1, sub := 0 },
    .fcmpEq { vd := 8, va := 0, vb := 0, mask := 0, rnd := 0, sub := 0 },
    .fcmpNe { vd := 0, va := 0, vb := 0, mask := 0, rnd := 0, sub := 0 },
    .fcmpLt { vd := 0, va := 0, vb := 0, mask := 0, rnd := 0, sub := 0 },
    .fcmpLe { vd := 0, va := 0, vb := 0, mask := 0, rnd := 0, sub := 0 },
    .fcmpUn { vd := 0, va := 0, vb := 0, mask := 0, rnd := 0, sub := 0 },
    .icmpGeu { vd := 0, va := 0, vb := 0, mask := 0, rnd := 0, sub := 0 },
    .viota { vd := 0, va := 1, vb := 0, mask := 0, rnd := 0, sub := 0 },
    .vrsumg { vd := 0, va := 0, vb := 0, mask := 0, rnd := 0, sub := 6 },
    .vstat { vd := 0, va := 0, vb := 0, mask := 0, rnd := 0, sub := 4 },
    .cvtBf16F32 { vd := 0, va := 0, vb := 0, mask := 0, rnd := 5, sub := 0 },
    .cvtI32F32 { vd := 0, va := 0, vb := 0, mask := 0, rnd := 0, sub := 0 },
    .cvtF32I32 { vd := 0, va := 0, vb := 0, mask := 0, rnd := 0, sub := 0 },
    .tiel { vd := 1, va := 0, vb := 0, mask := 0, rnd := 0, sub := 0 },
    .mand { vd := 0, va := 8, vb := 0, mask := 0, rnd := 0, sub := 0 },
    .mand { vd := 0, va := 0, vb := 8, mask := 0, rnd := 0, sub := 0 },
    .mand { vd := 0, va := 0, vb := 0, mask := 1, rnd := 0, sub := 0 }] : List Instr).all (fun i => !i.wf) = true := by
  decide

theorem test_refused_VF : ([.fma { vd := 0, va := 0, vb := 0, vc := 0, mask := 4, rnd := 0 },
    .fma { vd := 0, va := 0, vb := 0, vc := 0, mask := 0, rnd := 4 },
    .fma { vd := 24, va := 0, vb := 0, vc := 0, mask := 0, rnd := 0 },
    .fma { vd := 0, va := 24, vb := 0, vc := 0, mask := 0, rnd := 0 },
    .fma { vd := 0, va := 0, vb := 24, vc := 0, mask := 0, rnd := 0 },
    .fma { vd := 0, va := 0, vb := 0, vc := 24, mask := 0, rnd := 0 }] : List Instr).all (fun i => !i.wf) = true := by
  decide

theorem test_refused_VI : ([.iaddi { vd := 0, va := 0, imm := 2048, mask := 0 },
    .iaddi { vd := 0, va := 0, imm := 0, mask := 8 },
    .iaddi { vd := 24, va := 0, imm := 0, mask := 0 },
    .iaddi { vd := 0, va := 24, imm := 0, mask := 0 },
    .ishli { vd := 0, va := 0, imm := 32, mask := 0 },
    .vrot { vd := 0, va := 0, imm := 256, mask := 0 }] : List Instr).all (fun i => !i.wf) = true := by
  decide

theorem test_refused_VU : ([.vli { vd := 0, imm := 65536, mask := 0 },
    .vli { vd := 0, imm := 0, mask := 8 },
    .vli { vd := 24, imm := 0, mask := 0 }] : List Instr).all (fun i => !i.wf) = true := by
  decide

theorem test_refused_XC : ([.cpy { dfile := 0, dreg := 0, sfile := 2, sreg := 0, aux := 0 },
    .cpy { dfile := 2, dreg := 0, sfile := 0, sreg := 0, aux := 0 },
    .cpy { dfile := 2, dreg := 0, sfile := 2, sreg := 0, aux := 1 },
    .cpyl { dfile := 0, dreg := 32, sfile := 2, sreg := 0, aux := 0 },
    .cpyl { dfile := 0, dreg := 0, sfile := 2, sreg := 0, aux := 256 },
    .cpyl { dfile := 1, dreg := 0, sfile := 2, sreg := 0, aux := 0 },
    .cbc { dfile := 2, dreg := 0, sfile := 0, sreg := 32, aux := 0 },
    .cbc { dfile := 2, dreg := 0, sfile := 1, sreg := 0, aux := 0 },
    .cpm { dfile := 0, dreg := 0, sfile := 2, sreg := 0, aux := 0 },
    .cpm { dfile := 2, dreg := 0, sfile := 0, sreg := 0, aux := 0 },
    .qpop { dfile := 2, dreg := 0, sfile := 0, sreg := 0, aux := 0 },
    .qpop { dfile := 2, dreg := 0, sfile := 5, sreg := 0, aux := 4 },
    .qpush { dfile := 0, dreg := 0, sfile := 2, sreg := 0, aux := 0 },
    .qpush { dfile := 5, dreg := 4, sfile := 2, sreg := 0, aux := 0 },
    .qpush { dfile := 5, dreg := 0, sfile := 2, sreg := 0, aux := 4 },
    .cpyp { dfile := 0, dreg := 0, sfile := 0, sreg := 0, aux := 0 },
    .cpyp { dfile := 1, dreg := 16, sfile := 0, sreg := 0, aux := 0 },
    .cpyp { dfile := 1, dreg := 0, sfile := 0, sreg := 1, aux := 0 }] : List Instr).all (fun i => !i.wf) = true := by
  decide

theorem test_refused_MXF : ([.slatch { qa := 10, pa := false, qb := 15, pb := false, fmt := 0, flags := 0 },
    .slatch { qa := 0, pa := false, qb := 0, pb := false, fmt := 0, flags := 0 },
    .slatch { qa := 0, pa := false, qb := 15, pb := false, fmt := 6, flags := 0 },
    .slatch { qa := 0, pa := false, qb := 15, pb := false, fmt := 0, flags := 512 },
    .slatch { qa := 0, pa := false, qb := 15, pb := false, fmt := 0, flags := 256 },
    .slatch { qa := 0, pa := false, qb := 15, pb := false, fmt := 0, flags := 64 },
    .sswap { qa := 0, pa := false, qb := 15, pb := false, fmt := 0, flags := 0 },
    .sswap { qa := 15, pa := false, qb := 15, pb := false, fmt := 1, flags := 0 },
    .sswap { qa := 15, pa := false, qb := 15, pb := false, fmt := 0, flags := 1 },
    .spush { qa := 0, pa := false, qb := 15, pb := false, fmt := 0, flags := 1 },
    .vopa { qa := 0, pa := false, qb := 10, pb := false, fmt := 0, flags := 0 },
    .vopa { qa := 0, pa := false, qb := 0, pb := false, fmt := 3, flags := 0 },
    .vopa { qa := 0, pa := false, qb := 0, pb := false, fmt := 4, flags := 0 },
    .vdrain { qa := 15, pa := false, qb := 15, pb := false, fmt := 0, flags := 512 },
    .svpair { qa := 0, pa := false, qb := 0, pb := false, fmt := 0, flags := 512 },
    .svpair { qa := 0, pa := false, qb := 0, pb := false, fmt := 0, flags := 3 },
    .cbld { qa := 0, pa := false, qb := 15, pb := false, fmt := 0, flags := 2048 },
    .svpair { qa := 0, pa := false, qb := 0, pb := false, fmt := 0, flags := 160 }] : List Instr).all (fun i => !i.wf) = true := by
  decide

theorem test_refused_TEF : ([.shp { h := 16, lead := 0 },
    .shp { h := 0, lead := 65536 },
    .tagset { h := 1, lead := 0 },
    .xfer { h := 0, lead := 1048576 },
    .xfer { h := 0, lead := 0 },
    .nmc { h := 1, lead := 4 },
    .nmfence { h := 0, lead := 1 }] : List Instr).all (fun i => !i.wf) = true := by
  decide

/-! ### Decoding the words that the spec writes out (R27 to R42 and the instructions' own rules) -/

theorem test_decode_s_1 : decodeSlot .s 0x02214CA0 = .ok (.sub { sd := 4, sa := 5, sb := 6, g := 2, neg := true, fn := 0 }) ∧
    decodeSlot .s 0x25108003 = .ok (.shri { sd := 2, sa := 2, imm := 3 }) ∧
    decodeSlot .s 0x25294008 = .ok (.shri { sd := 5, sa := 5, imm := 8 }) ∧
    decodeSlot .s 0x2E184402 = .ok (.cmpLt { sd := 3, sa := 1, sb := 2, g := 0, neg := false, fn := 2 }) ∧
    decodeSlot .s 0x2E0A1A02 = .ok (.cmpLt { sd := 1, sa := 8, sb := 13, g := 0, neg := false, fn := 2 }) ∧
    decodeSlot .s 0x2D09FFFF = .ok (.cmpiGeu { sd := 1, sa := 7, imm := 16383 }) ∧
    decodeSlot .s 0x2F184401 = .ok (.gand { sd := 3, sa := 1, sb := 2, g := 0, neg := false, fn := 1 }) ∧
    decodeSlot .s 0x0F425520 = .ok (.sel { sd := 8, sa := 9, sb := 10, g := 4, neg := true, fn := 0 }) ∧
    decodeSlot .s 0x50380004 = .ok (.rdsr { sd := 7, sa := 0, sel := 4 }) ∧
    decodeSlot .s 0x50480101 = .ok (.rdsr { sd := 9, sa := 0, sel := 257 }) ∧
    decodeSlot .s 0x5218000C = .ok (.pgrd { sd := 3, sa := 0, sel := 12 }) ∧
    decodeSlot .s 0x52080003 = .ok (.pgrd { sd := 1, sa := 0, sel := 3 }) ∧
    decodeSlot .s 0x53010046 = .ok (.pgwr { sd := 0, sa := 4, sel := 70 }) ∧
    decodeSlot .s 0x54000155 = .ok (.trap { sd := 0, sa := 0, sel := 341 }) ∧
    decodeSlot .s 0x55000000 = .ok (.endI { sd := 0, sa := 0, sel := 0 }) ∧
    decodeSlot .s 0x51010102 = .ok (.wrsr { sd := 0, sa := 4, sel := 258 }) ∧
    decodeSlot .s 0x51000100 = .ok (.wrsr { sd := 0, sa := 0, sel := 256 }) ∧
    decodeSlot .s 0x60380000 = .ok (.trd { sd := 7, sa := 0, sel := 0 }) ∧
    decodeSlot .s 0x60380001 = .ok (.trd { sd := 7, sa := 0, sel := 1 }) ∧
    decodeSlot .s 0x62008000 = .ok (.tchk { sd := 0, sa := 2, sb := 0, g := 0, neg := false, fn := 0 }) ∧
    decodeSlot .s 0x61008000 = .ok (.twait { sd := 0, sa := 2, sb := 0, g := 0, neg := false, fn := 0 }) ∧
    decodeSlot .s 0x61028000 = .ok (.twait { sd := 0, sa := 10, sb := 0, g := 0, neg := false, fn := 0 }) ∧
    decodeSlot .s 0x64014005 = .ok (.binit { sd := 0, sa := 5, sel := 5 }) ∧
    decodeSlot .s 0x64020000 = .ok (.binit { sd := 0, sa := 8, sel := 0 }) :=
  ⟨rfl, rfl, rfl, rfl, rfl, rfl, rfl, rfl, rfl, rfl, rfl, rfl, rfl, rfl, rfl, rfl, rfl, rfl, rfl, rfl, rfl, rfl, rfl, rfl⟩

theorem test_decode_s_2 : decodeSlot .s 0x65000005 = .ok (.barr { sd := 0, sa := 0, sel := 5 }) ∧
    decodeSlot .s 0x65000000 = .ok (.barr { sd := 0, sa := 0, sel := 0 }) ∧
    decodeSlot .s 0x66000005 = .ok (.bchk { sd := 0, sa := 0, sel := 5 }) ∧
    decodeSlot .s 0x20280001 = .ok (.addi { sd := 5, sa := 0, imm := 1 }) ∧
    decodeSlot .s 0x20100028 = .ok (.addi { sd := 2, sa := 0, imm := 40 }) ∧
    decodeSlot .s 0x45000030 = .ok (.loopi { level := 0, len := 0, cnt := 48 }) ∧
    decodeSlot .s 0x4508C004 = .ok (.loopi { level := 0, len := 35, cnt := 4 }) ∧
    decodeSlot .s 0x63000000 = .ok (.solo { sd := 0, sa := 0, sel := 0 }) ∧
    decodeSlot .s 0x63050000 = .ok (.solo { sd := 0, sa := 20, sel := 0 }) ∧
    decodeSlot .s 0x44000200 = .ok (.loop { level := 0, len := 0, cnt := 512 }) ∧
    decodeSlot .s 0x44474A00 = .ok (.loop { level := 1, len := 29, cnt := 2560 }) ∧
    decodeSlot .s 0x68000004 = .ok (.acqsW { sd := 0, sa := 0, sel := 4 }) ∧
    decodeSlot .s 0x69000004 = .ok (.acqsR { sd := 0, sa := 0, sel := 4 }) ∧
    decodeSlot .s 0x6A000004 = .ok (.relsW { sd := 0, sa := 0, sel := 4 }) ∧
    decodeSlot .s 0x6B000004 = .ok (.relsR { sd := 0, sa := 0, sel := 4 }) ∧
    decodeSlot .s 0x67518003 = .ok (.spawn { sd := 10, sa := 6, sel := 3 }) ∧
    decodeSlot .s 0x67018000 = .ok (.spawn { sd := 0, sa := 6, sel := 0 }) ∧
    decodeSlot .s 0x0152C000 = .ok (.add { sd := 10, sa := 11, sb := 0, g := 0, neg := false, fn := 0 }) ∧
    decodeSlot .s 0x015B0000 = .ok (.add { sd := 11, sa := 12, sb := 0, g := 0, neg := false, fn := 0 }) ∧
    decodeSlot .s 0x6D480000 = .ok (.fsyn { sd := 9, sa := 0, sel := 0 }) ∧
    decodeSlot .s 0x6D480003 = .ok (.fsyn { sd := 9, sa := 0, sel := 3 }) ∧
    decodeSlot .s 0x6C000000 = .ok (.ckpt { sd := 0, sa := 0, sel := 0 }) ∧
    decodeSlot .s 0x2908C000 = .ok (.cmpiNe { sd := 1, sa := 3, imm := 0 }) ∧
    decodeSlot .s 0x40200006 = .ok (.br { g := 1, neg := false, off := 6 }) :=
  ⟨rfl, rfl, rfl, rfl, rfl, rfl, rfl, rfl, rfl, rfl, rfl, rfl, rfl, rfl, rfl, rfl, rfl, rfl, rfl, rfl, rfl, rfl, rfl, rfl⟩

theorem test_decode_s_3 : decodeSlot .s 0x402FFFE5 = .ok (.br { g := 1, neg := false, off := 1048549 }) ∧
    decodeSlot .s 0x14408E00 = .ok (.divu { sd := 8, sa := 2, sb := 7, g := 0, neg := false, fn := 0 }) ∧
    decodeSlot .s 0x272891A2 = .ok (.lui { sd := 5, imm := 37282 }) ∧
    decodeSlot .s 0x27600008 = .ok (.lui { sd := 12, imm := 8 }) ∧
    decodeSlot .s 0x22295678 = .ok (.ori { sd := 5, sa := 5, imm := 5752 }) ∧
    decodeSlot .s 0x41000005 = .ok (.call { g := 0, neg := false, off := 5 }) ∧
    decodeSlot .s 0x42000000 = .ok (.ret { g := 0, neg := false, off := 0 }) :=
  ⟨rfl, rfl, rfl, rfl, rfl, rfl, rfl⟩

theorem test_decode_ld_1 : decodeSlot .ld 0x14210020 = .ok (.stw { tg := 2, ptr := 1, off := 2, g := 0, neg := false }) ∧
    decodeSlot .ld 0x14110000 = .ok (.stw { tg := 1, ptr := 1, off := 0, g := 0, neg := false }) ∧
    decodeSlot .ld 0x10310020 = .ok (.ldw { tg := 3, ptr := 1, off := 2, g := 0, neg := false }) ∧
    decodeSlot .ld 0x10270000 = .ok (.ldw { tg := 2, ptr := 7, off := 0, g := 0, neg := false }) ∧
    decodeSlot .ld 0x1112FFF0 = .ok (.ldr { tg := 1, ptr := 2, off := 4095, g := 0, neg := false }) ∧
    decodeSlot .ld 0x11460010 = .ok (.ldr { tg := 4, ptr := 6, off := 1, g := 0, neg := false }) ∧
    decodeSlot .ld 0x1796002A = .ok (.stv { tg := 9, ptr := 6, off := 2, g := 5, neg := false }) ∧
    decodeSlot .ld 0x03423000 = .ok (.padd { pd := 4, pa := 2, imm := 12288 }) ∧
    decodeSlot .ld 0x05510000 = .ok (.pmov { pd := 5, pa := 1, imm := 0 }) ∧
    decodeSlot .ld 0x05130000 = .ok (.pmov { pd := 1, pa := 3, imm := 0 }) ∧
    decodeSlot .ld 0x18270030 = .ok (.ldq { tg := 2, ptr := 7, off := 3, g := 0, neg := false }) ∧
    decodeSlot .ld 0x18200030 = .ok (.ldq { tg := 2, ptr := 0, off := 3, g := 0, neg := false }) ∧
    decodeSlot .ld 0x19059020 = .ok (.ldt { tg := 0, ptr := 5, opd := 9, off := 2, g := 0, neg := false }) ∧
    decodeSlot .ld 0x19059000 = .ok (.ldt { tg := 0, ptr := 5, opd := 9, off := 0, g := 0, neg := false }) ∧
    decodeSlot .ld 0x20546400 = .ok (.ldg { tg := 5, ptr := 4, idx := 6, lm := 1, rsv := 0, g := 0, neg := false }) ∧
    decodeSlot .ld 0x22723800 = .ok (.stg16 { tg := 7, ptr := 2, idx := 3, lm := 2, rsv := 0, g := 0, neg := false }) ∧
    decodeSlot .ld 0x22453000 = .ok (.stg16 { tg := 4, ptr := 5, idx := 3, lm := 0, rsv := 0, g := 0, neg := false }) ∧
    decodeSlot .ld 0x28124030 = .ok (.amoAdd { tg := 1, ptr := 2, opd := 4, off := 3, g := 0, neg := false }) ∧
    decodeSlot .ld 0x04330400 = .ok (.paddi { pd := 3, pa := 3, imm := 1024 }) ∧
    decodeSlot .ld 0x04110200 = .ok (.paddi { pd := 1, pa := 1, imm := 512 }) ∧
    decodeSlot .ld 0x12110000 = .ok (.ldh { tg := 1, ptr := 1, off := 0, g := 0, neg := false }) ∧
    decodeSlot .ld 0x01510003 = .ok (.plil { pd := 5, pa := 1, imm := 3 }) ∧
    decodeSlot .ld 0x01310001 = .ok (.plil { pd := 3, pa := 1, imm := 1 }) ∧
    decodeSlot .ld 0x13050000 = .ok (.ldv { tg := 0, ptr := 5, off := 0, g := 0, neg := false }) :=
  ⟨rfl, rfl, rfl, rfl, rfl, rfl, rfl, rfl, rfl, rfl, rfl, rfl, rfl, rfl, rfl, rfl, rfl, rfl, rfl, rfl, rfl, rfl, rfl, rfl⟩

theorem test_decode_ld_2 : decodeSlot .ld 0x13120000 = .ok (.ldv { tg := 1, ptr := 2, off := 0, g := 0, neg := false }) ∧
    decodeSlot .ld 0x16220000 = .ok (.sth { tg := 2, ptr := 2, off := 0, g := 0, neg := false }) ∧
    decodeSlot .ld 0x16720030 = .ok (.sth { tg := 7, ptr := 2, off := 3, g := 0, neg := false }) ∧
    decodeSlot .ld 0x02604000 = .ok (.plih { pd := 6, pa := 0, imm := 16384 }) ∧
    decodeSlot .ld 0x15460000 = .ok (.str { tg := 4, ptr := 6, off := 0, g := 0, neg := false }) ∧
    decodeSlot .ld 0x15240000 = .ok (.str { tg := 2, ptr := 4, off := 0, g := 0, neg := false }) ∧
    decodeSlot .ld 0x1A110000 = .ok (.stnt { tg := 1, ptr := 1, off := 0, g := 0, neg := false }) ∧
    decodeSlot .ld 0x1A520026 = .ok (.stnt { tg := 5, ptr := 2, off := 2, g := 3, neg := false }) ∧
    decodeSlot .ld 0x1B000000 = .ok (.drain { tg := 0, ptr := 0, off := 0, g := 0, neg := false }) ∧
    decodeSlot .ld 0x1B000004 = .ok (.drain { tg := 0, ptr := 0, off := 0, g := 2, neg := false }) ∧
    decodeSlot .ld 0x30540000 = .ok (.agset { tg := 5, ag := 1, size := 0, imm := 0, g := 0, neg := false }) ∧
    decodeSlot .ld 0x31040010 = .ok (.agadv { tg := 0, ag := 1, size := 0, imm := 1, g := 0, neg := false }) ∧
    decodeSlot .ld 0x31040014 = .ok (.agadv { tg := 0, ag := 1, size := 0, imm := 1, g := 2, neg := false }) ∧
    decodeSlot .ld 0x33350000 = .ok (.sta { tg := 3, ag := 1, size := 1, imm := 0, g := 0, neg := false }) ∧
    decodeSlot .ld 0x32230000 = .ok (.lda { tg := 2, ag := 0, size := 3, imm := 0, g := 0, neg := false }) :=
  ⟨rfl, rfl, rfl, rfl, rfl, rfl, rfl, rfl, rfl, rfl, rfl, rfl, rfl, rfl, rfl⟩

theorem test_decode_v_1 : decodeSlot .v 0x3811C060 = .ok (.cvtBf16F32 { vd := 2, va := 7, vb := 0, mask := 1, rnd := 4, sub := 0 }) ∧
    decodeSlot .v 0x3820C000 = .ok (.cvtBf16F32 { vd := 4, va := 3, vb := 0, mask := 0, rnd := 0, sub := 0 }) ∧
    decodeSlot .v 0x38088001 = .ok (.cvtF32Bf16 { vd := 1, va := 2, vb := 0, mask := 0, rnd := 0, sub := 1 }) ∧
    decodeSlot .v 0x38104001 = .ok (.cvtF32Bf16 { vd := 2, va := 1, vb := 0, mask := 0, rnd := 0, sub := 1 }) ∧
    decodeSlot .v 0x38194002 = .ok (.cvtE4m3F32 { vd := 3, va := 5, vb := 0, mask := 0, rnd := 0, sub := 2 }) ∧
    decodeSlot .v 0x3818C003 = .ok (.cvtF32E4m3 { vd := 3, va := 3, vb := 0, mask := 0, rnd := 0, sub := 3 }) ∧
    decodeSlot .v 0x3802408C = .ok (.cvtE5m2F32 { vd := 0, va := 9, vb := 0, mask := 2, rnd := 1, sub := 4 }) ∧
    decodeSlot .v 0x38218005 = .ok (.cvtF32E5m2 { vd := 4, va := 6, vb := 0, mask := 0, rnd := 0, sub := 5 }) ∧
    decodeSlot .v 0x3839C01E = .ok (.cvtI32F32 { vd := 7, va := 7, vb := 0, mask := 0, rnd := 3, sub := 6 }) ∧
    decodeSlot .v 0x38404007 = .ok (.cvtF32I32 { vd := 8, va := 1, vb := 0, mask := 0, rnd := 0, sub := 7 }) ∧
    decodeSlot .v 0x39218000 = .ok (.cvtmx8 { vd := 4, va := 6, vb := 0, mask := 0, rnd := 0, sub := 0 }) ∧
    decodeSlot .v 0x3A088020 = .ok (.cvtmx4 { vd := 1, va := 2, vb := 0, mask := 0, rnd := 4, sub := 0 }) ∧
    decodeSlot .v 0x3B490000 = .ok (.unmx { vd := 9, va := 4, vb := 0, mask := 0, rnd := 0, sub := 0 }) ∧
    decodeSlot .v 0x3C28C002 = .ok (.cb4dec { vd := 5, va := 3, vb := 0, mask := 0, rnd := 0, sub := 2 }) ∧
    decodeSlot .v 0x3D28C00A = .ok (.cb4enc { vd := 5, va := 3, vb := 0, mask := 0, rnd := 1, sub := 2 }) ∧
    decodeSlot .v 0x03214C88 = .ok (.fmul { vd := 4, va := 5, vb := 6, mask := 2, rnd := 1, sub := 0 }) ∧
    decodeSlot .v 0x0C004430 = .ok (.fma { vd := 0, va := 1, vb := 2, vc := 3, mask := 0, rnd := 0 }) ∧
    decodeSlot .v 0x0C31D09B = .ok (.fma { vd := 6, va := 7, vb := 8, vc := 9, mask := 2, rnd := 3 }) ∧
    decodeSlot .v 0x09190A02 = .ok (.fcmpLt { vd := 3, va := 4, vb := 5, mask := 0, rnd := 0, sub := 2 }) ∧
    decodeSlot .v 0x09084002 = .ok (.fcmpLt { vd := 1, va := 1, vb := 0, mask := 0, rnd := 0, sub := 2 }) ∧
    decodeSlot .v 0x0B3A1300 = .ok (.fsel { vd := 7, va := 8, vb := 9, mask := 4, rnd := 0, sub := 0 }) ∧
    decodeSlot .v 0x0B100240 = .ok (.fsel { vd := 2, va := 0, vb := 1, mask := 1, rnd := 0, sub := 0 }) ∧
    decodeSlot .v 0x2008BFD8 = .ok (.iaddi { vd := 1, va := 2, imm := 2043, mask := 0 }) ∧
    decodeSlot .v 0x2010BA0A = .ok (.iaddi { vd := 2, va := 2, imm := 1857, mask := 2 }) :=
  ⟨rfl, rfl, rfl, rfl, rfl, rfl, rfl, rfl, rfl, rfl, rfl, rfl, rfl, rfl, rfl, rfl, rfl, rfl, rfl, rfl, rfl, rfl, rfl, rfl⟩

theorem test_decode_v_2 : decodeSlot .v 0x2418C020 = .ok (.ishli { vd := 3, va := 3, imm := 4, mask := 0 }) ∧
    decodeSlot .v 0x1C10C804 = .ok (.icmpLtu { vd := 2, va := 3, vb := 4, mask := 0, rnd := 0, sub := 4 }) ∧
    decodeSlot .v 0x1C098A04 = .ok (.icmpLtu { vd := 1, va := 6, vb := 5, mask := 0, rnd := 0, sub := 4 }) ∧
    decodeSlot .v 0x2A088600 = .ok (.vperm { vd := 1, va := 2, vb := 3, mask := 0, rnd := 0, sub := 0 }) ∧
    decodeSlot .v 0x2B298008 = .ok (.vrot { vd := 5, va := 6, imm := 1, mask := 0 }) ∧
    decodeSlot .v 0x2B41C400 = .ok (.vrot { vd := 8, va := 7, imm := 128, mask := 0 }) ∧
    decodeSlot .v 0x50088600 = .ok (.mand { vd := 1, va := 2, vb := 3, mask := 0, rnd := 0, sub := 0 }) ∧
    decodeSlot .v 0x53214000 = .ok (.mpop { vd := 4, va := 5, vb := 0, mask := 0, rnd := 0, sub := 0 }) ∧
    decodeSlot .v 0x53184000 = .ok (.mpop { vd := 3, va := 1, vb := 0, mask := 0, rnd := 0, sub := 0 }) ∧
    decodeSlot .v 0x28000000 = .ok (.vli { vd := 0, imm := 0, mask := 0 }) ∧
    decodeSlot .v 0x40088000 = .ok (.exp { vd := 1, va := 2, vb := 0, mask := 0, rnd := 0, sub := 0 }) ∧
    decodeSlot .v 0x4131C0C0 = .ok (.log { vd := 6, va := 7, vb := 0, mask := 3, rnd := 0, sub := 0 }) ∧
    decodeSlot .v 0x43190000 = .ok (.rsq { vd := 3, va := 4, vb := 0, mask := 0, rnd := 0, sub := 0 }) ∧
    decodeSlot .v 0x44014002 = .ok (.tiel { vd := 0, va := 5, vb := 0, mask := 0, rnd := 0, sub := 2 }) ∧
    decodeSlot .v 0x44000000 = .ok (.tiel { vd := 0, va := 0, vb := 0, mask := 0, rnd := 0, sub := 0 }) ∧
    decodeSlot .v 0x45190001 = .ok (.tiev { vd := 3, va := 4, vb := 0, mask := 0, rnd := 0, sub := 1 }) ∧
    decodeSlot .v 0x45188000 = .ok (.tiev { vd := 3, va := 2, vb := 0, mask := 0, rnd := 0, sub := 0 }) ∧
    decodeSlot .v 0x30124000 = .ok (.vrsum { vd := 2, va := 9, vb := 0, mask := 0, rnd := 0, sub := 0 }) ∧
    decodeSlot .v 0x33124000 = .ok (.vrsumg { vd := 2, va := 9, vb := 0, mask := 0, rnd := 0, sub := 0 }) ∧
    decodeSlot .v 0x31004100 = .ok (.vrmax { vd := 0, va := 1, vb := 0, mask := 4, rnd := 0, sub := 0 }) ∧
    decodeSlot .v 0x3452C000 = .ok (.vstat { vd := 10, va := 11, vb := 0, mask := 0, rnd := 0, sub := 0 }) ∧
    decodeSlot .v 0x48280000 = .ok (.vrng { vd := 5, va := 0, vb := 0, mask := 0, rnd := 0, sub := 0 }) ∧
    decodeSlot .v 0x48280080 = .ok (.vrng { vd := 5, va := 0, vb := 0, mask := 2, rnd := 0, sub := 0 }) ∧
    decodeSlot .v 0x49004000 = .ok (.vrngk { vd := 0, va := 1, vb := 0, mask := 0, rnd := 0, sub := 0 }) :=
  ⟨rfl, rfl, rfl, rfl, rfl, rfl, rfl, rfl, rfl, rfl, rfl, rfl, rfl, rfl, rfl, rfl, rfl, rfl, rfl, rfl, rfl, rfl, rfl, rfl⟩

theorem test_decode_v_3 : decodeSlot .v 0x49000000 = .ok (.vrngk { vd := 0, va := 0, vb := 0, mask := 0, rnd := 0, sub := 0 }) ∧
    decodeSlot .v 0x4A01C000 = .ok (.vrngc { vd := 0, va := 7, vb := 0, mask := 0, rnd := 0, sub := 0 }) ∧
    decodeSlot .v 0x4A004000 = .ok (.vrngc { vd := 0, va := 1, vb := 0, mask := 0, rnd := 0, sub := 0 }) ∧
    decodeSlot .v 0x4B020000 = .ok (.vskip { vd := 0, va := 8, vb := 0, mask := 0, rnd := 0, sub := 0 }) ∧
    decodeSlot .v 0x4B008000 = .ok (.vskip { vd := 0, va := 2, vb := 0, mask := 0, rnd := 0, sub := 0 }) ∧
    decodeSlot .v 0x1C10CA00 = .ok (.icmpEq { vd := 2, va := 3, vb := 5, mask := 0, rnd := 0, sub := 0 }) :=
  ⟨rfl, rfl, rfl, rfl, rfl, rfl⟩

theorem test_decode_x_1 : decodeSlot .x 0x02056300 = .ok (.cpyl { dfile := 0, dreg := 5, sfile := 3, sreg := 3, aux := 0 }) ∧
    decodeSlot .x 0x020762C8 = .ok (.cpyl { dfile := 0, dreg := 7, sfile := 3, sreg := 2, aux := 200 }) ∧
    decodeSlot .x 0x01654300 = .ok (.cpy { dfile := 3, dreg := 5, sfile := 2, sreg := 3, aux := 0 }) ∧
    decodeSlot .x 0x01806000 = .ok (.cpy { dfile := 4, dreg := 0, sfile := 3, sreg := 0, aux := 0 }) ∧
    decodeSlot .x 0x03890400 = .ok (.cbc { dfile := 4, dreg := 9, sfile := 0, sreg := 4, aux := 0 }) ∧
    decodeSlot .x 0x03420200 = .ok (.cbc { dfile := 2, dreg := 2, sfile := 0, sreg := 2, aux := 0 }) ∧
    decodeSlot .x 0x04416300 = .ok (.cpm { dfile := 2, dreg := 1, sfile := 3, sreg := 3, aux := 0 }) ∧
    decodeSlot .x 0x08260A00 = .ok (.cpyp { dfile := 1, dreg := 6, sfile := 0, sreg := 10, aux := 0 }) ∧
    decodeSlot .x 0x08270C00 = .ok (.cpyp { dfile := 1, dreg := 7, sfile := 0, sreg := 12, aux := 0 }) ∧
    decodeSlot .x 0x0560A102 = .ok (.qpop { dfile := 3, dreg := 0, sfile := 5, sreg := 1, aux := 2 }) ∧
    decodeSlot .x 0x0541C100 = .ok (.qpop { dfile := 2, dreg := 1, sfile := 6, sreg := 1, aux := 0 }) ∧
    decodeSlot .x 0x0644C101 = .ok (.qpeek { dfile := 2, dreg := 4, sfile := 6, sreg := 1, aux := 1 }) ∧
    decodeSlot .x 0x0660E100 = .ok (.qpeek { dfile := 3, dreg := 0, sfile := 7, sreg := 1, aux := 0 }) ∧
    decodeSlot .x 0x07A38200 = .ok (.qpush { dfile := 5, dreg := 3, sfile := 4, sreg := 2, aux := 0 }) :=
  ⟨rfl, rfl, rfl, rfl, rfl, rfl, rfl, rfl, rfl, rfl, rfl, rfl, rfl, rfl⟩

theorem test_decode_mx_1 : decodeSlot .mx 0x01278005 = .ok (.slatch { qa := 2, pa := false, qb := 15, pb := false, fmt := 0, flags := 5 }) ∧
    decodeSlot .mx 0x0117AC0C = .ok (.slatch { qa := 1, pa := false, qb := 15, pb := false, fmt := 5, flags := 1036 }) ∧
    decodeSlot .mx 0x02F78000 = .ok (.sswap { qa := 15, pa := false, qb := 15, pb := false, fmt := 0, flags := 0 }) ∧
    decodeSlot .mx 0x03078900 = .ok (.spush { qa := 0, pa := false, qb := 15, pb := false, fmt := 1, flags := 256 }) ∧
    decodeSlot .mx 0x04F78000 = .ok (.sshift { qa := 15, pa := false, qb := 15, pb := false, fmt := 0, flags := 0 }) ∧
    decodeSlot .mx 0x08110000 = .ok (.vopa { qa := 1, pa := false, qb := 2, pb := false, fmt := 0, flags := 0 }) ∧
    decodeSlot .mx 0x08110800 = .ok (.vopa { qa := 1, pa := false, qb := 2, pb := false, fmt := 1, flags := 0 }) ∧
    decodeSlot .mx 0x09F78000 = .ok (.vzero { qa := 15, pa := false, qb := 15, pb := false, fmt := 0, flags := 0 }) ∧
    decodeSlot .mx 0x0AF78000 = .ok (.vdrain { qa := 15, pa := false, qb := 15, pb := false, fmt := 0, flags := 0 }) ∧
    decodeSlot .mx 0x0AF78100 = .ok (.vdrain { qa := 15, pa := false, qb := 15, pb := false, fmt := 0, flags := 256 }) ∧
    decodeSlot .mx 0x0C378400 = .ok (.cbld { qa := 3, pa := false, qb := 15, pb := false, fmt := 0, flags := 1024 }) ∧
    decodeSlot .mx 0x0B008821 = .ok (.svpair { qa := 0, pa := false, qb := 1, pb := false, fmt := 1, flags := 33 }) ∧
    decodeSlot .mx 0x0B00AB35 = .ok (.svpair { qa := 0, pa := false, qb := 1, pb := false, fmt := 5, flags := 821 }) ∧
    decodeSlot .mx 0x10F78000 = .ok (.chs { qa := 15, pa := false, qb := 15, pb := false, fmt := 0, flags := 0 }) ∧
    decodeSlot .mx 0x11008000 = .ok (.chb { qa := 0, pa := false, qb := 1, pb := false, fmt := 0, flags := 0 }) ∧
    decodeSlot .mx 0x11608000 = .ok (.chb { qa := 6, pa := false, qb := 1, pb := false, fmt := 0, flags := 0 }) ∧
    decodeSlot .mx 0x12F78000 = .ok (.chn { qa := 15, pa := false, qb := 15, pb := false, fmt := 0, flags := 0 }) ∧
    decodeSlot .mx 0x13F78107 = .ok (.chsv { qa := 15, pa := false, qb := 15, pb := false, fmt := 0, flags := 263 }) ∧
    decodeSlot .mx 0x13F78100 = .ok (.chsv { qa := 15, pa := false, qb := 15, pb := false, fmt := 0, flags := 256 }) ∧
    decodeSlot .mx 0x14278007 = .ok (.chld { qa := 2, pa := false, qb := 15, pb := false, fmt := 0, flags := 7 }) :=
  ⟨rfl, rfl, rfl, rfl, rfl, rfl, rfl, rfl, rfl, rfl, rfl, rfl, rfl, rfl, rfl, rfl, rfl, rfl, rfl, rfl⟩

theorem test_decode_te_1 : decodeSlot .te 0x01300120 = .ok (.shp { h := 3, lead := 288 }) ∧
    decodeSlot .te 0x01400200 = .ok (.shp { h := 4, lead := 512 }) ∧
    decodeSlot .te 0x02000105 = .ok (.tagset { h := 0, lead := 261 }) ∧
    decodeSlot .te 0x08200028 = .ok (.xfer { h := 2, lead := 40 }) ∧
    decodeSlot .te 0x08300008 = .ok (.xfer { h := 3, lead := 8 }) ∧
    decodeSlot .te 0x09400064 = .ok (.xferq { h := 4, lead := 100 }) ∧
    decodeSlot .te 0x0A500010 = .ok (.xstore { h := 5, lead := 16 }) ∧
    decodeSlot .te 0x0B600004 = .ok (.tlist { h := 6, lead := 4 }) ∧
    decodeSlot .te 0x0B100004 = .ok (.tlist { h := 1, lead := 4 }) ∧
    decodeSlot .te 0x10700008 = .ok (.xred { h := 7, lead := 8 }) ∧
    decodeSlot .te 0x11800032 = .ok (.xacc { h := 8, lead := 50 }) ∧
    decodeSlot .te 0x11800004 = .ok (.xacc { h := 8, lead := 4 }) ∧
    decodeSlot .te 0x12900006 = .ok (.xmc { h := 9, lead := 6 }) ∧
    decodeSlot .te 0x18100004 = .ok (.mkcfg { h := 1, lead := 4 }) ∧
    decodeSlot .te 0x18200004 = .ok (.mkcfg { h := 2, lead := 4 }) ∧
    decodeSlot .te 0x19100004 = .ok (.pptld { h := 1, lead := 4 }) ∧
    decodeSlot .te 0x1AA0000C = .ok (.vbmld { h := 10, lead := 12 }) ∧
    decodeSlot .te 0x1A300004 = .ok (.vbmld { h := 3, lead := 4 }) ∧
    decodeSlot .te 0x20400014 = .ok (.nmc { h := 4, lead := 20 }) ∧
    decodeSlot .te 0x20E00004 = .ok (.nmc { h := 14, lead := 4 }) ∧
    decodeSlot .te 0x21000000 = .ok (.nmfence { h := 0, lead := 0 }) ∧
    decodeSlot .te 0x28600014 = .ok (.lsend { h := 6, lead := 20 }) ∧
    decodeSlot .te 0x29700004 = .ok (.lfwd { h := 7, lead := 4 }) :=
  ⟨rfl, rfl, rfl, rfl, rfl, rfl, rfl, rfl, rfl, rfl, rfl, rfl, rfl, rfl, rfl, rfl, rfl, rfl, rfl, rfl, rfl, rfl, rfl⟩

/-! ### Steps whose results the spec gives -/

/-- R62: ADD of 0x7FFFFFFF and 1 gives 0x80000000. -/
theorem test_add_wraps : left (at_ 0 0x01184400 (withS [(1, 0x7FFFFFFF), (2, 1)])) =
    [(1, .registerWrite 0 (.s 3 0x80000000))] := by decide +kernel

/-- R62: SUB of 0 and 0x80000000 gives 0x80000000; here s4 = s5 - s6 under !g2, g2 being false. -/
theorem test_sub_guarded : left (at_ 0 0x02214CA0 (withS [(6, 0x80000000)])) =
    [(1, .registerWrite 0 (.s 4 0x80000000))] := by decide +kernel

/-- R11: the same with g2 true is squashed. -/
theorem test_sub_squashed : left (at_ 0 0x02214CA0 fun x => { x with g := 5 }) = [] := by decide +kernel

/-- R63: ORI s5, s5, 0x1678 of 0x12344000 gives 0x12345678. -/
theorem test_ori : left (at_ 0 0x22295678 (withS [(5, 0x12344000)])) =
    [(1, .registerWrite 0 (.s 5 0x12345678))] := by decide +kernel

/-- R63: LUI s5, 0x91A2 gives 0x12344000. -/
theorem test_lui : left (at_ 0 0x272891A2 id) = [(1, .registerWrite 0 (.s 5 0x12344000))] := by decide +kernel

/-- R64: -7 divided by 2 is -3, at t+12. -/
theorem test_div_truncates : left (at_ 0 0x13184400 (withS [(1, 0xFFFFFFF9), (2, 2)])) =
    [(12, .registerWrite 0 (.s 3 0xFFFFFFFD))] := by decide +kernel

/-- R64: the remainder of -7 by 2 is -1. -/
theorem test_rem_sign : left (at_ 0 0x15184400 (withS [(1, 0xFFFFFFF9), (2, 2)])) =
    [(12, .registerWrite 0 (.s 3 0xFFFFFFFF))] := by decide +kernel

/-- R64: 0x80000000 divided by -1. -/
theorem test_div_overflow : left (at_ 0 0x13184400 (withS [(1, 0x80000000), (2, 0xFFFFFFFF)])) =
    [(12, .registerWrite 0 (.s 3 0x80000000))] := by decide +kernel

/-- R64: the upper half of (2^32 - 1)^2 is 0xFFFFFFFE, at t+3. -/
theorem test_mulhu : left (at_ 0 0x12184400 (withS [(1, 0xFFFFFFFF), (2, 0xFFFFFFFF)])) =
    [(3, .registerWrite 0 (.s 3 0xFFFFFFFE))] := by decide +kernel

/-- R65: CMPI.geu g1, s7, -1 sets g1 only when s7 is 0xFFFFFFFF. -/
theorem test_cmpi_geu : left (at_ 0 0x2D09FFFF (withS [(7, 0xFFFFFFFE)])) = [(1, .registerWrite 0 (.g 2 0))] ∧
    left (at_ 0 0x2D09FFFF (withS [(7, 0xFFFFFFFF)])) = [(1, .registerWrite 0 (.g 2 2))] := by decide +kernel

/-- R66: GAND g3, g1, !g2. -/
theorem test_gand : left (at_ 0 0x2F184401 fun x => { x with g := 3 }) = [(1, .registerWrite 0 (.g 8 8))] := by
  decide +kernel

/-- R68: SEL s8, s9, s10, !g4 selects s9 while g4 is false. -/
theorem test_sel : left (at_ 0 0x0F425520 (withS [(9, 1), (10, 2)])) = [(1, .registerWrite 0 (.s 8 1))] := by
  decide +kernel

/-- R69: CALL 5 in bundle 64 leaves the link 67, and RET goes where s31 says at t+3. -/
theorem test_call : left (at_ 0 0x41000005 id) = [(1, .registerWrite 0 (.s 31 67))] := by decide +kernel
theorem test_ret : (match step (at_ 0 0x42000000 (withS [(31, 9)])) with
    | .next t => (t.ctx 0).seq.xfer
    | _ => none) = some (3, .bundle 9) := by decide +kernel

/-- R73: LOOPI 0, 23 over one bundle. -/
theorem test_loopi : (match step (at_ 0 0x45000017 id) with
    | .next t => (t.ctx 0).seq.nextLevels
    | _ => []) = [{ level := 0, first := 65, last := 65, count := 23 }] := by decide +kernel

/-- R20, R22: TTCL and PER at TTC 12100; PER reads 0x00003004. -/
theorem test_per : (atT 12100 (at_ 0 0 id)).special 0x0008 = 0x00003004 := by decide +kernel

/-- R81: TRAP 0x155 is fault 0x02 with its code. -/
theorem test_trap : (match step (at_ 0 0x54000155 id) with
    | .next t => t.parts.map fun q => q.faultsNow.map fun f => (f.code, f.rank, f.src, f.detail)
    | _ => []) = [[(0x02, 0, 0, [0x155])]] := by decide +kernel

/-- R82: END stops its core. -/
theorem test_end : (match step (at_ 0 0x55000000 id) with
    | .next t => (t.ctx 0).life
    | _ => .running) = .ended := by decide +kernel

/-- R28: a word of an unassigned opcode is fault 0x01, with the slot's bit and the word. -/
theorem test_illegal : (match step (at_ 1 0x7F000001 id) with
    | .next t => t.parts.map fun q => q.faultsNow.map fun f => (f.code, f.src, f.detail)
    | _ => []) = [[(0x01, 1, [2, 0x7F000001])]] := by decide +kernel

/-- R63: a shift form whose upper immediate bits are not zero is illegal. -/
theorem test_shift_field : decodeSlot .s 0x25108023 = .error .illegalField := rfl

/-- R200: TCHK of a bound that has passed is fault 0x11 (T = 0, t = 1). -/
theorem test_tchk_late : (match step (atT 1 (at_ 0 0x62008000 id)) with
    | .next t => t.parts.map fun q => q.faultsNow.map fun f => (f.code, f.detail)
    | _ => []) = [[(0x11, [0, 0, 1])]] := by decide +kernel

/-- R206: BINIT bar5, s5 takes s5[15:0]. -/
theorem test_binit : left (at_ 0 0x64014005 (withS [(5, 0xABCD0002)])) =
    [(1, .registerWrite 0 (.barExpected 5 2))] := by decide +kernel

/-- R207: an arrival at a core of another die performs 44 cycles after the BARR, at one's own core 1. -/
theorem test_barr_far : left (at_ 0 0x65014005 (withS [(5, 3)])) = [(44, .barrierArrival 96 5)] := by decide +kernel
theorem test_barr_own : left (at_ 0 0x65000005 id) = [(1, .barrierArrival 0 5)] := by decide +kernel

/-- R89: PLIL p2, 0, 0x4000 of 0x80000 gives 0x84000. -/
theorem test_plil : left (at_ 1 0x01204000 (withP 2 0x80000)) = [(1, .registerWrite 0 (.p 2 0x84000))] := by
  decide +kernel

/-- R90: LDR d1, [p2-256] with p2 = 0x500 names 0x400, checked at t+1. -/
theorem test_ldr_address : (left (at_ 1 0x1112FFF0 (withP 2 0x500))).map (fun x => (x.1, match x.2 with
    | .ldAddressCheck a => some (a.ea, a.size, a.tg)
    | _ => none)) = [(1, some (0x400, 256, 1))] := by decide +kernel

/-- R84: a check of a misaligned word is fault 0x22 with its address, at its own cycle. -/
theorem test_misaligned : (match exec .ldAddressCheck ((at_ 1 0 id).doing (.ldAddressCheck
      { kind := .load, tg := 1, size := 4, ea := 0x102, lanes := [], data := zeroLanes, solo := none, gen := none })) with
    | .next t => t.parts.map fun q => q.faultsNow.map fun f => (f.code, f.detail)
    | _ => []) = [[(0x22, [0x102, 0])]] := by decide +kernel

/-- R94: LDG d5, [p4+d6], l1 selects the lanes of l1. -/
theorem test_gather_lanes : (left (at_ 1 0x20546400 fun x => withP 4 0x1000 (withD 6 [1, 7, 2] { x with l := x.l.set 1 5 }))).map
    (fun x => match x.2 with
      | .ldAddressCheck a => a.lanes
      | _ => []) = [[(0, 0x1004), (2, 0x1008)]] := by decide +kernel

/-- R299: AGADV ag2, -1 takes POS from 0 to 0xFFFFFFFF. -/
theorem test_agadv : (left (at_ 1 0x3108FFF0 id)).map (fun x => match x.2 with
    | .registerWrite _ (.ag n m v) => (n, (v &&& m) >>> 192)
    | _ => (9, 0)) = [(2, 0xFFFFFFFF)] := by decide +kernel

/-- R127 to R129: the fused product that FMUL and FADD lose. -/
theorem test_fmul_tie : fmul .rne 0x3F800800 0x3F800800 = (0x3F801000, fINX) := by decide +kernel
theorem test_fadd_zero : fadd .rne 0x3F801000 0xBF801000 = (0, 0) := by decide +kernel
theorem test_fma : ffma .rne false false 0x3F800800 0x3F800800 0xBF801000 = (0x33800000, 0) := by decide +kernel

/-- R107: FP32 to E4M3 under RNE: 300.0, 460.0, 470.0 and -0.001. -/
theorem test_e4m3 : narrowTo e4m3 .rne 0x43960000 = (0x79, fINX) ∧ narrowTo e4m3 .rne 0x43E60000 = (0x7E, fINX) ∧
    narrowTo e4m3 .rne 0x43EB0000 = (0x7E, fSAT ||| fINX) ∧
    narrowTo e4m3 .rne 0xBA83126F = (0x81, fUNF ||| fINX) := by decide +kernel

/-- R108: 0x3F808000 to BF16 under .sr with seed 0 gives 1.0, inexact. -/
theorem test_stochastic : narrowTo bf16 (Rnd.ofCode 4 0 (ulp32 0x3F808000)) 0x3F808000 = (0x3F80, fINX) := by
  decide +kernel

/-- R114: -2.5 to INT32 is -2 under RNE, RZ and RU, and -3 under RD; 3.0e9 is 0x7FFFFFFF. -/
theorem test_to_int : (toInt32 .rne 0xC0200000).1 = 0xFFFFFFFE ∧ (toInt32 .rz 0xC0200000).1 = 0xFFFFFFFE ∧
    (toInt32 .ru 0xC0200000).1 = 0xFFFFFFFE ∧ (toInt32 .rd 0xC0200000).1 = 0xFFFFFFFD ∧
    toInt32 .rz 0x4F32D05E = (0x7FFFFFFF, fINV ||| fSAT) := by decide +kernel

/-- R117, R118: the first two blocks of the example of CVTMX4, and -0.0 of lane 1 read back. -/
theorem test_mx_block : mxBlock e2m1 2 0 0 ([0x42C80000, 0xC0400000, 0x40A00000] ++ List.replicate 29 0) =
    (0x83, [7, 8, 1] ++ List.replicate 29 0, fINX ||| fUNF) := by decide +kernel

/-- R121: the example codebook under RNE. -/
theorem test_cb4enc : let cb : BitVec 256 := 0x40004000_3F000000BF80
    cb4enc cb 0 0 0x3FA00000 = (2, fINX) ∧ cb4enc cb 0 0 0x40000000 = (3, 0) ∧
    cb4enc cb 0 0 0xC0400000 = (0, fSAT ||| fINX) ∧ cb4enc cb 0 0 0x7FC00000 = (0, fINV) := by decide +kernel

/-- R148, R149: the examples of the special functions. -/
theorem test_exp : fexp 0x3F800000 = (0x402DF854, fINX) := by decide +kernel
theorem test_log : flog 0x40000000 = (0x3F317218, fINX) := by decide +kernel
theorem test_rcp : frcp 0x40400000 = (0x3EAAAAAB, fINX) ∧ frcp 0x7F000000 = (0x00400000, 0) ∧
    frcp 0x00100000 = (0x7F800000, fOVF ||| fINX) := by decide +kernel
theorem test_rsq : frsq 0x40800000 = (0x3F000000, 0) := by decide +kernel

/-- R153: the seam of the example table at 1 - 2^-24. -/
theorem test_tiev : tiev (lanesOf ([0, 0] ++ List.replicate 2 0)) true 0x7FC00001 = (0x7FC00001, 0) := by decide +kernel

/-- R154: 2^24, 1, 1 and 1 sum to 16777218 by the tree, with INX. -/
theorem test_tree_sum : reduce (fadd .rne) 3 0 ([0x4B800000, 0x3F800000, 0x3F800000, 0x3F800000, 0, 0, 0, 0].map some) =
    (0x4B800001, fINX) := by decide +kernel

/-- R155: sixteen 4.0 and sixteen 6.0 have mean 5.0 and variance 1.0. -/
theorem test_stat : stat 5 (List.replicate 16 0x40800000 ++ List.replicate 16 0x40C00000) = (0x40A00000, 0x3F800000, 0) := by
  decide +kernel

/-- R158: the counter 0xFFFFFF40 is 0x100000040 after a VRNG, at t+1. -/
theorem test_vrng_counter : (left (at_ 2 0x48280080 fun x => { x with va := { x.va with ctr := 0xFFFFFF40 } })).filterMap
    (fun x => match x.2 with
      | .registerWrite _ (.ctr _ c) => some (x.1, c)
      | _ => none) = [(1, 0x100000040)] := by decide +kernel

/-- R140: CPYL s7, a2, 200 takes lane 200, at t+3. -/
theorem test_cpyl : left (at_ 5 0x020762C8 (withA 2 (List.replicate 200 0 ++ [7, 8]))) =
    [(3, .registerWrite 0 (.s 7 7))] := by decide +kernel

/-- R144: QPOP a0, q1, 2 of an empty queue is fault 0x14 naming q1. -/
theorem test_pop_empty : (match step (at_ 5 0x0560A102 id) with
    | .next t => t.parts.map fun q => q.faultsNow.map fun f => (f.code, f.src, f.detail.head?)
    | _ => []) = [[(0x14, 5, some 1)]] := by decide +kernel

/-- R276: XFER h2, 40 starts 40 cycles after its issue. -/
theorem test_xfer_start : (left (at_ 7 0x08200028 id)).map (fun x => (x.1, match x.2 with
    | .teCommandStart c => (c.op, c.start)
    | _ => (0, 0))) = [(40, (0x08, 40))] := by decide +kernel

/-- R280: SHP h3, 0x1200 reads 16 bytes there at t+2 for t+3. -/
theorem test_shp : (left (at_ 7 0x01300120 id)).map (fun x => (x.1, match x.2 with
    | .bankAccess b => some b.act
    | _ => none)) = [(2, some (.load 0x1200 16 (.shape 3 3)))] := by decide +kernel

/-- R168: SLATCH 5, q2, bf16 takes the head of q2 for row 5 at t+2. -/
theorem test_slatch : (left (at_ 4 0x01278005 (withQ 2 [row 3]))).map (fun x => (x.1, match x.2 with
    | .shadowRowWrite r ws f b => (r, ws.head?, f, b)
    | _ => (99, none, 0, none))) = [(2, (5, some 3, 0, none))] := by decide +kernel

/-- R43 to R46: the head segment of the example of the segments' chapter. -/
theorem test_segment : let g := parseSegment 0 ([0x13, 0, 0, 0, 2, 0x30, 0, 0, 0, 0, 0, 0, 0, 0, 0, 0,
      3, 5, 0, 8, 0x20, 0, 1, 0x10, 4, 1, 0x17, 0, 0, 0x45, 1, 1, 0x80, 0x10, 0x20] ++ List.replicate 13 0)
    g.valid = true ∧ g.head.next = 3 ∧ g.head.timed = false ∧
    g.bundles.map (fun b => b.take 2) = [[0x20080005, 0x04100100], [0x45000017, 0], [0x20108001, 0]] ∧
    segmentSize g.head.len = 48 ∧ expansionCost 11 = 25 := by decide +kernel

/-- R6, R91: a store of a word writes its bytes, the least significant first. -/
theorem test_store_bytes : (match exec .bankAccess ((at_ 1 0 id).doing (.bankAccess
      { holder := 0, req := 0, cyc := 0, act := .store 0x100 (wordBytes 0x11223344) })) with
    | .next t => (t.core 0).spad
    | _ => []) = [(0x100, 0x44), (0x101, 0x33), (0x102, 0x22), (0x103, 0x11)] := by decide +kernel

/-- R1: the first step from reset is the bell of GTC 0, and the word placed by `withFetchWord` is the first to run. -/
theorem test_first_step : (left (State.reset.withFetchWord 32 0x01184400)) = [(1, .registerWrite 0 (.s 3 0))] ∧
    State.reset.due.map Timed.what = [.bell] := by decide +kernel

/-- R268: a package that is off does not step. -/
theorem test_powered_off : step { State.reset with on := false } = .fault .poweredOff := rfl

/-- The example vector of AES-256 of the named standard (R238). -/
theorem test_aes256 : leNat (aesEncrypt (roundKeys ((List.range 32).map (BitVec.ofNat 8)))
      ((List.range 16).map fun i => BitVec.ofNat 8 (17 * i))) = 0x8960494B9049FCEABF456751CAB7A28E := by decide +kernel

/-- SHAKE256 of the empty message begins 46 B9 DD 2B 0B A8 8D 13 (R355). -/
theorem test_shake256 : (shake256 []).take 8 = [0x46, 0xB9, 0xDD, 0x2B, 0x0B, 0xA8, 0x8D, 0x13] := by decide +kernel
/-! ### For every statement with hypotheses, states and operands that meet them -/

/-- Core 0's sequencer in the middle of a segment of 256 bundles, and the same with a transfer called for. -/
def seq0 : Seq := (at_ 0 0 id).myCtx.seq
def s0 : State := at_ 0 0 id

theorem witness_ImmediatesAndSelect : ((8191 : Nat) < 2 ^ 14 ∧ (31 : Nat) < 32 ∧ (524287 : Nat) < 2 ^ 19) ∧ s0.Takes 0 false ∧
    ¬ s0.Takes 0 true := by
  unfold State.Takes; decide +kernel

theorem witness_IntegerArithmeticAndLogic : (Instr.clz { sd := 1, sa := 2, sb := 0, g := 0, neg := false, fn := 0 }).wf = true ∧
    (Instr.popc { sd := 1, sa := 2, sb := 0, g := 0, neg := false, fn := 0 }).wf = true := ⟨rfl, rfl⟩

theorem witness_MultiplyAndDivide : (Instr.remu { sd := 1, sa := 2, sb := 3, g := 7, neg := true, fn := 0 }).wf = true := rfl

theorem witness_ComparesAndGuards : (16383 : Nat) < 2 ^ 14 ∧ s0.Takes 0 false ∧ ¬ s0.Takes 3 false := by
  unfold State.Takes; decide +kernel

theorem witness_BranchesAndJumps : (let f : SB := { g := 0, neg := false, off := 5 }
    s0.Clear (.br f) ∧ s0.Clear (.call f) ∧ s0.Clear (.segj f)) ∧
    s0.Clear (.ret { g := 0, neg := true, off := 0 }) ∧ s0.Takes 0 false ∧ ¬ s0.Takes 0 true := by
  unfold State.Clear State.Takes; decide +kernel

theorem witness_DelayBundles : (let q := seq0
    q.next = .bundle (q.idx + 1) ∧ q.nextLevels = q.levels ∧ q.filler = false ∧ q.jump = false ∧ q.idx + 2 < q.count ∧
    (∀ l ∈ q.levels, l.last ≠ q.idx + 1 ∧ l.last ≠ q.idx + 2) ∧ q.xfer = none ∧ q.idx + 3 < q.count) ∧
    (let q : Seq := { seq0 with xfer := some (3, .bundle 9), levels := [{ level := 0, first := 10, last := 90, count := 2 }],
                                nextLevels := [{ level := 0, first := 10, last := 90, count := 2 }] }
     q.next = .bundle (q.idx + 1) ∧ q.nextLevels = q.levels ∧ q.filler = false ∧ q.jump = false ∧ q.idx + 2 < q.count ∧
     (∀ l ∈ q.levels, l.last ≠ q.idx + 1 ∧ l.last ≠ q.idx + 2) ∧ q.xfer = some (0 + 3, .bundle 9)) := by
  decide +kernel

theorem witness_LoopsBeginAndRepeat : (let f : SL := { level := 2, len := 3, cnt := 512 }
    s0.Clear (.loop f) ∧ s0.Clear (.loopi f)) ∧
    (let inner : Level := { level := 1, first := 65, last := 66, count := 1 }
     let outer : Level := { level := 0, first := 60, last := 80, count := 4 }
     let q : Seq := { seq0 with next := .bundle 65, nextLevels := [inner, outer] }
     q.next = .bundle 65 ∧ q.xfer = none ∧ q.filler = false ∧ 1 ≤ inner.count ∧ inner.first ≤ inner.last ∧
     inner.last + 1 < q.count ∧ q.nextLevels = [inner, outer] ∧ ∀ l ∈ [outer], inner.last < l.last) := by
  unfold State.Clear; decide +kernel

theorem witness_StopsWaitsAndEnd : (let f : SR := { sd := 0, sa := 2, sb := 0, g := 0, neg := false, fn := 0 }
    let s := at_ 0 0 (withS [(2, 40)])
    s.Clear (.tchk f) ∧ s.Clear (.twait f) ∧ s.Takes 0 false) ∧
    (let f : SR := { sd := 0, sa := 2, sb := 0, g := 0, neg := true, fn := 0 }
     s0.Clear (.tchk f) ∧ s0.Clear (.twait f) ∧ ¬ s0.Takes 0 true) ∧
    (let s := atT 1 s0
     (s.core s.me).regBad = [] ∧ s.Takes 0 false ∧ 0 < s.t ∧ s.cur.slot = 0) ∧
    s0.me < 384 ∧ s0.Clear (.endI { sd := 0, sa := 0, sel := 0 }) := by
  unfold State.Clear State.Takes; decide +kernel

theorem witness_SpecialRegisterValues : s0.me < 384 ∧ s0.coords.1 < 8 ∧ s0.coords.2.1 < 8 ∧ s0.coords.2.2 < 8 ∧
    (∀ l ∈ s0.myCtx.seq.levels, l.level ≠ 2) ∧
    (let s := at_ 0 0 fun x => { x with seq := { x.seq with levels := [{ level := 2, first := 1, last := 90, count := 7 }] } }
     ∃ l, s.myCtx.seq.levels = [l] ∧ l.level = 2) ∧
    (0x0000 : Nat) ∉ [0x0004, 0x0006, 0x0108, 0x010A, 0x0110, 0x0112] :=
  ⟨by decide +kernel, by decide +kernel, by decide +kernel, by decide +kernel, by decide +kernel,
    ⟨{ level := 2, first := 1, last := 90, count := 7 }, by decide +kernel, rfl⟩, by decide⟩

theorem witness_SpecialRegisterWrites : (Instr.wrsr { sd := 0, sa := 3, sel := 0x0201 }).wf = true ∧
    (Instr.wrsr { sd := 0, sa := 3, sel := 0x0100 }).wf = true ∧ (Instr.wrsr { sd := 0, sa := 3, sel := 0x0105 }).wf = true :=
  ⟨rfl, rfl, rfl⟩

theorem witness_PigeonholesAndSamples : (∃ q, s0.part (s0.partOf s0.me) = some q ∧
      (∀ w ∈ s0.pigWrites, w.part = q.num → w.n ≠ 64)) ∧
    (∃ q, ∃ w : PigWrite, ({ s0 with pigWrites := [⟨1, 127, 0, 5⟩] } : State).part 1 = some q ∧
      ({ s0 with pigWrites := [⟨1, 127, 0, 5⟩] } : State).pigWrites = [w] ∧ w.part = q.num ∧ w.n = 127) ∧
    s0.Clear (.pgwr { sd := 0, sa := 4, sel := 70 }) := by
  refine ⟨⟨(s0.part 1).getD (part1), by decide +kernel⟩,
    ⟨(s0.part 1).getD (part1), ⟨1, 127, 0, 5⟩, by decide +kernel⟩, ?_⟩
  unfold State.Clear; decide +kernel

theorem witness_BarrierExpectation : (Instr.binit { sd := 0, sa := 5, sel := 47 }).wf = true ∧ (47 : Nat) < 48 := by decide

/-- CKPT issued at TTC 4032 by cores 0, 1, 8 and 96, of which the others have ended. -/
def sCkpt : State := atT 4032 ((at_ 0 0x6C000000 id).modSeq fun q => { q with issued := 4032 })

theorem witness_SignalsBetweenCores : (let s := s0
    s.Clear (.solo { sd := 0, sa := 1, sel := 0 }) ∧ s.Clear (.bchk { sd := 0, sa := 0, sel := 47 }) ∧
    s.Clear (.acqsW { sd := 0, sa := 0, sel := 4 }) ∧ s.Clear (.acqsR { sd := 0, sa := 0, sel := 4 }) ∧
    s.Clear (.relsW { sd := 0, sa := 0, sel := 4 }) ∧ s.Clear (.relsR { sd := 0, sa := 0, sel := 4 }) ∧
    s.Clear (.spawn { sd := 10, sa := 6, sel := 3 })) := by
  unfold State.Clear; decide +kernel

/-- BARR of ranks 0, 1, 2 and 3 (its own core, its cluster, its die, another die) and of a rank beyond the last. -/
def sBarr (r : Word) : State := at_ 0 0 (withS [(5, r)])
def targetOf (s : State) : Option Nat := (s.part (s.partOf s.me)).bind fun q => q.cores[(s.myCtx.rs 5).toNat % 2 ^ 16]?

/-- The transfer of the BARR to the other die fails. -/
def sBarrLost : State := { sBarr 3 with linkErrs := [(0, 0, 0)] }

theorem witness_BarrierArrivals : ((sBarr 0).Clear (.barr { sd := 0, sa := 5, sel := 5 }) ∧ targetOf (sBarr 0) = some 0 ∧
      (sBarr 0).Admits 0 true) ∧
    ((sBarr 1).Clear (.barr { sd := 0, sa := 5, sel := 5 }) ∧ targetOf (sBarr 1) = some 1 ∧ (sBarr 1).Admits 1 true) ∧
    ((sBarr 2).Clear (.barr { sd := 0, sa := 5, sel := 5 }) ∧ targetOf (sBarr 2) = some 8 ∧ (sBarr 2).Admits 8 true) ∧
    ((sBarr 3).Clear (.barr { sd := 0, sa := 5, sel := 5 }) ∧ targetOf (sBarr 3) = some 96 ∧ (sBarr 3).Admits 96 true ∧
      ((sBarr 3).me, (sBarr 3).t, (sBarr 3).cur.who.src) ∉ (sBarr 3).linkErrs) ∧
    (sBarrLost.Clear (.barr { sd := 0, sa := 5, sel := 5 }) ∧ targetOf sBarrLost = some 96 ∧ sBarrLost.Admits 96 true ∧
      (96 / 96 ≠ sBarrLost.me / 96) ∧ (sBarrLost.me, sBarrLost.t, sBarrLost.cur.who.src) ∈ sBarrLost.linkErrs) ∧
    ((sBarr 4).Clear (.barr { sd := 0, sa := 5, sel := 5 }) ∧ part1.cores.length ≤ ((sBarr 4).myCtx.rs 5).toNat % 2 ^ 16) := by
  unfold State.Clear State.Admits; decide +kernel

theorem witness_CheckpointLine : sCkpt.me < 384 ∧ sCkpt.myCtx.life = .running ∧
    sCkpt.Clear (.ckpt { sd := 0, sa := 0, sel := 0 }) ∧
    (∃ q, sCkpt.part (sCkpt.partOf sCkpt.me) = some q ∧ (sCkpt.lineSplit q sCkpt.t).1.head? = some (sCkpt.rankOf sCkpt.me)) ∧
    (sCkpt.ctx 5).life ≠ .ended := by
  refine ⟨by decide +kernel, by decide +kernel, ?_, ⟨(sCkpt.part 1).getD (part1), by decide +kernel⟩,
    by decide +kernel⟩
  unfold State.Clear; decide +kernel
theorem witness_PointersAndGenerators : (65535 : Nat) < 2 ^ 16 ∧ (3 : Nat) < 4 ∧ s0.Takes 0 false ∧ ¬ s0.Takes 5 false := by
  unfold State.Takes; decide +kernel

theorem witness_AccessesLeftToCheck : s0.Takes 0 false ∧ ¬ s0.Takes 0 true := by
  unfold State.Takes; decide +kernel

/-- A core with an STNT issued at cycle 3 that no DRAIN covers. -/
def sDrain (covered : Option Nat) : State :=
  s0.modCore 0 fun k => { k with stnts := [{ issue := 3, bundle := 0, covered := covered, units := [] }] }

theorem witness_DrainCovers : s0.me < 384 ∧ s0.Takes 0 false ∧ ¬ s0.Takes 0 true ∧
    (∀ r ∈ ((sDrain (some 2051)).core 0).stnts, r.covered ≠ none) ∧
    (∃ r ∈ ((sDrain none).core 0).stnts, r.covered = none) := by
  unfold State.Takes; decide +kernel

/-- Operands of every kind that the clauses of `FloatResults` tell apart: 1.0, 2.0, the zeros, infinity and a signalling NaN. -/
theorem witness_FloatResults : (FV.of32 0x3F800000).isNaN = false ∧ (FV.of32 0x3F800000).isInf = false ∧
    (FV.of32 0x7F800000).isInf = true ∧ (FV.of32 0x7F800000).isNaN = false ∧ (FV.of32 0x7F800001).isNaN = true ∧
    ((FV.of32 0).isZero && (FV.of32 0x7F800000).isInf) = true ∧ ((FV.of32 0x3F800000).isZero && (FV.of32 0x7F800000).isInf) = false ∧
    ((FV.of32 0xFF800000).isInf = true ∧ (FV.of32 0xFF800000).neg ≠ (FV.of32 0x7F800000).neg) ∧
    ((FV.of32 0x80000000).isZero = true ∧ (FV.of32 0).isZero = true ∧ (0x80000000 : Word).getLsbD 31 = true) := by decide +kernel

theorem witness_FloatResults_below : (FV.of32 0x3F800000).Below (FV.of32 0x40000000) ∧
    ¬ (FV.of32 0x40000000).Below (FV.of32 0x3F800000) := by
  have h1 : FV.of32 0x3F800000 = .fin false 8388608 (-23) := by decide +kernel
  have h2 : FV.of32 0x40000000 = .fin false 8388608 (-22) := by decide +kernel
  rw [h1, h2]
  constructor <;> norm_num [FV.Below, FV.real]

theorem witness_NearestIsNearest : (fp32.round .rne false 1 (-149)).1 ≤ 0x7F7FFFFF ∧
    (fp32.round .rne false 0xFFFFFF 104).1 ≤ 0x7F7FFFFF ∧ 0x7F7FFFFF ≤ 0x7F7FFFFF := by decide +kernel

theorem witness_SignOperations : (Instr.fabs { vd := 23, va := 1, vb := 0, mask := 7, rnd := 0, sub := 0 }).wf = true ∧
    (Instr.fneg { vd := 23, va := 1, vb := 0, mask := 7, rnd := 0, sub := 0 }).wf = true ∧
    (Instr.fcps { vd := 23, va := 1, vb := 2, mask := 7, rnd := 0, sub := 0 }).wf = true := by decide

theorem witness_SelectByMask : (Instr.fsel { vd := 7, va := 8, vb := 9, mask := 4, rnd := 0, sub := 0 }).wf = true ∧
    (s0.vunit.rm 0).getLsbD 255 = true ∧ (s0.vunit.rm 4).getLsbD 0 = false := by decide +kernel

theorem witness_IntegerLaneResults : (2047 : Nat) < 2 ^ 11 ∧ (255 : Nat) < 256 ∧ (s0.vunit.rm 0).getLsbD 255 = true := by
  decide +kernel

theorem witness_LaneMovementAndMasks : (65535 : Nat) < 2 ^ 16 ∧ (255 : Nat) < 256 := by decide

theorem witness_ReductionsAndStatistics : (5 : Nat) ≤ 5 ∧ (3 : Nat) ≤ 3 ∧ (8 : Nat) ≤ 8 ∧
    (FV.of32 0x7F7FFFFF).isNaN = false ∧ (FV.of32 0x7F7FFFFF).isInf = false := by decide +kernel

theorem witness_ConversionValues : (FV.of32 0xC0200000).isNaN = false ∧ (FV.of32 0xC0200000).isInf = false ∧
    ((0x3F80 : Nat) < 2 ^ 16 ∧ (FV.ofBF16 0x3F80).isNaN = false ∧ (FV.ofBF16 0x3F80).isInf = false) ∧
    ((0xFE : Nat) < 2 ^ 8 ∧ (FV.ofE4M3 0xFE).isNaN = false ∧ (FV.ofE4M3 0xFE).isInf = false) ∧
    ((0x7B : Nat) < 2 ^ 8 ∧ (FV.ofE5M2 0x7B).isNaN = false ∧ (FV.ofE5M2 0x7B).isInf = false) := by decide +kernel

theorem witness_BlockScaleAndNearestEntry : (∀ w ∈ ([0x42C80000, 0] : List Word), (FV.of32 w).isNaN = false) ∧
    0 < (mxBlock e2m1 2 0 0 [0x42C80000, 0]).1 ∧ (∃ w ∈ ([0x42C80000, 0] : List Word), (FV.of32 w).real ≠ 0) ∧
    (FV.of32 0x3FA00000).isNaN = false ∧ (FV.of32 0x3FA00000).isInf = false ∧
    ∀ j, j < 16 → (bookEntry 0x40004000_3F000000BF80 j).isNaN = false ∧ (bookEntry 0x40004000_3F000000BF80 j).isInf = false := by
  have : FV.of32 0x42C80000 = .fin false 13107200 (-17) := by decide +kernel
  refine ⟨?_, by decide +kernel, ⟨0x42C80000, by simp, by rw [this]; norm_num [FV.real]⟩, by decide +kernel, by decide +kernel,
    by decide +kernel⟩
  intro w hw
  rcases List.mem_cons.mp hw with rfl | hw
  · decide +kernel
  · rcases List.mem_singleton.mp hw with rfl
    decide +kernel

/-- A table over [1, 65), with lo = 1 and e = 0. -/
def tie1 : Lanes := (zeroLanes.set 0 0x3F800000).set 194 0x40000000

theorem witness_FunctionsAndTables : (3 : Nat) < 4 ∧ (FV.of32 0x40000000).isNaN = false ∧ (FV.of32 0x40000000).isInf = false ∧
    (FV.of32 (fexp 0x40000000).1).isInf = false ∧
    (FV.of32 (lane tie1 0)).isNaN = false ∧ (FV.of32 (lane tie1 0)).isInf = false ∧ -126 ≤ (lane tie1 1).toInt ∧
    (lane tie1 1).toInt ≤ 104 ∧ (FV.of32 0x7FC00000).isNaN = true ∧
    -- slopes: zero, a number; an infinite x
    (lane tie1 196 = 0) ∧ (lane tie1 194 ≠ 0 ∧ lane tie1 194 ≠ 0x80000000) ∧ (FV.of32 (lane tie1 194)).isInf = false ∧
    (FV.of32 (lane tie1 195)).isInf = false ∧ (FV.of32 0xFF800000).isInf = true := by decide +kernel

theorem witness_FunctionsAndTables_values : (FV.of32 0x3F800000).real = 1 ∧ (FV.of32 0x40000000).real = 2 ∧
    (FV.of32 0x42820000).real = 65 ∧ (FV.of32 0).real = 0 ∧ (FV.of32 0).Below (FV.of32 0x3F800000) ∧
    (FV.of32 0xFF800000).Below (FV.of32 0x3F800000) := by
  have h1 : FV.of32 0x3F800000 = .fin false 8388608 (-23) := by decide +kernel
  have h2 : FV.of32 0x40000000 = .fin false 8388608 (-22) := by decide +kernel
  have h3 : FV.of32 0x42820000 = .fin false 8519680 (-17) := by decide +kernel
  have h4 : FV.of32 0 = .fin false 0 (-149) := by decide +kernel
  have h5 : FV.of32 0xFF800000 = .inf true := by decide +kernel
  rw [h1, h2, h3, h4, h5]
  refine ⟨?_, ?_, ?_, ?_, ?_, ?_⟩ <;> norm_num [FV.real, FV.Below]

theorem witness_ReciprocalsAreNearest : 0 < (FV.of32 0x40400000).real ∧ (FV.of32 0xC0400000).real < 0 ∧
    (FV.of32 0x3EAAAAAB).isNaN = false ∧ (FV.of32 0x3EAAAAAB).isInf = false ∧
    (FV.of32 (frcp 0x40400000).1).isInf = false := by
  have h1 : FV.of32 0x40400000 = .fin false 12582912 (-22) := by decide +kernel
  have h2 : FV.of32 0xC0400000 = .fin true 12582912 (-22) := by decide +kernel
  refine ⟨?_, ?_, by decide +kernel, by decide +kernel, by decide +kernel⟩
  · rw [h1]; norm_num [FV.real]
  · rw [h2]; norm_num [FV.real]

theorem witness_RandomDraws : (Instr.vrng { vd := 5, va := 0, vb := 0, mask := 2, rnd := 0, sub := 0 }).wf = true ∧
    (Instr.vrngk { vd := 0, va := 1, vb := 0, mask := 0, rnd := 0, sub := 0 }).wf = true ∧
    (Instr.vrngc { vd := 0, va := 7, vb := 0, mask := 0, rnd := 0, sub := 0 }).wf = true ∧
    (Instr.vskip { vd := 0, va := 8, vb := 0, mask := 0, rnd := 0, sub := 0 }).wf = true := by decide

/-- A row in q1, in o1 and in lq5, and the same rows poisoned. -/
def sRows (u : Option ErrUnit) : State := at_ 5 0 fun x => withQ 1 [{ row 3 with poison := u }]
  (withQ 11 [{ row 3 with words := List.replicate 128 3, poison := u }] (withQ 9 [{ row 3 with poison := u }] x))

theorem witness_CopiesAndQueues : ∀ u ∈ [none, some (ErrUnit.port 1)],
    (let f : XC := { dfile := 3, dreg := 0, sfile := 5, sreg := 1, aux := 3 }
     (sRows u).Clear (.qpeek f) ∧ (sRows u).Clear (.qpop f) ∧ queueOf f.sfile f.sreg < 12 ∧
     ((sRows u).myCtx.queue (queueOf f.sfile f.sreg)).map Row.poison = [u]) ∧
    (let f : XC := { dfile := 2, dreg := 4, sfile := 6, sreg := 1, aux := 1 }
     (sRows u).Clear (.qpeek f) ∧ (sRows u).Clear (.qpop f) ∧ queueOf f.sfile f.sreg < 12 ∧
     ((sRows u).myCtx.queue (queueOf f.sfile f.sreg)).map Row.poison = [u]) ∧
    (let f : XC := { dfile := 3, dreg := 0, sfile := 7, sreg := 5, aux := 0 }
     (sRows u).Clear (.qpeek f) ∧ (sRows u).Clear (.qpop f) ∧ queueOf f.sfile f.sreg < 12 ∧
     ((sRows u).myCtx.queue (queueOf f.sfile f.sreg)).map Row.poison = [u]) ∧
    ((sRows u).me < 384 ∧ (3 : Nat) < 4 ∧ (((sRows u).ctx 383).queue 3).length < 8) := by
  unfold State.Clear; decide +kernel
/-- Core 0 with a row in q0, q1, q2 and o0, and an instruction in the MX slot. -/
def sMx : State := at_ 4 0 fun x => withQ 0 [row 1] (withQ 1 [row 2] (withQ 2 [row 3] x))
def fMx : MXF := { qa := 0, pa := false, qb := 1, pb := false, fmt := 0, flags := 32 }

theorem witness_MatrixSlot : sMx.Clear (.slatch fMx) ∧ sMx.Clear (.sswap fMx) ∧ sMx.Clear (.spush fMx) ∧
    sMx.Clear (.svpair fMx) ∧ sMx.Clear (.vopa fMx) ∧ sMx.Clear (.vzero fMx) ∧ sMx.Clear (.vdrain fMx) ∧
    sMx.myCtx.mx.dp < 64 ∧ sMx.Clear (.cbld fMx) ∧ (((sMx.myCtx.queue 0).head?.map Row.words).getD []).length = 64 := by
  unfold State.Clear; decide +kernel

/-- Values for the clauses on scores and sums: rows of one class, an infinity, a NaN, and products that are invalid. -/
theorem witness_MatrixSlot_scores : (List.replicate 512 (FV.of32 0)).length = 512 ∧ (FV.of32 0x3F800000).isNaN = false ∧
    (FV.of32 0x3F800000).isInf = false ∧ (FV.of32 0x7FC00000 :: [(FV.of32 0, FV.of32 0)].flatMap fun p => [p.1, p.2])[0]? =
      some (.nan 0x7FC00000 false) ∧
    ((FV.of32 0).isZero = true ∧ (FV.of32 0x7F800000).isInf = true) ∧ FV.of32 0xFF800000 = .inf true ∧
    FV.of32 0x7F800000 = .inf false := by decide +kernel

theorem witness_MatrixSteps : sMx.me < 384 ∧ (63 : Nat) < 64 ∧ (sMx.myCtx.queue 10).length < 8 ∧
    (sMx.myCtx.queue 11).length < 8 ∧ (sMx.core sMx.me).mxBad = [] ∧ (sMx.core sMx.me).mxSoft = [] := by decide +kernel

/-- A beat of a block, and core 0 with that block open. -/
def beat0 : Beat := { keyed := true, issue := 0, scores := List.replicate 64 0, mask := 1, qb := 1, peek := false }
def block0 : Block := { first := 0, cfg := 0, number := 0, beats := [beat0], probs := [] }
def sOpen : State := sMx.modMx 0 fun m => { m with isOpen := true, blocks := [block0] }

theorem witness_ChainSlot : sMx.Clear (.chs fMx) ∧ sMx.me < 384 ∧ sMx.Clear (.chb fMx) ∧ sMx.myCtx.life ≠ .ended ∧
    sOpen.Clear (.chb fMx) ∧ sOpen.myCtx.life ≠ .ended ∧ sMx.Clear (.sshift fMx) ∧ sMx.myCtx.mx.isOpen = false ∧
    sOpen.Clear (.sshift fMx) ∧ sOpen.myCtx.mx.isOpen = true ∧ sMx.Clear (.chn fMx) ∧ sMx.myCtx.mx.dp < 64 ∧
    sMx.Clear (.chsv fMx) ∧ sMx.Clear (.chld fMx) := by
  unfold State.Clear; decide +kernel

theorem witness_ChainSteps : sOpen.me < 384 ∧ sOpen.myCtx.mx.block 0 = some block0 ∧ block0.beats[0]? = some beat0 ∧
    sOpen.myCtx.queue beat0.qb = [row 2] ∧ beat0.qb < 4 ∧ beat0.peek = false ∧ (row 2).poison = none ∧
    block0.valueTag 0 = none ∧ (sOpen.core sOpen.me).mxBad = [] ∧ (sOpen.core sOpen.me).mxSoft = [] ∧
    (sOpen.myCtx.queue 10).length < 8 ∧ (sOpen.myCtx.queue 11).length < 8 ∧ (63 : Nat) < 64 := by decide +kernel

def sTe : State := at_ 7 0 id
def fTe : TEF := { h := 2, lead := 40 }

theorem witness_TransferCommands : sTe.me < 384 ∧ sTe.Clear (.shp fTe) ∧ sTe.Clear (.tagset fTe) ∧ sTe.Clear (.xfer fTe) ∧
    sTe.Clear (.xferq fTe) ∧ sTe.Clear (.xstore fTe) ∧ sTe.Clear (.tlist fTe) ∧ sTe.Clear (.xred fTe) ∧
    sTe.Clear (.xacc fTe) ∧ sTe.Clear (.xmc fTe) ∧ sTe.Clear (.mkcfg fTe) ∧ sTe.Clear (.pptld fTe) ∧
    sTe.Clear (.vbmld fTe) ∧ sTe.Clear (.lsend fTe) ∧ sTe.Clear (.lfwd fTe) ∧ sTe.Clear (.nmc fTe) ∧
    sTe.Clear (.nmfence fTe) := by
  unfold State.Clear; decide +kernel

/-- Partition 1 of `s0`. -/
def q0 : Part := (s0.part 1).getD part1
/-- Its bundles of the present cycle judged. -/
def sJudged : State := s0.modPart 1 fun q => { q with judged := some 0 }

/-- Core 0 about to enter the segment in half B, at TTC 1: not resident, not yet complete, or complete. -/
def segAt (valid timed : Bool) (stamp next : Nat) : Segment :=
  { segmentFor 0 0 with off := 0x500000, valid := valid,
                        head := { (segmentFor 0 0).head with timed := timed, stamp := stamp, next := next } }
def enterAt (h : Option Half) : State :=
  { s0.modSeq (fun q => { q with halfB := h, next := .enter }) with gtc := 1 }
def halfB (ready : Nat) (g : Segment) : Option Half := some { off := 0x500000, ready := ready, seg := some g }
/-- Its bundles judged: the segment issues its first bundle. -/
def entered (next : Nat) : State := (enterAt (halfB 0 (segAt true false 0 next))).modPart 1 fun q => { q with judged := some 1 }
/-- The first word of bundle 65 no instruction. -/
def illegalAt : State :=
  { s0.modSeq (fun q => { q with halfA := some { off := 0x400000, ready := 0, seg := some { segmentFor 0 0 with
      bundles := List.replicate 65 [] ++ [[0, 0x7F000001]] ++ List.replicate 190 [] } } }) with gtc := 1 }

theorem witness_BundlesAndExpansions : (383 : Nat) < 384 ∧ (sJudged.part (sJudged.partOf 0)).map (fun q =>
      (q.judged, q.ttc sJudged.gtc, q.faultsNow, q.joining)) = some (some 0, 0, [], false) ∧
    (sJudged.ctx 0).seq.next ≠ .enter ∧ (sJudged.core 0).regSoft = [] ∧ (sJudged.core 0).mxSoft = [] := by decide +kernel

theorem witness_BundlesAndExpansions_enter : ∀ n ∈ [0, 40],
    (entered n).part ((entered n).partOf 0) = some { q0 with judged := some 1 } ∧
    ({ q0 with judged := some 1 } : Part).ttc (entered n).gtc = 1 ∧
    ((entered n).ctx 0).seq.next = .enter ∧ ((entered n).core 0).regSoft = [] ∧ ((entered n).core 0).mxSoft = [] ∧
    (((entered n).ctx 0).seq.advance 1).resident = some (segAt true false 0 n) ∧
    ((segAt true false 0 n).head.next = 0 ↔ n = 0) := by decide +kernel

theorem witness_BundlesAndExpansions_halts : (let s := enterAt none
      s.part (s.partOf 0) = some q0 ∧ 0 ∈ q0.cores ∧ q0.judged ≠ some (q0.ttc s.gtc) ∧ q0.joining = false ∧
      q0.ttc s.gtc % 4032 ≠ 0 ∧ (s.ctx 0).seq.next = .enter ∧ ((s.ctx 0).seq.advance 1).resident = none) ∧
    (∀ a ∈ [(2, true, false, 1), (1, false, false, 0), (1, true, true, 7)],
      let g := segAt a.2.1 a.2.2.1 a.2.2.2 0
      let y := ((enterAt (halfB a.1 g)).ctx 0).seq.advance 1
      y.resident = some g ∧ y.half y.inB = halfB a.1 g) ∧
    ((2 : Nat) > q0.ttc 1 ∧ (segAt false false 0 0).valid = false ∧ (segAt true true 7 0).head.stamp ≠ q0.ttc 1 ∧
      ((enterAt (halfB 1 (segAt true true 7 0))).ctx 0).solo = none ∧
      (((enterAt (halfB 1 (segAt true true 7 0))).modCtx 0 fun x => { x with solo := some 0 }).ctx 0).solo ≠ none) ∧
    ((s0.modSeq fun q => { q with next := .exhausted }).ctx 0).seq.next = .exhausted := by decide +kernel

theorem witness_BundlesAndExpansions_illegal : let y := (illegalAt.ctx 0).seq.advance 1
    (illegalAt.ctx 0).seq.next = .bundle 65 ∧ y.words.getD 1 0 ≠ 0 ∧ (∀ j, j < 1 → y.words.getD j 0 = 0) ∧
    ∀ j, j < 8 → y.words.getD j 0 ≠ 0 → (match decodeSlot (slotKindOf j) (y.words.getD j 0) with
      | .ok _ => true
      | .error _ => false) = false := by decide +kernel

/-- Core 0 of a partition of two stages, its die's ring holding slot 5 of the partition in state `st`. -/
def slot5 (st : SlotState) (owner : Nat) : StageSlot := { part := 1, k := 5, state := st, owner := owner, holder := 0 }
def sStage (st : SlotState) (owner : Nat) : State :=
  (at_ 0 0 fun x => { x with stg := 0x20 }).modDie 0 fun d => { d with ring := d.ring.set 3 (slot5 st owner) }
/-- Core 1 in the partition and cluster of core 0, its life as given. -/
def sSpawn (l : Life) : State := s0.modCtx 1 fun x => { x with life := l, pid := 1, pcore := 1 }
/-- A step of core 1 due in the present cycle. -/
def byCore1 (w : Work) : Timed := { clock := some 1, due := 0, key := [], who := { s0.cur.who with core := 1 }, what := w }

theorem witness_SignalsArrive : ((s0.ctx 383).life ≠ .gated ∧ (s0.core 383).wasReset = false) ∧
    ((sSpawn .gated).part ((sSpawn .gated).partOf (sSpawn .gated).me) = some q0 ∧ ((sSpawn .gated).ctx 1).life = .gated ∧
      q0.cores.findIdx? (· == 1) = some 1) ∧
    (let s := (sSpawn .ended).modCore 1 fun k => { k with wasReset := true }
     s.part (s.partOf s.me) = some q0 ∧ (s.ctx 1).life ≠ .gated ∧ (s.core 1).wasReset = true) ∧
    (∀ a ∈ [(SlotState.empty, 0, true, false), (.writing, 0, true, true), (.full, 0, false, false), (.reading, 0, false, true)],
      let s := sStage a.1 a.2.1
      s.me < 384 ∧ s.partOf s.me ≠ 0 ∧ (s.die (dieOf s.me)).ring[3] = slot5 a.1 a.2.1 ∧ (slot5 a.1 a.2.1).part = s.partOf s.me ∧
      (∀ j : Fin 16, j ≠ 3 → ((s.die (dieOf s.me)).ring[j].part, (s.die (dieOf s.me)).ring[j].k) ≠ (1, 5)) ∧
      (s.due.all fun x => x.what.instr != .stagePerform) = true ∧
      ((slot5 a.1 a.2.1).after a.2.2.1 a.2.2.2 (s.myCtx.stg.toNat % 16) (s.myCtx.stg.toNat / 16 % 16) (s.rankOf s.me)).isSome = true ∧
      ((slot5 a.1 a.2.1).after (!a.2.2.1) a.2.2.2 (s.myCtx.stg.toNat % 16) (s.myCtx.stg.toNat / 16 % 16) (s.rankOf s.me)) = none) ∧
    (∀ j : Fin 16, ((s0.die (dieOf s0.me)).ring[j].part, (s0.die (dieOf s0.me)).ring[j].k) ≠ (s0.partOf s0.me, 9)) := by
  decide +kernel

theorem witness_SignalsArrive_several :
    (let x := byCore1 (.stagePerform true false 5)
     let s := { sSpawn .ended with due := [] ++ x :: [] }
     s.part (s.partOf s.me) = some q0 ∧ s.isDue x = true ∧ dieOf x.who.core = dieOf s.me ∧
       s.partOf x.who.core = s.partOf s.me) ∧
    (let x := byCore1 (.spawnDelivery 1 0x400 [])
     let s := { sSpawn .ended with due := [] ++ x :: [] }
     s.part (s.partOf s.me) = some q0 ∧ q0.cores[1]? = some 1 ∧ (s.ctx 1).life = .ended ∧ (s.core 1).wasReset = false ∧
       1 / 8 = s.me / 8 ∧ x.who.core / 8 = s.me / 8 ∧ x.who ≠ s.cur.who ∧ s.isDue x = true ∧
       s.partOf x.who.core = s.partOf s.me) := by decide +kernel

theorem witness_SignalsArrive_admits : ∀ l ∈ [Life.ended, .starting, .running], (sSpawn l).Admits 1 true ∧ (sSpawn l).Admits 8 true := by
  unfold State.Admits; decide +kernel

theorem witness_SignalsArrive_spawn : (∀ l ∈ [Life.ended, .starting, .running], let s := sSpawn l
      (1 : Nat) < 384 ∧ s.me < 384 ∧ s.part (s.partOf s.me) = some q0 ∧ q0.cores[1]? = some 1 ∧ (s.ctx 1).life = l ∧
      (s.core 1).wasReset = false ∧ 1 / 8 = s.me / 8 ∧ 1 ≠ s.me ∧ s.partOf 1 = s.partOf s.me ∧
      (s.due.all fun x => x.what.instr != .spawnDelivery) = true) ∧
    ([7] : List Word).length ≤ 31 ∧
    (q0.cores[2]? = some 8 ∧ (s0.ctx 8).life ≠ .gated ∧ (s0.core 8).wasReset = false ∧ 8 / 8 ≠ s0.me / 8) := by decide +kernel

/-- An access of core 0. -/
def acc (kind : AccessKind) (size : Nat) (ea : Ptr) : Access :=
  { kind := kind, tg := 1, ea := ea, size := size, data := zeroLanes, lanes := [], solo := none, gen := none }
/-- A gather or scatter of two lanes, of the groups 0 and 3. -/
def accLanes (kind : AccessKind) (size : Nat) : Access := { acc kind size 0x1000 with lanes := [(1, 0x1004), (255, 0x1010)] }
/-- Partition 1 with one region of 2 MiB of channel group 0, and the package one of two along X. -/
def region0 : BitVec 128 := BitVec.ofNat 128 (2 ^ 127 + 21 * 2 ^ 100 + 3 * 2 ^ 106)
def sFar : State := { s0 with parts := [{ q0 with groups := [0], regions := [region0] }], extents := (2, 1, 1) }

theorem witness_AccessCyclesAndFaults : s0.accessFault (acc .load 1024 0xFFC00) = none ∧
    s0.accessFault (acc .ldq 256 0xFFF00) = none ∧ s0.accessFault (acc .store 512 0xFFE00) = none ∧
    s0.accessFault (acc (.ldt 3) 256 0x2000) = none ∧ s0.accessFault (acc (.amo .cas) 4 0xFFFFC) = none ∧
    s0.accessFault (acc (.amo .cas) 4 0x1000000000100000) = none ∧ s0.accessFault (acc .store 4 0x1000000000100000) = none ∧
    s0.accessFault (acc .store 4 0xC0000000000001F4) = none ∧ s0.accessFault (acc .load 4 0xC0000000000001FC) = none ∧
    (q0.cores[s0.rankOf s0.me / 8 * 8 + 1]? = some 1 ∧ q0.cores[0]? = some 0 ∧ q0.cores[2]? = some 8 ∧ q0.cores[3]? = some 96) := by
  decide +kernel

theorem witness_AccessCyclesAndFaults_peers : s0.accessFault (acc .load 256 0x1000000000000000) = none ∧
    s0.accessFault (acc .ldq 256 0x1000000000100000) = none ∧ s0.accessFault (acc .load 256 0x2000000000000000) = none ∧
    s0.accessFault (acc .load 256 0x2000000000200000) = none ∧ s0.accessFault (acc .ldq 256 0x2000000000300000) = none ∧
    s0.accessFault (acc .store 256 0x2000000000300000) = none := by decide +kernel

theorem witness_AccessCyclesAndFaults_lanes :
    s0.accessFault (accLanes .gather 4) = none ∧ s0.accessFault (accLanes (.scatter true) 2) = none := by decide +kernel

theorem witness_AccessCyclesAndFaults_pigeonholes :
    (∃ e ∈ s0.pigAccess, e.part = s0.partOf s0.me ∧ (if (acc .store 4 0).writes then e.wr else e.rd) = true ∧
      (if (acc .load 4 0).writes then e.wr else e.rd) = true ∧ e.base ≤ s0.partOf s0.me ∧ s0.partOf s0.me ≤ e.limit) := by
  decide +kernel

theorem witness_AccessCyclesAndFaults_admits : ∀ w ∈ [true, false], ∀ c ∈ [0, 1, 8, 96], s0.Admits c w := by
  unfold State.Admits; decide +kernel

theorem witness_AccessCyclesAndFaults_far : (∀ k ∈ [AccessKind.load, .ldq, .store],
      sFar.accessFault (acc k 256 0x4000000000000100) = none) ∧
    sFar.part (sFar.partOf sFar.me) = some { q0 with groups := [0], regions := [region0] } ∧
    (∀ w ∈ [true, false], (match translate [region0] w 0x100 with
      | .ok _ => true
      | .error _ => false) = true) ∧
    sFar.accessFault (acc .load 256 0x8200000000000100) = none ∧ sFar.route (1, 0, 0) = (1, 0) ∧ sFar.linkErrs = [] := by
  decide +kernel

theorem witness_AccessCyclesAndFaults_faults : (let n := (0x3000000000000000 : Nat)
     n / 2 ^ 60 ∉ [0, 1, 2, 4, 8, 0xC]) ∧
    (let n := (0x100000 : Nat)
     n / 2 ^ 60 = 0 ∧ n / 2 ^ 20 % 2 ^ 40 ≠ 0) ∧
    (let n := (0xFFFFE : Nat)
     n / 2 ^ 60 = 0 ∧ n / 2 ^ 20 % 2 ^ 40 = 0 ∧ n % 4 ≠ 0) ∧
    (let n := (0xFFC00 : Nat)
     n / 2 ^ 60 = 0 ∧ n / 2 ^ 20 % 2 ^ 40 = 0 ∧ n % 1024 = 0) := by decide +kernel

/-- Partition 1 owning channel group 0 of stack 0, with a timeline on its channel 0: row 5 of bank 2 opened in slot 0, and
column 3 of it written in slot 1 by the LD slot of rank 0. -/
def tlWrite : Timeline :=
  { chan := 0, periods := 1, rows := [0x12000005, 0x00000BFE], cols := [0x00000000, 0x92300000, 0x00000BFD] }
def qTl : Part := { q0 with groups := [0], timelines := [tlWrite] }
/-- Its entry in the access table of stack 0. -/
def grant0 (s : State) (q : Part) : State := { s with parts := [q] }.grant q
def reqWrite : MemReq :=
  { part := 1, cycle := 1, write := true, phys := 5 * 2 ^ 18 + 2 * 2 ^ 14 + 3 * 2 ^ 10, ea := 0, size := 64, kind := 0,
    source := 0, key := 0, who := Meta.none, data := List.replicate 64 7, performs := 101, sink := .dreg 0 0 }
def sTl : State := { grant0 s0 qTl with gtc := 1, reqs := [reqWrite] }
/-- An STNT of core 0 that a drain covers, its unit written. -/
def sCovered : State := s0.modCore 0 fun k => { k with stnts := [{ issue := 0, bundle := 0, covered := some 2051, units := [] }] }
def openAcc (use : OpenUse) (write : Bool) (n : Nat) : OpenAccess :=
  { fn := 63, seq := 0, use := use, write := write, phys := 64, first := 0, data := List.replicate n 9, key := 0, tenant := 1,
    slot := some 1 }

theorem witness_MemorySteps : (s0.part q0.num = some q0 ∧ (127 : Nat) < 128 ∧
      (s0.due.all fun x => match x.what with | .pigeonholeWrite _ _ _ => false | _ => true) = true) ∧
    (sTl.part qTl.num = some qTl ∧ slotAt (qTl.ttc sTl.gtc) = some 1 ∧ sTl.reqs = [reqWrite] ∧ reqWrite.part = qTl.num ∧
      reqWrite.cycle = qTl.ttc sTl.gtc ∧ reqWrite.write = true ∧ sTl.requestRule qTl [reqWrite] (some 1) reqWrite = none ∧
      sTl.linkErrs = [] ∧ qTl.unmet [reqWrite] 1 = [] ∧ (∀ x ∈ sTl.due, qTl.nmUnits x.what = none)) ∧
    (∃ r ∈ (sCovered.core 0).stnts, r.covered = some 2051 ∧ r.units = []) ∧ (383 : Nat) < 384 ∧
    (∀ use ∈ [OpenUse.host, .peer 3], ∀ n ∈ [64, 63], (openAcc use true n).slot = some 1 ∧ (openAcc use true n).use = use ∧
      (openAcc use true n).first + (openAcc use true n).data.length ≤ 64) ∧
    s0.poison = [] ∧ s0.dramBad = [] ∧ s0.dramSoft = [] ∧ s0.dram.wf = true ∧
    (∃ p ∈ ({ s0 with poison := [(1, .port 0)] } : State).poison, p.1 = 64 / 64) := by
  decide +kernel

theorem witness_MemorySteps_admits : ∀ u ∈ unitsOf reqWrite.phys reqWrite.size,
    ∃ e ∈ (sTl.hbm[stackOf (64 * u)]?.getD Stack.reset).access, e.part = qTl.num ∧ e.wr = true ∧
      e.base ≤ chanOf (64 * u) ∧ chanOf (64 * u) ≤ e.limit := by decide +kernel

/-- A command by opcode, start and shape. -/
def cmd (op start shape : Nat) : Cmd := { op := op, start := start, issue := 0, shape := BitVec.ofNat 128 shape, tag := 7 }
/-- Two rows from 0x2000; two rows to the core's own scratchpad through space 1, and to a window there. -/
def cmdIn : Cmd := cmd 0x08 0 (0x2000 * 2 ^ 64 + 0x4000 * 2 ^ 44 + 2 ^ 42 + 2 ^ 36)
def cmdOut (op : Nat) : Cmd := cmd op 0 (0x1000000000000000 * 2 ^ 64 + 0x4000 * 2 ^ 44 + 2 ^ 42 + 2 ^ 36)
def cmdBad : Cmd := cmd 0x08 0 (0x2020 * 2 ^ 64 + 0x4000 * 2 ^ 44 + 2 ^ 42 + 2 ^ 36)
/-- Core 0 with an element of a later command at its engine in the present cycle. -/
def cmdLate : Cmd := cmd 0x18 1 (0x2000 * 2 ^ 64)
def late : Timed :=
  { clock := some 1, due := 0, key := [50, 3, 0, 1, 0], who := s0.cur.who, what := .engineElementIssue cmdLate 0 }
def sRival : State := { s0 with due := s0.due ++ [late] }

/-- A TLIST of two entries, link commands that pass their checks and that name no port, and elements from a peer, from device
memory and to another die. -/
def cmdList : Cmd := cmd 0x0B 0 (0x2000 * 2 ^ 64 + 2 ^ 36)
def cmdSend : Cmd := cmd 0x28 0 (5 * 2 ^ 61 + 2 ^ 60 + 2 ^ 42)
def cmdFwd : Cmd := cmd 0x29 0 (5 * 2 ^ 61 + 5 * 2 ^ 58 + 2 ^ 42)
def cmdFrom (op far : Nat) : Cmd := cmd op 0 (far * 2 ^ 64 + 0x4000 * 2 ^ 44 + 2 ^ 36)
/-- Port 5 trained, with the first ten slots of its table for link group 3, of which partition 1 is a member. -/
def qGrp : Part := { q0 with group := some 3, claims := [(5, 0, 10)] }
def sPort : State :=
  { s0 with parts := [qGrp],
            ports := s0.ports.set 5 { Port.reset with
              mode := .torus, table := [{ first := 0, count := 10, open_ := false, group := 3 }] } }.grant qGrp
def qDev : Part := { q0 with groups := [0], regions := [region0] }
def sDev : State := grant0 s0 qDev

theorem witness_EngineElements : (cmdIn.isLink = false ∧ cmdIn.op ≠ 0x0B ∧ s0.cmdFault cmdIn = none ∧ 1 < cmdIn.n) ∧
    (cmdList.isLink = false ∧ cmdList.op = 0x0B ∧ s0.cmdFault cmdList = none ∧ 1 < cmdList.n) ∧
    (cmdSend.isLink = true ∧ sPort.linkFault cmdSend = none ∧ 0 < cmdSend.n ∧ sPort.linkFault cmdFwd = none) ∧
    (s0.linkFault cmdSend).isSome = true ∧
    (cmdBad.isLink = false ∧ s0.cmdFault cmdBad = some (0x22, 0)) ∧ s0.rivals = [] ∧ cmdIn.op = 0x08 ∧
    cmdIn.far 1 / 2 ^ 60 = 0 ∧ (sRival.rivals = [(cmdLate, 0)] ∧ cmdIn.start < cmdLate.start) := by decide +kernel

theorem witness_EngineElements_far : (∀ op ∈ [0x08, 0x12], (cmdFrom op 0x2000000000300000).far 0 / 2 ^ 60 = 2 ∧
      (cmdFrom op 0x1000000000100000).far 0 / 2 ^ 60 = 1) ∧
    (q0.cores[s0.rankOf s0.me / 8 * 8 + (cmdFrom 0x08 0x1000000000100000).far 0 / 2 ^ 20 % 8]? = some 1 ∧
      q0.cores[(cmdFrom 0x08 0x2000000000300000).far 0 / 2 ^ 20 % 2 ^ 9]? = some 96) ∧
    (sDev.part (sDev.partOf sDev.me) = some qDev ∧ (cmdFrom 0x08 0x4000000000000100).far 0 / 2 ^ 60 = 4 ∧
      (match translate qDev.regions false ((cmdFrom 0x08 0x4000000000000100).far 0 % 2 ^ 48) with
        | .ok _ => true
        | .error _ => false) = true) ∧ s0.Admits 96 false := by
  unfold State.Admits; decide +kernel

/-- A multicast of one row to the eight cores of a cluster, from a partition that holds them. -/
def qCluster : Part := Part.fresh 1 0 [0, 1, 2, 3, 4, 5, 6, 7] 0 .running
def sCluster : State :=
  [0, 1, 2, 3, 4, 5, 6, 7].foldl (fun s k => s.modCtx k fun x => { x with pid := 1, pcore := BitVec.ofNat 32 k })
    ({ State.reset with parts := [qCluster], cur := s0.cur }.grant qCluster)
def cmdMc : Cmd := cmd 0x12 0 (0x2000 * 2 ^ 64 + 255 * 2 ^ 44 + 2 ^ 42)
def cmdPpt : Cmd := cmd 0x19 0 (0x2000 * 2 ^ 64)
/-- An addition to the window of rank 3, on another die, whose transfer fails or not. -/
def cmdAdd : Cmd := cmdFrom 0x10 0x2000000000300000
def sLost : State := { s0 with linkErrs := [(0, 0, 0)] }

theorem witness_WindowsAndArrivals : s0.me < 384 ∧ cmdIn.op = 0x08 ∧
    ((cmd 0x09 0 (3 * 2 ^ 44)).f 45 44 < 4 ∧ (s0.myCtx.queue ((cmd 0x09 0 (3 * 2 ^ 44)).f 45 44)).length < 8) ∧
    ((cmd 0x1A 0 (8128 * 2 ^ 44)).loc + (cmd 0x1A 0 (8128 * 2 ^ 44)).z * 0 + 64 ≤ 8192) ∧
    (cmdFrom 0x10 0x400).far 0 / 2 ^ 60 = 0 ∧
    s0.elemFar (cmdOut 0x0A) 0 = .peer 0 .cluster ∧ s0.elemFar (cmdOut 0x10) 0 = .peer 0 .cluster ∧
    (cmdAdd.op = 0x10 ∧ sLost.elemFar cmdAdd 0 = .peer 96 .far ∧ 96 / 96 ≠ sLost.me / 96 ∧
      (sLost.me, sLost.t, sLost.cur.who.src) ∈ sLost.linkErrs ∧ (s0.me, s0.t, s0.cur.who.src) ∉ s0.linkErrs) ∧
    ((List.replicate 512 (0 : Byte)).length = 512 ∧ cmdPpt.n = 1) ∧
    ((cmdFrom 0x11 0x400).op = 0x11 ∧ s0.cmdFault (cmdFrom 0x11 0x400) = none ∧
      (∀ b ∈ (s0.core s0.me).mxBad ++ (s0.core s0.me).mxSoft, b.1 ≠ 7)) := by decide +kernel

theorem witness_WindowsAndArrivals_addition : (383 : Nat) < 384 ∧ (255 : Nat) < 256 ∧ (s0.dueNow.all fun x => match x.what with
        | .windowAddition _ _ _ _ => false
        | _ => true) = true ∧
      (∀ b ∈ (s0.core 383).mxBad ++ (s0.core 383).mxSoft, b.1 ≠ 7) ∧
      (FV.of32 0xFF7FFFFF).isNaN = false ∧ (FV.of32 0xFF7FFFFF).isInf = false ∧ (FV.of32 0x7FC00000).isNaN = true ∧
      Window.launch.accs[255].sat = false ∧ ({ Window.launch.accs[255] with sat := true } : Acc).sat = true := by decide +kernel

theorem witness_WindowsAndArrivals_multicast : sCluster.deliveryFaults cmdMc = [] ∧ cmdMc.dests = [0, 1, 2, 3, 4, 5, 6, 7] ∧
    ([0, 1, 2, 3, 4, 5, 6, 7].map sCluster.clusterCore) = [0, 1, 2, 3, 4, 5, 6, 7].map some := by decide +kernel

theorem witness_WindowsAndArrivals_injective (f g k : Nat) (hf : sCluster.clusterCore f = some k)
    (hg : sCluster.clusterCore g = some k) : f = g := by
  have h (n : Nat) (hn : sCluster.clusterCore n = some k) : n = k := by
    have h0 : sCluster.rankOf sCluster.me / 8 * 8 = 0 := by decide +kernel
    have h1 : sCluster.part (sCluster.partOf sCluster.me) = some qCluster := by decide +kernel
    rw [State.clusterCore, h0, Nat.zero_add, State.target, State.coreOfRank, h1] at hn
    obtain ⟨hn', e⟩ := List.getElem?_eq_some_iff.1 (Option.filter_eq_some_iff.1 hn).1
    have hn8 : n < 8 := hn'
    interval_cases n <;> exact e
  exact (h f hf).trans (h g hg).symm

/-- Partition 1 owning channel group 0, one region of 2 MiB over it, and near-memory runs on its channels. -/
def tlNm (i : Nat) : Timeline := { chan := i, periods := 1, rows := [0x00000BFF], cols := [0xA0000BFF] }
def qNm : Part := { q0 with groups := [0], timelines := (List.range 16).map tlNm, regions := [region0] }
def sNm : State := grant0 s0 qNm
/-- Two blocks of an operation: A at 0, B at block 2, the destination at block 4. -/
def nmCmd (op : Nat) : NmCmd :=
  { rec_ := BitVec.ofNat 256 (op + 2 * 2 ^ 16 + 2 * 2 ^ 80 + 4 * 2 ^ 120 + 0x3F800000 * 2 ^ 192), start := 100, issue := 0 }
/-- Its first source poisoned, or its operand buffer in error at block 1. -/
def sNmBad : State := { sNm with poison := [(1, .port 0)] }
def sNmBuffer : State := { sNm with hbm := sNm.hbm.set 0 { sNm.hbm[0] with bufferErr := [(0, 100, 1)] } }

theorem witness_NearMemorySteps : sNm.part (sNm.partOf sNm.me) = some qNm ∧ sNm.nmFault qNm (nmCmd 2) = none ∧
    1 ≤ (nmCmd 2).count ∧ sNm.nmLane (nmCmd 2) < 32 ∧ sNm.poison = [] ∧ sNm.dramBad = [] ∧ sNm.dramSoft = [] ∧
    (∀ st ∈ sNm.hbm.toList, st.bufferErr = [] ∧ st.bufferSoft = []) := by decide +kernel

theorem witness_NearMemorySteps_blocks : ∀ op ∈ [1, 2, 3, 4, 5], 1 < (nmCmd op).count ∧ (nmCmd op).op = op ∧
    sNm.nmBlock (nmCmd op) .a 1 = .ok (64, 0) ∧ (op ∈ [1, 2, 4] → sNm.nmBlock (nmCmd op) .b 1 = .ok (192, 0)) ∧
    sNm.nmBlock (nmCmd op) .dst 1 = .ok (320, 0) := by decide +kernel

theorem witness_NearMemorySteps_errors : sNmBad.part (sNmBad.partOf sNmBad.me) = some qNm ∧
    sNmBad.nmBlock (nmCmd 2) .a 1 = .ok (64, 0) ∧ (64 / 64, ErrUnit.port 0) ∈ sNmBad.poison ∧ 64 / 64 ∉ sNmBad.dramBad ∧
    sNmBuffer.part (sNmBuffer.partOf sNmBuffer.me) = some qNm ∧ sNmBuffer.nmLane (nmCmd 2) = 0 ∧
    (∃ st ∈ sNmBuffer.hbm[0]?.toList, (0, (nmCmd 2).start, 1) ∈ st.bufferErr) ∧
    (FV.of32 (fmul (nmCmd 1).rnd 0x40000000 (nmCmd 1).alpha).1).isNaN = false ∧
    (FV.of32 (fmul (nmCmd 1).rnd 0x40000000 (nmCmd 1).alpha).1).isInf = false ∧ (FV.of32 (nmCmd 1).beta).isNaN = false ∧
    (FV.of32 (nmCmd 1).beta).isInf = false := by decide +kernel

/-- Core 0 on die 0, and its transfer of the present cycle, in error or not. -/
def sLink (errs : List (Nat × Nat × Nat)) : State :=
  { at_ 0 0 fun x => withQ 0 [row 1] (withQ 9 [row 2] x) with linkErrs := errs }
def flit5 (rank : Nat) : Flit :=
  { port := 5, window := 0, group := some 3, transit := false, reply := false, from_ := (0, 0, 0), rank := rank, source := 1,
    start := 0, elem := 0, idx := 0, dest := 0, addr := 0, row := some (row 1) }
/-- No slot of the group's is free, or the port refuses the partition. -/
def sFull : State := { sPort with ports := sPort.ports.set 5 { sPort.ports[5] with table := [] } }
def sRefused : State := { sPort with ports := sPort.ports.set 5 { sPort.ports[5] with access := [] } }

theorem witness_LinkSteps : ∀ errs ∈ [[], [(0, 0, 0)]], (sLink errs).me < 384 ∧ (9 : Nat) < 12 ∧
    (sLink errs).myCtx.queue 0 = row 1 :: [] ∧ (sLink errs).myCtx.queue 9 = row 2 :: [] ∧ cmdSend.op = 0x28 ∧
    cmdSend.f 60 60 = 1 ∧ 0 = cmdSend.f 59 58 ∧ 9 = 4 + cmdFwd.f 60 58 ∧ cmdFwd.f 48 48 = 0 ∧
    (sLink errs).me / 96 ≠ field cmdSend.shape.toNat 63 61 / 2 ∧
    (((sLink errs).me, (sLink errs).t, (sLink errs).cur.who.src) ∈ (sLink errs).linkErrs ↔ errs ≠ []) := by decide +kernel

theorem witness_LinkSteps_empty : ((cmd 0x28 0 (2 ^ 42)).op = 0x28 ∧ (cmd 0x28 0 (2 ^ 42)).f 60 60 = 0) ∧
    s0.myCtx.queue (cmdSend.f 59 58) = [] ∧ s0.myCtx.queue (4 + cmdFwd.f 60 58) = [] := by decide +kernel

theorem witness_LinkSteps_flits : (flit5 0).port < 6 ∧ sPort.now < (flit5 0).window + 3 ∧ sPort.flitRefused (flit5 0) = false ∧
    (sPort.port 5).freeSlot (some 3) sPort.gtc = some (0, 0, 0) ∧
    (sFull.flitRefused (flit5 0) = false ∧ (sFull.port 5).freeSlot (some 3) sFull.gtc = none ∧
      sFull.now < (flit5 0).window + 3 ∧ (flit5 0).window + 3 ≤ ({ sFull with gtc := 3 } : State).now) ∧
    (sRefused.flitRefused (flit5 0) = true ∧ sRefused.now < (flit5 0).window + 3 ∧ (flit5 0).transit = false ∧
      (flit5 0).reply = false) := by decide +kernel

theorem witness_LinkSteps_landing : (5 : Nat) < 6 ∧ (96 : Nat) < 384 ∧ s0.part 1 = some q0 ∧ q0.cores[3]? = some 96 ∧
    ((s0.ctx 96).queue (4 + 5)).length < 64 ∧
    64 ≤ (((s0.modCtx 96 fun x => withQ 9 (List.replicate 64 (row 1)) x).ctx 96).queue (4 + 5)).length ∧
    ((sPort.parts.map (·.num)).Nodup ∧ qGrp.runs = true ∧
      (sPort.port 5).table.any (fun r => !r.open_ && some r.group == qGrp.group) = true) := by decide +kernel

theorem witness_LinkSteps_group : (s0.part q0.num = some q0 ∧ (s0.route (0, 0, 0)).1 = 0 ∧
      s0.ttc q0.num < 5 + 190 * (s0.route (0, 0, 0)).1 ∧ 0 + 190 * (s0.route (0, 0, 0)).1 ≤ s0.ttc q0.num) ∧
    (let s : State := { s0 with coords := (1, 0, 0), extents := (8, 1, 1) }
     s.coords.1 < s.extents.1 ∧ (6 : Nat) < s.extents.1 ∧ s.coords.2.1 < s.extents.2.1 ∧ s.coords.2.2 < s.extents.2.2) := by
  decide +kernel

/-- Partition 1 on a whole cluster, every core ended, and one that waits for an engine. -/
def sEnded (due : List Timed) : State :=
  [0, 1, 2, 3, 4, 5, 6, 7].foldl (fun s k => s.modCtx k fun x => { x with life := .ended }) { sCluster with due := due }
def sWaits : State :=
  sEnded [{ clock := some 1, due := 9, key := [], who := s0.cur.who, what := .engineElementArrival cmdIn 0 [] none }]
/-- A launch that has stood at its queue's head for 64 periods, with one behind it; and one whose fields are wrong. -/
def launch1 : Launch :=
  { sub := 1, fn := 0, tenant := 4, image := 0, len := 160, group := 0, members := 0, state := .queued, malformed := false,
    asked := false, got := [], syl := none, level := 1, preds := [], ahead := [], joined := 1, headSince := some 0, admitted := 0 }
def launch2 : Launch := { launch1 with sub := 2, joined := 2, headSince := none }
def sHead : State := { s0 with gtc := 258048, launches := [launch1, launch2] }
def badLaunch : Launch := { launch1 with state := .reading, malformed := true }
def sBadLaunch : State := { s0 with launches := [badLaunch] }
/-- Partition 1 loaded and about to start; and thermal duty ordered for the period in which it starts, on die 0. -/
def qLoaded : Part := { qCluster with status := .loaded }
def sLoaded : State := { sCluster with parts := [qLoaded] }
def sDuty : State :=
  { sLoaded with duty := [{ first := 0, hbm := [], dies := [(0, 4)] }] }

theorem witness_BellsAndLaunches : ((s0.parts.map Part.num).Nodup ∧ s0.launches = [] ∧
      (∀ q ∈ s0.parts, q.status = .running ∧ q.recess = none)) ∧ s0.part q0.num = some q0 ∧
    s0.holds 1 = false ∧ (s0.svc .registrar).journal.length < 65536 ∧
    (sHead.launch launch1.sub = some launch1 ∧ (sHead.launches.map Launch.sub).Nodup ∧ launch1.headSince = some 0 ∧ (sHead.svc .registrar).journal.length < 65536 ∧
      0 + 64 * 4032 ≤ sHead.gtc ∧ sHead.isHead launch1 = true ∧ 0 < launch1.level ∧ sHead.holds 1 = false) ∧
    (sBadLaunch.launch badLaunch.sub = some badLaunch ∧ (sBadLaunch.launches.map Launch.sub).Nodup ∧
      badLaunch.state = .reading ∧ sBadLaunch.holds 1 = false ∧ badLaunch.malformed = true ∧
      (∀ x ∈ sBadLaunch.launches, x.tenant = badLaunch.tenant → x.sub < badLaunch.sub → x.state ≠ .reading)) := by
  decide +kernel

theorem witness_BellsAndLaunches_starts : (sLoaded.part qLoaded.num = some qLoaded ∧ qLoaded.status = .loaded ∧
      qLoaded.recess = none ∧ qLoaded.cores.Nodup ∧ (∀ c ∈ qLoaded.cores, c < 384 ∧ sLoaded.partOf c = qLoaded.num) ∧
      sLoaded.onDuty qLoaded = false) ∧
    (sDuty.part qLoaded.num = some qLoaded ∧
      (∀ c ∈ qLoaded.cores, c < 384 ∧ sDuty.partOf c = qLoaded.num) ∧ sDuty.onDuty qLoaded = true) := by decide +kernel

theorem witness_BellsAndLaunches_retires : ((sEnded []).part qCluster.num = some qCluster ∧ qCluster.status = .running ∧
      qCluster.recess = none ∧ qCluster.faultsNow = [] ∧ qCluster.joining = false ∧
      (∀ c ∈ qCluster.cores, ((sEnded []).ctx c).life = .ended) ∧ (sEnded []).unperformed qCluster = [] ∧
      (sEnded []).holds 1 = false) ∧
    (sWaits.part qCluster.num = some qCluster ∧ (∀ c ∈ qCluster.cores, (sWaits.ctx c).life = .ended) ∧
      sWaits.unperformed qCluster ≠ [] ∧
      (sWaits.due.all fun x => x.what.instr != .launchRetirement) = true) := by decide +kernel

/-- Partition 1 in recess, its tenant known. -/
def recess0 : Recess := { e := 0, gtcE := 0, cause := .preempt, primary := none, rolled := false, unread := [] }
def tenant4 : Tenant := { num := 4, groups := [], keys := [], dump := 4096, dumpLen := 6000000 }
def sPart (q : Part) : State := { sCluster with parts := [q], tenants := [tenant4] }
def qOrder : Part := { qCluster with order := some .hang }
def qRec : Part := { qCluster with tenant := 4, status := .recessed, recess := some recess0 }
/-- Its roll call complete: stopped by no fault, or by a data fault of which nothing else is known. -/
def qRolled : Part := { qRec with recess := some { recess0 with rolled := true } }
def record0 : List Word := 0x80000030 :: List.replicate 15 0
def qRetry : Part :=
  { qRec with recess := some { recess0 with rolled := true, cause := .fault, primary := some 0 }, faults := [record0] }
/-- Its stores given away. -/
def qAway : Part := { qRec with parked := some (qRec.cores.map sCluster.core) }
/-- Its launch failed, before and after its card, and once it is posted. -/
def qFailing : Part := { qRec with status := .failing }
def qCard : Part := { qFailing with card := some (4096, 0) }
def qPosted : Part := { qCard with pigLatched := qCard.pigLatched.set 126 0x20000000 }

theorem witness_RecessSteps : (let s := sPart qOrder
      s.part qOrder.num = some qOrder ∧ (s.parts.map Part.num).Nodup ∧ s.holds 1 = false ∧ s.launches = [] ∧
      (∀ x ∈ s.parts, x.num = qOrder.num) ∧ qOrder.status = .running ∧ qOrder.recess = none ∧ (∀ c ∈ qOrder.cores, c < 384) ∧
      qOrder.order.isSome = true) ∧
    (let s := sPart qRec
     s.part qRec.num = some qRec ∧ qRec.recess = some recess0 ∧ recess0.cause = .preempt ∧ recess0.primary = none ∧
      s.stuck = [] ∧ qRec.faultsNow = [] ∧ (∀ y ∈ s.due, y.clock = some qRec.num → y.poisoned = none) ∧
      s.shadowFull qRec = false ∧ qRec.cores.Nodup ∧ (∀ c ∈ qRec.cores, c < 384)) := by decide +kernel

theorem witness_RecessSteps_away : (sPart qAway).part qAway.num = some qAway ∧
    qAway.parked = some (qRec.cores.map sCluster.core) ∧ (qRec.cores.map sCluster.core).length = qAway.cores.length :=
  ⟨by simp [sPart, State.part], by simp [qAway], by simp [qAway]⟩

theorem witness_RecessSteps_returns : (let s := sPart qRolled
      s.part qRolled.num = some qRolled ∧ qRolled.status = .recessed ∧ qRolled.mustFail = false ∧ qRolled.parked = none ∧
      qRolled.resumeFrom = none ∧ qRolled.group = none ∧ qRolled.order = none ∧ s.thermalBell.onDuty qRolled = false) ∧
    (let s := sPart qRetry
     s.part qRetry.num = some qRetry ∧ qRetry.status = .recessed ∧ s.recent qRetry = false ∧
      ((qRetry.faults.getD 0 []).getD 0 0).toNat % 2 ^ 8 ∈ [0x30, 0x31, 0x33] ∧ qRetry.blames = []) := by decide +kernel

theorem witness_RecessSteps_fails : (let s := sPart qFailing
      s.part qFailing.num = some qFailing ∧ qFailing.status = .failing ∧ s.posted qFailing = false ∧ s.holds 1 = false ∧
      qFailing.card = none ∧ s.tenants.find? (fun t => t.num == qFailing.tenant) = some tenant4 ∧ 0 < tenant4.dumpLen) ∧
    ((sPart qCard).part qCard.num = some qCard ∧ qCard.card = some (4096, 0) ∧ (sPart qCard).posted qCard = false) ∧
    ((sPart qPosted).posted qPosted = true ∧ (sPart qPosted).holds 2 = false ∧ (sPart qPosted).holds 1 = false ∧
      ((sPart qPosted).svc .registrar).journal.length < 65536 ∧ qPosted.cores.Nodup) ∧
    (let a : OpenAccess := { fn := 64, seq := 0, use := .card 1, write := true, phys := 4096, first := 0,
                             data := List.replicate 64 0, key := 0, tenant := 4, slot := some 1 }
     a.use = .card qCard.num ∧ a.write = true ∧ a.data.length = 64 ∧ a.slot.isSome = true ∧ (sPart qCard).usePending (.card qCard.num) = false) := by
  decide +kernel

/-- A syllabus whose variants 0 and 1 correspond at the line 4032, a core's sequencer and register being the items. -/
def line0 : EquivLine := { kind := 1, n := 0, v := 1, w := 0, rank := 0, rank2 := 0, x := 4032, y := 0, z := 0 }
def syl0 : Syllabus := { name := [], level := 0, preds := [], variants := [], pigeons := [],
                         equiv := [line0, { line0 with kind := 2, x := 0x100 }, { line0 with kind := 4, x := 0, y := 5, z := 6 }] }
def oldCore : Core := { Core.reset with dup := some Ctx.reset }

theorem witness_RecessSteps_moves : (syl0.equiv.find? fun e => e.kind == 1 && e.n == 0 && e.v == 1).map (·.x) = some 4032 ∧
    qRec.num < 256 ∧ (coresOf [0, 1])[3]? = some 3 ∧ (coresOf [0, 1]).Nodup ∧
    (syl0.equiv.find? fun e => e.kind == 2 && e.n == 0 && e.v == 1 && e.rank == 0).isSome = true ∧
    (syl0.equiv.find? fun e => e.kind == 2 && e.n == 0 && e.v == 1 && e.rank == 3) = none ∧
    ([0, 1] : List Nat)[line0.rank2]? = some 0 := by decide +kernel

theorem witness_RecessSteps_items : [oldCore][line0.rank]? = some oldCore ∧ oldCore.dup = some Ctx.reset := ⟨rfl, rfl⟩

def sTest : State := { s0 with cur := { s0.cur with who := testDone }, testing := [31] }
def sFree : State := { State.reset with cur := s0.cur }

theorem witness_TemperatureUnitsAndCores : (7 : Nat) < 8 ∧ (3 : Nat) < 4 ∧ { s0 with on := false }.on = false ∧
    (s0.holds 0 = false ∧ ErrUnit.dramBank 7 63 15 ∉ s0.lasting) ∧
    (sFree.cur.who ≠ testDone ∧ 7 * 4 + 63 / 16 ∉ sFree.testing ∧ (∀ q ∈ sFree.parts, 7 * 4 + 63 / 16 ∉ q.groups ∧ q.parkAt = []) ∧
      sFree.tenants = [] ∧ sFree.testAt = [] ∧ sFree.holds 0 = false ∧
      (sFree.svc .prefect).journal.length < 65536) ∧
    (sTest.cur.who = testDone ∧ 7 * 4 + 63 / 16 ∈ sTest.testing ∧ sTest.dram.wf = true) ∧ (383 : Nat) < 384 ∧
    ((∀ q ∈ s0.parts, q.parked = none → 383 ∉ q.cores) ∧ q0 ∈ s0.parts ∧ q0.parked = none ∧ 96 ∈ q0.cores) := by
  decide +kernel

theorem witness_TemperatureUnitsAndCores_units (p : Nat) : ErrUnit.dramBank 7 63 15 ≠ .port p := nofun

/-- The first and the last unit of a bank under test, read or written in a committed slot. -/
def testUnit (i : Nat) (restore write : Bool) : OpenAccess :=
  { fn := 64, seq := 0, use := .test 7 63 15 i restore false, write := write, phys := s0.testAddr 7 63 15 i (restore == write),
    first := 0, data := List.replicate 64 0, key := 0, tenant := 0, slot := some 1 }
theorem witness_TemperatureUnitsAndCores_tests : ∀ i ∈ [0, 2 ^ 20 - 2, 2 ^ 20 - 1], ∀ r ∈ [true, false], ∀ w ∈ [true, false],
    (testUnit i r w).slot.isSome = true ∧ (testUnit i r w).first = 0 ∧ (testUnit i r w).data.length = 64 ∧ i < 2 ^ 20 ∧
    (testUnit i r w).use = .test 7 63 15 i r false ∧ (testUnit i r w).write = w ∧ s0.dram.wf = true := by decide +kernel

/-- The porter in a state of its handover, the prefect and the registrar serving, within a session of the operator. -/
def svcIn (st : SvcState) (journal : List JournalEntry) : Svc :=
  { Svc.reset with state := st, armed := true, deadline := some 5250000, probationEnd := some 5250000,
                   images := #v[[1], [2]], record := recordOf .porter 0 1 0 [], journal := journal }
def sSvc (st : SvcState) (journal : List JournalEntry) : State :=
  { s0 with gtc := 5250000, svcs := s0.svcs.set 2 (svcIn st journal), session := true,
            fns := s0.fns.set 63 { Func.reset with tenant := some 4 } }
def entry0 : JournalEntry := { seq := 0, index := 0, essential := true, type := 0, schema := 0 }

theorem witness_HandoverSteps : (∀ st ∈ [SvcState.run, .staged, .quiesce, .probation, .fallback, .commit],
      ((sSvc st []).svc .porter).state = st ∧ (sSvc st []).session = true) ∧
    (((sSvc .failed []).svc .porter).state = .failed ∧ ((sSvc .failed []).svc .porter).other ≠ []) ∧
    s0.session = false ∧
    (((sSvc .import_ []).svc .porter).state = .import_ ∧
      importable ((sSvc .import_ []).svc .porter).running ((sSvc .import_ []).svc .porter).record = true) ∧
    (∀ st ∈ [SvcState.import_, .probation, .fallback], let s := sSvc st []
      (s.svc .porter).armed = true ∧ (s.svc .porter).deadline = some 5250000 ∧ 5250000 ≤ s.gtc ∧ s.beatNow .porter = false) ∧
    ((s0.svc .porter).armed = false) ∧
    (((sSvc .probation []).svc .porter).probationEnd = some 5250000 ∧ 5250000 ≤ (sSvc .probation []).gtc) ∧
    ((sSvc .run []).fn 63).tenant = some 4 ∧ (∀ k, k < 3 → (sSvc .run []).holds k = false) := by decide +kernel

/-- A journal of 65536 entries is full, and an entry above the old image's schema is essential or not. -/
theorem witness_HandoverSteps_journal : recordSchema ((sSvc .probation []).svc .porter).record < 7 ∧
    ¬ (entry0.essential = true ∧ recordSchema ((sSvc .probation []).svc .porter).record < entry0.schema) := by decide +kernel

theorem witness_HandoverSteps_full (js : List JournalEntry) (h : 65536 ≤ js.length) :
    ((sSvc .probation js).svc .porter).state = .probation ∧ 65536 ≤ ((sSvc .probation js).svc .porter).journal.length :=
  ⟨rfl, h⟩

/-- Function 63 of tenant 4, which owns channel group 0, with a window of 64 KiB that may be read and written and one that may
not, and the launch of one shard of link group 9 at the head of its queue. -/
def window0 : MapEntry := { off := 0, phys := 300 * 2 ^ 18, len := 65536, key := 0, rd := true, wr := true }
def window1 : MapEntry := { window0 with off := 65536, phys := 400 * 2 ^ 18, rd := false, wr := false }
def tenantG : Tenant := { tenant4 with groups := [0] }
def func63 : Func := { Func.reset with tenant := some 4, sublo := 64, evhead := 3, map := [(0, window0), (1, window1)] }
def variant4 : Variant :=
  { ncore := 4, nslot := 0, groups := 1, segs := [], data := [], stages := [], regions := [], timelines := [], links := [] }
def shard : Launch :=
  { launch1 with
      group := 9, members := 2,
      syl := some { name := [], level := 1, preds := [], variants := [(0, variant4)], pigeons := zeroWords 128, equiv := [] } }
def sHost : State :=
  { State.reset with tenants := [tenantG], fns := State.reset.fns.set 63 func63, launches := [shard], subCount := 1,
                     parts := [{ q0 with num := 96, tenant := 4, cores := [], sub := 9 }] }
/-- A write that waits, because the host's writes wait before it. -/
def sQueue : State := { sHost with hostQueue := [.evtailWrite 63 1] }
def unit0 : OpenAccess :=
  { fn := 63, seq := 0, use := .host, write := true, phys := 64, first := 0, data := [0], key := 0, tenant := 4, slot := none }
def sWaiting : State :=
  { sHost with due := [{ clock := none, due := 5, key := [], who := Meta.none, what := .openSlotService unit0 }] }

theorem witness_HostSteps : (63 : Nat) < 64 ∧ sHost.recovery = false ∧ { sHost with recovery := true }.recovery = true ∧
    sHost.hostQueue = [] ∧ sHost.cur.who ≠ hostTurn ∧ sHost.applied ≠ some sHost.gtc ∧ sHost.openUnits = [] ∧
    (sQueue.hostQueue ≠ [] ∧ sQueue.cur.who ≠ hostTurn) ∧ sWaiting.hostWaits (.submissionGo 63 0x80000000) = true ∧
    (sHost.fn 63).tenant = some 4 ∧ (∀ x ∈ sHost.launches, x.sub ≤ sHost.subCount) ∧
    ((0x80200009 : Word).toNat / 2 ^ 22 % 2 ^ 9 = 0 ∧ (sHost.fn 63).sublo.toNat % 64 = 0 ∧
      (0x80200009 : Word).toNat / 2 ^ 12 % 2 ^ 10 ≠ 1 ∧ (0x80200009 : Word).toNat / 2 ^ 12 % 2 ^ 10 ≤ 512) ∧
    ((0x80001000 : Word).toNat / 2 ^ 12 % 2 ^ 10 = 1) ∧
    (((3 : Word).toNat + 2 ^ 32 - (sHost.fn 63).evtail) % 2 ^ 32 ≤
      ((sHost.fn 63).evhead + 2 ^ 32 - (sHost.fn 63).evtail) % 2 ^ 32) ∧
    (((sHost.fn 63).evhead + 2 ^ 32 - (sHost.fn 63).evtail) % 2 ^ 32 <
      ((4 : Word).toNat + 2 ^ 32 - (sHost.fn 63).evtail) % 2 ^ 32) ∧
    ((sHost.part 96).map Part.num = some 96 ∧ (sHost.part 96).map Part.tenant = (sHost.fn 63).tenant) := by decide +kernel

theorem witness_HostSteps_pieces :
    sHost.mapPieces 63 62 [1, 2, 3] = some [([1, 2], 300 * 2 ^ 18 + 62, window0), ([3], 300 * 2 ^ 18 + 64, window0)] ∧
    window0.rd = true ∧ window0.wr = true ∧
    sHost.mapPieces 63 65535 [1, 2] = some [([1], 300 * 2 ^ 18 + 65535, window0), ([2], 400 * 2 ^ 18, window1)] ∧
    window1.rd = false ∧ window1.wr = false ∧
    (∀ e ∈ (sHost.fn 63).map, ¬ (e.2.off ≤ 131071 + 1 ∧ 131071 + 1 < e.2.off + e.2.len)) := by decide +kernel

/-- A group whose shard is ready, and whose other launches wait or run. -/
theorem witness_HostSteps_group : sHost.holds 1 = false ∧ (sHost.launches.map Launch.sub).Nodup ∧ (8064 : Nat) % 4032 = 0 ∧
    sHost.gtc + 8064 ≤ 8064 ∧ variant4.links = [] ∧
    (sHost.launches.filter fun l => l.members != 0 && l.group == 9 && !l.state.settled).find? sHost.isReady = some shard ∧
    sHost.fitting sHost.avail shard = some (0, variant4) ∧ (1 ≤ 95 ∧ 95 ≤ 96 ∧ sHost.part 95 = none) ∧ shard.members ≠ 0 ∧
    shard.state = .queued := by decide +kernel

/-- The office within a session, and with its prefect replaced. -/
def sSession : State := { sHost with session := true }
def sHeld : State := { sSession with svcs := sSession.svcs.set 0 { Svc.reset with held := true } }
/-- An image of one byte, in the form of R354, of a service, and a bring-up with the three of them. -/
def imageOf (v : Service) : List Byte :=
  leBytes 16 (0x474D494B + (v.idx + 1) * 2 ^ 32) ++ leBytes 8 1 ++ shake256 [0] ++ List.replicate (40 + 3309) 0 ++ [0]
def bring0 (images : List (List Byte)) : BringUp :=
  { images := images, records := [], coords := (0, 0, 0), extents := (2, 1, 1), gtc := 4032, timing := [], hostPort := some 4 }

/-- Whether a signature is good no theorem can say (log entry 7): if these are, bring-up passes its checks. -/
theorem witness_ManagementSteps_bringUp (h : ∀ k m g, Config.mldsaVerify k m g = true) :
    (bring0 [imageOf .prefect, imageOf .registrar, imageOf .porter]).ok = true := by
  unfold BringUp.ok imageSound
  simp only [h, Bool.and_true]
  decide +kernel

theorem witness_ManagementSteps_recovery : (bring0 []).ok = false := rfl

theorem witness_ManagementSteps : State.reset.ready = false ∧ State.reset.recovery = false ∧
    (sSession.session = true ∧ sSession.holds 0 = false ∧ sHeld.session = true ∧ sHeld.holds 0 = true ∧ sHost.session = false ∧ sHost.cur.who ≠ accepted) ∧
    (∀ x ∈ sSession.tenants, x.num ≠ 5) ∧ 0 < tenantG.dumpLen ∧
    ((63 : Nat) ≠ 0 ∧ (sSession.fn 63).tenant ≠ some 5 ∧ sSession.fnInUse 63 = false ∧ sSession.fnInUse 0 = true) ∧
    sSession.mapOk 63 14 window0 = true ∧ sSession.mapOk 63 15 { window0 with phys := 4096, wr := false } = true ∧
    sSession.mapOk 63 14 { window0 with phys := 5 * 2 ^ 34 } = false ∧ sSession.keyFixed 4 63 = false := by decide +kernel

/-- A step due in the present cycle, by its key. -/
def stepAt (key : List Nat) (w : Work) : Timed := { clock := none, due := 0, key := key, who := Meta.none, what := w }
def before2 : List Timed := [stepAt [60] (.elasticOverrun 5), { stepAt [0] .bell with due := 1 }]
def after2 : List Timed := [stepAt [50, 1] (.elasticOverrun 0), stepAt [50] (.elasticOverrun 4)]
def sTie : State :=
  { s0 with cur := { s0.cur with todo := [] }, due := before2 ++ stepAt [50] (.elasticOverrun 3) :: after2 }
def sQuiet : State := { sTie with due := [{ stepAt [0] .bell with due := 1 }] }

theorem witness_StepRunsTheDecoded : ((at_ 7 0x08200028 id).on = true ∧ (at_ 7 0x08200028 id).cur.todo = 7 :: [] ∧
      decodeSlot (slotKindOf 7) ((at_ 7 0x08200028 id).myCtx.word 7) = .ok (.xfer { h := 2, lead := 40 })) ∧
    ((at_ 0 0x7F000001 id).cur.todo = 0 :: [] ∧
      decodeSlot (slotKindOf 0) ((at_ 0 0x7F000001 id).myCtx.word 0) = .error .unassigned) ∧
    (sTie.on = true ∧ sTie.cur.todo = [] ∧ sTie.due = before2 ++ stepAt [50] (.elasticOverrun 3) :: after2 ∧
      sTie.isDue (stepAt [50] (.elasticOverrun 3)) = true ∧
      (∀ y ∈ before2, sTie.isDue y = true → keyLt (stepAt [50] (.elasticOverrun 3)).key y.key = true) ∧
      (∀ y ∈ after2, sTie.isDue y = true → keyLt y.key (stepAt [50] (.elasticOverrun 3)).key = false)) ∧
    (sQuiet.on = true ∧ sQuiet.cur.todo = [] ∧ ∀ x ∈ sQuiet.due, sQuiet.isDue x = false) := by decide +kernel

/-- Core 0 about to execute a slot, its context changed. -/
def sSlot (slot : Nat) (f : Ctx → Ctx) : State :=
  let s := at_ slot 0 f
  { s with cur := { s.cur with slot := slot } }
def meets (s : State) (is : List Instr) : Bool :=
  is.all fun i => !(s.issueConds s.me s.t s.cur.slot s.myCtx (s.myCtx.word s.cur.slot) i).isEmpty
def fX : XC := { dfile := 0, dreg := 0, sfile := 1, sreg := 0, aux := 0 }
def fB (off : Nat) : SB := { g := 0, neg := false, off := off }
def fL : SL := { level := 3, len := 16383, cnt := 1 }
def fY : SY := { sd := 0, sa := 1, sel := 47 }
def inSolo (x : Ctx) : Ctx := { withS [(1, 5)] x with solo := some 0xFFFFFFFF, bars := Vector.replicate 48 { expected := 1, count := 0 } }

theorem witness_FaultAtIssue :
    meets { sOpen with cur := { sOpen.cur with slot := 4 } }
      [.slatch fMx, .sswap fMx, .spush fMx, .svpair fMx, .vopa fMx, .vzero fMx, .vdrain fMx, .cbld fMx, .chs fMx, .chn fMx,
        .chsv fMx, .chld fMx] = true ∧
    meets (sSlot 4 id) [.chb fMx] = true ∧ meets (sSlot 5 id) [.qpop fX, .qpeek fX] = true ∧
    meets (sSlot 0 (withS [(31, 9999)])) [.br (fB 9999), .call (fB 9999), .ret (fB 0), .segj (fB 0x80000)] = true ∧
    meets (sSlot 0 id) [.loop fL, .loopi fL, .twait { sd := 0, sa := 0, sb := 0, g := 0, neg := false, fn := 0 }] = true ∧
    meets (sSlot 0 inSolo) [.trap fY, .solo fY, .pgwr fY, .barr fY, .bchk fY, .acqsW fY, .acqsR fY, .relsW fY, .relsR fY,
      .spawn fY, .ckpt fY] = true ∧
    meets (sSlot 7 inSolo) [.shp fTe, .tagset fTe, .xfer fTe, .xferq fTe, .xstore fTe, .tlist fTe, .xred fTe, .xacc fTe,
      .xmc fTe, .mkcfg fTe, .pptld fTe, .vbmld fTe, .nmc fTe, .nmfence fTe, .lsend fTe, .lfwd fTe] = true := by
  decide +kernel

/-- Two faults of the present cycle in partition 1. -/
def faultAt (code rank : Nat) : FaultNow :=
  { code := code, rank := rank, src := 0, bundle := 0, issue := none, detail := [], blame := none }
def qFault : Part := { q0 with faultsNow := [faultAt 2 3, faultAt 1 2] }
/-- Another partition, without a fault. -/
def qCalm : Part := Part.fresh 2 0 [4, 5] 0 .running
def sFault : State := { sQuiet with parts := [qFault, qCalm] }

theorem witness_FaultEntersRecess : (sFault.parts.map Part.num).Nodup ∧ sFault.on = true ∧ sFault.cur.todo = [] ∧
    (∀ x ∈ sFault.due, sFault.isDue x = false) ∧ sFault.part qFault.num = some qFault ∧ qFault.status = .running ∧
    qFault.recess = none ∧ faultAt 1 2 ∈ qFault.faultsNow ∧ qFault.faults.length + qFault.faultsNow.length ≤ 64 ∧
    (∀ g ∈ qFault.faultsNow, FaultNow.before g (faultAt 1 2) = false) ∧ (∀ c ∈ qFault.cores, c < 384) ∧
    (∀ x ∈ sFault.parts, x.num ≠ qFault.num → ∀ c ∈ x.cores, c ∉ qFault.cores) ∧
    (qCalm ∈ sFault.parts ∧ qCalm.faultsNow = [] ∧ qCalm.joining = false) := by decide +kernel

theorem witness_RegisterWriteLands : (383 : Nat) < 384 ∧ (31 : Nat) < 32 ∧ (15 : Nat) < 16 ∧ (3 : Nat) < 4 ∧ (23 : Nat) < 24 ∧
    (7 : Nat) < 8 ∧ (47 : Nat) < 48 ∧ (127 : Nat) < 128 ∧ (63 : Nat) < 64 := by decide

theorem witness_BankAccesses : (383 : Nat) < 384 ∧ (s0.ctx 383).solo = none ∧ s0.bankUses = [] ∧
    (s0.due.all fun x => match x.what with
      | .bankAccess _ => false
      | _ => true) = true ∧
    s0.linkErrs = [] ∧ (s0.core 383).bad = [] ∧ (s0.core 383).soft = [] ∧ (s0.core 383).undo.length + 17 ≤ 1024 ∧
    (s0.core 383).spad.wf = true ∧ (1024 : Nat) ∈ [4, 256, 512, 1024] := by decide +kernel

theorem witness_StepKeepsMemoriesCanonical : State.reset.MemInv ∧ (match step State.reset with
    | .next _ => true
    | _ => false) = true := by
  refine ⟨?_, by decide +kernel⟩
  unfold State.MemInv
  refine ⟨fun c => ?_, fun d => ?_, ?_, ?_⟩
  · simp only [State.reset, Fin.getElem_fin, Vector.getElem_replicate]; simp [Core.reset, Mem.wf]
  · simp only [State.reset, Fin.getElem_fin, Vector.getElem_replicate]; simp [Die.reset, Mem.wf]
  · simp only [State.reset]; simp [Mem.wf]
  · simp only [State.reset]; simp

theorem witness_DecodeEncode : (Instr.xfer { h := 15, lead := 4095 }).wf = true ∧
    (encode (.xfer { h := 15, lead := 4095 })).isSome = true := by decide +kernel

theorem witness_EncodeDecode : (0x08200028 : Nat) < 2 ^ 32 ∧ decodeSlot .te 0x08200028 = .ok (.xfer { h := 2, lead := 40 }) ∧
    (0x54000155 : Nat) < 2 ^ 32 ∧ (match decodeSlot .s 0x54000155 with
      | .ok _ => true
      | _ => false) = true := by decide +kernel

/-! A submission whose image has been read and passes its checks. -/

/-- An image of a variant of four cores: its header, the table of two sections, LAUNCH and SHAPE. -/
def image0 : List Byte :=
  [0x4C4C5953, 1, 160, 2, 64].flatMap (leBytes 4) ++ List.replicate 44 0 ++
  [0x00FF0001, 0, 96, 48, 0x00000002, 0, 144, 16].flatMap (leBytes 4) ++ List.replicate 32 0xAB ++
  [3, 0, 0, 0, 4, 0, 1, 0].flatMap (leBytes 4)
def launch3 : Launch :=
  { launch1 with sub := 3, fn := 63, image := 64, state := .reading, joined := 0, headSince := none, level := 0, asked := true,
                 got := [some (image0.take 64), some ((image0.drop 64).take 64), some (image0.drop 128)] }
def sImage : State := { sHost with launches := [launch3] }

theorem witness_BellsAndLaunches_image : sImage.launch launch3.sub = some launch3 ∧ (sImage.launches.map Launch.sub).Nodup ∧
    launch3.state = .reading ∧ sImage.holds 1 = false ∧
    (∀ x ∈ sImage.launches, x.tenant = launch3.tenant → x.sub < launch3.sub → x.state ≠ .reading) ∧ launch3.malformed = false ∧
    sImage.tenants.find? (fun t => t.num == launch3.tenant) = some tenantG ∧ launch3.bytes = some image0 ∧
    imageOk image0 launch3.len = true ∧
    refusalReason image0 launch3.len (tenantG.keys.map (·.1)) (sImage.tenantTimings tenantG) = none ∧
    (readSyllabus image0).preds = [] := by decide +kernel

/-! ### Bells: a start that waits, admission, pre-emption -/

/-- A unit of partition 1's images is still on its way. -/
def sPlacing : State :=
  { sLoaded with due := [{ clock := none, due := 5, key := [], who := Meta.none,
                           what := .openSlotService { unit0 with fn := 64, use := .place 1 } }] }
theorem witness_BellsAndLaunches_placing : sPlacing.part qLoaded.num = some qLoaded ∧ qLoaded.group = none ∧
    (∃ a ∈ sPlacing.openUnits, a.use = .place qLoaded.num) ∧ (∀ a ∈ sLoaded.openUnits, a.use ≠ .place qLoaded.num) := by
  decide +kernel

/-- One launch ready at the head of its queue, on an empty package; of a variant with a stage slot, where another launch's
partition holds every stage slot; and where the dump area takes no report card of it. -/
def plain (slots : Nat) : Launch :=
  { shard with sub := 2, group := 0, members := 0, level := 0,
               syl := some { name := [], level := 0, preds := [], variants := [(1, { variant4 with nslot := slots })],
                             pigeons := zeroWords 128, equiv := [] } }
def sAdmits : State := { sHost with launches := [plain 0], parts := [] }
def qLow : Part := { Part.fresh 2 1 [] 0 .running with sub := 1 }
def lowLaunch : Launch := { plain 0 with sub := 1, level := 1, state := .admitted }
def sPreempts : State :=
  { sHost with launches := [lowLaunch, plain 1], parts := [qLow],
               dies := Vector.replicate 4 { Die.reset with ring := Vector.replicate 16 { StageSlot.free with part := 2 } } }
def sTooFull : State := { sPreempts with parts := [] }
/-- A launch at the head of its queue, alone in being queued, and calm partitions. -/
abbrev Heads (s : State) (l : Launch) : Prop := l.level < 4 ∧ l.members = 0 ∧ s.launch l.sub = some l ∧ s.isReady l = true ∧
  (s.parts.map Part.num).Nodup ∧ (s.launches.map Launch.sub).Nodup ∧ (∀ x ∈ s.launches, x.sub ≠ l.sub → x.state ≠ .queued) ∧
  s.holds 1 = false ∧ (s.svc .registrar).journal.length < 65536 ∧
  ∀ q ∈ s.parts, q.status = .running ∧ q.recess = none ∧ q.order ≠ some .preempt

theorem witness_BellsAndLaunches_admits : Heads sAdmits (plain 0) ∧ sAdmits.fitting sAdmits.avail (plain 0) = some (1, variant4) ∧
    sAdmits.part 96 = none ∧ variant4.links = [] ∧ sAdmits.fits sAdmits.avail (plain 0) variant4 = true ∧
    sAdmits.tenants.find? (fun t => t.num == (plain 0).tenant) = some tenantG ∧ variant4.ncore % 4 = 0 := by decide +kernel

theorem witness_BellsAndLaunches_preempts : Heads sPreempts (plain 1) ∧ sPreempts.fitting sPreempts.avail (plain 1) = none ∧
    (qLow ∈ sPreempts.parts ∧ qLow.order = none ∧ (plain 1).level < ((sPreempts.launch qLow.sub).map Launch.level).getD 0) ∧
    (sPreempts.fitting (sPreempts.availWith [qLow]) (plain 1)).isSome = true := by decide +kernel

theorem witness_BellsAndLaunches_none : Heads sTooFull (plain 1) ∧ sTooFull.fitting sTooFull.avail (plain 1) = none ∧
    ∀ w : List Part, (∀ q ∈ w, q ∈ sTooFull.parts) → sTooFull.fitting (sTooFull.availWith w) (plain 1) = none := by
  refine ⟨by decide +kernel, by decide +kernel, fun w hw => ?_⟩
  have : w = [] := List.eq_nil_iff_forall_not_mem.2 fun q hq => nomatch hw q hq
  subst this
  decide +kernel

/-! ### Rounding, conversions, blocks -/

/-- Neighbours K * 2^q and (K+1) * 2^q of a subnormal value of E2M1, and of one at the foot of a binade of FP32. -/
theorem witness_NearestIsNearest_neighbours :
    ((1 : ℚ) * 2 ^ (-2 : Int) < 2 ^ e2m1.emin ∧ (-1 : Int) = e2m1.emin - e2m1.f ∧ (0 : ℚ) * 2 ^ (-1 : Int) ≤ 1 * 2 ^ (-2 : Int) ∧
      (1 : ℚ) * 2 ^ (-2 : Int) < (0 + 1) * 2 ^ (-1 : Int)) ∧
    (fp32.emin ≤ (-23 : Int) + fp32.f ∧ (2 : ℚ) ^ ((-23 : Int) + fp32.f) ≤ 1 * 2 ^ (0 : Int) ∧
      (1 : ℚ) * 2 ^ (0 : Int) < 2 ^ ((-23 : Int) + fp32.f + 1) ∧ ((2 ^ 23 : Nat) : ℚ) * 2 ^ (-23 : Int) ≤ 1 * 2 ^ (0 : Int) ∧
      (1 : ℚ) * 2 ^ (0 : Int) < ((2 ^ 23 : Nat) + 1) * 2 ^ (-23 : Int)) := by
  norm_num [e2m1, fp32]

theorem witness_ConversionValues_specials : ((0x7F800001 : Word).toNat / 2 ^ 23 % 2 ^ 8 = 0xFF ∧ (0x7F800001 : Word).toNat % 2 ^ 23 ≠ 0) ∧
    (0x7F81 < 2 ^ 16 ∧ 0x7F81 / 2 ^ 7 % 2 ^ 8 = 0xFF ∧ 0x7F81 % 2 ^ 7 ≠ 0) ∧ FV.of32 1 = .fin false 1 (-149) ∧ 0x7C < 0x7F := by
  decide +kernel

theorem witness_BlockScaleAndNearestEntry_blocks : (∃ w ∈ ([1, 0x7F800001] : List Word), (FV.of32 w).isNaN = true) ∧
    (∀ w ∈ ([0x7F800000, 1, 0] : List Word), (FV.of32 w).isNaN = false) ∧ FV.of32 0x3F800000 = .fin false 8388608 (-23) := by
  have h1 : (FV.of32 0x7F800000).isNaN = false := by decide +kernel
  have h2 : (FV.of32 1).isNaN = false := by decide +kernel
  have h3 : (FV.of32 0).isNaN = false := by decide +kernel
  exact ⟨⟨0x7F800001, by simp, by decide +kernel⟩, by simpa using ⟨h1, h2, h3⟩, by decide +kernel⟩

/-! ### The chain in the bundle of an END -/

/-- Its block open and not full, or closed, its core ended. -/
def sLast (s : State) : State := s.modCtx 0 fun x => { x with life := .ended }
theorem witness_ChainSlot_ended : (sLast sMx).Clear (.chb fMx) ∧ (sLast sMx).myCtx.life = .ended ∧ (sLast sMx).me < 384 ∧
    (sLast sMx).myCtx.mx.isOpen = false ∧ (sLast sOpen).Clear (.chb fMx) ∧ (sLast sOpen).Clear (.sshift fMx) ∧
    (sLast sOpen).myCtx.life = .ended ∧ (sLast sOpen).myCtx.mx.isOpen = true ∧
    (sLast sOpen).myCtx.mx.blocks = [] ++ [block0] ∧ block0.beats.length ≠ 31 := by
  unfold State.Clear; decide +kernel

theorem witness_ChainSteps_finite : (FV.of32 0x3F800000).isNaN = false ∧ (FV.of32 0x3F800000).isInf = false ∧ (127 : Nat) < 128 := by
  decide +kernel

/-! ### Stage slots -/

/-- Each of the four instructions finds the state it requires, and finds one that it does not. -/
theorem witness_SignalsArrive_required : ∀ st ∈ [SlotState.empty, .writing, .full, .reading], let s := sStage st 0
    (s.die (dieOf s.me)).ring[(3 : Fin 16)] = slot5 st 0 ∧ (slot5 st 0).holder = s.rankOf s.me ∧
    (slot5 st 0).owner = s.myCtx.stg.toNat % 16 ∧ (slot5 st 0).state = st := by decide +kernel

/-! ### STNT, refused accesses, other packages -/

/-- Partition 1 with an open run over the whole of channel 0 of its group. -/
def qOpen : Part := { q0 with groups := [0], regions := [region0],
                              timelines := [{ chan := 0, periods := 1, rows := [0x00000BFF], cols := [0x70000BFF] }] }
def sOpenRun : State := grant0 s0 qOpen
/-- The region without a right. -/
def regionMute : BitVec 128 := BitVec.ofNat 128 (2 ^ 127 + 21 * 2 ^ 100)
def accStnt (ea : Ptr) (solo : Option Nat) : Access := { acc .stnt 1024 ea with solo := solo.map fun n => BitVec.ofNat 32 n }

theorem witness_AccessCyclesAndFaults_stnt : sOpenRun.accessFault (accStnt 0x5000000000000000 none) = none ∧ sOpenRun.me < 384 ∧
    sOpenRun.part (sOpenRun.partOf sOpenRun.me) = some qOpen ∧ translate qOpen.regions true 0 = .ok (0, 0) ∧
    qOpen.chanNo (stackOf 0) (chanOf 0) = some 0 ∧ sOpenRun.linkErrs = [] ∧
    sOpenRun.available qOpen 0 229 (bankOf 0) true (sOpenRun.placedUnits qOpen 0) = true ∧ sOpenRun.t + 300 ≤ slotCycle 229 ∧
    229 < slotFrom (sOpenRun.t + 300) + 2 * (sOpenRun.timelineOf qOpen 0).slots ∧
    (∃ e ∈ (sOpenRun.hbm[stackOf 0]?.getD Stack.reset).access, e.part = qOpen.num ∧ e.wr = true ∧ e.base ≤ chanOf 0 ∧
      chanOf 0 ≤ e.limit) := by decide +kernel

/-- No slot below is at or after t+300. -/
theorem witness_AccessCyclesAndFaults_earliest (j : Nat) (h : 300 ≤ slotCycle j) : 229 ≤ j := by
  unfold slotCycle at h; omega

theorem witness_AccessCyclesAndFaults_checks : (accStnt 0x5000000000000000 (some 9)).solo ≠ none ∧
    (0x4000000000000000 / 2 ^ 60 ≠ 5) ∧ (0x5000000000000200 / 2 ^ 48 = 0x5000 ∧ 0x5000000000000200 % 1024 ≠ 0) ∧
    (0x5000000000200000 / 2 ^ 48 = 0x5000 ∧ 0x5000000000200000 % 1024 = 0) ∧
    translate [region0] true 0x200000 = .error (0x20, 0xFF) ∧
    translate [regionMute] true 0 = .error (0x21, 0) ∧ translate [regionMute] false 0 = .error (0x21, 0) ∧
    translate [region0] true 0 = .ok (0, 0) ∧ (s0.core s0.me).stnts.length < 32 ∧
    32 ≤ ((s0.modCore 0 fun k => { k with stnts := List.replicate 32 { issue := 3, bundle := 0, covered := none, units := [] } }).core 0).stnts.length ∧
    (0x4000000000200000 / 2 ^ 48 = 0x4000 ∧ 0x4000000000200000 % 1024 = 0) := by decide +kernel

theorem witness_AccessCyclesAndFaults_noRank : s0.part (s0.partOf s0.me) = some q0 ∧
    (∀ k ∈ [AccessKind.load, .ldq, .store], s0.accessFault (acc k 256 0x1000000000500000) = none ∧
      s0.accessFault (acc k 256 0x2000000000800000) = none ∧ s0.accessFault (acc k 256 0x200000000C800000) = none) ∧
    s0.accessFault (acc (.amo .cas) 4 0x1000000000500000) = none ∧
    q0.cores[s0.rankOf s0.me / 8 * 8 + 5]? = none ∧ q0.cores[8]? = none ∧ q0.cores[200]? = none ∧
    (5 / 8 = s0.rankOf s0.me / 8 ∧ 8 / 8 ≠ s0.rankOf s0.me / 8 ∧ 8 / 96 = s0.rankOf s0.me / 96 ∧ 200 / 96 ≠ s0.rankOf s0.me / 96) := by
  decide +kernel

/-- The package beyond port 2, whose port is on another die than core 0, the transfer failing or not. -/
def sNorth (errs : List (Nat × Nat × Nat)) : State := { sFar with extents := (1, 2, 1), linkErrs := errs }
theorem witness_AccessCyclesAndFaults_package : (∀ errs ∈ [[], [(0, 0, 0)]], ∀ k ∈ [AccessKind.load, .ldq, .store],
      (sNorth errs).accessFault (acc k 256 0x8040000000000100) = none ∧ (sNorth errs).route (0, 1, 0) = (1, 2) ∧
      0x8040000000000100 / 2 ^ 54 % 8 = 1 ∧ 2 / 2 ≠ (sNorth errs).me / 96) ∧
    ((sNorth [(0, 0, 0)]).me, (sNorth [(0, 0, 0)]).t, (sNorth [(0, 0, 0)]).cur.who.src) ∈ (sNorth [(0, 0, 0)]).linkErrs ∧
    (0x8040000000000100 / 2 ^ 60 = 8) := by decide +kernel

/-! ### Requests that are read, or not served -/

def tlRead : Timeline :=
  { chan := 0, periods := 1, rows := [0x12000005, 0x00000BFE], cols := [0x00000000, 0x82300000, 0x00000BFD] }
def qRead : Part := { q0 with groups := [0], timelines := [tlRead] }
def reqRead : MemReq := { reqWrite with write := false, data := [] }
/-- A request for the column beside the one that the word of its slot names. -/
def reqBeside : MemReq := { reqRead with phys := reqRead.phys + 2 ^ 10 }
def sRead (r : MemReq) : State := { grant0 s0 qRead with gtc := 1, reqs := [r] }

theorem witness_MemorySteps_read : (sRead reqRead).part qRead.num = some qRead ∧ slotAt (qRead.ttc (sRead reqRead).gtc) = some 1 ∧
    reqRead.part = qRead.num ∧ reqRead.cycle = qRead.ttc (sRead reqRead).gtc ∧ reqRead.write = false ∧
    (sRead reqRead).requestRule qRead [reqRead] (some 1) reqRead = none ∧ qRead.unmet [reqRead] 1 = [] ∧
    (∀ x ∈ (sRead reqRead).due, qRead.nmUnits x.what = none) ∧
    reqRead.phys % 64 + reqRead.size ≤ 64 * ((reqRead.size + 63) / 64) ∧ reqRead.size % 4 = 0 ∧
    (∀ u ∈ unitsOf reqRead.phys reqRead.size, ∃ e ∈ ((sRead reqRead).hbm[stackOf (64 * u)]?.getD Stack.reset).access,
      e.part = qRead.num ∧ e.rd = true ∧ e.base ≤ chanOf (64 * u) ∧ chanOf (64 * u) ≤ e.limit) := by decide +kernel

theorem witness_MemorySteps_suppressed : (sRead reqBeside).requestRule qRead [reqBeside] (some 1) reqBeside = some (6, reqBeside.phys) ∧
    qRead.unmet [reqBeside] 1 = [] ∧ qRead.chanNo (stackOf reqBeside.phys) (chanOf reqBeside.phys) = some 0 ∧ reqBeside.kind ≠ 2 ∧
    (sRead reqBeside).partOf reqBeside.who.core = qRead.num ∧ reqBeside.part = qRead.num ∧
    reqBeside.cycle = qRead.ttc (sRead reqBeside).gtc := by decide +kernel

/-! ### Tags, parents and the bytes of elements -/

/-- An XFER with TAG = 1, a PPTLD of two rows, and where elements come from. -/
def cmdTag : Cmd := cmd 0x08 0 (0x2000 * 2 ^ 64 + 0x4000 * 2 ^ 44 + 2 ^ 42 + 2 ^ 36 + 2)
def cmdParents : Cmd := cmd 0x19 0 (0x2000 * 2 ^ 64 + 2 ^ 42 + 2 ^ 36)
theorem witness_WindowsAndArrivals_tags : s0.cmdFault cmdTag = none ∧ cmdTag.op = 0x08 ∧ cmdTag.shape.getLsbD 1 = true ∧
    s0.cmdFault cmdIn = none ∧ cmdIn.shape.getLsbD 1 = false ∧ 1 < cmdTag.n ∧ s0.cmdFault cmdParents = none ∧
    (cmdParents.n = 2 ∧ ([(0, List.replicate 256 (0 : Byte)), (1, List.replicate 256 0)].map (·.1)).Pairwise (· < ·) ∧
      ([(0, List.replicate 256 (0 : Byte)), (1, List.replicate 256 0)].flatMap Prod.snd).length = 512) ∧
    (∀ a ∈ [(0x1000000000000000, 0, Reach.cluster), (0x1000000000100000, 1, .cluster), (0x2000000000200000, 8, .die),
      (0x2000000000300000, 96, .far)], s0.elemFar (cmdFrom 0x08 a.1) 0 = .peer a.2.1 a.2.2) ∧
    sDev.elemFar (cmdFrom 0x08 0x4000000000000100) 0 = .device 0x100 0 := by decide +kernel

theorem witness_WindowsAndArrivals_loads : (383 : Nat) < 384 ∧ (s0.ctx 383).solo = none ∧ s0.linkErrs = [] ∧ (s0.core 383).bad = [] ∧
    (s0.core 383).soft = [] ∧ s0.bankUses = [] ∧ (∀ x ∈ s0.due, s0.isDue x = true → x.what.instr ≠ .bankAccess) ∧
    (∃ x ∈ ({ s0 with due := [{ clock := some 1, due := 1088, key := [], who := s0.cur.who,
                                what := .ancestryReplace cmdParents [] }] } : State).due,
      x.who.core = s0.me ∧ x.what = .ancestryReplace cmdParents []) := by decide +kernel

/-! ### Landings, faults of a neighbour's accesses, bank conflicts -/

/-- A landing in this package's member of group 3, the link to its core's die in order or not. -/
def sLands (errs : List (Nat × Nat × Nat)) : State := { sPort with linkErrs := errs }
theorem witness_LinkSteps_groups : (∀ errs ∈ [[], [(0, 0, 11)]], (sLands errs).part 1 = some qGrp ∧ qGrp.cores[0]? = some 0 ∧
      qGrp.group = some 3 ∧ qGrp.group ≠ some 4 ∧ 0 / 96 ≠ 5 / 2 ∧ (((sLands errs).ctx 0).queue (4 + 5)).length < 64) ∧
    (0, (sLands [(0, 0, 11)]).ttc ((sLands [(0, 0, 11)]).partOf 0), 11) ∈ (sLands [(0, 0, 11)]).linkErrs := by decide +kernel

theorem witness_RegisterWriteLands_neighbour : ({ s0 with cur := { s0.cur with who := { s0.cur.who with src := 13 } } } : State).cur.who.src = 13 ∧
    s0.cur.who.src ≠ 13 := by decide +kernel

/-- A load of a word of row 1 of bank 0, due with a store in row 0 of it; and a bank that two accesses use in this cycle. -/
def sMeets : State :=
  { s0 with due := [{ clock := some 1, due := 0, key := [], who := s0.cur.who,
                      what := .bankAccess { holder := 0, req := 0, cyc := 1, act := .load 2048 4 (.dreg 1 9) } }] }
def useOf (row : Nat) : BankUse := { holder := 0, bank := 0, row := row, req := 0, cyc := 0, who := Meta.none }
theorem witness_BankAccesses_conflict : sMeets.bankUses = [] ∧ (sMeets.ctx 0).solo = none ∧ 2048 / 64 % 32 = 0 / 64 % 32 ∧
    (∀ x ∈ sMeets.due, sMeets.isDue x = true) ∧ 0 % 64 + ([7] : List Byte).length ≤ 64 ∧
    (let s : State := { s0 with bankUses := [useOf 0, useOf 1] }
     2 ≤ (s.bankUses.filter fun u => u.holder == 0 && u.bank == 0 / 64 % 32).length ∧
     ¬ 2 ≤ (s.bankUses.filter fun u => u.holder == 0 && u.bank == 64 / 64 % 32).length) := by decide +kernel

theorem witness_BankAccesses_lanes :
    (([(0, 0), (255, 2044)].map (·.1) : List Nat).Nodup ∧ (∀ e ∈ [(0, 0), (255, 2044)], e.1 < 256 ∧ e.2 % 4 = 0) ∧
      (∀ a ∈ [0, 2044], ∀ b ∈ [0, 2044], a / 64 % 32 = b / 64 % 32 → a / 64 = b / 64)) ∧
    (∀ e ∈ ([(3, 6, [1, 2]), (9, 6, [3, 4])] : List (Nat × Nat × List Byte)), e.2.2.length = 2 ∧ e.2.1 % e.2.2.length = 0) ∧
    (s0.core 383).undo.length + 2 ≤ 1024 ∧ ((s0.ctx 383).tags[0]?.getD 0).toNat = 0 ∧
    (s0.part (s0.partOf s0.me) = some q0 ∧ s0.pigWrites = []) := by decide +kernel

/-! ### Conditions at issue, where no word is uncorrectable -/

/-- The line of `sCkpt`, which core 1 runs through without a CKPT. -/
def sSplit : State := (sCkpt.modCtx 8 fun x => { x with life := .running, pid := 1, pcore := 2 })
theorem witness_FaultAtIssue_clean : ((sSlot 4 id).core (sSlot 4 id).me).regBad = [] ∧ ((sSlot 4 id).core (sSlot 4 id).me).mxBad = [] ∧
    (sSlot 4 id).cur.slot = 4 ∧ (sSlot 0 id).cur.slot ≠ 4 ∧ (sSlot 0 id).part ((sSlot 0 id).partOf (sSlot 0 id).me) = some q0 ∧
    (let q := (sSplit.part 1).getD part1
     sSplit.t % 4032 = 0 ∧ (sSplit.lineSplit q sSplit.t).2 ≠ [] ∧
     (sSplit.lineSplit q sSplit.t).1.head? = some (sSplit.rankOf sSplit.me)) := by decide +kernel

/-! ### Calm parts of the recess, and a full journal -/

theorem witness_RecessSteps_calm : ∀ q ∈ [qOrder, qRolled, qRetry], let s := sPart q
    (s.parts.map Part.num).Nodup ∧ s.holds 1 = false ∧ s.holds 0 = false ∧ (s.svc .registrar).journal.length < 65536 ∧
    (s.svc .prefect).journal.length < 65536 ∧ s.launches = [] ∧ (∀ x ∈ s.parts, x.num = q.num) ∧ q.faultsNow = [] ∧ q.joining = false ∧
    (∀ y ∈ s.due ++ s.heldWork.map (·.2), Timed.follows q.num y = false) ∧ q.cores.Nodup ∧ (∀ c ∈ q.cores, c < 384) ∧
    ∀ b ∈ q.blames, b.2 ∉ s.lasting := by decide +kernel

theorem witness_ManagementSteps_full (js : List JournalEntry) (h : 65536 ≤ js.length) :
    let s : State := { sSession with svcs := sSession.svcs.set 0 { Svc.reset with state := .probation, journal := js } }
    s.session = true ∧ (s.svc .prefect).state = .probation ∧ 65536 ≤ (s.svc .prefect).journal.length := ⟨rfl, rfl, h⟩

/-- Whose prefect holds nothing. -/
theorem witness_ManagementSteps_serves :
    ({ sSession with svcs := sSession.svcs.set 0 { Svc.reset with state := .probation } } : State).holds 0 = false := by
  decide +kernel

/-! ### Registers, statistics, special inputs -/

theorem witness_SpecialRegisterValues_ranges : (∀ q ∈ [0, 1, 2, 3, 10, 11], (sMx.myCtx.queue q).length +
      (sMx.moves.filter fun m => m == (sMx.me, q, false)).length - (sMx.moves.filter fun m => m == (sMx.me, q, true)).length ≤ 8) ∧
    s0.part (s0.partOf s0.me) = some q0 := by decide +kernel

theorem witness_ReductionsAndStatistics_values : ([0x3F800000, 0xC0000000] : List Word).head? = some 0x3F800000 ∧
    (FV.of32 0x3F800000).isNaN = false ∧ (FV.of32 0x3F800000).isInf = false ∧ (FV.of32 0xC0000000).isNaN = false ∧
    (FV.of32 0xC0000000).isInf = false ∧ (FV.of32 0x7F800000).isInf = true ∧ (FV.of32 0x7F800001).isNaN = true := by
  decide +kernel

theorem witness_ReciprocalsAreNearest_nan : (FV.of32 0x7FC00001).isNaN = true ∧ (FV.of32 0xFF800001).isNaN = true ∧
    (FV.of32 0xFF800001).sig = true := by decide +kernel

/-! ### Entries that are late and invalid, and a bundle that mixes legal and illegal words -/

theorem witness_BundlesAndExpansions_both :
    (let s := enterAt (halfB 2 (segAt false false 0 0))
     (s.ctx 0).seq.next = .enter ∧ ((s.ctx 0).seq.advance 1).resident = some (segAt false false 0 0) ∧ q0.ttc s.gtc < 2) ∧
    (let s := enterAt none
     let off := ((s.ctx 0).seq.advance 1).segOff
     (parseSegment off ((s.store 0).readBytes off (segmentSize (decodeHeader ((s.store 0).readBytes off 16)).len))).valid = false) := by
  decide +kernel

/-- Bundle 65 an ADD and a word that is no instruction. -/
def mixedAt : State :=
  { s0.modSeq (fun q => { q with halfA := some { off := 0x400000, ready := 0, seg := some { segmentFor 0 0 with
      bundles := List.replicate 65 [] ++ [[0x01184400, 0x7F000001]] ++ List.replicate 190 [] } } }) with gtc := 1 }
/-- An ADD meets no condition where no register word is uncorrectable. -/
theorem add_clear (s : State) (c t w : Nat) (x : Ctx) (f : SR) (h : (s.core c).regBad = []) (h' : (s.core c).mxBad = []) :
    s.issueConds c t 0 x w (.add f) = [] := by
  simp [State.issueConds, h, h', Ctx.regHits, queueReads, Ctx.takeRows, ctxIllegal, soloForbids, isBeat, teOpcode, isTe]
theorem witness_BundlesAndExpansions_mixed : let y := (mixedAt.ctx 0).seq.advance 1
    (mixedAt.ctx 0).seq.next = .bundle 65 ∧ y.words.getD 1 0 = 0x7F000001 ∧ y.words.getD 0 0 = 0x01184400 ∧
    (∀ j, j < 8 → 2 ≤ j → y.words.getD j 0 = 0) ∧ decodeSlot (slotKindOf 1) 0x7F000001 = .error .unassigned ∧
    (∃ f, decodeSlot (slotKindOf 0) 0x01184400 = .ok (.add f)) ∧
    ∀ f qs, mixedAt.issueConds 0 1 0 { mixedAt.ctx 0 with seq := y, queues := qs } 0x01184400 (.add f) = [] :=
  ⟨by decide +kernel, by decide +kernel, by decide +kernel, by decide +kernel, rfl, ⟨_, rfl⟩,
    fun _ _ => add_clear _ _ _ _ _ _ (by decide +kernel) (by decide +kernel)⟩

/-! ### The order of landings, rules 3 and 6 of pairing, a full undo log -/

def landing (slot : Nat) : Timed := stepAt [99] (.flitLanding 5 slot (.row 3 1 0 0 (row 1)))
theorem witness_StepRunsTheDecoded_landing : keyLt (landing 7).place (stepAt [30] .bell).place = true ∧
    keyLt (landing 7).place (landing 8).place = true := by decide +kernel

theorem witness_MemorySteps_rules : (∀ u ∈ unitsOf reqBeside.phys reqBeside.size, qRead.chanNo (stackOf (64 * u)) (chanOf (64 * u)) ≠ none) ∧
    reqBeside.size ≠ 0 ∧
    (let s : State := { sRead reqRead with reqs := [] }
     s.part qRead.num = some qRead ∧ slotAt (qRead.ttc s.gtc) = some 1 ∧ (∀ r ∈ s.reqs, r.part ≠ qRead.num) ∧
     qRead.unmet [] 1 = [(0, 0x82300000)] ∧ ∀ x ∈ s.due, qRead.nmUnits x.what = none) := by decide +kernel

theorem witness_BankAccesses_overflow (undo : List Undo) (h : undo.length = 1024) (h' : ∀ u ∈ undo, u.word ≠ 0) :
    let s := s0.modCore 8 fun k => { k with undo := undo }
    1024 ≤ (s.core 8).undo.length ∧ (∀ u ∈ (s.core 8).undo, u.word ≠ 60 / 64) ∧ 60 % 64 + ([7] : List Byte).length ≤ 64 := by
  have e : ((s0.modCore 8 fun k => { k with undo := undo }).core 8).undo = undo := by
    simp [State.core, State.modCore, State.setCore]
  simp only [e]
  exact ⟨by omega, h', by decide⟩

/-! ### The end of a chain block in the bundle of an END -/

def block31 : Block := { block0 with beats := List.replicate 31 beat0 }
def sCloses : State := sLast (sMx.modMx 0 fun m => { m with isOpen := true, blocks := [block31] })
theorem witness_ChainSlot_closes : sCloses.Clear (.chb fMx) ∧ sCloses.Clear (.sshift fMx) ∧ sCloses.myCtx.life = .ended ∧
    sCloses.myCtx.mx.isOpen = true ∧ sCloses.myCtx.mx.blocks = [] ++ [block31] ∧ block31.beats.length = 31 := by
  unfold State.Clear; decide +kernel

/-- Ranks that do not issue CKPT at a line. -/
theorem witness_FaultAtIssue_split : let q := (sSplit.part 1).getD part1
    (sSplit.lineSplit q sSplit.t).2 ≠ [] ∧ ∀ lo ∈ (sSplit.lineSplit q sSplit.t).2.head?, ∀ hi ∈ (sSplit.lineSplit q sSplit.t).2.getLast?,
      ∀ r ∈ (sSplit.lineSplit q sSplit.t).2, lo ≤ r ∧ r ≤ hi := by decide +kernel

/-! ### Parking: a place, none, a context that is in the way, and the reads of what is parked -/

theorem witness_RecessSteps_place : (sPart qRec).shadowFull qRec = false ∧ qRec.cores ≠ [] ∧ 6004096 % 64 = 0 ∧
    6004096 + (2 ^ 20 + 2 ^ 18 + 2 ^ 16) * qRec.cores.length ≤ 2 ^ 31 ∧
    ∀ x ∈ (sPart qRec).parkSpans, x.2 = 0 ∨ 6004096 + (2 ^ 20 + 2 ^ 18 + 2 ^ 16) * qRec.cores.length ≤ x.1 ∨ x.1 + x.2 ≤ 6004096 := by
  decide +kernel

/-- The dump area of its tenant takes the whole parking area. -/
def sCrammed : State := { sPart qRec with tenants := [{ tenant4 with dump := 0, dumpLen := 2 ^ 31 }] }
theorem witness_RecessSteps_noPlace (a : Nat) : ¬ (a % 64 = 0 ∧ a + (2 ^ 20 + 2 ^ 18 + 2 ^ 16) * qRec.cores.length ≤ 2 ^ 31 ∧
    ∀ x ∈ sCrammed.parkSpans, x.2 = 0 ∨ a + (2 ^ 20 + 2 ^ 18 + 2 ^ 16) * qRec.cores.length ≤ x.1 ∨ x.1 + x.2 ≤ a) := by
  have h : sCrammed.parkSpans = [(0, 2 ^ 31)] := by decide +kernel
  have n : qRec.cores.length = 8 := by decide +kernel
  rw [h, n]
  intro ⟨_, b, c⟩
  have := c _ (List.mem_singleton.2 rfl)
  omega

def sShadow : State := (sPart qRec).modCore 0 fun k => { k with shadow := some (2, Ctx.reset) }
def qParked : Part := { qAway with parkAt := [(6004096, 128)] }
def unitBack : OpenAccess :=
  { fn := 64, seq := 0, use := .park 1, write := false, phys := parkAddr 6004160, first := 0, data := List.replicate 64 0, key := 0,
    tenant := 4, slot := some 1 }
theorem witness_RecessSteps_back : sShadow.shadowFull qRec = true ∧ sShadow.part qRec.num = some qRec ∧
    (∃ x ∈ qParked.parkAt, 64 * 1 < x.2) ∧ unitBack.use = .park qParked.num ∧ unitBack.write = false ∧ unitBack.slot.isSome = true ∧
    (6004096 ≤ 6004160 ∧ 6004160 < 6004096 + 128 ∧ 6004096 + 128 ≤ 6004160 + 64 ∧
      unitBack.phys / 2 ^ 34 % 32 * 2 ^ 26 + unitBack.phys % 2 ^ 26 = 6004160) := by decide +kernel

/-! ### The office while a service holds its work, and a request taken before its session closed -/

def sTaken : State := { sHost with cur := { sHost.cur with who := accepted } }
theorem witness_ManagementSteps_taken : sTaken.session = false ∧ sTaken.cur.who = accepted ∧ sTaken.holds 0 = false ∧
    (sTaken.svc .prefect).journal.length < 65536 := by decide +kernel

theorem witness_TemperatureUnitsAndCores_held : let s : State := { sFree with svcs := sFree.svcs.set 0 { Svc.reset with held := true } }
    s.cur.who ≠ testDone ∧ 31 ∉ s.testing ∧ (∀ q ∈ s.parts, 31 ∉ q.groups) ∧ s.holds 0 = true := by decide +kernel

/-! ### Entries, refused units, requesters -/

/-- R9, R46, R323: a segment that is entered before its expansion is complete and whose header is invalid is both faults. -/
theorem test_late_and_invalid : ((enterAt (halfB 2 (segAt false false 0 0))).bundleFaults 0 1).map (fun f => (f.code, f.detail)) =
    [(0x10, [10, 0x500000]), (0x01, [0x500000])] := by decide +kernel

/-- R231, R240: a unit of an STNT whose channel admits no write of its partition is fault 0x21 in its slot, and is not written. -/
def unitStnt : StntUnit := { part := 1, core := 0, rank := 0, issue := 0, unit := 0, phys := 0, key := 0, data := List.replicate 64 1 }
theorem test_stnt_admitted : ((sOpenRun.placeUnit qOpen 0x5000000000000000 unitStnt).due.drop sOpenRun.due.length).map
    (fun x => (x.due, x.what)) = [(300, .stntUnitWrite unitStnt)] := by decide +kernel
theorem test_stnt_refused : let s : State := { sOpenRun with hbm := Vector.replicate 8 Stack.reset }
    ((s.placeUnit qOpen 0x5000000000000000 unitStnt).due.drop s.due.length).map (fun x => (x.due, x.what)) =
      [(300, .registerWrite 0 (.fault 0x21 none [0, 0x50000000]))] := by decide +kernel

/-! ### Full queues, an outer loop level, a BARR that the table refuses -/

/-- A queue of 8 rows. -/
def sEight (q : Nat) : State := at_ 5 0 (withQ q (List.replicate 8 (row 1)))
theorem witness_CopiesAndQueues_full : ∀ q ∈ [0, 3, 10, 11], ((sEight q).myCtx.queue q).length = 8 := by decide +kernel
theorem witness_WindowsAndArrivals_full : (cmd 0x09 0 (3 * 2 ^ 44)).op = 0x09 ∧ (cmd 0x09 0 (3 * 2 ^ 44)).f 45 44 = 3 ∧
    ((sEight 3).myCtx.queue 3).length = 8 := by decide +kernel

def levelAt (n count : Nat) : Level := { level := n, first := 0, last := 3, count := count }
theorem witness_SpecialRegisterValues_outer :
    ((s0.modSeq fun q => { q with levels := [levelAt 2 5, levelAt 0 9] }).myCtx.seq.levels = [levelAt 2 5] ++ levelAt 0 9 :: []) ∧
    (∀ m ∈ [levelAt 2 5], m.level ≠ 0) ∧ (levelAt 0 9).level = 0 := by decide +kernel

/-- The die of rank 3 admits nothing. -/
def sShut : State := { sBarr 3 with dies := (sBarr 3).dies.set 1 Die.reset }
theorem witness_SignalsBetweenCores_refused : sShut.Clear (.barr { sd := 0, sa := 5, sel := 5 }) ∧ targetOf sShut = some 96 ∧
    ¬ sShut.Admits 96 true := by
  unfold State.Clear State.Admits; decide +kernel

/-! ### CB4ENC and the functions at the ends of the range -/

/-- Entries -1, 0, 0.5, 2, 2 and zeros, and the same with a NaN at 5. -/
def book5 : BitVec 256 := 0x40004000_3F000000BF80
def bookNan : BitVec 256 := book5 ||| (0x7FC0 <<< 80)
theorem witness_BlockScaleAndNearestEntry_entries :
    (FV.of32 0x7FC00000).isNaN = true ∧ (∀ j, j < 16 → (bookEntry book5 j).isNaN = false) ∧ (bookEntry bookNan 5).isNaN = true ∧
    (∀ i, i < 5 → (bookEntry bookNan i).isNaN = false) := by decide +kernel
/-- R121: 1.25 lies as far from 0.5 as from 2, of which the lowest index is 3; -8 and infinity lie beyond all entries; -1 is
one. -/
theorem test_cb4enc_entries : [0, 1, 2, 3].map (fun c => cb4enc book5 c 0 0x3FA00000) = [(2, fINX), (2, fINX), (3, fINX), (2, fINX)] ∧
    cb4enc book5 0 0 0xC1000000 = (0, fSAT ||| fINX) ∧ cb4enc book5 0 0 0x7F800000 = (3, fSAT ||| fINX) ∧
    cb4enc book5 0 0 0xBF800000 = (0, 0) ∧ cb4enc book5 0 0 0x7FC00000 = (0, fINV) ∧ cb4enc bookNan 0 0 0x7FC00000 = (5, 0) := by
  decide +kernel

/-- R107, R146 to R149: the reciprocal of 2^-149 overflows, that of the largest number is subnormal. -/
theorem test_frcp_ends : frcp 1 = (0x7F800000, fOVF ||| fINX) ∧ frcp 0x7F7FFFFF = (0x00200000, fUNF ||| fINX) := by decide +kernel
theorem witness_ReciprocalsAreNearest_ends : (FV.of32 1).real ≠ 0 ∧ (2 : ℚ) ^ 128 - 2 ^ 103 ≤ |1 / (FV.of32 1).real| ∧
    |1 / (FV.of32 0x7F7FFFFF).real| < (1 : ℚ) / 2 ^ 126 ∧ 0 < (FV.of32 1).real := by
  have h1 : FV.of32 1 = .fin false 1 (-149) := by decide +kernel
  have h2 : FV.of32 0x7F7FFFFF = .fin false 16777215 104 := by decide +kernel
  rw [h1, h2]
  norm_num [FV.real]
theorem witness_ReciprocalsAreNearest_exp : let m : ℝ := 1 / 2 ^ 100
    (2 ^ 128 - 2 ^ 103) * (1 + m) ≤ Real.exp (((FV.of32 0x42B20000).real : ℚ) : ℝ) ∧
    (1 / 2 ^ 126 * (1 + m) ≤ Real.exp (((FV.of32 0x3F800000).real : ℚ) : ℝ) ∧
      Real.exp (((FV.of32 0x3F800000).real : ℚ) : ℝ) ≤ (2 ^ 128 - 2 ^ 103) * (1 - m)) ∧
    Real.exp (((FV.of32 0xC2D00000).real : ℚ) : ℝ) ≤ 1 / 2 ^ 126 * (1 - m) := by
  have h1 : FV.of32 0x42B20000 = .fin false 11665408 (-17) := by decide +kernel
  have h2 : FV.of32 0x3F800000 = .fin false 8388608 (-23) := by decide +kernel
  have h3 : FV.of32 0xC2D00000 = .fin true 13631488 (-17) := by decide +kernel
  have r1 : (((FV.fin false 11665408 (-17)).real : ℚ) : ℝ) = ((89 : ℕ) : ℝ) * 1 := by norm_num [FV.real]
  have r2 : (((FV.fin false 8388608 (-23)).real : ℚ) : ℝ) = 1 := by norm_num [FV.real]
  have r3 : (((FV.fin true 13631488 (-17)).real : ℚ) : ℝ) = -(((104 : ℕ) : ℝ) * 1) := by norm_num [FV.real]
  have lo := Real.exp_one_gt_d9
  have hi := Real.exp_one_lt_d9
  have p (n : ℕ) : (2.718 : ℝ) ^ n ≤ Real.exp 1 ^ n := pow_le_pow_left₀ (by norm_num) (by linarith) n
  rw [h1, h2, h3, r1, r2, r3, Real.exp_neg, Real.exp_nat_mul, Real.exp_nat_mul]
  refine ⟨(by norm_num : (2 ^ 128 - 2 ^ 103) * (1 + 1 / 2 ^ 100) ≤ (2.718 : ℝ) ^ 89).trans (p 89), ⟨by norm_num; linarith, by norm_num; linarith⟩, ?_⟩
  refine (inv_anti₀ (by norm_num) (p 104)).trans ?_
  norm_num

/-! ### Address checks in every space (R231) -/

theorem test_zeroes : (∀ n ∈ [0x1000000000800000, 0x2000000020000000, 0x4001000000000000, 0x8000000000000000, 0x8201000000000000,
      0xC000000000000200, 0xC000000000001000], (sFar.accessFault (acc .load 4 (BitVec.ofNat 64 n))).map (·.1) = some 0x23) ∧
    (∀ n ∈ [0x1000000000000002, 0x2000000000000002, 0x4000000000000002, 0x8200000000000002, 0xC000000000000002],
      (sFar.accessFault (acc .load 4 (BitVec.ofNat 64 n))).map (·.1) = some 0x22) ∧
    (∀ n ∈ [0x1000000000000000, 0x2000000000000000, 0x4000000000000000, 0x8200000000000000, 0xC000000000000010],
      sFar.accessFault (acc .load 4 (BitVec.ofNat 64 n)) = none) ∧
    sFar.accessFault (acc .store 4 0xC000000000000010) = some (0x21, [0x10, 0xC0000000]) ∧
    sFar.accessFault (acc .store 4 0xC000000000000100) = none := by decide +kernel
theorem witness_AccessCyclesAndFaults_kinds : ({ acc .load 4 0 with gen := some [7] } : Access).gen = some [7] ∧
    (acc (.amo .add) 4 0).gen = none ∧ (acc .gather 4 0).solo = none ∧ (acc .gather 4 0).gen = none ∧
    s0.accessFault (acc (.amo .add) 4 0x1000000000000000) = none ∧
    s0.accessFault (acc (.amo .add) 4 0x2000000000000000) = some (0x23, [0, 0x20000000]) ∧
    s0.accessFault (acc (.amo .add) 4 6) = some (0x22, [6, 0]) ∧ s0.accessFault (acc (.ldt 3) 1024 1024) = none ∧
    s0.accessFault (acc (.ldt 3) 1024 512) = some (0x22, [512, 0]) ∧
    s0.accessFault { acc .gather 4 0 with lanes := [(1, 0x1004), (255, 0x1012)] } = some (0x22, [0x1012, 0, 255]) ∧
    s0.accessFault { acc (.scatter true) 4 0 with lanes := [(1, 0x100000), (255, 0x1012)] } = some (0x23, [0x100000, 0, 1]) := by
  decide +kernel

/-! ### Two requests in one slot, and the checks of the engine's commands -/

/-- The write of rank 0's LD slot, and one to the same slot by its engine. -/
def reqTwin : MemReq := { reqWrite with kind := 1, source := 5, who := { Meta.none with core := 0, issue := 3 } }
def reqHere : MemReq := { reqWrite with who := { Meta.none with core := 0 } }
def sTwins : State := { sTl with reqs := [reqHere, reqTwin] }
theorem witness_MemorySteps_twins : sTwins.part qTl.num = some qTl ∧ slotAt (qTl.ttc sTwins.gtc) = some 1 ∧
    (∀ x ∈ [reqHere, reqTwin], x.part = qTl.num ∧ x.cycle = qTl.ttc sTwins.gtc ∧ x.kind ≠ 2 ∧ sTwins.partOf x.who.core = qTl.num) ∧
    (∀ x ∈ [reqHere, reqTwin], sTwins.requestRule qTl [reqHere, reqTwin] (some 1) x = some (8, x.phys)) ∧
    stackOf reqHere.phys = stackOf reqTwin.phys ∧ qTl.chanNo (stackOf reqHere.phys) (chanOf reqHere.phys) = some 0 ∧
    reqHere.phys / 64 ∈ unitsOf reqHere.phys reqHere.size ∧ reqHere.phys % 64 = 0 ∧ qTl.unmet [reqHere, reqTwin] 1 = [] ∧
    (∀ x ∈ sTwins.due, qTl.nmUnits x.what = none) ∧
    keyLt [sTwins.rankOf 0, reqHere.kind, reqHere.source] [sTwins.rankOf 0, reqTwin.kind, reqTwin.source] = true := by decide +kernel

/-- R279: a command for each check, in their order; of several elements the lowest that fails is named. -/
theorem test_checks : s0.cmdFault (cmd 0x08 0 (3 * 2 ^ 42)) = some (0x23, 0) ∧
    s0.cmdFault (cmdFrom 0x08 0xC000000000000000) = some (0x23, 0) ∧
    s0.cmdFault (cmd 0x08 0 (0x2000 * 2 ^ 64 + 0xFFFC0 * 2 ^ 44 + 2 ^ 36)) = some (0x23, 1) ∧
    s0.cmdFault (cmdFrom 0x08 0x2020) = some (0x22, 0) ∧ s0.cmdFault (cmdFrom 0x08 0xFFFC0) = some (0x23, 1) ∧
    s0.cmdFault (cmdFrom 0x11 0x23F0) = some (0x23, 0) ∧ s0.cmdFault (cmdFrom 0x08 0x4000000000000000) = some (0x20, 0) ∧
    s0.cmdFault (cmdFrom 0x08 0x2000000000400000) = some (0x21, 0) := by decide +kernel

/-- R385: a port that is none, a FLAGS bit, an address outside space 0x0, and a port without slots of the group. -/
theorem test_link_checks : sPort.linkFault (cmd 0x28 0 (6 * 2 ^ 61 + 2 ^ 60 + 2 ^ 42)) = some (0x23, 0) ∧
    sPort.linkFault (cmd 0x29 0 (5 * 2 ^ 61 + 6 * 2 ^ 58 + 2 ^ 42)) = some (0x23, 0) ∧
    sPort.linkFault (cmd 0x28 0 (0x1000000000000000 * 2 ^ 64 + 5 * 2 ^ 61 + 2 ^ 42)) = some (0x23, 0) ∧
    sPort.linkFault (cmd 0x28 0 (0x80 * 2 ^ 64 + 5 * 2 ^ 61 + 2 ^ 42)) = some (0x22, 0) ∧
    sPort.linkFault (cmd 0x28 0 (4 * 2 ^ 61 + 2 ^ 60 + 2 ^ 42)) = some (0x21, 0) := by decide +kernel

/-- An element of a command of equal start and later issue; and an earlier one's. -/
def sEqual : State :=
  { s0 with due := s0.due ++ [{ late with what := .engineElementIssue { cmdLate with start := 0, issue := 5 } 0 }] }
theorem witness_EngineElements_rivals : sEqual.rivals = [({ cmdLate with start := 0, issue := 5 }, 0)] ∧ cmdIn.start = 0 ∧
    cmdIn.issue < 5 := by decide +kernel

/-! ### Multicast, and the cycles of far elements -/

/-- Core 3's queue full, core 5 in a solo region, core 6 admitted no more. -/
def sDeaf : State :=
  let s := (sCluster.modCtx 3 (withQ 0 (List.replicate 8 (row 1)))).modCtx 5 fun x => { x with solo := some 9 }
  { s with dies := s.dies.set 0 { s.dies[0] with access := [{ part := 1, rd := true, wr := true, base := 0, limit := 5 }] } }
theorem witness_WindowsAndArrivals_deaf : sDeaf.part (sDeaf.partOf sDeaf.me) = some qCluster ∧ cmdMc.f 53 52 < 4 ∧
    sDeaf.deliveryFaults cmdMc ≠ [] := by decide +kernel
/-- R242: each condition is a fault of the lowest core that meets it. -/
theorem test_deaf : sDeaf.deliveryFaults cmdMc = [(0x21, [6]), (0x19, [6, 5]), (0x14, [0, 0, 8, 3])] := by decide +kernel

theorem witness_WindowsAndArrivals_cycles : sDev.elemFar (cmdFrom 0x0A 0x4000000000000100) 0 = .device 256 0 ∧
    sFar.elemFar (cmdFrom 0x0A 0x8200000000000100) 0 = .remote 1 0 ∧
    sFar.elemFar (cmdFrom 0x10 0x8200000000000100) 0 = .remote 1 0 ∧
    sCluster.elemFar (cmd 0x12 0 (0x2000 * 2 ^ 64 + 2 ^ 44 + 2 ^ 42)) 0 = .own ∧
    s0.elemFar (cmd 0x12 0 (0x1000000000100000 * 2 ^ 64 + 2 ^ 44 + 2 ^ 42)) 0 = .peer 1 .cluster ∧
    s0.elemFar (cmdFrom 0x10 0x400) 0 = .own := by
  decide +kernel

/-! ### The checks of a near-memory command -/

/-- A second region, of channel group 1, behind the first. -/
def regionNext : BitVec 128 := BitVec.ofNat 128 (2 ^ 127 + 21 * 2 ^ 100 + 3 * 2 ^ 106 + 2 ^ 77 + 2 ^ 21)
def qNm2 : Part := { qNm with regions := [region0, regionNext] }
/-- A command by opcode, block count and the first blocks of A, B and DST. -/
def nmAt (op n a b d : Nat) : NmCmd :=
  { nmCmd 2 with rec_ := BitVec.ofNat 256 (op + n * 2 ^ 16 + a * 2 ^ 40 + b * 2 ^ 80 + d * 2 ^ 120 + 0x3F800000 * 2 ^ 192) }
def sNm2 : State := { sNm with parts := [qNm2] }
def sNmDeaf : State := { sNm with hbm := State.reset.hbm }
def qNmIdle : Part := { qNm with timelines := [] }
def sNmIdle : State := { sNm with parts := [qNmIdle] }
def sNmTaken : State := { sNm with hbm := sNm.hbm.set 0 { sNm.hbm[0] with lanes := [(1, 0, 90, 140)] } }

theorem witness_NearMemorySteps_parts : sNm2.part (sNm2.partOf sNm2.me) = some qNm2 ∧
    sNmDeaf.part (sNmDeaf.partOf sNmDeaf.me) = some qNm ∧ sNmIdle.part (sNmIdle.partOf sNmIdle.me) = some qNmIdle ∧
    sNmTaken.part (sNmTaken.partOf sNmTaken.me) = some qNm ∧
    (∃ st ∈ sNmTaken.hbm[0]?.toList, st.lanes = [] ++ (1, 0, 90, 140) :: []) := by decide +kernel

/-- R306: an opcode that is none; a range beyond 2^46; a block of B, and the second block of DST, in no region; B in another
group; an access table without entry; a slot that is no near-memory slot (slot 77 is the first from S = 100 on). -/
theorem test_nm_checks : sNm.nmFault qNm (nmAt 6 2 0 2 4) = some (0x23, [100, 1, 0]) ∧
    sNm.nmFault qNm (nmAt 2 2 (2 ^ 40 - 1) 2 4) = some (0x23, [100, 2, 1]) ∧
    sNm.nmFault qNm (nmAt 2 2 0 0x8000 4) = some (0x20, [100, 3, 0]) ∧
    sNm.nmFault qNm (nmAt 2 2 0 2 0x7FFF) = some (0x20, [100, 3, 1]) ∧
    sNm2.nmFault qNm2 (nmAt 2 2 0 0x8000 4) = some (0x23, [100, 4, 0]) ∧
    sNmDeaf.nmFault qNm (nmAt 2 2 0 2 4) = some (0x21, [100, 5, 0]) ∧
    sNmIdle.nmFault qNmIdle (nmAt 2 2 0 2 4) = some (0x18, [100, 6, 0xFFFFFFFF, 0, 77, 1, 0]) := by decide +kernel

/-! ### Slots, landings and routes -/

/-- The row of an LDQ still to come. -/
def waitsFor (w : Work) : Timed :=
  { clock := some 1, due := 500, key := [], who := { s0.cur.who with core := 0, issue := 9, src := 1 }, what := w }
def noRow : Row := { words := [], mark := none, poison := none }
def sAsks (errs : List (Nat × Nat × Nat)) : State :=
  { sPort with due := [waitsFor (.queueLoadAppend 0 3 noRow)], linkErrs := errs }
theorem witness_LinkSteps_replies : ∀ errs ∈ [[], [(0, 64, 11)], [(0, 0, 11)]], (sAsks errs).part 1 = some qGrp ∧
    qGrp.cores[0]? = some 0 ∧ (∀ x ∈ (sAsks errs).due, x.who.core = 0 ∧ x.who.issue = 9 ∧ x.who.src = 1) ∧ 0 / 96 ≠ 5 / 2 := by
  decide +kernel
def bytes4 : List Byte := [1, 0, 0, 0]
/-- R377: what the die link spoils is fault 0x33 where it would be used. -/
theorem test_reply_spoilt : (match execFlitLanding ({ sAsks [(0, 0, 11)] with cur := { s0.cur with work := .flitLanding 5 0 (.reply 1 0 9 bytes4 none) } }) with
      | .next t => t.due.map fun x => (x.due, x.what)
      | _ => []) = [(64, .registerWrite 0 (.fault 0x33 none [0, 2]))] := by decide +kernel

def originN : Origin := { from_ := (1, 0, 0), rank := 0, source := 1, start := 0, elem := 0, issue := 0 }
def qGrpDev : Part := { qGrp with groups := [0], regions := [region0] }
theorem witness_LinkSteps_accesses : (let s : State := { sPort with parts := [qGrpDev] }
     s.part 1 = some qGrpDev ∧ qGrpDev.group = some 3 ∧ qGrpDev.group ≠ some 4 ∧
     translate qGrpDev.regions false 256 = .ok (256, 0) ∧ translate qGrpDev.regions false (2 ^ 30) = .error (0x20, 255)) := by
  decide +kernel
theorem witness_LinkSteps_transit : sPort.parts.find? (fun q => q.group.isSome && q.group == (flit5 0).group) = some qGrp ∧
    sPort.part qGrp.num = some qGrp ∧ sPort.partOf 0 = qGrp.num ∧ (∀ q ∈ s0.parts, q.group = none ∨ q.group ≠ (flit5 0).group) := by
  decide +kernel
def awayOf : Away := { who := { s0.cur.who with issue := 9, src := 1 }, elem := 0, performs := 100, faultAt := 90 }
theorem witness_LinkSteps_bad : ((s0.modCore 0 fun k => { k with away := [awayOf] }).core 0).away.find?
    (fun r => r.who.issue == 9 && r.who.src == 1 && r.elem == 0) = some awayOf := by decide +kernel

/-- R382: 1 to 6 of 8 goes down; 1 to 5 of 8 is a tie and goes up; X comes before Z. -/
theorem test_routes : (let s : State := { s0 with coords := (1, 0, 0), extents := (8, 1, 4) }
    [s.route (6, 0, 0), s.route (5, 0, 0), s.route (2, 0, 3), s.route (1, 0, 3), s.route (1, 0, 1)]) =
      [(3, 1), (4, 0), (2, 0), (1, 5), (1, 4)] := by decide +kernel

/-- The slot of `sPort` that R384 gives to a window at GTC 0 is slot 0: torus port, a group's slot that its entry admits. -/
theorem witness_LinkSteps_free : (sPort.port 5).mode = .torus ∧ (0 : Nat) = 0 + 21 * 0 / 32 ∧ (0, 0) ∉ (sPort.port 5).taken ∧
    (∃ r ∈ (sPort.port 5).table, r.open_ = false ∧ some r.group = (flit5 0).group ∧ r.first ≤ 0 ∧ 0 < r.first + r.count) ∧
    (∃ e ∈ (sPort.port 5).access, e.part = sPort.partOf sPort.me ∧ e.wr = true ∧ e.base ≤ 0 ∧ 0 ≤ e.limit) := by decide +kernel

/-! ### Predecessors, hangs, signs of life, the victims of a pre-emption -/

/-- An image whose launch names one predecessor, which no launch of the tenant bears, or which launch 1 bears and has retired. -/
def image4 : List Byte :=
  [0x4C4C5953, 1, 192, 2, 64].flatMap (leBytes 4) ++ List.replicate 44 0 ++
  [0x00FF0001, 0, 96, 80, 0x00000002, 0, 176, 16].flatMap (leBytes 4) ++ List.replicate 32 0xAB ++
  [3, 1, 0, 0].flatMap (leBytes 4) ++ List.replicate 32 0xCD ++ [4, 0, 1, 0].flatMap (leBytes 4)
def launch4 : Launch :=
  { launch3 with len := 192, got := [some (image4.take 64), some ((image4.drop 64).take 64), some (image4.drop 128)] }
def launchPast : Launch :=
  { launch4 with sub := 1, state := .retired, syl := some { syl0 with name := List.replicate 32 0xCD } }
def sNamed (ls : List Launch) : State := { sHost with launches := ls ++ [launch4] }
theorem witness_BellsAndLaunches_preds : ∀ ls ∈ [[], [launchPast]], (sNamed ls).launch launch4.sub = some launch4 ∧
    ((sNamed ls).launches.map Launch.sub).Nodup ∧ launch4.state = .reading ∧ (sNamed ls).holds 1 = false ∧
    ((sNamed ls).svc .registrar).journal.length < 65536 ∧ launch4.malformed = false ∧
    (∀ x ∈ (sNamed ls).launches, x.tenant = launch4.tenant → x.sub < launch4.sub → x.state ≠ .reading) ∧
    (sNamed ls).tenants.find? (fun t => t.num == launch4.tenant) = some tenantG ∧ launch4.bytes = some image4 ∧
    imageOk image4 launch4.len = true ∧
    refusalReason image4 launch4.len (tenantG.keys.map (·.1)) ((sNamed ls).tenantTimings tenantG) = none ∧
    (readSyllabus image4).preds = [List.replicate 32 0xCD] ∧ launchPast.state.lost = false ∧
    ((sNamed ls).launches.any fun x => x.tenant == launch4.tenant && decide (x.sub < launch4.sub) &&
      x.syl.any fun z => z.name == List.replicate 32 0xCD) = !ls.isEmpty := by decide +kernel

/-- A launch that has shown no sign of life for 4096 periods. -/
def sHung : State := { s0 with gtc := 4096 * 4032 }
theorem witness_BellsAndLaunches_hangs : ∀ s ∈ [s0, sHung], q0 ∈ s.parts ∧ (s.parts.map Part.num).Nodup ∧ s.holds 1 = false ∧
    s.heldWork = [] ∧ s.launches = [] ∧ (∀ p ∈ s.parts, p.status = .running ∧ p.recess = none ∧ p.order = none ∧
      p.resumeFrom = none ∧ p.outcome = none ∧ s.onDuty p = false) ∧ (∀ x ∈ s.due, x.what ≠ .hangDetected q0.num) ∧
    (q0.sign + 4096 * 4032 ≤ q0.ttc s.gtc ↔ s.gtc ≠ 0) := by decide +kernel
theorem witness_BellsAndLaunches_signs : s0.part (s0.partOf s0.me) = some q0 ∧ s0.Takes 0 false ∧ ¬ s0.Takes 0 true ∧
    s0.Clear (.endI fY) := by
  unfold State.Takes State.Clear; decide +kernel
theorem witness_BellsAndLaunches_fitting : (plain 0).syl.isSome = true ∧
    (((plain 0).syl.map (·.variants)).getD []).Pairwise (fun u v => u.1 < v.1) ∧ 0 < variant4.ncore ∧ variant4.ncore ≤ 384 := by
  decide +kernel

/-! ### Bands, duty -/

theorem witness_TemperatureUnitsAndCores_rises : (s0.tstackOf 7).toNat / 2 ^ 11 % 4 < 2 ∧ (s0.die 3).tdie.toNat / 2 ^ 11 % 4 < 2 ∧
    8 % 8 = 0 ∧ s0.gtc + 4032 ≤ 4032 * 8 ∧ 4032 * 8 < s0.gtc + 4032 + 8 * 4032 := by decide +kernel
/-- A bell one period before a group of 8: a stack at band 2 and 91.875 °C (95 less 3, less an eighth) falls to band 1, one at
92.125 °C stays; a die at band 2 and 92 °C falls to band 0. -/
def sWarm : State :=
  { sFree with gtc := 7 * 4032,
               hbm := (sFree.hbm.set 0 { sFree.hbm[0] with tstack := BitVec.ofNat 32 (2 * 2 ^ 11 + 735) }).set 1
                 { sFree.hbm[1] with tstack := BitVec.ofNat 32 (3 * 2 ^ 13 + 2 * 2 ^ 11 + 737) },
               dies := sFree.dies.set 0 { sFree.dies[0] with tdie := BitVec.ofNat 32 (2 * 2 ^ 11 + 736) } }
theorem test_cools : let t := sWarm.thermalBell
    (List.range 2).map (fun i => (t.tstackOf i).toNat / 2 ^ 11 % 4) = [1, 2] ∧ (t.die 0).tdie.toNat / 2 ^ 11 % 4 = 0 ∧
    t.duty = [{ first := 8, hbm := [(1, 3)], dies := [] }] := by decide +kernel
/-- R405: the largest duty of the partition's dies, and of any member of its link group. -/
theorem test_duty : sDuty.dutyPeriods qLoaded = 4 ∧
    sDuty.dutyPeriods { qLoaded with group := some 3, groupDuty := (0, 6) } = 6 ∧
    sDuty.dutyPeriods { qLoaded with group := some 3, groupDuty := (8, 6) } = 4 := by decide +kernel

/-! ### A prefect in probation, marked words at a bundle's issue, entries of a transfer list -/

theorem witness_HandoverSteps_prefect : ∀ st ∈ [SvcState.quiesce, .fallback],
    let s : State := { sSvc st [] with svcs := (sSvc st []).svcs.set 0 (svcIn .probation []) }
    (s.svc .prefect).state = .probation ∧ (s.svc .prefect).journal.length + 2 ≤ 65536 ∧ (s.svc .porter).state = st := by
  decide +kernel

/-- Core 0 about to issue bundle 65 of its segment at TTC 1, with a word in slot 0 or 4. -/
def bundleOf (slot w : Nat) : List Nat := List.replicate slot 0 ++ [w]
def issues (slot w : Nat) (f : Ctx → Ctx) (bad : List (Nat × Nat × Nat)) : State :=
  ({ (s0.modSeq fun q => { q with halfA := some { off := 0x400000, ready := 0, seg := some { segmentFor 0 0 with
      bundles := List.replicate 65 [] ++ [bundleOf slot w] ++ List.replicate 190 [] } } }).modCtx 0 f with
      gtc := 1, due := [] }).modCore 0 fun k => { k with regBad := bad }
/-- Beside an open block with an empty MX slot; and an ADD of s1 and s2, whose s2 is marked. -/
theorem witness_FaultAtIssue_bundles : ∀ s ∈ [issues 0 0x01184400 id [(0, 2, 0)],
      issues 0 0x01184400 (fun x => { x with mx := { x.mx with isOpen := true, blocks := [block0] } }) []],
    s.part q0.num = some q0 ∧ 0 ∈ q0.cores ∧ s.partOf 0 = q0.num ∧ q0.judged ≠ some (q0.ttc s.gtc) ∧ q0.faultsNow = [] ∧
    q0.joining = false ∧ q0.ttc s.gtc % 4032 ≠ 0 ∧ (∀ x ∈ s.due, s.isDue x = true → x.what.instr ≠ .bundleIssue) ∧
    (s.ctx 0).seq.next = .bundle 65 ∧
    (let y : Ctx := { s.ctx 0 with seq := (s.ctx 0).seq.advance (q0.ttc s.gtc) }
     y.word 0 = 0x01184400 ∧ y.word 4 = 0) := by
  intro s hs
  rcases List.mem_cons.1 hs with rfl | hs
  · decide +kernel
  · obtain rfl := List.mem_singleton.1 hs
    decide +kernel

/-- Entries of a transfer list at 0x2000: nothing, a KIND that is none, one too early, one that starts an XFER. -/
def sEntry (ws : List Word) : State := s0.modCore 0 fun k => { k with spad := k.spad.writeBytes 0x2010 (bytesOf ws) }
theorem witness_BankAccesses_entries : ∀ ws ∈ ([[0, 0, 0, 0], [9, 0x00070000, 0, 0], [3, 0x00080005, 0, 0], [4, 0x00080005, 0, 0]] : List (List Word)),
    (List.range 4).map (fun i => ((sEntry ws).core 0).spad.readWord (0x2010 + 4 * i)) = ws := by decide +kernel

end Sys2Proof.Tests
end

section
/-! The step of the package (O51). -/
namespace Sys2Proof.Machine

/-! ### The end of a cycle leaves the memories as they are -/

/-- `t` keeps the device memory, the dies, the cycle count and every scratchpad of `s`. -/
def State.KeepsMemory (s t : State) : Prop :=
  t.gtc = s.gtc ∧ t.dram = s.dram ∧ t.dies = s.dies ∧ ∀ k, (t.core k).spad = (s.core k).spad

theorem State.KeepsMemory.refl (s : State) : s.KeepsMemory s := ⟨rfl, rfl, rfl, fun _ => rfl⟩

theorem State.KeepsMemory.trans {s t u : State} (h : s.KeepsMemory t) (k : t.KeepsMemory u) : s.KeepsMemory u :=
  ⟨k.1.trans h.1, k.2.1.trans h.2.1, k.2.2.1.trans h.2.2.1, fun c => (k.2.2.2 c).trans (h.2.2.2 c)⟩

theorem State.KeepsMemory.of_cores {s t : State} (hg : t.gtc = s.gtc) (hm : t.dram = s.dram) (hd : t.dies = s.dies)
    (hc : t.cores = s.cores) : s.KeepsMemory t := ⟨hg, hm, hd, fun k => by simp [State.core, hc]⟩

theorem State.KeepsMemory.foldl {α : Type} {f : State → α → State} (hf : ∀ (s : State) x, s.KeepsMemory (f s x)) (xs : List α)
    (s : State) : s.KeepsMemory (xs.foldl f s) := by
  induction xs generalizing s with
  | nil => exact .refl s
  | cons x xs ih => exact (hf s x).trans (ih (f s x))

theorem State.modPart_keepsMemory (s : State) (p : Nat) (f : Part → Part) : s.KeepsMemory (s.modPart p f) :=
  .of_cores rfl rfl rfl rfl

/-- A change of a core that keeps a field keeps it on every core. -/
theorem State.core_modCore_field {α : Type} {s : State} {c : Nat} {f : Core → Core} (p : Core → α)
    (h : ∀ x, p (f x) = p x) (k : Nat) : p ((s.modCore c f).core k) = p (s.core k) := by
  by_cases e : k = c
  · subst e
    by_cases hk : k < 384
    · rw [State.core_modCore_self hk, h]
    · rw [State.modCore_absent (Nat.le_of_not_lt hk)]
  · rw [State.core_modCore_ne e]

/-- A change of a context is none of a scratchpad. -/
theorem State.core_modCtx_spad (s : State) (c k : Nat) (f : Ctx → Ctx) :
    ((s.modCtx c f).core k).spad = (s.core k).spad := by
  refine State.core_modCore_field (s := s) (c := c) Core.spad ?_ k
  exact fun _ => rfl

theorem State.modCtx_keepsMemory (s : State) (c : Nat) (f : Ctx → Ctx) : s.KeepsMemory (s.modCtx c f) :=
  ⟨rfl, rfl, rfl, fun k => s.core_modCtx_spad c k f⟩

theorem State.relive_keepsMemory (s : State) (q : Part) (a b : Life) : s.KeepsMemory (s.relive q a b) :=
  .foldl (fun s c => s.modCtx_keepsMemory c _) q.cores s

theorem State.enterRecess_keepsMemory (s : State) (p : Nat) (c : Cause) (i : Option Nat) :
    s.KeepsMemory (s.enterRecess p c i) := by
  unfold State.enterRecess
  split
  · exact .refl s
  · exact ((s.modPart_keepsMemory p _).trans (State.relive_keepsMemory ..)).trans (.of_cores rfl rfl rfl rfl)

theorem State.closePart_keepsMemory (s : State) (q : Part) : s.KeepsMemory (s.closePart q) := by
  have entered (p : Nat) (f : Part → Part) (c : Cause) (i : Option Nat) :
      s.KeepsMemory ((s.modPart p f).enterRecess p c i) :=
    (s.modPart_keepsMemory p f).trans (State.enterRecess_keepsMemory ..)
  unfold State.closePart
  split
  · split
    · cases q.runs
      · exact s.modPart_keepsMemory ..
      · exact entered ..
    · exact .refl s
  · cases q.recess.isSome
    · exact entered ..
    · exact s.modPart_keepsMemory ..

theorem State.closeFaults_keepsMemory (s : State) : s.KeepsMemory s.closeFaults :=
  .foldl State.closePart_keepsMemory s.parts s

/-- The end of a cycle: GTC runs on by one, and no memory changes (R2, R322). -/
theorem State.turn_keepsMemory (s : State) : s.turn.gtc = s.gtc + 1 ∧ s.turn.dram = s.dram ∧ s.turn.dies = s.dies ∧
    ∀ k, (s.turn.core k).spad = (s.core k).spad := by
  obtain ⟨hg, hm, hd, hs⟩ := s.closeFaults_keepsMemory
  exact ⟨congrArg (· + 1) hg, hm, hd, hs⟩

/-! ### The first step of a cycle -/

theorem keyLt_irrefl (a : List Nat) : keyLt a a = false := by
  induction a with
  | nil => rfl
  | cons x a ih => simp [keyLt, ih]

/-- The choice of `firstDue` between the best step so far and one more. -/
def State.better (s : State) (best : Option Timed) (x : Timed) : Option Timed :=
  if s.isDue x then
    match best with
    | none => some x
    | some b => if keyLt x.place b.place then some x else some b
  else best

theorem State.firstDue_eq (s : State) : s.firstDue = s.due.foldl s.better none := rfl

theorem State.better_of_not_due {s : State} {x : Timed} (h : s.isDue x = false) (best : Option Timed) :
    s.better best x = best := by simp [State.better, h]

/-- What stands as the best of some steps is one of them that is due. -/
theorem State.foldl_better_mem {s : State} (xs : List Timed) (b : Timed) (h : xs.foldl s.better none = some b) :
    b ∈ xs ∧ s.isDue b = true := by
  induction xs using List.reverseRecOn with
  | nil => simp at h
  | append_singleton xs x ih =>
    rw [List.foldl_append, List.foldl_cons, List.foldl_nil] at h
    by_cases hx : s.isDue x = true
    · cases hb : xs.foldl s.better none with
      | none =>
        rw [hb] at h
        obtain rfl : x = b := by simpa [State.better, hx] using h
        exact ⟨by simp, hx⟩
      | some c =>
        rw [hb] at h
        by_cases hk : keyLt x.place c.place = true
        · obtain rfl : x = b := by simpa [State.better, hx, hk] using h
          exact ⟨by simp, hx⟩
        · obtain rfl : c = b := by simpa [State.better, hx, hk] using h
          exact ⟨List.mem_append_left _ (ih hb).1, (ih hb).2⟩
    · rw [State.better_of_not_due (by simpa using hx)] at h
      exact ⟨List.mem_append_left _ (ih h).1, (ih h).2⟩

/-- A best step that no later one comes before stays the best. -/
theorem State.foldl_better_stays {s : State} {x : Timed} (ys : List Timed)
    (h : ∀ y ∈ ys, s.isDue y = true → keyLt y.place x.place = false) : ys.foldl s.better (some x) = some x := by
  induction ys with
  | nil => rfl
  | cons y ys ih =>
    have hy : s.better (some x) y = some x := by
      by_cases hd : s.isDue y = true
      · simp [State.better, h y (by simp) hd]
      · exact State.better_of_not_due (by simpa using hd) _
    rw [List.foldl_cons, hy]
    exact ih fun z hz => h z (by simp [hz])

/-- The least place, the earlier scheduled on a tie. -/
theorem State.firstDue_of_least {s : State} {before after : List Timed} {x : Timed} (hs : s.due = before ++ x :: after)
    (hx : s.isDue x = true) (hb : ∀ y ∈ before, s.isDue y = true → keyLt x.place y.place = true)
    (ha : ∀ y ∈ after, s.isDue y = true → keyLt y.place x.place = false) : s.firstDue = some x := by
  have hbest : s.better (before.foldl s.better none) x = some x := by
    cases h : before.foldl s.better none with
    | none => simp [State.better, hx]
    | some b =>
      obtain ⟨hm, hd⟩ := State.foldl_better_mem before b h
      simp [State.better, hx, hb b hm hd]
  rw [State.firstDue_eq, hs, List.foldl_append, List.foldl_cons, hbest, State.foldl_better_stays after ha]

theorem State.firstDue_none {s : State} (h : ∀ x ∈ s.due, s.isDue x = false) : s.firstDue = none := by
  rw [State.firstDue_eq]
  generalize s.due = xs at h
  induction xs with
  | nil => rfl
  | cons x xs ih =>
    rw [List.foldl_cons, State.better_of_not_due (h x (by simp))]
    exact ih fun y hy => h y (by simp [hy])

/-- Taking the step of least place takes that one occurrence of it. -/
theorem erase_of_least {before after : List Timed} {x : Timed} (h : x ∉ before) :
    (before ++ x :: after).erase x = before ++ after := by
  rw [List.erase_append_right _ h, List.erase_cons_head]

/-! ### What a step executes -/

/-- The instruction of the next slot, by its word (R27). -/
theorem State.fetch_enterSlot (s : State) (slot : Nat) (rest : List Nat) :
    (s.enterSlot slot rest).fetch = decodeSlot (slotKindOf slot) (s.myCtx.word slot) := rfl

theorem step_slot_ok {s : State} {slot : Nat} {rest : List Nat} {i : Instr} (hon : s.on = true)
    (ht : s.cur.todo = slot :: rest) (hi : decodeSlot (slotKindOf slot) (s.myCtx.word slot) = .ok i) :
    step s = exec i (s.enterSlot slot rest) := by
  simp only [step, hon, ht, State.fetch_enterSlot, hi, if_true]

theorem step_slot_error {s : State} {slot : Nat} {rest : List Nat} {e : DecodeError} (hon : s.on = true)
    (ht : s.cur.todo = slot :: rest) (he : decodeSlot (slotKindOf slot) (s.myCtx.word slot) = .error e) :
    step s = .next (s.enterSlot slot rest).illegal := by
  simp only [step, hon, ht, State.fetch_enterSlot, he, if_true]

theorem step_pending {s : State} {x : Timed} (hon : s.on = true) (ht : s.cur.todo = []) (hx : s.firstDue = some x) :
    step s = exec x.what.instr (s.begin_ x) := by
  simp only [step, hon, ht, hx, if_true]

theorem step_turn {s : State} (hon : s.on = true) (ht : s.cur.todo = []) (hx : s.firstDue = none) :
    step s = .next s.turn := by
  simp only [step, hon, ht, hx, if_true]

/-- A slot word that is no instruction is fault 0x01 of the core (R28). -/
theorem State.enterSlot_illegal (s : State) (slot : Nat) (rest : List Nat) :
    (s.enterSlot slot rest).Raises (s.enterSlot slot rest).illegal s.me 0x01 slot
      [BitVec.ofNat 32 (2 ^ slot), BitVec.ofNat 32 (s.myCtx.word slot)] :=
  ⟨_, rfl, rfl, rfl, rfl, rfl⟩

theorem Timed.place_key {x : Timed} (h : ∀ port slot l, x.what ≠ .flitLanding port slot l) : x.place = x.key := by
  unfold Timed.place
  split
  · rename_i port slot l e
    exact absurd e (h port slot l)
  · rfl

/-- Settles O51: a slot of the bundle, the first pending step, or the end of the cycle. -/
theorem stepRunsTheDecoded : Obligations.StepRunsTheDecoded := by
  refine ⟨fun s slot rest hon ht => ⟨fun i hi => ?_, fun e he => ?_⟩, fun s hon ht => ⟨?_, ?_, ?_⟩⟩
  · exact step_slot_ok hon ht hi
  · exact ⟨_, step_slot_error hon ht he, s.enterSlot_illegal slot rest⟩
  · intro before after x hs hx hb ha
    have hnot : x ∉ before := fun hm => by simpa [keyLt_irrefl] using hb x hm hx
    rw [step_pending hon ht (State.firstDue_of_least hs hx hb ha)]
    simp only [State.begin_, hs, erase_of_least hnot]
  · exact fun x _ => ⟨fun _ _ _ h => Timed.place_landing h, Timed.place_key⟩
  · exact fun h => ⟨s.turn, step_turn hon ht (State.firstDue_none h), s.turn_keepsMemory⟩

end Sys2Proof.Machine
end

section
namespace Sys2Proof.Machine

/-! ### A registrar that serves -/

/-- The machine with other services of the office. -/
def State.withSvcs (s : State) (vs : Vector Svc 3) : State := { s with svcs := vs }

@[simp] theorem State.withSvcs_cores (s : State) (vs : Vector Svc 3) : (s.withSvcs vs).cores = s.cores := rfl
@[simp] theorem State.withSvcs_dram (s : State) (vs : Vector Svc 3) : (s.withSvcs vs).dram = s.dram := rfl
@[simp] theorem State.withSvcs_parts (s : State) (vs : Vector Svc 3) : (s.withSvcs vs).parts = s.parts := rfl
@[simp] theorem State.withSvcs_launches (s : State) (vs : Vector Svc 3) : (s.withSvcs vs).launches = s.launches := rfl

/-- The state of a service that holds nothing and has room in its journal. -/
def State.Free (s : State) (v : Service) : Prop := s.holds v.idx = false ∧ (s.svc v).journal.length < 65536

/-- A fact of a service that holds nothing and has room in its journal changes the services alone. -/
theorem State.journal_free {s : State} {v : Service} (h : s.Free v) (f : Fact) :
    ∃ vs, s.journal v f = s.withSvcs vs ∧ (s.withSvcs vs).holds v.idx = false ∧
      ∀ i, i ≠ v.idx → vs[i]? = s.svcs[i]? := by
  obtain ⟨hh, hj⟩ := h
  unfold State.journal State.journalEntry
  extract_lets x
  split
  · exact ⟨s.svcs, rfl, hh, fun _ _ => rfl⟩
  · split
    · exact ⟨s.svcs, rfl, hh, fun _ _ => rfl⟩
    · split
      case isTrue hfull => exact absurd hj (Nat.not_lt.2 hfull)
      case isFalse =>
        have hlt : v.idx < 3 := by cases v with | prefect | registrar | porter => decide
        let e : JournalEntry := { seq := x.seq, index := x.journal.length, essential := decide (f.type ≤ 6), type := f.type,
                                  schema := recordSchema (s.svc v).record }
        refine ⟨s.svcs.setIfInBounds v.idx { x with journal := x.journal ++ [e] }, rfl, ?_, fun i hi => ?_⟩
        · simpa [State.holds, State.withSvcs, hlt, x, State.svc] using hh
        · simp [Ne.symm hi]

/-- The registrar holds no work, and its journal has room for one more entry: it states a fact without falling back. -/
def State.Serves (s : State) : Prop := s.holds 1 = false ∧ (s.svc .registrar).journal.length < 65536

/-- The services as a fact of the registrar leaves them: it holds no work, and no other service has changed. -/
structure State.Served (s : State) (vs : Vector Svc 3) : Prop where
  free : (s.withSvcs vs).holds 1 = false
  others : ∀ i, i ≠ 1 → vs[i]? = s.svcs[i]?

/-- A registrar that serves journals a fact, and goes on serving its work; only the services' own state changes. -/
theorem State.journal_serves {s : State} (h : s.Serves) (f : Fact) :
    ∃ vs, s.journal .registrar f = s.withSvcs vs ∧ s.Served vs := by
  obtain ⟨vs, hv, hfree, hothers⟩ := State.journal_free (v := .registrar) h f
  exact ⟨vs, hv, hfree, hothers⟩

/-- A fact that a serving registrar states, and the act that it states. -/
theorem State.stated_serves {s : State} (h : s.Serves) (f : Fact) (act : State → State) :
    ∃ vs, s.stated .registrar f act = act (s.withSvcs vs) ∧ s.Served vs := by
  obtain ⟨vs, hv, hs⟩ := State.journal_serves h f
  refine ⟨vs, ?_, hs⟩
  have hfree : (s.withSvcs vs).holds Service.registrar.idx = false := hs.free
  simp only [State.stated, hv, hfree, Bool.false_eq_true, if_false]

theorem State.orLater_serving {s : State} (h : s.holds 1 = false) : s.orLater = s := by
  simp [State.orLater, h]

/-! ### One launch -/

/-- The launch of a number after a change of one that keeps numbers. -/
theorem State.launch_map {s : State} {g : Launch → Launch} (hg : ∀ l, (g l).sub = l.sub) (k : Nat) :
    ({ s with launches := s.launches.map g } : State).launch k = (s.launch k).map g := by
  simp only [State.launch, List.find?_map]
  congr 2
  funext l
  simp [hg]

theorem State.launch_modLaunch {s : State} {p k : Nat} {f : Launch → Launch} (hf : ∀ l, (f l).sub = l.sub) :
    (s.modLaunch p f).launch k = (s.launch k).map fun l => if l.sub == p then f l else l :=
  State.launch_map (fun l => by split <;> simp [hf]) k

theorem State.launch_sub {s : State} {k : Nat} {l : Launch} (h : s.launch k = some l) : l.sub = k := by
  simpa using List.find?_some h

theorem State.launch_mem {s : State} {k : Nat} {l : Launch} (h : s.launch k = some l) : l ∈ s.launches :=
  List.mem_of_find?_eq_some h

theorem State.launch_modLaunch_self {s : State} {k : Nat} {l : Launch} {f : Launch → Launch} (hf : ∀ l, (f l).sub = l.sub)
    (h : s.launch k = some l) : (s.modLaunch k f).launch k = some (f l) := by
  rw [State.launch_modLaunch hf, h]
  simp [State.launch_sub h]

/-- Among launches of different numbers, a launch is the one of its number. -/
theorem State.launch_of_mem {s : State} {l : Launch} (hn : (s.launches.map Launch.sub).Nodup) (h : l ∈ s.launches) :
    s.launch l.sub = some l := by
  have hsome : (s.launch l.sub).isSome := List.find?_isSome.2 ⟨l, h, by simp⟩
  obtain ⟨m, hm⟩ := Option.isSome_iff_exists.1 hsome
  rw [hm, List.inj_on_of_nodup_map hn (State.launch_mem hm) h (State.launch_sub hm)]

/-! ### One partition -/

theorem State.part_mem {s : State} {p : Nat} {q : Part} (h : s.part p = some q) : q ∈ s.parts :=
  List.mem_of_find?_eq_some h

theorem State.part_of_mem {s : State} {q : Part} (hn : (s.parts.map Part.num).Nodup) (h : q ∈ s.parts) :
    s.part q.num = some q := by
  have hsome : (s.part q.num).isSome := List.find?_isSome.2 ⟨q, h, by simp⟩
  obtain ⟨r, hr⟩ := Option.isSome_iff_exists.1 hsome
  rw [hr, List.inj_on_of_nodup_map hn (State.part_mem hr) h (State.part_num hr)]

/-- The partition that a change names, and every other. -/
theorem State.part_modPart_self {s : State} {p : Nat} {q : Part} {f : Part → Part} (hf : ∀ q, (f q).num = q.num)
    (h : s.part p = some q) : (s.modPart p f).part p = some (f q) := by
  rw [State.part_modPart hf, h]
  simp [State.part_num h]

theorem State.part_modPart_ne {s : State} {p k : Nat} {f : Part → Part} (hf : ∀ q, (f q).num = q.num) (hk : k ≠ p) :
    (s.modPart p f).part k = s.part k := by
  rw [State.part_modPart hf]
  cases h : s.part k with
  | none => rfl
  | some q => simp [State.part_num h, hk]

/-! ### Orders of the registrar: a hang, a promotion (R218, R350) -/

/-- R350: a hung partition is ordered into recess, and nothing else happens. -/
theorem State.hangDetected_orders {s : State} {q : Part} (hq : s.part q.num = some q) (h : s.Serves)
    (hw : s.cur.work = .hangDetected q.num) : s.Answers .hangDetected fun t =>
      t.part q.num = some { q with order := some .hang } ∧ (∀ p, p ≠ q.num → t.part p = s.part p) ∧ t.cores = s.cores ∧
      t.due = s.due := by
  obtain ⟨vs, he, hs⟩ := State.stated_serves h .hang (·.modPart q.num fun q => { q with order := some .hang })
  have ht : execHangDetected s = .next ((s.withSvcs vs).modPart q.num fun q => { q with order := some .hang }) := by
    simp only [execHangDetected, hw, he]
    exact congrArg _ (State.orLater_serving hs.free)
  exact ⟨_, ht, State.part_modPart_self (fun _ => rfl) hq, fun p hp => State.part_modPart_ne (fun _ => rfl) hp, rfl, rfl⟩

/-- The place of the next launch that joins comes after every other (R218). -/
theorem State.lt_nextJoin {s : State} {x : Launch} (hx : x ∈ s.launches) : x.joined < s.nextJoin := by
  have h (ls : List Launch) (m : Nat) : m ≤ ls.foldl (fun m l => max m l.joined) m ∧
      ∀ x ∈ ls, x.joined ≤ ls.foldl (fun m l => max m l.joined) m := by
    induction ls generalizing m with
    | nil => simp
    | cons y ls ih =>
      obtain ⟨h1, h2⟩ := ih (max m y.joined)
      refine ⟨le_trans (le_max_left ..) h1, fun x hx => ?_⟩
      rcases List.mem_cons.1 hx with rfl | hx
      · exact le_trans (le_max_right ..) h1
      · exact h2 x hx
  exact Nat.lt_succ_of_le ((h s.launches 0).2 x hx)

/-- Whether a launch stands in the queue of another behind it. -/
def Launch.behind (l x : Launch) : Bool :=
  x.tenant == l.tenant && x.level == l.level && decide (l.joined < x.joined) && !x.state.settled

/-- A launch that stands behind another waits for it from now on. -/
def Launch.letPass (l x : Launch) : Launch := if l.behind x then { x with ahead := x.ahead ++ [l.sub] } else x

/-- What a promotion of `l` to place `j` makes of a launch. -/
def Launch.promoted (l : Launch) (j : Nat) (x : Launch) : Launch :=
  if (l.letPass x).sub == l.sub then { l.letPass x with level := (l.letPass x).level - 1, joined := j, headSince := none }
  else l.letPass x

/-- R218: a launch at its queue's head for 64 periods moves to the tail of the next more urgent queue, and those behind it
wait for it. -/
theorem State.queuePromotion_promotes {s : State} {l : Launch} {h : Nat} (hl : s.launch l.sub = some l)
    (hn : (s.launches.map Launch.sub).Nodup) (hs : l.headSince = some h) (hd : h + 64 * 4032 ≤ s.gtc)
    (hh : s.isHead l = true) (hlev : 0 < l.level) (hv : s.Serves) (hw : s.cur.work = .queuePromotion l.sub) :
    s.Answers .queuePromotion fun t =>
      (∃ m, t.launch l.sub = some m ∧ m.level = l.level - 1 ∧ m.headSince = none ∧ m.state = l.state ∧
        (∀ x ∈ s.launches, x.joined < m.joined)) ∧
      (∀ x ∈ s.launches, x.tenant = l.tenant → x.level = l.level → l.joined < x.joined → x.state.settled = false →
        ∃ y ∈ t.launches, y.sub = x.sub ∧ y.level = x.level ∧ y.joined = x.joined ∧ l.sub ∈ y.ahead) ∧
      t.parts = s.parts ∧ t.cores = s.cores := by
  have hdue : decide (h + promotePeriods * Config.period ≤ s.gtc) = true := decide_eq_true hd
  let act (t : State) : State := ({ t with launches := s.launches.map l.letPass } : State).modLaunch l.sub
    fun x => { x with level := x.level - 1, joined := s.nextJoin, headSince := none }
  obtain ⟨vs, he, -⟩ := State.stated_serves hv .promotion act
  have ht : execQueuePromotion s = .next (act (s.withSvcs vs)) := by
    simp only [execQueuePromotion, hw, hl, hs, hdue, hh, hlev, decide_true, Bool.and_self, hv.1, Bool.not_false, if_true]
    exact congrArg _ he
  have hls : (act (s.withSvcs vs)).launches = s.launches.map (l.promoted s.nextJoin) := by
    simp only [act, State.modLaunch, List.map_map]
    rfl
  have hsub (x : Launch) : (l.promoted s.nextJoin x).sub = x.sub := by
    unfold Launch.promoted Launch.letPass
    split <;> split <;> rfl
  refine ⟨_, ht, ⟨l.promoted s.nextJoin l, ?_, ?_⟩, ?_, rfl, rfl⟩
  · have : (act (s.withSvcs vs)).launch l.sub = (s.launch l.sub).map (l.promoted s.nextJoin) := by
      rw [← State.launch_map hsub]
      simp only [State.launch, hls]
    rw [this, hl]
    rfl
  · have hself : l.promoted s.nextJoin l = { l with level := l.level - 1, joined := s.nextJoin, headSince := none } := by
      simp [Launch.promoted, Launch.letPass, Launch.behind]
    rw [hself]
    exact ⟨rfl, rfl, rfl, fun x hx => State.lt_nextJoin hx⟩
  · intro x hx htn hlv hj hset
    have hne : x.sub ≠ l.sub := fun e => by
      rw [List.inj_on_of_nodup_map hn hx (State.launch_mem hl) e] at hj
      exact lt_irrefl _ hj
    have hx' : l.promoted s.nextJoin x = { x with ahead := x.ahead ++ [l.sub] } := by
      simp [Launch.promoted, Launch.letPass, Launch.behind, htn, hlv, hj, hset, hne]
    refine ⟨l.promoted s.nextJoin x, by rw [hls]; exact List.mem_map_of_mem hx, ?_⟩
    rw [hx']
    exact ⟨rfl, rfl, rfl, by simp⟩

end Sys2Proof.Machine
end

section
namespace Sys2Proof.Machine

/-! ### Event entries (R398) -/

@[simp] theorem State.postEntry_launches (s : State) (fn : Nat) (w : Word) (r p : Nat) :
    (s.postEntry fn w r p).launches = s.launches := rfl
@[simp] theorem State.postEntry_parts (s : State) (fn : Nat) (w : Word) (r p : Nat) :
    (s.postEntry fn w r p).parts = s.parts := rfl
@[simp] theorem State.postEntry_cores (s : State) (fn : Nat) (w : Word) (r p : Nat) :
    (s.postEntry fn w r p).cores = s.cores := rfl
@[simp] theorem State.postEntry_due (s : State) (fn : Nat) (w : Word) (r p : Nat) :
    (s.postEntry fn w r p).due = s.due := rfl

/-- The entry stands where the function's head pointed. -/
theorem State.postEntry_ring (s : State) (fn : Nat) (w : Word) (r p : Nat) (i : Fin 64) (hi : i.val = fn) :
    ((s.postEntry fn w r p).fns[i].ring[s.fns[i].evhead % 256]?).map Prod.snd =
      some (BitVec.ofNat 32 (r * 2 ^ 24 + p * 2 ^ 8)) := by
  subst hi
  have hm : s.fns[i].evhead % 256 < 256 := Nat.mod_lt _ (by decide)
  simpa [State.postEntry, State.modFn, State.fn, State.reply, Vector.getElem?_setIfInBounds] using hm

/-! ### Submissions (R215, R219, R220) -/

/-- What a serving registrar does with a launch that it refuses. -/
def State.refused (s : State) (l : Launch) (reason : Nat) : State :=
  (s.modLaunch l.sub fun l => { l with state := .refused }).postEntry l.fn (completion 3 0 l.sub) reason 0

@[simp] theorem State.refused_parts (s : State) (l : Launch) (r : Nat) : (s.refused l r).parts = s.parts := by
  simp [State.refused]
@[simp] theorem State.refused_cores (s : State) (l : Launch) (r : Nat) : (s.refused l r).cores = s.cores := by
  simp [State.refused]

theorem State.refuse_serves {s : State} (h : s.Serves) (l : Launch) (reason : Nat) :
    ∃ vs, s.refuse l reason = (s.withSvcs vs).refused l reason ∧ s.Served vs :=
  State.stated_serves h .refusal fun s => s.refused l reason

/-- The choice of the later of two submissions. -/
def Launch.later (best : Option Launch) (x : Launch) : Option Launch := match best with
  | some b => if b.sub < x.sub then some x else some b
  | none => some x

theorem Launch.foldl_later_some (xs : List Launch) (b : Launch) : ∃ m, xs.foldl Launch.later (some b) = some m ∧
    (m = b ∨ m ∈ xs) ∧ b.sub ≤ m.sub ∧ ∀ x ∈ xs, x.sub ≤ m.sub := by
  induction xs generalizing b with
  | nil => exact ⟨b, rfl, .inl rfl, le_rfl, by simp⟩
  | cons y ys ih =>
    by_cases h : b.sub < y.sub
    · obtain ⟨m, he, hm, hy, hx⟩ := ih y
      refine ⟨m, ?_, .inr ?_, by omega, ?_⟩
      · simpa [Launch.later, h] using he
      · rcases hm with rfl | hm <;> simp [*]
      · simpa [hy] using hx
    · obtain ⟨m, he, hm, hy, hx⟩ := ih b
      refine ⟨m, ?_, ?_, hy, ?_⟩
      · simpa [Launch.later, h] using he
      · rcases hm with rfl | hm <;> simp [*]
      · simpa using ⟨by omega, hx⟩

/-- The latest of some submissions, if there is any. -/
theorem Launch.foldl_later (xs : List Launch) : (xs = [] ∧ xs.foldl Launch.later none = none) ∨
    ∃ m, xs.foldl Launch.later none = some m ∧ m ∈ xs ∧ ∀ x ∈ xs, x.sub ≤ m.sub := by
  cases xs with
  | nil => exact .inl ⟨rfl, rfl⟩
  | cons y ys =>
    obtain ⟨m, he, hm, hy, hx⟩ := Launch.foldl_later_some ys y
    refine .inr ⟨m, he, ?_, by simpa [hy] using hx⟩
    rcases hm with rfl | hm <;> simp [*]

/-- An earlier submission of the tenant that bears a name. -/
def State.Named (s : State) (l : Launch) (name : List Byte) (x : Launch) : Prop :=
  x ∈ s.launches ∧ x.tenant = l.tenant ∧ x.sub < l.sub ∧ ∃ z, x.syl = some z ∧ z.name = name

/-- The latest one of those. -/
def State.Met (s : State) (l : Launch) (name : List Byte) (x : Launch) : Prop :=
  s.Named l name x ∧ ∀ x', s.Named l name x' → x'.sub ≤ x.sub

/-- The launches among which a predecessor's name is looked up. -/
def State.namesakes (s : State) (l : Launch) (name : List Byte) : List Launch :=
  s.launches.filter fun x => x.tenant == l.tenant && decide (x.sub < l.sub) && match x.syl with
    | some y => y.name == name
    | none => false

theorem State.resolve_eq (s : State) (l : Launch) (name : List Byte) :
    s.resolve l name = (s.namesakes l name).foldl Launch.later none := rfl

theorem State.mem_namesakes {s : State} {l x : Launch} {name : List Byte} :
    x ∈ s.namesakes l name ↔ s.Named l name x := by
  cases h : x.syl <;> simp [State.namesakes, State.Named, h, and_assoc]

/-- R219: a name resolves to the latest of the submissions that bear it, or to none. -/
theorem State.resolve_none_or_met (s : State) (l : Launch) (name : List Byte) :
    (s.resolve l name = none ∧ ∀ x, ¬ s.Named l name x) ∨ ∃ x, s.resolve l name = some x ∧ s.Met l name x := by
  rw [State.resolve_eq]
  rcases Launch.foldl_later (s.namesakes l name) with ⟨he, hn⟩ | ⟨m, hm, hmem, hmax⟩
  · exact .inl ⟨hn, fun x hx => by simpa [he] using State.mem_namesakes.2 hx⟩
  · exact .inr ⟨m, hm, State.mem_namesakes.1 hmem, fun x hx => hmax x (State.mem_namesakes.2 hx)⟩

theorem State.resolve_of_met {s : State} {l x : Launch} {name : List Byte} (hn : (s.launches.map Launch.sub).Nodup)
    (h : s.Met l name x) : s.resolve l name = some x := by
  rcases s.resolve_none_or_met l name with ⟨-, hno⟩ | ⟨y, hy, hmet⟩
  · exact absurd h.1 (hno x)
  · rw [hy, List.inj_on_of_nodup_map hn hmet.1.1 h.1.1 (le_antisymm (h.2 y hmet.1) (hmet.2 x h.1))]

/-- A map that moves only elements that a filter drops, and keeps dropping, does not show through the filter. -/
theorem filter_map_of_fixed {α : Type} {p : α → Bool} {g : α → α} (xs : List α)
    (h : ∀ x, g x = x ∨ (p x = false ∧ p (g x) = false)) : (xs.map g).filter p = xs.filter p := by
  induction xs with
  | nil => rfl
  | cons x xs ih =>
    rcases h x with hx | ⟨hx, hg⟩
    · simp [List.filter_cons, hx, ih]
    · simp [hx, hg, ih]

/-- A change of the launch itself does not touch its predecessors. -/
theorem State.resolve_modLaunch (s : State) (l : Launch) (f : Launch → Launch) (hf : ∀ x, (f x).sub = x.sub)
    (name : List Byte) : (s.modLaunch l.sub f).resolve l name = s.resolve l name := by
  have h : (s.modLaunch l.sub f).namesakes l name = s.namesakes l name := by
    refine filter_map_of_fixed s.launches fun x => ?_
    by_cases hx : x.sub = l.sub
    · exact .inr ⟨by simp [hx], by simp [hx, hf]⟩
    · exact .inl (by simp [hx])
  rw [State.resolve_eq, State.resolve_eq, h]

/-- A launch as its image gives it. -/
def Launch.read (l : Launch) (bytes : List Byte) : Launch :=
  { l with syl := some (readSyllabus bytes), level := (readSyllabus bytes).level }

/-- A launch that has been checked, its predecessors found. -/
def Launch.queue (l : Launch) (preds : List (Option Launch)) : Launch :=
  { l with state := .queued, preds := preds.filterMap fun p => p.map (·.sub) }

/-- Whether a predecessor keeps a launch from being queued. -/
def lostPred (p : Option Launch) : Bool := (p.map fun x => x.state.lost).getD true

/-- The check of a submission whose image is sound (R215, R219). -/
theorem State.checkSubmission_sound {s : State} {l : Launch} {n : Tenant} {bytes : List Byte}
    (ht : s.tenants.find? (fun t => t.num == l.tenant) = some n) (hb : l.bytes = some bytes)
    (hi : imageOk bytes l.len = true) (hr : refusalReason bytes l.len (n.keys.map (·.1)) (s.tenantTimings n) = none) :
    s.checkSubmission l =
      if ((readSyllabus bytes).preds.map (s.resolve l)).any lostPred then
        (s.modLaunch l.sub fun x => x.read bytes).refuse l 5
      else (s.modLaunch l.sub fun x => x.read bytes).stated .registrar .queued fun t =>
        t.modLaunch l.sub fun x => x.queue ((readSyllabus bytes).preds.map (s.resolve l)) := by
  have hres : (s.modLaunch l.sub fun x => x.read bytes).resolve l = s.resolve l :=
    funext fun name => s.resolve_modLaunch l (fun x => x.read bytes) (fun _ => rfl) name
  rw [← hres]
  unfold State.checkSubmission
  rw [ht, hb]
  simp only [hi, if_true]
  have htm : (s.modLaunch l.sub fun x => { x with
      syl := some (readSyllabus bytes), level := (readSyllabus bytes).level }).tenantTimings n = s.tenantTimings n := rfl
  rw [htm, hr]
  rfl

/-- A submission at the head of its tenant's reading order is judged now (R397). -/
theorem State.submissionCheck_judges {s : State} {l : Launch} (hl : s.launch l.sub = some l) (hst : l.state = .reading)
    (hv : s.Serves) (hfirst : ∀ x ∈ s.launches, x.tenant = l.tenant → x.sub < l.sub → x.state ≠ .reading)
    (hw : s.cur.work = .submissionCheck l.sub) :
    execSubmissionCheck s = .next (if l.malformed then s.refuse l 1 else s.checkSubmission l).orLater := by
  have hno : (s.launches.any fun x => x.tenant == l.tenant && decide (x.sub < l.sub) && x.state == .reading) = false := by
    simpa [and_imp] using hfirst
  simp only [execSubmissionCheck, hw, hl, hst, ne_eq, not_true_eq_false, if_false, hv.1, hno, Bool.false_eq_true]

/-- What becomes of a launch that a serving registrar refuses. -/
theorem State.refused_launch {s : State} {l m : Launch} (h : s.launch l.sub = some m) (reason : Nat) :
    (s.refused l reason).launch l.sub = some { m with state := .refused } :=
  State.launch_modLaunch_self (f := fun l => { l with state := .refused }) (fun _ => rfl) h

/-- R397: a submission whose fields are wrong is refused. -/
theorem State.submissionCheck_malformed {s : State} {l : Launch} (hl : s.launch l.sub = some l) (hst : l.state = .reading)
    (hv : s.Serves) (hfirst : ∀ x ∈ s.launches, x.tenant = l.tenant → x.sub < l.sub → x.state ≠ .reading)
    (hm : l.malformed = true) (hw : s.cur.work = .submissionCheck l.sub) : s.Answers .submissionCheck fun t =>
      t.launch l.sub = some { l with state := .refused } ∧ t.parts = s.parts ∧ t.cores = s.cores := by
  obtain ⟨vs, he, hs⟩ := State.refuse_serves hv l 1
  have hfree : ((s.withSvcs vs).refused l 1).holds 1 = false := hs.free
  have ht : execSubmissionCheck s = .next ((s.withSvcs vs).refused l 1) := by
    rw [State.submissionCheck_judges hl hst hv hfirst hw, if_pos hm, he, State.orLater_serving hfree]
  exact ⟨_, ht, State.refused_launch (s := s.withSvcs vs) hl 1, by simp, by simp⟩

section
variable {s : State} {l : Launch} {n : Tenant} {bytes : List Byte} (hl : s.launch l.sub = some l)
  (hst : l.state = .reading) (hv : s.Serves)
  (hfirst : ∀ x ∈ s.launches, x.tenant = l.tenant → x.sub < l.sub → x.state ≠ .reading)
  (hw : s.cur.work = .submissionCheck l.sub) (hm : l.malformed = false)
  (ht : s.tenants.find? (fun t => t.num == l.tenant) = some n) (hb : l.bytes = some bytes)
  (hi : imageOk bytes l.len = true) (hr : refusalReason bytes l.len (n.keys.map (·.1)) (s.tenantTimings n) = none)
include hl hst hv hfirst hw hm ht hb hi hr

/-- A sound submission none of whose predecessors is lost is queued with its level (R215, R218, R219). -/
theorem State.submissionCheck_queues
    (hp : ((readSyllabus bytes).preds.map (s.resolve l)).any lostPred = false) : s.Answers .submissionCheck fun t =>
      t.launch l.sub = some ((l.read bytes).queue ((readSyllabus bytes).preds.map (s.resolve l))) ∧
      t.parts = s.parts ∧ t.cores = s.cores := by
  let u := s.modLaunch l.sub fun x => x.read bytes
  let act (t : State) : State := t.modLaunch l.sub fun x => x.queue ((readSyllabus bytes).preds.map (s.resolve l))
  obtain ⟨vs, he, hs⟩ := State.stated_serves (s := u) hv .queued act
  have hfree : (act (u.withSvcs vs)).holds 1 = false := hs.free
  have hread : u.launch l.sub = some (l.read bytes) :=
    State.launch_modLaunch_self (f := fun x => x.read bytes) (fun _ => rfl) hl
  have hdone : execSubmissionCheck s = .next (act (u.withSvcs vs)) := by
    rw [State.submissionCheck_judges hl hst hv hfirst hw, hm, State.checkSubmission_sound ht hb hi hr, hp, if_neg (by decide),
      if_neg (by decide), he, State.orLater_serving hfree]
  exact ⟨_, hdone, State.launch_modLaunch_self (s := u.withSvcs vs) (fun _ => rfl) hread, by simp [act, u], by simp [act, u]⟩

/-- One that has lost a predecessor is refused for reason 5 (R219, R398). -/
theorem State.submissionCheck_loses
    (hp : ((readSyllabus bytes).preds.map (s.resolve l)).any lostPred = true) : s.Answers .submissionCheck fun t =>
      t.launch l.sub = some { l.read bytes with state := .refused } ∧ t.parts = s.parts ∧
      ∀ i : Fin 64, i.val = l.fn →
        (t.fns[i].ring[s.fns[i].evhead % 256]?).map Prod.snd = some (BitVec.ofNat 32 (5 * 2 ^ 24)) := by
  let u := s.modLaunch l.sub fun x => x.read bytes
  obtain ⟨vs, he, hs⟩ := State.refuse_serves (s := u) hv l 5
  have hread : u.launch l.sub = some (l.read bytes) :=
    State.launch_modLaunch_self (f := fun x => x.read bytes) (fun _ => rfl) hl
  have hfree : ((u.withSvcs vs).refused l 5).holds 1 = false := hs.free
  have hdone : execSubmissionCheck s = .next ((u.withSvcs vs).refused l 5) := by
    rw [State.submissionCheck_judges hl hst hv hfirst hw, hm, State.checkSubmission_sound ht hb hi hr, hp, if_neg (by decide),
      if_pos rfl, he, State.orLater_serving hfree]
  refine ⟨_, hdone, State.refused_launch (s := u.withSvcs vs) hread 5, by simp [u], fun i hfn => ?_⟩
  exact State.postEntry_ring ((u.withSvcs vs).modLaunch l.sub fun l => { l with state := .refused }) l.fn _ 5 0 i hfn

end

/-- R219: every predecessor has been found, and none has failed or been refused. -/
theorem State.preds_found {s : State} {l : Launch} (hn : (s.launches.map Launch.sub).Nodup) (names : List (List Byte))
    (h : ∀ name ∈ names, ∃ x, s.Met l name x ∧ x.state.lost = false) :
    (names.map (s.resolve l)).any lostPred = false ∧
      ((names.map (s.resolve l)).filterMap fun p => p.map (·.sub)).length = names.length ∧
      ∀ (i : Nat) name x, names[i]? = some name → s.Met l name x →
        ((names.map (s.resolve l)).filterMap fun p => p.map (·.sub))[i]? = some x.sub := by
  have hlist : ((names.map (s.resolve l)).filterMap fun p => p.map (·.sub)) =
      names.map fun name => ((s.resolve l name).map (·.sub)).getD 0 := by
    rw [List.filterMap_map, ← List.filterMap_eq_map]
    refine List.filterMap_congr fun name hname => ?_
    obtain ⟨x, hx, -⟩ := h name hname
    simp [State.resolve_of_met hn hx]
  refine ⟨?_, by simp [hlist], fun i name x hname hx => ?_⟩
  · rw [List.any_map, List.any_eq_false]
    intro name hname
    obtain ⟨x, hx, hlost⟩ := h name hname
    simp [State.resolve_of_met hn hx, lostPred, hlost]
  · simp [hlist, hname, State.resolve_of_met hn hx]

/-- R219: a predecessor that no earlier submission bears, or that has failed or been refused. -/
theorem State.preds_lost {s : State} {l : Launch} {names : List (List Byte)}
    (h : ∃ name ∈ names, ∀ x, s.Met l name x → x.state.lost = true) :
    (names.map (s.resolve l)).any lostPred = true := by
  obtain ⟨name, hname, hlost⟩ := h
  rw [List.any_map, List.any_eq_true]
  refine ⟨name, hname, ?_⟩
  rcases s.resolve_none_or_met l name with ⟨hno, -⟩ | ⟨x, hx, hmet⟩
  · simp [hno, lostPred]
  · simp [hx, lostPred, hlost x hmet]

/-! ### The head of a queue (R218, R220) -/

/-- When a head may be admitted. -/
theorem State.isReady_iff (s : State) (l : Launch) : s.isReady l = true ↔ l.state = .queued ∧ l.joined ≠ 0 ∧
    (∀ x ∈ s.launches, x.tenant = l.tenant → x.level = l.level → x.joined ≠ 0 → x.joined < l.joined →
      x.state.settled = true) ∧
    (∀ k ∈ l.ahead, ∀ x, s.launch k = some x → x.state.settled = true) ∧
    ∀ k ∈ l.preds, ∃ x, s.launch k = some x ∧ x.state = .retired := by
  have hhead : s.isHead l = true ↔ l.state = .queued ∧ l.joined ≠ 0 ∧ ∀ x ∈ s.launches, x.tenant = l.tenant →
      x.level = l.level → x.joined ≠ 0 → x.joined < l.joined → x.state.settled = true := by
    simp only [State.isHead, Bool.and_eq_true, beq_iff_eq, bne_iff_ne, ne_eq, List.all_eq_true, Bool.or_eq_true,
      Bool.not_eq_true', and_assoc]
    refine and_congr_right fun _ => and_congr_right fun _ => forall₂_congr fun x _ => ?_
    by_cases h : x.state.settled = true <;> simp [h]
  have hahead : (l.ahead.all fun k => ((s.launch k).map fun x => x.state.settled).getD true) = true ↔
      ∀ k ∈ l.ahead, ∀ x, s.launch k = some x → x.state.settled = true := by
    rw [List.all_eq_true]
    refine forall₂_congr fun k _ => ?_
    cases s.launch k <;> simp
  have hpreds : (l.preds.all fun k => ((s.launch k).map fun x => x.state == .retired).getD false) = true ↔
      ∀ k ∈ l.preds, ∃ x, s.launch k = some x ∧ x.state = .retired := by
    rw [List.all_eq_true]
    refine forall₂_congr fun k _ => ?_
    cases s.launch k <;> simp
  simp only [State.isReady, Bool.and_eq_true, hhead, hahead, hpreds, and_assoc]

/-! ### The lowest variant that fits (R220) -/

theorem State.fitting_eq {s : State} {a : Avail} {l : Launch} {y : Syllabus} (hy : l.syl = some y) :
    s.fitting a l = y.variants.find? fun v => s.fits a l v.2 := by
  simp [State.fitting, State.fittingIf, hy]

theorem State.fitting_none_iff {s : State} {a : Avail} {l : Launch} {y : Syllabus} (hy : l.syl = some y) :
    s.fitting a l = none ↔ ∀ x ∈ y.variants, s.fits a l x.2 = false := by
  simp [State.fitting_eq hy]

/-- The first of a list whose numbers rise is the one of the lowest number. -/
theorem State.fitting_some_iff {s : State} {a : Avail} {l : Launch} {y : Syllabus} (hy : l.syl = some y)
    (hsorted : y.variants.Pairwise fun u v => u.1 < v.1) (vn : Nat) (v : Variant) :
    s.fitting a l = some (vn, v) ↔ (vn, v) ∈ y.variants ∧ s.fits a l v = true ∧
      ∀ x ∈ y.variants, x.1 < vn → s.fits a l x.2 = false := by
  rw [State.fitting_eq hy, List.find?_eq_some_iff_append]
  constructor
  · rintro ⟨hfit, before, after, hlist, hno⟩
    rw [hlist] at hsorted ⊢
    obtain ⟨-, hafter, -⟩ := List.pairwise_append.1 hsorted
    refine ⟨by simp, hfit, fun x hx hlt => ?_⟩
    rcases List.mem_append.1 hx with hx | hx
    · simpa using hno x hx
    · rcases List.mem_cons.1 hx with rfl | hx
      · exact absurd hlt (lt_irrefl _)
      · exact absurd (List.rel_of_pairwise_cons hafter hx) (Nat.lt_asymm hlt)
  · rintro ⟨hmem, hfit, hno⟩
    obtain ⟨before, after, hlist⟩ := List.append_of_mem hmem
    refine ⟨hfit, before, after, hlist, fun x hx => ?_⟩
    rw [hlist] at hsorted hno
    obtain ⟨-, -, hcross⟩ := List.pairwise_append.1 hsorted
    simpa using hno x (List.mem_append_left _ hx) (hcross x hx _ List.mem_cons_self)

end Sys2Proof.Machine
end

section
namespace Sys2Proof.Machine

/-! ### Signs of life (R200, R350) -/

/-- An instruction of a bundle has its effect, or its core takes a fault. -/
theorem State.issue_cases (s : State) (i : Instr) (effect : State → State) :
    s.issue i effect = effect s ∨ ∃ code d, s.issue i effect = s.raise code d := by
  unfold State.issue
  cases lowest (s.issueConds s.me s.t s.cur.slot s.myCtx (s.myCtx.word s.cur.slot) i) with
  | none => exact .inl rfl
  | some c => exact .inr ⟨c.1, c.2, rfl⟩

/-- A fault that an instruction takes at its issue changes no sign of life. -/
theorem State.issue_id_sign {s : State} {i : Instr} {p : Nat} {q : Part} (h : s.part p = some q) :
    ∃ r, (s.issue i id).part p = some r ∧ r.sign = q.sign := by
  rcases s.issue_cases i id with he | ⟨code, d, he⟩
  · exact ⟨q, by rw [he]; exact h, rfl⟩
  · let g (r : Part) : Part := { r with faultsNow := r.faultsNow ++ [{
      code := code, rank := s.rankOf s.me, src := s.cur.who.src, bundle := s.cur.who.bundle, issue := some s.t,
      detail := d, blame := none }] }
    have hg : (s.raise code d).part p = (s.part p).map fun r => if r.num == s.partOf s.me then g r else r :=
      State.part_modPart fun _ => rfl
    rw [he, hg, h]
    refine ⟨_, rfl, ?_⟩
    show (if q.num == s.partOf s.me then g q else q).sign = q.sign
    split <;> rfl

theorem State.signOfLife_part {s : State} {q : Part} (h : s.part (s.partOf s.me) = some q) :
    s.signOfLife.part (s.partOf s.me) = some { q with sign := s.t + 1 } :=
  State.part_modPart_self (f := fun q => { q with sign := s.t + 1 }) (fun _ => rfl) h

/-- R350: TCHK is a sign of life when it is not squashed. -/
theorem State.tchk_sign {s : State} {q : Part} (h : s.part (s.partOf s.me) = some q) (f : SR) :
    (s.Takes f.g f.neg → s.Answers (.tchk f) fun t => ∃ r, t.part q.num = some r ∧ r.sign = s.t + 1) ∧
      (¬ s.Takes f.g f.neg → s.Answers (.tchk f) fun t => ∃ r, t.part q.num = some r ∧ r.sign = q.sign) := by
  rw [State.takes_iff, State.part_num h]
  constructor <;> intro hg
  · have he : execTchk f s = .next (s.signOfLife.issue (.tchk f) id) := by
      simp only [execTchk, hg, if_true]
    exact ⟨_, he, State.issue_id_sign (State.signOfLife_part h)⟩
  · have he : execTchk f s = .next (s.issue (.tchk f) id) := by
      simp only [execTchk, hg, Bool.false_eq_true, if_false]
    exact ⟨_, he, State.issue_id_sign h⟩

@[simp] theorem State.drainNow_parts (s : State) : s.drainNow.parts = s.parts := by
  unfold State.drainNow; split <;> rfl
@[simp] theorem State.drainNow_cur (s : State) : s.drainNow.cur = s.cur := by
  unfold State.drainNow; split <;> rfl

/-- A drain changes no context. -/
theorem State.drainNow_ctx (s : State) (k : Nat) : s.drainNow.ctx k = s.ctx k := by
  unfold State.drainNow
  split
  · simp only [State.ctx, State.core, State.sched_cores]
    refine State.core_modCore_field (s := s) (c := s.me) Core.ctx ?_ k
    exact fun _ => rfl
  · rfl

/-- The context of a core that issues END (R82). -/
def Ctx.endNow (x : Ctx) : Ctx :=
  { x with life := .ended,
           seq := { x.seq with next := .stop, nextLevels := [], levels := [], xfer := none, jump := false, delay := 0 } }

/-- R350: END is a sign of life. -/
theorem State.endI_sign {s : State} {q : Part} (h : s.part (s.partOf s.me) = some q) (f : SY) (hc : s.Clear (.endI f)) :
    s.Answers (.endI f) fun t => ∃ r, t.part q.num = some r ∧ r.sign = s.t + 1 := by
  let u : State := ((s.dropIssue s.me).modCtx s.me Ctx.endNow).drainNow
  have he : execEndI f s = .next (s.issue (.endI f) fun s =>
      (((((s.dropIssue s.me).modCtx s.me Ctx.endNow).drainNow).signOfLife.sched s.t [12, s.me] (.twaitEnd s.me)).sched s.t [99]
        (.launchRetirement (s.partOf s.me)))) := rfl
  refine State.answers_issue he hc ⟨{ q with sign := s.t + 1 }, ?_, rfl⟩
  have hme : u.me = s.me := by simp [u, State.me]
  have hp : u.partOf s.me = s.partOf s.me := by
    simp only [u, State.partOf, State.drainNow_ctx]
    exact State.ctx_modCtx_field (s := s.dropIssue s.me) Ctx.part (fun x => by simp [Ctx.part, Ctx.endNow]) s.me
  have hu : u.part (u.partOf u.me) = some q := by
    rw [hme, hp, ← h]
    simp [State.part, u]
  have hs := State.signOfLife_part hu
  rw [show u.t = s.t by simp [u, State.t], ← State.part_num hu] at hs
  exact hs

/-! ### Retirement (R221) -/

/-- Every core of a running partition has ended, and nothing stands in the way of its retirement but its engines. -/
structure State.Ended (s : State) (q : Part) : Prop where
  part : s.part q.num = some q
  running : q.status = .running
  quiet : q.faultsNow = []
  alone : q.joining = false
  cores : ∀ c ∈ q.cores, (s.ctx c).life = .ended

theorem State.Ended.passes {s : State} {q : Part} (h : s.Ended q) :
    ¬ (q.status ≠ .running ∨ ¬ q.faultsNow.isEmpty = true ∨ q.joining = true ∨
      ¬ (q.cores.all (fun c => (s.ctx c).life == .ended)) = true) := by
  have := h.cores
  simpa [h.running, h.quiet, h.alone] using this

/-- The completion word of a retirement, as a number. -/
theorem completion_toNat (var sub : Nat) :
    (completion 1 var sub).toNat = 2 ^ 28 + var % 4 * 2 ^ 26 + sub % 2 ^ 16 := by
  simp only [completion, BitVec.toNat_ofNat, one_mul]
  exact Nat.mod_eq_of_lt (by omega)

/-- A partition that retires at a cycle, with its completion word. -/
def Part.retire (q : Part) (t : Nat) : Part :=
  { q with status := .retired, retiredAt := some t, pigLive := q.pigLive.setIfInBounds 126 (completion 1 q.variant q.sub) }

theorem State.launchRetirement_retires {s : State} {q : Part} (h : s.Ended q) (hu : s.unperformed q = [])
    (hv : s.holds 1 = false) (hw : s.cur.work = .launchRetirement q.num) :
    s.Answers .launchRetirement fun t => t.part q.num = some (q.retire (q.ttc s.gtc)) ∧ t.cores = s.cores ∧
      t.dram = s.dram := by
  let retired (x : Part) : Part := { x with status := .retired, retiredAt := some (q.ttc s.gtc) }
  let posted (x : Part) : Part := { x with pigLive := x.pigLive.setIfInBounds 126 (completion 1 x.variant x.sub) }
  let u : State := s.dropDue fun x => x.what == .memorySlot q.num
  have hne : q.status ≠ .retired := by simp [h.running]
  have hfree : (u.modPart q.num retired).holds 1 = false := hv
  have ht : execLaunchRetirement s = .next ((u.modPart q.num retired).modPart q.num posted) := by
    simp only [execLaunchRetirement, hw, h.part, if_neg hne, if_neg h.passes, hu]
    exact congrArg _ (if_neg (by rw [hfree]; decide))
  refine ⟨_, ht, ?_, by simp [u], by simp [u]⟩
  have h1 : (u.modPart q.num retired).part q.num = some (retired q) := State.part_modPart_self (fun _ => rfl) h.part
  exact State.part_modPart_self (f := posted) (fun _ => rfl) h1

theorem foldl_min_mem (xs : List Nat) (d : Nat) : xs.foldl min d = d ∨ xs.foldl min d ∈ xs := by
  induction xs generalizing d with
  | nil => exact .inl rfl
  | cons x xs ih =>
    rw [List.foldl_cons]
    rcases ih (min d x) with h | h
    · rw [h]
      rcases min_choice d x with hm | hm
      · exact .inl hm
      · exact .inr (by simp [hm])
    · exact .inr (List.mem_cons_of_mem _ h)

/-- While engine operations have not performed, retirement waits for the first of them. -/
theorem State.launchRetirement_waits {s : State} {q : Part} (h : s.Ended q) (hu : s.unperformed q ≠ [])
    (hd : ∀ x ∈ s.due, x.what ≠ .launchRetirement q.num) (hw : s.cur.work = .launchRetirement q.num) :
    s.Answers .launchRetirement fun t => s.Same t ∧ ∃ d, q.ttc s.gtc < d ∧
      (d = q.ttc s.gtc + 1 ∨ d ∈ s.unperformed q) ∧ t.Later (some q.num) d (.launchRetirement q.num) := by
  obtain ⟨d, ds, hds⟩ := List.exists_cons_of_ne_nil hu
  have hne : q.status ≠ .retired := by simp [h.running]
  have hno : (s.due.any fun x => x.what == .launchRetirement q.num) = false := by simpa using hd
  have ht : execLaunchRetirement s =
      .next (s.schedOn q.num (max (ds.foldl min d) (q.ttc s.gtc + 1)) [99] (.launchRetirement q.num)) := by
    simp only [execLaunchRetirement, hw, h.part, if_neg hne, if_neg h.passes, hds, hno, Bool.false_eq_true, if_false]
  refine ⟨_, ht, ⟨rfl, rfl, rfl, rfl, rfl, rfl⟩, max (ds.foldl min d) (q.ttc s.gtc + 1), by omega, ?_, ?_⟩
  · rcases max_choice (ds.foldl min d) (q.ttc s.gtc + 1) with hm | hm
    · right
      rw [hm, hds]
      rcases foldl_min_mem ds d with he | he
      · simp [he]
      · exact List.mem_cons_of_mem _ he
    · exact .inl hm
  · exact ⟨_, List.mem_append_right _ (List.mem_singleton.2 rfl), rfl, rfl, rfl⟩

/-! ### What is pending only grows -/

theorem State.Later.mono {s t : State} (h : ∀ x ∈ s.due, x ∈ t.due) {c : Option Nat} {d : Nat} {w : Work}
    (hl : s.Later c d w) : t.Later c d w := by
  obtain ⟨x, hx, hw⟩ := hl
  exact ⟨x, h x hx, hw⟩

theorem State.later_schedG (s : State) (d : Nat) (key : List Nat) (w : Work) : (s.schedG d key w).Later none d w :=
  ⟨_, List.mem_append_right _ (List.mem_singleton.2 rfl), rfl, rfl, rfl⟩

/-- A field that every step of a fold keeps. -/
theorem foldl_keeps {α β : Type} {f : State → α → State} (p : State → β) (hf : ∀ s x, p (f s x) = p s) (xs : List α)
    (s : State) : p (xs.foldl f s) = p s := by
  induction xs generalizing s with
  | nil => rfl
  | cons x xs ih => rw [List.foldl_cons, ih, hf]

/-! ### A start (R24, R220, R338) -/

@[simp] theorem State.relive_parts (s : State) (q : Part) (a b : Life) : (s.relive q a b).parts = s.parts :=
  foldl_keeps State.parts (by intros; rfl) _ _
@[simp] theorem State.relive_gtc (s : State) (q : Part) (a b : Life) : (s.relive q a b).gtc = s.gtc :=
  foldl_keeps State.gtc (by intros; rfl) _ _

/-- A partition that enters recess: its TTC is frozen, its roll call open (R338). -/
def Part.inRecess (q : Part) (gtc : Nat) (cause : Cause) (primary : Option Nat) : Part :=
  { q with status := .recessed, recess := some { e := q.ttc gtc, gtcE := gtc, cause := cause, primary := primary,
                                                 rolled := false, unread := [] } }

theorem State.enterRecess_part {s : State} {p : Nat} {q : Part} (h : s.part p = some q) (cause : Cause)
    (primary : Option Nat) :
    (s.enterRecess p cause primary).part p = some (q.inRecess s.gtc cause primary) := by
  unfold State.enterRecess
  rw [h]
  simp only [State.part, State.schedG_parts, State.relive_parts]
  exact State.part_modPart_self (s := s) (f := fun x => { x with
    status := .recessed, recess := some { e := q.ttc s.gtc, gtcE := s.gtc, cause := cause, primary := primary,
                                          rolled := false, unread := [] } }) (fun _ => rfl) h

/-- One change of each of some different cores. -/
theorem State.core_foldl_modCore {cs : List Nat} (hn : cs.Nodup) (hlt : ∀ c ∈ cs, c < 384) (f : Core → Core) (s : State)
    (k : Nat) : (cs.foldl (fun s c => s.modCore c f) s).core k = if k ∈ cs then f (s.core k) else s.core k := by
  induction cs generalizing s with
  | nil => rfl
  | cons c cs ih =>
    obtain ⟨hc, hn⟩ := List.nodup_cons.1 hn
    obtain ⟨hc384, hlt⟩ := List.forall_mem_cons.1 hlt
    rw [List.foldl_cons, ih hn hlt]
    by_cases hk : k = c
    · subst hk
      simp [hc, State.core_modCore_self hc384]
    · simp [hk, State.core_modCore_ne hk]

/-- The first bundles of the cores that run: they stand among the pending steps, which keep what they held. -/
theorem State.foldl_issueAt (cs : List Nat) (s : State) :
    let t := cs.foldl (fun s c => if (s.ctx c).life = .running then s.issueAt c 0 else s) s
    t.cores = s.cores ∧ (∀ x ∈ s.due, x ∈ t.due) ∧
      ∀ c ∈ cs, (s.ctx c).life = .running → t.Later (some (s.partOf c)) 0 (.bundleIssue c) := by
  induction cs generalizing s with
  | nil => exact ⟨rfl, fun _ h => h, by simp⟩
  | cons c cs ih =>
    let u := if (s.ctx c).life = .running then s.issueAt c 0 else s
    have hc : u.cores = s.cores := by simp only [u]; split <;> rfl
    have hctx (k : Nat) : u.ctx k = s.ctx k := by simp [State.ctx, State.core, hc]
    have hd : ∀ x ∈ s.due, x ∈ u.due := by
      intro x hx
      simp only [u]
      split
      · exact List.mem_append_left _ hx
      · exact hx
    obtain ⟨h1, h2, h3⟩ := ih u
    refine ⟨h1.trans hc, fun x hx => h2 x (hd x hx), fun k hk hrun => ?_⟩
    rcases List.mem_cons.1 hk with rfl | hk
    · refine State.Later.mono h2 ?_
      simp only [u, hrun, if_true]
      exact ⟨_, List.mem_append_right _ (List.mem_singleton.2 rfl), rfl, rfl, rfl⟩
    · have := h3 k hk (by rw [hctx]; exact hrun)
      rw [State.partOf, hctx] at this
      exact this

@[simp] theorem State.postAdmission_parts (s : State) (q : Part) : (s.postAdmission q).parts = s.parts := by
  unfold State.postAdmission; split <;> rfl
@[simp] theorem State.postAdmission_cores (s : State) (q : Part) : (s.postAdmission q).cores = s.cores := by
  unfold State.postAdmission; split <;> rfl
@[simp] theorem State.postAdmission_due (s : State) (q : Part) : (s.postAdmission q).due = s.due := by
  unfold State.postAdmission; split <;> rfl
@[simp] theorem State.postAdmission_gtc (s : State) (q : Part) : (s.postAdmission q).gtc = s.gtc := by
  unfold State.postAdmission; split <;> rfl
@[simp] theorem State.postAdmission_duty (s : State) (q : Part) : (s.postAdmission q).duty = s.duty := by
  unfold State.postAdmission; split <;> rfl

@[simp] theorem State.pairAt_parts (s : State) (p c : Nat) : (s.pairAt p c).parts = s.parts := by
  unfold State.pairAt; split <;> rfl
@[simp] theorem State.pairAt_cores (s : State) (p c : Nat) : (s.pairAt p c).cores = s.cores := by
  unfold State.pairAt; split <;> rfl
@[simp] theorem State.pairAt_gtc (s : State) (p c : Nat) : (s.pairAt p c).gtc = s.gtc := by
  unfold State.pairAt; split <;> rfl
@[simp] theorem State.pairAt_duty (s : State) (p c : Nat) : (s.pairAt p c).duty = s.duty := by
  unfold State.pairAt; split <;> rfl
theorem State.pairAt_due {s : State} {x : Timed} (p c : Nat) (h : x ∈ s.due) : x ∈ (s.pairAt p c).due := by
  unfold State.pairAt
  split
  · exact h
  · exact List.mem_append_left _ h

/-- A partition as it stands at TTC 0. -/
def Part.begun (q : Part) (gtc : Nat) (slots : List StageSlot) : Part :=
  { q with status := .running, base := gtc, ahead := 0, line := 0, dupPig := (q.pigLive.toList.drop 64).take 62,
           dupSlots := slots }

/-- The machine once a partition has begun, before the bell's duty is looked at. -/
def State.begun (s : State) (q : Part) : State :=
  let s := q.cores.foldl (fun s c => s.modCore c Core.start) s
  let now := s.gtc
  let s := s.modPart q.num fun q => q.begun now (s.slotsOf q)
  let s := q.cores.foldl (fun s c => if (s.ctx c).life = .running then s.issueAt c 0 else s) s
  let s := if q.timelines.isEmpty then s else s.pairAt q.num 0
  (s.postAdmission q).schedOn q.num 0 [99] (.launchRetirement q.num)

/-- What a start leaves: the partition at TTC 0, its cores with their duplicates, their first bundles pending. -/
structure State.Begun (s t : State) (q : Part) : Prop where
  part : ∃ slots, t.part q.num = some (q.begun s.gtc slots)
  core : ∀ c ∈ q.cores, t.core c = (s.core c).start
  others : ∀ c, c ∉ q.cores → t.core c = s.core c
  bundles : ∀ c ∈ q.cores, ((s.core c).start.ctx).life = .running → t.Later (some q.num) 0 (.bundleIssue c)
  gtc : t.gtc = s.gtc
  duty : t.duty = s.duty

theorem State.begun_spec {s : State} {q : Part} (hq : s.part q.num = some q) (hn : q.cores.Nodup)
    (hc : ∀ c ∈ q.cores, c < 384 ∧ s.partOf c = q.num) : s.Begun (s.begun q) q := by
  let s1 := q.cores.foldl (fun s c => s.modCore c Core.start) s
  let s2 := s1.modPart q.num fun x => x.begun s1.gtc (s1.slotsOf x)
  let s3 := q.cores.foldl (fun s c => if (s.ctx c).life = .running then s.issueAt c 0 else s) s2
  let s4 := if q.timelines.isEmpty then s3 else s3.pairAt q.num 0
  have ht : s.begun q = (s4.postAdmission q).schedOn q.num 0 [99] (.launchRetirement q.num) := rfl
  have hg1 : s1.gtc = s.gtc := foldl_keeps State.gtc (by intros; rfl) _ _
  have hp1 : s1.parts = s.parts := foldl_keeps State.parts (by intros; rfl) _ _
  have hd1 : s1.duty = s.duty := foldl_keeps State.duty (by intros; rfl) _ _
  have hp3 : s3.parts = s2.parts := foldl_keeps State.parts (fun _ _ => by split <;> rfl) _ _
  have hg3 : s3.gtc = s2.gtc := foldl_keeps State.gtc (fun _ _ => by split <;> rfl) _ _
  have hd3 : s3.duty = s2.duty := foldl_keeps State.duty (fun _ _ => by split <;> rfl) _ _
  have hp4 : s4.parts = s3.parts := by simp only [s4]; split <;> simp
  have hc4 : s4.cores = s3.cores := by simp only [s4]; split <;> simp
  have hg4 : s4.gtc = s3.gtc := by simp only [s4]; split <;> simp
  have hd4 : s4.duty = s3.duty := by simp only [s4]; split <;> simp
  obtain ⟨hc3, -, hb3⟩ := State.foldl_issueAt q.cores s2
  have hcore (k : Nat) : (s.begun q).core k = s1.core k := by
    have : (s.begun q).cores = s1.cores := by
      rw [ht, State.schedOn_cores, State.postAdmission_cores, hc4, hc3]
      rfl
    simp [State.core, this]
  have hstart (k : Nat) : s1.core k = if k ∈ q.cores then (s.core k).start else s.core k :=
    State.core_foldl_modCore hn (fun c h => (hc c h).1) Core.start s k
  have hq1 : s1.part q.num = some q := by rw [State.part, hp1]; exact hq
  refine ⟨⟨s1.slotsOf q, ?_⟩, fun c h => by rw [hcore, hstart, if_pos h], fun c h => by rw [hcore, hstart, if_neg h],
    fun c h hrun => ?_, ?_, ?_⟩
  · have h2 : s2.part q.num = some (q.begun s1.gtc (s1.slotsOf q)) :=
      State.part_modPart_self (f := fun x => x.begun s1.gtc (s1.slotsOf x)) (fun _ => rfl) hq1
    rw [hg1] at h2
    rw [← h2, ht]
    simp only [State.part, State.schedOn_parts, State.postAdmission_parts, hp4, hp3]
  · have hctx : s2.ctx c = (s.core c).start.ctx := by
      show (s1.core c).ctx = _
      rw [hstart, if_pos h]
    have hpart : s2.partOf c = q.num := by
      rw [State.partOf, hctx]
      exact (hc c h).2
    have hl := hb3 c h (by rw [hctx]; exact hrun)
    rw [hpart] at hl
    refine State.Later.mono (fun x hx => ?_) hl
    rw [ht]
    refine List.mem_append_left _ ?_
    rw [State.postAdmission_due]
    simp only [s4]
    split
    · exact hx
    · exact State.pairAt_due _ _ hx
  · rw [ht, State.schedOn_gtc, State.postAdmission_gtc, hg4, hg3]
    exact hg1
  · rw [ht, State.schedOn_duty, State.postAdmission_duty, hd4, hd3]
    exact hd1

/-- A loaded partition, at its start bell. -/
structure State.Starts (s : State) (q : Part) : Prop where
  part : s.part q.num = some q
  loaded : q.status = .loaded
  awake : q.recess = none
  distinct : q.cores.Nodup
  cores : ∀ c ∈ q.cores, c < 384 ∧ s.partOf c = q.num

theorem State.usePending_iff (s : State) (u : OpenUse) : s.usePending u = true ↔ ∃ a ∈ s.openUnits, a.use = u := by
  simp [State.usePending]

/-- R220: while an image is not in place the start bell is the next one. -/
theorem State.partitionStart_waits {s : State} {q : Part} (h : s.Starts q) (hg : q.group = none)
    (hu : ∃ a ∈ s.openUnits, a.use = .place q.num) (hw : s.cur.work = .partitionStart q.num) :
    s.Answers .partitionStart fun t =>
      t.part q.num = some { q with startBell := s.gtc + 4032, base := s.gtc + 4032 } ∧ t.cores = s.cores ∧
      t.dram = s.dram ∧ t.Later none (s.gtc + 4032) (.partitionStart q.num) := by
  have hun : s.unplaced q = true := by
    simp [State.unplaced, hg, (State.usePending_iff s _).2 hu]
  have ht : execPartitionStart s = .next ((s.modPart q.num fun q =>
      { q with startBell := s.gtc + Config.period, base := s.gtc + Config.period }).schedG (s.gtc + Config.period)
        [0, 3, q.num] (.partitionStart q.num)) := by
    simp only [execPartitionStart, hw, h.part, h.loaded, ne_eq, not_true_eq_false, if_false, hun, if_true]
  exact ⟨_, ht, State.part_modPart_self (fun _ => rfl) h.part, by simp, by simp, State.later_schedG ..⟩

/-- A partition whose images are in place begins, and looks at its duty. -/
theorem State.partitionStart_begins {s : State} {q : Part} (h : s.Starts q)
    (hu : q.group ≠ none ∨ ∀ a ∈ s.openUnits, a.use ≠ .place q.num) (hw : s.cur.work = .partitionStart q.num) :
    ∃ slots, (s.begun q).part q.num = some (q.begun s.gtc slots) ∧
      execPartitionStart s = .next (State.bellEntry [] (s.begun q) (q.begun s.gtc slots)) := by
  obtain ⟨slots, hslots⟩ := (State.begun_spec h.part h.distinct h.cores).part
  have hun : s.unplaced q = false := by
    have hnone (hno : ∀ a ∈ s.openUnits, a.use ≠ .place q.num) : s.usePending (.place q.num) = false := by
      rw [Bool.eq_false_iff, ne_eq, State.usePending_iff]
      exact fun ⟨a, ha, hm⟩ => hno a ha hm
    rcases hu with hg | hno
    · simp [State.unplaced, Option.isNone_eq_false_iff.2 (Option.isSome_iff_ne_none.2 hg)]
    · simp [State.unplaced, hnone hno]
  refine ⟨slots, hslots, ?_⟩
  simp only [execPartitionStart, hw, h.part, h.loaded, ne_eq, not_true_eq_false, if_false, hun, Bool.false_eq_true]
  have hb : (s.begun q).part q.num = some (q.begun s.gtc slots) := hslots
  unfold State.begun at hb ⊢
  simp only [Part.begun] at hb ⊢
  rw [hb]

/-- Duty looks at the period and at what a partition occupies. -/
theorem State.onDuty_begun {s t : State} {q : Part} (hg : t.gtc = s.gtc) (hd : t.duty = s.duty) (g : Nat)
    (slots : List StageSlot) : t.onDuty (q.begun g slots) = s.onDuty q := by
  have hown (first : Nat) : t.ownDuty (q.begun g slots) first = s.ownDuty q first := by
    unfold State.ownDuty
    rw [hd]
    rfl
  have hper : t.dutyPeriods (q.begun g slots) = s.dutyPeriods q := by
    simp only [State.dutyPeriods, hg, hown]
    rfl
  rw [State.onDuty, State.onDuty, hg, hper]

/-- A bell without an order is one of duty. -/
theorem State.bellEntry_unordered (s : State) (q : Part) : State.bellEntry [] s q =
    if q.status = .running ∧ q.recess.isNone ∧ s.onDuty q = true then
      (s.modPart q.num fun x => x).enterRecess q.num .thermal none
    else s := by
  simp [State.bellEntry]

theorem State.modPart_id (s : State) (p : Nat) : s.modPart p (fun x => x) = s := by
  simp [State.modPart]

/-- R405: under thermal duty a partition enters recess at its start. -/
theorem State.partitionStart_onDuty {s : State} {q : Part} (h : s.Starts q)
    (hu : q.group ≠ none ∨ ∀ a ∈ s.openUnits, a.use ≠ .place q.num) (hw : s.cur.work = .partitionStart q.num)
    (hduty : s.onDuty q = true) : s.Answers .partitionStart fun t =>
      ∃ r, t.part q.num = some r ∧ r.status = .recessed ∧ r.recess =
        some { e := 0, gtcE := s.gtc, cause := .thermal, primary := none, rolled := false, unread := [] } := by
  obtain ⟨slots, hpart, ht⟩ := State.partitionStart_begins h hu hw
  have hb := State.begun_spec h.part h.distinct h.cores
  have hrun : (q.begun s.gtc slots).status = .running ∧ (q.begun s.gtc slots).recess.isNone ∧
      (s.begun q).onDuty (q.begun s.gtc slots) = true :=
    ⟨rfl, by rw [show (q.begun s.gtc slots).recess = q.recess from rfl, h.awake]; rfl,
      by rw [State.onDuty_begun hb.gtc hb.duty, hduty]⟩
  rw [State.bellEntry_unordered, if_pos hrun, State.modPart_id] at ht
  refine ⟨_, ht, _, State.enterRecess_part hpart .thermal none, rfl, ?_⟩
  have hzero : (q.begun s.gtc slots).ttc (s.begun q).gtc = 0 := by
    simp [Part.ttc, Part.begun, h.awake, hb.gtc]
  rw [Part.inRecess, hzero, hb.gtc]

/-- R24: at its start every core of a partition begins at TTC 0 with its duplicate, or is ended without a head segment. -/
theorem State.partitionStart_runs {s : State} {q : Part} (h : s.Starts q)
    (hu : q.group ≠ none ∨ ∀ a ∈ s.openUnits, a.use ≠ .place q.num) (hw : s.cur.work = .partitionStart q.num)
    (hduty : s.onDuty q = false) : s.Answers .partitionStart fun t =>
      (∃ r, t.part q.num = some r ∧ r.status = .running ∧ r.recess = none ∧ r.ttc t.gtc = 0 ∧ r.line = 0 ∧
        r.pigLive = q.pigLive) ∧
      (∀ c ∈ q.cores,
        let life := if (s.ctx c).seq.next = .stop then Life.ended else .running
        t.ctx c = { s.ctx c with life := life } ∧ (t.core c).dup = some (t.ctx c) ∧ (t.core c).undo = [] ∧
        (t.core c).spad = (s.core c).spad ∧ (life = .running → t.Later (some q.num) 0 (.bundleIssue c))) ∧
      ∀ c, c ∉ q.cores → t.core c = s.core c := by
  obtain ⟨slots, hpart, ht⟩ := State.partitionStart_begins h hu hw
  have hb := State.begun_spec h.part h.distinct h.cores
  have hoff : ¬ ((q.begun s.gtc slots).status = .running ∧ (q.begun s.gtc slots).recess.isNone ∧
      (s.begun q).onDuty (q.begun s.gtc slots) = true) := by
    rintro ⟨-, -, hon⟩
    rw [State.onDuty_begun hb.gtc hb.duty, hduty] at hon
    exact absurd hon (by decide)
  rw [State.bellEntry_unordered, if_neg hoff] at ht
  refine ⟨_, ht, ⟨_, hpart, rfl, h.awake, ?_, rfl, rfl⟩, fun c hc => ?_, hb.others⟩
  · simp [Part.ttc, Part.begun, h.awake, hb.gtc]
  · have hcore := hb.core c hc
    have hctx : (s.begun q).ctx c = (s.core c).start.ctx := by rw [State.ctx, hcore]
    exact ⟨hctx, by rw [hctx, hcore]; rfl, by rw [hcore]; rfl, by rw [hcore]; rfl, hb.bundles c hc⟩

end Sys2Proof.Machine
end

section
namespace Sys2Proof.Machine

/-! ### Sublists of a length -/

theorem mem_subsets {α : Type} {k : Nat} {l xs : List α} : xs ∈ subsets k l ↔ xs.Sublist l ∧ xs.length = k := by
  induction l generalizing k xs with
  | nil =>
    cases k with
    | zero => simp [subsets]
    | succ k =>
      simp only [subsets, List.not_mem_nil, List.sublist_nil, false_iff, not_and]
      rintro rfl
      simp
  | cons x l ih =>
    cases k with
    | zero =>
      simp only [subsets, List.mem_singleton, List.length_eq_zero_iff]
      exact ⟨fun h => ⟨h ▸ List.nil_sublist _, h⟩, And.right⟩
    | succ k =>
      simp only [subsets, List.mem_append, List.mem_map, ih, List.sublist_cons_iff]
      constructor
      · rintro (⟨ys, ⟨hys, hlen⟩, rfl⟩ | ⟨hxs, hlen⟩)
        · exact ⟨.inr ⟨ys, rfl, hys⟩, by simp [hlen]⟩
        · exact ⟨.inl hxs, hlen⟩
      · rintro ⟨hxs | ⟨ys, rfl, hys⟩, hlen⟩
        · exact .inr ⟨hxs, hlen⟩
        · exact .inl ⟨ys, ⟨hys, by simpa using hlen⟩, rfl⟩

/-- The sublists of a rising list are the rising lists of its elements. -/
theorem sublist_iff_of_rising {l xs : List Nat} (hl : l.Pairwise (· < ·)) :
    xs.Sublist l ↔ xs.Pairwise (· < ·) ∧ ∀ x ∈ xs, x ∈ l := by
  refine ⟨fun h => ⟨hl.sublist h, fun x hx => h.subset hx⟩, fun ⟨hxs, hsub⟩ => ?_⟩
  exact List.sublist_of_subperm_of_pairwise (List.subperm_of_subset hxs.nodup hsub) hxs hl

/-! ### Gaps between spans (R43, R56) -/

theorem foldl_min_le (f : Nat × Nat → Nat) (xs : List (Nat × Nat)) (m : Nat) :
    xs.foldl (fun m x => min m (f x)) m ≤ m ∧ ∀ k, k ≤ m → (∀ x ∈ xs, k ≤ f x) →
      k ≤ xs.foldl (fun m x => min m (f x)) m := by
  induction xs generalizing m with
  | nil => exact ⟨le_refl _, fun k h _ => h⟩
  | cons x xs ih =>
    obtain ⟨h1, h2⟩ := ih (min m (f x))
    refine ⟨le_trans h1 (min_le_left ..), fun k hk hx => h2 k (le_min hk (hx x (by simp))) fun y hy => hx y (by simp [hy])⟩

/-- A span of `len` bytes from `off` lies within an area, apart from the spans that are taken. -/
def Free (spans : List (Nat × Nat)) (size len off : Nat) : Prop :=
  off + len ≤ size ∧ ∀ x ∈ spans, x.2 = 0 ∨ off + len ≤ x.1 ∨ x.1 + x.2 ≤ off

/-- The start of a gap is a step at which the bytes fit. -/
theorem gapsIn_sound {spans : List (Nat × Nat)} {size step len : Nat} {g : Nat × Nat} (hlen : 0 < len)
    (h : g ∈ gapsIn spans size step len) : g.1 % step = 0 ∧ Free spans size len g.1 := by
  simp only [gapsIn, List.mem_filterMap] at h
  obtain ⟨a, ha, hg⟩ := h
  split at hg
  case isFalse => cases hg
  case isTrue hfit =>
    obtain ⟨hstop, hall⟩ := hfit
    cases hg
    refine ⟨?_, le_trans hstop (foldl_min_le Prod.fst _ size).1, fun x hx => ?_⟩
    · rcases List.mem_cons.1 ha with rfl | ha
      · simp
      · obtain ⟨x, -, rfl⟩ := List.mem_map.1 ha
        simp
    · by_cases h0 : x.2 = 0
      · exact .inl h0
      · have := List.all_eq_true.1 hall x (by simp [hx, h0])
        have := of_decide_eq_true this
        omega

theorem le_roundUp_le {n step off : Nat} (hstep : 0 < step) (hoff : off % step = 0) :
    n ≤ (n + step - 1) / step * step ∧ (n ≤ off → (n + step - 1) / step * step ≤ off) := by
  constructor
  · have := Nat.div_add_mod' (n + step - 1) step
    have := Nat.mod_lt (n + step - 1) hstep
    omega
  · intro hle
    obtain ⟨k, rfl⟩ := Nat.dvd_of_mod_eq_zero hoff
    rw [Nat.mul_comm step]
    refine Nat.mul_le_mul_right _ (Nat.le_of_lt_succ ((Nat.div_lt_iff_lt_mul hstep).2 ?_))
    rw [Nat.succ_mul, Nat.mul_comm k]
    omega

/-- Where the bytes fit at some step, there is a gap. -/
theorem gapsIn_ne_nil {spans : List (Nat × Nat)} {size step len off : Nat} (hstep : 0 < step) (hoff : off % step = 0)
    (h : Free spans size len off) : gapsIn spans size step len ≠ [] := by
  obtain ⟨hsize, hfree⟩ := h
  let used := spans.filter fun x => x.2 != 0
  let ends := 0 :: used.map fun x => (x.1 + x.2 + step - 1) / step * step
  -- the last start of a gap that is not after the place
  obtain ⟨a, ha, hmax⟩ := Finset.exists_max_image (ends.toFinset.filter (· ≤ off)) id ⟨0, by simp [ends]⟩
  simp only [Finset.mem_filter, List.mem_toFinset, id_eq, and_imp] at ha hmax
  obtain ⟨ha, hao⟩ := ha
  have hused (x : Nat × Nat) (hx : x ∈ used) : x.2 ≠ 0 ∧ (off + len ≤ x.1 ∨ x.1 + x.2 ≤ a) := by
    obtain ⟨hmem, h0⟩ := List.mem_filter.1 hx
    have h0 : x.2 ≠ 0 := by simpa using h0
    refine ⟨h0, ((hfree x hmem).resolve_left h0).imp_right fun hle => ?_⟩
    obtain ⟨hge, hup⟩ := le_roundUp_le (n := x.1 + x.2) hstep hoff
    exact le_trans hge (hmax _ (List.mem_cons_of_mem _ (List.mem_map_of_mem hx)) (hup hle))
  have hstop : a + len ≤ (used.filter fun x => decide (a ≤ x.1)).foldl (fun m x => min m x.1) size := by
    refine (foldl_min_le Prod.fst _ size).2 _ (by omega) fun x hx => ?_
    obtain ⟨hx, hax⟩ := List.mem_filter.1 hx
    have := hused x hx
    have := of_decide_eq_true hax
    omega
  have hall : used.all (fun x => decide (a + len ≤ x.1 ∨ x.1 + x.2 ≤ a ∨ len = 0)) = true := by
    refine List.all_eq_true.2 fun x hx => decide_eq_true ?_
    have := hused x hx
    omega
  refine List.ne_nil_of_mem (List.mem_filterMap.2 ⟨a, ha, if_pos ⟨hstop, hall⟩⟩)

/-! ### Channel groups, one after another (R409) -/

/-- What groups taken from those that are free are: different ones, each of which suits its number. -/
structure Taken (suits : Nat → Nat → Bool) (n j : Nat) (free gs : List Nat) : Prop where
  length : gs.length = n
  nodup : gs.Nodup
  free : ∀ g ∈ gs, g ∈ free
  suits : ∀ i g, gs[i]? = some g → suits (j + i) g = true

theorem taken_cons {suits : Nat → Nat → Bool} {n j g : Nat} {free gs : List Nat} :
    Taken suits (n + 1) j free (g :: gs) ↔
      (g ∈ free ∧ suits j g = true) ∧ Taken suits n (j + 1) (free.filter (· != g)) gs := by
  have hadd (i : Nat) : j + (i + 1) = j + 1 + i := by omega
  constructor
  · rintro ⟨hlen, hnd, hfree, hsuits⟩
    obtain ⟨hnot, hnd⟩ := List.nodup_cons.1 hnd
    refine ⟨⟨hfree g (by simp), hsuits 0 g rfl⟩, by simpa using hlen, hnd, fun x hx => ?_, fun i x hx => ?_⟩
    · exact List.mem_filter.2 ⟨hfree x (by simp [hx]), by simpa using fun e : x = g => hnot (e ▸ hx)⟩
    · exact hadd i ▸ hsuits (i + 1) x (by simpa using hx)
  · rintro ⟨⟨hg, hs⟩, hlen, hnd, hfree, hsuits⟩
    have hfree (x : Nat) (hx : x ∈ gs) : x ∈ free ∧ x ≠ g := by simpa using hfree x hx
    refine ⟨by simp [hlen], List.nodup_cons.2 ⟨fun h => (hfree g h).2 rfl, hnd⟩, fun x hx => ?_, fun i x hx => ?_⟩
    · rcases List.mem_cons.1 hx with rfl | hx
      · exact hg
      · exact (hfree x hx).1
    · cases i with
      | zero => obtain rfl : g = x := by simpa using hx
                exact hs
      | succ i => exact hadd i ▸ hsuits i x (by simpa using hx)

theorem takeGroups_sound {suits : Nat → Nat → Bool} {pick : Nat → Nat} {n j : Nat} {free gs : List Nat}
    (h : takeGroups suits pick n j free = some gs) : Taken suits n j free gs := by
  induction n generalizing j free gs with
  | zero =>
    obtain rfl : [] = gs := by simpa [takeGroups] using h
    exact ⟨rfl, List.nodup_nil, by simp, by simp⟩
  | succ n ih =>
    simp only [takeGroups] at h
    obtain ⟨g, hg, hgs⟩ := List.exists_of_findSome?_eq_some h
    obtain ⟨rest, hrest, rfl⟩ := Option.map_eq_some_iff.1 hgs
    refine taken_cons.2 ⟨?_, ih hrest⟩
    have : g ∈ free.filter (suits j) := by
      rcases List.mem_append.1 hg with hg | hg
      · exact List.mem_of_mem_drop hg
      · exact List.mem_of_mem_take hg
    exact List.mem_filter.1 this

/-- The search goes back on a choice that leaves too few: it finds groups where there are some, whatever it picks first. -/
theorem takeGroups_isSome {suits : Nat → Nat → Bool} {n j : Nat} {free gs : List Nat} (pick : Nat → Nat)
    (h : Taken suits n j free gs) : (takeGroups suits pick n j free).isSome = true := by
  induction n generalizing j free gs with
  | zero => rfl
  | succ n ih =>
    cases gs with
    | nil => exact absurd h.length (by simp)
    | cons g gs =>
      obtain ⟨⟨hg, hs⟩, hrest⟩ := taken_cons.1 h
      obtain ⟨rest, hsome⟩ := Option.isSome_iff_exists.1 (ih hrest)
      simp only [takeGroups]
      refine List.findSome?_isSome_iff.2 ⟨g, ?_, by simp [hsome]⟩
      rw [List.mem_append, or_comm, ← List.mem_append, List.take_append_drop]
      exact List.mem_filter.2 ⟨hg, hs⟩

/-- Groups can be taken in one order of choice when they can in another. -/
theorem takeGroups_isSome_iff {suits : Nat → Nat → Bool} {n j : Nat} {free : List Nat} (pick : Nat → Nat) :
    (takeGroups suits pick n j free).isSome = true ↔ ∃ gs, Taken suits n j free gs := by
  refine ⟨fun h => ?_, fun ⟨gs, h⟩ => takeGroups_isSome pick h⟩
  obtain ⟨gs, hgs⟩ := Option.isSome_iff_exists.1 h
  exact ⟨gs, takeGroups_sound hgs⟩

/-! ### Quads of a die, by clusters (R195, R409) -/

/-- The quads of some clusters. -/
def pairsOf (cs : List Nat) : List Nat := cs.flatMap fun c => [2 * c, 2 * c + 1]

@[simp] theorem pairsOf_nil : pairsOf [] = [] := rfl
@[simp] theorem pairsOf_cons (c : Nat) (cs : List Nat) : pairsOf (c :: cs) = 2 * c :: (2 * c + 1) :: pairsOf cs := rfl
@[simp] theorem pairsOf_length (cs : List Nat) : (pairsOf cs).length = 2 * cs.length := by
  induction cs with
  | nil => rfl
  | cons c cs ih => simp [ih]; omega

theorem mem_pairsOf {cs : List Nat} {k : Nat} : k ∈ pairsOf cs ↔ k / 2 ∈ cs := by
  simp only [pairsOf, List.mem_flatMap, List.mem_cons, List.not_mem_nil, or_false]
  constructor
  · rintro ⟨c, hc, rfl | rfl⟩ <;> (convert hc using 1; omega)
  · intro h
    exact ⟨k / 2, h, by omega⟩

theorem pairsOf_rising {cs : List Nat} : (pairsOf cs).Pairwise (· < ·) ↔ cs.Pairwise (· < ·) := by
  induction cs with
  | nil => simp
  | cons c cs ih =>
    simp only [pairsOf_cons, List.pairwise_cons, ih, List.mem_cons, mem_pairsOf]
    constructor
    · rintro ⟨-, h, hcs⟩
      refine ⟨fun x hx => ?_, hcs⟩
      have := h (2 * x) (by simpa using hx)
      omega
    · rintro ⟨h, hcs⟩
      refine ⟨fun x hx => ?_, fun x hx => ?_, hcs⟩
      · rcases hx with rfl | hx
        · omega
        · have := h _ hx
          omega
      · have := h _ hx
        omega

/-- Quads taken cluster by cluster: each but a last one stands with the other quad of its cluster. -/
def Clustered (qs : List Nat) : Prop :=
  ∀ i k, qs[i]? = some k → i % 2 = 0 → i + 1 < qs.length → k % 2 = 0 ∧ qs[i + 1]? = some (k + 1)

theorem clustered_of_length_le {qs : List Nat} (h : qs.length ≤ 1) : Clustered qs := fun i _ _ _ hlt => by omega

theorem clustered_cons_cons {a b : Nat} {qs : List Nat} :
    Clustered (a :: b :: qs) ↔ (a % 2 = 0 ∧ b = a + 1) ∧ Clustered qs := by
  constructor
  · refine fun h => ⟨?_, fun i k hk hi hlt => ?_⟩
    · simpa using h 0 a rfl rfl (by simp)
    · simpa using h (i + 2) k (by simpa using hk) (by omega) (by simp; omega)
  · rintro ⟨⟨ha, rfl⟩, h⟩ i k hk hi hlt
    match i, hi with
    | 0, _ => obtain rfl : a = k := by simpa using hk
              exact ⟨ha, rfl⟩
    | i + 2, hi => simpa using h i k (by simpa using hk) (by omega) (Nat.lt_of_succ_lt_succ (Nat.lt_of_succ_lt_succ hlt))

/-- Quads taken cluster by cluster are the quads of some clusters, and a last half cluster where their number is odd. -/
theorem clustered_iff (qs : List Nat) :
    Clustered qs ↔ ∃ cs tail, qs = pairsOf cs ++ tail ∧ tail.length = qs.length % 2 := by
  match qs with
  | [] => exact ⟨fun _ => ⟨[], [], rfl, rfl⟩, fun _ => clustered_of_length_le (by simp)⟩
  | [q] => exact ⟨fun _ => ⟨[], [q], rfl, rfl⟩, fun _ => clustered_of_length_le (by simp)⟩
  | a :: b :: qs =>
    rw [clustered_cons_cons, clustered_iff qs]
    constructor
    · rintro ⟨⟨ha, rfl⟩, cs, tail, rfl, ht⟩
      refine ⟨a / 2 :: cs, tail, ?_, by simpa [Nat.add_assoc] using ht⟩
      rw [pairsOf_cons, show 2 * (a / 2) = a by omega]
      rfl
    · rintro ⟨cs, tail, h, ht⟩
      cases cs with
      | nil =>
        subst h
        simp at ht
        omega
      | cons c cs =>
        simp only [pairsOf_cons, List.cons_append, List.cons.injEq] at h
        obtain ⟨rfl, rfl, rfl⟩ := h
        exact ⟨⟨by omega, rfl⟩, cs, tail, rfl, by simpa [Nat.add_assoc] using ht⟩

theorem clustered_append {as bs : List Nat} (h : bs = [] ∨ as.length % 2 = 0) :
    Clustered (as ++ bs) ↔ Clustered as ∧ Clustered bs := by
  rcases h with rfl | h
  · simp [clustered_of_length_le (qs := []) (by simp)]
  · match as, h with
    | [], _ => simp [clustered_of_length_le (qs := []) (by simp)]
    | a :: b :: as, h =>
      have := clustered_append (as := as) (bs := bs) (.inr (by simpa [Nat.add_assoc] using h))
      simp only [List.cons_append, clustered_cons_cons, this, and_assoc]

/-! ### The shapes of a placement (R195, R409) -/

/-- Quads in rising order on the given dies, 24 of each but the last, cluster by cluster. -/
structure Shaped (quad : Nat → Bool) (n : Nat) (dies qs : List Nat) : Prop where
  length : qs.length = n / 4
  rising : qs.Pairwise (· < ·)
  paired : Clustered qs
  on : ∀ i k, qs[i]? = some k → dies[i / 24]? = some (k / 24) ∧ quad k = true

theorem shaped_one {quad : Nat → Bool} {m die : Nat} {qs : List Nat} (hm : m ≤ 96) :
    Shaped quad m [die] qs ↔ qs.length = m / 4 ∧ qs.Pairwise (· < ·) ∧ Clustered qs ∧
      ∀ k ∈ qs, k / 24 = die ∧ quad k = true := by
  constructor
  · rintro ⟨hlen, hrise, hpair, hon⟩
    refine ⟨hlen, hrise, hpair, fun k hk => ?_⟩
    obtain ⟨i, hi⟩ := List.mem_iff_getElem?.1 hk
    have hlt : i < qs.length := (List.getElem?_eq_some_iff.1 hi).1
    have := hon i k hi
    rw [Nat.div_eq_of_lt (show i < 24 by omega)] at this
    exact ⟨by simpa [eq_comm] using this.1, this.2⟩
  · rintro ⟨hlen, hrise, hpair, hon⟩
    refine ⟨hlen, hrise, hpair, fun i k hk => ?_⟩
    have hlt : i < qs.length := (List.getElem?_eq_some_iff.1 hk).1
    obtain ⟨hd, hq⟩ := hon k (List.mem_of_getElem? hk)
    rw [Nat.div_eq_of_lt (show i < 24 by omega), hd]
    exact ⟨rfl, hq⟩

theorem mem_dieClusters {quad : Nat → Bool} {die c : Nat} :
    c ∈ ((List.range 12).map (12 * die + ·)).filter (fun c => quad (2 * c) && quad (2 * c + 1)) ↔
      c / 12 = die ∧ quad (2 * c) = true ∧ quad (2 * c + 1) = true := by
  simp only [List.mem_filter, List.mem_map, List.mem_range, Bool.and_eq_true]
  refine and_congr_left fun _ => ⟨?_, fun h => ⟨c % 12, by omega, by omega⟩⟩
  rintro ⟨i, hi, rfl⟩
  omega

theorem rising_range_map (a n : Nat) : ((List.range n).map (a + ·)).Pairwise (· < ·) :=
  List.pairwise_map.2 (List.pairwise_lt_range.imp fun h => Nat.add_lt_add_left h a)

/-- A choice on a die: whole clusters in rising order, and a quad after them where the ranks leave a half cluster. -/
theorem mem_dieChoices_iff {quad : Nat → Bool} {die m : Nat} {qs : List Nat} (h4 : m % 4 = 0) :
    qs ∈ dieChoices quad die m ↔ ∃ cs tail, qs = pairsOf cs ++ tail ∧ tail.length = m / 4 % 2 ∧ cs.length = m / 8 ∧
      cs.Pairwise (· < ·) ∧ (∀ c ∈ cs, c / 12 = die ∧ quad (2 * c) = true ∧ quad (2 * c + 1) = true) ∧
      ∀ q ∈ tail, q / 24 = die ∧ quad q = true ∧ ∀ c ∈ cs, c < q / 2 := by
  have hcs (cs : List Nat) : cs ∈ subsets (m / 8) (((List.range 12).map (12 * die + ·)).filter
      fun c => quad (2 * c) && quad (2 * c + 1)) ↔ cs.length = m / 8 ∧ cs.Pairwise (· < ·) ∧
      ∀ c ∈ cs, c / 12 = die ∧ quad (2 * c) = true ∧ quad (2 * c + 1) = true := by
    rw [mem_subsets, sublist_iff_of_rising ((rising_range_map _ _).filter _), and_comm]
    simp only [mem_dieClusters]
  simp only [dieChoices, List.mem_flatMap, hcs]
  refine exists_congr fun cs => ?_
  by_cases h8 : m % 8 = 0
  · rw [if_pos h8, show m / 4 % 2 = 0 by omega]
    simp only [List.mem_singleton, List.length_eq_zero_iff]
    constructor
    · rintro ⟨⟨hlen, hrise, hon⟩, rfl⟩
      exact ⟨[], by simp [pairsOf], rfl, hlen, hrise, hon, by simp⟩
    · rintro ⟨_, rfl, rfl, hlen, hrise, hon, -⟩
      exact ⟨⟨hlen, hrise, hon⟩, by simp [pairsOf]⟩
  · rw [if_neg h8, show m / 4 % 2 = 1 by omega]
    simp only [List.mem_filterMap, List.mem_map, List.mem_range, List.length_eq_one_iff]
    constructor
    · rintro ⟨⟨hlen, hrise, hon⟩, q, ⟨i, hi, rfl⟩, hq⟩
      split at hq
      case isFalse => cases hq
      case isTrue hok =>
        cases hq
        simp only [Bool.and_eq_true, List.all_eq_true, decide_eq_true_eq] at hok
        refine ⟨[24 * die + i], rfl, ⟨_, rfl⟩, hlen, hrise, hon, fun q hq => ?_⟩
        obtain rfl := List.mem_singleton.1 hq
        exact ⟨by omega, hok⟩
    · rintro ⟨_, rfl, ⟨q, rfl⟩, hlen, hrise, hon, htail⟩
      obtain ⟨hdie, hquad, hlt⟩ := htail q (by simp)
      refine ⟨⟨hlen, hrise, hon⟩, q, ⟨q % 24, by omega, by omega⟩, ?_⟩
      rw [if_pos]
      · rfl
      · simpa [hquad] using hlt

theorem mem_dieChoices {quad : Nat → Bool} {die m : Nat} {qs : List Nat} (hm : m ≤ 96) (h4 : m % 4 = 0) :
    qs ∈ dieChoices quad die m ↔ Shaped quad m [die] qs := by
  rw [shaped_one hm, mem_dieChoices_iff h4]
  constructor
  · rintro ⟨cs, tail, rfl, htail, hlen, hrise, hon, hlast⟩
    have hl : (pairsOf cs ++ tail).length = m / 4 := by
      simp only [List.length_append, pairsOf_length]
      omega
    refine ⟨hl, ?_, (clustered_iff _).2 ⟨cs, tail, rfl, by rw [hl, htail]⟩, fun k hk => ?_⟩
    · refine List.pairwise_append.2 ⟨pairsOf_rising.2 hrise, ?_, fun x hx q hq => ?_⟩
      · have : tail.length ≤ 1 := by omega
        match tail, this with
        | [], _ => simp
        | [q], _ => simp
      · have := (hlast q hq).2.2 _ (mem_pairsOf.1 hx)
        omega
    · rcases List.mem_append.1 hk with hk | hk
      · obtain ⟨hc, h0, h1⟩ := hon _ (mem_pairsOf.1 hk)
        refine ⟨by omega, ?_⟩
        rcases Nat.mod_two_eq_zero_or_one k with h | h
        · rwa [show 2 * (k / 2) = k by omega] at h0
        · rwa [show 2 * (k / 2) + 1 = k by omega] at h1
      · exact ⟨(hlast k hk).1, (hlast k hk).2.1⟩
  · rintro ⟨hlen, hrise, hpair, hon⟩
    obtain ⟨cs, tail, rfl, htail⟩ := (clustered_iff _).1 hpair
    have hl : 2 * cs.length + tail.length = m / 4 := by simpa using hlen
    obtain ⟨hcs, -, hcross⟩ := List.pairwise_append.1 hrise
    refine ⟨cs, tail, rfl, by rw [htail, hlen], by omega, pairsOf_rising.1 hcs, fun c hc => ?_, fun q hq => ?_⟩
    · have h0 := hon (2 * c) (List.mem_append_left _ (mem_pairsOf.2 (by simpa using hc)))
      have h1 := hon (2 * c + 1) (List.mem_append_left _ (mem_pairsOf.2 (by rwa [show (2 * c + 1) / 2 = c by omega])))
      exact ⟨by omega, h0.2, h1.2⟩
    · obtain ⟨hdie, hquad⟩ := hon q (List.mem_append_right _ hq)
      refine ⟨hdie, hquad, fun c hc => ?_⟩
      have := hcross (2 * c + 1) (mem_pairsOf.2 (by rwa [show (2 * c + 1) / 2 = c by omega])) q hq
      omega

/-- A shape on several dies is one of 24 quads, or all that there are, on the first, and one on the others. -/
theorem shaped_cons {quad : Nat → Bool} {n die : Nat} {dies qs : List Nat} (h4 : n % 4 = 0)
    (hrise : (die :: dies).Pairwise (· < ·)) :
    Shaped quad n (die :: dies) qs ↔ ∃ as bs, qs = as ++ bs ∧ Shaped quad (min n 96) [die] as ∧
      Shaped quad (n - 96) dies bs := by
  obtain ⟨hdie, -⟩ := List.pairwise_cons.1 hrise
  have hshort (bs : List Nat) (h : bs.length = (n - 96) / 4) : bs = [] ∨ min n 96 / 4 = 24 := by
    rw [← List.length_eq_zero_iff]
    omega
  constructor
  · rintro ⟨hl, hr, hp, hon⟩
    have hta : (qs.take 24).length = min n 96 / 4 := by rw [List.length_take]; omega
    have htb : (qs.drop 24).length = (n - 96) / 4 := by rw [List.length_drop]; omega
    have hsplit : qs = qs.take 24 ++ qs.drop 24 := (List.take_append_drop 24 qs).symm
    have hp' : Clustered (qs.take 24) ∧ Clustered (qs.drop 24) := by
      rw [hsplit, clustered_append] at hp
      · exact hp
      · exact (hshort _ htb).imp_right fun h => by omega
    refine ⟨qs.take 24, qs.drop 24, hsplit, (shaped_one (by omega)).2 ⟨hta, hr.sublist (List.take_sublist ..), hp'.1,
      fun k hk => ?_⟩, htb, hr.sublist (List.drop_sublist ..), hp'.2, fun i k hk => ?_⟩
    · obtain ⟨i, hi⟩ := List.mem_iff_getElem?.1 hk
      have hlt := (List.getElem?_eq_some_iff.1 hi).1
      rw [List.getElem?_take_of_lt (by omega)] at hi
      obtain ⟨hd, hq⟩ := hon i k hi
      rw [Nat.div_eq_of_lt (by omega : i < 24)] at hd
      exact ⟨by simpa [eq_comm] using hd, hq⟩
    · rw [List.getElem?_drop] at hk
      have := hon _ k hk
      rwa [show (24 + i) / 24 = i / 24 + 1 by omega, List.getElem?_cons_succ] at this
  · rintro ⟨as, bs, rfl, ha, hb⟩
    obtain ⟨hla, hra, hpa, hona⟩ := (shaped_one (by omega)).1 ha
    obtain ⟨hlb, hrb, hpb, honb⟩ := hb
    have hbs := hshort bs hlb
    refine ⟨by rw [List.length_append]; omega, List.pairwise_append.2 ⟨hra, hrb, fun x hx y hy => ?_⟩,
      (clustered_append (hbs.imp_right fun h => by omega)).2 ⟨hpa, hpb⟩, fun i k hk => ?_⟩
    · obtain ⟨i, hi⟩ := List.mem_iff_getElem?.1 hy
      have hx := (hona x hx).1
      have := hdie _ (List.mem_of_getElem? (honb i y hi).1)
      omega
    · rw [List.getElem?_append] at hk
      split at hk
      case isTrue hlt =>
        obtain ⟨hd, hq⟩ := hona k (List.mem_of_getElem? hk)
        rw [Nat.div_eq_of_lt (by omega : i < 24), hd]
        exact ⟨rfl, hq⟩
      case isFalse hge =>
        have h24 : as.length = 24 := by
          rw [hla]
          refine hbs.resolve_left fun h => ?_
          rw [h] at hk
          cases hk
        rw [h24] at hk
        have := honb _ k hk
        rwa [show i / 24 = (i - 24) / 24 + 1 by omega, List.getElem?_cons_succ]

theorem mem_shapeChoices {quad : Nat → Bool} {n : Nat} {dies qs : List Nat} (h4 : n % 4 = 0)
    (hlen : dies.length = (n + 95) / 96) (hrise : dies.Pairwise (· < ·)) :
    qs ∈ shapeChoices quad n dies ↔ Shaped quad n dies qs := by
  induction dies generalizing n qs with
  | nil =>
    obtain rfl : n = 0 := by simp at hlen; omega
    simp only [shapeChoices, List.mem_singleton]
    constructor
    · rintro rfl
      exact ⟨rfl, .nil, clustered_of_length_le (by simp), by simp⟩
    · exact fun h => List.length_eq_zero_iff.1 h.length
  | cons die dies ih =>
    have hn : 0 < n := by simp at hlen; omega
    simp only [shapeChoices, List.mem_flatMap, List.mem_map]
    rw [shaped_cons h4 hrise]
    have hlen' : dies.length = (n - 96 + 95) / 96 := by simp at hlen; omega
    simp only [mem_dieChoices (quad := quad) (die := die) (m := min n 96) (by omega) (by omega),
      ih (n := n - 96) (by omega) hlen' hrise.of_cons]
    constructor
    · rintro ⟨as, ha, bs, hb, rfl⟩
      exact ⟨as, bs, rfl, ha, hb⟩
    · rintro ⟨as, bs, rfl, ha, hb⟩
      exact ⟨as, ha, bs, hb, rfl⟩

end Sys2Proof.Machine
end

section
namespace Sys2Proof.Machine

/-! ### Where a variant fits (R195, R210, R220, R409) -/

/-- The dies and quads of a placement. -/
structure State.Place (s : State) (a : Avail) (allowed : List Nat) (v : Variant) (store : Nat → Nat → Bool)
    (dies quads : List Nat) : Prop where
  length : dies.length = (v.ncore + 95) / 96
  rising : dies.Pairwise (· < ·)
  lt : ∀ d ∈ dies, d < 4
  linked : v.links ≠ [] → dies = List.range dies.length
  ring : ∀ d ∈ dies, v.nslot ≤ a.ring d
  store : ∀ i d, dies[i]? = some d → store i d = true
  groups : ∃ gs, Taken (s.groupFits v dies) v.groups 0 (s.freeGroups allowed) gs
  shape : Shaped a.quad v.ncore dies quads

theorem State.mem_choices {s : State} {a : Avail} {allowed : List Nat} {v : Variant} {store : Nat → Nat → Bool}
    {dies quads : List Nat} (h4 : v.ncore % 4 = 0) (hmax : v.ncore ≤ 384) :
    (dies, quads) ∈ s.choices a allowed v store none ↔ s.Place a allowed v store dies quads := by
  have hslots : v.dieSlots = (v.ncore + 95) / 96 := rfl
  have hds (dies : List Nat) : dies ∈ (if v.links.isEmpty then subsets v.dieSlots (List.range 4) else [List.range v.dieSlots]) ↔
      dies.length = (v.ncore + 95) / 96 ∧ dies.Pairwise (· < ·) ∧ (∀ d ∈ dies, d < 4) ∧
        (v.links ≠ [] → dies = List.range dies.length) := by
    by_cases hl : v.links = []
    · simp only [hl, List.isEmpty_nil, if_true, mem_subsets, sublist_iff_of_rising List.pairwise_lt_range, List.mem_range,
        hslots, ne_eq, not_true_eq_false, false_imp_iff, and_true]
      exact ⟨fun ⟨⟨h1, h2⟩, h3⟩ => ⟨h3, h1, h2⟩, fun ⟨h3, h1, h2⟩ => ⟨⟨h1, h2⟩, h3⟩⟩
    · simp only [hl, List.isEmpty_eq_false_iff.2 hl, Bool.false_eq_true, if_false, List.mem_singleton, ne_eq, not_false_eq_true,
        true_imp_iff, hslots]
      constructor
      · rintro rfl
        exact ⟨by simp, List.pairwise_lt_range, fun d hd => by have := List.mem_range.1 hd; omega, by simp⟩
      · rintro ⟨hlen, -, -, h⟩
        rwa [hlen] at h
  have hstore (hlen : dies.length = (v.ncore + 95) / 96) :
      ((List.range v.dieSlots).all fun d => store d (dies.getD d 4)) = true ↔
        ∀ i d, dies[i]? = some d → store i d = true := by
    rw [List.all_eq_true, hslots, ← hlen]
    constructor
    · intro h i d hd
      have := h i (List.mem_range.2 (List.getElem?_eq_some_iff.1 hd).1)
      rwa [List.getD_eq_getElem?_getD, hd] at this
    · intro h i hi
      have hi := List.mem_range.1 hi
      rw [List.getD_eq_getElem?_getD, List.getElem?_eq_getElem hi]
      exact h i _ (List.getElem?_eq_getElem hi)
  simp only [State.choices, List.mem_flatMap, List.mem_filter, List.mem_map, Prod.mk.injEq, hds, Bool.and_eq_true,
    takeGroups_isSome_iff]
  constructor
  · rintro ⟨_, ⟨⟨hlen, hrise, hlt, hlink⟩, ⟨hring, hst⟩, hgroups⟩, _, hshape, rfl, rfl⟩
    exact ⟨hlen, hrise, hlt, hlink, by simpa using hring, (hstore hlen).1 hst, hgroups,
      (mem_shapeChoices h4 hlen hrise).1 hshape⟩
  · rintro ⟨hlen, hrise, hlt, hlink, hring, hst, hgroups, hshape⟩
    exact ⟨dies, ⟨⟨hlen, hrise, hlt, hlink⟩, ⟨by simpa using hring, (hstore hlen).2 hst⟩, hgroups⟩, quads,
      (mem_shapeChoices h4 hlen hrise).2 hshape, rfl, rfl⟩

theorem State.choices_ne_nil {s : State} {a : Avail} {allowed : List Nat} {v : Variant} {store : Nat → Nat → Bool}
    (h4 : v.ncore % 4 = 0) (hmax : v.ncore ≤ 384) :
    s.choices a allowed v store none ≠ [] ↔ ∃ dies quads, s.Place a allowed v store dies quads := by
  constructor
  · intro h
    obtain ⟨⟨dies, quads⟩, hmem⟩ := List.exists_mem_of_ne_nil _ h
    exact ⟨dies, quads, (State.mem_choices h4 hmax).1 hmem⟩
  · rintro ⟨dies, quads, hplace⟩
    exact List.ne_nil_of_mem ((State.mem_choices h4 hmax).2 hplace)

/-- A lasting unit withdraws a cluster. -/
theorem State.clusterLost_iff {s : State} {cl : Nat} : s.clusterLost cl = true ↔
    ∃ u ∈ s.lasting, ∃ c, c / 8 = cl ∧ (u = .coreArrays c ∨ ∃ b, u = .spadBank c b) := by
  simp only [State.clusterLost, List.any_eq_true]
  refine exists_congr fun u => and_congr_right fun _ => ?_
  cases u <;> simp

/-- A lasting unit withdraws a channel group. -/
theorem State.groupLost_eq_false {s : State} {g : Nat} : s.groupLost g = false ↔
    ∀ u ∈ s.lasting, u ≠ .nmUnit (g / 4) ∧ ∀ st ch b, u = .dramBank st ch b → st * 4 + ch / 16 ≠ g := by
  simp only [State.groupLost, List.any_eq_false]
  refine forall₂_congr fun u _ => ?_
  cases u <;> simp

theorem State.avail_quad {s : State} {k : Nat} : s.avail.quad k = true ↔ k < 96 ∧ ¬ s.clusterLost (k / 2) = true ∧
    ∀ j, j < 4 → (s.ctx (4 * k + j)).life = .idle ∧ (s.ctx (4 * k + j)).part = 0 := by
  simp [State.avail, and_assoc]

theorem State.mem_freeGroups {s : State} {allowed : List Nat} {g : Nat} : g ∈ s.freeGroups allowed ↔
    g < 32 ∧ g ∈ allowed ∧ (∀ q ∈ s.parts, g ∉ q.groups) ∧ g ∉ s.testing ∧ s.groupLost g = false := by
  simp [State.freeGroups, and_assoc]

/-- Whether a group suits owned group `j` of a variant. -/
theorem State.groupFits_iff {s : State} {v : Variant} {dies : List Nat} {j g : Nat} (hd : 0 < dies.length) :
    s.groupFits v dies j g = true ↔ (if j < 8 * dies.length then dies[j % dies.length]? = some (g / 8) else g / 8 ∉ dies) ∧
      ∀ t ∈ v.timelines, t.chan / 16 = j → t.timed (s.timing (g / 4)) = true := by
  have hsuits : groupSuits dies j (g / 8) = true ↔
      if j < 8 * dies.length then dies[j % dies.length]? = some (g / 8) else g / 8 ∉ dies := by
    unfold groupSuits
    have hlt := Nat.mod_lt j hd
    split
    · rw [List.getD_eq_getElem?_getD, List.getElem?_eq_getElem hlt]
      simp
    · simp
  simp only [State.groupFits, Bool.and_eq_true, hsuits, List.all_eq_true, Bool.or_eq_true, bne_iff_ne, ne_eq]
  refine and_congr_right fun _ => forall₂_congr fun t _ => ?_
  by_cases h : t.chan / 16 = j <;> simp [h]

/-- Whether a die's program store has a place for a block. -/
theorem State.blockFits_iff {s : State} {v : Variant} {i d : Nat} : s.blockFits v i d = true ↔
    v.blockOf i = [] ∨ ∃ off, off % 16 = 0 ∧ off + (v.blockOf i).length ≤ 2 ^ 23 ∧
      ∀ x ∈ s.storeSpans d, x.2 = 0 ∨ off + (v.blockOf i).length ≤ x.1 ∨ x.1 + x.2 ≤ off := by
  simp only [State.blockFits, Bool.or_eq_true, List.isEmpty_iff, Bool.not_eq_true', List.isEmpty_eq_false_iff]
  by_cases h0 : v.blockOf i = []
  · simp [h0]
  refine or_congr_right ?_
  constructor
  · intro h
    obtain ⟨g, hg⟩ := List.exists_mem_of_ne_nil _ h
    obtain ⟨hstep, hsize, hfree⟩ := gapsIn_sound (List.length_pos_iff.2 h0) hg
    exact ⟨g.1, hstep, hsize, hfree⟩
  · rintro ⟨off, hstep, hsize, hfree⟩
    exact gapsIn_ne_nil (by decide) hstep ⟨hsize, hfree⟩

theorem Launch.joined_iff {s : State} {l : Launch} : s.joined l.link = false ↔
    l.members = 0 ∨ ∀ q ∈ s.parts, q.group ≠ some l.group := by
  by_cases h : l.members = 0 <;> simp [State.joined, Launch.link, h]

theorem State.fits_iff {s : State} {l : Launch} {v : Variant} {n : Tenant} {a : Avail}
    (hn : s.tenants.find? (fun t => t.num == l.tenant) = some n) (h4 : v.ncore % 4 = 0) (hmax : v.ncore ≤ 384) :
    s.fits a l v = true ↔ 4352 + 1268224 * v.ncore ≤ n.dumpLen ∧ (v.links = [] ∨ s.linksFree l.link v.links = true) ∧
      (l.members = 0 ∨ ∀ q ∈ s.parts, q.group ≠ some l.group) ∧
      ∃ dies quads, s.Place a n.groups v (s.blockFits v) dies quads := by
  have hlinks : s.linksFree l.link v.links = true ↔ v.links = [] ∨ s.linksFree l.link v.links = true := by
    by_cases h : v.links = [] <;> simp [State.linksFree, h]
  have htakes : n.takesCard v = true ↔ 4352 + 1268224 * v.ncore ≤ n.dumpLen := decide_eq_true_iff
  rw [← hlinks, ← Launch.joined_iff, ← State.choices_ne_nil h4 hmax]
  simp only [State.fits, hn, Bool.and_eq_true, Bool.not_eq_true', List.isEmpty_eq_false_iff, htakes, and_assoc]

/-- The quads that a placement on the free resources takes. -/
theorem State.shaped_avail_iff {s : State} {n : Nat} {dies quads : List Nat} (hlt : ∀ d ∈ dies, d < 4) :
    Shaped s.avail.quad n dies quads ↔ quads.length = n / 4 ∧ quads.Pairwise (· < ·) ∧
      ∀ i k, quads[i]? = some k → dies[i / 24]? = some (k / 24) ∧ ¬ s.clusterLost (k / 2) = true ∧
        (∀ j, j < 4 → (s.ctx (4 * k + j)).life = .idle ∧ (s.ctx (4 * k + j)).part = 0) ∧
        (i % 2 = 0 → i + 1 < quads.length → k % 2 = 0 ∧ quads[i + 1]? = some (k + 1)) := by
  constructor
  · rintro ⟨hlen, hrise, hpair, hon⟩
    refine ⟨hlen, hrise, fun i k hk => ?_⟩
    obtain ⟨hd, hquad⟩ := hon i k hk
    obtain ⟨-, hlost, hidle⟩ := State.avail_quad.1 hquad
    exact ⟨hd, hlost, hidle, hpair i k hk⟩
  · rintro ⟨hlen, hrise, h⟩
    refine ⟨hlen, hrise, fun i k hk => (h i k hk).2.2.2, fun i k hk => ?_⟩
    obtain ⟨hd, hlost, hidle, -⟩ := h i k hk
    have := hlt _ (List.mem_of_getElem? hd)
    exact ⟨hd, State.avail_quad.2 ⟨by omega, hlost, hidle⟩⟩

/-- The channel groups that a placement on the free resources takes. -/
theorem State.taken_iff {s : State} {v : Variant} {allowed dies gs : List Nat} (hd : 0 < dies.length) :
    Taken (s.groupFits v dies) v.groups 0 (s.freeGroups allowed) gs ↔ gs.length = v.groups ∧ gs.Nodup ∧
      ∀ j g, gs[j]? = some g → g ∈ allowed ∧ g < 32 ∧ g ∉ s.testing ∧ (∀ q ∈ s.parts, g ∉ q.groups) ∧
        (∀ u ∈ s.lasting, u ≠ .nmUnit (g / 4) ∧ ∀ st ch b, u = .dramBank st ch b → st * 4 + ch / 16 ≠ g) ∧
        (if j < 8 * dies.length then dies[j % dies.length]? = some (g / 8) else g / 8 ∉ dies) ∧
        ∀ t ∈ v.timelines, t.chan / 16 = j → t.timed (s.timing (g / 4)) = true := by
  constructor
  · rintro ⟨hlen, hnd, hfree, hsuits⟩
    refine ⟨hlen, hnd, fun j g hg => ?_⟩
    obtain ⟨hlt, hall, hparts, htest, hlost⟩ := State.mem_freeGroups.1 (hfree g (List.mem_of_getElem? hg))
    obtain ⟨hdie, htime⟩ := (State.groupFits_iff hd).1 (hsuits j g hg)
    rw [Nat.zero_add] at hdie htime
    exact ⟨hall, hlt, htest, hparts, State.groupLost_eq_false.1 hlost, hdie, htime⟩
  · rintro ⟨hlen, hnd, h⟩
    refine ⟨hlen, hnd, fun g hg => ?_, fun j g hg => ?_⟩
    · obtain ⟨j, hj⟩ := List.mem_iff_getElem?.1 hg
      obtain ⟨hall, hlt, htest, hparts, hlost, -⟩ := h j g hj
      exact State.mem_freeGroups.2 ⟨hlt, hall, hparts, htest, State.groupLost_eq_false.2 hlost⟩
    · obtain ⟨-, -, -, -, -, hdie, htime⟩ := h j g hg
      rw [Nat.zero_add]
      exact (State.groupFits_iff hd).2 ⟨hdie, htime⟩

/-- Whether a variant fits the free resources. -/
theorem State.fits_avail_iff {s : State} {l : Launch} {v : Variant} {n : Tenant}
    (hn : s.tenants.find? (fun t => t.num == l.tenant) = some n) (hpos : 0 < v.ncore) (h4 : v.ncore % 4 = 0)
    (hmax : v.ncore ≤ 384) :
    let lost (cl : Nat) : Prop := ∃ u ∈ s.lasting, ∃ c, c / 8 = cl ∧ (u = .coreArrays c ∨ ∃ b, u = .spadBank c b)
    (s.fits s.avail l v = true ↔ 4352 + 1268224 * v.ncore ≤ n.dumpLen ∧ (v.links = [] ∨ s.linksFree l.link v.links = true) ∧
      (l.members = 0 ∨ ∀ q ∈ s.parts, q.group ≠ some l.group) ∧ ∃ dies quads groups : List Nat,
      dies.length = (v.ncore + 95) / 96 ∧ dies.Pairwise (· < ·) ∧ (∀ d ∈ dies, d < 4) ∧
      (v.links ≠ [] → dies = List.range dies.length) ∧
      (∀ d ∈ dies, v.nslot ≤ ((s.die d).ring.toList.filter fun x => x.part == 0).length) ∧
      (∀ i d, dies[i]? = some d → v.blockOf i = [] ∨ ∃ off, off % 16 = 0 ∧ off + (v.blockOf i).length ≤ 2 ^ 23 ∧
        ∀ x ∈ s.storeSpans d, x.2 = 0 ∨ off + (v.blockOf i).length ≤ x.1 ∨ x.1 + x.2 ≤ off) ∧
      quads.length = v.ncore / 4 ∧ quads.Pairwise (· < ·) ∧
      (∀ i k, quads[i]? = some k → dies[i / 24]? = some (k / 24) ∧ ¬ lost (k / 2) ∧
        (∀ j, j < 4 → (s.ctx (4 * k + j)).life = .idle ∧ (s.ctx (4 * k + j)).part = 0) ∧
        (i % 2 = 0 → i + 1 < quads.length → k % 2 = 0 ∧ quads[i + 1]? = some (k + 1))) ∧
      groups.length = v.groups ∧ groups.Nodup ∧ ∀ j g, groups[j]? = some g → g ∈ n.groups ∧ g < 32 ∧ g ∉ s.testing ∧
          (∀ q ∈ s.parts, g ∉ q.groups) ∧ (∀ u ∈ s.lasting, u ≠ .nmUnit (g / 4) ∧ ∀ st ch b, u = .dramBank st ch b → st * 4 + ch / 16 ≠ g) ∧
          (if j < 8 * dies.length then dies[j % dies.length]? = some (g / 8) else g / 8 ∉ dies) ∧
          ∀ t ∈ v.timelines, t.chan / 16 = j → t.timed (s.timing (g / 4)) = true) := by
  intro lost
  have hlost (k : Nat) : lost k ↔ s.clusterLost k = true := State.clusterLost_iff.symm
  rw [State.fits_iff hn h4 hmax]
  simp only [hlost, ← State.blockFits_iff]
  refine and_congr_right fun _ => and_congr_right fun _ => and_congr_right fun _ => exists_congr fun dies =>
    exists_congr fun quads => ?_
  constructor
  · rintro ⟨hlen, hrise, hlt, hlink, hring, hst, ⟨gs, hgs⟩, hshape⟩
    obtain ⟨hq1, hq2, hq3⟩ := (State.shaped_avail_iff hlt).1 hshape
    exact ⟨gs, hlen, hrise, hlt, hlink, hring, hst, hq1, hq2, hq3, (State.taken_iff (by omega)).1 hgs⟩
  · rintro ⟨gs, hlen, hrise, hlt, hlink, hring, hst, hq1, hq2, hq3, hgs⟩
    exact ⟨hlen, hrise, hlt, hlink, hring, hst, ⟨gs, (State.taken_iff (by omega)).2 hgs⟩,
      (State.shaped_avail_iff hlt).2 ⟨hq1, hq2, hq3⟩⟩

end Sys2Proof.Machine
end

section
namespace Sys2Proof.Machine

/-! ### What the resources of a placement leave as it is -/

/-- What the registrar's own steps go by: the time, the partitions, the launches, the services and what they hold. -/
def State.desk (s : State) : Nat × List Part × List Launch × Vector Svc 3 × List (Nat × Timed) :=
  (s.gtc, s.parts, s.launches, s.svcs, s.heldWork)

theorem State.desk_eq {s t : State} (h : t.desk = s.desk) :
    t.gtc = s.gtc ∧ t.parts = s.parts ∧ t.launches = s.launches ∧ t.svcs = s.svcs ∧ t.heldWork = s.heldWork := by
  simpa [State.desk] using h

@[simp] theorem State.placeBlocks_desk (s : State) (q : Part) (v : Variant) : (s.placeBlocks q v).desk = s.desk :=
  foldl_keeps State.desk (fun _ _ => by split <;> rfl) _ _
@[simp] theorem State.takeSlots_desk (s : State) (q : Part) (n : Nat) : (s.takeSlots q n).desk = s.desk :=
  foldl_keeps State.desk (by intros; rfl) _ _
@[simp] theorem State.loadCores_desk (s : State) (q : Part) (v : Variant) : (s.loadCores q v).desk = s.desk :=
  foldl_keeps State.desk (by intros; rfl) _ _
@[simp] theorem State.claimAll_desk (s : State) (q : Part) : (s.claimAll q).desk = s.desk := by
  unfold State.claimAll
  split
  · rfl
  · exact foldl_keeps State.desk (by intros; rfl) _ _
@[simp] theorem State.grant_desk (s : State) (q : Part) : (s.grant q).desk = s.desk := rfl

/-- The cores and the dies. -/
def State.hardware (s : State) : Vector Core 384 × Vector Die 4 := (s.cores, s.dies)

theorem State.presentImage_keeps {β : Type} (p : State → β) (h : ∀ s a, p (State.present s a) = p s) (s : State) (q : Part)
    (d : DataImage) : p (s.presentImage q d) = p s :=
  foldl_keeps p (fun _ _ => by split <;> simp [h]) _ _
theorem State.presentImages_keeps {β : Type} (p : State → β) (h : ∀ s a, p (State.present s a) = p s) (s : State) (q : Part)
    (v : Variant) : p (s.presentImages q v) = p s :=
  foldl_keeps p (fun s d => State.presentImage_keeps p h s q d) _ _

@[simp] theorem State.presentImages_desk (s : State) (q : Part) (v : Variant) : (s.presentImages q v).desk = s.desk :=
  State.presentImages_keeps State.desk (by intros; rfl) s q v
@[simp] theorem State.presentImages_hardware (s : State) (q : Part) (v : Variant) :
    (s.presentImages q v).hardware = s.hardware :=
  State.presentImages_keeps State.hardware (by intros; rfl) s q v
@[simp] theorem State.claimAll_hardware (s : State) (q : Part) : (s.claimAll q).hardware = s.hardware := by
  unfold State.claimAll
  split
  · rfl
  · exact foldl_keeps State.hardware (by intros; rfl) _ _
@[simp] theorem State.loadCores_dies (s : State) (q : Part) (v : Variant) : (s.loadCores q v).dies = s.dies :=
  foldl_keeps State.dies (by intros; rfl) _ _

/-! ### Loading, one place after another -/

/-- What one step of a fold settles, the others keeping it, holds in the end. -/
theorem foldl_settles {α : Type} {f : State → α → State} {P : State → Prop} {I : State → Prop} {x : α} {xs : List α}
    (hx : x ∈ xs) (hn : xs.Nodup) (hI : ∀ s y, I s → I (f s y)) (hset : ∀ s, I s → P (f s x))
    (hkeep : ∀ s y, y ∈ xs → y ≠ x → P s → P (f s y)) {s : State} (h : I s) : P (xs.foldl f s) := by
  have hrest (ys : List α) (hsub : ∀ y ∈ ys, y ∈ xs ∧ y ≠ x) (s : State) (h : P s) : P (ys.foldl f s) := by
    induction ys generalizing s with
    | nil => exact h
    | cons y ys ih =>
      obtain ⟨hy, hys⟩ := List.forall_mem_cons.1 hsub
      exact ih hys _ (hkeep s y hy.1 hy.2 h)
  have hpre (ys : List α) (s : State) (h : I s) : I (ys.foldl f s) := by
    induction ys generalizing s with
    | nil => exact h
    | cons y ys ih => exact ih _ (hI s y h)
  obtain ⟨as, bs, rfl⟩ := List.append_of_mem hx
  rw [List.foldl_append, List.foldl_cons]
  refine hrest bs (fun y hy => ⟨by simp [hy], ?_⟩) _ (hset _ (hpre as s h))
  rintro rfl
  have := (List.nodup_append.1 hn).2.1
  exact (List.nodup_cons.1 this).1 hy

theorem State.core_setCore_self {s : State} {c : Nat} (h : c < 384) (k : Core) : (s.setCore c k).core c = k := by
  simp [State.core, State.setCore, h]
theorem State.core_setCore_ne {s : State} {c d : Nat} (h : d ≠ c) (k : Core) : (s.setCore c k).core d = s.core d := by
  simp [State.core, State.setCore, Ne.symm h]
theorem State.die_modDie_self {s : State} {d : Nat} (h : d < 4) (f : Die → Die) : (s.modDie d f).die d = f (s.die d) := by
  simp [State.die, State.modDie, h]
theorem State.die_modDie_ne {s : State} {d e : Nat} (h : e ≠ d) (f : Die → Die) : (s.modDie d f).die e = s.die e := by
  simp [State.die, State.modDie, Ne.symm h]

/-- A change of a die that keeps a field keeps it on every die. -/
theorem State.die_modDie_field {β : Type} {s : State} {d : Nat} {f : Die → Die} (p : Die → β) (h : ∀ x, p (f x) = p x)
    (k : Nat) : p ((s.modDie d f).die k) = p (s.die k) := by
  by_cases e : k = d
  · subst e
    by_cases hk : k < 4
    · rw [State.die_modDie_self hk, h]
    · have hk : 4 ≤ k := Nat.le_of_not_lt hk
      simp [State.die, Vector.getElem?_eq_none hk]
  · rw [State.die_modDie_ne e]

theorem getElem?_inj_of_nodup {α : Type} {xs : List α} (hn : xs.Nodup) {i j : Nat} {x : α} (hi : xs[i]? = some x)
    (hj : xs[j]? = some x) : i = j :=
  (List.getElem?_inj (List.getElem?_eq_some_iff.1 hi).1 hn).1 (hi.trans hj.symm)

theorem getD_of_getElem? {α : Type} {xs : List α} {i : Nat} {x d : α} (h : xs[i]? = some x) : xs.getD i d = x := by
  rw [List.getD_eq_getElem?_getD, h]
  rfl

/-- A loaded core (R19, R24, R196). -/
theorem State.loadCores_ctx {s : State} {q : Part} {v : Variant} {r c : Nat} (hn : q.cores.Nodup) (hr : q.cores[r]? = some c)
    (hc : c < 384) : ((s.loadCores q v).ctx c).life = .loaded ∧ (s.loadCores q v).partOf c = q.num % 256 ∧
      (s.loadCores q v).rankOf c = r % 65536 := by
  have hlt := (List.getElem?_eq_some_iff.1 hr).1
  refine foldl_settles (I := fun _ => True) (P := fun t => (t.ctx c).life = .loaded ∧ t.partOf c = q.num % 256 ∧
    t.rankOf c = r % 65536) (x := r) (List.mem_range.2 hlt) List.nodup_range (by simp) (fun s _ => ?_)
    (fun s k hk hne h => ?_) trivial
  · simp only [getD_of_getElem? hr, State.partOf, State.rankOf, State.ctx, State.core_setCore_self hc]
    refine ⟨rfl, ?_, ?_⟩
    · simp only [State.launchCtx, Ctx.part, BitVec.toNat_ofNat]
      omega
    · simp only [State.launchCtx, Ctx.rank, BitVec.toNat_ofNat]
      omega
  · have hk := List.mem_range.1 hk
    have hd : q.cores.getD k 0 ≠ c := fun e => hne <| getElem?_inj_of_nodup hn (x := c) (by
      rw [← e, List.getD_eq_getElem?_getD, List.getElem?_eq_getElem hk]
      rfl) hr
    simpa only [State.partOf, State.rankOf, State.ctx, State.core_setCore_ne hd.symm] using h

/-- A block in the program store of its die. -/
theorem State.placeBlocks_store {s : State} {q : Part} {v : Variant} {i d : Nat} (hn : q.dies.Nodup) (hd : q.dies[i]? = some d)
    (hlt : d < 4) (hb : v.blockOf i ≠ []) (hwf : ∀ d, (s.die d).store.wf = true) (k : Nat) (hk : k < (v.blockOf i).length) :
    ((s.placeBlocks q v).die d).store.read (q.offsets.getD i 0 + k) = (v.blockOf i)[k] := by
  have hi := (List.getElem?_eq_some_iff.1 hd).1
  refine foldl_settles (I := fun s => ∀ d, (s.die d).store.wf = true)
    (P := fun s => (s.die d).store.read (q.offsets.getD i 0 + k) = (v.blockOf i)[k])
    (List.mem_range.2 hi) List.nodup_range (fun s j h e => ?_) (fun s h => ?_) (fun s j hj hne h => ?_) hwf
  · split
    · exact h e
    · by_cases he : e = q.dies.getD j 4 ∧ e < 4
      · rw [← he.1, State.die_modDie_self he.2]
        exact Mem.writeBytes_wf (h e) ..
      · by_cases he4 : e < 4
        · rw [State.die_modDie_ne fun e' => he ⟨e', he4⟩]
          exact h e
        · have he4 : 4 ≤ e := Nat.le_of_not_lt he4
          simp [State.die, Vector.getElem?_eq_none he4, Die.reset, Mem.wf]
  · rw [if_neg (by simpa using hb), getD_of_getElem? hd, State.die_modDie_self hlt, Mem.read_writeBytes (h d),
      if_pos (by omega), Nat.add_sub_cancel_left, List.getD_eq_getElem?_getD, List.getElem?_eq_getElem hk]
    rfl
  · have hj := List.mem_range.1 hj
    have hd' : q.dies.getD j 4 ≠ d := fun e => hne <| getElem?_inj_of_nodup hn (x := d) (by
      rw [← e, List.getD_eq_getElem?_getD, List.getElem?_eq_getElem hj]
      rfl) hd
    split
    · exact h
    · rwa [State.die_modDie_ne hd'.symm]

@[simp] theorem State.placeBlocks_ring (s : State) (q : Part) (v : Variant) (d : Nat) :
    ((s.placeBlocks q v).die d).ring = (s.die d).ring :=
  foldl_keeps (fun s => (s.die d).ring) (fun s i => by
    split
    · rfl
    · exact State.die_modDie_field Die.ring (by intros; rfl) d) _ _

@[simp] theorem State.takeSlots_store (s : State) (q : Part) (n d : Nat) :
    ((s.takeSlots q n).die d).store = (s.die d).store :=
  foldl_keeps (fun s => (s.die d).store) (fun s i => State.die_modDie_field Die.store (by intros; rfl) d) _ _

/-- The slots of a partition stand where the ring was unassigned. -/
theorem assignSlots_spec {p n : Nat} (k0 : Nat) {xs : List StageSlot}
    (h : n ≤ (xs.filter fun x : StageSlot => x.part == 0).length)
    (k : Nat) (hk : k < n) : ∃ (i : Nat) (x : StageSlot), xs[i]? = some x ∧ x.part = 0 ∧
      (assignSlots p n k0 xs)[i]? = some { StageSlot.free with part := p, k := k0 + k } := by
  induction xs generalizing n k0 k with
  | nil => simp at h; omega
  | cons x xs ih =>
    obtain ⟨n, rfl⟩ : ∃ m, n = m + 1 := ⟨n - 1, by omega⟩
    by_cases hx : x.part = 0
    · simp only [assignSlots, if_pos hx]
      rw [List.filter_cons_of_pos (by simpa using hx), List.length_cons] at h
      cases k with
      | zero => exact ⟨0, x, rfl, hx, rfl⟩
      | succ k =>
        obtain ⟨i, y, hy, hy0, hi⟩ := ih (k0 + 1) (Nat.le_of_succ_le_succ h) k (Nat.lt_of_succ_lt_succ hk)
        exact ⟨i + 1, y, hy, hy0, by simpa [Nat.add_assoc, Nat.add_comm 1] using hi⟩
    · simp only [assignSlots, if_neg hx]
      rw [List.filter_cons_of_neg (by simpa using hx)] at h
      obtain ⟨i, y, hy, hy0, hi⟩ := ih k0 h k hk
      exact ⟨i + 1, y, hy, hy0, hi⟩

/-- One change of each of some different dies. -/
theorem State.die_foldl_modDie {ds : List Nat} (hn : ds.Nodup) (hlt : ∀ d ∈ ds, d < 4) (f : Die → Die) (s : State)
    (k : Nat) : (ds.foldl (fun s d => s.modDie d f) s).die k = if k ∈ ds then f (s.die k) else s.die k := by
  induction ds generalizing s with
  | nil => rfl
  | cons d ds ih =>
    obtain ⟨hd, hn⟩ := List.nodup_cons.1 hn
    obtain ⟨hd4, hlt⟩ := List.forall_mem_cons.1 hlt
    rw [List.foldl_cons, ih hn hlt]
    by_cases hk : k = d
    · subst hk
      simp [hd, State.die_modDie_self hd4]
    · simp [hk, State.die_modDie_ne hk]

/-- The stage slots that a partition takes of a die. -/
theorem State.takeSlots_slot {s : State} {q : Part} {n d : Nat} (hn : q.dies.Nodup) (hlt : ∀ d ∈ q.dies, d < 4)
    (hd : d ∈ q.dies) (h : n ≤ ((s.die d).ring.toList.filter fun x => x.part == 0).length) (k : Nat) (hk : k < n) :
    ∃ i : Fin 16, (s.die d).ring[i].part = 0 ∧ ((s.takeSlots q n).die d).ring[i].part = q.num ∧
      ((s.takeSlots q n).die d).ring[i].k = k := by
  have hring : ((s.takeSlots q n).die d).ring = ringOf (assignSlots q.num n 0 (s.die d).ring.toList) := by
    unfold State.takeSlots
    rw [State.die_foldl_modDie hn hlt, if_pos hd]
  obtain ⟨i, x, hx, hx0, hi⟩ := assignSlots_spec (p := q.num) 0 h k hk
  have hi16 : i < 16 := by simpa using (List.getElem?_eq_some_iff.1 hx).1
  refine ⟨⟨i, hi16⟩, ?_⟩
  have hold : (s.die d).ring[i] = x := by simpa using (List.getElem?_eq_some_iff.1 hx).2
  have hnew : ((s.takeSlots q n).die d).ring[i] = { StageSlot.free with part := q.num, k := k } := by
    simp only [hring, ringOf, Vector.getElem_ofFn]
    rw [getD_of_getElem? hi, Nat.zero_add]
  simp only [Fin.getElem_fin, hold, hnew]
  exact ⟨hx0, trivial, trivial⟩

/-! ### Admission (R195, R210, R220, R409) -/

/-- The cores of some quads, by number. -/
theorem coresOf_getElem? (quads : List Nat) (r : Nat) : (coresOf quads)[r]? = (quads[r / 4]?).map (4 * · + r % 4) := by
  induction quads generalizing r with
  | nil => simp [coresOf]
  | cons k quads ih =>
    have hcons : coresOf (k :: quads) = [4 * k, 4 * k + 1, 4 * k + 2, 4 * k + 3] ++ coresOf quads := rfl
    rw [hcons, List.getElem?_append]
    split
    case isTrue h =>
      have h : r < 4 := h
      rw [Nat.div_eq_of_lt h, Nat.mod_eq_of_lt h]
      match r, h with
      | 0, _ | 1, _ | 2, _ | 3, _ => rfl
    case isFalse h =>
      have h : ¬ r < 4 := h
      rw [show r / 4 = (r - 4) / 4 + 1 by omega, show r % 4 = (r - 4) % 4 by omega]
      exact ih (r - 4)

theorem coresOf_length (quads : List Nat) : (coresOf quads).length = 4 * quads.length := by
  induction quads with
  | nil => rfl
  | cons k quads ih =>
    have hcons : coresOf (k :: quads) = [4 * k, 4 * k + 1, 4 * k + 2, 4 * k + 3] ++ coresOf quads := rfl
    rw [hcons, List.length_append, ih, List.length_cons]
    simp only [List.length_cons, List.length_nil]
    omega

/-- A core of some quads lies in the quad that its number gives. -/
theorem coresOf_get {quads : List Nat} {r c : Nat} (h : (coresOf quads)[r]? = some c) :
    quads[r / 4]? = some (c / 4) ∧ c % 4 = r % 4 := by
  rw [coresOf_getElem?] at h
  obtain ⟨k, hk, rfl⟩ := Option.map_eq_some_iff.1 h
  exact ⟨by rw [hk]; congr 1; omega, by omega⟩

theorem rising_get {xs : List Nat} (h : xs.Pairwise (· < ·)) {i j x y : Nat} (hi : xs[i]? = some x) (hj : xs[j]? = some y)
    (hij : i < j) : x < y := by
  obtain ⟨hi', rfl⟩ := List.getElem?_eq_some_iff.1 hi
  obtain ⟨hj', rfl⟩ := List.getElem?_eq_some_iff.1 hj
  exact List.pairwise_iff_getElem.1 h i j hi' hj' hij

theorem coresOf_rising {quads : List Nat} (h : quads.Pairwise (· < ·)) {r r' c c' : Nat} (hr : (coresOf quads)[r]? = some c)
    (hr' : (coresOf quads)[r']? = some c') (hlt : r < r') : c < c' := by
  obtain ⟨hq, hm⟩ := coresOf_get hr
  obtain ⟨hq', hm'⟩ := coresOf_get hr'
  rcases Nat.lt_or_ge (r / 4) (r' / 4) with h4 | h4
  · have := rising_get h hq hq' h4
    omega
  · rw [show r' / 4 = r / 4 by omega, hq] at hq'
    have : c / 4 = c' / 4 := by simpa using hq'
    omega

theorem coresOf_nodup {quads : List Nat} (h : quads.Pairwise (· < ·)) : (coresOf quads).Nodup := by
  refine List.Pairwise.imp (fun h => Nat.ne_of_lt h) (List.pairwise_iff_getElem.2 fun i j hi hj hij => ?_)
  exact coresOf_rising h (List.getElem?_eq_getElem hi) (List.getElem?_eq_getElem hj) hij

/-- Ranks of one cluster are those whose cores stand in one physical cluster (R195, R409). -/
theorem Shaped.cluster_iff {quad : Nat → Bool} {n : Nat} {dies quads : List Nat} (h : Shaped quad n dies quads)
    {i j k m : Nat} (hi : quads[i]? = some k) (hj : quads[j]? = some m) (hij : i ≤ j) : i / 2 = j / 2 ↔ k / 2 = m / 2 := by
  have hjlt := (List.getElem?_eq_some_iff.1 hj).1
  rcases Nat.eq_or_lt_of_le hij with rfl | hlt
  · obtain rfl : k = m := by simpa [hi] using hj
    simp
  constructor
  · intro hc
    obtain ⟨hk, hnext⟩ := h.paired i k hi (by omega) (by omega)
    obtain rfl : k + 1 = m := by rw [show i + 1 = j by omega, hj] at hnext; simpa [eq_comm] using hnext
    omega
  · intro hc
    by_contra hne
    -- the first quad of the later cluster, and the last of the earlier, stand between the two
    have hkm := rising_get h.rising hi hj hlt
    have hm : m = k + 1 := by omega
    have hnext : j = i + 1 := by
      by_contra hgap
      obtain ⟨x, hx⟩ : ∃ x, quads[i + 1]? = some x := ⟨_, List.getElem?_eq_getElem (by omega)⟩
      have := rising_get h.rising hi hx (by omega)
      have := rising_get h.rising hx hj (by omega)
      omega
    subst hnext
    have hodd : i % 2 = 1 := by omega
    obtain ⟨x, hx⟩ : ∃ x, quads[i - 1]? = some x := ⟨_, List.getElem?_eq_getElem (by omega)⟩
    obtain ⟨hx2, hnext⟩ := h.paired (i - 1) x hx (by omega) (by omega)
    rw [show i - 1 + 1 = i by omega, hi] at hnext
    have : k = x + 1 := by simpa using hnext
    omega

end Sys2Proof.Machine
end

section
namespace Sys2Proof.Machine

/-- The partition that an admission makes. -/
def State.newPart (s : State) (l : Launch) (vn : Nat) (v : Variant) (bell num : Nat) (dies quads : List Nat) : Part :=
  let pick (k : Nat) : Nat := Config.freeNat (s.free + k)
  let allowed := ((s.tenants.find? fun t => t.num == l.tenant).map (·.groups)).getD []
  let groups := (takeGroups (s.groupFits v dies) (fun j => pick (16 + j)) v.groups 0 (s.freeGroups allowed)).getD []
  let y := l.syl.getD { name := [], level := 0, preds := [], variants := [], pigeons := [], equiv := [] }
  let word126 := completion 0 vn l.sub
  let pigs : Vector Word 128 := Vector.ofFn fun i =>
    if i.val = 126 then word126 else if i.val = 127 then s.offev else y.pigeons.getD i.val 0
  let q0 := Part.fresh num l.tenant (coresOf quads) bell .loaded
  let offs := s.chooseOffsets v dies fun k => pick (2 + k)
  { q0 with sub := l.sub, variant := vn, dies := dies, groups := groups, offsets := offs, pigLive := pigs, pigLatched := pigs,
            regions := v.regions.map (relocate groups), timelines := v.timelines.map Timeline.relocate,
            claims := v.links, group := l.link, shown := quads, shownVar := vn, shownOffsets := offs }

/-- A partition enters the machine: its blocks, its slots, its cores, its tables and its images. -/
def State.enterPart (s : State) (q : Part) (v : Variant) : State :=
  let s : State := { s with free := s.free + 64, parts := s.parts ++ [q] }
  let s := (s.placeBlocks q v).takeSlots q v.nslot
  let s := s.loadCores q v
  ((s.claimAll q).grant q).presentImages q v

/-- A launch is admitted, and its partition starts at a bell. -/
def State.settle (s : State) (sub num bell : Nat) : State :=
  (s.modLaunch sub fun x => { x with state := .admitted, admitted := s.gtc, headSince := none }).schedG bell [0, 3, num]
    (.partitionStart num)

theorem State.admission_eq {s : State} {l : Launch} {vn bell num : Nat} {v : Variant} {dies quads : List Nat}
    (hplace : choose (s.choices s.avail (((s.tenants.find? fun t => t.num == l.tenant).map (·.groups)).getD []) v
      (s.blockFits v) none) (Config.freeNat (s.free + 0)) = some (dies, quads))
    (hnum : choose (((List.range 96).map (· + 1)).filter fun n => (s.part n).isNone) (Config.freeNat (s.free + 1)) =
      some num) :
    s.admission l vn v bell = (s.enterPart (s.newPart l vn v bell num dies quads) v).settle l.sub num bell := by
  simp only [State.admission, hplace, hnum]
  rfl

/-- A choice among some things is one of them. -/
theorem choose_of_ne_nil {α : Type} {xs : List α} (h : xs ≠ []) (k : Nat) : ∃ x, choose xs k = some x ∧ x ∈ xs := by
  have hlt : k % xs.length < xs.length := Nat.mod_lt _ (List.length_pos_iff.2 h)
  exact ⟨xs[k % xs.length], List.getElem?_eq_getElem hlt, List.getElem_mem _⟩

/-- A choice among the free partition numbers. -/
theorem State.free_number {s : State} (h : ∃ k, 1 ≤ k ∧ k ≤ 96 ∧ s.part k = none) (pick : Nat) :
    ∃ num, choose (((List.range 96).map (· + 1)).filter fun n => (s.part n).isNone) pick = some num ∧
      1 ≤ num ∧ num ≤ 96 ∧ s.part num = none := by
  obtain ⟨k, hk1, hk96, hk⟩ := h
  have hne : (((List.range 96).map (· + 1)).filter fun n => (s.part n).isNone) ≠ [] := by
    refine List.ne_nil_of_mem (a := k) (List.mem_filter.2 ⟨List.mem_map.2 ⟨k - 1, List.mem_range.2 (by omega), by omega⟩, ?_⟩)
    simp [hk]
  obtain ⟨num, hnum, hmem⟩ := choose_of_ne_nil hne pick
  obtain ⟨hr, hnone⟩ := List.mem_filter.1 hmem
  obtain ⟨j, hj, rfl⟩ := List.mem_map.1 hr
  have hj := List.mem_range.1 hj
  exact ⟨j + 1, hnum, by omega, by omega, by simpa using hnone⟩

/-- What an admission finds: a placement, and a free partition number. -/
theorem State.admission_cases {s : State} {l : Launch} {vn bell : Nat} {v : Variant} {n : Tenant}
    (hf : s.fits s.avail l v = true) (hfree : ∃ k, 1 ≤ k ∧ k ≤ 96 ∧ s.part k = none)
    (hn : s.tenants.find? (fun t => t.num == l.tenant) = some n) (h4 : v.ncore % 4 = 0) (hmax : v.ncore ≤ 384) :
    ∃ num dies quads, 1 ≤ num ∧ num ≤ 96 ∧ s.part num = none ∧ s.Place s.avail n.groups v (s.blockFits v) dies quads ∧
      s.admission l vn v bell = (s.enterPart (s.newPart l vn v bell num dies quads) v).settle l.sub num bell := by
  obtain ⟨-, -, -, dies, quads, hplace⟩ := (State.fits_iff hn h4 hmax).1 hf
  obtain ⟨⟨dies, quads⟩, hc, hmem⟩ := choose_of_ne_nil ((State.choices_ne_nil h4 hmax).2 ⟨dies, quads, hplace⟩)
    (Config.freeNat (s.free + 0))
  obtain ⟨num, hnum, h1, h96, hnone⟩ := State.free_number hfree (Config.freeNat (s.free + 1))
  exact ⟨num, dies, quads, h1, h96, hnone, (State.mem_choices h4 hmax).1 hmem, State.admission_eq (by rw [hn]; exact hc) hnum⟩

@[simp] theorem State.enterPart_desk (s : State) (q : Part) (v : Variant) :
    (s.enterPart q v).desk = ({ s with parts := s.parts ++ [q] } : State).desk := by
  simp only [State.enterPart, State.presentImages_desk, State.grant_desk, State.claimAll_desk, State.loadCores_desk,
    State.takeSlots_desk, State.placeBlocks_desk]
  rfl

/-- The state in which a partition's cores are loaded. -/
def State.placed (s : State) (q : Part) (v : Variant) : State :=
  (State.placeBlocks { s with free := s.free + 64, parts := s.parts ++ [q] } q v).takeSlots q v.nslot

theorem State.enterPart_cores (s : State) (q : Part) (v : Variant) :
    (s.enterPart q v).cores = ((s.placed q v).loadCores q v).cores := by
  have h : (s.enterPart q v).hardware = (((s.placed q v).loadCores q v).claimAll q |>.grant q).hardware :=
    State.presentImages_hardware ..
  have h2 := State.claimAll_hardware ((s.placed q v).loadCores q v) q
  simp only [State.hardware, Prod.mk.injEq] at h h2
  rw [h.1, ← h2.1]
  rfl

/-- Entries of a die's table change neither its store nor its ring. -/
theorem State.grant_die (s : State) (q : Part) (d : Nat) :
    ((s.grant q).die d).store = (s.die d).store ∧ ((s.grant q).die d).ring = (s.die d).ring := by
  have hd : (s.grant q).dies = Vector.ofFn fun i => { s.dies[i] with access := s.dies[i].access ++ q.dieEntries i } := rfl
  simp only [State.die, hd]
  by_cases h : d < 4
  · simp [h]
  · simp [h]

theorem State.enterPart_die (s : State) (q : Part) (v : Variant) (d : Nat) :
    ((s.enterPart q v).die d).store = ((s.placed q v).die d).store ∧
      ((s.enterPart q v).die d).ring = ((s.placed q v).die d).ring := by
  have h : (s.enterPart q v).hardware = (((s.placed q v).loadCores q v).claimAll q |>.grant q).hardware :=
    State.presentImages_hardware ..
  have h2 := State.claimAll_hardware ((s.placed q v).loadCores q v) q
  have h3 := State.grant_die (((s.placed q v).loadCores q v).claimAll q) q d
  simp only [State.hardware, Prod.mk.injEq] at h h2
  have hd : (s.enterPart q v).die d = ((((s.placed q v).loadCores q v).claimAll q).grant q).die d := by
    simp only [State.die, h.2]
  have hd2 : (((s.placed q v).loadCores q v).claimAll q).die d = (s.placed q v).die d := by
    simp only [State.die, h2.2, State.loadCores_dies]
  rw [hd, h3.1, h3.2, hd2]
  exact ⟨rfl, rfl⟩

/-- A block's offset lies on a step of 16 bytes (R43). -/
theorem State.chooseOffsets_step {s : State} {v : Variant} {dies : List Nat} {i d : Nat} (pick : Nat → Nat)
    (hd : dies[i]? = some d) (hb : v.blockOf i ≠ []) : (s.chooseOffsets v dies pick).getD i 0 % 16 = 0 := by
  have hi := (List.getElem?_eq_some_iff.1 hd).1
  simp only [List.getD_eq_getElem?_getD, State.chooseOffsets, List.getElem?_map, List.getElem?_range hi, Option.map_some,
    List.isEmpty_eq_false_iff.2 hb, Bool.false_eq_true, if_false, Option.getD_some]
  split
  case h_1 g hg =>
    have := (gapsIn_sound (List.length_pos_iff.2 hb) (List.mem_of_getElem? hg)).1
    omega
  case h_2 => rfl

/-- The cores of a placement: where they stand, and that they are idle. -/
theorem State.Place.core {s : State} {allowed : List Nat} {v : Variant} {store : Nat → Nat → Bool} {dies quads : List Nat}
    (h : s.Place s.avail allowed v store dies quads) {r c : Nat} (hr : (coresOf quads)[r]? = some c) :
    c < 384 ∧ c % 4 = r % 4 ∧ dies[r / 96]? = some (c / 96) ∧ (s.ctx c).life = .idle := by
  obtain ⟨hq, hm⟩ := coresOf_get hr
  obtain ⟨hd, hquad⟩ := h.shape.on _ _ hq
  obtain ⟨h96, -, hidle⟩ := State.avail_quad.1 hquad
  have hlife := (hidle (c % 4) (Nat.mod_lt _ (by decide))).1
  rw [show 4 * (c / 4) + c % 4 = c by omega] at hlife
  refine ⟨by omega, hm, ?_, hlife⟩
  rwa [show r / 4 / 24 = r / 96 by omega, show c / 4 / 24 = c / 96 by omega] at hd

/-- The groups that an admission takes, in whatever order it picks them. -/
theorem State.newPart_taken {s : State} {l : Launch} {v : Variant} {n : Tenant} {dies : List Nat} (vn bell num : Nat)
    (quads : List Nat) (hn : s.tenants.find? (fun t => t.num == l.tenant) = some n)
    (h : ∃ gs, Taken (s.groupFits v dies) v.groups 0 (s.freeGroups n.groups) gs) :
    Taken (s.groupFits v dies) v.groups 0 (s.freeGroups n.groups) (s.newPart l vn v bell num dies quads).groups := by
  obtain ⟨gs, hgs⟩ := h
  have hg : (s.newPart l vn v bell num dies quads).groups = (takeGroups (s.groupFits v dies)
      (fun j => Config.freeNat (s.free + (16 + j))) v.groups 0 (s.freeGroups n.groups)).getD [] := by
    simp only [State.newPart, hn]
    rfl
  obtain ⟨gs', hsome⟩ := Option.isSome_iff_exists.1
    (takeGroups_isSome (fun j => Config.freeNat (s.free + (16 + j))) hgs)
  rw [hg, hsome]
  exact takeGroups_sound hsome

/-- A partition that has entered is the one of its number, and its start is set. -/
theorem State.settle_enterPart {s : State} {q : Part} {v : Variant} {l : Launch} (hnone : s.part q.num = none)
    (hl : s.launch l.sub = some l) (bell : Nat) :
    ((s.enterPart q v).settle l.sub q.num bell).part q.num = some q ∧
      (((s.enterPart q v).settle l.sub q.num bell).launch l.sub).map Launch.state = some .admitted ∧
      ((s.enterPart q v).settle l.sub q.num bell).Later none bell (.partitionStart q.num) := by
  obtain ⟨-, hparts, hlaunches, -⟩ := State.desk_eq (State.enterPart_desk s q v)
  refine ⟨?_, ?_, State.later_schedG ..⟩
  · have : ((s.enterPart q v).settle l.sub q.num bell).parts = s.parts ++ [q] := hparts
    simp only [State.part, this, List.find?_append]
    rw [show s.parts.find? (fun x => x.num == q.num) = none from hnone]
    simp
  · have h : (s.enterPart q v).launch l.sub = some l := by simp only [State.launch, hlaunches]; exact hl
    exact congrArg (Option.map Launch.state) (State.launch_modLaunch_self (s := s.enterPart q v)
      (f := fun x => { x with state := .admitted, admitted := (s.enterPart q v).gtc, headSince := none }) (fun _ => rfl) h)

/-- An admitted launch's partition: what it takes, where it stands, and when it starts. -/
theorem State.admission_admits {s : State} {l : Launch} {vn bell : Nat} {v : Variant} {n : Tenant}
    (hl : s.launch l.sub = some l) (hf : s.fits s.avail l v = true) (hfree : ∃ k, 1 ≤ k ∧ k ≤ 96 ∧ s.part k = none)
    (hn : s.tenants.find? (fun t => t.num == l.tenant) = some n) (hpos : 0 < v.ncore) (h4 : v.ncore % 4 = 0)
    (hmax : v.ncore ≤ 384) (hwf : ∀ d, (s.die d).store.wf = true) :
    let t := s.admission l vn v bell
    ∃ q : Part, t.part q.num = some q ∧ 1 ≤ q.num ∧ q.num ≤ 96 ∧ s.part q.num = none ∧ q.sub = l.sub ∧ q.variant = vn ∧
      q.tenant = l.tenant ∧ q.status = .loaded ∧ (t.launch l.sub).map Launch.state = some .admitted ∧
      t.Later none bell (.partitionStart q.num) ∧ q.cores.length = v.ncore ∧ q.dies.length = (v.ncore + 95) / 96 ∧
      q.dies.Pairwise (· < ·) ∧ (v.links ≠ [] → q.dies = List.range q.dies.length) ∧
      (∀ r c, q.cores[r]? = some c → c < 384 ∧ c % 4 = r % 4 ∧ q.dies[r / 96]? = some (c / 96) ∧ (s.ctx c).life = .idle ∧
        (t.ctx c).life = .loaded ∧ t.partOf c = q.num ∧ t.rankOf c = r) ∧
      (∀ r r' c c', q.cores[r]? = some c → q.cores[r']? = some c' → r < r' → c < c' ∧ (r / 8 = r' / 8 ↔ c / 8 = c' / 8)) ∧
      (∀ d ∈ q.dies, ∀ k, k < v.nslot → ∃ i : Fin 16, (s.die d).ring[i].part = 0 ∧ (t.die d).ring[i].part = q.num ∧
        (t.die d).ring[i].k = k) ∧
      q.groups.length = v.groups ∧ q.groups.Nodup ∧ (∀ g ∈ q.groups, g ∈ n.groups ∧ ∀ x ∈ s.parts, g ∉ x.groups) ∧
      (∀ j g, q.groups[j]? = some g → if j < 8 * q.dies.length then q.dies[j % q.dies.length]? = some (g / 8)
        else g / 8 ∉ q.dies) ∧
      ∀ d die, q.dies[d]? = some die → v.blockOf d ≠ [] → q.offsets.getD d 0 % 16 = 0 ∧
        ∀ k, (hk : k < (v.blockOf d).length) → (t.die die).store.read (q.offsets.getD d 0 + k) = (v.blockOf d)[k] := by
  intro t
  obtain ⟨num, dies, quads, h1, h96, hnone, hplace, ht⟩ := State.admission_cases hf hfree hn (bell := bell) (vn := vn) h4 hmax
  have hgroups := State.newPart_taken vn bell num quads hn hplace.groups
  have hget {r c : Nat} := hplace.core (r := r) (c := c)
  obtain ⟨hlen, hrise, hlt, hlink, hring, -, -, hshape⟩ := hplace
  generalize hq : s.newPart l vn v bell num dies quads = q at ht hgroups
  have hqnum : q.num = num := by rw [← hq]; rfl
  have hqcores : q.cores = coresOf quads := by rw [← hq]; rfl
  have hqdies : q.dies = dies := by rw [← hq]; rfl
  obtain ⟨pick, hpick⟩ : ∃ pick, q.offsets = s.chooseOffsets v dies pick :=
    ⟨fun k => Config.freeNat (s.free + (2 + k)), by rw [← hq]; rfl⟩
  obtain ⟨hsub, hvar, hten, hst⟩ : q.sub = l.sub ∧ q.variant = vn ∧ q.tenant = l.tenant ∧ q.status = .loaded := by
    rw [← hq]; exact ⟨rfl, rfl, rfl, rfl⟩
  clear hq
  subst hqnum
  have htq : t = (s.enterPart q v).settle l.sub q.num bell := ht
  obtain ⟨hpart, hlaunch, hlater⟩ := State.settle_enterPart (v := v) hnone hl bell
  rw [← htq] at hpart hlaunch hlater
  have hcore (c : Nat) : t.core c = ((s.placed q v).loadCores q v).core c := by
    simp only [State.core]
    rw [← State.enterPart_cores, htq]
    rfl
  have hdie (d : Nat) : (t.die d).store = ((s.placed q v).die d).store ∧ (t.die d).ring = ((s.placed q v).die d).ring := by
    have : t.die d = (s.enterPart q v).die d := by rw [htq]; rfl
    rw [this]
    exact State.enterPart_die s q v d
  have hcl : (coresOf quads).length = v.ncore := by rw [coresOf_length, hshape.length]; omega
  have hcl : (coresOf quads).length = v.ncore := by rw [coresOf_length, hshape.length]; omega
  have hnodup : (coresOf quads).Nodup := coresOf_nodup hshape.rising
  refine ⟨q, hpart, h1, h96, hnone, hsub, hvar, hten, hst, hlaunch, hlater, ?_⟩
  rw [hqcores, hqdies]
  refine ⟨hcl, hlen, hrise, hlink, fun r c hr => ?_, fun r r' c c' hr hr' hlt => ⟨coresOf_rising hshape.rising hr hr' hlt, ?_⟩,
    fun d hd k hk => ?_, hgroups.length, hgroups.nodup, fun g hg => ?_, fun j g hj => ?_, fun i d hd hb => ⟨?_, fun k hk => ?_⟩⟩
  · obtain ⟨hc, hm, hd, hidle⟩ := hget hr
    have hrlt : r < v.ncore := hcl ▸ (List.getElem?_eq_some_iff.1 hr).1
    obtain ⟨hlife, hpo, hro⟩ := State.loadCores_ctx (s := s.placed q v) (v := v) (q := q) (hqcores ▸ hnodup) (hqcores ▸ hr) hc
    simp only [State.partOf, State.rankOf, State.ctx, hcore] at hlife hpo hro ⊢
    exact ⟨hc, hm, hd, hidle, hlife, by rw [hpo]; omega, by rw [hro]; omega⟩
  · obtain ⟨hq1, -⟩ := coresOf_get hr
    obtain ⟨hq2, -⟩ := coresOf_get hr'
    have := hshape.cluster_iff hq1 hq2 (by omega)
    omega
  · have hfits : v.nslot ≤ (((State.placeBlocks { s with free := s.free + 64, parts := s.parts ++ [q] } q v).die d).ring.toList.filter
        fun x => x.part == 0).length := by
      rw [State.placeBlocks_ring]
      exact hring d hd
    have hslot := State.takeSlots_slot (q := q) (hqdies ▸ hrise.nodup) (hqdies ▸ hlt) (hqdies ▸ hd) hfits k hk
    rw [State.placeBlocks_ring] at hslot
    rw [(hdie d).2]
    exact hslot
  · obtain ⟨-, hall, hparts, -⟩ := State.mem_freeGroups.1 (hgroups.free g hg)
    exact ⟨hall, hparts⟩
  · have := ((State.groupFits_iff (by omega)).1 (hgroups.suits j g hj)).1
    rwa [Nat.zero_add] at this
  · rw [hpick]
    exact State.chooseOffsets_step pick hd hb
  · rw [(hdie d).1, State.placed, State.takeSlots_store]
    exact State.placeBlocks_store (s := { s with free := s.free + 64, parts := s.parts ++ [q] }) (hqdies ▸ hrise.nodup) (hqdies ▸ hd) (hlt d (List.mem_of_getElem? hd)) hb hwf k hk

end Sys2Proof.Machine
end

section
namespace Sys2Proof.Machine

/-! ### The words that a bell latches stay latched (R78) -/

/-- A partition's number and its latched pigeonholes. -/
def Part.mark (q : Part) : Nat × Vector Word 128 := (q.num, q.pigLatched)

/-- The time, and the latched pigeonholes of every partition. -/
def State.marks (s : State) : Nat × List (Nat × Vector Word 128) := (s.gtc, s.parts.map Part.mark)

theorem State.marks_of_desk {s t : State} (h : t.desk = s.desk) : t.marks = s.marks := by
  obtain ⟨hg, hp, -⟩ := State.desk_eq h
  simp only [State.marks, hg, hp]

theorem State.marks_modPart {s : State} {p : Nat} {f : Part → Part} (hf : ∀ q, (f q).mark = q.mark) :
    (s.modPart p f).marks = s.marks := by
  simp only [State.marks, State.modPart, List.map_map]
  congr 1
  refine List.map_congr_left fun q _ => ?_
  simp only [Function.comp_apply]
  split
  · exact hf q
  · rfl

/-- Where partitions differ in number, a number has one mark. -/
theorem State.mark_unique {s : State} (hn : (s.parts.map Part.num).Nodup) {q x : Part} (hq : q.mark ∈ s.marks.2)
    (hx : x ∈ s.parts) (h : x.num = q.num) : x.mark = q.mark := by
  obtain ⟨y, hy, hm⟩ := List.mem_map.1 hq
  have : y = x := List.inj_on_of_nodup_map hn hy hx (by rw [h]; exact congrArg Prod.fst hm)
  rw [← this, hm]

/-- A partition put in place of the one of its number. -/
theorem State.marks_replace {s : State} (hn : (s.parts.map Part.num).Nodup) {q r : Part} (hq : q.mark ∈ s.marks.2)
    (hr : r.mark = q.mark) {p : Nat} (hp : p = q.num) : (s.modPart p fun _ => r).marks = s.marks := by
  simp only [State.marks, State.modPart, List.map_map]
  congr 1
  refine List.map_congr_left fun x hx => ?_
  simp only [Function.comp_apply]
  split
  case isTrue h => rw [hr, State.mark_unique hn hq hx (by simpa [hp] using h)]
  case isFalse => rfl

@[simp] theorem State.journal_marks (s : State) (v : Service) (f : Fact) : (s.journal v f).marks = s.marks := by
  obtain ⟨-, hp, -, -, -, hg⟩ := State.journal_frame s v f
  simp only [State.marks, hp, hg]

theorem State.stated_marks {s : State} {v : Service} {f : Fact} {act : State → State} 
    (h : ∀ t, t.marks = s.marks → (act t).marks = t.marks) : (s.stated v f act).marks = s.marks := by
  simp only [State.stated]
  split
  · exact State.journal_marks ..
  · rw [h _ (State.journal_marks ..), State.journal_marks]

/-- A fold of steps that keep the marks. -/
theorem foldl_marks {α : Type} {f : State → α → State} (hf : ∀ s x, (f s x).marks = s.marks) (xs : List α) (s : State) :
    (xs.foldl f s).marks = s.marks := foldl_keeps State.marks hf xs s

@[simp] theorem State.stopMove_marks (s : State) (q : Part) : (s.stopMove q).marks = s.marks := by
  unfold State.stopMove
  split
  · rfl
  · exact State.marks_modPart (by intros; rfl)

@[simp] theorem State.pairAt_marks (s : State) (p c : Nat) : (s.pairAt p c).marks = s.marks := by
  simp only [State.marks, State.pairAt_gtc, State.pairAt_parts]

@[simp] theorem State.relive_marks (s : State) (q : Part) (a b : Life) : (s.relive q a b).marks = s.marks :=
  foldl_marks (by intros; rfl) _ _

@[simp] theorem State.enterRecess_marks (s : State) (p : Nat) (c : Cause) (i : Option Nat) :
    (s.enterRecess p c i).marks = s.marks := by
  unfold State.enterRecess
  split
  · rfl
  · rename_i q h
    have h1 := State.relive_marks (s.modPart p fun x => { x with
      status := .recessed, recess := some { e := q.ttc s.gtc, gtcE := s.gtc, cause := c, primary := i,
                                            rolled := false, unread := [] } }) q .running .recessed
    exact h1.trans (State.marks_modPart (by intros; rfl))

theorem Part.faulted_mark (q : Part) (i : Option Nat) : (q.faulted i).mark = q.mark := by
  unfold Part.faulted
  split
  · rfl
  · split <;> rfl

theorem Part.record_mark (q : Part) (g : Nat) (u : Nat → Nat) (fs : List FaultNow) : (q.record g u fs).mark = q.mark := by
  induction fs generalizing q with
  | nil => rfl
  | cons f fs ih =>
    rw [Part.record, ih]
    split <;> rfl

/-- Partitions of different numbers. -/
def State.Distinct (s : State) : Prop := (s.parts.map Part.num).Nodup

theorem State.distinct_of_marks {s t : State} (h : t.marks = s.marks) (hn : s.Distinct) : t.Distinct := by
  have hnum (s : State) : s.parts.map Part.num = s.marks.2.map Prod.fst := by simp [State.marks, Part.mark]
  unfold State.Distinct
  rw [hnum, h, ← hnum]
  exact hn

/-- The partition of a number has its mark among the marks. -/
theorem State.mark_mem {s : State} {p : Nat} {q : Part} (h : s.part p = some q) : q.mark ∈ s.marks.2 :=
  List.mem_map_of_mem (State.part_mem h)

theorem State.closePart_marks {s : State} (hn : s.Distinct) {q : Part} (hq : q.mark ∈ s.marks.2) :
    (s.closePart q).marks = s.marks := by
  unfold State.closePart
  split
  · split
    · have h (t : State) : (t.modPart q.num fun x => { x.faulted none with joining := false }).marks = t.marks :=
        State.marks_modPart fun x => Part.faulted_mark x none
      split
      · rw [State.enterRecess_marks, h]
      · exact h s
    · rfl
  · have hrec (fs : List FaultNow) (i : Option Nat) :
        (({ Part.record q s.gtc (s.ulog q) fs with faultsNow := [] } : Part).faulted i).mark = q.mark :=
      (Part.faulted_mark _ i).trans (Part.record_mark q _ _ _)
    have h := State.marks_replace hn hq (hrec (orderFaults q.faultsNow) (some q.faults.length)) rfl
    simp only
    split
    · exact h
    · rw [State.enterRecess_marks, h]

theorem State.dropPart_marks (s : State) (p : Nat) : (s.dropPart p).marks = s.marks := by
  unfold State.dropPart
  exact foldl_marks (by intros; rfl) _ _

theorem State.putSlots_marks (s : State) (q : Part) (k : List StageSlot) : (s.putSlots q k).marks = s.marks :=
  foldl_marks (by intros; rfl) _ _

theorem State.expand_marks (s : State) (c : Nat) (x : Ctx) (half : Bool) :
    (match x.seq.half half with
      | some h => if h.seg.isNone then s.expandFor x c h.ready half h.off else s
      | none => s).marks = s.marks := by
  split
  · split <;> rfl
  · rfl

theorem State.reawait_marks (s : State) (c : Nat) (x : Ctx) : (s.reawait c x).marks = s.marks := by
  simp only [State.reawait]
  have h := State.expand_marks (match x.seq.half false with
    | some h => if h.seg.isNone then
        (if x.life = .recessed ∨ x.life = .starting then s.issueFor x c x.seq.nextAt else s).expandFor x c h.ready false h.off
        else (if x.life = .recessed ∨ x.life = .starting then s.issueFor x c x.seq.nextAt else s)
    | none => (if x.life = .recessed ∨ x.life = .starting then s.issueFor x c x.seq.nextAt else s)) c x true
  refine Eq.trans h ((State.expand_marks _ c x false).trans ?_)
  split <;> rfl

theorem State.rollback_marks (s : State) (q : Part) : (s.rollback q).marks = s.marks := by
  have hfold (f : Core → Core) (s : State) : (q.cores.foldl (fun s c => s.modCore c f) s).marks = s.marks :=
    foldl_marks (by intros; rfl) _ _
  have hwait (x : State → Nat → Ctx) (s : State) :
      ((List.range q.cores.length).foldl (fun s r => s.reawait (q.cores.getD r 0) (x s r)) s).marks = s.marks :=
    foldl_marks (fun s r => State.reawait_marks ..) _ _
  have hmod (f : Part → Part) (hf : ∀ q, (f q).mark = q.mark) (s : State) : (s.modPart q.num f).marks = s.marks :=
    State.marks_modPart hf
  unfold State.rollback
  extract_lets i syn s1 s2 s3 now back s4 kept s5
  have h1 : s1.marks = s.marks := by
    refine (State.dropPart_marks ..).trans ?_
    split
    · exact State.stopMove_marks ..
    · rfl
  have h4 : s4.marks = s.marks := (hmod _ (by intros; rfl) s3).trans ((State.putSlots_marks ..).trans ((hfold _ _).trans h1))
  have h5 : s5.marks = s.marks := (hwait _ s4).trans h4
  split
  · exact h5
  · exact (State.pairAt_marks ..).trans h5

/-! #### Courses and returns -/

theorem State.fail_marks (s : State) (q : Part) : (s.fail q).marks = s.marks :=
  (State.marks_modPart (s := State.stopMove { s with free := s.free + 1 } q) (p := q.num)
    (f := fun q => { q with status := .failing }) (by intros; rfl)).trans (State.stopMove_marks ..)

theorem State.keepCores_marks (s : State) (q : Part) : (s.keepCores q).marks = s.marks :=
  (State.marks_modPart (by intros; rfl)).trans (State.stopMove_marks ..)

theorem State.gather_marks {s : State} (hn : s.Distinct) {q : Part} (hq : q.mark ∈ s.marks.2) :
    (s.gather q).marks = s.marks := by
  unfold State.gather
  extract_lets late q'
  have h : ((s.dropDue (Timed.follows q.num)).modPart q.num fun _ => q').marks = s.marks :=
    State.marks_replace (s := s.dropDue (Timed.follows q.num)) hn hq (r := q') rfl rfl
  exact (State.closePart_marks (State.distinct_of_marks h hn) (q := q') (by rw [h]; exact hq)).trans h

theorem State.takeCourse_marks (s : State) (q : Part) (r : Recess) : (s.takeCourse q r).marks = s.marks := by
  unfold State.takeCourse
  extract_lets others s1 c
  have h1 : s1.marks = s.marks := rfl
  split
  · exact h1
  · refine (State.stated_marks fun t _ => ?_).trans h1
    clear_value c
    cases c with
    | fail => exact State.fail_marks ..
    | rollback => exact State.rollback_marks ..
    | resume => exact State.keepCores_marks ..

theorem State.decideCourse_marks {s : State} (hn : s.Distinct) {q : Part} (hq : q.mark ∈ s.marks.2) :
    (s.decideCourse q).marks = s.marks := by
  unfold State.decideCourse
  split
  · rfl
  · have h := State.gather_marks hn hq
    extract_lets s1
    split
    · exact h
    · split
      · exact h
      · split
        · exact h
        · exact (State.takeCourse_marks ..).trans h

theorem State.resume_marks (s : State) (q : Part) : (s.resume q).marks = s.marks := by
  unfold State.resume
  split
  · rfl
  · exact (State.relive_marks ..).trans (State.marks_modPart (by intros; rfl))

theorem State.resumeDue_marks (s : State) (q : Part) : (s.resumeDue q).marks = s.marks := by
  unfold State.resumeDue
  split
  · rfl
  · extract_lets ready agreed s1
    split
    · exact (State.resume_marks ..).trans (State.journal_marks ..)
    · rfl

theorem State.bellEntry_marks (o : List Nat) (s : State) (q : Part) : (State.bellEntry o s q).marks = s.marks := by
  unfold State.bellEntry
  extract_lets c
  split
  · exact (State.enterRecess_marks ..).trans (State.marks_modPart (by intros; rfl))
  · rfl

theorem State.watch_marks (s : State) (q : Part) : (s.watch q).marks = s.marks := by
  unfold State.watch
  extract_lets t
  split <;> rfl

theorem State.waitOn_marks (s : State) (q : Part) : (s.waitOn q).marks = s.marks := by
  unfold State.waitOn
  split
  · exact State.marks_modPart (by intros; rfl)
  · rfl

theorem State.presentReads_marks (s : State) (u : OpenUse) (a b : Nat) (f : Nat → Nat) (n : Nat) :
    (s.presentReads u a b f n).marks = s.marks := foldl_marks (by intros; rfl) _ _

theorem State.unpark_marks (s : State) (q : Part) : (s.unpark q).marks = s.marks :=
  foldl_marks (fun _ _ => State.presentReads_marks ..) _ _

theorem State.renumber_marks (s : State) (q : Part) (onto : List Nat) : (s.renumber q onto).marks = s.marks := by
  simp only [State.marks, State.renumber, List.map_map]
  congr 1
  refine List.map_congr_left fun x _ => ?_
  simp only [Function.comp_apply]
  split <;> rfl

theorem State.takeBack_marks (s : State) (q : Part) (v : Variant) (dies quads : List Nat) :
    (s.takeBack q v dies quads).marks = s.marks := by
  unfold State.takeBack
  extract_lets cores pick offs s0 s1 k0 x0 taken s2 s3 q' now s4 s5
  have h0 : s0.marks = s.marks := State.marks_modPart (s := { s with due := _ }) (by intros; rfl)
  have h1 : s1.marks = s.marks := h0
  have h3 : s3.marks = s.marks := (foldl_marks (by intros; rfl) _ _).trans ((State.renumber_marks ..).trans h1)
  have h4 : s4.marks = s.marks := (State.marks_modPart (by intros; rfl)).trans h3
  have h5 : s5.marks = s.marks := by
    refine Eq.trans (b := (((s4.placeBlocks q' v).takeSlots q' v.nslot).putSlots q' q.keptSlots).marks) rfl ?_
    refine (State.putSlots_marks ..).trans ((State.marks_of_desk ?_).trans h4)
    rw [State.takeSlots_desk, State.placeBlocks_desk]
  exact (State.unpark_marks s5 q).trans h5

theorem State.applyItem_marks (s : State) (cores : List Nat) (old : List Core) (e : EquivLine) :
    (s.applyItem cores old e).marks = s.marks := by
  unfold State.applyItem
  extract_lets k x c
  split <;> rfl

theorem State.enterPoint_marks (s : State) (y : Syllabus) (n w line off c r : Nat) :
    (s.enterPoint y n w line off c r).marks = s.marks := by
  unfold State.enterPoint
  split <;> rfl

theorem State.reshape_marks {s : State} (hn : s.Distinct) {q : Part} (hq : q.mark ∈ s.marks.2) (y : Syllabus) (n w : Nat)
    (v : Variant) (dies quads : List Nat) : (s.reshape q y n w v dies quads).marks = s.marks := by
  unfold State.reshape
  extract_lets line old cores pick now offs s0 s1 q' s2 s3' s3 s4 s5 s6 s7 s8
  have h1 : s1.marks = s.marks := (State.dropPart_marks (s.unpark q) q.num).trans (State.unpark_marks s q)
  have h2 : s2.marks = s.marks :=
    (State.marks_replace (State.distinct_of_marks h1 hn) (q := q) (by rw [h1]; exact hq) (r := q') rfl rfl).trans h1
  have h3 : s3.marks = s.marks := h2
  have h4 : s4.marks = s.marks := (State.marks_of_desk (State.claimAll_desk s3 q')).trans h3
  have h5 : s5.marks = s.marks := by
    refine (State.marks_of_desk ?_).trans h4
    rw [State.loadCores_desk, State.takeSlots_desk, State.placeBlocks_desk]
  have h6 : s6.marks = s.marks := (foldl_marks (fun _ _ => State.applyItem_marks ..) _ _).trans h5
  have h7 : s7.marks = s.marks := (foldl_marks (fun _ _ => State.enterPoint_marks ..) _ _).trans h6
  have h8 : s8.marks = s.marks := (State.marks_modPart (by intros; rfl)).trans h7
  split
  · exact h8
  · exact (State.pairAt_marks ..).trans h8

theorem State.journalIf_marks (s : State) (c : Bool) (v : Service) (f : Fact) :
    (if c then s else s.journal v f).marks = s.marks := by
  split
  · rfl
  · exact State.journal_marks ..

theorem State.tryReturn_marks {s : State} (hn : s.Distinct) {q : Part} (hq : q.mark ∈ s.marks.2) :
    (s.tryReturn q).marks = s.marks := by
  unfold State.tryReturn
  split
  case h_2 => rfl
  case h_1 y v _ _ =>
    extract_lets pick s1 ok
    have h1 : s1.marks = s.marks := rfl
    split
    · exact (State.stated_marks fun t _ => State.takeBack_marks ..).trans h1
    · split
      · rename_i s2 _ _ _ n w vw dies quads _
        have h2 : s2.marks = s.marks := (State.journalIf_marks ..).trans h1
        split
        · exact h2
        · refine (State.stated_marks fun t ht => ?_).trans h2
          exact State.reshape_marks (State.distinct_of_marks (ht.trans h2) hn) (by rw [ht, h2]; exact hq) ..
      · exact h1

/-! #### The registrar's steps -/

theorem State.postCompletions_marks (s : State) : s.postCompletions.marks = s.marks := by
  refine foldl_marks (fun s q => ?_) _ _
  split
  · split
    · rfl
    · exact State.stated_marks (s := { s with free := s.free + 1 }) (by intros; rfl)
  · rfl

theorem State.refuse_marks (s : State) (l : Launch) (r : Nat) : (s.refuse l r).marks = s.marks :=
  State.stated_marks (by intros; rfl)

theorem State.refuseSuccessors_marks (s : State) : s.refuseSuccessors.marks = s.marks := by
  refine foldl_marks (fun s k => ?_) _ _
  split
  · rfl
  · split
    · exact State.refuse_marks ..
    · rfl

theorem State.joinQueues_marks (s : State) : s.joinQueues.marks = s.marks :=
  foldl_marks (fun _ _ => State.stated_marks (by intros; rfl)) _ _

theorem State.orderPromotions_marks (s : State) : s.orderPromotions.marks = s.marks := by
  refine foldl_marks (fun s l => ?_) _ _
  split
  · split <;> rfl
  · rfl

theorem State.preempt_marks (s : State) : s.preempt.marks = s.marks := by
  unfold State.preempt
  split
  · rfl
  · extract_lets going
    split
    · rfl
    · split
      · rfl
      · exact State.stated_marks fun t _ => foldl_marks (fun t q => State.marks_modPart (by intros; rfl)) _ _

theorem State.askImage_marks (s : State) (l : Launch) (i : Nat) : (s.askImage l i).marks = s.marks := by
  unfold State.askImage
  split
  · rfl
  · split
    · rfl
    · split <;> rfl

theorem State.receive_marks (s : State) : s.receive.marks = s.marks := by
  refine foldl_marks (fun s l => ?_) _ _
  split
  · extract_lets s1
    split
    · rfl
    · exact State.askImage_marks ..
  · rfl

/-- A machine that keeps the time, the partitions' numbers apart, and every mark of another. -/
structure State.Retains (s t : State) : Prop where
  gtc : t.gtc = s.gtc
  distinct : t.Distinct
  marks : ∀ m ∈ s.marks.2, m ∈ t.marks.2

theorem State.Retains.refl {s : State} (h : s.Distinct) : s.Retains s := ⟨rfl, h, fun _ h => h⟩

theorem State.Retains.trans {s t u : State} (h : s.Retains t) (h' : t.Retains u) : s.Retains u :=
  ⟨h'.gtc.trans h.gtc, h'.distinct, fun m hm => h'.marks m (h.marks m hm)⟩

theorem State.Retains.of_marks {s t : State} (hn : s.Distinct) (h : t.marks = s.marks) : s.Retains t :=
  ⟨congrArg Prod.fst h, State.distinct_of_marks h hn, fun m hm => by rw [h]; exact hm⟩

/-- Steps that retain, each as long as the others did. -/
theorem State.Retains.foldl {α : Type} {s : State} (hn : s.Distinct) (xs : List α) {f : State → α → State}
    (h : ∀ t, s.Retains t → ∀ x ∈ xs, t.Retains (f t x)) : s.Retains (xs.foldl f s) := by
  suffices H : ∀ (ys : List α), (∀ y ∈ ys, y ∈ xs) → ∀ t, s.Retains t → s.Retains (ys.foldl f t) from
    H xs (fun _ h => h) s (.refl hn)
  intro ys
  induction ys with
  | nil => exact fun _ t ht => ht
  | cons y ys ih =>
    intro hsub t ht
    obtain ⟨hy, hys⟩ := List.forall_mem_cons.1 hsub
    exact ih hys _ (ht.trans (h t ht y hy))

/-- A step over the partitions. -/
theorem State.eachPart_retains {s : State} (hn : s.Distinct) {f : State → Part → State}
    (h : ∀ t q, t.Distinct → q.mark ∈ t.marks.2 → (f t q).marks = t.marks) : s.Retains (s.eachPart f) := by
  refine State.Retains.foldl hn _ fun t ht p _ => ?_
  split
  case h_1 q hq => exact .of_marks ht.distinct (h t q ht.distinct (State.mark_mem hq))
  case h_2 => exact .refl ht.distinct

theorem State.part_eq_none_iff {s : State} {p : Nat} : s.part p = none ↔ p ∉ s.parts.map Part.num := by
  simp [State.part, List.find?_eq_none, List.mem_map]

theorem State.admission_retains {s : State} (hn : s.Distinct) (l : Launch) (vn : Nat) (v : Variant) (bell : Nat) :
    s.Retains (s.admission l vn v bell) := by
  cases hplace : choose (s.choices s.avail (((s.tenants.find? fun t => t.num == l.tenant).map (·.groups)).getD []) v
      (s.blockFits v) none) (Config.freeNat (s.free + 0)) with
  | none => simpa only [State.admission, hplace] using State.Retains.refl hn
  | some c =>
    cases hnum : choose (((List.range 96).map (· + 1)).filter fun n => (s.part n).isNone) (Config.freeNat (s.free + 1)) with
    | none => simpa only [State.admission, hplace, hnum] using State.Retains.refl hn
    | some num =>
      obtain ⟨dies, quads⟩ := c
      rw [State.admission_eq hplace hnum]
      have hfresh : s.part num = none := by
        have := (List.mem_filter.1 (List.mem_of_getElem? hnum)).2
        simpa using this
      generalize hq : s.newPart l vn v bell num dies quads = q
      obtain rfl : q.num = num := by rw [← hq]; rfl
      obtain ⟨hg, hp, -⟩ := State.desk_eq (State.enterPart_desk s q v)
      have hparts : ((s.enterPart q v).settle l.sub q.num bell).parts = s.parts ++ [q] := hp
      refine ⟨hg, ?_, fun m hm => ?_⟩
      · unfold State.Distinct
        rw [hparts, List.map_append, List.nodup_append]
        refine ⟨hn, by simp, fun a ha b hb => ?_⟩
        obtain rfl : b = q.num := by simpa using hb
        rintro rfl
        exact State.part_eq_none_iff.1 hfresh ha
      · simp only [State.marks, hparts, List.map_append, List.mem_append]
        exact .inl hm

theorem State.admitAt_retains {s : State} (hn : s.Distinct) (l : Launch) (vn : Nat) (v : Variant) (bell : Nat) :
    s.Retains (s.admitAt l vn v bell) := by
  have hjournal (t : State) (ht : t.Distinct) (w : Service) (f : Fact) : t.Retains (t.journal w f) :=
    .of_marks ht (State.journal_marks ..)
  unfold State.admitAt
  extract_lets s1 s2
  have h1 : s.Retains s1 := .of_marks hn (State.journalIf_marks ..)
  have h2 : s1.Retains s2 := by
    simp only [s2, State.stated]
    have hj := hjournal s1 h1.distinct .registrar .admission
    split
    · exact hj
    · exact hj.trans (State.admission_retains hj.distinct ..)
  split
  · exact h1
  · split
    · exact (h1.trans h2).trans (.of_marks h2.distinct rfl)
    · exact h1.trans h2

theorem State.admitHead_retains {s : State} (hn : s.Distinct) (l : Launch) : s.Retains (s.admitHead l) := by
  unfold State.admitHead
  split
  · exact .refl hn
  · split
    · exact .refl hn
    · exact State.admitAt_retains hn ..

theorem State.admitLevel_retains {s : State} (hn : s.Distinct) (level : Nat) : s.Retains (s.admitLevel level) := by
  unfold State.admitLevel
  extract_lets away s1
  have h1 : s.Retains s1 := by
    refine State.Retains.foldl hn _ fun t ht q hq => .of_marks ht.distinct (State.tryReturn_marks ht.distinct ?_)
    exact ht.marks _ (List.mem_map_of_mem (List.mem_filter.1 hq).1)
  exact h1.trans (State.Retains.foldl h1.distinct _ fun t ht l _ => State.admitHead_retains ht.distinct l)

theorem State.registrarBell_retains {s : State} (hn : s.Distinct) : s.Retains s.registrarBell := by
  unfold State.registrarBell
  refine State.Retains.foldl hn _ fun t ht f hf => ?_
  split
  · exact .refl ht.distinct
  · simp only [List.mem_cons, List.not_mem_nil, or_false] at hf
    rcases hf with rfl | rfl | rfl | rfl | rfl | rfl | rfl | rfl
    · exact .of_marks ht.distinct (State.postCompletions_marks t)
    · exact State.eachPart_retains ht.distinct fun t q hn hq => State.decideCourse_marks hn hq
    · exact .of_marks ht.distinct (State.refuseSuccessors_marks t)
    · exact .of_marks ht.distinct (State.joinQueues_marks t)
    · exact .of_marks ht.distinct rfl
    · exact .of_marks ht.distinct (State.orderPromotions_marks t)
    · exact .of_marks ht.distinct (State.preempt_marks t)
    · exact State.Retains.foldl ht.distinct _ fun t ht k _ => State.admitLevel_retains ht.distinct k

/-! ### The steps of a bell, one after another -/

/-- The machine at a bell when its pigeonholes are latched, the bands have fallen, and held work is taken up. -/
def State.front (s : State) : State := s.latchAll.thermalBell.unhold

/-- What the registrar does at a bell, or, where it holds its work, how long heads have stood. -/
def State.bellOffice (s : State) : State := if s.holds 1 then s.timeHeads true else s.registrarBell

/-- Partitions resume, and enter recess. -/
def State.bellTurns (ordered : List Nat) (s : State) : State := (s.eachPart State.resumeDue).eachPart (State.bellEntry ordered)

/-- The watchdog, and submissions. -/
def State.bellWatch (s : State) : State := if s.holds 1 then s.eachPart State.waitOn else (s.eachPart State.watch).receive

/-- What is pending, for a partition that runs. -/
def State.notePending (s : State) (q : Part) : State :=
  if q.runs then s.modPart q.num fun x => { x with pending := s.pendingOf q } else s

/-- The partitions that have an order. -/
def State.ordered (s : State) : List Nat := (s.parts.filter fun q => q.order.isSome).map (·.num)

/-- What a bell makes of the machine but for the next one. -/
def State.rung (s : State) : State :=
  ((s.front.bellOffice.bellTurns s.front.ordered).bellWatch).eachPart State.notePending

theorem State.orderDuty_marks (s : State) (n : Nat) (h d : List Nat) : (s.orderDuty n h d).marks = s.marks := by
  unfold State.orderDuty
  split
  · rfl
  · exact State.journal_marks ..

theorem State.thermalBell_marks (s : State) : s.thermalBell.marks = s.marks := by
  unfold State.thermalBell
  extract_lets cool bands s1 idx s2
  have h1 : s1.marks = s.marks := by simp only [s1]; split <;> rfl
  split
  · exact (State.orderDuty_marks ..).trans h1
  · exact h1

theorem State.front_marks (s : State) : s.front.marks = s.latchAll.marks :=
  Eq.trans (b := s.latchAll.thermalBell.marks) rfl (State.thermalBell_marks _)

theorem State.latchAll_latches {s : State} {q : Part} (hq : q ∈ s.parts) : (q.num, q.pigLive) ∈ s.latchAll.marks.2 := by
  simp only [State.latchAll, State.marks, List.map_map, List.mem_map]
  exact ⟨q, hq, rfl⟩

theorem State.bellOffice_retains {s : State} (hn : s.Distinct) : s.Retains s.bellOffice := by
  unfold State.bellOffice
  split
  · exact .of_marks hn rfl
  · exact State.registrarBell_retains hn

theorem State.bellTurns_retains {s : State} (hn : s.Distinct) (o : List Nat) : s.Retains (s.bellTurns o) :=
  have h := State.eachPart_retains hn fun t q _ _ => State.resumeDue_marks t q
  h.trans (State.eachPart_retains h.distinct fun t q _ _ => State.bellEntry_marks o t q)

theorem State.bellWatch_retains {s : State} (hn : s.Distinct) : s.Retains s.bellWatch := by
  unfold State.bellWatch
  split
  · exact State.eachPart_retains hn fun t q _ _ => State.waitOn_marks t q
  · have h := State.eachPart_retains hn fun t q _ _ => State.watch_marks t q
    exact h.trans (.of_marks h.distinct (State.receive_marks _))

theorem State.notePending_marks (s : State) (q : Part) : (s.notePending q).marks = s.marks := by
  unfold State.notePending
  split
  · exact State.marks_modPart (by intros; rfl)
  · rfl

theorem State.rung_retains {s : State} (hn : s.Distinct) : s.latchAll.Retains s.rung := by
  have h0 : s.latchAll.Retains s.front := by
    refine .of_marks (s := s.latchAll) ?_ s.front_marks
    simpa [State.Distinct, State.latchAll, Function.comp_def] using hn
  have h1 := h0.trans (State.bellOffice_retains h0.distinct)
  have h2 := h1.trans (State.bellTurns_retains h1.distinct s.front.ordered)
  have h3 := h2.trans (State.bellWatch_retains h2.distinct)
  exact h3.trans (State.eachPart_retains h3.distinct fun t q _ _ => State.notePending_marks t q)

/-- The next bell is set. -/
def State.nextBell (s : State) : State := s.schedG (s.gtc + 4032) [0] .bell

theorem State.bell_rings (s : State) : execBell s = .next s.rung.nextBell := rfl

/-- R2, R78: a bell latches every pigeonhole of every partition, and the next bell is a period on. -/
theorem State.Retains.latches {s t : State} (h : s.latchAll.Retains t) : t.nextBell.gtc = s.gtc ∧
    t.nextBell.Later none (s.gtc + 4032) .bell ∧
    ∀ q ∈ s.parts, ∃ r ∈ t.nextBell.parts, r.num = q.num ∧ r.pigLatched = q.pigLive := by
  have hg : t.gtc = s.gtc := h.gtc
  refine ⟨hg, hg ▸ State.later_schedG .., fun q hq => ?_⟩
  obtain ⟨r, hr, hm⟩ := List.mem_map.1 (h.marks _ (State.latchAll_latches hq))
  obtain ⟨hnum, hlatch⟩ := Prod.mk.inj hm
  exact ⟨r, hr, hnum, hlatch⟩

end Sys2Proof.Machine
end

section
namespace Sys2Proof.Machine

/-! ### What a bell begins with: latched words, bands, held work (R78, R268, R359) -/

/-- A partition whose pigeonholes are latched. -/
def Part.latch (q : Part) : Part := { q with pigLatched := q.pigLive }

/-- Whether a pending step is a deadline that a falling-back service was given. -/
def Timed.isDeadline (x : Timed) : Prop := ∃ v, x.what = .heartbeatDeadline v

/-- A fact of a service changes that service alone, and may set it a deadline. -/
structure State.Notes (s t : State) (v : Service) : Prop where
  svc : ∀ i, i ≠ v.idx → t.svcs[i]? = s.svcs[i]?
  rest : ∃ vs ds, t = { s with svcs := vs, due := s.due ++ ds } ∧ ∀ x ∈ ds, x.isDeadline

theorem State.notes_modSvc (s : State) (v : Service) (g : Svc → Svc) : s.Notes (s.modSvc v g) v := by
  refine ⟨fun i hi => ?_, s.svcs.setIfInBounds v.idx (g (s.svc v)), [], ?_, by simp⟩
  · simp [State.modSvc, Ne.symm hi]
  · rw [List.append_nil]
    rfl

theorem State.journal_notes (s : State) (v : Service) (f : Fact) : s.Notes (s.journal v f) v := by
  have hmod (s : State) (f : Svc → Svc) (i : Nat) (hi : i ≠ v.idx) : (s.modSvc v f).svcs[i]? = s.svcs[i]? :=
    (State.notes_modSvc s v f).svc i hi
  unfold State.journal State.journalEntry
  extract_lets x
  split
  · exact ⟨fun _ _ => rfl, s.svcs, [], by simp, by simp⟩
  · split
    · exact ⟨fun _ _ => rfl, s.svcs, [], by simp, by simp⟩
    · split
      · refine ⟨fun i hi => ?_, _, _, rfl, fun x hx => ?_⟩
        · have hfall : (s.fallBack v).svcs = ((s.modSvc v fun x => { x with
            state := .fallback, slot := 1 - x.slot, held := true, probationEnd := none }).modSvc v fun x =>
            { x with deadline := some (s.gtc + firstBeat) }).svcs := rfl
          rw [hfall, hmod _ _ i hi, hmod _ _ i hi]
        · exact ⟨v, by rw [List.mem_singleton.1 hx]⟩
      · exact State.notes_modSvc ..

/-- The machine at a bell when its pigeonholes are latched, its bands have fallen, and held work is taken up. -/
structure State.Fronts (s u : State) : Prop where
  gtc : u.gtc = s.gtc
  parts : u.parts = s.parts.map Part.latch
  launches : u.launches = s.launches
  cores : u.cores = s.cores
  dram : u.dram = s.dram
  tenants : u.tenants = s.tenants
  lasting : u.lasting = s.lasting
  testing : u.testing = s.testing
  ports : u.ports = s.ports
  store : ∀ d, (u.die d).store = (s.die d).store
  ring : ∀ d, (u.die d).ring = (s.die d).ring
  timing : ∀ i, u.timing i = s.timing i
  svc : ∀ i, i ≠ 0 → s.holds i = false → u.svcs[i]? = s.svcs[i]?
  due : ∃ ds, u.due = s.due ++ ds ∧ (s.heldWork = [] → ∀ x ∈ ds, x.isDeadline)
  duty : ∀ q, u.onDuty q = s.onDuty q

theorem State.die_map {s : State} {f : Die → Die} {β : Type} (p : Die → β) (hf : ∀ d, p (f d) = p d) (d : Nat) :
    p (({ s with dies := s.dies.map f } : State).die d) = p (s.die d) := by
  simp only [State.die, Vector.getElem?_map]
  cases s.dies[d]? with
  | none => rfl
  | some x => exact hf x

theorem State.onDuty_of {s t : State} (hg : t.gtc = s.gtc)
    (hd : t.duty.find? (fun d => d.first == s.gtc / 4032 / 8 * 8) = s.duty.find? fun d => d.first == s.gtc / 4032 / 8 * 8)
    (q : Part) : t.onDuty q = s.onDuty q := by
  have hown : t.ownDuty q (s.gtc / Config.period / 8 * 8) = s.ownDuty q (s.gtc / Config.period / 8 * 8) := by
    simp only [State.ownDuty]
    rw [show (Config.period : Nat) = 4032 from rfl, hd]
  have hper : t.dutyPeriods q = s.dutyPeriods q := by
    unfold State.dutyPeriods
    rw [hg]
    exact congrArg (fun n => max n _) hown
  unfold State.onDuty
  rw [hg, hper]

/-- What the duty sequencer changes at a bell. -/
structure State.Warms (s u : State) : Prop where
  rest : ∃ hbm dies out duty svcs ds, u = { s with hbm := hbm, dies := dies, out := out, duty := duty, svcs := svcs,
                                                   due := s.due ++ ds } ∧ ∀ x ∈ ds, x.isDeadline
  store : ∀ d, (u.die d).store = (s.die d).store
  ring : ∀ d, (u.die d).ring = (s.die d).ring
  timing : ∀ i, u.timing i = s.timing i
  svc : ∀ i, i ≠ 0 → u.svcs[i]? = s.svcs[i]?
  duty : ∀ q, u.onDuty q = s.onDuty q

theorem State.Warms.trans {s t u : State} (h : s.Warms t) (k : t.Warms u) : s.Warms u := by
  obtain ⟨hbm, dies, out, duty, svcs, ds, rfl, hds⟩ := h.rest
  obtain ⟨hbm', dies', out', duty', svcs', ds', rfl, hds'⟩ := k.rest
  refine ⟨⟨hbm', dies', out', duty', svcs', ds ++ ds', by simp, fun x hx => ?_⟩, fun d => (k.store d).trans (h.store d),
    fun d => (k.ring d).trans (h.ring d), fun i => (k.timing i).trans (h.timing i), fun i hi => (k.svc i hi).trans (h.svc i hi),
    fun q => (k.duty q).trans (h.duty q)⟩
  rcases List.mem_append.1 hx with hx | hx
  · exact hds x hx
  · exact hds' x hx

theorem State.Warms.refl (s : State) : s.Warms s :=
  ⟨⟨s.hbm, s.dies, s.out, s.duty, s.svcs, [], by simp, by simp⟩, fun _ => rfl, fun _ => rfl, fun _ => rfl, fun _ _ => rfl,
    fun _ => rfl⟩

/-- A change of the duty that is ordered, but for the present group. -/
theorem State.warms_duty (s : State) {ds : List Duty}
    (h : ds.find? (fun d => d.first == s.gtc / 4032 / 8 * 8) = s.duty.find? fun d => d.first == s.gtc / 4032 / 8 * 8) :
    s.Warms { s with duty := ds } :=
  ⟨⟨s.hbm, s.dies, s.out, ds, s.svcs, [], by simp, by simp⟩, fun _ => rfl, fun _ => rfl, fun _ => rfl, fun _ _ => rfl,
    State.onDuty_of rfl h⟩

theorem find?_filter_of_imp {α : Type} {p q : α → Bool} (h : ∀ x, q x = true → p x = true) (xs : List α) :
    (xs.filter p).find? q = xs.find? q := by
  rw [List.find?_filter]
  congr 1
  funext x
  cases hq : q x
  · simp
  · simp [h x hq]

theorem State.journal_warms (s : State) (f : Fact) : s.Warms (s.journal .prefect f) := by
  obtain ⟨hsvc, vs, ds, he, hds⟩ := State.journal_notes s .prefect f
  rw [he] at hsvc ⊢
  exact ⟨⟨s.hbm, s.dies, s.out, s.duty, vs, ds, by simp, hds⟩, fun _ => rfl, fun _ => rfl, fun _ => rfl, hsvc, fun _ => rfl⟩

/-- Duty ordered for a later group than the present one. -/
theorem State.orderDuty_warms (s : State) {n : Nat} (hn : n ≠ s.gtc / 4032 / 8 * 8) (hbm dies : List Nat) :
    s.Warms (s.orderDuty n hbm dies) := by
  unfold State.orderDuty
  split
  · exact .refl s
  · extract_lets s1 old both
    have hg : s1.gtc = s.gtc := (State.journal_frame s .prefect .duty).2.2.2.2.2
    refine (State.journal_warms s .duty).trans (State.warms_duty s1 ?_)
    have hboth : (both.first == s1.gtc / 4032 / 8 * 8) = false := by
      rw [hg]
      exact beq_false_of_ne hn
    have hone : [both].find? (fun d => d.first == s1.gtc / 4032 / 8 * 8) = none := by
      rw [List.find?_cons, hboth]
      rfl
    rw [List.find?_append, hone, Option.or_none]
    refine find?_filter_of_imp (fun d hd => ?_) _
    have hd : d.first = s1.gtc / 4032 / 8 * 8 := by simpa using hd
    rw [hd, hg]
    simpa using Ne.symm hn

theorem State.thermalBell_warms (s : State) : s.Warms s.thermalBell := by
  unfold State.thermalBell
  extract_lets cool bands s1 idx s2
  have h1 : s.Warms s1 := by
    have hcool (out : List Reply) : s.Warms { cool with out := out } := by
      refine ⟨⟨s.hbm.map Stack.atBell, s.dies.map Die.atBell, out, s.duty, s.svcs, [], by simp [cool], by simp⟩,
        fun d => ?_, fun d => ?_, fun i => ?_, fun _ _ => rfl, fun q => rfl⟩
      · exact State.die_map (s := s) (f := Die.atBell) Die.store (by intros; rfl) d
      · exact State.die_map (s := s) (f := Die.atBell) Die.ring (by intros; rfl) d
      · simp only [State.timing, cool, Vector.getElem?_map]
        cases s.hbm[i]? <;> rfl
    simp only [s1]
    split
    · exact hcool s.out
    · exact hcool _
  have h2 : s1.Warms s2 := by
    refine State.warms_duty s1 (find?_filter_of_imp (fun d hd => decide_eq_true ?_) _)
    have hd : d.first = s1.gtc / 4032 / 8 * 8 := by simpa using hd
    have hp : Config.period = 4032 := rfl
    simp only [idx, hp]
    omega
  split
  case isTrue h =>
    have hp : Config.period = 4032 := rfl
    refine (h1.trans h2).trans (State.orderDuty_warms s2 ?_ _ _)
    have : s2.gtc = s1.gtc := rfl
    simp only [idx, hp] at h ⊢
    omega
  case isFalse => exact h1.trans h2

/-- Held work that is taken up. -/
theorem State.unhold_eq (s : State) : ∃ vs hw ds, s.unhold = { s with svcs := vs, heldWork := hw, due := s.due ++ ds } ∧
    (s.heldWork = [] → ds = []) ∧ ∀ i, s.holds i = false → vs[i]? = s.svcs[i]? := by
  unfold State.unhold
  extract_lets back free
  refine ⟨_, _, _, rfl, fun h => ?_, fun i hi => ?_⟩
  · rw [h]; rfl
  · rw [Vector.getElem?_map]
    simp only [State.holds] at hi
    cases hv : s.svcs[i]? with
    | none => rfl
    | some v =>
      rw [hv] at hi
      have hi : v.held = false := hi
      simp [back, hi]

/-- What a bell begins with leaves all but the latched words, the bands and the services' work as it is. -/
theorem State.front_fronts (s : State) : s.Fronts s.front := by
  have h := State.thermalBell_warms s.latchAll
  obtain ⟨vs, hw, ds', hun, hds', hvs⟩ := State.unhold_eq s.latchAll.thermalBell
  have hu : s.front = { s.latchAll.thermalBell with svcs := vs, heldWork := hw, due := s.latchAll.thermalBell.due ++ ds' } := hun
  clear hun
  generalize s.latchAll.thermalBell = w at *
  obtain ⟨hbm, dies, out, duty, svcs, ds, rfl, hds⟩ := h.rest
  have hsvc := h.svc
  rw [hu]
  refine ⟨rfl, rfl, rfl, rfl, rfl, rfl, rfl, rfl, rfl, h.store, h.ring, h.timing, fun i hi hh => ?_, ⟨ds ++ ds', ?_, fun hheld => ?_⟩,
    h.duty⟩
  · have hsi := hsvc i hi
    refine (hvs i ?_).trans hsi
    simp only [State.holds] at hh ⊢
    rw [hsi]
    exact hh
  · exact List.append_assoc ..
  · rw [hds' hheld, List.append_nil]
    exact hds

end Sys2Proof.Machine
end

section
namespace Sys2Proof.Machine

/-! ### What the end of a bell leaves as it is -/

/-- What resumption, a recess and the watchdog leave of a partition; an order of one of `o` may have been carried out. -/
structure Part.Follows (o : List Nat) (q r : Part) : Prop where
  num : r.num = q.num
  sub : r.sub = q.sub
  variant : r.variant = q.variant
  live : r.pigLive = q.pigLive
  latched : r.pigLatched = q.pigLatched
  order : r.order = q.order ∨ q.num ∈ o ∧ r.order = none
  loaded : q.status = .loaded → r.status = .loaded

theorem Part.Follows.refl (o : List Nat) (q : Part) : q.Follows o q := ⟨rfl, rfl, rfl, rfl, rfl, .inl rfl, id⟩

theorem Part.Follows.trans {o : List Nat} {q r x : Part} (h : q.Follows o r) (k : r.Follows o x) : q.Follows o x := by
  refine ⟨k.num.trans h.num, k.sub.trans h.sub, k.variant.trans h.variant, k.live.trans h.live, k.latched.trans h.latched, ?_,
    k.loaded ∘ h.loaded⟩
  rcases k.order with hk | ⟨hm, hk⟩
  · rw [hk]; exact h.order
  · exact .inr ⟨h.num ▸ hm, hk⟩

/-- What the end of a bell leaves of the machine. -/
structure State.After (o : List Nat) (s t : State) : Prop where
  memory : s.KeepsMemory t
  parts : List.Forall₂ (Part.Follows o) s.parts t.parts
  launches : t.launches.map (fun l => (l.sub, l.state)) = s.launches.map fun l => (l.sub, l.state)
  due : ∀ x ∈ s.due, x ∈ t.due

theorem State.After.refl (o : List Nat) (s : State) : s.After o s :=
  ⟨.refl s, List.forall₂_same.2 fun _ _ => .refl .., rfl, fun _ h => h⟩

theorem forall₂_trans {α : Type} {R : α → α → Prop} (hR : ∀ a b c, R a b → R b c → R a c) {xs ys zs : List α}
    (h : List.Forall₂ R xs ys) (k : List.Forall₂ R ys zs) : List.Forall₂ R xs zs := by
  induction h generalizing zs with
  | nil => exact k
  | cons hab _ ih =>
    cases k with
    | cons hbc hrest => exact .cons (hR _ _ _ hab hbc) (ih hrest)

theorem State.After.trans {o : List Nat} {s t u : State} (h : s.After o t) (k : t.After o u) : s.After o u :=
  ⟨h.memory.trans k.memory, forall₂_trans (R := Part.Follows o) (fun _ _ _ => Part.Follows.trans) h.parts k.parts, k.launches.trans h.launches,
    fun x hx => k.due x (h.due x hx)⟩

theorem State.After.distinct {o : List Nat} {s t : State} (h : s.After o t) (hn : s.Distinct) : t.Distinct := by
  have : t.parts.map Part.num = s.parts.map Part.num := by
    have := h.parts
    generalize s.parts = xs at this
    generalize t.parts = ys at this
    induction this with
    | nil => rfl
    | cons hq _ ih => rw [List.map_cons, List.map_cons, ih, hq.num]
  unfold State.Distinct
  rw [this]
  exact hn

/-- A change of partitions alone. -/
theorem State.after_modPart {o : List Nat} {s : State} {p : Nat} {f : Part → Part}
    (h : ∀ x ∈ s.parts, x.num = p → x.Follows o (f x)) : s.After o (s.modPart p f) := by
  refine ⟨s.modPart_keepsMemory p f, ?_, rfl, fun _ h => h⟩
  refine List.forall₂_map_right_iff.2 (List.forall₂_same.2 fun x hx => ?_)
  split
  case isTrue hp => exact h x hx (by simpa using hp)
  case isFalse => exact .refl ..

/-- A change of what neither the partitions nor the launches' states nor a memory depend on. -/
theorem State.after_rest {o : List Nat} {s t : State} (hm : s.KeepsMemory t) (hp : t.parts = s.parts)
    (hl : t.launches = s.launches) (hd : ∀ x ∈ s.due, x ∈ t.due) : s.After o t :=
  ⟨hm, by rw [hp]; exact List.forall₂_same.2 fun _ _ => .refl .., by rw [hl], hd⟩

theorem State.after_schedG (o : List Nat) (s : State) (d : Nat) (k : List Nat) (w : Work) : s.After o (s.schedG d k w) :=
  State.after_rest (.of_cores rfl rfl rfl rfl) rfl rfl fun _ h => List.mem_append_left _ h

theorem State.after_journal (o : List Nat) (s : State) (v : Service) (f : Fact) : s.After o (s.journal v f) := by
  obtain ⟨-, vs, ds, he, -⟩ := State.journal_notes s v f
  rw [he]
  exact State.after_rest (.of_cores rfl rfl rfl rfl) rfl rfl fun _ h => List.mem_append_left _ h

theorem State.after_relive (o : List Nat) (s : State) (q : Part) (a b : Life) : s.After o (s.relive q a b) :=
  State.after_rest (State.relive_keepsMemory ..) (State.relive_parts ..) (foldl_keeps State.launches (by intros; rfl) _ _)
    fun x hx => by
      have : (s.relive q a b).due = s.due := foldl_keeps State.due (by intros; rfl) _ _
      rwa [this]

/-- Among partitions of different numbers, the one of a number. -/
theorem State.eq_of_num {s : State} (hn : s.Distinct) {q x : Part} (hq : s.part q.num = some q) (hx : x ∈ s.parts)
    (h : x.num = q.num) : x = q := List.inj_on_of_nodup_map hn hx (State.part_mem hq) h

theorem State.after_resumeDue (o : List Nat) {s : State} (hn : s.Distinct) {q : Part} (hq : s.part q.num = some q) :
    s.After o (s.resumeDue q) := by
  unfold State.resumeDue
  split
  · exact .refl ..
  · extract_lets ready agreed s1
    have h1 : s.After o s1 := State.after_rest (.of_cores rfl rfl rfl rfl) rfl rfl fun _ h => h
    split
    case isFalse => exact h1
    case isTrue hgo =>
      have hst : q.status = .recessed := by
        simp only [ready, Bool.and_eq_true, beq_iff_eq] at hgo
        exact hgo.1.1.1.2
      refine (h1.trans (State.after_journal o s1 .registrar .resumption)).trans ?_
      have hp : (s1.journal .registrar .resumption).parts = s.parts := (State.journal_frame ..).2.1
      unfold State.resume
      split
      · exact .refl ..
      · refine (State.after_modPart fun x hx hnum => ?_).trans (State.after_relive ..)
        rw [hp] at hx
        obtain rfl := State.eq_of_num hn hq hx hnum
        exact ⟨rfl, rfl, rfl, rfl, rfl, .inl rfl, fun hl => absurd (hst.symm.trans hl) (by decide)⟩

theorem State.after_bellEntry (o : List Nat) {s : State} (hn : s.Distinct) {q : Part} (hq : s.part q.num = some q) :
    s.After o (State.bellEntry o s q) := by
  unfold State.bellEntry
  extract_lets c
  split
  case isFalse => exact .refl ..
  case isTrue hgo =>
    obtain ⟨hrun, -, -⟩ := hgo
    let f (x : Part) : Part := { x with order := if c.isSome then none else x.order }
    have h1 : s.After o (s.modPart q.num f) := by
      refine State.after_modPart fun x hx hnum => ?_
      obtain rfl := State.eq_of_num hn hq hx hnum
      refine ⟨rfl, rfl, rfl, rfl, rfl, ?_, id⟩
      by_cases hm : o.contains x.num = true
      · by_cases hc : c.isSome = true
        · exact .inr ⟨by simpa using hm, by simp [f, hc]⟩
        · exact .inl (by simp [f, hc])
      · have hc : c = none := if_neg hm
        exact .inl (by simp [f, hc])
    have hq1 : (s.modPart q.num f).part q.num = some (f q) := State.part_modPart_self (fun _ => rfl) hq
    refine h1.trans ?_
    unfold State.enterRecess
    rw [hq1]
    refine ((State.after_modPart fun x hx hnum => ?_).trans (State.after_relive ..)).trans (State.after_schedG ..)
    obtain rfl := State.eq_of_num (q := f q) (h1.distinct hn) hq1 hx hnum
    exact ⟨rfl, rfl, rfl, rfl, rfl, .inl rfl, fun hl => absurd (hrun.symm.trans hl) (by decide)⟩

theorem State.after_watch (o : List Nat) (s : State) (q : Part) : s.After o (s.watch q) := by
  unfold State.watch
  extract_lets t
  split
  · exact State.after_schedG ..
  · exact .refl ..

theorem State.after_waitOn (o : List Nat) (s : State) (q : Part) : s.After o (s.waitOn q) := by
  unfold State.waitOn
  split
  · exact State.after_modPart fun _ _ _ => ⟨rfl, rfl, rfl, rfl, rfl, .inl rfl, id⟩
  · exact .refl ..

theorem State.after_notePending (o : List Nat) (s : State) (q : Part) : s.After o (s.notePending q) := by
  unfold State.notePending
  split
  · exact State.after_modPart fun _ _ _ => ⟨rfl, rfl, rfl, rfl, rfl, .inl rfl, id⟩
  · exact .refl ..

theorem State.after_modLaunch (o : List Nat) (s : State) (k : Nat) {f : Launch → Launch}
    (h : ∀ l, (f l).sub = l.sub ∧ (f l).state = l.state) : s.After o (s.modLaunch k f) := by
  refine ⟨.of_cores rfl rfl rfl rfl, List.forall₂_same.2 fun _ _ => .refl .., ?_, fun _ h => h⟩
  simp only [State.modLaunch, List.map_map]
  refine List.map_congr_left fun l _ => ?_
  simp only [Function.comp_apply]
  split
  · rw [(h l).1, (h l).2]
  · rfl

theorem State.after_imageRead (o : List Nat) (s : State) (l : Launch) : s.After o (s.imageRead l) :=
  State.after_rest (.of_cores rfl rfl rfl rfl) rfl rfl fun _ h => List.mem_append_left _ h

theorem State.after_askImage (o : List Nat) (s : State) (l : Launch) (i : Nat) : s.After o (s.askImage l i) := by
  have hgot : s.After o (s.gotPiece l.sub none) := State.after_modLaunch o s _ fun _ => ⟨rfl, rfl⟩
  unfold State.askImage
  split
  · exact State.after_imageRead ..
  · split
    · exact hgot.trans (State.after_imageRead ..)
    · split
      · exact State.after_rest (.of_cores rfl rfl rfl rfl) rfl rfl fun _ h => List.mem_append_left _ h
      · exact hgot.trans (State.after_imageRead ..)

theorem State.After.foldl {α : Type} (o : List Nat) {f : State → α → State} (h : ∀ (s : State) x, s.After o (f s x)) (xs : List α)
    (s : State) : s.After o (xs.foldl f s) := by
  induction xs generalizing s with
  | nil => exact .refl ..
  | cons x xs ih => exact (h s x).trans (ih _)

theorem State.after_receive (o : List Nat) (s : State) : s.After o s.receive := by
  refine State.After.foldl o (fun s l => ?_) _ _
  split
  · have hasked : s.After o (s.modLaunch l.sub fun x => { x with asked := true }) :=
      State.after_modLaunch o s _ fun _ => ⟨rfl, rfl⟩
    extract_lets s1
    split
    · exact hasked.trans (State.after_imageRead ..)
    · exact hasked.trans (State.after_askImage ..)
  · exact .refl ..

theorem State.after_eachPart (o : List Nat) {s : State} (hn : s.Distinct) {f : State → Part → State}
    (h : ∀ (t : State) (q : Part), t.Distinct → t.part q.num = some q → t.After o (f t q)) : s.After o (s.eachPart f) := by
  unfold State.eachPart
  generalize s.parts.map (·.num) = ps
  induction ps generalizing s with
  | nil => exact .refl ..
  | cons p ps ih =>
    rw [List.foldl_cons]
    cases hq : s.part p with
    | none => exact ih hn
    | some q =>
      have h1 := h s q hn (by rw [State.part_num hq]; exact hq)
      exact h1.trans (ih (h1.distinct hn))

/-- From its resumptions on, a bell leaves the memories, the partitions' words and the launches as they are. -/
theorem State.after_end (o : List Nat) {s : State} (hn : s.Distinct) :
    s.After o (((s.bellTurns o).bellWatch).eachPart State.notePending) := by
  have h1 : s.After o (s.eachPart State.resumeDue) := State.after_eachPart o hn fun t q ht hq => State.after_resumeDue o ht hq
  have h2 : s.After o (s.bellTurns o) :=
    h1.trans (State.after_eachPart o (h1.distinct hn) fun t q ht hq => State.after_bellEntry o ht hq)
  have hn2 := h2.distinct hn
  generalize s.bellTurns o = u at *
  have h3 : u.After o u.bellWatch := by
    unfold State.bellWatch
    split
    · exact State.after_eachPart o hn2 fun t q _ _ => State.after_waitOn ..
    · exact (State.after_eachPart o hn2 fun t q _ _ => State.after_watch ..).trans (State.after_receive ..)
  have h4 := State.after_eachPart o (f := State.notePending) (h3.distinct hn2) fun t q _ _ => State.after_notePending o t q
  exact h2.trans (h3.trans h4)

end Sys2Proof.Machine
end

section
namespace Sys2Proof.Machine

/-! ### A bell at which every partition runs -/

/-- Every partition runs, and none is in recess. -/
def State.Calm (s : State) : Prop := ∀ q ∈ s.parts, q.status = .running ∧ q.recess = none

theorem foldl_eq_self {σ α : Type} {f : σ → α → σ} {xs : List α} {s : σ} (h : ∀ x ∈ xs, f s x = s) : xs.foldl f s = s := by
  induction xs with
  | nil => rfl
  | cons x xs ih =>
    rw [List.foldl_cons, h x (by simp)]
    exact ih fun y hy => h y (by simp [hy])

theorem State.eachPart_eq_self {s : State} {f : State → Part → State} (h : ∀ q ∈ s.parts, f s q = s) : s.eachPart f = s := by
  refine foldl_eq_self fun p _ => ?_
  cases hq : s.part p with
  | none => rfl
  | some q => exact h q (State.part_mem hq)

theorem State.Calm.postCompletions {s : State} (h : s.Calm) : s.postCompletions = s := by
  refine foldl_eq_self fun q hq => ?_
  have hnone : q.outcome = none := by simp [Part.outcome, (h q hq).1]
  simp only [hnone]

theorem State.Calm.decideCourse {s : State} (h : s.Calm) : s.eachPart State.decideCourse = s := by
  refine State.eachPart_eq_self fun q hq => ?_
  unfold State.decideCourse
  rw [if_pos (by simp [(h q hq).1])]

/-- No queued launch waits for one that was lost. -/
theorem State.refuseSuccessors_eq_self {s : State} (h : ∀ l ∈ s.launches, l.state = .queued →
    l.preds.any (fun p => ((s.launch p).map fun x => x.state.lost).getD false) = false) : s.refuseSuccessors = s := by
  refine foldl_eq_self fun k _ => ?_
  cases hl : s.launch k with
  | none => rfl
  | some l =>
    refine if_neg fun hlost => ?_
    rw [h l (State.launch_mem hl) hlost.1] at hlost
    exact absurd hlost.2 (by decide)

theorem State.joinQueues_eq_self {s : State} (h : ∀ l ∈ s.launches, l.state = .queued → l.joined ≠ 0) :
    s.joinQueues = s := by
  have : (s.launches.filter fun l => l.state == .queued && l.joined == 0) = [] := by
    refine List.filter_eq_nil_iff.2 fun l hl => ?_
    by_cases hq : l.state = .queued
    · simp [hq, h l hl hq]
    · simp [hq]
  unfold State.joinQueues
  rw [this]
  rfl

/-- Since when a launch at its queue's head counts as standing there. -/
def State.stands (s : State) (held : Bool) : Option Nat → Nat
  | some h => if held then h + Config.period else h
  | none => s.gtc

/-- How long a launch has stood at its queue's head, from this bell on. -/
def State.timed (s : State) (held : Bool) (l : Launch) : Launch :=
  { l with headSince := if s.isHead l then some (s.stands held l.headSince) else none }

theorem State.timeHeads_eq (s : State) (held : Bool) :
    s.timeHeads held = { s with launches := s.launches.map (s.timed held) } := by
  unfold State.timeHeads
  congr 1
  refine List.map_congr_left fun l _ => ?_
  unfold State.timed
  by_cases h : s.isHead l = true
  · cases hs : l.headSince <;> simp [h, State.stands]
  · simp [h]

/-- Promotions are ordered for the next bell; nothing else changes. -/
theorem State.orderPromotions_eq (s : State) : ∃ ds, s.orderPromotions = { s with due := s.due ++ ds } := by
  have h (ls : List Launch) : ∀ s : State, ∃ ds, ls.foldl (fun s l => match l.headSince with
      | some h =>
        if 0 < l.level ∧ h + promotePeriods * Config.period ≤ s.gtc + Config.period then
          s.schedG (s.gtc + Config.period) [] (.queuePromotion l.sub)
        else s
      | none => s) s = { s with due := s.due ++ ds } := by
    induction ls with
    | nil => exact fun s => ⟨[], by simp⟩
    | cons l ls ih =>
      intro s
      rw [List.foldl_cons]
      split
      · split
        · obtain ⟨ds, hds⟩ := ih (s.schedG (s.gtc + Config.period) [] (.queuePromotion l.sub))
          exact ⟨_, hds.trans (by simp only [State.schedG, List.append_assoc]; rfl)⟩
        · exact ih s
      · exact ih s
  obtain ⟨ds, hds⟩ := h s.launches s
  exact ⟨ds, hds⟩

theorem State.orderPromotions_eq_self {s : State} (h : ∀ l ∈ s.launches, l.headSince = none) : s.orderPromotions = s :=
  foldl_eq_self fun l hl => by rw [h l hl]

/-- What the registrar has done at such a bell before it looks at the heads of the queues. -/
theorem State.Calm.registrarBell {s : State} (h : s.Calm) (hv : s.holds 1 = false)
    (hlost : ∀ l ∈ s.launches, l.state = .queued →
      l.preds.any (fun p => ((s.launch p).map fun x => x.state.lost).getD false) = false)
    (hjoin : ∀ l ∈ s.launches, l.state = .queued → l.joined ≠ 0) :
    s.registrarBell = (let u := (s.timeHeads false).orderPromotions
      if u.preempt.holds 1 then u.preempt else (List.range 4).foldl State.admitLevel u.preempt) := by
  have h1 : (s.timeHeads false).holds 1 = false := hv
  have h2 : (s.timeHeads false).orderPromotions.holds 1 = false := by
    obtain ⟨ds, hds⟩ := State.orderPromotions_eq (s.timeHeads false)
    rw [hds]
    exact hv
  simp only [State.registrarBell, List.foldl_cons, List.foldl_nil, hv, Bool.false_eq_true, if_false, h.postCompletions,
    h.decideCourse, State.refuseSuccessors_eq_self hlost, State.joinQueues_eq_self hjoin, h1, h2]

/-! ### A bell with no launch in a queue (R2) -/

/-- Every launch has been admitted, or is settled. -/
def State.Idle (s : State) : Prop :=
  ∀ l ∈ s.launches, l.state = .admitted ∨ l.state = .retired ∨ l.state = .failed ∨ l.state = .refused

theorem State.Idle.not_queued {s : State} (h : s.Idle) {l : Launch} (hl : l ∈ s.launches) : l.state ≠ .queued := by
  rcases h l hl with e | e | e | e <;> simp [e]

theorem State.Idle.isHead {s : State} (h : s.Idle) {l : Launch} (hl : l ∈ s.launches) : s.isHead l = false := by
  simp [State.isHead, h.not_queued hl]

theorem State.Idle.headsAt {s : State} (h : s.Idle) (level : Nat) : s.headsAt level = [] := by
  have : (s.launches.filter fun l => l.level == level && s.isReady l) = [] := by
    refine List.filter_eq_nil_iff.2 fun l hl => ?_
    simp [State.isReady, h.isHead hl]
  unfold State.headsAt
  rw [this]
  simp

theorem State.Calm.admitLevel {s : State} (h : s.Calm) (level : Nat) :
    s.admitLevel level = (s.headsAt level).foldl State.admitHead s := by
  have : (s.parts.filter fun q => q.returns && (s.launch q.sub).any fun l => l.level == level) = [] := by
    refine List.filter_eq_nil_iff.2 fun q hq => ?_
    simp [Part.returns, (h q hq).1]
  unfold State.admitLevel
  rw [this]
  rfl

/-- The registrar finds nothing to do: it has timed the heads, of which there are none. -/
theorem State.Calm.bellOffice_idle {s : State} (h : s.Calm) (hi : s.Idle) :
    ∃ ls, s.bellOffice = { s with launches := ls } ∧ ∀ l ∈ ls, ∃ x ∈ s.launches, l.state = x.state := by
  have htimed (held : Bool) : ∀ l ∈ s.launches.map (s.timed held), (∃ x ∈ s.launches, l.state = x.state) ∧ l.headSince = none := by
    intro l hl
    obtain ⟨x, hx, rfl⟩ := List.mem_map.1 hl
    exact ⟨⟨x, hx, rfl⟩, by simp [State.timed, hi.isHead hx]⟩
  have htime (held : Bool) : ∃ ls, s.timeHeads held = { s with launches := ls } ∧ ∀ l ∈ ls, ∃ x ∈ s.launches, l.state = x.state :=
    ⟨_, State.timeHeads_eq s held, fun l hl => (htimed held l hl).1⟩
  unfold State.bellOffice
  by_cases hv : s.holds 1 = true
  · rw [if_pos hv]
    exact htime true
  · rw [if_neg hv]
    have hv : s.holds 1 = false := by simpa using hv
    obtain ⟨ls, hls, hst⟩ := htime false
    refine ⟨ls, ?_, hst⟩
    have hprom : (s.timeHeads false).orderPromotions = { s with launches := ls } := by
      rw [State.orderPromotions_eq_self, hls]
      intro l hl
      rw [State.timeHeads_eq] at hl
      exact (htimed false l hl).2
    have hidle : State.Idle { s with launches := ls } := fun l hl => by
      obtain ⟨x, hx, he⟩ := hst l hl
      rw [he]
      exact hi x hx
    have hheads : State.heads { s with launches := ls } = [] := by
      exact List.flatMap_eq_nil_iff.2 fun k _ => hidle.headsAt k
    have hpre : State.preempt { s with launches := ls } = { s with launches := ls } := by
      unfold State.preempt
      rw [hheads]
      rfl
    have hcalm : State.Calm { s with launches := ls } := h
    rw [h.registrarBell hv (fun l hl hq => absurd hq (hi.not_queued hl)) (fun l hl hq => absurd hq (hi.not_queued hl)), hprom]
    simp only [hpre]
    rw [if_neg (by simpa [State.holds] using hv)]
    exact foldl_eq_self fun k _ => by rw [hcalm.admitLevel, hidle.headsAt]; rfl

theorem forall₂_exists {α : Type} {R : α → α → Prop} {xs ys : List α} (h : List.Forall₂ R xs ys) {x : α} (hx : x ∈ xs) :
    ∃ y ∈ ys, R x y := by
  induction h with
  | nil => cases hx
  | @cons a b _ _ hab _ ih =>
    rcases List.mem_cons.1 hx with rfl | hx
    · exact ⟨b, by simp, hab⟩
    · obtain ⟨y, hy, hr⟩ := ih hx
      exact ⟨y, by simp [hy], hr⟩

theorem State.Fronts.calm {s u : State} (h : s.Fronts u) (hc : s.Calm) : u.Calm := by
  intro q hq
  rw [h.parts] at hq
  obtain ⟨x, hx, rfl⟩ := List.mem_map.1 hq
  exact hc x hx

theorem State.Fronts.distinct {s u : State} (h : s.Fronts u) (hn : s.Distinct) : u.Distinct := by
  unfold State.Distinct
  rw [h.parts, List.map_map]
  exact hn

theorem State.Fronts.idle {s u : State} (h : s.Fronts u) (hi : s.Idle) : u.Idle := by
  intro l hl
  rw [h.launches] at hl
  exact hi l hl

/-- R2: where every launch is admitted or settled and every partition runs, a bell changes no memory. -/
theorem State.rung_idle {s : State} (hn : s.Distinct) (hc : s.Calm) (hi : s.Idle) :
    (∀ q ∈ s.parts, ∃ r ∈ s.rung.parts, r.num = q.num ∧ r.pigLive = q.pigLive ∧ r.pigLatched = q.pigLive) ∧
      (∀ k, (s.rung.core k).spad = (s.core k).spad) ∧ (∀ d, (s.rung.die d).store = (s.die d).store) ∧ s.rung.dram = s.dram := by
  have hf := s.front_fronts
  obtain ⟨ls, he, -⟩ := (hf.calm hc).bellOffice_idle (hf.idle hi)
  have hafter : s.front.bellOffice.After s.front.ordered s.rung :=
    State.after_end _ (by rw [he]; exact hf.distinct hn)
  rw [he] at hafter
  obtain ⟨⟨-, hdram, hdies, hspad⟩, hparts, -, -⟩ := hafter
  refine ⟨fun q hq => ?_, fun k => (hspad k).trans ?_, fun d => ?_, hdram.trans hf.dram⟩
  · have hq' : q.latch ∈ s.front.parts := by rw [hf.parts]; exact List.mem_map_of_mem hq
    obtain ⟨r, hr, hfol⟩ := forall₂_exists hparts hq'
    exact ⟨r, hr, hfol.num, hfol.live, hfol.latched⟩
  · simp only [State.core, hf.cores]
  · rw [← hf.store]
    simp only [State.die, hdies]

end Sys2Proof.Machine
end

section
namespace Sys2Proof.Machine

/-! ### The watchdog at a bell (R350) -/

/-- One step over the partitions, at the partition of a number. -/
def State.atPart (f : State → Part → State) (s : State) (p : Nat) : State := (s.part p).elim s (f s)

theorem State.eachPart_eq (s : State) (f : State → Part → State) :
    s.eachPart f = (s.parts.map Part.num).foldl (State.atPart f) s := by
  unfold State.eachPart
  congr 1
  funext t p
  unfold State.atPart
  cases t.part p <;> rfl

/-- A step over the partitions that only adds pending steps. -/
theorem State.eachPart_adds {s : State} (hn : s.Distinct) {f : State → Part → State} {g : Part → List Timed}
    (h : ∀ t : State, t.gtc = s.gtc → ∀ q ∈ s.parts, f t q = { t with due := t.due ++ g q }) :
    s.eachPart f = { s with due := s.due ++ s.parts.flatMap g } := by
  have H (qs : List Part) : (∀ q ∈ qs, q ∈ s.parts) → ∀ t : State, t.gtc = s.gtc → t.parts = s.parts →
      (qs.map Part.num).foldl (State.atPart f) t = { t with due := t.due ++ qs.flatMap g } := by
    induction qs with
    | nil => exact fun _ t _ _ => by simp
    | cons q qs ih =>
      intro hsub t hg hp
      obtain ⟨hq, hqs⟩ := List.forall_mem_cons.1 hsub
      have hpart : t.part q.num = some q := by
        simp only [State.part, hp]
        exact State.part_of_mem hn hq
      have hone : State.atPart f t q.num = { t with due := t.due ++ g q } := by
        unfold State.atPart
        rw [hpart]
        exact h t hg q hq
      rw [List.map_cons, List.foldl_cons, hone, ih hqs { t with due := t.due ++ g q } hg hp, List.flatMap_cons]
      simp only [List.append_assoc]
  rw [State.eachPart_eq]
  exact H s.parts (fun _ h => h) s rfl rfl

/-- The order that the watchdog gives when a partition has been silent too long. -/
def Part.silence (q : Part) (gtc : Nat) : List Timed :=
  if q.sign + hangCycles ≤ q.ttc gtc then
    [{ clock := none, due := gtc, key := [0, 5, q.num], who := Meta.none, what := .hangDetected q.num }]
  else []

theorem State.watch_calm {s : State} {q : Part} (h : q.status = .running) (hr : q.recess = none) :
    s.watch q = { s with due := s.due ++ q.silence s.gtc } := by
  unfold State.watch Part.silence
  extract_lets t
  by_cases hc : q.sign + hangCycles ≤ t
  · have h4 : hangCycles ≤ t := by omega
    rw [if_pos ⟨h, by simp [hr], h4, hc⟩, if_pos hc]
    rfl
  · rw [if_neg (fun hx => hc hx.2.2.2), if_neg hc]
    simp

/-- Partitions that are not to resume, have no order and are not on duty. -/
structure Part.Steady (s : State) (q : Part) : Prop where
  running : q.status = .running
  recess : q.recess = none
  order : q.order = none
  resumeFrom : q.resumeFrom = none
  duty : s.onDuty q = false

theorem State.bellTurns_steady {s : State} (h : ∀ q ∈ s.parts, q.Steady s) (o : List Nat) : s.bellTurns o = s := by
  have h1 : s.eachPart State.resumeDue = s := State.eachPart_eq_self fun q hq => by
    simp only [State.resumeDue, (h q hq).resumeFrom]
  have h2 : s.eachPart (State.bellEntry o) = s := State.eachPart_eq_self fun q hq => by
    unfold State.bellEntry
    simp [(h q hq).order, (h q hq).duty]
  simp only [State.bellTurns, h1, h2]

theorem State.receive_eq_self {s : State} (h : ∀ l ∈ s.launches, l.state ≠ .reading) : s.receive = s :=
  foldl_eq_self fun l hl => if_neg fun hr => h l hl hr.1

theorem State.eachPart_notePending_due (s : State) : (s.eachPart State.notePending).due = s.due := by
  rw [State.eachPart_eq]
  refine foldl_keeps State.due (fun t p => ?_) _ _
  unfold State.atPart State.notePending
  cases t.part p with
  | none => rfl
  | some q =>
    simp only [Option.elim_some]
    split <;> rfl

/-- R350: at a bell the partitions that have been silent too long are hung, and no other step is one of these. -/
theorem State.rung_watches {s : State} (hn : s.Distinct) (hv : s.holds 1 = false) (hh : s.heldWork = []) (hi : s.Idle)
    (hs : ∀ q ∈ s.parts, q.Steady s) :
    ∃ ds, s.rung.due = s.due ++ ds ++ s.parts.flatMap (fun q => q.silence s.gtc) ∧ ∀ x ∈ ds, x.isDeadline := by
  have hf := s.front_fronts
  obtain ⟨ds, hds, hdl⟩ := hf.due
  have hc : s.Calm := fun q hq => ⟨(hs q hq).running, (hs q hq).recess⟩
  obtain ⟨ls, he, hst⟩ := (hf.calm hc).bellOffice_idle (hf.idle hi)
  let u : State := { s.front with launches := ls }
  have hu : ∀ q ∈ u.parts, ∃ x ∈ s.parts, q = x.latch := by
    intro q hq
    have hq : q ∈ s.front.parts := hq
    rw [hf.parts] at hq
    obtain ⟨x, hx, rfl⟩ := List.mem_map.1 hq
    exact ⟨x, hx, rfl⟩
  have hsteady : ∀ q ∈ u.parts, q.Steady u := by
    intro q hq
    obtain ⟨x, hx, rfl⟩ := hu q hq
    obtain ⟨h1, h2, h3, h4, h5⟩ := hs x hx
    exact ⟨h1, h2, h3, h4, (hf.duty x.latch).trans h5⟩
  have hfree : u.holds 1 = false := by
    have : u.svcs[1]? = s.svcs[1]? := hf.svc 1 (by decide) hv
    simpa only [State.holds, this] using hv
  have hreading : ∀ l ∈ ls, l.state ≠ .reading := by
    intro l hl
    obtain ⟨x, hx, hxs⟩ := hst l hl
    rw [hxs]
    rcases hf.idle hi x hx with h | h | h | h <;> rw [h] <;> decide
  have hwatch : u.bellWatch = { u with due := u.due ++ u.parts.flatMap fun q => q.silence u.gtc } := by
    have hadds := State.eachPart_adds (s := u) (f := State.watch) (g := fun q => q.silence u.gtc) (hf.distinct hn) fun t hg q hq => by
      rw [State.watch_calm (hsteady q hq).running (hsteady q hq).recess, hg]
    unfold State.bellWatch
    rw [if_neg (by simp [hfree]), hadds]
    exact State.receive_eq_self hreading
  have hrung : s.rung.due = u.due ++ u.parts.flatMap fun q => q.silence u.gtc := by
    unfold State.rung
    rw [he, State.eachPart_notePending_due, State.bellTurns_steady hsteady]
    show u.bellWatch.due = _
    rw [hwatch]
  refine ⟨ds, ?_, hdl hh⟩
  have hparts : u.parts = s.parts.map Part.latch := hf.parts
  have hdue : u.due = s.due ++ ds := hds
  have hgtc : u.gtc = s.gtc := hf.gtc
  rw [hrung, hparts, hdue, hgtc, List.flatMap_map]
  rfl

/-- R350: a running partition is hung after 4096 periods without a sign of life. -/
theorem State.bell_hangs {s : State} (hn : s.Distinct) (hv : s.holds 1 = false) (hh : s.heldWork = []) (hi : s.Idle)
    (hs : ∀ q ∈ s.parts, q.Steady s) {q : Part} (hq : q ∈ s.parts) (hno : ∀ x ∈ s.due, x.what ≠ .hangDetected q.num) :
    s.rung.nextBell.Later none s.gtc (.hangDetected q.num) ↔ q.sign + 4096 * 4032 ≤ q.ttc s.gtc := by
  obtain ⟨ds, hdue, hdl⟩ := State.rung_watches hn hv hh hi hs
  have hall : s.rung.nextBell.due = s.rung.due ++ [{ clock := none, due := s.rung.gtc + 4032, key := [0], who := Meta.none,
                                                      what := .bell }] := rfl
  constructor
  · rintro ⟨x, hx, -, -, hw⟩
    rw [hall, hdue] at hx
    simp only [List.mem_append, List.mem_singleton, List.mem_flatMap] at hx
    rcases hx with ((hx | hx) | ⟨r, hr, hx⟩) | rfl
    · exact absurd hw (hno x hx)
    · obtain ⟨v, hv⟩ := hdl x hx
      rw [hv] at hw
      cases hw
    · unfold Part.silence at hx
      split at hx
      case isTrue hc =>
        obtain rfl := List.mem_singleton.1 hx
        have hnum : r.num = q.num := by simpa using hw
        obtain rfl : r = q := List.inj_on_of_nodup_map hn hr hq hnum
        exact hc
      case isFalse => cases hx
    · cases hw
  · intro hc
    refine ⟨{ clock := none, due := s.gtc, key := [0, 5, q.num], who := Meta.none, what := .hangDetected q.num }, ?_, rfl, rfl, rfl⟩
    rw [hall, hdue]
    simp only [List.mem_append, List.mem_flatMap]
    exact .inl (.inr ⟨q, hq, by simp [Part.silence, show q.sign + hangCycles ≤ q.ttc s.gtc from hc]⟩)

end Sys2Proof.Machine
end

section
namespace Sys2Proof.Machine

/-! ### What the room for a launch depends on (R210, R220, R347) -/

/-- What of a partition the room for others depends on. -/
def Part.room (q : Part) : Part :=
  { Part.fresh q.num 0 q.cores 0 .loaded with
    sub := q.sub, variant := q.variant, dies := q.dies, groups := q.groups, offsets := q.offsets, group := q.group }

/-- A launch but for the time for which it has stood at a head. -/
def Launch.plain (l : Launch) : Launch := { l with headSince := none }

/-- What of the machine the room for a launch depends on. -/
def State.room (s : State) : State :=
  { State.reset with
    tenants := s.tenants, lasting := s.lasting, testing := s.testing, ports := s.ports, cores := s.cores,
    dies := s.dies.map fun d => { Die.reset with ring := d.ring },
    hbm := s.hbm.map fun k => { Stack.reset with timing := k.timing },
    parts := s.parts.map Part.room, launches := s.launches.map Launch.plain }

theorem State.room_launch (s : State) (k : Nat) : s.room.launch k = (s.launch k).map Launch.plain :=
  State.launch_map (s := { s.room with launches := s.launches }) (g := Launch.plain) (fun _ => rfl) k

theorem State.room_timing (s : State) (i : Nat) : s.room.timing i = s.timing i := by
  simp only [State.timing, State.room, Vector.getElem?_map]
  cases s.hbm[i]? <;> rfl

theorem State.room_ring (s : State) (d : Nat) : (s.room.die d).ring = (s.die d).ring := by
  simp only [State.die, State.room, Vector.getElem?_map]
  cases s.dies[d]? <;> rfl

theorem State.room_freeGroups (s : State) (allowed : List Nat) : s.room.freeGroups allowed = s.freeGroups allowed := by
  have h (g : Nat) : (s.room.parts.any fun q => q.groups.contains g) = s.parts.any fun q => q.groups.contains g := by
    simp only [State.room, List.any_map]
    rfl
  simp only [State.freeGroups, h]
  rfl

theorem State.room_joined (s : State) (g : Option Nat) : s.room.joined g = s.joined g := by
  have h : (s.room.parts.any fun q => q.group == g) = s.parts.any fun q => q.group == g := by
    simp only [State.room, List.any_map]
    rfl
  simp only [State.joined, h]

theorem State.room_storeSpans (s : State) (die : Nat) : s.room.storeSpans die = s.storeSpans die := by
  have h (q : Part) : ((s.room.launches.find? fun l => l.sub == q.room.sub).bind fun l =>
      l.syl.bind fun y => y.variant q.room.variant) =
      (s.launches.find? fun l => l.sub == q.sub).bind fun l => l.syl.bind fun y => y.variant q.variant := by
    have := State.room_launch s q.sub
    simp only [State.launch] at this
    rw [show q.room.sub = q.sub from rfl, this]
    cases s.launches.find? fun l => l.sub == q.sub <;> rfl
  have hparts : s.room.parts = s.parts.map Part.room := rfl
  simp only [State.storeSpans, hparts, List.flatMap_map, h]
  rfl

theorem State.room_blockFits (s : State) : s.room.blockFits = s.blockFits := by
  funext v i d
  simp only [State.blockFits, State.storeGaps, State.room_storeSpans]

theorem State.room_groupFits (s : State) : s.room.groupFits = s.groupFits := by
  funext v dies j g
  simp only [State.groupFits, State.room_timing]

theorem State.room_fits (s : State) (a : Avail) (l : Launch) (v : Variant) : s.room.fits a l v = s.fits a l v := by
  have hlinks : s.room.linksFree = s.linksFree := rfl
  have htenants : s.room.tenants = s.tenants := rfl
  simp only [State.fits, hlinks, htenants, State.room_joined, State.choices, State.room_blockFits, State.room_groupFits,
    State.room_freeGroups]

theorem State.room_fitting (s : State) (a : Avail) (l : Launch) : s.room.fitting a l = s.fitting a l := by
  simp only [State.fitting, State.fittingIf, State.room_fits]

theorem State.room_avail (s : State) : s.room.avail = s.avail := by
  simp only [State.avail, State.room_ring]
  rfl

theorem State.room_availWith (s : State) (qs : List Part) : s.room.availWith (qs.map Part.room) = s.availWith qs := by
  simp only [State.availWith, State.room_avail, State.room_ring, List.any_map]
  rfl

theorem State.room_isReady (s : State) (l : Launch) : s.room.isReady l.plain = s.isReady l := by
  have hall : (s.room.launches.all fun x => !(x.tenant == l.tenant && x.level == l.level && x.joined != 0 &&
      decide (x.joined < l.joined)) || x.state.settled) = s.launches.all fun x => !(x.tenant == l.tenant &&
      x.level == l.level && x.joined != 0 && decide (x.joined < l.joined)) || x.state.settled := by
    simp only [State.room, List.all_map]
    rfl
  have hset (k : Nat) : ((s.room.launch k).map fun x => x.state.settled) = (s.launch k).map fun x => x.state.settled := by
    rw [State.room_launch, Option.map_map]
    rfl
  have hret (k : Nat) : ((s.room.launch k).map fun x => x.state == .retired) = (s.launch k).map fun x => x.state == .retired := by
    rw [State.room_launch, Option.map_map]
    rfl
  have hhead : s.room.isHead l.plain = s.isHead l := by
    simp only [State.isHead]
    exact congrArg (_ && ·) hall
  simp only [State.isReady, hhead, hset, hret]
  rfl

end Sys2Proof.Machine
end

section
namespace Sys2Proof.Machine

/-! ### Machines with the same room -/

section
variable {s t : State} (h : t.room = s.room)
include h

theorem State.fitting_of_room (a : Avail) (l : Launch) : t.fitting a l = s.fitting a l := by
  rw [← State.room_fitting t, h, State.room_fitting]

theorem State.avail_of_room : t.avail = s.avail := by rw [← State.room_avail t, h, State.room_avail]

theorem State.availWith_of_room {qs rs : List Part} (hq : rs.map Part.room = qs.map Part.room) :
    t.availWith rs = s.availWith qs := by
  rw [← State.room_availWith t, h, hq, State.room_availWith]

theorem State.isReady_of_room {l m : Launch} (hm : m.plain = l.plain) : t.isReady m = s.isReady l := by
  rw [← State.room_isReady t, h, hm, State.room_isReady]

end

theorem State.availWith_nil (s : State) : s.availWith [] = s.avail := by
  simp [State.availWith]

/-! ### The head of one queue (R218, R220) -/

/-- The only launch that waits in a queue: it stands ready at its head. -/
structure State.Alone (s : State) (l : Launch) : Prop where
  mem : l ∈ s.launches
  ready : s.isReady l = true
  distinct : (s.launches.map Launch.sub).Nodup
  others : ∀ x ∈ s.launches, x.sub ≠ l.sub → x.state ≠ .queued

theorem filter_eq_singleton {α : Type} {p : α → Bool} {xs : List α} {x : α} (hn : xs.Nodup) (hx : x ∈ xs)
    (hp : ∀ y ∈ xs, p y = true ↔ y = x) : xs.filter p = [x] := by
  refine List.perm_singleton.1 ((List.perm_ext_iff_of_nodup (hn.filter p) (List.nodup_singleton x)).2 fun y => ?_)
  rw [List.mem_filter, List.mem_singleton]
  constructor
  · rintro ⟨hy, hpy⟩
    exact (hp y hy).1 hpy
  · rintro rfl
    exact ⟨hx, (hp y hx).2 rfl⟩

theorem State.Alone.not_ready {s : State} {l x : Launch} (h : s.Alone l) (hx : x ∈ s.launches) (hr : s.isReady x = true) :
    x = l := by
  have hq : x.state = .queued := ((State.isReady_iff s x).1 hr).1
  have : x.sub = l.sub := by
    by_contra hne
    exact h.others x hx hne hq
  exact List.inj_on_of_nodup_map h.distinct hx h.mem this

theorem inTurn_singleton (last t : Nat) : inTurn last [t] = [t] := by
  have hd : dedup (· == ·) [t] = [t] := rfl
  have hs : sortBy (fun a b => decide (a < b)) [t] = [t] := rfl
  unfold inTurn
  rw [hd, hs]
  by_cases h : last < t
  · simp [h, Nat.not_le.2 h]
  · simp [h, Nat.le_of_not_lt h]

theorem State.Alone.headsAt {s : State} {l : Launch} (h : s.Alone l) (k : Nat) :
    s.headsAt k = if l.level = k then [l] else [] := by
  have hfil : (s.launches.filter fun x => x.level == k && s.isReady x) = if l.level = k then [l] else [] := by
    split
    case isTrue hk =>
      refine filter_eq_singleton (List.Nodup.of_map _ h.distinct) h.mem fun y hy => ?_
      simp only [Bool.and_eq_true, beq_iff_eq]
      constructor
      · exact fun hy' => h.not_ready hy hy'.2
      · rintro rfl
        exact ⟨hk, h.ready⟩
    case isFalse hk =>
      refine List.filter_eq_nil_iff.2 fun y hy hy' => hk ?_
      simp only [Bool.and_eq_true, beq_iff_eq] at hy'
      rw [← h.not_ready hy hy'.2]
      exact hy'.1
  unfold State.headsAt
  rw [hfil]
  split
  · simp [inTurn_singleton]
  · simp [inTurn, dedup, sortBy]

theorem State.Alone.heads {s : State} {l : Launch} (h : s.Alone l) (hl : l.level < 4) : s.heads = [l] := by
  have : s.heads = (List.range 4).flatMap fun k => if l.level = k then [l] else [] := by
    unfold State.heads
    congr 1
    funext k
    exact h.headsAt k
  rw [this]
  match hk : l.level, hl with
  | 0, _ | 1, _ | 2, _ | 3, _ => rfl

theorem State.headsAt_of_not_queued {s : State} (h : ∀ l ∈ s.launches, l.state ≠ .queued) (k : Nat) : s.headsAt k = [] := by
  have : (s.launches.filter fun l => l.level == k && s.isReady l) = [] := by
    refine List.filter_eq_nil_iff.2 fun l hl hr => ?_
    simp only [Bool.and_eq_true] at hr
    exact h l hl ((State.isReady_iff s l).1 hr.2).1
  unfold State.headsAt
  rw [this]
  simp [inTurn, dedup, sortBy]

/-- Where no partition is to return, a level's heads alone are admitted. -/
theorem State.admitLevel_of_no_return {s : State} (h : ∀ q ∈ s.parts, q.status ≠ .recessed) (level : Nat) :
    s.admitLevel level = (s.headsAt level).foldl State.admitHead s := by
  have : (s.parts.filter fun q => q.returns && (s.launch q.sub).any fun l => l.level == level) = [] := by
    refine List.filter_eq_nil_iff.2 fun q hq => ?_
    simp [Part.returns, h q hq]
  unfold State.admitLevel
  rw [this]
  rfl

/-- The levels before and after the one whose head is admitted find no head. -/
theorem State.Alone.admitLevels {s t : State} {l : Launch} (h : s.Alone l) (hl : l.level < 4)
    (hs : ∀ q ∈ s.parts, q.status ≠ .recessed) (ht : s.admitHead l = t) (hkeep : ∀ k, l.level < k → t.admitLevel k = t) :
    (List.range 4).foldl State.admitLevel s = t := by
  have hbefore (k : Nat) (hk : k < l.level) : s.admitLevel k = s := by
    rw [State.admitLevel_of_no_return hs, h.headsAt, if_neg (by omega)]
    rfl
  have hat : s.admitLevel l.level = t := by
    rw [State.admitLevel_of_no_return hs, h.headsAt, if_pos rfl]
    exact ht
  have hsplit : List.range 4 = List.range l.level ++ l.level :: (List.range (3 - l.level)).map (l.level + 1 + ·) := by
    match l.level, hl with
    | 0, _ | 1, _ | 2, _ | 3, _ => rfl
  rw [hsplit, List.foldl_append, foldl_eq_self fun k hk => hbefore k (List.mem_range.1 hk), List.foldl_cons, hat]
  refine foldl_eq_self fun k hk => hkeep k ?_
  obtain ⟨i, -, rfl⟩ := List.mem_map.1 hk
  omega

end Sys2Proof.Machine
end

section
namespace Sys2Proof.Machine

/-! ### The machine before the heads of the queues are seen to -/

theorem State.Fronts.room {s u : State} (h : s.Fronts u) : u.room = s.room := by
  have hdies : (u.dies.map fun d => { Die.reset with ring := d.ring }) = s.dies.map fun d => { Die.reset with ring := d.ring } := by
    ext1 i hi
    have := h.ring i
    simp only [State.die, Vector.getElem?_eq_getElem hi, Option.getD_some] at this
    simp only [Vector.getElem_map, this]
  have hhbm : (u.hbm.map fun k => { Stack.reset with timing := k.timing }) =
      s.hbm.map fun k => { Stack.reset with timing := k.timing } := by
    ext1 i hi
    have := h.timing i
    simp only [State.timing, Vector.getElem?_eq_getElem hi, Option.getD_some] at this
    simp only [Vector.getElem_map, this]
  unfold State.room
  rw [hdies, hhbm, h.tenants, h.lasting, h.testing, h.ports, h.cores, h.parts, h.launches, List.map_map]
  rfl

theorem State.free_of_svcs {s t : State} {v : Service} (h : t.svcs[v.idx]? = s.svcs[v.idx]?) (hf : s.Free v) : t.Free v := by
  simpa only [State.Free, State.holds, State.svc, h] using hf

/-- The machine at a bell when the heads of the queues have been timed: one launch waits, ready at its queue's head. -/
structure State.Poised (s w : State) (l m : Launch) : Prop where
  gtc : w.gtc = s.gtc
  room : w.room = s.room
  parts : w.parts = s.parts.map Part.latch
  alone : w.Alone m
  plain : m.plain = l.plain
  svc : ∀ v, v ≠ .prefect → s.Free v → w.Free v

theorem Launch.plain_sub {l m : Launch} (h : m.plain = l.plain) : m.sub = l.sub :=
  (congrArg Launch.sub h : m.plain.sub = l.plain.sub)
theorem Launch.plain_level {l m : Launch} (h : m.plain = l.plain) : m.level = l.level :=
  (congrArg Launch.level h : m.plain.level = l.plain.level)
theorem Launch.plain_members {l m : Launch} (h : m.plain = l.plain) : m.members = l.members :=
  (congrArg Launch.members h : m.plain.members = l.plain.members)

/-- Launches that differ in the time at their heads alone fit alike. -/
theorem State.fitting_plain (s : State) (a : Avail) {l m : Launch} (h : m.plain = l.plain) : s.fitting a m = s.fitting a l := by
  have hp (x : Launch) : s.fitting a x.plain = s.fitting a x := rfl
  rw [← hp m, h, hp]

theorem State.bell_poised {s : State} {l : Launch} (halone : s.Alone l) (hc : s.Calm) (hv : s.Free .registrar) :
    let w := (s.front.timeHeads false).orderPromotions
    s.front.bellOffice =
      (if w.preempt.holds 1 then w.preempt else (List.range 4).foldl State.admitLevel w.preempt) ∧
    ∃ m, s.Poised w l m := by
  intro w
  have hf := s.front_fronts
  have hfree : s.front.holds 1 = false := (State.free_of_svcs (hf.svc 1 (by decide) hv.1) hv).1
  have hlaunch (k : Nat) : s.front.launch k = s.launch k := by simp only [State.launch, hf.launches]
  have honly (x : Launch) (hx : x ∈ s.front.launches) (hq : x.state = .queued) : x = l := by
    rw [hf.launches] at hx
    by_contra hne
    exact halone.others x hx (fun hs => hne (List.inj_on_of_nodup_map halone.distinct hx halone.mem hs)) hq
  obtain ⟨hqueued, hjoined, -, -, hpreds⟩ := (State.isReady_iff s l).1 halone.ready
  constructor
  · unfold State.bellOffice
    rw [if_neg (by simp [hfree])]
    refine (hf.calm hc).registrarBell hfree (fun x hx hq => ?_) (fun x hx hq => ?_)
    · obtain rfl := honly x hx hq
      refine List.any_eq_false.2 fun p hp => ?_
      obtain ⟨y, hy, hret⟩ := hpreds p hp
      simp [hlaunch, hy, hret, LaunchState.lost]
    · obtain rfl := honly x hx hq
      exact hjoined
  · obtain ⟨ds, hds⟩ := State.orderPromotions_eq (s.front.timeHeads false)
    rw [State.timeHeads_eq] at hds
    have hw : w = { s.front with launches := s.front.launches.map (s.front.timed false), due := s.front.due ++ ds } := by
      simp only [w]
      rw [State.timeHeads_eq, hds]
    have hplain (x : Launch) : (s.front.timed false x).plain = x.plain := rfl
    have hroom : w.room = s.room := by
      rw [← hf.room, hw]
      unfold State.room
      rw [List.map_map]
      rfl
    clear_value w
    have hlaunches : w.launches = s.launches.map (s.front.timed false) := by rw [hw, ← hf.launches]
    refine ⟨s.front.timed false l, ?_, hroom, ?_, ⟨?_, ?_, ?_, ?_⟩, hplain l, fun v hne hfv => ?_⟩
    · rw [hw]; exact hf.gtc
    · rw [hw]; exact hf.parts
    · rw [hlaunches]; exact List.mem_map_of_mem halone.mem
    · rw [State.isReady_of_room hroom (hplain l)]; exact halone.ready
    · rw [hlaunches, List.map_map]; exact halone.distinct
    · intro x hx
      rw [hlaunches] at hx
      obtain ⟨y, hy, rfl⟩ := List.mem_map.1 hx
      exact halone.others y hy
    · have hidx : v.idx ≠ 0 := by
        cases v with
        | prefect => exact absurd rfl hne
        | registrar => decide
        | porter => decide
      have : w.svcs[v.idx]? = s.svcs[v.idx]? := by rw [hw]; exact hf.svc _ hidx hfv.1
      exact State.free_of_svcs this hfv

/-! ### The admission of the head (R220) -/

/-- An admission, where the launch fits and a partition number is free. -/
theorem State.admission_enters {s : State} {l : Launch} {vn bell : Nat} {v : Variant} (hf : s.fits s.avail l v = true)
    (hfree : ∃ k, 1 ≤ k ∧ k ≤ 96 ∧ s.part k = none) : ∃ q : Part, s.part q.num = none ∧ q.sub = l.sub ∧ q.variant = vn ∧
      q.status = .loaded ∧ s.admission l vn v bell = (s.enterPart q v).settle l.sub q.num bell := by
  have hne : s.choices s.avail (((s.tenants.find? fun t => t.num == l.tenant).map (·.groups)).getD []) v (s.blockFits v) none ≠ [] := by
    unfold State.fits at hf
    cases ht : s.tenants.find? fun t => t.num == l.tenant with
    | none => rw [ht] at hf; cases hf
    | some n =>
      rw [ht] at hf
      simp only [Bool.and_eq_true, Bool.not_eq_true', List.isEmpty_eq_false_iff] at hf
      exact hf.2
  obtain ⟨⟨dies, quads⟩, hc, -⟩ := choose_of_ne_nil hne (Config.freeNat (s.free + 0))
  obtain ⟨num, hnum, -, -, hnone⟩ := State.free_number hfree (Config.freeNat (s.free + 1))
  exact ⟨s.newPart l vn v bell num dies quads, hnone, rfl, rfl, rfl, State.admission_eq hc hnum⟩

/-- What an admission makes of a launch. -/
def Launch.takenIn (sub gtc : Nat) (x : Launch) : Launch :=
  if x.sub == sub then { x with state := .admitted, admitted := gtc, headSince := none } else x

/-- A head that fits is admitted, for the next bell. -/
theorem State.admitAt_enters {s : State} {l : Launch} {vn bell : Nat} {v : Variant} (hf : s.fits s.avail l v = true)
    (hfree : ∃ k, 1 ≤ k ∧ k ≤ 96 ∧ s.part k = none) (hr : s.Free .registrar) (hp : v.links = [] ∨ s.Free .porter) :
    ∃ q : Part, s.part q.num = none ∧ q.sub = l.sub ∧ q.variant = vn ∧ q.status = .loaded ∧
      (s.admitAt l vn v bell).parts = s.parts ++ [q] ∧
      (s.admitAt l vn v bell).launches = s.launches.map (Launch.takenIn l.sub s.gtc) ∧
      (s.admitAt l vn v bell).Later none bell (.partitionStart q.num) := by
  -- the fact of the slot table, where there are link slots
  obtain ⟨vs, h1, hhold, hr1⟩ : ∃ vs, (if v.links.isEmpty then s else s.journal .porter .slotTable) = s.withSvcs vs ∧
      ¬ ((s.withSvcs vs).holds 2 = true ∧ ¬ v.links.isEmpty = true) ∧ (s.withSvcs vs).Free .registrar := by
    by_cases hl : v.links.isEmpty = true
    · exact ⟨s.svcs, if_pos hl, fun h => h.2 hl, hr⟩
    · obtain ⟨vs, hj, hh, ho⟩ := State.journal_free (hp.resolve_left (by simpa using hl)) .slotTable
      refine ⟨vs, by rw [if_neg hl, hj], fun h => ?_, State.free_of_svcs (ho 1 (by decide)) hr⟩
      rw [show (s.withSvcs vs).holds 2 = false from hh] at h
      exact absurd h.1 (by decide)
  obtain ⟨vs2, h2, hh2, -⟩ := State.journal_free hr1 .admission
  let u : State := (s.withSvcs vs).withSvcs vs2
  obtain ⟨q, hnone, hsub, hvar, hst, hadm⟩ := State.admission_enters (s := u) (l := l) (vn := vn) (bell := bell) hf hfree
  have hstated : (s.withSvcs vs).stated .registrar .admission (·.admission l vn v bell) = u.admission l vn v bell := by
    simp only [State.stated, h2]
    rw [if_neg (by rw [hh2]; decide)]
  obtain ⟨hgtc, hparts, hlaunches, -⟩ := State.desk_eq (State.enterPart_desk u q v)
  have he : (u.admission l vn v bell).parts = s.parts ++ [q] ∧
      (u.admission l vn v bell).launches = s.launches.map (Launch.takenIn l.sub s.gtc) ∧
      (u.admission l vn v bell).Later none bell (.partitionStart q.num) := by
    rw [hadm]
    refine ⟨hparts, ?_, State.later_schedG ..⟩
    show ((u.enterPart q v).launches.map fun x => _) = _
    rw [hlaunches, hgtc]
    rfl
  refine ⟨q, hnone, hsub, hvar, hst, ?_⟩
  unfold State.admitAt
  simp only [h1]
  rw [if_neg hhold, hstated]
  split <;> exact he

end Sys2Proof.Machine
end

section
namespace Sys2Proof.Machine

theorem State.fits_of_fitting {s : State} {a : Avail} {l : Launch} {vn : Nat} {v : Variant} (h : s.fitting a l = some (vn, v)) :
    s.fits a l v = true := by
  unfold State.fitting State.fittingIf at h
  obtain ⟨y, -, hy⟩ := Option.bind_eq_some_iff.1 h
  simpa using List.find?_some hy

theorem State.admitHead_fits {s : State} {l : Launch} {vn : Nat} {v : Variant} (hm : l.members = 0)
    (hr : s.isReady l = true) (hf : s.fitting s.avail l = some (vn, v)) :
    s.admitHead l = s.admitAt l vn v (s.gtc + 4032) := by
  unfold State.admitHead
  rw [if_neg (by simp [hm, hr]), hf]
  rfl

theorem State.admitHead_none {s : State} {l : Launch} (hf : s.fitting s.avail l = none) : s.admitHead l = s := by
  unfold State.admitHead
  split
  · rfl
  · rw [hf]

/-- The state of the launch of a number. -/
theorem State.launch_state {s t : State} (h : t.launches.map (fun l => (l.sub, l.state)) = s.launches.map fun l => (l.sub, l.state))
    (k : Nat) : (t.launch k).map Launch.state = (s.launch k).map Launch.state := by
  have hfind (s : State) : (s.launch k).map Launch.state =
      ((s.launches.map fun l => (l.sub, l.state)).find? fun x => x.1 == k).map Prod.snd := by
    rw [List.find?_map, Option.map_map]
    rfl
  rw [hfind, h, ← hfind]

/-- The end of a bell keeps a partition that is loaded, its launch and its start. -/
theorem State.After.admitted {o : List Nat} {s t : State} (h : s.After o t) (hn : s.Distinct) {q : Part} (hq : q ∈ s.parts)
    (hl : q.status = .loaded) : ∃ r, t.part r.num = some r ∧ r.num = q.num ∧ r.sub = q.sub ∧ r.variant = q.variant ∧
      r.status = .loaded := by
  obtain ⟨r, hr, hf⟩ := forall₂_exists h.parts hq
  exact ⟨r, State.part_of_mem (h.distinct hn) hr, hf.num, hf.sub, hf.variant, hf.loaded hl⟩

theorem State.part_latch_none {s w : State} (h : w.parts = s.parts.map Part.latch) {k : Nat} :
    w.part k = none ↔ s.part k = none := by
  rw [State.part_eq_none_iff, State.part_eq_none_iff, h, List.map_map]
  rfl

theorem State.Poised.not_recessed {s w : State} {l m : Launch} (h : s.Poised w l m) (hc : s.Calm) :
    ∀ q ∈ w.parts, q.status = .running ∧ q.recess = none := by
  intro q hq
  rw [h.parts] at hq
  obtain ⟨x, hx, rfl⟩ := List.mem_map.1 hq
  exact hc x hx

theorem State.Poised.distinct {s w : State} {l m : Launch} (h : s.Poised w l m) (hn : s.Distinct) : w.Distinct := by
  unfold State.Distinct
  rw [h.parts, List.map_map]
  exact hn

theorem State.Poised.fitting {s w : State} {l m : Launch} (h : s.Poised w l m) : w.fitting w.avail m = s.fitting s.avail l := by
  rw [State.avail_of_room h.room, State.fitting_of_room h.room, State.fitting_plain s _ h.plain]

/-- A launch that is taken in is admitted. -/
theorem State.launch_takenIn {s t : State} {k g : Nat} {l : Launch} (h : s.launch k = some l)
    (ht : t.launches = s.launches.map (Launch.takenIn k g)) : (t.launch k).map Launch.state = some .admitted := by
  have hsub (x : Launch) : (x.takenIn k g).sub = x.sub := by
    unfold Launch.takenIn
    split <;> rfl
  have h1 : t.launch k = (s.launch k).map (Launch.takenIn k g) := by
    rw [← State.launch_map hsub]
    simp only [State.launch, ht]
  rw [h1, h, Option.map_some, Launch.takenIn, if_pos (by simp [State.launch_sub h])]
  rfl

/-- R220: at a bell the head that fits is admitted, to start at the next one. -/
theorem State.bell_admits {s : State} {l : Launch} {vn : Nat} {v : Variant} (halone : s.Alone l) (hc : s.Calm) (hn : s.Distinct)
    (hv : s.Free .registrar) (hlev : l.level < 4) (hmem : l.members = 0) (hfit : s.fitting s.avail l = some (vn, v))
    (hfree : ∃ k, 1 ≤ k ∧ k ≤ 96 ∧ s.part k = none) (hp : v.links = [] ∨ s.Free .porter) :
    ∃ q : Part, s.rung.part q.num = some q ∧ s.part q.num = none ∧ q.sub = l.sub ∧ q.variant = vn ∧ q.status = .loaded ∧
      (s.rung.launch l.sub).map Launch.state = some .admitted ∧ s.rung.Later none (s.gtc + 4032) (.partitionStart q.num) := by
  obtain ⟨hoff, m, hw⟩ := State.bell_poised halone hc hv
  generalize (s.front.timeHeads false).orderPromotions = w at *
  have hfitw : w.fitting w.avail m = some (vn, v) := hw.fitting.trans hfit
  have hlevm : m.level = l.level := Launch.plain_level hw.plain
  have hheads : w.heads = [m] := hw.alone.heads (by omega)
  have hpre : w.preempt = w := by
    unfold State.preempt
    rw [hheads, List.find?_singleton, hfitw]
    rfl
  have hwfree : w.Free .registrar := hw.svc .registrar (by decide) hv
  have hadmit := State.admitHead_fits ((Launch.plain_members hw.plain).trans hmem) hw.alone.ready hfitw
  obtain ⟨q, hnone, hsub, hvar, hst, hparts, hlaunches, hlater⟩ := State.admitAt_enters (s := w) (l := m) (vn := vn)
    (bell := w.gtc + 4032) (State.fits_of_fitting hfitw)
    (hfree.imp fun k hk => ⟨hk.1, hk.2.1, (State.part_latch_none hw.parts).2 hk.2.2⟩) hwfree
    (hp.imp_right (hw.svc .porter (by decide)))
  have hret := State.admitAt_retains (hw.distinct hn) m vn v (w.gtc + 4032)
  generalize w.admitAt m vn v (w.gtc + 4032) = y at *
  have hlevels : (List.range 4).foldl State.admitLevel w = y := by
    refine hw.alone.admitLevels (by omega) (fun q hq => by simp [(hw.not_recessed hc q hq).1]) hadmit fun k _ => ?_
    rw [State.admitLevel_of_no_return, State.headsAt_of_not_queued]
    · rfl
    · intro x hx
      rw [hlaunches] at hx
      obtain ⟨z, hz, rfl⟩ := List.mem_map.1 hx
      unfold Launch.takenIn
      split
      case isTrue => simp
      case isFalse hne => exact hw.alone.others z hz (by simpa using hne)
    · intro x hx
      rw [hparts] at hx
      rcases List.mem_append.1 hx with hx | hx
      · simp [(hw.not_recessed hc x hx).1]
      · obtain rfl := List.mem_singleton.1 hx
        simp [hst]
  have hoffy : s.front.bellOffice = y := by
    rw [hoff, hpre, if_neg (by rw [show w.holds 1 = false from hwfree.1]; decide), hlevels]
  have hafter : y.After s.front.ordered s.rung := by
    unfold State.rung
    rw [hoffy]
    exact State.after_end _ hret.distinct
  obtain ⟨r, hr, hnum, hrsub, hrvar, hrst⟩ := hafter.admitted hret.distinct (q := q) (by simp [hparts]) hst
  have hadmitted := State.launch_takenIn (Launch.plain_sub hw.plain ▸ State.launch_of_mem hw.alone.distinct hw.alone.mem)
    (Launch.plain_sub hw.plain ▸ hlaunches)
  refine ⟨r, hr, ?_, hrsub.trans (hsub.trans (Launch.plain_sub hw.plain)), hrvar.trans hvar, hrst, ?_, ?_⟩
  · rw [hnum]
    exact (State.part_latch_none hw.parts).1 hnone
  · rw [State.launch_state hafter.launches, hadmitted]
  · rw [hnum, ← hw.gtc]
    exact hlater.mono hafter.due

end Sys2Proof.Machine
end

section
namespace Sys2Proof.Machine

/-! ### Sorting -/

theorem insertBy_perm {α : Type} (lt : α → α → Bool) (x : α) (xs : List α) : (insertBy lt x xs).Perm (x :: xs) := by
  induction xs with
  | nil => exact .refl _
  | cons y ys ih =>
    unfold insertBy
    split
    · exact .refl _
    · exact (ih.cons y).trans (List.Perm.swap x y ys)

theorem sortBy_perm {α : Type} (lt : α → α → Bool) (xs : List α) : (sortBy lt xs).Perm xs := by
  induction xs with
  | nil => exact .refl _
  | cons x xs ih => exact (insertBy_perm lt x _).trans (ih.cons x)

theorem insertBy_sorted {α : Type} {lt : α → α → Bool} (htrans : ∀ a b c, lt a b = true → lt b c = true → lt a c = true)
    {x : α} {xs : List α} (hx : ∀ y ∈ xs, lt x y = true ∨ lt y x = true) (hs : xs.Pairwise fun a b => lt a b = true) :
    (insertBy lt x xs).Pairwise fun a b => lt a b = true := by
  induction xs with
  | nil => exact List.pairwise_singleton ..
  | cons y ys ih =>
    obtain ⟨hy, hys⟩ := List.pairwise_cons.1 hs
    unfold insertBy
    split
    case isTrue hxy =>
      refine List.pairwise_cons.2 ⟨fun z hz => ?_, hs⟩
      rcases List.mem_cons.1 hz with rfl | hz
      · exact hxy
      · exact htrans _ _ _ hxy (hy z hz)
    case isFalse hxy =>
      refine List.pairwise_cons.2 ⟨fun z hz => ?_, ih (fun z hz => hx z (by simp [hz])) hys⟩
      rcases List.mem_cons.1 ((insertBy_perm lt x ys).mem_iff.1 hz) with rfl | hz
      · exact (hx y (by simp)).resolve_left hxy
      · exact hy z hz

theorem sortBy_sorted {α : Type} {lt : α → α → Bool} (htrans : ∀ a b c, lt a b = true → lt b c = true → lt a c = true)
    {xs : List α} (hx : xs.Pairwise fun a b => lt a b = true ∨ lt b a = true) :
    (sortBy lt xs).Pairwise fun a b => lt a b = true := by
  induction xs with
  | nil => exact .nil
  | cons x xs ih =>
    obtain ⟨h1, h2⟩ := List.pairwise_cons.1 hx
    exact insertBy_sorted htrans (fun y hy => h1 y ((sortBy_perm lt xs).mem_iff.1 hy)) (ih h2)

/-! ### The order of sublists of a length -/

/-- Lists that differ first in an element of the one that comes before that of the other. -/
def Lex {α : Type} (R : α → α → Prop) (as bs : List α) : Prop :=
  ∃ k x y, as.take k = bs.take k ∧ as[k]? = some x ∧ bs[k]? = some y ∧ R x y

theorem subsets_lex {α : Type} {R : α → α → Prop} {xs : List α} (h : xs.Pairwise R) (k : Nat) :
    (subsets k xs).Pairwise (Lex R) := by
  induction xs generalizing k with
  | nil =>
    cases k with
    | zero => exact List.pairwise_singleton ..
    | succ k => exact .nil
  | cons x xs ih =>
    obtain ⟨hx, hxs⟩ := List.pairwise_cons.1 h
    cases k with
    | zero => exact List.pairwise_singleton ..
    | succ k =>
      refine List.pairwise_append.2 ⟨List.pairwise_map.2 ((ih hxs k).imp ?_), ih hxs (k + 1), fun as ha bs hb => ?_⟩
      · rintro as bs ⟨j, y, z, htake, hy, hz, hR⟩
        exact ⟨j + 1, y, z, by simp [htake], by simpa using hy, by simpa using hz, hR⟩
      · obtain ⟨as, -, rfl⟩ := List.mem_map.1 ha
        obtain ⟨hsub, hlen⟩ := mem_subsets.1 hb
        cases bs with
        | nil => cases hlen
        | cons b bs => exact ⟨0, x, b, rfl, rfl, rfl, hx b (hsub.subset (by simp))⟩

theorem subsets_map {α β : Type} (f : α → β) (k : Nat) (xs : List α) :
    subsets k (xs.map f) = (subsets k xs).map (List.map f) := by
  induction xs generalizing k with
  | nil => cases k <;> rfl
  | cons x xs ih =>
    cases k with
    | zero => rfl
    | succ k =>
      simp only [List.map_cons, subsets, ih, List.map_append, List.map_map]
      rfl

/-- The first of some lists in their order that a test admits. -/
theorem find?_lex {α : Type} {R : α → α → Prop} {xss : List (List α)} (h : xss.Pairwise (Lex R)) {p : List α → Bool}
    {as bs : List α} (hf : xss.find? p = some as) (hb : bs ∈ xss) (hp : p bs = true) : bs = as ∨ Lex R as bs := by
  obtain ⟨-, pre, post, rfl, hno⟩ := List.find?_eq_some_iff_append.1 hf
  rcases List.mem_append.1 hb with hb | hb
  · have := hno bs hb
    rw [hp] at this
    exact absurd this (by decide)
  · rcases List.mem_cons.1 hb with rfl | hb
    · exact .inl rfl
    · exact .inr (List.rel_of_pairwise_cons (List.pairwise_append.1 h).2.1 hb)

/-! ### The launches that a head may pre-empt (R347) -/

/-- The urgency level of a partition's launch. -/
def State.urgency (s : State) (q : Part) : Nat := ((s.launch q.sub).map Launch.level).getD 0

/-- The order of pre-emption: the least urgent level first, and in a level the latest admitted. -/
def State.Before (s : State) (q q' : Part) : Prop :=
  s.urgency q' < s.urgency q ∨ (s.urgency q' = s.urgency q ∧ ∃ a b c, s.parts = a ++ q' :: b ++ q :: c)

theorem append_get {α : Type} {xs a b c : List α} {x y : α} (h : xs = a ++ x :: b ++ y :: c) :
    xs[a.length]? = some x ∧ xs[a.length + 1 + b.length]? = some y := by
  subst h
  refine ⟨by simp, ?_⟩
  have hl : (a ++ x :: b).length = a.length + 1 + b.length := by simp; omega
  rw [← hl, List.getElem?_append_right (le_refl _), Nat.sub_self]
  rfl

theorem append_of_get {α : Type} {xs : List α} {i j : Nat} {x y : α} (hi : xs[i]? = some x) (hj : xs[j]? = some y)
    (hij : i < j) : ∃ a b c, xs = a ++ x :: b ++ y :: c := by
  obtain ⟨hil, hx⟩ := List.getElem?_eq_some_iff.1 hi
  obtain ⟨hjl, hy⟩ := List.getElem?_eq_some_iff.1 hj
  refine ⟨xs.take i, (xs.take j).drop (i + 1), xs.drop (j + 1), ?_⟩
  have h1 : xs.drop j = y :: xs.drop (j + 1) := by rw [List.drop_eq_getElem_cons hjl, hy]
  have h2 : (xs.take j).drop i = x :: (xs.take j).drop (i + 1) := by
    rw [List.drop_eq_getElem_cons (by simp; omega), List.getElem_take, hx]
  have h3 : (xs.take j).take i = xs.take i := by rw [List.take_take, Nat.min_eq_left (by omega)]
  rw [← h1, ← h2, ← h3, List.take_append_drop, List.take_append_drop]

theorem State.Before.asymm {s : State} (hn : s.parts.Nodup) {q q' : Part} (h : s.Before q q') (h' : s.Before q' q) : False := by
  rcases h with h | ⟨he, a, b, c, hs⟩
  · rcases h' with h' | ⟨he', -⟩ <;> omega
  · rcases h' with h' | ⟨-, a', b', c', hs'⟩
    · omega
    · obtain ⟨h1, h2⟩ := append_get hs
      obtain ⟨h3, h4⟩ := append_get hs'
      have := getElem?_inj_of_nodup hn h1 h4
      have := getElem?_inj_of_nodup hn h2 h3
      omega

/-- What a head of a level may pre-empt. -/
def State.Preemptible (s : State) (level : Nat) (q : Part) : Prop :=
  q ∈ s.parts ∧ q.order = none ∧ level < s.urgency q

theorem State.mem_victims {s : State} (hc : s.Calm) {level : Nat} {q : Part} :
    q ∈ s.victims level ↔ s.Preemptible level q := by
  simp only [State.victims, List.mem_map, (sortBy_perm _ _).mem_iff, List.mem_filter, Bool.and_eq_true, beq_iff_eq,
    Option.isNone_iff_eq_none, decide_eq_true_eq]
  constructor
  · rintro ⟨⟨x, i⟩, ⟨hx, ⟨⟨-, -⟩, ho⟩, hl⟩, rfl⟩
    exact ⟨List.mem_of_getElem? (List.mem_zipIdx_iff_getElem?.1 hx), ho, hl⟩
  · rintro ⟨hq, ho, hl⟩
    obtain ⟨i, hi⟩ := List.mem_iff_getElem?.1 hq
    exact ⟨(q, i), ⟨List.mem_zipIdx_iff_getElem?.2 hi, ⟨⟨(hc q hq).1, (hc q hq).2⟩, ho⟩, hl⟩, rfl⟩

theorem keyLt_pair {a b c d : Nat} : keyLt [a, b] [c, d] = true ↔ a < c ∨ (a = c ∧ b < d) := by
  simp only [keyLt]
  split_ifs with h1 h2 h3 h4 <;> simp <;> omega

theorem State.victims_sorted (s : State) (level : Nat) : (s.victims level).Pairwise s.Before := by
  unfold State.victims
  extract_lets urgency cands
  have hmem (x : Part × Nat) (hx : x ∈ sortBy (fun a b : Part × Nat => keyLt [urgency b.1, b.2] [urgency a.1, a.2]) cands) :
      s.parts[x.2]? = some x.1 :=
    List.mem_zipIdx_iff_getElem?.1 (List.mem_filter.1 ((sortBy_perm _ _).mem_iff.1 hx)).1
  have hdistinct : cands.Pairwise fun a b => a.2 ≠ b.2 := by
    have : (s.parts.zipIdx.map Prod.snd).Nodup := by
      rw [List.zipIdx_map_snd]
      exact List.nodup_range'
    exact (List.pairwise_map.1 this).filter _
  have hsorted : (sortBy (fun a b : Part × Nat => keyLt [urgency b.1, b.2] [urgency a.1, a.2]) cands).Pairwise
      fun a b => keyLt [urgency b.1, b.2] [urgency a.1, a.2] = true := by
    refine sortBy_sorted (fun a b c hab hbc => ?_) (hdistinct.imp fun hne => ?_)
    · rw [keyLt_pair] at *
      omega
    · rw [keyLt_pair, keyLt_pair]
      omega
  refine List.pairwise_map.2 (hsorted.imp_of_mem fun {a b} ha hb hlt => ?_)
  rcases keyLt_pair.1 hlt with hl | ⟨hl, hi⟩
  · exact .inl hl
  · exact .inr ⟨hl, append_of_get (hmem b hb) (hmem a ha) hi⟩

end Sys2Proof.Machine
end

section
namespace Sys2Proof.Machine

/-! ### The fewest launches whose room makes one fit (R347) -/

/-- Different launches that a head of a level may pre-empt. -/
def State.Victims (s : State) (level : Nat) (w : List Part) : Prop := w.Nodup ∧ ∀ q ∈ w, s.Preemptible level q

/-- Whether the room of some partitions makes a launch fit. -/
def State.enough (s : State) (l : Launch) (w : List Part) : Bool := (s.fitting (s.availWith w) l).isSome

/-- The partitions that are pre-empted for a launch. -/
def State.chosen (s : State) (l : Launch) : Option (List Part) :=
  (List.range (s.victims l.level).length).findSome? fun k => (subsets (k + 1) (s.victims l.level)).find? (s.enough l)

/-- What some partitions leave free does not hang on their order. -/
theorem State.availWith_congr (s : State) {w w' : List Part} (h : ∀ q, q ∈ w ↔ q ∈ w') : s.availWith w = s.availWith w' := by
  have hany (p : Part → Bool) : w.any p = w'.any p := by
    rw [Bool.eq_iff_iff, List.any_eq_true, List.any_eq_true]
    exact exists_congr fun q => and_congr_left fun _ => h q
  simp only [State.availWith, hany]

theorem State.enough_nil {s : State} {l : Launch} (h : s.fitting s.avail l = none) : s.enough l [] = false := by
  simp [State.enough, State.availWith_nil, h]

section
variable {s : State} (hn : s.Distinct) (hc : s.Calm)
include hn hc

/-- Lists of such launches in the order of pre-emption are the sublists of the list of all of them. -/
theorem State.sublist_victims_iff {level : Nat} {w : List Part} :
    w.Sublist (s.victims level) ↔ s.Victims level w ∧ w.Pairwise s.Before := by
  have hnp : s.parts.Nodup := List.Nodup.of_map _ hn
  have hasymm : ∀ a b, s.Before a b → s.Before b a → False := fun _ _ => State.Before.asymm hnp
  constructor
  · intro h
    have hp := (s.victims_sorted level).sublist h
    refine ⟨⟨hp.imp fun {a b} hab => ?_, fun q hq => (State.mem_victims hc).1 (h.subset hq)⟩, hp⟩
    rintro rfl
    exact hasymm _ _ hab hab
  · rintro ⟨⟨hw, hmem⟩, hp⟩
    have hanti : Std.Antisymm s.Before := ⟨fun a b hab hba => (hasymm a b hab hba).elim⟩
    exact List.sublist_of_subperm_of_pairwise
      (List.subperm_of_subset hw fun q hq => (State.mem_victims hc).2 (hmem q hq)) hp (s.victims_sorted level)

/-- Such launches in the order of pre-emption. -/
theorem State.Victims.sorted {level : Nat} {w : List Part} (h : s.Victims level w) :
    ∃ w' : List Part, w'.Sublist (s.victims level) ∧ w'.length = w.length ∧ ∀ q, q ∈ w' ↔ q ∈ w := by
  have hmem (q : Part) : q ∈ (s.victims level).filter (fun q => decide (q ∈ w)) ↔ q ∈ w := by
    simp only [List.mem_filter, decide_eq_true_eq, State.mem_victims hc]
    exact ⟨And.right, fun hq => ⟨h.2 q hq, hq⟩⟩
  refine ⟨(s.victims level).filter fun q => decide (q ∈ w), List.filter_sublist, ?_, hmem⟩
  have hnd := ((State.sublist_victims_iff hn hc (level := level)).1 (List.filter_sublist (p := fun q => decide (q ∈ w)))).1.1
  exact ((List.perm_ext_iff_of_nodup hnd h.1).2 hmem).length_eq

/-- The partitions chosen are the fewest, and the first of as many. -/
theorem State.chosen_spec {l : Launch} {set : List Part} (h : s.chosen l = some set) :
    s.Victims l.level set ∧ set.Pairwise s.Before ∧ s.enough l set = true ∧
      (∀ w, s.Victims l.level w → s.enough l [] = false → s.enough l w = true → set.length ≤ w.length) ∧
      ∀ w, s.Victims l.level w → w.Pairwise s.Before → w.length = set.length → s.enough l w = true →
        w = set ∨ Lex s.Before set w := by
  obtain ⟨before, k, after, hrange, hfind, hno⟩ := List.findSome?_eq_some_iff.1 h
  have hbefore (j : Nat) (hj : j < k) : j ∈ before := by
    have hk : k < (s.victims l.level).length := List.mem_range.1 (hrange ▸ by simp)
    have hget : (List.range (s.victims l.level).length)[before.length]? = some k := by rw [hrange]; simp
    have hlen : before.length = k := by
      rw [List.getElem?_range] at hget
      · simpa using hget
      · rw [← List.length_range (n := (s.victims l.level).length), hrange]
        simp
    have hj' : (List.range (s.victims l.level).length)[j]? = some j := List.getElem?_range (by omega)
    rw [hrange, List.getElem?_append_left (by omega)] at hj'
    exact List.mem_of_getElem? hj'
  obtain ⟨hsub, hlen⟩ := mem_subsets.1 (List.mem_of_find?_eq_some hfind)
  obtain ⟨hvic, hpair⟩ := (State.sublist_victims_iff hn hc).1 hsub
  refine ⟨hvic, hpair, List.find?_some hfind, fun w hw hnil hew => ?_, fun w hw hp hwl hew => ?_⟩
  · obtain ⟨w', hsub', hlen', hmem⟩ := State.Victims.sorted hn hc hw
    by_contra hlt
    have hew' : s.enough l w' = true := by
      unfold State.enough
      rw [State.availWith_congr s hmem]
      exact hew
    cases hw' : w'.length with
    | zero =>
      rw [List.length_eq_zero_iff.1 hw', hnil] at hew'
      cases hew'
    | succ j =>
      have := List.find?_eq_none.1 (hno j (hbefore j (by omega))) w' (mem_subsets.2 ⟨hsub', hw'⟩)
      exact this hew'
  · have hsub' := (State.sublist_victims_iff hn hc).2 ⟨hw, hp⟩
    exact find?_lex (subsets_lex (s.victims_sorted l.level) (k + 1)) hfind
      (mem_subsets.2 ⟨hsub', by omega⟩) hew

/-- Where some launches would make one fit, some are chosen. -/
theorem State.chosen_isSome {l : Launch} {w : List Part} (hw : s.Victims l.level w) (hnil : s.enough l [] = false)
    (hew : s.enough l w = true) : ∃ set, s.chosen l = some set := by
  obtain ⟨w', hsub, -, hmem⟩ := State.Victims.sorted hn hc hw
  have hew' : s.enough l w' = true := by
    unfold State.enough
    rw [State.availWith_congr s hmem]
    exact hew
  have hpos : w'.length ≠ 0 := by
    intro h0
    rw [List.length_eq_zero_iff.1 h0, hnil] at hew'
    cases hew'
  have hle := hsub.length_le
  refine Option.isSome_iff_exists.1 (List.findSome?_isSome_iff.2 ⟨w'.length - 1, List.mem_range.2 (by omega), ?_⟩)
  exact List.find?_isSome.2 ⟨w', mem_subsets.2 ⟨hsub, by omega⟩, hew'⟩

/-- Where no launches would, none is. -/
theorem State.chosen_eq_none {l : Launch} (h : ∀ w, s.Victims l.level w → s.fitting (s.availWith w) l = none) :
    s.chosen l = none := by
  refine List.findSome?_eq_none_iff.2 fun k _ => List.find?_eq_none.2 fun w hw => ?_
  obtain ⟨hsub, -⟩ := mem_subsets.1 hw
  simp [State.enough, h w ((State.sublist_victims_iff hn hc).1 hsub).1]

end

end Sys2Proof.Machine
end

section
namespace Sys2Proof.Machine

/-! ### Pre-emption at a bell (R347) -/

theorem insertBy_map {α β : Type} (f : α → β) (lt : β → β → Bool) (x : α) (xs : List α) :
    insertBy lt (f x) (xs.map f) = (insertBy (fun a b => lt (f a) (f b)) x xs).map f := by
  induction xs with
  | nil => rfl
  | cons y ys ih =>
    simp only [List.map_cons, insertBy, ih]
    split <;> rfl

theorem sortBy_map {α β : Type} (f : α → β) (lt : β → β → Bool) (xs : List α) :
    sortBy lt (xs.map f) = (sortBy (fun a b => lt (f a) (f b)) xs).map f := by
  induction xs with
  | nil => rfl
  | cons x xs ih =>
    have h (lt : β → β → Bool) (y : β) (ys : List β) : sortBy lt (y :: ys) = insertBy lt y (sortBy lt ys) := rfl
    rw [List.map_cons, h, ih, insertBy_map]
    rfl

theorem State.urgency_of_room {s t : State} (h : t.room = s.room) {q r : Part} (hs : r.sub = q.sub) :
    t.urgency r = s.urgency q := by
  have hl : (t.launch q.sub).map Launch.plain = (s.launch q.sub).map Launch.plain := by
    rw [← State.room_launch, h, State.room_launch]
  have hlevel (o : Option Launch) : o.map Launch.level = (o.map Launch.plain).map Launch.level := by
    rw [Option.map_map]
    rfl
  unfold State.urgency
  rw [hs, hlevel, hl, ← hlevel]

/-- The launches that may be pre-empted are the same when the words are latched. -/
theorem State.victims_latch {s w : State} (hr : w.room = s.room) (hp : w.parts = s.parts.map Part.latch) (level : Nat) :
    w.victims level = (s.victims level).map Part.latch := by
  have hu (q : Part) : ((w.launch q.latch.sub).map (·.level)).getD 0 = ((s.launch q.sub).map (·.level)).getD 0 :=
    State.urgency_of_room hr (q := q) (r := q.latch) rfl
  unfold State.victims
  simp only [hp, List.zipIdx_map, List.filter_map, sortBy_map, List.map_map]
  simp only [Function.comp_def, Prod.map, id_eq, hu]
  rfl

/-- The partitions of a list are ordered to leave. -/
def State.orderOut (set : List Part) (s : State) : State :=
  set.foldl (fun s q => s.modPart q.num fun x => { x with order := some .preempt }) s

/-- A partition, ordered to leave if it is one of a list. -/
def Part.orderedIn (set : List Part) (x : Part) : Part :=
  if x.num ∈ set.map Part.num then { x with order := some .preempt } else x

theorem State.orderOut_eq (set : List Part) (s : State) :
    s.orderOut set = { s with parts := s.parts.map (Part.orderedIn set) } := by
  induction set generalizing s with
  | nil =>
    have : s.parts.map (Part.orderedIn []) = s.parts := by
      rw [show Part.orderedIn [] = id from funext fun x => rfl, List.map_id]
    rw [this]
    rfl
  | cons q set ih =>
    have hstep : s.orderOut (q :: set) = (s.modPart q.num fun x => { x with order := some .preempt }).orderOut set := rfl
    rw [hstep, ih]
    simp only [State.modPart, List.map_map]
    congr 1
    refine List.map_congr_left fun x _ => ?_
    simp only [Function.comp_apply, Part.orderedIn, List.map_cons, List.mem_cons, beq_iff_eq]
    by_cases h1 : x.num = q.num
    · by_cases h2 : q.num ∈ set.map Part.num <;> simp [h1, h2]
    · simp [h1]

theorem State.Poised.preempt_eq {s w : State} {l m : Launch} (h : s.Poised w l m) (hc : s.Calm) (hl : l.level < 4)
    (ho : ∀ q ∈ s.parts, q.order ≠ some .preempt) (hfit : s.fitting s.avail l = none) :
    w.preempt = match s.chosen l with
      | none => w
      | some set => w.stated .registrar .preemption (State.orderOut set) := by
  have hfitw : w.fitting w.avail m = none := h.fitting.trans hfit
  have hlevel : m.level = l.level := Launch.plain_level h.plain
  have hheads : w.heads = [m] := h.alone.heads (by omega)
  have hgoing : w.parts.filter Part.leaving = [] := by
    refine List.filter_eq_nil_iff.2 fun q hq => ?_
    have hq' := hq
    rw [h.parts] at hq'
    obtain ⟨x, hx, rfl⟩ := List.mem_map.1 hq'
    have h1 : x.latch.order ≠ some .preempt := ho x hx
    simp [Part.leaving, h1, (h.not_recessed hc _ hq).2]
  have henough (set : List Part) : (w.fitting (w.availWith ([] ++ set.map Part.latch)) m).isSome = s.enough l set := by
    rw [List.nil_append, State.fitting_of_room h.room, State.fitting_plain s _ h.plain,
      State.availWith_of_room h.room (qs := set) (by rw [List.map_map]; rfl)]
    rfl
  have hfind (k : Nat) : (subsets (k + 1) (w.victims m.level)).find?
      (fun set => (w.fitting (w.availWith ([] ++ set)) m).isSome) =
      ((subsets (k + 1) (s.victims l.level)).find? (s.enough l)).map (List.map Part.latch) := by
    rw [State.victims_latch h.room h.parts, subsets_map, List.find?_map, hlevel]
    congr 2
    funext set
    exact henough set
  have hchosen : (List.range (w.victims m.level).length).findSome? (fun k =>
      (subsets (k + 1) (w.victims m.level)).find? fun set => (w.fitting (w.availWith ([] ++ set)) m).isSome) =
      (s.chosen l).map (List.map Part.latch) := by
    have hlen : (w.victims m.level).length = (s.victims l.level).length := by
      rw [State.victims_latch h.room h.parts, List.length_map, hlevel]
    simp only [hfind, hlen, State.chosen, List.map_findSome?]
    rfl
  unfold State.preempt
  rw [hheads, List.find?_singleton, hfitw]
  simp only [Option.isNone_none, if_true, hgoing, State.availWith_nil, hfitw, Option.isSome_none, Bool.false_eq_true, if_false,
    hchosen]
  cases s.chosen l with
  | none => rfl
  | some set =>
    simp only [Option.map_some, List.foldl_map]
    rfl

end Sys2Proof.Machine
end

section
namespace Sys2Proof.Machine

theorem Part.orderedIn_num (set : List Part) (x : Part) : (x.orderedIn set).num = x.num := by
  unfold Part.orderedIn
  split <;> rfl

theorem Part.orderedIn_room (set : List Part) (x : Part) : (x.orderedIn set).room = x.room := by
  unfold Part.orderedIn
  split <;> rfl

/-- The machine after pre-emption: some partitions are ordered to leave, and nothing else has changed but a service. -/
structure State.Preempted (w z : State) (set : List Part) : Prop where
  parts : z.parts = w.parts.map (Part.orderedIn set)
  launches : z.launches = w.launches
  room : z.room = w.room
  free : z.holds 1 = false

theorem State.Poised.preempted {s w : State} {l m : Launch} (h : s.Poised w l m) (hc : s.Calm) (hl : l.level < 4)
    (hv : s.Free .registrar) (ho : ∀ q ∈ s.parts, q.order ≠ some .preempt) (hfit : s.fitting s.avail l = none) :
    w.Preempted w.preempt ((s.chosen l).getD []) := by
  have hwv := h.svc .registrar (by decide) hv
  rw [h.preempt_eq hc hl ho hfit]
  cases s.chosen l with
  | none => exact ⟨(List.map_id _).symm, rfl, rfl, hwv.1⟩
  | some set =>
    obtain ⟨vs, hj, hh, -⟩ := State.journal_free hwv .preemption
    have hst : w.stated .registrar .preemption (State.orderOut set) = (w.withSvcs vs).orderOut set := by
      simp only [State.stated, hj]
      rw [if_neg (by rw [hh]; decide)]
    simp only [hst, State.orderOut_eq, Option.getD_some]
    refine ⟨rfl, rfl, ?_, hh⟩
    have hroom : (w.parts.map (Part.orderedIn set)).map Part.room = w.parts.map Part.room := by
      rw [List.map_map]
      exact List.map_congr_left fun x _ => Part.orderedIn_room set x
    unfold State.room
    simp only [State.withSvcs_parts, hroom]
    rfl

/-- A head that no variant fits is not admitted: at the levels of the queues nothing happens. -/
theorem State.Preempted.levels {s w z : State} {l m : Launch} {set : List Part} (hz : w.Preempted z set) (h : s.Poised w l m)
    (hc : s.Calm) (hl : l.level < 4) (hfit : s.fitting s.avail l = none) : (List.range 4).foldl State.admitLevel z = z := by
  have hready : z.isReady m = true := by
    rw [State.isReady_of_room (hz.room) rfl]
    exact h.alone.ready
  have halone : z.Alone m := by
    obtain ⟨hm, -, hd, ho⟩ := h.alone
    rw [← hz.launches] at hm hd ho
    exact ⟨hm, hready, hd, ho⟩
  have hst : ∀ q ∈ z.parts, q.status ≠ .recessed := by
    intro q hq
    rw [hz.parts] at hq
    obtain ⟨x, hx, rfl⟩ := List.mem_map.1 hq
    have hrun := (h.not_recessed hc x hx).1
    have : (x.orderedIn set).status = x.status := by unfold Part.orderedIn; split <;> rfl
    rw [this, hrun]
    decide
  have hnone : z.fitting z.avail m = none := by
    rw [State.avail_of_room hz.room, State.fitting_of_room hz.room]
    exact h.fitting.trans hfit
  have hlevel : m.level = l.level := Launch.plain_level h.plain
  refine halone.admitLevels (by omega) hst (State.admitHead_none hnone) fun k hk => ?_
  rw [State.admitLevel_of_no_return hst, halone.headsAt, if_neg (by omega)]
  rfl

/-- R347: at a bell at which no variant of the head fits, the partitions chosen are ordered to leave, and no others. -/
theorem State.bell_orders {s : State} {l : Launch} (halone : s.Alone l) (hc : s.Calm) (hn : s.Distinct)
    (hv : s.Free .registrar) (hlev : l.level < 4) (ho : ∀ q ∈ s.parts, q.order ≠ some .preempt)
    (hfit : s.fitting s.avail l = none) {q : Part} (hq : q ∈ s.parts) :
    ∃ x, s.rung.part q.num = some x ∧ (x.order = some .preempt ↔ q ∈ (s.chosen l).getD []) := by
  obtain ⟨hoff, m, hw⟩ := State.bell_poised halone hc hv
  have hset : ∀ x ∈ (s.chosen l).getD [], s.Preemptible l.level x := by
    cases hch : s.chosen l with
    | none => simp
    | some set => exact (State.chosen_spec hn hc hch).1.2
  have hz := hw.preempted hc hlev hv ho hfit
  have hlevels := hz.levels hw hc hlev hfit
  rw [if_neg (by rw [hz.free]; decide), hlevels] at hoff
  generalize (s.front.timeHeads false).orderPromotions.preempt = z at *
  generalize (s.chosen l).getD [] = set at *
  have hparts : z.parts = (s.parts.map Part.latch).map (Part.orderedIn set) := by rw [hz.parts, hw.parts]
  have hzn : z.Distinct := by
    unfold State.Distinct
    rw [hparts, List.map_map, List.map_map]
    rw [show (Part.num ∘ Part.orderedIn set) ∘ Part.latch = Part.num from funext fun x => Part.orderedIn_num set x.latch]
    exact hn
  have hafter : z.After s.front.ordered s.rung := by
    unfold State.rung
    rw [hoff]
    exact State.after_end _ hzn
  have hqz : q.latch.orderedIn set ∈ z.parts := by
    rw [hparts]
    exact List.mem_map_of_mem (List.mem_map_of_mem hq)
  obtain ⟨x, hx, hf⟩ := forall₂_exists hafter.parts hqz
  have hnum : x.num = q.num := hf.num.trans (Part.orderedIn_num set q.latch)
  refine ⟨x, by rw [← hnum]; exact State.part_of_mem (hafter.distinct hzn) hx, ?_⟩
  -- membership goes by number, as numbers differ
  have hmem : q.latch.num ∈ set.map Part.num ↔ q ∈ set := by
    refine ⟨fun h => ?_, List.mem_map_of_mem⟩
    obtain ⟨y, hy, hyn⟩ := List.mem_map.1 h
    have : y = q := List.inj_on_of_nodup_map hn (hset y hy).1 hq hyn
    rwa [← this]
  by_cases hqs : q ∈ set
  · have hord : (q.latch.orderedIn set).order = some .preempt := by
      rw [Part.orderedIn, if_pos (hmem.2 hqs)]
    refine ⟨fun _ => hqs, fun _ => ?_⟩
    rcases hf.order with h | ⟨h, -⟩
    · rw [h, hord]
    · -- it had no order before the bell
      obtain ⟨y, hy, hyn⟩ := List.mem_map.1 h
      obtain ⟨hy, hyo⟩ := List.mem_filter.1 hy
      rw [s.front_fronts.parts] at hy
      obtain ⟨y, hy', rfl⟩ := List.mem_map.1 hy
      have : y = q := List.inj_on_of_nodup_map hn hy' hq (hyn.trans (Part.orderedIn_num set q.latch))
      subst this
      have hnone : y.latch.order = none := (hset y hqs).2.1
      rw [hnone] at hyo
      cases hyo
  · have hord : (q.latch.orderedIn set).order = q.order := by
      rw [Part.orderedIn, if_neg fun h => hqs (hmem.1 h)]
      rfl
    refine ⟨fun h => ?_, fun h => absurd h hqs⟩
    rcases hf.order with he | ⟨-, he⟩
    · rw [he, hord] at h
      exact absurd h (ho q hq)
    · rw [he] at h
      cases h

end Sys2Proof.Machine
end

section
namespace Sys2Proof.Machine

/-! ### The statements about a bell -/

theorem State.does_bell {s : State} {P : State → Prop} (h : P (s.doing .bell).rung.nextBell) : s.Does .bell .bell P :=
  ⟨_, State.bell_rings _, h⟩

/-- R2, R78. -/
theorem State.bell_spec {s : State} (hn : (s.parts.map Part.num).Nodup) : s.Does .bell .bell fun t =>
    t.gtc = s.gtc ∧ t.Later none (s.gtc + 4032) .bell ∧
    (∀ q ∈ s.parts, ∃ r ∈ t.parts, r.num = q.num ∧ r.pigLatched = q.pigLive) ∧
    ((∀ l ∈ s.launches, l.state = .admitted ∨ l.state = .retired ∨ l.state = .failed ∨ l.state = .refused) →
      (∀ q ∈ s.parts, q.status = .running ∧ q.recess = none) →
      (∀ q ∈ s.parts, ∃ r ∈ t.parts, r.num = q.num ∧ r.pigLive = q.pigLive ∧ r.pigLatched = q.pigLive) ∧
      (∀ k, (t.core k).spad = (s.core k).spad) ∧ (∀ d, (t.die d).store = (s.die d).store) ∧ t.dram = s.dram) := by
  refine State.does_bell ?_
  have hret := State.rung_retains (s := s.doing .bell) hn
  have hidle := State.rung_idle (s := s.doing .bell) hn
  generalize (s.doing .bell).rung = u at *
  obtain ⟨hg, hlater, hlatch⟩ := hret.latches
  refine ⟨hg, hlater, hlatch, fun hi hc => ?_⟩
  obtain ⟨hwords, hspad, hstore, hdram⟩ := hidle hc hi
  refine ⟨fun q hq => ?_, hspad, hstore, hdram⟩
  obtain ⟨r, hr, hnum, hlive, hlat⟩ := hwords q hq
  exact ⟨r, hr, hnum, hlive, hlat⟩

/-- R350. -/
theorem State.bell_hangs_spec {s : State} {q : Part} (hq : q ∈ s.parts) (hn : (s.parts.map Part.num).Nodup)
    (hv : s.holds 1 = false) (hh : s.heldWork = [])
    (hi : ∀ l ∈ s.launches, l.state = .admitted ∨ l.state = .retired ∨ l.state = .failed ∨ l.state = .refused)
    (hs : ∀ p ∈ s.parts, p.status = .running ∧ p.recess = none ∧ p.order = none ∧ p.resumeFrom = none ∧ p.outcome = none ∧
      s.onDuty p = false) (hno : ∀ x ∈ s.due, x.what ≠ .hangDetected q.num) :
    s.Does .bell .bell fun t => t.Later none s.gtc (.hangDetected q.num) ↔ q.sign + 4096 * 4032 ≤ q.ttc s.gtc := by
  have hsteady : ∀ p ∈ (s.doing .bell).parts, p.Steady (s.doing .bell) := fun p hp =>
    have ⟨h1, h2, h3, h4, _, h6⟩ := hs p hp
    ⟨h1, h2, h3, h4, h6⟩
  exact State.does_bell (State.bell_hangs (s := s.doing .bell) hn hv hh hi hsteady hq hno)

/-- R220, R347. -/
theorem State.bell_head_spec {s : State} {l : Launch} (hlev : l.level < 4) (hmem : l.members = 0) (hl : s.launch l.sub = some l)
    (hr : s.isReady l = true) (hn : (s.parts.map Part.num).Nodup) (hd : (s.launches.map Launch.sub).Nodup)
    (ho : ∀ x ∈ s.launches, x.sub ≠ l.sub → x.state ≠ .queued) (hh : s.holds 1 = false)
    (hj : (s.svc .registrar).journal.length < 65536)
    (hc : ∀ q ∈ s.parts, q.status = .running ∧ q.recess = none ∧ q.order ≠ some .preempt) :
    (∀ vn v, s.fitting s.avail l = some (vn, v) → (∃ n, 1 ≤ n ∧ n ≤ 96 ∧ s.part n = none) →
      v.links = [] ∨ s.holds 2 = false ∧ (s.svc .porter).journal.length < 65536 → s.Does .bell .bell fun t =>
        ∃ q : Part, t.part q.num = some q ∧ s.part q.num = none ∧ q.sub = l.sub ∧ q.variant = vn ∧ q.status = .loaded ∧
          (t.launch l.sub).map Launch.state = some .admitted ∧ t.Later none (s.gtc + 4032) (.partitionStart q.num)) ∧
    (s.fitting s.avail l = none →
      (∀ w, s.Victims l.level w → (s.fitting (s.availWith w) l).isSome = true → s.Does .bell .bell fun t => ∃ set : List Part,
        s.Victims l.level set ∧ set.length ≤ w.length ∧ (s.fitting (s.availWith set) l).isSome = true ∧
        (∀ q ∈ s.parts, ∃ x, t.part q.num = some x ∧ (x.order = some .preempt ↔ q ∈ set)) ∧ set.Pairwise s.Before ∧
        ∀ w', s.Victims l.level w' → w'.Pairwise s.Before → w'.length = set.length →
          (s.fitting (s.availWith w') l).isSome = true → w' = set ∨ Lex s.Before set w') ∧
      ((∀ w, s.Victims l.level w → s.fitting (s.availWith w) l = none) → s.Does .bell .bell fun t =>
        ∀ q ∈ s.parts, ∃ x, t.part q.num = some x ∧ x.order ≠ some .preempt)) := by
  have halone : (s.doing .bell).Alone l := ⟨State.launch_mem hl, hr, hd, ho⟩
  have hcalm : (s.doing .bell).Calm := fun q hq => ⟨(hc q hq).1, (hc q hq).2.1⟩
  have horder : ∀ q ∈ (s.doing .bell).parts, q.order ≠ some .preempt := fun q hq => (hc q hq).2.2
  have hv : (s.doing .bell).Free .registrar := ⟨hh, hj⟩
  refine ⟨fun vn v hfit hfree hp => ?_, fun hfit => ?_⟩
  · refine State.does_bell ?_
    have h := State.bell_admits halone hcalm hn hv hlev hmem hfit hfree hp
    generalize (s.doing .bell).rung = u at *
    obtain ⟨q, hq, hnone, hsub, hvar, hst, hadm, hlater⟩ := h
    exact ⟨q, hq, hnone, hsub, hvar, hst, hadm, hlater.mono fun x hx => List.mem_append_left _ hx⟩
  · have horders (q : Part) (hq : q ∈ s.parts) := State.bell_orders halone hcalm hn hv hlev horder hfit hq
    have hchosen : (s.doing .bell).chosen l = s.chosen l := rfl
    rw [hchosen] at horders
    have hnil := State.enough_nil hfit
    have hcs : s.Calm := hcalm
    refine ⟨fun w hw hew => ?_, fun hno => ?_⟩
    · obtain ⟨set, hset⟩ := State.chosen_isSome hn hcs hw hnil hew
      obtain ⟨hvic, hpair, hen, hmin, hlex⟩ := State.chosen_spec hn hcs hset
      rw [hset] at horders
      refine State.does_bell ?_
      generalize (s.doing .bell).rung = u at *
      exact ⟨set, hvic, hmin w hw hnil hew, hen, horders, hpair, hlex⟩
    · rw [State.chosen_eq_none hn hcs hno] at horders
      refine State.does_bell ?_
      generalize (s.doing .bell).rung = u at *
      intro q hq
      obtain ⟨x, hx, hiff⟩ := horders q hq
      exact ⟨x, hx, fun h => by simpa using hiff.1 h⟩

end Sys2Proof.Machine
end

section
namespace Sys2Proof.Machine

/-! ### Bells, queues and launches (O45) -/

/-- R220, R221: retirement, with the completion word. -/
theorem State.retirement_spec {s : State} {q : Part} (h : s.Ended q) (hu : s.unperformed q = []) (hv : s.holds 1 = false) :
    s.Does .launchRetirement (.launchRetirement q.num) fun t => ∃ r, t.part q.num = some r ∧ r.status = .retired ∧
      r.retiredAt = some (q.ttc s.gtc) ∧
      (r.pigLive[126]?.getD 0).toNat = 2 ^ 28 + q.variant % 4 * 2 ^ 26 + q.sub % 2 ^ 16 ∧
      (∀ n, n ≠ 126 → r.pigLive[n]?.getD 0 = q.pigLive[n]?.getD 0) ∧ t.cores = s.cores ∧ t.dram = s.dram := by
  have h' : (s.doing (.launchRetirement q.num)).Ended q := ⟨h.part, h.running, h.quiet, h.alone, h.cores⟩
  obtain ⟨t, ht, hpart, hcores, hdram⟩ := State.launchRetirement_retires h' hu hv rfl
  refine ⟨t, ht, _, hpart, rfl, rfl, ?_, fun n hn => ?_, hcores, hdram⟩
  · have : (q.retire (q.ttc s.gtc)).pigLive[126]? = some (completion 1 q.variant q.sub) := by simp [Part.retire]
    exact (congrArg (fun o => (o.getD 0).toNat) this).trans (completion_toNat q.variant q.sub)
  · have : (q.retire (q.ttc s.gtc)).pigLive[n]? = q.pigLive[n]? := by simp [Part.retire, Ne.symm hn]
    exact congrArg (·.getD 0) this

/-- R219: a submission with predecessors. -/
theorem State.submission_preds_spec {s : State} {l : Launch} {n : Tenant} {bytes : List Byte} (hl : s.launch l.sub = some l)
    (hd : (s.launches.map Launch.sub).Nodup) (hst : l.state = .reading) (hv : s.Serves) (hm : l.malformed = false)
    (hfirst : ∀ x ∈ s.launches, x.tenant = l.tenant → x.sub < l.sub → x.state ≠ .reading)
    (ht : s.tenants.find? (fun t => t.num == l.tenant) = some n) (hb : l.bytes = some bytes)
    (hi : imageOk bytes l.len = true) (hr : refusalReason bytes l.len (n.keys.map (·.1)) (s.tenantTimings n) = none) :
    ((∀ name ∈ (readSyllabus bytes).preds, ∃ x, s.Met l name x ∧ x.state.lost = false) →
      s.Does .submissionCheck (.submissionCheck l.sub) fun t => ∃ subs : List Nat,
        subs.length = (readSyllabus bytes).preds.length ∧
        (∀ (i : Nat) name x, (readSyllabus bytes).preds[i]? = some name → s.Met l name x → subs[i]? = some x.sub) ∧
        t.launch l.sub = some { l with
          syl := some (readSyllabus bytes), level := (readSyllabus bytes).level, state := .queued, preds := subs } ∧
        t.parts = s.parts) ∧
    ((∃ name ∈ (readSyllabus bytes).preds, ∀ x, s.Met l name x → x.state.lost = true) →
      s.Does .submissionCheck (.submissionCheck l.sub) fun t =>
        t.launch l.sub = some { l with
          syl := some (readSyllabus bytes), level := (readSyllabus bytes).level, state := .refused } ∧ t.parts = s.parts ∧
        ∀ i : Fin 64, i.val = l.fn →
          (t.fns[i].ring[s.fns[i].evhead % 256]?).map Prod.snd = some (BitVec.ofNat 32 (5 * 2 ^ 24))) := by
  constructor
  · intro h
    obtain ⟨hno, hlen, hget⟩ := State.preds_found hd _ h
    obtain ⟨t, hdone, hlaunch, hparts, -⟩ := State.submissionCheck_queues (s := s.doing (.submissionCheck l.sub)) hl hst hv
      hfirst rfl hm ht hb hi hr hno
    exact ⟨t, hdone, _, hlen, hget, hlaunch, hparts⟩
  · intro h
    exact State.submissionCheck_loses (s := s.doing (.submissionCheck l.sub)) hl hst hv hfirst rfl hm ht hb hi hr
      (State.preds_lost h)

/-- R215: a submission without predecessors. -/
theorem State.submission_spec {s : State} {l : Launch} {n : Tenant} {bytes : List Byte} (hl : s.launch l.sub = some l)
    (hst : l.state = .reading) (hv : s.Serves) (hm : l.malformed = false)
    (hfirst : ∀ x ∈ s.launches, x.tenant = l.tenant → x.sub < l.sub → x.state ≠ .reading)
    (ht : s.tenants.find? (fun t => t.num == l.tenant) = some n) (hb : l.bytes = some bytes)
    (hi : imageOk bytes l.len = true) (hr : refusalReason bytes l.len (n.keys.map (·.1)) (s.tenantTimings n) = none)
    (hp : (readSyllabus bytes).preds = []) : s.Does .submissionCheck (.submissionCheck l.sub) fun t => t.launch l.sub = some
      { l with syl := some (readSyllabus bytes), level := (readSyllabus bytes).level, state := .queued, preds := [] } ∧
      t.parts = s.parts ∧ t.cores = s.cores := by
  obtain ⟨t, hdone, hlaunch, hrest⟩ := State.submissionCheck_queues (s := s.doing (.submissionCheck l.sub)) hl hst hv hfirst rfl
    hm ht hb hi hr (by rw [hp]; rfl)
  rw [hp] at hlaunch
  exact ⟨t, hdone, hlaunch, hrest⟩

/-- A loaded partition at its start bell. -/
theorem State.starts_doing {s : State} {q : Part} (hq : s.part q.num = some q) (hl : q.status = .loaded) (hr : q.recess = none)
    (hd : q.cores.Nodup) (hc : ∀ c ∈ q.cores, c < 384 ∧ s.partOf c = q.num) :
    (s.doing (.partitionStart q.num)).Starts q := ⟨hq, hl, hr, hd, hc⟩

/-- Settles O45: each statement by the lemma on its step. -/
theorem bellsAndLaunches : Obligations.BellsAndLaunches := by
  unfold Obligations.BellsAndLaunches
  refine ⟨fun s hn => State.bell_spec hn, fun s => ⟨?_, ?_, ?_, ?_, ?_, ?_, ?_, ?_, ?_, ?_, ?_, ?_, ?_⟩⟩
  case refine_1 =>
    intro q hq hh hj
    exact State.hangDetected_orders (s := s.doing (.hangDetected q.num)) hq ⟨hh, hj⟩ rfl
  case refine_2 =>
    intro l h hl hn hs hd hhead hlev hh hj
    exact State.queuePromotion_promotes (s := s.doing (.queuePromotion l.sub)) hl hn hs hd hhead hlev ⟨hh, hj⟩ rfl
  case refine_3 =>
    intro l hl hn hst hh hj hfirst
    refine ⟨fun hm => ?_, fun n bytes hm ht hb hi hr hp => ?_⟩
    · exact State.submissionCheck_malformed (s := s.doing (.submissionCheck l.sub)) hl hst ⟨hh, hj⟩ hfirst hm rfl
    · exact State.submission_spec hl hst ⟨hh, hj⟩ hm hfirst ht hb hi hr hp
  case refine_4 =>
    intro q hq hst hr hd hc
    have h := State.starts_doing hq hst hr hd hc
    refine ⟨fun hg hu => State.partitionStart_waits h hg hu rfl, fun hu => ⟨fun hon => ?_, fun hoff => ?_⟩⟩
    · exact State.partitionStart_onDuty h hu rfl hon
    · exact State.partitionStart_runs h hu rfl hoff
  case refine_5 =>
    intro l hlev hmem hl hr hn hd ho hh hj hc
    exact State.bell_head_spec hlev hmem hl hr hn hd ho hh hj hc
  case refine_6 =>
    intro l y a hy hsorted
    exact ⟨State.fitting_none_iff hy, fun vn v => State.fitting_some_iff hy hsorted vn v⟩
  case refine_7 =>
    intro l v n hn hpos h4 hmax
    exact State.fits_avail_iff hn hpos h4 hmax
  case refine_8 => exact fun l => State.isReady_iff s l
  case refine_9 =>
    intro l n bytes hl hn hst hh hj hm hfirst ht hb hi hr
    exact State.submission_preds_spec hl hn hst ⟨hh, hj⟩ hm hfirst ht hb hi hr
  case refine_10 =>
    intro q hq hn hh hw hi hs hno
    exact State.bell_hangs_spec hq hn hh hw hi hs hno
  case refine_11 =>
    intro q hq
    exact ⟨fun f => (State.tchk_sign hq f).1, fun f => (State.tchk_sign hq f).2, fun f => State.endI_sign hq f⟩
  case refine_12 =>
    intro l vn bell v n hl hf hfree hn hpos h4 hmax hwf
    exact State.admission_admits hl hf hfree hn hpos h4 hmax hwf
  case refine_13 =>
    intro q hq hrun hrec hfn hjoin hlife
    have h : s.Ended q := ⟨hq, hrun, hfn, hjoin, hlife⟩
    have h' : (s.doing (.launchRetirement q.num)).Ended q := ⟨hq, hrun, hfn, hjoin, hlife⟩
    refine ⟨fun hu hv => State.retirement_spec h hu hv, fun hu hd => ?_⟩
    exact State.launchRetirement_waits h' hu hd rfl

end Sys2Proof.Machine
end

section
/-! What RDSR reads and WRSR writes (O8, O9). -/
namespace Sys2Proof.Machine

/-! ### The writable special registers (R16) -/

theorem Special.writable_iff (n : Nat) :
    Special.writable n = true ↔ n ∈ [0x0100, 0x0101, 0x0102, 0x0103, 0x0104, 0x0105, 0x0201] := by
  simp only [Special.writable, Bool.or_eq_true, Bool.and_eq_true, decide_eq_true_eq, beq_iff_eq, List.mem_cons,
    List.not_mem_nil, or_false]
  omega

/-- The write that a WRSR of a writable select makes is all that it leaves, whatever its place in its cycle (R110). -/
theorem State.wrsr_writes {s : State} {f : SY} {w : RegWrite} (h : specialWrite f.sel (s.myCtx.rs f.sa) = some w) :
    s.Answers (.wrsr f) fun t => s.Writes t [(1, w)] := by
  refine ⟨_, rfl, ?_⟩
  rw [h]
  split
  case h_1 u x he =>
    cases he
    exact s.defers_sched (s.t + 1) [9, s.t] (.registerWrite s.me (.flagsWrite u x))
  case h_2 v _ he =>
    cases he
    exact s.writes_write 1 w
  case h_3 he => cases he

/-- Settles O9: the select names the write that WRSR leaves. -/
theorem specialRegisterWrites : Obligations.SpecialRegisterWrites := by
  intro s f
  refine ⟨fun h => ?_, fun h => ?_, fun h => ?_, fun h => ?_, fun h => ?_, fun h => ?_, fun h => ?_, fun h => ?_⟩
  case refine_8 =>
    have hok : (f.ok && f.sd == 0 && Special.writable f.sel) = true := h
    exact (Special.writable_iff f.sel).1 (Bool.and_eq_true_iff.1 hok).2
  all_goals exact State.wrsr_writes (by rw [h]; rfl)

/-! ### The values of the special registers (R18 to R22, R110 to R112, R156) -/

theorem lo32_toNat (n : Nat) : (lo32 n).toNat = n % 2 ^ 32 := BitVec.toNat_ofNat ..

theorem hi32_toNat (n : Nat) : (hi32 n).toNat = n / 2 ^ 32 % 2 ^ 32 := BitVec.toNat_ofNat ..

/-- The high word of a register of 64 bits. -/
theorem hi32_toNat_of_word64 (v : BitVec 64) : (hi32 v.toNat).toNat = v.toNat / 2 ^ 32 := by
  rw [hi32_toNat]
  have := v.isLt
  omega

theorem ctrPart_toNat (c : BitVec 96) (k : Nat) : (ctrPart c k).toNat = c.toNat / 2 ^ (32 * k) % 2 ^ 32 :=
  BitVec.toNat_ofNat ..

theorem flagsWord_toNat (f : Flags) : (flagsWord f).toNat = f.toNat := by
  have := f.isLt
  simp only [flagsWord, BitVec.truncate_eq_setWidth, BitVec.toNat_setWidth]
  omega

/-- CID of a core of the package (R18). -/
theorem State.cid_toNat {s : State} {c : Nat} (hc : c < 384) (hx : s.coords.1 < 8) (hy : s.coords.2.1 < 8)
    (hz : s.coords.2.2 < 8) : (s.cid c).toNat = s.coords.1 * 2 ^ 15 + s.coords.2.1 * 2 ^ 12 + s.coords.2.2 * 2 ^ 9 +
      c / 96 * 2 ^ 7 + c / 8 % 12 * 2 ^ 3 + c % 8 := by
  simp only [State.cid, dieOf, clusterOf, BitVec.toNat_ofNat]
  omega

/-- A loop level that is not active counts 0 (R22). -/
theorem Seq.lcnt_absent {q : Seq} {n : Nat} (h : ∀ l ∈ q.levels, l.level ≠ n) : q.lcnt n = 0 := by
  have hnone : q.levels.find? (fun l => l.level == n) = none := by simpa using h
  simp only [Seq.lcnt, hnone]

/-- The innermost active level of a number counts its iterations (R22). -/
theorem Seq.lcnt_innermost {q : Seq} {n : Nat} {l : Level} {inner rest : List Level} (hq : q.levels = inner ++ l :: rest)
    (hi : ∀ m ∈ inner, m.level ≠ n) (hl : l.level = n) : (q.lcnt n).toNat = l.count % 2 ^ 32 := by
  have hinner : inner.find? (fun l => l.level == n) = none := by simpa using hi
  have hfind : q.levels.find? (fun l => l.level == n) = some l := by simp [hq, List.find?_append, hinner, hl]
  simp only [Seq.lcnt, hfind, BitVec.toNat_ofNat]

theorem State.special_lcnt (s : State) {n : Nat} (hn : n < 3) : s.special (0x0014 + n) = s.myCtx.seq.lcnt n := by
  interval_cases n <;> rfl

/-- The six counts of QOCC stand each in four bits (R146). -/
theorem State.qocc_fields {s : State} {c : Nat} (h : ∀ q ∈ [0, 1, 2, 3, 10, 11], s.occupancy c q ≤ 8) :
    (∀ q, q < 4 → (s.qocc c).toNat / 2 ^ (4 * q) % 2 ^ 4 = s.occupancy c q) ∧
      (s.qocc c).toNat / 2 ^ 16 % 2 ^ 4 = s.occupancy c 10 ∧ (s.qocc c).toNat / 2 ^ 20 = s.occupancy c 11 := by
  simp only [List.forall_mem_cons] at h
  obtain ⟨h0, h1, h2, h3, h10, h11, -⟩ := h
  simp only [State.qocc, BitVec.toNat_ofNat]
  refine ⟨fun q hq => ?_, by omega, by omega⟩
  interval_cases q <;> norm_num only <;> omega

theorem State.partWord_toNat {s : State} {c : Nat} {q : Part} (h : s.part (s.partOf c) = some q) (f : Part → Nat) :
    (s.partWord c f).toNat = f q % 2 ^ 32 := by
  simp only [State.partWord, h, Option.elim_some, BitVec.toNat_ofNat]

/-- The keys, counters and clocks have a word of their own in which a read of their low word leaves the rest (R20, R156). -/
theorem State.latch_of_not_low {s : State} {n : Nat} (h : n ∉ [0x0004, 0x0006, 0x0108, 0x010A, 0x0110, 0x0112]) :
    s.latch n = s := by
  unfold State.latch
  split
  case h_7 => rfl
  all_goals exact absurd (by decide) h

/-- RDSR leaves the value at t for t+2, beside its latches (R16). -/
theorem State.rdsr_writes (s : State) (f : SY) : ∃ t, exec (.rdsr f) s = .next t ∧
    (s.latch f.sel).Writes t [(2, .s f.sd (s.special f.sel))] :=
  ⟨_, rfl, State.writes_write ..⟩

/-- Settles O8: RDSR's write and latches, and the value that each select reads. -/
theorem specialRegisterValues : Obligations.SpecialRegisterValues := by
  refine ⟨fun s f => ?_, fun s => ⟨?_, rfl, ?_, rfl, ?_, rfl, ?_, ?_, ?_, ?_⟩, fun s => ?_⟩
  · obtain ⟨t, he, hw⟩ := s.rdsr_writes f
    refine ⟨t, he, s.latch f.sel, hw, State.latch_of_not_low, ?_, ?_, ?_, ?_, ?_, ?_⟩
    all_goals
      intro h
      rw [h]
      rfl
  · exact fun hc hx hy hz => State.cid_toNat hc hx hy hz
  · exact lo32_toNat _
  · exact lo32_toNat _
  · show (BitVec.ofNat 32 _).toNat = _
    rw [BitVec.toNat_ofNat]
    omega
  · exact BitVec.toNat_ofNat ..
  · intro n hn h
    rw [s.special_lcnt hn, Seq.lcnt_absent h]
  · intro n l inner rest hn hq hi hl
    rw [s.special_lcnt hn, Seq.lcnt_innermost hq hi hl]
  · refine ⟨flagsWord_toNat _, flagsWord_toNat _, lo32_toNat _, hi32_toNat_of_word64 _, lo32_toNat _, hi32_toNat_of_word64 _,
      fun h => State.qocc_fields h, lo32_toNat _, rfl, lo32_toNat _, rfl, lo32_toNat _, lo32_toNat _, fun k hk => ?_,
      rfl, rfl, rfl, ?_, BitVec.toNat_ofNat .., fun q hq => ⟨State.partWord_toNat hq _, State.partWord_toNat hq _⟩⟩
    · interval_cases k <;> exact ⟨ctrPart_toNat _ _, ctrPart_toNat _ _⟩
    · exact List.headD_eq_head?_getD.trans (by rw [List.head?_eq_getElem?])

end Sys2Proof.Machine
end

section
/-! A late TCHK, and a full journal (O52, O47). -/
namespace Sys2Proof.Machine

/-! ### A late TCHK is a sign of life, too (R200, R350) -/

/-- A record of a fault changes no sign of life. -/
theorem State.Raises.sign {s t : State} {core code src : Nat} {d : List Word} (h : s.Raises t core code src d) {q : Part}
    (hq : s.part q.num = some q) : ∃ r, t.part q.num = some r ∧ r.sign = q.sign := by
  obtain ⟨f, -, -, -, -, rfl⟩ := h
  let g (r : Part) : Part := { r with faultsNow := r.faultsNow ++ [f] }
  have hpart : (s.modPart (s.partOf core) g).part q.num =
      (s.part q.num).map fun r => if r.num == s.partOf core then g r else r := State.part_modPart fun _ => rfl
  refine ⟨if q.num == s.partOf core then g q else q, by rw [hpart, hq]; rfl, ?_⟩
  split <;> rfl

/-- What TCHK leaves is more than the record of a fault, unless its partition gave a sign of life in this cycle before. -/
theorem State.tchk_not_raises {s : State} {q : Part} {f : SR} (hq : s.part (s.partOf s.me) = some q)
    (hg : s.Takes f.g f.neg) (hs : q.sign ≠ s.t + 1) {t : State} (ht : exec (.tchk f) s = .next t) {core code src : Nat}
    {d : List Word} : ¬ s.Raises t core code src d := by
  intro hr
  obtain ⟨u, hu, r, hpart, hsign⟩ := (State.tchk_sign hq f).1 hg
  obtain rfl : u = t := by rw [ht] at hu; cases hu; rfl
  obtain ⟨r', hpart', hsign'⟩ := hr.sign (by rw [State.part_num hq]; exact hq)
  rw [hpart] at hpart'
  cases hpart'
  exact hs (hsign'.symm.trans hsign)

/-- A running partition of core 0, whose bundle of TTC 1 issues; it has given no sign of life. -/
def lateCheck : State :=
  { State.reset with
    parts := [Part.fresh 0 0 [0] 0 .running]
    cur := { who := { core := 0, issue := 1, src := 0, bundle := 0 }, slot := 0, work := .bundleIssue 0, todo := [] } }

/-- Refutes O52: a TCHK at TTC 1 whose bound is 0 takes fault 0x11, but is a sign of life of its partition as well, so that
the record is not all that happens. -/
theorem not_faultAtIssue : ¬ Obligations.FaultAtIssue := by
  intro h
  let f : SR := { sd := 0, sa := 0, sb := 0, g := 0, neg := false, fn := 0 }
  have hg : lateCheck.Takes f.g f.neg := by simp [State.Takes, f]
  obtain ⟨-, hclean, -⟩ := h lateCheck
  obtain ⟨-, hslots⟩ := hclean rfl rfl
  obtain ⟨-, ⟨-, -, hwaits⟩, -, -⟩ := hslots (by decide)
  obtain ⟨htchk, -⟩ := hwaits f
  obtain ⟨e, -, -, -, t, ht, hr⟩ := htchk.1 ⟨_, List.mem_singleton_self _, hg, by decide⟩
  exact State.tchk_not_raises (q := Part.fresh 0 0 [0] 0 .running) rfl hg (by decide) ht hr

/-! ### A full journal ends a probation (R357) -/

/-- An advisory fact that a service in probation has no room for makes it fall back. -/
theorem State.journal_full {s : State} {v : Service} {f : Fact} (hs : (s.svc v).state = .probation)
    (hf : 6 < f.type) (hj : 65536 ≤ (s.svc v).journal.length) : s.journal v f = s.fallBack v := by
  simp [State.journal, State.journalEntry, hs, Nat.not_le.2 hf, journalSize, hj]

/-- The fallback leaves a step pending: the first heartbeat's deadline (R360). -/
theorem State.fallBack_due (s : State) (v : Service) : (s.fallBack v).due.length = s.due.length + 1 := by
  simp [State.fallBack, State.setDeadline, State.schedG]

/-- A prefect in probation whose journal is full. -/
def fullJournal : State :=
  { State.reset with
    svcs := Vector.replicate 3 { Svc.reset with
      state := .probation
      journal := List.replicate 65536 { seq := 0, index := 0, essential := false, type := 22, schema := 0 } } }

theorem fullJournal_svc (v : Service) :
    (fullJournal.svc v).state = .probation ∧ (fullJournal.svc v).journal.length = 65536 := by
  cases v <;> exact ⟨rfl, List.length_replicate⟩

/-- Refutes O47: the gating of a core is a fact that the prefect journals; with its journal full the prefect falls back, and
the step leaves the deadline of its heartbeat pending, where `Alters` lets no pending step come. -/
theorem not_temperatureUnitsAndCores : ¬ Obligations.TemperatureUnitsAndCores := by
  intro h
  obtain ⟨-, -, -, hcores⟩ := h
  obtain ⟨-, hgating⟩ := hcores fullJournal
  obtain ⟨t, ht, -, -, -, -, -, -, -, hdue, -⟩ := hgating 0 true (by decide)
  obtain ⟨hstate, hlen⟩ := fullJournal_svc .prefect
  have hfull : (fullJournal.doing (.coreGating 0 true)).journal .prefect .coreGating =
      (fullJournal.doing (.coreGating 0 true)).fallBack .prefect :=
    State.journal_full hstate (by decide) (Nat.le_of_eq hlen.symm)
  have hexec : exec .coreGating (fullJournal.doing (.coreGating 0 true)) =
      .next (((fullJournal.doing (.coreGating 0 true)).journal .prefect .coreGating).modCtx 0 fun x =>
        if x.life = .idle then { x with life := .gated } else x) := rfl
  rw [hexec, hfull] at ht
  cases ht
  have hlate := State.fallBack_due (fullJournal.doing (.coreGating 0 true)) .prefect
  have hsame : ((fullJournal.doing (.coreGating 0 true)).fallBack .prefect).due = fullJournal.due := hdue
  rw [hsame] at hlate
  exact absurd hlate (Nat.ne_of_lt (Nat.lt_succ_self _))

end Sys2Proof.Machine
end

section
/-! Register writes (O54). -/
namespace Sys2Proof.Machine

/-! ### Bits merged under a mask (R125) -/

/-- `new` holds the bits of `v` where the mask `m` is set, and those of `old` elsewhere. -/
def Merges {n : Nat} (old m v new : BitVec n) : Prop :=
  ∀ k, k < n → new.getLsbD k = if m.getLsbD k then v.getLsbD k else old.getLsbD k

theorem merges_bits {n : Nat} (old m v : BitVec n) : Merges old m v ((old &&& ~~~m) ||| (v &&& m)) := by
  intro k hk
  simp only [BitVec.getLsbD_or, BitVec.getLsbD_and, BitVec.getLsbD_not, hk, decide_true, Bool.true_and]
  cases m.getLsbD k <;> simp

theorem lane_mergeLanes (old m v : Lanes) {k : Nat} (hk : k < 256) :
    lane (mergeLanes old m v) k = (lane old k &&& ~~~lane m k) ||| (lane v k &&& lane m k) := by
  simp [lane, mergeLanes, hk]

theorem merges_lanes (old m v : Lanes) (k : Nat) (hk : k < 256) :
    Merges (lane old k) (lane m k) (lane v k) (lane (mergeLanes old m v) k) := by
  rw [lane_mergeLanes old m v hk]
  exact merges_bits (lane old k) (lane m k) (lane v k)

/-! ### A write of each kind (R10, R13) -/

/-- The guards after a write: g0 reads true (R10). -/
theorem Ctx.rg_apply (x : Ctx) (m v : BitVec 8) {n : Nat} (h0 : 0 < n) (hn : n < 8) :
    (x.apply (.g m v)).rg n = if m.getLsbD n then v.getLsbD n else x.g.getLsbD n := by
  have h1 : (1 : BitVec 8).getLsbD n = false := by
    interval_cases n <;> rfl
  have hbits := merges_bits x.g m v n hn
  simp only [Ctx.rg, Ctx.apply, Nat.ne_of_gt h0, if_false, BitVec.getLsbD_or (y := 1), h1, Bool.or_false, hbits]

/-- A half of a seed is replaced, the other stays (R111). -/
theorem seed_bits (old : BitVec 64) (hi : Bool) (v : Word) {b : Nat} (hb : b < 64) :
    (if hi then (v.zeroExtend 64 <<< 32) ||| (old &&& 0xFFFFFFFF#64)
      else (old &&& 0xFFFFFFFF00000000#64) ||| v.zeroExtend 64).getLsbD b =
      if decide (32 ≤ b) = hi then v.getLsbD (b % 32) else old.getLsbD b := by
  have hlow : (0xFFFFFFFF#64).getLsbD b = decide (b < 32) := by
    interval_cases b <;> rfl
  have hhigh : (0xFFFFFFFF00000000#64).getLsbD b = decide (32 ≤ b) := by
    interval_cases b <;> rfl
  have hv : (v.zeroExtend 64).getLsbD b = v.getLsbD b := by simp [-BitVec.getLsbD_eq_getElem, hb]
  have hshift : (v.zeroExtend 64 <<< 32).getLsbD b = (!decide (b < 32) && v.getLsbD (b - 32)) := by
    simp [-BitVec.getLsbD_eq_getElem, hb, Nat.lt_of_le_of_lt (Nat.sub_le b 32) hb]
  rcases Nat.lt_or_ge b 32 with h | h
  · have hm : b % 32 = b := Nat.mod_eq_of_lt h
    cases hi
    · simp only [Bool.false_eq_true, if_false, BitVec.getLsbD_or, BitVec.getLsbD_and, hhigh, hv]
      simp [h, hm]
    · simp only [if_true, BitVec.getLsbD_or, BitVec.getLsbD_and, hlow, hshift]
      simp [h]
  · have hm : b % 32 = b - 32 := by omega
    have hout : v.getLsbD b = false := BitVec.getLsbD_of_ge v b h
    cases hi
    · simp only [Bool.false_eq_true, if_false, BitVec.getLsbD_or, BitVec.getLsbD_and, hhigh, hv, hout]
      simp [h]
    · simp only [if_true, BitVec.getLsbD_or, BitVec.getLsbD_and, hlow, hshift]
      simp [h, hm, Nat.not_lt.2 h]

/-- The bits that SPWE has (R196). -/
theorem spwe_bits (w : Word) {b : Nat} (hb : b < 32) :
    (w &&& 0x007FFFF0).getLsbD b = (w.getLsbD b && decide (4 ≤ b ∧ b < 23)) := by
  have hmask : (0x007FFFF0 : Word).getLsbD b = decide (4 ≤ b ∧ b < 23) := by
    interval_cases b <;> rfl
  rw [BitVec.getLsbD_and, hmask]

/-- When a table is valid (R151). -/
theorem tieValid_iff (img : Lanes) : Ctx.apply.tieValid img = true ↔
    (lane img 0).toNat / 2 ^ 23 % 2 ^ 8 ≠ 255 ∧ -126 ≤ (lane img 1).toInt ∧ (lane img 1).toInt ≤ 104 := by
  have hvalid : Ctx.apply.tieValid img = ((lane img 0).toNat / 2 ^ 23 % 2 ^ 8 != 255 && decide (-126 ≤ (lane img 1).toInt) &&
      decide ((lane img 1).toInt ≤ 104)) := rfl
  simp only [hvalid, Bool.and_eq_true, bne_iff_ne, ne_eq, decide_eq_true_eq, and_assoc]

/-- The vector unit of a slot, replaced. -/
theorem Ctx.modUnit_eq (x : Ctx) (u : VSlot) (f : VecUnit → VecUnit) : x.modUnit u f = match u with
    | .a => { x with va := f (x.unit u) }
    | .b => { x with vb := f (x.unit u) } := by
  cases u <;> rfl

/-! ### What a landing leaves as it was -/

/-- Whether a write carries a fault (R267). -/
def RegWrite.isFault : RegWrite → Bool
  | .fault .. => true
  | _ => false

/-- A write that carries no fault changes the context of its core, and the marks of the words it renews. -/
theorem execRegisterWrite_lands {s : State} {c : Nat} {w : RegWrite} (hw : s.cur.work = .registerWrite c w)
    (hf : w.isFault = false) : execRegisterWrite s = .next (s.modCore c fun k =>
      { k with ctx := k.ctx.apply w, regBad := k.regBad.filter fun b => !w.renews b.1 b.2.1 b.2.2,
               regSoft := k.regSoft.filter fun b => !w.renews b.1 b.2.1 b.2.2 }) := by
  unfold execRegisterWrite
  rw [hw]
  split
  case h_1 code u d he =>
    cases he
    cases hf
  case h_2 he =>
    cases he
    rfl
  case h_3 hno => exact absurd rfl (hno c w)

/-- R13: a register write lands in the context of its core, and in nothing else. -/
theorem State.registerWrite_lands {s : State} {c : Nat} (hc : c < 384) {w : RegWrite} {P : Ctx → Prop}
    (hf : w.isFault = false) (hP : P ((s.ctx c).apply w)) :
    s.Does .registerWrite (.registerWrite c w) fun t => P (t.ctx c) ∧ (∀ k, k ≠ c → t.core k = s.core k) ∧
      (t.core c).spad = (s.core c).spad ∧ t.parts = s.parts ∧ t.dram = s.dram ∧ t.due = s.due := by
  refine ⟨_, execRegisterWrite_lands (s := s.doing (.registerWrite c w)) rfl hf, ?_, fun k hk => ?_, ?_, rfl, rfl, rfl⟩
  · rw [State.ctx, State.core_modCore_self hc]
    exact hP
  · exact State.core_modCore_ne hk _
  · rw [State.core_modCore_self hc]
    rfl

/-- R267, R324: a write that carries a fault records it, on the core itself when a neighbour sent it. -/
theorem State.registerWrite_faults (s : State) (c code : Nat) (u : Option ErrUnit) (d : List Word) :
    s.Does .registerWrite (.registerWrite c (.fault code u d)) fun t =>
      if s.cur.who.src = 13 then (s.doing (.registerWrite c (.fault code u d))).Raises t c code 11 d
      else (s.doing (.registerWrite c (.fault code u d))).Raises t s.me code s.cur.who.src d := by
  refine ⟨(s.doing (.registerWrite c (.fault code u d))).writeFault c code u d, rfl, ?_⟩
  have hsrc : (s.doing (.registerWrite c (.fault code u d))).cur.who.src = s.cur.who.src := rfl
  show if s.cur.who.src = 13 then _ else _
  by_cases h : s.cur.who.src = 13
  · rw [if_pos h, State.writeFault, hsrc, if_pos h]
    exact ⟨_, rfl, rfl, rfl, rfl, rfl⟩
  · rw [if_neg h, State.writeFault, hsrc, if_neg h]
    exact ⟨_, rfl, rfl, rfl, rfl, rfl⟩

/-- Settles O54: every kind of register write, by what `Ctx.apply` does with it. -/
theorem registerWriteLands : Obligations.RegisterWriteLands := by
  intro s c hc lands x bits lanes
  have land {w : RegWrite} {P : Ctx → Prop} (hP : P (x.apply w)) (hf : w.isFault = false := by rfl) : lands w P :=
    State.registerWrite_lands hc hf hP
  clear_value lands
  refine ⟨fun n w h0 hn => land ?_, fun w => land ?_, fun w => land ?_, fun n w h0 hn => land ?_, fun m v => land ?_,
    fun n m v hn => land ?_, fun n m v hn => land ?_, fun n m v hn => land ?_, fun u => ?_, fun n v hn => land ?_,
    fun v => land ?_, fun w => land ?_, fun n v hn => land ?_, fun n v hn => land ?_, fun v hv => land ?_, land ?_,
    fun m => land ?_, s.registerWrite_faults c⟩
  · simp [Ctx.apply, Ctx.rs, Nat.ne_of_gt h0, hn]
  · rfl
  · rfl
  · simp [Ctx.apply, Ctx.rp, Nat.ne_of_gt h0, hn]
  · exact ⟨⟨_, rfl⟩, rfl, fun n h0 hn => x.rg_apply m v h0 hn⟩
  · exact ⟨_, rfl, merges_lanes _ _ _⟩
  · exact ⟨_, rfl, merges_bits _ _ _⟩
  · exact ⟨_, rfl, merges_bits _ _ _⟩
  · intro at_ old
    have unit {f : VecUnit → VecUnit} {P : VecUnit → Prop} (hP : P (f old)) : at_ P (x.modUnit u f) :=
      ⟨f old, hP, x.modUnit_eq u f⟩
    clear_value at_
    refine ⟨fun n m v hn => land ?_, fun m v => land ?_, fun n m v h0 hn => land ?_, fun f => land ?_, fun f => land ?_,
      fun hi v => land ?_, fun k => land ?_, fun k => land ?_, fun n img hn => land ?_⟩ <;> rw [Ctx.apply]
    · exact unit ⟨_, rfl, merges_lanes _ _ _⟩
    · rfl
    · rw [if_neg (Nat.ne_of_gt h0)]
      exact unit ⟨_, rfl, merges_bits _ _ _⟩
    · exact unit ⟨rfl, fun b _ => BitVec.getLsbD_or⟩
    · exact unit rfl
    · exact unit ⟨rfl, fun b hb => seed_bits _ hi v hb⟩
    · exact unit rfl
    · exact unit rfl
    · exact unit ⟨_, rfl, rfl, tieValid_iff img⟩
  · exact ⟨rfl, by simp [Ctx.apply, Ctx.rh, hn]⟩
  · rfl
  · exact ⟨rfl, fun b hb => spwe_bits w hb⟩
  · exact ⟨x.bars[n], by simp [hn], by simp [Ctx.apply, hn]⟩
  · rfl
  · simp [Ctx.apply, Nat.mod_eq_of_lt hv]
  · rfl
  · rfl

end Sys2Proof.Machine
end

section
/-! The issue of a bundle and the expansion of a segment (O37). -/
namespace Sys2Proof.Machine

/-! ### A bundle takes its cycle (R7, R8) -/

/-- Without correctable words a bundle's reads correct nothing. -/
theorem State.correctReads_clean {s : State} {c : Nat} {x : Ctx} (hr : (s.core c).regSoft = []) (hm : (s.core c).mxSoft = []) :
    s.correctReads c x = s := by
  have hreg (slot : Nat) (i : Instr) : x.regHits slot i [] = [] := by
    show (if x.enabled i then [] else []) = []
    exact ite_self _
  have hhits : (x.slots.flatMap fun w => match w.2.2 with
      | .ok i => x.regHits w.1 i (s.core c).regSoft ++ (s.core c).mxSoft.filter (x.mxReads i)
      | .error _ => []) = [] := by
    refine List.flatMap_eq_nil_iff.2 fun w _ => ?_
    rw [hr, hm]
    cases w.2.2 with
    | error e => rfl
    | ok i => exact congrArg (· ++ []) (hreg w.1 i)
  exact congrArg (List.foldl (fun s _ => s.coreSoft c) s) hhits

/-- The marks of latches that RDSRs renew are no part of a context or a scratchpad. -/
theorem State.renewLatches_ctx (s : State) (c k : Nat) (x : Ctx) : (s.renewLatches c x).ctx k = s.ctx k :=
  State.core_modCore_field (s := s) (c := c) Core.ctx (by intro _; rfl) k

theorem State.renewLatches_spad (s : State) (c k : Nat) (x : Ctx) :
    ((s.renewLatches c x).core k).spad = (s.core k).spad :=
  State.core_modCore_field (s := s) (c := c) Core.spad (by intro _; rfl) k

/-- A core's sequencer after its bundle, before the successor of a segment that it enters is thought of. -/
def Ctx.advanced (x : Ctx) (t : Nat) : Ctx := { x with seqBefore := x.seq, seq := x.seq.advance t }

/-- The machine with a core's sequencer advanced, and the successor of a segment that it enters called for. -/
def State.advanced (s : State) (c t : Nat) : State :=
  if (s.ctx c).seq.next = .enter then (s.modCtx c (·.advanced t)).startSuccessor c t else s.modCtx c (·.advanced t)

/-- The machine with the slots of a core's bundle to execute, and the core's next bundle at the next cycle. -/
def State.issued (s : State) (c t : Nat) (x : Ctx) : State :=
  let s := s.renewLatches c x
  { s.issueAt c (t + 1) with
    cur := { s.cur with who := { core := c, issue := t, src := 0, bundle := x.seq.bundleAddr }, slot := 0, todo := x.todo } }

/-- The machine with the half of a core's loop buffer replaced that its sequencer does not run in. -/
def State.putHalf (s : State) (c : Nat) (h : Option Half) : State :=
  s.modCtx c fun x => { x with seq := x.seq.setHalf (!x.seq.inB) h }

/-- A segment without a successor empties the other half. -/
theorem State.startSuccessor_ends {s : State} {c : Nat} {g : Segment} (hg : (s.ctx c).seq.resident = some g)
    (h0 : g.head.next = 0) (t : Nat) : s.startSuccessor c t = s.putHalf c none := by
  simp only [State.startSuccessor, hg, h0, if_true]
  rfl

/-- A segment's successor is to be resident when its expansion's cost has passed. -/
theorem State.startSuccessor_calls {s : State} {c off : Nat} {g : Segment} (hg : (s.ctx c).seq.resident = some g)
    (h0 : g.head.next ≠ 0) (ho : (targetOffset g.off g.head.next).toNat = off) (t : Nat) : s.startSuccessor c t =
      (s.putHalf c (some { off := off, ready := t + s.costAt c off, seg := none })).expandAt c (t + s.costAt c off)
        (!(s.ctx c).seq.inB) off := by
  simp only [State.startSuccessor, hg, h0, if_false, ho]
  rfl

/-- The successor's expansion is a pending step, and a half of the loop buffer. -/
theorem State.startSuccessor_marks (s : State) (c t k : Nat) : ((s.startSuccessor c t).core k).regSoft = (s.core k).regSoft ∧
    ((s.startSuccessor c t).core k).mxSoft = (s.core k).mxSoft := by
  have hput (h : Option Half) : ((s.putHalf c h).core k).regSoft = (s.core k).regSoft ∧
      ((s.putHalf c h).core k).mxSoft = (s.core k).mxSoft :=
    ⟨State.core_modCore_field (s := s) (c := c) Core.regSoft (by intro _; rfl) k,
      State.core_modCore_field (s := s) (c := c) Core.mxSoft (by intro _; rfl) k⟩
  cases hg : (s.ctx c).seq.resident with
  | none => simp only [State.startSuccessor, hg, and_self]
  | some g =>
    by_cases h0 : g.head.next = 0
    · rw [State.startSuccessor_ends hg h0]
      exact hput none
    · rw [State.startSuccessor_calls hg h0 rfl]
      exact hput _

theorem State.advanced_marks (s : State) (c t k : Nat) : ((s.advanced c t).core k).regSoft = (s.core k).regSoft ∧
    ((s.advanced c t).core k).mxSoft = (s.core k).mxSoft := by
  have hmod : ((s.modCtx c (·.advanced t)).core k).regSoft = (s.core k).regSoft ∧
      ((s.modCtx c (·.advanced t)).core k).mxSoft = (s.core k).mxSoft :=
    ⟨State.core_modCore_field (s := s) (c := c) Core.regSoft (by intro _; rfl) k,
      State.core_modCore_field (s := s) (c := c) Core.mxSoft (by intro _; rfl) k⟩
  unfold State.advanced
  split
  · have h := State.startSuccessor_marks (s.modCtx c (·.advanced t)) c t k
    exact ⟨h.1.trans hmod.1, h.2.trans hmod.2⟩
  · exact hmod

/-- A bundle's start: the sequencer advances, correctable words are corrected, and the slots are given out. -/
theorem State.startBundle_eq (s : State) (c t : Nat) : s.startBundle c t =
    ((s.advanced c t).correctReads c ((s.advanced c t).ctx c)).issued c t ((s.advanced c t).ctx c) := rfl

theorem State.startBundle_clean {s : State} {c t : Nat} (hr : (s.core c).regSoft = []) (hm : (s.core c).mxSoft = []) :
    s.startBundle c t = (s.advanced c t).issued c t ((s.advanced c t).ctx c) := by
  obtain ⟨hr', hm'⟩ := s.advanced_marks c t c
  rw [State.startBundle_eq, State.correctReads_clean (hr'.trans hr) (hm'.trans hm)]

/-- The slots of a bundle that execute: those whose words are not zero, slot 0 first (R27). -/
theorem Ctx.mem_todo (x : Ctx) (i : Nat) : i ∈ x.todo ↔ i < 8 ∧ x.word i ≠ 0 := by
  simp [Ctx.todo]

theorem Ctx.todo_rises (x : Ctx) : x.todo.Pairwise (· < ·) := List.pairwise_lt_range.filter _

section
variable (s : State) (c t : Nat) (x : Ctx)

theorem State.issued_ctx (k : Nat) : (s.issued c t x).ctx k = s.ctx k := s.renewLatches_ctx c k x

theorem State.issued_core_ne {k : Nat} (hk : k ≠ c) : (s.issued c t x).core k = s.core k := by
  show (s.renewLatches c x).core k = s.core k
  exact State.core_modCore_ne hk _

theorem State.issued_spad (k : Nat) : ((s.issued c t x).core k).spad = (s.core k).spad := s.renewLatches_spad c k x

theorem State.issued_due {d : Timed} (h : d ∈ s.due) : d ∈ (s.issued c t x).due := List.mem_append_left _ h

/-- The next bundle of the core is called for at the next cycle (R7). -/
theorem State.issued_later {p : Nat} (hp : s.partOf c = p) : (s.issued c t x).Later (some p) (t + 1) (.bundleIssue c) := by
  refine ⟨_, List.mem_append_right _ (List.mem_singleton.2 rfl), ?_, rfl, rfl⟩
  show some ((s.renewLatches c x).ctx c).part = some p
  rw [State.renewLatches_ctx, ← hp]
  rfl

end

theorem State.modCtx_partOf {s : State} {c : Nat} {f : Ctx → Ctx} (hf : ∀ x, (f x).pid = x.pid) (k : Nat) :
    (s.modCtx c f).partOf k = s.partOf k :=
  State.ctx_modCtx_field Ctx.part (fun x => by simp only [Ctx.part, hf]) k

/-- A partition whose bundles of the cycle have been judged without a fault lets its cores' bundles take their cycle. -/
theorem State.bundleIssue_starts {s : State} {c : Nat} {q : Part} (hq : s.part (s.partOf c) = some q)
    (hj : q.judged = some (q.ttc s.gtc)) (hf : q.faultsNow = []) (ha : q.joining = false)
    (hw : s.cur.work = .bundleIssue c) : execBundleIssue s = .next (s.startBundle c (q.ttc s.gtc)) := by
  have hnum : s.part q.num = some q := by rw [State.part_num hq, hq]
  simp only [execBundleIssue, hw, hq, hj, if_true, hnum, Option.any_some, ha, hf, List.isEmpty_nil, Bool.not_true, Bool.or_self,
    Bool.false_eq_true, if_false]

section
variable {s : State} {c : Nat} {q : Part} (hq : s.part (s.partOf c) = some q) (hj : q.judged = some (q.ttc s.gtc))
  (hf : q.faultsNow = []) (ha : q.joining = false) (hr : (s.core c).regSoft = []) (hm : (s.core c).mxSoft = [])
include hq hj hf ha hr hm

/-- The step of a bundle that is due and clear leaves its core's sequencer advanced and its slots to execute. -/
theorem State.bundleIssue_issues {u : State} (hu : (s.doing (.bundleIssue c)).advanced c (q.ttc s.gtc) = u) :
    exec .bundleIssue (s.doing (.bundleIssue c)) = .next (u.issued c (q.ttc s.gtc) (u.ctx c)) := by
  subst hu
  exact (State.bundleIssue_starts (s := s.doing (.bundleIssue c)) hq hj hf ha rfl).trans
    (congrArg Host.Outcome.next (State.startBundle_clean (s := s.doing (.bundleIssue c)) hr hm))

variable (hc : c < 384)
include hc

/-- R7, R8: a bundle in sequence. -/
theorem State.bundleIssue_inSequence (hn : (s.ctx c).seq.next ≠ .enter) :
    s.Does .bundleIssue (.bundleIssue c) fun t => t.ctx c = (s.ctx c).advanced (q.ttc s.gtc) ∧
      (∀ k, k ≠ c → t.core k = s.core k) ∧ (t.core c).spad = (s.core c).spad ∧ t.parts = s.parts ∧ t.dram = s.dram ∧
      t.cur.who.core = c ∧ t.cur.who.issue = q.ttc s.gtc ∧ (∀ i, i ∈ t.cur.todo ↔ i < 8 ∧ (t.ctx c).word i ≠ 0) ∧
      t.cur.todo.Pairwise (· < ·) ∧ t.Later (some (s.partOf c)) (q.ttc s.gtc + 1) (.bundleIssue c) := by
  obtain ⟨u, hu⟩ : ∃ u, (s.doing (.bundleIssue c)).modCtx c (·.advanced (q.ttc s.gtc)) = u := ⟨_, rfl⟩
  have hadv : (s.doing (.bundleIssue c)).advanced c (q.ttc s.gtc) = u := (if_neg hn).trans hu
  have hctx : u.ctx c = (s.ctx c).advanced (q.ttc s.gtc) := by
    rw [← hu]
    exact State.ctx_modCtx_self (s := s.doing (.bundleIssue c)) hc _
  have hpart : u.partOf c = s.partOf c := by
    rw [← hu]
    exact State.modCtx_partOf (s := s.doing (.bundleIssue c)) (by intro _; rfl) c
  have hcore {k : Nat} (hk : k ≠ c) : u.core k = s.core k := by
    rw [← hu]
    exact State.core_modCore_ne (s := s.doing (.bundleIssue c)) hk _
  have hspad : (u.core c).spad = (s.core c).spad := by
    rw [← hu]
    exact (s.doing (.bundleIssue c)).core_modCtx_spad c c _
  have hparts : u.parts = s.parts := by
    rw [← hu]
    rfl
  have hdram : u.dram = s.dram := by
    rw [← hu]
    rfl
  refine ⟨_, State.bundleIssue_issues hq hj hf ha hr hm hadv, ?_, fun k hk => ?_, ?_, hparts, hdram, rfl, rfl, fun i => ?_,
    Ctx.todo_rises _, u.issued_later c _ _ hpart⟩
  · rw [State.issued_ctx, hctx]
  · rw [State.issued_core_ne _ _ _ _ hk, hcore hk]
  · rw [State.issued_spad, hspad]
  · rw [State.issued_ctx]
    exact Ctx.mem_todo ..

/-- R48: the first bundle of a segment, with which the expansion of the segment's successor begins. -/
theorem State.bundleIssue_enters {g : Segment} (hn : (s.ctx c).seq.next = .enter)
    (hg : ((s.ctx c).seq.advance (q.ttc s.gtc)).resident = some g) :
    let T := q.ttc s.gtc
    let x := s.ctx c
    let y := x.seq.advance T
    let off := (targetOffset g.off g.head.next).toNat
    let ready := T + s.costAt c off
    s.Does .bundleIssue (.bundleIssue c) fun t =>
      (g.head.next = 0 → t.ctx c = { x with seqBefore := x.seq, seq := y.setHalf (!y.inB) none }) ∧
      (g.head.next ≠ 0 →
        t.ctx c = { x with seqBefore := x.seq, seq := y.setHalf (!y.inB) (some { off := off, ready := ready, seg := none }) } ∧
        t.Later (some (s.partOf c)) ready (.segmentExpansion c (!y.inB) off)) ∧
      t.cur.who.core = c ∧ t.cur.who.issue = T ∧ t.Later (some (s.partOf c)) (T + 1) (.bundleIssue c) := by
  intro T x y off ready
  obtain ⟨u, hu⟩ : ∃ u, (s.doing (.bundleIssue c)).modCtx c (·.advanced T) = u := ⟨_, rfl⟩
  have hadv : (s.doing (.bundleIssue c)).advanced c T = u.startSuccessor c T := by
    rw [← hu]
    exact if_pos hn
  have hctx : u.ctx c = x.advanced T := by
    rw [← hu]
    exact State.ctx_modCtx_self (s := s.doing (.bundleIssue c)) hc _
  have hpart (h : Option Half) : (u.putHalf c h).partOf c = s.partOf c := by
    rw [State.putHalf, State.modCtx_partOf (by intro _; rfl) c, ← hu]
    exact State.modCtx_partOf (s := s.doing (.bundleIssue c)) (by intro _; rfl) c
  have hput (h : Option Half) : (u.putHalf c h).ctx c = { x with seqBefore := x.seq, seq := y.setHalf (!y.inB) h } := by
    rw [State.putHalf, State.ctx_modCtx_self hc, hctx]
    rfl
  have hcost : u.costAt c off = s.costAt c off := by
    rw [← hu]
    rfl
  have hres : (u.ctx c).seq.resident = some g := by
    rw [hctx]
    exact hg
  have hexec := State.bundleIssue_issues hq hj hf ha hr hm hadv
  by_cases h0 : g.head.next = 0
  · rw [State.startSuccessor_ends hres h0] at hexec
    refine ⟨_, hexec, fun _ => ?_, fun hne => absurd h0 hne, rfl, rfl, State.issued_later _ c _ _ (hpart none)⟩
    rw [State.issued_ctx, hput]
  · have hin : (u.ctx c).seq.inB = y.inB := by
      rw [hctx]
      rfl
    rw [State.startSuccessor_calls (off := off) hres h0 rfl, hcost, hin] at hexec
    refine ⟨_, hexec, fun h => absurd h h0, fun _ => ⟨?_, ?_⟩, rfl, rfl, State.issued_later _ c _ _ (hpart _)⟩
    · rw [State.issued_ctx]
      exact hput _
    · refine ⟨_, State.issued_due _ c _ _ (List.mem_append_right _ (List.mem_singleton.2 rfl)), ?_, rfl, rfl⟩
      exact congrArg some (hpart _)

end

/-! ### A bundle is judged (R25, R322) -/

/-- Counting a data event changes no core, no partition and no device memory. -/
theorem State.countErr_frame (s : State) (u : ErrUnit) (hard : Bool) : (s.countErr u hard).cores = s.cores ∧
    (s.countErr u hard).parts = s.parts ∧ (s.countErr u hard).dram = s.dram := by
  obtain ⟨hcores, hparts, hdram, -⟩ := s.journal_frame .prefect .errorCount
  unfold State.countErr
  extract_lets
  exact ⟨(apply_ite State.cores _ _ _).trans ((ite_self _).trans hcores),
    (apply_ite State.parts _ _ _).trans ((ite_self _).trans hparts),
    (apply_ite State.dram _ _ _).trans ((ite_self _).trans hdram)⟩

section
variable (s : State) (w : Work)

/-- What a bundle meets at its issue does not turn on the step under way. -/
theorem State.slotFaults_doing (c t : Nat) (x : Ctx) (es : List (Nat × Nat × Except DecodeError Instr)) :
    (s.doing w).slotFaults c t x es = s.slotFaults c t x es := by
  induction es generalizing x with
  | nil => rfl
  | cons e es ih =>
    obtain ⟨slot, v, r⟩ := e
    cases r with
    | error d => simp only [State.slotFaults, ih]
    | ok i =>
      simp only [State.slotFaults, ih]
      rfl

theorem State.bundleFaults_doing (c t : Nat) : (s.doing w).bundleFaults c t = s.bundleFaults c t := by
  simp only [State.bundleFaults, State.slotFaults_doing]
  rfl

end

/-- The data events among the faults of a cycle's bundles, counted. -/
def State.countFault (s : State) (f : FaultNow) : State :=
  if f.code = 0x33 then f.blame.elim s fun u => s.countErr u true else s

theorem State.countFault_frame (s : State) (f : FaultNow) : (s.countFault f).cores = s.cores ∧
    (s.countFault f).parts = s.parts ∧ (s.countFault f).dram = s.dram := by
  unfold State.countFault
  split
  · cases f.blame with
    | none => exact ⟨rfl, rfl, rfl⟩
    | some u => exact s.countErr_frame u true
  · exact ⟨rfl, rfl, rfl⟩

/-- The faults of the bundles of a partition's cores due in the present cycle, and of its line. -/
def State.cycleFaults (s : State) (q : Part) (c t : Nat) : List FaultNow :=
  (q.cores.filter fun k => k == c || s.dueNow.any fun x => x.what == .bundleIssue k).flatMap (s.bundleFaults · t) ++
    s.lineFaults q t

theorem State.mem_cycleFaults {s : State} {q : Part} {c t : Nat} {f : FaultNow} (hc : c ∈ q.cores)
    (hf : f ∈ s.bundleFaults c t) : f ∈ s.cycleFaults q c t :=
  List.mem_append_left _ (List.mem_flatMap.2 ⟨c, List.mem_filter.2 ⟨hc, by simp⟩, hf⟩)

/-- A partition whose bundles of a cycle have been judged. -/
def Part.judgedAt (q : Part) (t : Nat) (fs : List FaultNow) : Part :=
  { q with judged := some t, faultsNow := q.faultsNow ++ fs }

theorem State.judge_eq (s : State) (q : Part) (c t : Nat) : s.judge q c t =
    ((s.cycleFaults q c t).foldl State.countFault s).modPart q.num (·.judgedAt t (s.cycleFaults q c t)) := rfl

/-- R322: when a bundle due in the cycle takes a fault, it does not issue, and its partition holds the fault. -/
theorem State.bundleIssue_halts {s : State} {c : Nat} {q : Part} {f : FaultNow} (hq : s.part (s.partOf c) = some q)
    (hc : c ∈ q.cores) (hj : q.judged ≠ some (q.ttc s.gtc)) (hline : q.ttc s.gtc % 4032 ≠ 0)
    (hf : f ∈ s.bundleFaults c (q.ttc s.gtc)) : s.Does .bundleIssue (.bundleIssue c) fun t =>
      t.cores = s.cores ∧ t.dram = s.dram ∧ (∀ p, p ≠ q.num → t.part p = s.part p) ∧
      ∃ r, t.part q.num = some r ∧ f ∈ r.faultsNow := by
  let s' := s.doing (.bundleIssue c)
  let T := q.ttc s.gtc
  let fs := s'.cycleFaults q c T
  let u := fs.foldl State.countFault s'
  have hcores : u.cores = s.cores := foldl_keeps State.cores (fun s f => (s.countFault_frame f).1) fs s'
  have hparts : u.parts = s.parts := foldl_keeps State.parts (fun s f => (s.countFault_frame f).2.1) fs s'
  have hdram : u.dram = s.dram := foldl_keeps State.dram (fun s f => (s.countFault_frame f).2.2) fs s'
  have hpart (p : Nat) : u.part p = s.part p := by simp only [State.part, hparts]
  have hnum : u.part q.num = some q := by rw [hpart, State.part_num hq, hq]
  have hself : (u.modPart q.num (·.judgedAt T fs)).part q.num = some (q.judgedAt T fs) :=
    State.part_modPart_self (fun _ => rfl) hnum
  have hin : f ∈ (q.judgedAt T fs).faultsNow := 
    List.mem_append_right _ (State.mem_cycleFaults hc (by rw [State.bundleFaults_doing]; exact hf))
  have hjoin : s'.joinAtLine q T = s' := by simp only [State.joinAtLine, T, hline, false_and, if_false]
  have hexec : execBundleIssue s' = .next (u.modPart q.num (·.judgedAt T fs)) := by
    have hany : ((u.modPart q.num (·.judgedAt T fs)).part q.num).any
        (fun q => q.joining || !q.faultsNow.isEmpty) = true := by
      have hne : (q.judgedAt T fs).faultsNow ≠ [] := List.ne_nil_of_mem hin
      simp [hself, hne]
    have hq' : s'.part (s'.partOf c) = some q := hq
    have hj' : ¬ q.judged = some (q.ttc s'.gtc) := hj
    have hw : s'.cur.work = .bundleIssue c := rfl
    simp only [execBundleIssue, hw, hq', hj', if_false]
    rw [show s'.joinAtLine q (q.ttc s'.gtc) = s' from hjoin, State.judge_eq]
    exact if_pos hany
  refine ⟨_, hexec, hcores, hdram, fun p hp => ?_, _, hself, hin⟩
  exact (State.part_modPart_ne (f := (·.judgedAt T fs)) (fun _ => rfl) hp).trans (hpart p)

end Sys2Proof.Machine
end

section
/-! The faults of a bundle at its issue (O37). -/
namespace Sys2Proof.Machine

/-! ### The faults of entering a segment (R9, R46, R50, R202, R323) -/

/-- A segment called for before its expansion is complete. -/
def Ctx.early (y : Ctx) (t : Nat) : Bool :=
  y.seq.resident.isNone || decide (t < (y.seq.half y.seq.inB).elim 0 (·.ready))

theorem Ctx.early_fault {y : Ctx} {t : Nat} (stored : Segment) (h : y.early t = true) :
    y.seqFault t 0x10 [10, BitVec.ofNat 32 y.seq.segOff] ∈ y.entryFaults t stored := by
  unfold Ctx.early at h
  simp [Ctx.entryFaults, h]

theorem Ctx.invalid_fault {y : Ctx} {t : Nat} {stored : Segment} (h : (y.seq.resident.getD stored).valid = false) :
    y.seqFault t 0x01 [BitVec.ofNat 32 y.seq.segOff] ∈ y.entryFaults t stored := by
  simp [Ctx.entryFaults, h]

/-- A timed segment that is resident in time is judged by the solo region and its stamp. -/
theorem Ctx.entryFaults_timed {y : Ctx} {t : Nat} {stored g : Segment} (hg : y.seq.resident = some g) (hv : g.valid = true)
    (ht : g.head.timed = true) (he : y.early t = false) : y.entryFaults t stored =
      if y.solo.isSome then [y.seqFault t 0x19 [2, BitVec.ofNat 32 y.seq.segOff]]
      else if g.head.stamp ≠ t then [y.seqFault t 0x10 [1]] else [] := by
  unfold Ctx.early at he
  have hg' : y.seq.resident.getD stored = g := by rw [hg]; rfl
  simp only [Ctx.entryFaults, he, hg', hv, ht, Bool.false_eq_true, if_false, not_true_eq_false, not_false_eq_true, and_self,
    if_true, List.nil_append]

/-- The faults of a segment's entry stand among those of the bundle that enters it. -/
theorem State.entryFaults_sub {s : State} {c t : Nat} (hn : (s.ctx c).seq.next = .enter) {f : FaultNow}
    (hf : f ∈ Ctx.entryFaults { s.ctx c with seq := (s.ctx c).seq.advance t } t
      (s.segmentAt c ((s.ctx c).seq.advance t).segOff)) : f ∈ s.bundleFaults c t := by
  simp only [State.bundleFaults, hn, if_true, true_and]
  split
  · exact hf
  · exact List.mem_append_left _ hf

/-- A chain that ends has no bundle to issue (R49). -/
theorem State.bundleFaults_exhausted {s : State} {c t : Nat} (hn : (s.ctx c).seq.next = .exhausted) :
    s.bundleFaults c t = [(s.ctx c).seqFault t 0x01 [BitVec.ofNat 32 (s.ctx c).seq.segOff]] := by
  simp only [State.bundleFaults, hn]

/-- The faults of a bundle in sequence are those of its slots, and of a block that goes without its beat (R182). -/
theorem State.bundleFaults_inSequence {s : State} {c t i : Nat} (hn : (s.ctx c).seq.next = .bundle i) :
    ∃ missing, (∀ f ∈ missing, f.code = 0x14) ∧ s.bundleFaults c t =
      mergeIllegal (s.slotFaults c t { s.ctx c with seq := (s.ctx c).seq.advance t }
        (Ctx.slots { s.ctx c with seq := (s.ctx c).seq.advance t }) ++ missing) := by
  simp only [State.bundleFaults, hn, reduceCtorEq, false_and, if_false, List.nil_append]
  refine ⟨_, fun f hf => ?_, rfl⟩
  split at hf
  · cases List.mem_singleton.1 hf
    rfl
  · cases hf

/-! ### The illegal slots of a bundle (R28) -/

/-- Reading queues leaves a context with other queues. -/
theorem Ctx.takeRows_queues (x : Ctx) (rs : List (Nat × Bool)) : ∃ qs, (x.takeRows rs).2.1 = { x with queues := qs } := by
  induction rs generalizing x with
  | nil => exact ⟨x.queues, rfl⟩
  | cons r rs ih =>
    obtain ⟨q, peek⟩ := r
    cases hq : x.queue q with
    | nil => exact ⟨x.queues, by simp [Ctx.takeRows, hq]⟩
    | cons h hs =>
      obtain ⟨qs, he⟩ := ih (if peek then x else x.setQueue q hs)
      refine ⟨qs, ?_⟩
      simp only [Ctx.takeRows, hq, he]
      cases peek <;> rfl

/-- The condition that a record names is one of those met. -/
theorem lowest_mem {cs : List (Nat × List Word)} {e : Nat × List Word} (h : lowest cs = some e) : e ∈ cs :=
  List.mem_reverse.1 ((sortBy_perm _ _).mem_iff.1 (List.mem_of_mem_head? h))

/-- The record of one slot whose word is no instruction. -/
def Ctx.illegalSlot (y : Ctx) (t slot : Nat) (w : Nat) : FaultNow :=
  { code := 0x01, rank := y.rank, src := slot, bundle := y.seq.bundleAddr, issue := some t,
    detail := [BitVec.ofNat 32 (2 ^ slot), BitVec.ofNat 32 w], blame := none }

/-- Whether a slot's entry in a bundle is no instruction. -/
def illegalEntry (e : Nat × Nat × Except DecodeError Instr) : Bool := match e.2.2 with
  | .ok _ => false
  | .error _ => true

/-- Where no instruction meets a condition that is an illegal instruction, the records of illegal instructions are those of
the words that are none. -/
theorem State.slotFaults_illegal {s : State} {c t : Nat} {y : Ctx} (es : List (Nat × Nat × Except DecodeError Instr))
    (hlegal : ∀ slot w i, (slot, w, .ok i) ∈ es → ∀ qs,
      ∀ e ∈ s.issueConds c t slot { y with queues := qs } w i, e.1 ≠ 0x01) (qs : Vector (List Row) 12) : (s.slotFaults c t { y with queues := qs } es).filter (fun f => f.code == 0x01) =
      (es.filter illegalEntry).map fun e => y.illegalSlot t e.1 e.2.1 := by
  induction es generalizing qs with
  | nil => rfl
  | cons e es ih =>
    have ih' := ih fun slot w i hi => hlegal slot w i (List.mem_cons_of_mem _ hi)
    obtain ⟨slot, w, r⟩ := e
    cases r with
    | error d =>
      simp only [State.slotFaults, List.filter_cons, illegalEntry, beq_self_eq_true, if_true, List.map_cons, ih' qs]
      rfl
    | ok i =>
      obtain ⟨qs', hqs⟩ := Ctx.takeRows_queues { y with queues := qs } (queueReads i)
      have hrest : (s.slotFaults c t (Ctx.takeRows { y with queues := qs } (queueReads i)).2.1 es).filter
          (fun f => f.code == 0x01) = (es.filter illegalEntry).map fun e => y.illegalSlot t e.1 e.2.1 := by
        rw [hqs]
        exact ih' qs'
      simp only [State.slotFaults, List.filter_append, hrest, List.filter_cons, illegalEntry, Bool.false_eq_true, if_false]
      cases hl : lowest (s.issueConds c t slot { y with queues := qs } w i) with
      | none => rfl
      | some e =>
        have hne : e.1 ≠ 0x01 := hlegal slot w i List.mem_cons_self qs e (lowest_mem hl)
        simp [hne]

/-- Whether a slot of a bundle holds a word that is no instruction. -/
def Ctx.illegalAt (x : Ctx) (j : Nat) : Bool :=
  x.word j != 0 && illegalEntry (j, x.word j, decodeSlot (slotKindOf j) (x.word j))

theorem Ctx.illegalAt_iff (x : Ctx) (j : Nat) :
    x.illegalAt j = true ↔ x.word j ≠ 0 ∧ ∀ ins, decodeSlot (slotKindOf j) (x.word j) ≠ .ok ins := by
  simp only [Ctx.illegalAt, illegalEntry, Bool.and_eq_true, bne_iff_ne, ne_eq]
  cases decodeSlot (slotKindOf j) (x.word j) <;> simp

theorem Ctx.slots_eq (x : Ctx) : x.slots =
    ((List.range 8).filter fun j => x.word j != 0).map fun j => (j, x.word j, decodeSlot (slotKindOf j) (x.word j)) := by
  rw [Ctx.slots, ← List.filterMap_eq_map, List.filterMap_filter]
  refine List.filterMap_congr fun j _ => ?_
  by_cases h : x.word j = 0 <;> simp [h]

theorem Ctx.slots_illegal (x : Ctx) : x.slots.filter illegalEntry =
    ((List.range 8).filter x.illegalAt).map fun j => (j, x.word j, decodeSlot (slotKindOf j) (x.word j)) := by
  rw [x.slots_eq, List.filter_map, List.filter_filter]
  congr 1
  exact List.filter_congr fun j _ => Bool.and_comm _ _

/-- The illegal instructions of a bundle make one record, with the mask of them all. -/
theorem mergeIllegal_mem {fs rest : List FaultNow} {f : FaultNow} (h : fs.filter (fun f => f.code == 0x01) = f :: rest) :
    { f with detail := (f :: rest).foldl (fun m g => m ||| g.detail.headD 0) 0 :: f.detail.drop 1 } ∈ mergeIllegal fs := by
  simp only [mergeIllegal, h]
  exact List.mem_cons_self

/-- The bits of the mask of illegal slots. -/
theorem illegalMask_bit (y : Ctx) (t : Nat) (word : Nat → Nat) (slots : List Nat) (m : Word) {j : Nat} (hj : j < 32) :
    ((slots.map fun i => y.illegalSlot t i (word i)).foldl (fun m g => m ||| g.detail.headD 0) m).getLsbD j = true ↔
      m.getLsbD j = true ∨ j ∈ slots := by
  induction slots generalizing m with
  | nil => simp
  | cons i slots ih =>
    have hbit : (BitVec.ofNat 32 (2 ^ i)).getLsbD j = true ↔ j = i := by
      rw [BitVec.getLsbD_ofNat, Nat.testBit_two_pow]
      simp [hj, eq_comm]
    rw [List.map_cons, List.foldl_cons, ih, List.mem_cons, BitVec.getLsbD_or, Bool.or_eq_true, or_assoc]
    exact or_congr_right (or_congr_left hbit)

/-- The first slot of a bundle that is illegal, before the others. -/
theorem illegal_first {p : Nat → Bool} {k : Nat} (hk : k < 8) (hp : p k = true) (hfirst : ∀ j, j < k → p j = false) :
    ∃ rest, (List.range 8).filter p = k :: rest := by
  have hfind : (List.range 8).find? p = some k :=
    List.find?_range_eq_some.2 ⟨hp, List.mem_range.2 hk, fun j hj => by simp [hfirst j hj]⟩
  rw [← List.head?_filter] at hfind
  exact List.head?_eq_some_iff.1 hfind

/-- R28: one record on the lowest illegal slot, with the mask of the illegal slots and that slot's word. -/
theorem State.bundleFaults_illegal {s : State} {c t i k : Nat} (hn : (s.ctx c).seq.next = .bundle i) {y : Ctx}
    (hy : y = { s.ctx c with seq := (s.ctx c).seq.advance t }) (hk : k < 8) (hill : y.illegalAt k = true)
    (hfirst : ∀ j, j < k → y.illegalAt j = false)
    (hlegal : ∀ j, j < 8 → ∀ ins, decodeSlot (slotKindOf j) (y.word j) = .ok ins → ∀ qs,
      ∀ e ∈ s.issueConds c t j { y with queues := qs } (y.word j) ins, e.1 ≠ 0x01) :
    ∃ f ∈ s.bundleFaults c t, f.code = 0x01 ∧ f.rank = y.rank ∧ f.src = k ∧ f.issue = some t ∧
      ∃ m : Word, f.detail = [m, BitVec.ofNat 32 (y.word k)] ∧
        ∀ j, j < 32 → (m.getLsbD j = true ↔ j < 8 ∧ y.illegalAt j = true) := by
  obtain ⟨missing, hcode, hfaults⟩ := s.bundleFaults_inSequence (t := t) hn
  rw [← hy] at hfaults
  obtain ⟨rest, hrest⟩ := illegal_first hk hill hfirst
  have hmissing : missing.filter (fun f => f.code == 0x01) = [] := by
    refine List.filter_eq_nil_iff.2 fun f hf => ?_
    simp [hcode f hf]
  have hslots : ∀ slot w ins, (slot, w, .ok ins) ∈ y.slots → ∀ qs,
      ∀ e ∈ s.issueConds c t slot { y with queues := qs } w ins, e.1 ≠ 0x01 := by
    intro slot w ins hmem
    rw [y.slots_eq] at hmem
    obtain ⟨j, hj, he⟩ := List.mem_map.1 hmem
    simp only [Prod.mk.injEq] at he
    obtain ⟨rfl, rfl, hdec⟩ := he
    exact hlegal j (List.mem_range.1 (List.mem_filter.1 hj).1) ins hdec
  have hfilter : (s.slotFaults c t y y.slots ++ missing).filter (fun f => f.code == 0x01) =
      ((List.range 8).filter y.illegalAt).map fun j => y.illegalSlot t j (y.word j) := by
    rw [List.filter_append, hmissing, List.append_nil]
    refine (State.slotFaults_illegal y.slots hslots y.queues).trans ?_
    rw [y.slots_illegal, List.map_map]
    rfl
  rw [hfaults]
  refine ⟨_, mergeIllegal_mem (hfilter.trans (by rw [hrest]; rfl)), rfl, rfl, rfl, rfl, _, rfl, fun j hj => ?_⟩
  rw [← List.map_cons (f := fun j => y.illegalSlot t j (y.word j)), ← hrest, illegalMask_bit y t y.word _ _ hj]
  simp

/-! ### The steps of a core's bundle -/

/-- R48: an expanded segment is resident, and a starting core runs. -/
theorem State.segmentExpansion_expands (s : State) {c : Nat} (off : Nat) (half : Bool) (hc : c < 384) :
    s.Does .segmentExpansion (.segmentExpansion c half off) fun t => s.Alters t c fun x =>
      { x with life := if x.life = .starting then .running else x.life,
               seq := x.seq.setHalf half ((x.seq.half half).map fun h => { h with seg := some (s.segmentAt c off) }) } :=
  ⟨_, rfl, State.ctx_modCtx_self (s := s.doing _) hc _, fun _ hk => State.core_modCore_ne (s := s.doing _) hk _,
    (s.doing _).core_modCtx_spad c c _, rfl, rfl, rfl, rfl, rfl, rfl⟩

/-- R204: the end of a wait closes the solo region. -/
theorem State.twaitEnd_closes (s : State) {c : Nat} (hc : c < 384) :
    s.Does .twaitEnd (.twaitEnd c) fun t => s.Alters t c fun x => { x with solo := none } :=
  ⟨_, rfl, State.ctx_modCtx_self (s := s.doing _) hc _, fun _ hk => State.core_modCore_ne (s := s.doing _) hk _,
    (s.doing _).core_modCtx_spad c c _, rfl, rfl, rfl, rfl, rfl, rfl⟩

/-- Settles O37. -/
theorem bundlesAndExpansions : Obligations.BundlesAndExpansions := by
  refine ⟨fun s c q hc hq hj hf ha hn hr hm => State.bundleIssue_inSequence hq hj hf ha hr hm hc hn,
    fun s c q g hc hq hj hf ha hn hr hm hg => State.bundleIssue_enters hq hj hf ha hr hm hc hn hg, ?_,
    fun s c off half hc => s.segmentExpansion_expands off half hc, fun s c hc => s.twaitEnd_closes hc⟩
  intro s c q hc hq hmem hj ha hline T x y halts
  -- a fault among those of the bundle keeps it from issuing
  have halt {src code : Nat} {d : List Word → Prop} {f : FaultNow} (hf : f ∈ s.bundleFaults c T) (hcode : f.code = code)
      (hrank : f.rank = s.rankOf c) (hsrc : f.src = src) (hissue : f.issue = some T) (hd : d f.detail) : halts src code d := by
    obtain ⟨t, ht, hcores, hdram, hparts, r, hr, hin⟩ := State.bundleIssue_halts hq hmem hj hline hf
    exact ⟨t, ht, hcores, hdram, hparts, r, f, hr, hin, hcode, hrank, hsrc, hissue, hd⟩
  clear_value halts
  let y' : Ctx := { x with seq := y }
  have entry {code : Nat} {d : List Word} (hn : x.seq.next = .enter)
      (hf : y'.seqFault T code d ∈ y'.entryFaults T (s.segmentAt c y.segOff)) : halts 0 code (· = d) :=
    halt (State.entryFaults_sub hn hf) rfl rfl rfl rfl rfl
  refine ⟨fun hn hres => ⟨?_, ?_⟩, fun g h hn hres hhalf => ⟨fun hlt => ⟨?_, ?_⟩, ?_, ?_⟩, fun hn => ?_, ?_⟩
  · exact entry hn (y'.early_fault _ (by simp [Ctx.early, y', hres]))
  · exact fun hv => entry hn (Ctx.invalid_fault (by rw [show y'.seq.resident = none from hres]; exact hv))
  · exact entry hn (y'.early_fault _ (by simp [Ctx.early, y', hhalf, hlt]))
  · exact fun hv => entry hn (Ctx.invalid_fault (by rw [show y'.seq.resident = some g from hres]; exact hv))
  · exact fun _ hv => entry hn (Ctx.invalid_fault (by rw [show y'.seq.resident = some g from hres]; exact hv))
  · intro hle hv ht
    have hlist := Ctx.entryFaults_timed (y := y') (t := T) (stored := s.segmentAt c y.segOff) hres hv ht
      (by simp [Ctx.early, y', hres, hhalf, hle])
    refine ⟨fun hsolo => entry hn ?_, fun hsolo hstamp => entry hn ?_⟩
    · rw [hlist, if_pos (Option.isSome_iff_ne_none.2 hsolo)]
      exact List.mem_singleton_self _
    · rw [hlist, if_neg (by rw [show y'.solo = none from hsolo]; decide), if_pos hstamp]
      exact List.mem_singleton_self _
  · exact halt (by rw [State.bundleFaults_exhausted hn]; exact List.mem_singleton_self _) rfl rfl rfl rfl rfl
  · intro illegal legal i k hn hill hfirst hlegal
    have hword (j : Nat) : y'.word j = y.words.getD j 0 := List.getD_eq_getElem?_getD.symm
    have hiff (j : Nat) : illegal j ↔ j < 8 ∧ y'.illegalAt j = true := by
      rw [y'.illegalAt_iff, hword]
    obtain ⟨hk, hat⟩ := (hiff k).1 hill
    have hnot : ∀ j, j < k → y'.illegalAt j = false := fun j hj => by
      have := hfirst j hj
      rw [hiff] at this
      simpa [lt_trans hj hk] using this
    obtain ⟨f, hf, hcode, hrank, hsrc, hissue, m, hdetail, hmask⟩ :=
      State.bundleFaults_illegal (s := s) (c := c) hn rfl hk hat hnot
        (fun j hj ins hins => by rw [hword] at hins ⊢; exact hlegal j hj ins hins)
    refine halt hf hcode hrank hsrc hissue ⟨m, by rw [hdetail, hword], fun j hj => ?_⟩
    rw [hmask j hj, hiff]

end Sys2Proof.Machine
end

section
/-! Decoding and encoding undo each other (O59, O60). -/
namespace Sys2Proof

/-! ### The outcome of decoding (R28) -/

theorem decodeSlot_eq_ok {k : SlotKind} {w : Nat} {i : Instr} :
    decodeSlot k w = .ok i ↔ w = 0 ∧ i = .nop ∨ w ≠ 0 ∧ rowsOf k w = some i ∧ i.wf = true := by
  unfold decodeSlot
  by_cases hw : w = 0
  · simp [hw, eq_comm (a := i)]
  · cases hr : rowsOf k w with
    | none => simp [hw]
    | some j =>
      by_cases hj : j.wf = true
      · have hi : j = i → i.wf = true := fun h => h ▸ hj
        simpa [hw, hj] using hi
      · have hi : j = i → i.wf = false := fun h => h ▸ by simpa using hj
        simpa [hw, hj] using hi

theorem decodeSlot_zero (k : SlotKind) : decodeSlot k 0 = .ok .nop := decodeSlot_eq_ok.2 (.inl ⟨rfl, rfl⟩)

/-! ### From an instruction to its word and back (R29 to R42) -/

/-- An instruction `C f` decodes from a word whose fields are `f` and whose opcode stands for `C` in the map of its slot. -/
theorem decodes_of_row {F : Type} {ofWord : Nat → F} {C : F → Instr} {f : F} {k : SlotKind} {op v w : Nat}
    (h : (C f).wf = true) (hw : some v = some w) (hop : v / 2 ^ 24 = op) (hf : ofWord v = f) (ho : 0 < op ∧ op < 256)
    (hrow : ∀ w, w / 2 ^ 24 = op → ofWord w = f → rowsOf k w = some (C (ofWord w))) :
    w < 2 ^ 32 ∧ decodeSlot k w = .ok (C f) := by
  cases hw
  have hr := hrow v hop hf
  rw [hf] at hr
  exact ⟨by omega, decodeSlot_eq_ok.2 (.inr ⟨by omega, hr, h⟩)⟩

/-- The instructions are taken slot by slot, and in a slot by the format of their fields; those that share an opcode, by the
sub code that is the last of their fields. -/
theorem decodeSlot_encode {i : Instr} (h : i.wf = true) {w : Nat} (hw : encode i = some w) :
    w < 2 ^ 32 ∧ decodeSlot i.slotKind w = .ok i := by
  cases i with
  | nop => cases hw; exact ⟨by decide, decodeSlot_zero _⟩
  | add f | sub f | and f | or f | xor f | shl f | shr f | sar f | min f | max f | minu f | maxu f | clz f | popc f
  | sel f | mul f | mulh f | mulhu f | div f | divu f | rem f | remu f | gand f | gor f | gxor f | gtos f | stog f
  | twait f | tchk f =>
    have ok : f.ok = true := by simp only [Instr.wf, Bool.and_eq_true] at h; simp only [h]
    exact decodes_of_row h hw (SR.toWord_top ok _) (SR.ofWord_toWord ok _) (by decide) fun w hop _ => by
      show rowsS w = _; rw [rowsS, hop]; rfl
  | addi f | andi f | ori f | xori f | shli f | shri f | sari f | cmpiEq f | cmpiNe f | cmpiLt f | cmpiGe f | cmpiLtu f
  | cmpiGeu f =>
    have ok : f.ok = true := by simp only [Instr.wf, Bool.and_eq_true] at h; simp only [h]
    exact decodes_of_row h hw (SI.toWord_top ok _) (SI.ofWord_toWord ok _) (by decide) fun w hop _ => by
      show rowsS w = _; rw [rowsS, hop]; rfl
  | lui f =>
    exact decodes_of_row h hw (SU.toWord_top h _) (SU.ofWord_toWord h _) (by decide) fun w hop _ => by
      show rowsS w = _; rw [rowsS, hop]; rfl
  | cmpEq f | cmpNe f | cmpLt f | cmpGe f | cmpLtu f | cmpGeu f =>
    have ok : f.ok = true := by simp only [Instr.wf, Bool.and_eq_true] at h; simp only [h]
    exact decodes_of_row h hw (SR.toWord_top ok _) (SR.ofWord_toWord ok _) (by decide) fun w hop hf => by
      have hsub : w % 32 = _ := (congrArg SR.fn hf).trans (eq_of_beq (Bool.and_eq_true_iff.1 h).2)
      show rowsS w = _; rw [rowsS, hop, hsub]; rfl
  | br f | call f | ret f | segj f =>
    have ok : f.ok = true := by simp only [Instr.wf, Bool.and_eq_true] at h; simp only [h]
    exact decodes_of_row h hw (SB.toWord_top ok _) (SB.ofWord_toWord ok _) (by decide) fun w hop _ => by
      show rowsS w = _; rw [rowsS, hop]; rfl
  | loop f | loopi f =>
    have ok : f.ok = true := by simp only [Instr.wf, Bool.and_eq_true] at h; simp only [h]
    exact decodes_of_row h hw (SL.toWord_top ok _) (SL.ofWord_toWord ok _) (by decide) fun w hop _ => by
      show rowsS w = _; rw [rowsS, hop]; rfl
  | rdsr f | wrsr f | pgrd f | pgwr f | trap f | endI f | trd f | solo f | binit f | barr f | bchk f | spawn f | acqsW f
  | acqsR f | relsW f | relsR f | ckpt f | fsyn f =>
    have ok : f.ok = true := by simp only [Instr.wf, Bool.and_eq_true] at h; simp only [h]
    exact decodes_of_row h hw (SY.toWord_top ok _) (SY.ofWord_toWord ok _) (by decide) fun w hop _ => by
      show rowsS w = _; rw [rowsS, hop]; rfl
  | plil f | plih f | padd f | paddi f | pmov f =>
    have ok : f.ok = true := by simp only [Instr.wf, Bool.and_eq_true] at h; simp only [h]
    exact decodes_of_row h hw (LP.toWord_top ok _) (LP.ofWord_toWord ok _) (by decide) fun w hop _ => by
      show rowsLD w = _; rw [rowsLD, hop]; rfl
  | ldw f | ldr f | ldh f | ldv f | stw f | str f | sth f | stv f | ldq f | stnt f | drain f =>
    have ok : f.ok = true := by simp only [Instr.wf, Bool.and_eq_true] at h; simp only [h]
    exact decodes_of_row h hw (LM.toWord_top ok _) (LM.ofWord_toWord ok _) (by decide) fun w hop _ => by
      show rowsLD w = _; rw [rowsLD, hop]; rfl
  | ldt f | amoAdd f | amoMin f | amoMax f | amoSwap f | amoCas f =>
    exact decodes_of_row h hw (LA.toWord_top h _) (LA.ofWord_toWord h _) (by decide) fun w hop _ => by
      show rowsLD w = _; rw [rowsLD, hop]; rfl
  | ldg f | stg f | stg16 f =>
    have ok : f.ok = true := by simp only [Instr.wf, Bool.and_eq_true] at h; simp only [h]
    exact decodes_of_row h hw (LX.toWord_top ok _) (LX.ofWord_toWord ok _) (by decide) fun w hop _ => by
      show rowsLD w = _; rw [rowsLD, hop]; rfl
  | agset f | agadv f | lda f | sta f =>
    have ok : f.ok = true := by simp only [Instr.wf, Bool.and_eq_true] at h; simp only [h]
    exact decodes_of_row h hw (LG.toWord_top ok _) (LG.ofWord_toWord ok _) (by decide) fun w hop _ => by
      show rowsLD w = _; rw [rowsLD, hop]; rfl
  | fadd f | fsub f | fmul f | fmin f | fmax f | fabs f | fneg f | fcps f | fclass f | fsel f | iadd f | isub f | imul f
  | imulh f | imin f | imax f | iand f | ior f | ixor f | ishl f | ishr f | isar f | viota f | vperm f | vrsum f
  | vrmax f | vrmin f | vrsumg f | vstat f | cvtmx8 f | cvtmx4 f | unmx f | cb4dec f | cb4enc f | exp f | log f | rcp f
  | rsq f | tiel f | tiev f | vrng f | vrngk f | vrngc f | vskip f | mand f | mor f | mnot f | mpop f =>
    have ok : f.ok = true := by simp only [Instr.wf, Bool.and_eq_true] at h; simp only [h]
    exact decodes_of_row h hw (VR.toWord_top ok _) (VR.ofWord_toWord ok _) (by decide) fun w hop _ => by
      show rowsV w = _; rw [rowsV, hop]; rfl
  | fcmpEq f | fcmpNe f | fcmpLt f | fcmpLe f | fcmpUn f | icmpEq f | icmpNe f | icmpLt f | icmpGe f | icmpLtu f
  | icmpGeu f | cvtBf16F32 f | cvtF32Bf16 f | cvtE4m3F32 f | cvtF32E4m3 f | cvtE5m2F32 f | cvtF32E5m2 f | cvtI32F32 f
  | cvtF32I32 f =>
    have ok : f.ok = true := by simp only [Instr.wf, Bool.and_eq_true] at h; simp only [h]
    exact decodes_of_row h hw (VR.toWord_top ok _) (VR.ofWord_toWord ok _) (by decide) fun w hop hf => by
      have hsub : w % 8 = _ := (congrArg VR.sub hf).trans (eq_of_beq (Bool.and_eq_true_iff.1 h).2)
      show rowsV w = _; rw [rowsV, hop, hsub]; rfl
  | fma f | fms f | fnma f =>
    have ok : f.ok = true := by simp only [Instr.wf, Bool.and_eq_true] at h; simp only [h]
    exact decodes_of_row h hw (VF.toWord_top ok _) (VF.ofWord_toWord ok _) (by decide) fun w hop _ => by
      show rowsV w = _; rw [rowsV, hop]; rfl
  | iaddi f | iandi f | iori f | ixori f | ishli f | ishri f | isari f | vrot f | vbcastl f =>
    have ok : f.ok = true := by simp only [Instr.wf, Bool.and_eq_true] at h; simp only [h]
    exact decodes_of_row h hw (VI.toWord_top ok _) (VI.ofWord_toWord ok _) (by decide) fun w hop _ => by
      show rowsV w = _; rw [rowsV, hop]; rfl
  | vli f =>
    have ok : f.ok = true := by simp only [Instr.wf, Bool.and_eq_true] at h; simp only [h]
    exact decodes_of_row h hw (VU.toWord_top ok _) (VU.ofWord_toWord ok _) (by decide) fun w hop _ => by
      show rowsV w = _; rw [rowsV, hop]; rfl
  | cpy f | cpyl f | cbc f | cpm f | qpop f | qpeek f | qpush f | cpyp f =>
    have ok : f.ok = true := by simp only [Instr.wf, Bool.and_eq_true] at h; simp only [h]
    exact decodes_of_row h hw (XC.toWord_top ok _) (XC.ofWord_toWord ok _) (by decide) fun w hop _ => by
      show rowsX w = _; rw [rowsX, hop]; rfl
  | slatch f | sswap f | spush f | sshift f | vopa f | vzero f | vdrain f | svpair f | cbld f | chs f | chb f | chn f
  | chsv f | chld f =>
    have ok : f.ok = true := by simp only [Instr.wf, Bool.and_eq_true] at h; simp only [h]
    exact decodes_of_row h hw (MXF.toWord_top ok _) (MXF.ofWord_toWord ok _) (by decide) fun w hop _ => by
      show rowsMX w = _; rw [rowsMX, hop]; rfl
  | shp f | tagset f | xfer f | xferq f | xstore f | tlist f | xred f | xacc f | xmc f | mkcfg f | pptld f | vbmld f
  | nmc f | nmfence f | lsend f | lfwd f =>
    have ok : f.ok = true := by simp only [Instr.wf, Bool.and_eq_true] at h; simp only [h]
    exact decodes_of_row h hw (TEF.toWord_top ok _) (TEF.ofWord_toWord ok _) (by decide) fun w hop _ => by
      show rowsTE w = _; rw [rowsTE, hop]; rfl
  | _ => cases hw

/-! ### From a word to its instruction and back (R28) -/

theorem b2n_bit (w i : Nat) : b2n (bit w i) = w / 2 ^ i % 2 := by
  unfold b2n bit
  rcases Nat.mod_two_eq_zero_or_one (w / 2 ^ i) with h | h <;> simp [h]

theorem SR.toWord_ofWord {w op : Nat} (h : w / 2 ^ 24 = op) : (SR.ofWord w).toWord op = w := by
  simp only [SR.toWord, SR.ofWord, b2n_bit]
  omega

theorem SI.toWord_ofWord {w op : Nat} (h : w / 2 ^ 24 = op) : (SI.ofWord w).toWord op = w := by
  simp only [SI.toWord, SI.ofWord]
  omega

theorem SU.toWord_ofWord {w op : Nat} (h : w / 2 ^ 24 = op) : (SU.ofWord w).toWord op = w := by
  simp only [SU.toWord, SU.ofWord]
  omega

theorem SB.toWord_ofWord {w op : Nat} (h : w / 2 ^ 24 = op) : (SB.ofWord w).toWord op = w := by
  simp only [SB.toWord, SB.ofWord, b2n_bit]
  omega

theorem SL.toWord_ofWord {w op : Nat} (h : w / 2 ^ 24 = op) : (SL.ofWord w).toWord op = w := by
  simp only [SL.toWord, SL.ofWord]
  omega

theorem SY.toWord_ofWord {w op : Nat} (h : w / 2 ^ 24 = op) : (SY.ofWord w).toWord op = w := by
  simp only [SY.toWord, SY.ofWord]
  omega

theorem LM.toWord_ofWord {w op : Nat} (h : w / 2 ^ 24 = op) : (LM.ofWord w).toWord op = w := by
  simp only [LM.toWord, LM.ofWord, b2n_bit]
  omega

theorem LP.toWord_ofWord {w op : Nat} (h : w / 2 ^ 24 = op) : (LP.ofWord w).toWord op = w := by
  simp only [LP.toWord, LP.ofWord]
  omega

theorem LX.toWord_ofWord {w op : Nat} (h : w / 2 ^ 24 = op) : (LX.ofWord w).toWord op = w := by
  simp only [LX.toWord, LX.ofWord, b2n_bit]
  omega

theorem LA.toWord_ofWord {w op : Nat} (h : w / 2 ^ 24 = op) : (LA.ofWord w).toWord op = w := by
  simp only [LA.toWord, LA.ofWord, b2n_bit]
  omega

theorem LG.toWord_ofWord {w op : Nat} (h : w / 2 ^ 24 = op) : (LG.ofWord w).toWord op = w := by
  simp only [LG.toWord, LG.ofWord, b2n_bit]
  omega

theorem VR.toWord_ofWord {w op : Nat} (h : w / 2 ^ 24 = op) : (VR.ofWord w).toWord op = w := by
  simp only [VR.toWord, VR.ofWord]
  omega

theorem VF.toWord_ofWord {w op : Nat} (h : w / 2 ^ 24 = op) : (VF.ofWord w).toWord op = w := by
  simp only [VF.toWord, VF.ofWord]
  omega

theorem VI.toWord_ofWord {w op : Nat} (h : w / 2 ^ 24 = op) : (VI.ofWord w).toWord op = w := by
  simp only [VI.toWord, VI.ofWord]
  omega

theorem VU.toWord_ofWord {w op : Nat} (h : w / 2 ^ 24 = op) : (VU.ofWord w).toWord op = w := by
  simp only [VU.toWord, VU.ofWord]
  omega

theorem XC.toWord_ofWord {w op : Nat} (h : w / 2 ^ 24 = op) : (XC.ofWord w).toWord op = w := by
  simp only [XC.toWord, XC.ofWord]
  omega

theorem MXF.toWord_ofWord {w op : Nat} (h : w / 2 ^ 24 = op) : (MXF.ofWord w).toWord op = w := by
  simp only [MXF.toWord, MXF.ofWord, b2n_bit]
  omega

theorem TEF.toWord_ofWord {w op : Nat} (h : w / 2 ^ 24 = op) : (TEF.ofWord w).toWord op = w := by
  simp only [TEF.toWord, TEF.ofWord]
  omega

theorem encode_of_rowsS {w : Nat} {i : Instr} (h : rowsS w = some i) : encode i = some w := by
  unfold rowsS at h
  repeat' split at h
  all_goals cases h
  all_goals refine congrArg some ?_
  all_goals simp only [SR.toWord_ofWord, SI.toWord_ofWord, SU.toWord_ofWord, SB.toWord_ofWord, SL.toWord_ofWord,
    SY.toWord_ofWord, *]

theorem encode_of_rowsLD {w : Nat} {i : Instr} (h : rowsLD w = some i) : encode i = some w := by
  unfold rowsLD at h
  repeat' split at h
  all_goals cases h
  all_goals refine congrArg some ?_
  all_goals simp only [LP.toWord_ofWord, LM.toWord_ofWord, LA.toWord_ofWord, LX.toWord_ofWord, LG.toWord_ofWord, *]

theorem encode_of_rowsV {w : Nat} {i : Instr} (h : rowsV w = some i) : encode i = some w := by
  unfold rowsV at h
  repeat' split at h
  all_goals cases h
  all_goals refine congrArg some ?_
  all_goals simp only [VR.toWord_ofWord, VF.toWord_ofWord, VI.toWord_ofWord, VU.toWord_ofWord, *]

theorem encode_of_rowsMX {w : Nat} {i : Instr} (h : rowsMX w = some i) : encode i = some w := by
  unfold rowsMX at h
  repeat' split at h
  all_goals cases h
  all_goals refine congrArg some ?_
  all_goals simp only [MXF.toWord_ofWord, *]

theorem encode_of_rowsX {w : Nat} {i : Instr} (h : rowsX w = some i) : encode i = some w := by
  unfold rowsX at h
  repeat' split at h
  all_goals cases h
  all_goals refine congrArg some ?_
  all_goals simp only [XC.toWord_ofWord, *]

theorem encode_of_rowsTE {w : Nat} {i : Instr} (h : rowsTE w = some i) : encode i = some w := by
  unfold rowsTE at h
  repeat' split at h
  all_goals cases h
  all_goals refine congrArg some ?_
  all_goals simp only [TEF.toWord_ofWord, *]

/-- An instruction that a map holds at a word has that word, well formed or not. -/
theorem encode_of_rowsOf {k : SlotKind} {w : Nat} {i : Instr} (h : rowsOf k w = some i) : encode i = some w := by
  cases k with
  | s => exact encode_of_rowsS h
  | ld => exact encode_of_rowsLD h
  | v => exact encode_of_rowsV h
  | mx => exact encode_of_rowsMX h
  | x => exact encode_of_rowsX h
  | te => exact encode_of_rowsTE h

end Sys2Proof

namespace Sys2Proof.Laws

/-! ### The statements (O58, O59, O60) -/

/-- Settles O59: the fields and the opcode of the word are the instruction's. -/
theorem decodeEncode : Obligations.DecodeEncode := fun _ h _ hw => decodeSlot_encode h hw

/-- Settles O60: a word is its opcode and its fields. -/
theorem encodeDecode : Obligations.EncodeDecode := by
  intro k w i _ h
  rcases decodeSlot_eq_ok.1 h with ⟨rfl, rfl⟩ | ⟨-, hrow, hwf⟩
  · exact ⟨rfl, rfl⟩
  · exact ⟨hwf, encode_of_rowsOf hrow⟩

/-- Settles O58: the words are decoded as they stand. -/
theorem decodeWords : Obligations.DecodeWords :=
  ⟨rfl, rfl, rfl, rfl, rfl, rfl, rfl, rfl, rfl, rfl, decodeSlot_zero⟩

end Sys2Proof.Laws
end

section
/-! TRAP, TCHK, TWAIT and END (O7). -/
namespace Sys2Proof.Machine

/-! ### The conditions of TRAP, TCHK and TWAIT at their issue (R81, R200, R204) -/

/-- TRAP reads no register, so that no marked word concerns it. -/
theorem Ctx.regHits_trap (x : Ctx) (slot : Nat) (f : SY) (marks : List (Nat × Nat × Nat)) :
    x.regHits slot (.trap f) marks = [] := by
  have hreads : ∀ m u, regReads m u (.trap f) = [] := fun _ _ => rfl
  simp only [Ctx.regHits, hreads, List.any_nil, Bool.and_false, List.filter_false, ite_self]

theorem Ctx.regHits_nil (x : Ctx) (slot : Nat) (i : Instr) : x.regHits slot i [] = [] := by
  simp only [Ctx.regHits, List.filter_nil, ite_self]

/-- TRAP meets its own condition in every state; in slot MX a block that is open is a second one. -/
theorem State.issueConds_trap (s : State) (c t slot : Nat) (x : Ctx) (w : Nat) (f : SY) :
    s.issueConds c t slot x w (.trap f) = (if slot == 4 && x.mx.isOpen then
      [(0x14, [BitVec.ofNat 32 x.mx.blockCounter, BitVec.ofNat 32 x.mx.openBeats, BitVec.ofNat 32 w])] else []) ++
      [(0x02, [BitVec.ofNat 32 f.sel])] := by
  have hill : ctxIllegal x (.trap f) = false := rfl
  have hsolo : soloForbids x (.trap f) = false := rfl
  have hqueue : queueReads (.trap f) = [] := rfl
  have hbeat : isBeat (.trap f) = false := rfl
  have hmx : x.mxReads (.trap f) = fun _ => false := rfl
  simp only [State.issueConds, hill, hsolo, hqueue, hbeat, hmx, Ctx.regHits_trap, Ctx.takeRows, List.find?_nil,
    List.zip_nil_left, Bool.and_false, Bool.not_false, Bool.and_true,
    List.filter_false, List.append_nil, List.nil_append, List.isEmpty_nil, Bool.not_true, Bool.false_eq_true, if_false]

/-- A late TCHK, where no register word is marked, meets that condition alone; it does not stand in slot MX. -/
theorem State.issueConds_tchk_late {s : State} {c slot t T : Nat} {x : Ctx} {f : SR} (hbad : (s.core c).regBad = [])
    (hslot : (slot == 4) = false) (hg : x.guard f.g f.neg = true) (hT : x.bound f = T) (hlate : T < t) (w : Nat) :
    s.issueConds c t slot x w (.tchk f) = [(0x11, [lo32 T, hi32 T, lo32 t])] := by
  have hill : ctxIllegal x (.tchk f) = false := rfl
  have hsolo : soloForbids x (.tchk f) = false := rfl
  have hqueue : queueReads (.tchk f) = [] := rfl
  have hmx : x.mxReads (.tchk f) = fun _ => false := rfl
  have hguard : x.enabled (.tchk f) = true := hg
  have hhits : x.regHits slot (.tchk f) (s.core c).regBad = [] := by rw [hbad, Ctx.regHits_nil]
  simp only [State.issueConds, hill, hsolo, hqueue, hmx, hguard, hslot, hhits, hT, decide_eq_true hlate, Ctx.takeRows,
    List.find?_nil, List.zip_nil_left, Bool.and_false, Bool.false_and, Bool.and_true, if_true,
    List.filter_false, List.append_nil, List.nil_append, List.isEmpty_nil, Bool.not_true, Bool.false_eq_true, if_false]

/-- A TCHK that meets no condition and is not squashed is in time. -/
theorem State.Clear.tchk_bound {s : State} {f : SR} (h : s.Clear (.tchk f)) (hg : s.myCtx.guard f.g f.neg = true) :
    s.t ≤ s.myCtx.bound f := by
  have hguard : s.myCtx.enabled (.tchk f) = true := hg
  unfold State.Clear State.issueConds at h
  obtain ⟨-, hlate⟩ := List.append_eq_nil_iff.1 h
  simpa [hguard] using hlate

/-- A TWAIT that meets no condition and is not squashed has its bound ahead. -/
theorem State.Clear.twait_bound {s : State} {f : SR} (h : s.Clear (.twait f)) (hg : s.myCtx.guard f.g f.neg = true) :
    s.t < s.myCtx.bound f := by
  have hguard : s.myCtx.enabled (.twait f) = true := hg
  unfold State.Clear State.issueConds at h
  obtain ⟨-, hown⟩ := List.append_eq_nil_iff.1 h
  obtain ⟨hslip, -⟩ := List.append_eq_nil_iff.1 hown
  simpa [hguard] using hslip

/-! ### What NOP, TRAP and TCHK leave (R28, R81, R200) -/

theorem State.exec_trap (s : State) (f : SY) : exec (.trap f) s = .next (s.raise 0x02 [BitVec.ofNat 32 f.sel]) := by
  show Host.Outcome.next (s.issue (.trap f) id) = _
  unfold State.issue
  rw [State.issueConds_trap]
  cases s.cur.slot == 4 && s.myCtx.mx.isOpen <;> rfl

theorem State.exec_tchk (s : State) (f : SR) :
    exec (.tchk f) s = .next ((if s.myCtx.guard f.g f.neg then s.signOfLife else s).issue (.tchk f) id) := rfl

theorem State.exec_tchk_clear {s : State} {f : SR} (h : s.Clear (.tchk f)) :
    exec (.tchk f) s = .next (if s.myCtx.guard f.g f.neg then s.signOfLife else s) := by
  have hsign : s.signOfLife.Clear (.tchk f) := h
  rw [State.exec_tchk]
  split
  · rw [State.issue_clear hsign]; rfl
  · rw [State.issue_clear h]; rfl

/-- R200: a TCHK that is late takes its fault. -/
theorem State.issue_tchk_late {s : State} {f : SR} (hbad : (s.core s.me).regBad = []) (hslot : s.cur.slot = 0)
    (hg : s.myCtx.guard f.g f.neg = true) (hlate : s.myCtx.bound f < s.t) (effect : State → State) :
    s.issue (.tchk f) effect =
      s.raise 0x11 [lo32 (s.myCtx.bound f), hi32 (s.myCtx.bound f), lo32 s.t] := by
  have hslot' : (s.cur.slot == 4) = false := by rw [hslot]; rfl
  unfold State.issue
  rw [State.issueConds_tchk_late hbad hslot' hg rfl hlate]
  rfl

/-! ### TWAIT (R204) -/

/-- What dropping a core's issue leaves pending. -/
theorem State.mem_dropIssue {s : State} {c : Nat} {x : Timed} :
    x ∈ (s.dropIssue c).due ↔ x ∈ s.due ∧ x.what ≠ .bundleIssue c := by
  simp only [State.dropIssue, List.mem_filter, and_congr_right_iff]
  intro _
  cases x.what <;> simp

/-- The machine in which a core waits for T. -/
def State.waitUntil (s : State) (T : Nat) : State :=
  (((s.dropIssue s.me).modSeq fun q => { q with nextAt := T }).issueAt s.me T).sched T [12, s.me] (.twaitEnd s.me)

theorem State.exec_twait_clear {s : State} {f : SR} (h : s.Clear (.twait f)) :
    exec (.twait f) s = .next (if s.myCtx.guard f.g f.neg then s.waitUntil (s.myCtx.bound f) else s) :=
  congrArg _ (State.issue_clear h _)

/-- A change of the present core's sequencer keeps what a context says apart from it. -/
theorem State.ctx_modSeq_field {α : Type} {s : State} (p : Ctx → α) (hp : ∀ x q, p { x with seq := q } = p x)
    (f : Seq → Seq) (k : Nat) : p ((s.modSeq f).ctx k) = p (s.ctx k) :=
  State.ctx_modCtx_field p (fun x => hp x (f x.seq)) k

/-- What a core that waits leaves pending: its next bundle and the close of its solo region at T, and the rest. -/
theorem State.waitUntil_due (s : State) (T : Nat) : (s.waitUntil T).due = (s.dropIssue s.me).due ++
    [{ clock := some (s.partOf s.me), due := T, key := [80, s.rankOf s.me],
       who := { core := s.me, issue := T, src := 0, bundle := 0xFFFFFFFF }, what := .bundleIssue s.me },
     s.pend T [12, s.me] (.twaitEnd s.me)] := by
  have hp (f : Seq → Seq) : (((s.dropIssue s.me).modSeq f).ctx s.me).part = (s.ctx s.me).part :=
    State.ctx_modSeq_field (s := s.dropIssue s.me) Ctx.part (fun x q => by simp only [Ctx.part]) f s.me
  have hr (f : Seq → Seq) : (((s.dropIssue s.me).modSeq f).ctx s.me).rank = (s.ctx s.me).rank :=
    State.ctx_modSeq_field (s := s.dropIssue s.me) Ctx.rank (fun x q => by simp only [Ctx.rank]) f s.me
  let u : State := (s.dropIssue s.me).modSeq fun q => { q with nextAt := T }
  have hu : (s.waitUntil T).due = u.due ++
      [{ clock := some (u.ctx s.me).part, due := T, key := [80, (u.ctx s.me).rank],
         who := { core := s.me, issue := T, src := 0, bundle := 0xFFFFFFFF }, what := .bundleIssue s.me }] ++
      [{ clock := some (u.ctx s.me).part, due := T, key := [12, s.me], who := s.cur.who, what := .twaitEnd s.me }] := rfl
  rw [hu, hp, hr, List.append_assoc]
  rfl

/-- R204: no bundle of the core issues before T, at which its solo region closes; nothing else changes. -/
theorem State.waitUntil_holds (s : State) (T : Nat) : let t := s.waitUntil T
    (∀ x ∈ t.due, x.what = .bundleIssue s.me → x.due = T) ∧
    (∃ x ∈ t.due, x.what = .bundleIssue s.me ∧ x.clock = some (s.partOf s.me)) ∧
    (∃ x ∈ t.due, x.what = .twaitEnd s.me ∧ x.due = T) ∧
    (∀ x ∈ s.due, x.what ≠ .bundleIssue s.me → x ∈ t.due) ∧
    t.cores = (s.modSeq fun q => { q with nextAt := T }).cores ∧ t.parts = s.parts := by
  intro t
  have hdue : t.due = _ := s.waitUntil_due T
  refine ⟨fun x hx hw => ?_, ?_, ?_, fun x hx hw => ?_, rfl, rfl⟩
  · rw [hdue] at hx
    rcases List.mem_append.1 hx with hold | hnew
    · exact absurd hw (State.mem_dropIssue.1 hold).2
    · rcases List.mem_pair.1 hnew with rfl | rfl <;> rfl
  · exact ⟨_, by rw [hdue]; exact List.mem_append_right _ List.mem_cons_self, rfl, rfl⟩
  · exact ⟨_, by rw [hdue]; exact List.mem_append_right _ (List.mem_cons_of_mem _ List.mem_cons_self), rfl, rfl⟩
  · rw [hdue]
    exact List.mem_append_left _ (State.mem_dropIssue.2 ⟨hx, hw⟩)

/-! ### END (R82, R201) -/

/-- A drain adds its completion to what is pending, or nothing. -/
theorem State.drainNow_due (s : State) : ∃ ws : List Timed, s.drainNow.due = s.due ++ ws ∧
    ∀ x ∈ ws, x.what = .drainCompletion s.me (s.t + 2048) := by
  unfold State.drainNow
  split
  · exact ⟨_, rfl, by simp⟩
  · exact ⟨[], by simp, by simp⟩

/-- A drain marks STNTs of the present core: it touches no memory, and no other core. -/
theorem State.drainNow_keepsMemory (s : State) : s.KeepsMemory s.drainNow := by
  unfold State.drainNow
  split
  · refine ⟨rfl, rfl, rfl, fun k => ?_⟩
    simp only [State.core, State.sched_cores]
    refine State.core_modCore_field (s := s) (c := s.me) Core.spad ?_ k
    exact fun _ => rfl
  · exact .refl s

theorem State.drainNow_core_ne {s : State} {c : Nat} (h : c ≠ s.me) : s.drainNow.core c = s.core c := by
  unfold State.drainNow
  split
  · simp only [State.core, State.sched_cores]
    exact State.core_modCore_ne (s := s) h _
  · rfl

/-- The machine in which the present core has ended and its uncovered STNTs are covered. -/
def State.endCore (s : State) : State := ((s.dropIssue s.me).modCtx s.me Ctx.endNow).drainNow

/-- The machine that END leaves. -/
def State.endNow (s : State) : State :=
  (s.endCore.signOfLife.sched s.t [12, s.me] (.twaitEnd s.me)).sched s.t [99] (.launchRetirement (s.partOf s.me))

theorem State.exec_endI_clear {s : State} {f : SY} (h : s.Clear (.endI f)) : exec (.endI f) s = .next s.endNow := by
  have he : execEndI f s = .next (s.issue (.endI f) State.endNow) := rfl
  exact he.trans (congrArg _ (State.issue_clear h _))

/-- Beside its two steps and the sign of life, END leaves the machine in which its core has ended. -/
theorem State.endNow_frame (s : State) :
    s.endNow.cores = s.endCore.cores ∧ s.endNow.dram = s.endCore.dram ∧ s.endNow.dies = s.endCore.dies := by
  simp [State.endNow]
theorem State.endNow_due (s : State) : ∃ p q : Timed, s.endNow.due = s.endCore.due ++ [p] ++ [q] ∧
    p.what = .twaitEnd s.me ∧ p.due = s.t ∧ q.what = .launchRetirement (s.partOf s.me) ∧ q.due = s.t :=
  ⟨_, _, rfl, rfl, rfl, rfl, rfl⟩

theorem State.endCore_ctx {s : State} (h : s.me < 384) : s.endCore.ctx s.me = s.myCtx.endNow := by
  rw [State.endCore, State.drainNow_ctx]
  exact State.ctx_modCtx_self (s := s.dropIssue s.me) h Ctx.endNow

theorem State.endCore_core_ne {s : State} {c : Nat} (h : c ≠ s.me) : s.endCore.core c = s.core c :=
  (State.drainNow_core_ne (s := (s.dropIssue s.me).modCtx s.me Ctx.endNow) h).trans
    (State.core_modCore_ne (s := s.dropIssue s.me) h _)

theorem State.endCore_keepsMemory (s : State) : s.KeepsMemory s.endCore :=
  have hdrop : s.KeepsMemory (s.dropIssue s.me) := .of_cores rfl rfl rfl rfl
  (hdrop.trans (State.modCtx_keepsMemory ..)).trans (State.drainNow_keepsMemory _)

/-- What is pending when a core has ended: no bundle of it, and all else that was. -/
theorem State.endCore_due (s : State) : (∀ x ∈ s.endCore.due, x.what ≠ .bundleIssue s.me) ∧
    ∀ x ∈ s.due, x.what ≠ .bundleIssue s.me → x ∈ s.endCore.due := by
  obtain ⟨ws, hdue, hws⟩ := ((s.dropIssue s.me).modCtx s.me Ctx.endNow).drainNow_due
  have hdue : s.endCore.due = (s.dropIssue s.me).due ++ ws := hdue
  rw [hdue]
  refine ⟨fun x hx => ?_, fun x hx hw => List.mem_append_left _ (State.mem_dropIssue.2 ⟨hx, hw⟩)⟩
  rcases List.mem_append.1 hx with hold | hnew
  · exact (State.mem_dropIssue.1 hold).2
  · rw [hws x hnew]
    exact Work.noConfusion

/-- R82, R201: END leaves its core ended, its solo region to be closed and the retirement to be judged. -/
theorem State.endI_answers {s : State} {f : SY} (hme : s.me < 384) (h : s.Clear (.endI f)) : s.Answers (.endI f) fun t =>
    t.ctx s.me = s.myCtx.endNow ∧
    (∀ x ∈ t.due, x.what ≠ .bundleIssue s.me) ∧ (∀ x ∈ s.due, x.what ≠ .bundleIssue s.me → x ∈ t.due) ∧
    (∃ x ∈ t.due, x.what = .twaitEnd s.me ∧ x.due = s.t) ∧
    (∃ x ∈ t.due, x.what = .launchRetirement (s.partOf s.me) ∧ x.due = s.t) ∧
    (t.core s.me).spad = (s.core s.me).spad ∧ (∀ c, c ≠ s.me → t.core c = s.core c) ∧ t.dram = s.dram ∧ t.dies = s.dies := by
  obtain ⟨-, hdram, hdies, hspad⟩ := s.endCore_keepsMemory
  obtain ⟨hnone, hkept⟩ := s.endCore_due
  obtain ⟨p, q, hdue, hp, hpt, hq, hqt⟩ := s.endNow_due
  obtain ⟨hcores, hdram', hdies'⟩ := s.endNow_frame
  have hcore (c : Nat) : s.endNow.core c = s.endCore.core c := by rw [State.core, hcores, State.core]
  refine ⟨s.endNow, State.exec_endI_clear h, ?_, fun x hx => ?_, fun x hx hw => ?_, ⟨p, ?_, hp, hpt⟩,
    ⟨q, ?_, hq, hqt⟩, by rw [hcore, hspad], fun c hc => by rw [hcore, State.endCore_core_ne hc], hdram'.trans hdram,
    hdies'.trans hdies⟩
  · rw [State.ctx, hcore]
    exact State.endCore_ctx hme
  · rw [hdue, List.append_assoc] at hx
    rcases List.mem_append.1 hx with hold | hnew
    · exact hnone x hold
    · rcases List.mem_pair.1 hnew with rfl | rfl <;> simp [hp, hq]
  · rw [hdue]
    exact List.mem_append_left _ (List.mem_append_left _ (hkept x hx hw))
  · rw [hdue]
    exact List.mem_append_left _ (List.mem_append_right _ (List.mem_singleton.2 rfl))
  · rw [hdue]
    exact List.mem_append_right _ (List.mem_singleton.2 rfl)

/-! ### The statement (O7) -/

/-- Settles O7: NOP and TRAP by their conditions at issue, TCHK, TWAIT and END by what each leaves when it meets none. -/
theorem stopsWaitsAndEnd : Obligations.StopsWaitsAndEnd := by
  refine ⟨⟨fun _ => rfl, State.exec_trap, fun s f => ⟨fun h => ?_, fun hbad hg hlate hslot => ?_, fun h => ?_⟩⟩,
    fun s f hme h => State.endI_answers hme h⟩
  · refine ⟨_, State.exec_tchk_clear h, fun hg => ?_, fun hg => ?_⟩ <;> rw [State.takes_iff] at hg
    · exact ⟨h.tchk_bound hg, if_pos hg⟩
    · exact if_neg hg
  · rw [State.takes_iff] at hg
    rw [State.exec_tchk, if_pos hg]
    exact congrArg _ (State.issue_tchk_late (s := s.signOfLife) hbad hslot hg hlate id)
  · refine ⟨_, State.exec_twait_clear h, fun hg => ?_, fun hg => ?_⟩ <;> rw [State.takes_iff] at hg
    · rw [if_pos hg]
      exact ⟨h.twait_bound hg, s.waitUntil_holds _⟩
    · exact if_neg hg

end Sys2Proof.Machine
end

section
/-! Integer arithmetic and logic, multiplication and division (O1, O2). -/
namespace Sys2Proof.Machine

/-! ### Words as numbers (R62) -/

theorem popCount_eq_countP (n v : Nat) : popCount n v = (List.range n).countP fun i => v.testBit i := by
  induction n generalizing v with
  | zero => rfl
  | succ n ih =>
    have hshift : (fun i => v.testBit i) ∘ Nat.succ = fun i => (v / 2).testBit i :=
      funext fun i => Nat.testBit_succ v i
    have hlow : (if v.testBit 0 = true then 1 else 0) = v % 2 := by
      rw [Nat.testBit_zero]
      rcases Nat.mod_two_eq_zero_or_one v with h | h <;> simp [h]
    rw [popCount, ih, List.range_succ_eq_map, List.countP_cons, List.countP_map, hshift, hlow, Nat.add_comm]

/-- POPC counts the bits that are set (R62). -/
theorem popCount_word (a : Word) :
    (BitVec.ofNat 32 (popCount 32 a.toNat)).toNat = (List.range 32).countP fun i => a.getLsbD i := by
  have hle : (List.range 32).countP (fun i => a.toNat.testBit i) ≤ (List.range 32).length := List.countP_le_length
  rw [List.length_range] at hle
  rw [BitVec.toNat_ofNat, popCount_eq_countP, Nat.mod_eq_of_lt (by omega)]
  rfl

/-- CLZ of a word that is not 0 counts the bits above the highest that is set (R62). -/
theorem clz_toNat {a : Word} (h : a ≠ 0) : (clz a).toNat = 31 - Nat.log2 a.toNat := by
  rw [clz, if_neg h, BitVec.toNat_ofNat, Nat.mod_eq_of_lt (by omega)]

/-- The bits of a word above its highest are the leading zeros that CLZ counts (R62). -/
theorem clz_leading (a : Word) : (clz a).toNat ≤ 32 ∧ (∀ i, 32 - (clz a).toNat ≤ i → a.getLsbD i = false) ∧
    ((clz a).toNat < 32 → a.getLsbD (31 - (clz a).toNat) = true) := by
  by_cases h : a = 0
  · subst h
    exact ⟨le_rfl, fun i _ => BitVec.getLsbD_zero, fun hlt => absurd hlt (lt_irrefl 32)⟩
  · have hne : a.toNat ≠ 0 := fun he => h (BitVec.eq_of_toNat_eq he)
    have htop : Nat.log2 a.toNat < 32 := (Nat.log2_lt hne).2 a.isLt
    rw [clz_toNat h]
    refine ⟨by omega, fun i hi => ?_, fun _ => ?_⟩
    · exact Nat.testBit_lt_two_pow (Nat.lt_log2_self.trans_le (Nat.pow_le_pow_right two_pos (by omega)))
    · rw [show 31 - (31 - Nat.log2 a.toNat) = Nat.log2 a.toNat by omega]
      exact Nat.testBit_log2 hne

theorem shl_toNat (a : Word) (n : Nat) : (a <<< n).toNat = a.toNat * 2 ^ n % 2 ^ 32 := by
  rw [BitVec.toNat_shiftLeft, Nat.shiftLeft_eq]

theorem shr_toNat (a : Word) (n : Nat) : (a >>> n).toNat = a.toNat / 2 ^ n := by
  rw [BitVec.toNat_ushiftRight, Nat.shiftRight_eq_div_pow]

/-- An arithmetic shift to the right divides, downwards (R62). -/
theorem sar_toInt (a : Word) (n : Nat) : (a.sshiftRight n).toInt = a.toInt / 2 ^ n := by
  rw [BitVec.toInt_sshiftRight, Int.shiftRight_eq_div_pow]
  norm_cast

theorem sub_toNat (a b : Word) : (a - b).toNat = (a.toNat + (2 ^ 32 - b.toNat)) % 2 ^ 32 := by
  rw [BitVec.toNat_sub, Nat.add_comm]

/-! ### Products and quotients (R64) -/

/-- The upper word of a signed product (R64). -/
theorem mulhWord_toInt (a b : Word) : (mulhWord a b).toInt = a.toInt * b.toInt / 2 ^ 32 := by
  have ha : |a.toInt| ≤ 2 ^ 31 := abs_le.2 ⟨BitVec.le_toInt a, BitVec.toInt_lt.le⟩
  have hb : |b.toInt| ≤ 2 ^ 31 := abs_le.2 ⟨BitVec.le_toInt b, BitVec.toInt_lt.le⟩
  have hab : |a.toInt * b.toInt| ≤ 2 ^ 31 * 2 ^ 31 := by
    rw [abs_mul]
    exact mul_le_mul ha hb (abs_nonneg _) (by norm_num)
  obtain ⟨hl, hh⟩ := abs_le.1 hab
  rw [mulhWord, BitVec.toInt_ofInt]
  exact Int.bmod_eq_of_le (by omega) (by omega)

/-- The upper word of an unsigned product (R64). -/
theorem mulhu_toNat (a b : Word) :
    (BitVec.ofNat 32 (a.toNat * b.toNat / 2 ^ 32)).toNat = a.toNat * b.toNat / 2 ^ 32 := by
  have hlt : a.toNat * b.toNat < 2 ^ 32 * 2 ^ 32 := Nat.mul_lt_mul'' a.isLt b.isLt
  rw [BitVec.toNat_ofNat, Nat.mod_eq_of_lt (Nat.div_lt_of_lt_mul hlt)]

/-- The results of DIV, with those for a zero divisor and for overflow (R64). -/
theorem divWord_results (a b : Word) :
    if b = 0 then divWord a b = 0xFFFFFFFF
    else if a = 0x80000000 ∧ b = 0xFFFFFFFF then divWord a b = 0x80000000
    else (divWord a b).toInt = a.toInt.tdiv b.toInt := by
  split_ifs with hb hov
  · rw [divWord, if_pos hb]
  · obtain ⟨rfl, rfl⟩ := hov
    rfl
  · have hsdiv : divWord a b = a.sdiv b := by
      rw [divWord, if_neg hb]
      exact BitVec.eq_of_toInt_eq (by rw [BitVec.toInt_ofInt, BitVec.toInt_sdiv])
    rw [hsdiv]
    exact BitVec.toInt_sdiv_of_ne_or_ne a b (not_and_or.1 hov)

/-- The results of REM, with those for a zero divisor and for overflow (R64). -/
theorem remWord_results (a b : Word) :
    if b = 0 then remWord a b = a
    else if a = 0x80000000 ∧ b = 0xFFFFFFFF then remWord a b = 0
    else (remWord a b).toInt = a.toInt - b.toInt * a.toInt.tdiv b.toInt := by
  split_ifs with hb hov
  · rw [remWord, if_pos hb]
  · obtain ⟨rfl, rfl⟩ := hov
    rfl
  · rw [remWord, if_neg hb, ← BitVec.toInt_srem, BitVec.ofInt_toInt, BitVec.toInt_srem, Int.tmod_def]

theorem divuWord_results (a b : Word) :
    if b = 0 then divuWord a b = 0xFFFFFFFF else (divuWord a b).toNat = a.toNat / b.toNat := by
  split_ifs with hb
  · rw [divuWord, if_pos hb]
  · rw [divuWord, if_neg hb, BitVec.toNat_ofNat, Nat.mod_eq_of_lt ((Nat.div_le_self ..).trans_lt a.isLt)]

theorem remuWord_results (a b : Word) :
    if b = 0 then remuWord a b = a else (remuWord a b).toNat = a.toNat - b.toNat * (a.toNat / b.toNat) := by
  split_ifs with hb
  · rw [remuWord, if_pos hb]
  · rw [remuWord, if_neg hb, BitVec.toNat_ofNat, Nat.mod_eq_of_lt ((Nat.mod_le ..).trans_lt a.isLt)]
    exact (Nat.sub_eq_of_eq_add' (Nat.div_add_mod ..).symm).symm

/-! ### Formats whose function field is reserved (R62, R64) -/

/-- What is said of the pairs of a list, said of their parts. -/
theorem forall_pairs {α β : Type} {l : List (α × β)} {P : α → β → Prop} (h : ∀ x ∈ l, P x.1 x.2) (a : α) (b : β)
    (hm : (a, b) ∈ l) : P a b := h _ hm

theorem fn_zero {f : SR} (h : (f.ok && f.fn == 0) = true) : f.fn = 0 := by
  rw [Bool.and_eq_true, beq_iff_eq] at h
  exact h.2

theorem fn_sb_zero {f : SR} (h : (f.ok && f.fn == 0 && f.sb == 0) = true) : f.fn = 0 ∧ f.sb = 0 := by
  rw [Bool.and_eq_true, beq_iff_eq] at h
  exact ⟨fn_zero h.1, h.2⟩

/-! ### The statements (O1, O2) -/

/-- Settles O1: each instruction is an `alu` at t+1 whose operation is the exact one. -/
theorem integerArithmeticAndLogic : Obligations.IntegerArithmeticAndLogic := by
  intro s f
  refine ⟨State.alu_result rfl (BitVec.toNat_add ..), State.alu_result rfl (sub_toNat ..),
    State.alu_result rfl fun _ => BitVec.getLsbD_and, State.alu_result rfl fun _ => BitVec.getLsbD_or,
    State.alu_result rfl fun _ => BitVec.getLsbD_xor, State.alu_result rfl (shl_toNat ..),
    State.alu_result rfl (shr_toNat ..), State.alu_result rfl (sar_toInt ..),
    State.alu_result rfl ?_, State.alu_result rfl ?_, State.alu_result rfl ?_, State.alu_result rfl ?_,
    State.alu_result rfl (clz_leading _), State.alu_result rfl (popCount_word _), ?_,
    fun h => (fn_sb_zero h).2, fun h => (fn_sb_zero h).2⟩
  · simp only [BitVec.sle_iff_toInt_le]
  · simp only [BitVec.sle_iff_toInt_le, ge_iff_le]
  · simp only [BitVec.ule_iff_toNat_le]
  · simp only [BitVec.ule_iff_toNat_le, ge_iff_le]
  · refine forall_pairs ?_
    simp only [List.forall_mem_cons]
    exact ⟨⟨rfl, fn_zero⟩, ⟨rfl, fn_zero⟩, ⟨rfl, fn_zero⟩, ⟨rfl, fn_zero⟩, ⟨rfl, fn_zero⟩, ⟨rfl, fn_zero⟩, ⟨rfl, fn_zero⟩,
      ⟨rfl, fn_zero⟩, ⟨rfl, fn_zero⟩, ⟨rfl, fn_zero⟩, ⟨rfl, fn_zero⟩, ⟨rfl, fn_zero⟩, ⟨rfl, fun h => (fn_sb_zero h).1⟩,
      ⟨rfl, fun h => (fn_sb_zero h).1⟩, List.forall_mem_nil _⟩

/-- Settles O2: each instruction is an `alu` at t+3 or t+12 whose operation is the exact one. -/
theorem multiplyAndDivide : Obligations.MultiplyAndDivide := by
  intro s f
  refine ⟨State.alu_result rfl (BitVec.toNat_mul ..), State.alu_result rfl (mulhWord_toInt ..),
    State.alu_result rfl (mulhu_toNat ..), State.alu_result rfl (divWord_results ..),
    State.alu_result rfl (divuWord_results ..), State.alu_result rfl (remWord_results ..),
    State.alu_result rfl (remuWord_results ..), ?_⟩
  refine forall_pairs ?_
  simp only [List.forall_mem_cons]
  exact ⟨⟨rfl, fn_zero⟩, ⟨rfl, fn_zero⟩, ⟨rfl, fn_zero⟩, ⟨rfl, fn_zero⟩, ⟨rfl, fn_zero⟩, ⟨rfl, fn_zero⟩, ⟨rfl, fn_zero⟩,
    List.forall_mem_nil _⟩

end Sys2Proof.Machine
end

section
/-! Immediates, selection, compares and guards (O3, O4). -/
namespace Sys2Proof.Machine

/-! ### What a guard lets through (R11) -/

/-- An instruction has its effect when its guard lets it act, and the other outcome when it is squashed. -/
theorem State.takes_ite {s u v : State} {g : Nat} {neg : Bool} {P Q : State → Prop} (hu : P u) (hv : Q v) :
    (s.Takes g neg → P (if s.myCtx.guard g neg then u else v)) ∧
    (¬ s.Takes g neg → Q (if s.myCtx.guard g neg then u else v)) := by
  rw [State.takes_iff]
  exact ⟨fun h => by rwa [if_pos h], fun h => by rwa [if_neg h]⟩

/-- A guarded instruction that writes a guard (R61). -/
theorem State.guard_result {s : State} {i : Instr} {f : SR} {b : Bool}
    (he : exec i s = .next (if s.myCtx.guard f.g f.neg then s.writeG f.sd b else s)) : s.GuardResult i f b :=
  ⟨_, he, State.takes_ite (P := fun t => s.Writes t [(1, guardWrite f.sd b)]) (Q := (· = s)) (s.writes_write ..) rfl⟩

/-- A guarded instruction that writes a word (R61). -/
theorem State.scalar_result {s : State} {i : Instr} {f : SR} {lat : Nat} {w : Word} {P : Word → Word → Word → Prop}
    (he : exec i s = .next (if s.myCtx.guard f.g f.neg then s.write lat (.s f.sd w) else s))
    (hP : P (s.myCtx.rs f.sa) (s.myCtx.rs f.sb) w) : s.ScalarResult i f lat P :=
  ⟨_, he, State.takes_ite (P := fun t => ∃ w, P (s.myCtx.rs f.sa) (s.myCtx.rs f.sb) w ∧ s.Writes t [(lat, .s f.sd w)])
    (Q := (· = s)) ⟨w, hP, s.writes_write ..⟩ rfl⟩

/-! ### Immediates as numbers (R63) -/

theorem sext14_bounds {n : Nat} (h : n < 2 ^ 14) : -2 ^ 13 ≤ sext 14 n ∧ sext 14 n < 2 ^ 13 := by
  unfold sext
  split <;> omega

theorem sextWord_toInt {n : Nat} (h : n < 2 ^ 14) : (sextWord 14 n).toInt = sext 14 n := by
  obtain ⟨hl, hh⟩ := sext14_bounds h
  rw [sextWord, BitVec.toInt_ofInt]
  exact Int.bmod_eq_of_le (by omega) (by omega)

theorem sextWord_toNat (n : Nat) : ((sextWord 14 n).toNat : Int) = sext 14 n % 2 ^ 32 := by
  rw [sextWord, BitVec.toNat_ofInt]
  exact Int.toNat_of_nonneg (Int.emod_nonneg _ (by norm_num))

/-- A number of fewer bits than a word has its bits in the word (R63). -/
theorem ofNat_getLsbD {n : Nat} (h : n < 2 ^ 14) (i : Nat) : (BitVec.ofNat 32 n).getLsbD i = n.testBit i := by
  rw [BitVec.getLsbD_ofNat]
  by_cases hi : i < 32
  · simp [hi]
  · rw [Nat.testBit_lt_two_pow (h.trans_le (Nat.pow_le_pow_right two_pos (by omega)))]
    simp

theorem lui_toNat {n : Nat} (h : n < 2 ^ 19) : (BitVec.ofNat 32 (n * 2 ^ 13)).toNat = n * 2 ^ 13 := by
  rw [BitVec.toNat_ofNat, Nat.mod_eq_of_lt (by omega)]

/-- Settles O3: each instruction writes the exact result of its operation at t+1. -/
theorem immediatesAndSelect : Obligations.ImmediatesAndSelect := by
  refine ⟨fun s f hf => ⟨State.imm_result rfl ?_, State.imm_result rfl fun i => ?_, State.imm_result rfl fun i => ?_,
    State.imm_result rfl fun i => ?_⟩, fun s f _ => ⟨State.imm_result rfl (shl_toNat ..),
    State.imm_result rfl (shr_toNat ..), State.imm_result rfl (sar_toInt ..)⟩,
    fun s f hf => ⟨_, rfl, _, lui_toNat hf, s.writes_write ..⟩, fun s f => ⟨fun hg => ?_, fun hg => ?_⟩⟩
  · rw [BitVec.toInt_add, sextWord_toInt hf]
  · rw [BitVec.getLsbD_and, ofNat_getLsbD hf]
  · rw [BitVec.getLsbD_or, ofNat_getLsbD hf]
  · rw [BitVec.getLsbD_xor, ofNat_getLsbD hf]
  · rw [State.takes_iff] at hg
    exact ⟨_, rfl, _, if_pos hg, s.writes_write ..⟩
  · rw [State.takes_iff] at hg
    exact ⟨_, rfl, _, if_neg hg, s.writes_write ..⟩

/-! ### The six conditions (R65) -/

theorem icond_eq (a b : Word) : icond 0 a b = decide (a.toNat = b.toNat) := by
  rw [Bool.eq_iff_iff, decide_eq_true_iff, BitVec.toNat_inj]
  exact beq_iff_eq

theorem icond_ne (a b : Word) : icond 1 a b = decide (a.toNat ≠ b.toNat) := by
  rw [Bool.eq_iff_iff, decide_eq_true_iff, ne_eq, BitVec.toNat_inj]
  exact bne_iff_ne

theorem icond_lt (a b : Word) : icond 2 a b = decide (a.toInt < b.toInt) := BitVec.slt_eq_decide

theorem icond_ge (a b : Word) : icond 3 a b = decide (a.toInt ≥ b.toInt) := by
  have h : icond 3 a b = !icond 2 a b := rfl
  rw [h, icond_lt, ← decide_not, decide_eq_decide, not_lt]

theorem icond_ltu (a b : Word) : icond 4 a b = decide (a.toNat < b.toNat) := BitVec.ult_eq_decide

theorem icond_geu (a b : Word) : icond 5 a b = decide (a.toNat ≥ b.toNat) := by
  have h : icond 5 a b = !icond 4 a b := rfl
  rw [h, icond_ltu, ← decide_not, decide_eq_decide, not_lt]

/-- CMPI writes the guard that it names with its condition, whatever the guards hold (R65). -/
theorem State.cmpImm_writes {s : State} {i : Instr} {f : SI} {cond : Nat} {v : Bool}
    (he : exec i s = .next (s.cmpImm f cond)) (hv : icond cond (s.myCtx.rs f.sa) (sextWord 14 f.imm) = v) :
    s.Answers i fun t => s.Writes t [(1, guardWrite f.sd v)] := by
  subst hv
  exact ⟨_, he, s.writes_write ..⟩

/-- CMP writes the guard that it names with its condition (R65). -/
theorem State.cmp_result {s : State} {i : Instr} {f : SR} {cond : Nat} {v : Bool}
    (he : exec i s = .next (s.cmp f cond)) (hv : icond cond (s.myCtx.rs f.sa) (s.myCtx.rs f.sb) = v) :
    s.GuardResult i f v := by
  subst hv
  exact State.guard_result he

/-! ### Guards moved as a group (R67) -/

/-- The guards as bits [7:0] of a word, bit 0 always 1. -/
theorem gtos_bits (g : BitVec 8) : let w : Word := (g ||| 1).zeroExtend 32
    w.getLsbD 0 = true ∧ (∀ i, 1 ≤ i → i < 8 → w.getLsbD i = g.getLsbD i) ∧ ∀ i, 8 ≤ i → w.getLsbD i = false := by
  intro w
  have hw (i : Nat) : w.getLsbD i = (decide (i < 32) && (g.getLsbD i || decide (i = 0))) := by
    rw [BitVec.getLsbD_setWidth, BitVec.getLsbD_or]
    exact congrArg _ (congrArg _ (BitVec.getLsbD_one (w := 8)))
  refine ⟨by rw [hw]; simp, fun i h1 h8 => ?_, fun i h8 => ?_⟩
  · rw [hw, decide_eq_true (show i < 32 by omega), decide_eq_false (show ¬ i = 0 by omega)]
    simp
  · rw [hw, BitVec.getLsbD_of_ge g i h8, decide_eq_false (show ¬ i = 0 by omega)]
    simp

/-- STOG takes g1 to g7 from bits [7:1] of its operand. -/
theorem stog_bits (a : Word) (i : Nat) (h : i < 8) : (0xFE : BitVec 8).getLsbD i = decide (1 ≤ i) ∧
    (1 ≤ i → (a.truncate 8).getLsbD i = a.getLsbD i) := by
  refine ⟨?_, fun _ => by simp [h]⟩
  interval_cases i <;> rfl

/-- Settles O4: each instruction writes the guards, or the word, that its operands give. -/
theorem comparesAndGuards : Obligations.ComparesAndGuards := by
  refine ⟨⟨fun s f => ?_, fun s f hf => ?_⟩, fun s f => ?_⟩
  · exact ⟨State.cmp_result rfl (icond_eq ..), State.cmp_result rfl (icond_ne ..), State.cmp_result rfl (icond_lt ..),
      State.cmp_result rfl (icond_ge ..), State.cmp_result rfl (icond_ltu ..), State.cmp_result rfl (icond_geu ..)⟩
  · refine ⟨State.cmpImm_writes rfl ?_, State.cmpImm_writes rfl ?_, State.cmpImm_writes rfl ?_,
      State.cmpImm_writes rfl ?_, State.cmpImm_writes rfl ?_, State.cmpImm_writes rfl ?_⟩
    · rw [icond_eq, decide_eq_decide, ← sextWord_toInt hf, BitVec.toNat_inj, BitVec.toInt_inj]
    · rw [icond_ne, decide_eq_decide, ← sextWord_toInt hf, ne_eq, ne_eq, BitVec.toNat_inj, BitVec.toInt_inj]
    · rw [icond_lt, sextWord_toInt hf]
    · rw [icond_ge, sextWord_toInt hf]
    · rw [icond_ltu, decide_eq_decide, ← sextWord_toNat, Nat.cast_lt]
    · rw [icond_geu, decide_eq_decide, ← sextWord_toNat, ge_iff_le, ge_iff_le, Nat.cast_le]
  · have hx : decide (f.fn / 2 % 2 = 1) = f.fn.testBit 1 := (Nat.testBit_eq_decide_div_mod_eq (x := f.fn) (i := 1)).symm
    have hy : decide (f.fn % 2 = 1) = f.fn.testBit 0 := (Nat.testBit_zero f.fn).symm
    refine ⟨State.guard_result ?_, State.guard_result ?_, State.guard_result ?_, State.scalar_result rfl (gtos_bits _),
      ⟨_, rfl, fun hg => ?_, fun hg => ?_⟩⟩
    · rw [← hx, ← hy]; rfl
    · rw [← hx, ← hy]; rfl
    · rw [← hx, ← hy]; rfl
    · rw [State.takes_iff] at hg
      rw [if_pos hg]
      exact ⟨_, _, s.writes_write .., stog_bits _⟩
    · rw [State.takes_iff] at hg
      exact if_neg hg

end Sys2Proof.Machine
end

section
/-! Transfers of control, loops, pigeonholes and samples (O5, O6, O10). -/
namespace Sys2Proof.Machine

/-! ### A transfer of control on its way (R69) -/

/-- A sequencer about to issue bundle 1 of a segment of three, with a transfer to bundle 0 that is due at cycle 2. -/
def earlyTransfer : Seq :=
  { Seq.empty with
    halfA := some { off := 0, ready := 0,
                    seg := some { off := 0, head := decodeHeader [], bundles := [[], [], []], valid := true } }
    next := .bundle 1
    xfer := some (2, .bundle 0) }

/-- Refutes O5: the last clause puts no bound on a transfer that is already on its way. With one due at cycle 2, bundle 1 of
`earlyTransfer` issues at cycle 1 and bundle 0 at cycle 2, where the clause wants bundle 2. -/
theorem not_branchesAndJumps : ¬ Obligations.BranchesAndJumps := by
  intro h
  obtain ⟨-, -, hdelay⟩ := h
  obtain ⟨-, hsecond, -⟩ :=
    hdelay earlyTransfer 0 rfl rfl rfl rfl (by decide) fun l hl => absurd hl List.not_mem_nil
  have hidx : ((earlyTransfer.advance 1).advance 2).idx = 0 := by decide
  exact absurd (hidx.symm.trans hsecond) (by decide)

/-! ### Settling the levels that end at a bundle (R74) -/

/-- A bundle at which no level ends closes nothing. -/
theorem settleLevels_none {idx : Nat} {ls : List Level} (h : ∀ l ∈ ls, l.last ≠ idx) : settleLevels idx ls = (none, ls) := by
  induction ls with
  | nil => rfl
  | cons l ls ih =>
    obtain ⟨hl, hls⟩ := List.forall_mem_cons.1 h
    rw [settleLevels, if_neg hl, ih hls]

/-- At the last bundle of a level that counts more than 1, its body begins again. -/
theorem settleLevels_again {l : Level} (h : 1 < l.count) (ls : List Level) :
    settleLevels l.last (l :: ls) = (some l.first, { l with count := l.count - 1 } :: ls) := by
  rw [settleLevels, if_pos rfl, if_pos h]

/-- At the last bundle of a level in its last iteration the level closes. -/
theorem settleLevels_closes {l : Level} (h : l.count = 1) {ls : List Level} (hls : ∀ m ∈ ls, m.last ≠ l.last) :
    settleLevels l.last (l :: ls) = (none, ls) := by
  rw [settleLevels, if_pos rfl, if_neg (by omega), settleLevels_none hls]

/-! ### One bundle after another (R8, R74) -/

/-- Bundle `i` is called for and no transfer is on its way, in a segment of so many bundles; `ls` are the active levels. -/
structure Seq.Calls (q : Seq) (count i : Nat) (ls : List Level) : Prop where
  next : q.next = .bundle i
  xfer : q.xfer = none
  levels : q.nextLevels = ls
  count : q.count = count

/-- The bundle that is called for issues; what follows it is settled by the levels. -/
theorem Seq.Calls.advance {q : Seq} {count i : Nat} {ls : List Level} (h : q.Calls count i ls) (t : Nat) :
    (q.advance t).idx = i ∧ (q.advance t).levels = ls ∧ (q.advance t).xfer = none ∧ (q.advance t).count = count ∧
      (q.advance t).next = (q.settle ls i).1 ∧ (q.advance t).nextLevels = (q.settle ls i).2 := by
  obtain ⟨hn, hx, hl, hc⟩ := h
  subst hl hc
  simp only [Seq.advance, hn, hx, true_and]
  exact ⟨rfl, rfl, rfl⟩

/-- Where no level that ends at it repeats, the next bundle of the segment follows. -/
theorem Seq.Calls.onward {q : Seq} {count i : Nat} {ls ms : List Level} (h : q.Calls count i ls)
    (hs : settleLevels i ls = (none, ms)) (hi : i + 1 < count) (t : Nat) : (q.advance t).Calls count (i + 1) ms := by
  obtain ⟨-, -, hx, hc, hn, hl⟩ := h.advance t
  have hafter : q.settle ls i = (.bundle (i + 1), ms) := by
    rw [Seq.settle, hs]
    exact congrArg (·, ms) (if_pos (by rwa [h.count]))
  rw [hafter] at hn hl
  exact ⟨hn, hx, hl, hc⟩

/-- Where a level repeats, its body begins again. -/
theorem Seq.Calls.again {q : Seq} {count i first : Nat} {ls ms : List Level} (h : q.Calls count i ls)
    (hs : settleLevels i ls = (some first, ms)) (t : Nat) : (q.advance t).Calls count first ms := by
  obtain ⟨-, -, hx, hc, hn, hl⟩ := h.advance t
  have hback : q.settle ls i = (.bundle first, ms) := by rw [Seq.settle, hs]
  rw [hback] at hn hl
  exact ⟨hn, hx, hl, hc⟩

theorem Seq.run_add (q : Seq) (t a b : Nat) : q.run t (a + b) = (q.run t a).run (t + a) b := by
  induction b with
  | zero => rfl
  | succ b ih =>
    rw [← Nat.add_assoc, Seq.run, Seq.run, ih]
    congr 1
    omega

/-! ### A body, once and as often as its level counts (R73, R74) -/

section
variable {count : Nat} {l : Level} {rest : List Level}

/-- Before the last bundle of a body, bundles follow one another: the levels around it end later. -/
theorem Seq.Calls.within {q : Seq} (h : q.Calls count l.first (l :: rest)) (hrest : ∀ m ∈ rest, l.last < m.last)
    (hlast : l.last + 1 < count) (t : Nat) {k : Nat} (hk : l.first + k ≤ l.last) :
    (q.run t k).Calls count (l.first + k) (l :: rest) := by
  induction k with
  | zero => exact h
  | succ k ih =>
    refine (ih (by omega)).onward (settleLevels_none ?_) (by omega) _
    intro m hm
    rcases List.mem_cons.1 hm with rfl | hm
    · omega
    · have := hrest m hm
      omega

/-- The bundles of an iteration. -/
theorem Seq.Calls.idx_within {q : Seq} (h : q.Calls count l.first (l :: rest)) (hrest : ∀ m ∈ rest, l.last < m.last)
    (hlast : l.last + 1 < count) (t : Nat) {k : Nat} (hk : l.first + k ≤ l.last) :
    (q.run t (k + 1)).idx = l.first + k := ((h.within hrest hlast t hk).advance _).1

/-- A level that counts `n` has its body issue `n` times; then the bundle after the body is called for, and the level is
gone. -/
theorem Seq.Calls.repeats (hfirst : l.first ≤ l.last) (hrest : ∀ m ∈ rest, l.last < m.last) (hlast : l.last + 1 < count)
    {n : Nat} (hn : 1 ≤ n) : ∀ {q : Seq} (t : Nat), q.Calls count l.first ({ l with count := n } :: rest) →
      (∀ k, k < n * (l.last + 1 - l.first) → (q.run t (k + 1)).idx = l.first + k % (l.last + 1 - l.first)) ∧
      (q.run t (n * (l.last + 1 - l.first))).Calls count (l.last + 1) rest := by
  obtain ⟨w, hw⟩ : ∃ w, l.last = l.first + w := ⟨_, (Nat.add_sub_cancel' hfirst).symm⟩
  have hbody : l.last + 1 - l.first = w + 1 := by omega
  rw [hbody]
  induction n, hn using Nat.le_induction with
  | base =>
    intro q t h
    rw [Nat.one_mul]
    refine ⟨fun k hk => ?_, ?_⟩
    · rw [Nat.mod_eq_of_lt hk]
      exact Seq.Calls.idx_within (l := { l with count := 1 }) h hrest hlast t (show l.first + k ≤ l.last by omega)
    · have hend := Seq.Calls.within (l := { l with count := 1 }) h hrest hlast t (k := w) hw.ge
      exact Seq.Calls.onward (hw ▸ hend)
        (settleLevels_closes (l := { l with count := 1 }) rfl fun m hm => (hrest m hm).ne') hlast _
  | succ n hn ih =>
    intro q t h
    have hend := Seq.Calls.within (l := { l with count := n + 1 }) h hrest hlast t (k := w) hw.ge
    have hback : (q.run t (w + 1)).Calls count l.first ({ l with count := n } :: rest) :=
      Seq.Calls.again (hw ▸ hend) (settleLevels_again (l := { l with count := n + 1 }) (Nat.succ_lt_succ hn) rest) _
    obtain ⟨hidx, hcalls⟩ := ih (t + (w + 1)) hback
    refine ⟨fun k hk => ?_, ?_⟩
    · by_cases hkw : k < w + 1
      · rw [Nat.mod_eq_of_lt hkw]
        exact Seq.Calls.idx_within (l := { l with count := n + 1 }) h hrest hlast t (show l.first + k ≤ l.last by omega)
      · obtain ⟨j, rfl⟩ := Nat.exists_eq_add_of_le (Nat.le_of_not_lt hkw)
        rw [Nat.add_mod_left, Nat.add_assoc, Seq.run_add]
        refine hidx j ?_
        rw [Nat.add_mul, Nat.one_mul] at hk
        omega
    · rw [Nat.add_mul, Nat.one_mul, Nat.add_comm, Seq.run_add]
      exact hcalls

end

/-- Settles O6: a loop instruction leaves what `begin` says, and a level that counts N repeats its body N times. -/
theorem loopsBeginAndRepeat : Obligations.LoopsBeginAndRepeat := by
  refine ⟨fun s f => ⟨fun h => State.answers_issue rfl h rfl, fun h => State.answers_issue rfl h rfl⟩, ?_⟩
  intro q t level first last n rest hnext hxfer _ hn hfirst hlast hlevels hrest
  have h : q.Calls q.count first ({ level := level, first := first, last := last, count := n } :: rest) :=
    ⟨hnext, hxfer, hlevels, rfl⟩
  obtain ⟨hidx, hcalls⟩ :=
    Seq.Calls.repeats (l := { level := level, first := first, last := last, count := n }) hfirst hrest hlast hn t h
  obtain ⟨hafter, hrest', -⟩ := hcalls.advance (t + n * (last + 1 - first) + 1)
  exact ⟨hidx, hafter, hrest'⟩

/-! ### Pigeonholes and samples (R79, R80, R199, R240, R328) -/

/-- Whether the pigeonhole block's table has an entry for the executing core's partition (R240). -/
theorem State.pigOpen_iff (s : State) (write : Bool) : s.pigOpen write = true ↔ ∃ e ∈ s.pigAccess,
    e.part = s.partOf s.me ∧ (if write then e.wr else e.rd) = true ∧ e.base ≤ s.partOf s.me ∧ s.partOf s.me ≤ e.limit := by
  simp only [State.pigOpen, admitted, AccessEntry.admits, List.any_eq_true, Bool.and_eq_true, decide_eq_true_eq, beq_iff_eq,
    and_assoc]

/-- An access that the pigeonhole block admits goes its way, and another is a fault at its cycle (R240). -/
theorem State.pigeonhole_ite {s u v : State} {write : Bool} {P Q : State → Prop} (hu : P u) (hv : Q v) :
    ((∃ e ∈ s.pigAccess, e.part = s.partOf s.me ∧ (if write then e.wr else e.rd) = true ∧ e.base ≤ s.partOf s.me ∧
      s.partOf s.me ≤ e.limit) → P (if s.pigOpen write then u else v)) ∧
    (¬ (∃ e ∈ s.pigAccess, e.part = s.partOf s.me ∧ (if write then e.wr else e.rd) = true ∧ e.base ≤ s.partOf s.me ∧
      s.partOf s.me ≤ e.limit) → Q (if s.pigOpen write then u else v)) := by
  rw [← State.pigOpen_iff]
  exact ⟨fun h => by rwa [if_pos h], fun h => by rwa [if_neg h]⟩

section
variable {s : State} {q : Part} {n : Nat}

/-- Pigeonholes 0 to 63 read as latched (R79). -/
theorem State.pigRead_latched (hq : s.part (s.partOf s.me) = some q) (hn : n < 64) :
    s.pigRead (s.partOf s.me) n = q.pigLatched[n]?.getD 0 := by
  simp only [State.pigRead, hq, if_pos hn]

/-- The others read live (R79). -/
theorem State.pigRead_live (hq : s.part (s.partOf s.me) = some q) (hn : 64 ≤ n)
    (hw : ∀ w ∈ s.pigWrites, w.part = q.num → w.n ≠ n) : s.pigRead (s.partOf s.me) n = q.pigLive[n]?.getD 0 := by
  have hnone : (s.pigWrites.find? fun w => w.part == q.num && w.n == n) = none := by
    simpa using hw
  simp only [State.pigRead, hq, if_neg (Nat.not_lt.2 hn), State.pigOld, hnone]

/-- A read beside a write of its cycle sees the old word (R245). -/
theorem State.pigRead_old (hq : s.part (s.partOf s.me) = some q) (hn : 64 ≤ n) {w : PigWrite} (hs : s.pigWrites = [w])
    (hp : w.part = q.num) (hw : w.n = n) : s.pigRead (s.partOf s.me) n = w.old := by
  have hsome : (s.pigWrites.find? fun w => w.part == q.num && w.n == n) = some w := by
    rw [hs, List.find?_cons_of_pos (by simp [hp, hw])]
  simp only [State.pigRead, hq, if_neg (Nat.not_lt.2 hn), State.pigOld, hsome]

end

/-- Settles O10: what each instruction leaves pending. -/
theorem pigeonholesAndSamples : Obligations.PigeonholesAndSamples := by
  intro s f
  have hread {w : Word} (h : s.pigRead (s.partOf s.me) f.sel = w) :=
    State.pigeonhole_ite (s := s) (write := false) (u := s.write 2 (.s f.sd (s.pigRead (s.partOf s.me) f.sel)))
      (P := fun t => s.Writes t [(2, .s f.sd w)])
      (Q := fun t => s.Defers t [(s.t + 2, .registerWrite s.me (.fault 0x21 none [BitVec.ofNat 32 f.sel]))])
      (h ▸ s.writes_write ..) (s.defers_sched (s.t + 2) [50, 5] (.registerWrite s.me (.fault 0x21 none [BitVec.ofNat 32 f.sel])))
  refine ⟨fun q hq _ hopen => ⟨fun hn => ⟨_, rfl, ?_⟩, fun hn hw => ⟨_, rfl, ?_⟩, fun hn w hs hp hw => ⟨_, rfl, ?_⟩⟩,
    fun hclosed => ⟨_, rfl, (hread rfl).2 hclosed⟩, fun h => State.answers_issue rfl h ?_, ⟨_, rfl, s.writes_write ..⟩,
    fun h => ⟨_, rfl, ?_⟩, fun h => ⟨_, rfl, ?_⟩⟩
  · exact (hread (State.pigRead_latched hq hn)).1 hopen
  · exact (hread (State.pigRead_live hq hn hw)).1 hopen
  · exact (hread (State.pigRead_old hq hn hs hp hw)).1 hopen
  · exact State.pigeonhole_ite (P := fun t => s.Defers t _) (Q := fun t => s.Defers t _) (s.defers_sched ..) (s.defers_sched ..)
  · rw [if_pos h]
    exact s.writes_write ..
  · rw [if_neg (by omega)]
    exact s.writes_write ..

end Sys2Proof.Machine
end

section
/-! Units of device memory: their bytes, what a write of one leaves, drains and open slots (O40). -/
namespace Sys2Proof.Machine

/-! ### The length of a decrypted unit (R238) -/

theorem length_decryptRounds {ks : List (List Byte)} (hk : ∀ k ∈ ks, k.length = 16) {s : List Byte} (hs : s.length = 16) :
    (decryptRounds ks s).length = 16 := by
  induction ks generalizing s with
  | nil => exact hs
  | cons k ks ih =>
    obtain ⟨hk0, hks⟩ := List.forall_mem_cons.1 hk
    cases ks with
    | nil => simp [decryptRounds, length_xorBytes, shiftRowsInv, hk0]
    | cons k' ks => exact ih hks (by simp [mixColumnsInv, mixWith])

theorem length_aesDecrypt {ks : List (List Byte)} (hk : ∀ k ∈ ks, k.length = 16) {s : List Byte} (hs : s.length = 16) :
    (aesDecrypt ks s).length = 16 := by
  unfold aesDecrypt
  split
  case h_1 => exact hs
  case h_2 k rest hrev =>
    have hmem (x : List Byte) (hx : x ∈ k :: rest) : x.length = 16 := hk x (List.mem_reverse.1 (hrev ▸ hx))
    obtain ⟨hk0, hrest⟩ := List.forall_mem_cons.1 hmem
    exact length_decryptRounds hrest (by rw [length_xorBytes, hs, hk0]; rfl)

theorem length_xtsBlocks {f : List Byte → List Byte} (hf : ∀ x : List Byte, x.length = 16 → (f x).length = 16) (n t : Nat)
    {bs : List Byte} (hb : bs.length = 16 * n) : (xtsBlocks f n t bs).length = 16 * n := by
  induction n generalizing t bs with
  | zero => rfl
  | succ n ih =>
    have htweak : (leBytes 16 t).length = 16 := length_leBytes 16 t
    have hblock : (xorBytes (bs.take 16) (leBytes 16 t)).length = 16 := by
      rw [length_xorBytes, List.length_take, htweak]
      omega
    rw [xtsBlocks, List.length_append, length_xorBytes, hf _ hblock, htweak, ih _ (by rw [List.length_drop]; omega)]
    omega

/-- A unit as it is read has its 64 bytes (R238). -/
theorem State.length_plainUnit (s : State) (key : BitVec 512) (unit : Nat) : (s.plainUnit key unit).length = 64 := by
  obtain ⟨-, hkeys⟩ := roundKeys_length (length_leBytes 32 (key.toNat % 2 ^ 256))
  have hread : (s.dram.readBytes (64 * unit) 64).length = 16 * 4 := Mem.length_readBytes ..
  rw [State.plainUnit]
  simp only [xtsUnit, Bool.false_eq_true, if_false]
  generalize leNat _ = tweak
  generalize roundKeys _ = ks at hkeys ⊢
  exact length_xtsBlocks (fun x hx => length_aesDecrypt hkeys hx) 4 tweak hread

/-! ### Bytes that a write does not reach -/

/-- A byte keeps its value when another is written, in any form of a memory. -/
theorem Mem.read_write_ne (m : Mem) {x y : Nat} (h : y ≠ x) (v : Byte) : (m.write x v).read y = m.read y := by
  induction m with
  | nil =>
    simp only [Mem.write]
    split
    · rfl
    · simp [Mem.read, Ne.symm h]
  | cons c m ih =>
    obtain ⟨a, b⟩ := c
    simp only [Mem.write]
    split_ifs with hlt hv heq hv
    · rfl
    · simp [Mem.read, Ne.symm h]
    · simp [Mem.read, ← heq, Ne.symm h]
    · simp [Mem.read, ← heq, Ne.symm h]
    · simp only [Mem.read, ih]

theorem Mem.read_writeBytes_apart (m : Mem) {a y : Nat} {bs : List Byte} (h : y < a ∨ a + bs.length ≤ y) :
    (m.writeBytes a bs).read y = m.read y := by
  induction bs generalizing m a with
  | nil => rfl
  | cons b bs ih =>
    rw [List.length_cons] at h
    rw [Mem.writeBytes, ih _ (by omega), Mem.read_write_ne _ (by omega)]

/-- The bytes of other units are as they were when one is written (R238). -/
theorem State.writeUnit_elsewhere (s : State) (key : BitVec 512) {unit a : Nat} (h : a / 64 ≠ unit) (data : List Byte) :
    (s.writeUnit key unit data).dram.read a = s.dram.read a := by
  have hlen : ((data ++ List.replicate 64 0).take 64).length = 64 := by simp
  rw [State.writeUnit_dram]
  exact Mem.read_writeBytes_apart _ (by rw [(xtsUnit_inverse key unit hlen).1]; omega)

/-- A unit that has been written bears no poison mark (R267). -/
theorem State.writeUnit_poison (s : State) (key : BitVec 512) (unit : Nat) (data : List Byte) :
    ∀ p ∈ (s.writeUnit key unit data).poison, p.1 ≠ unit := by
  intro p hp
  simpa using (List.mem_filter.1 hp).2

/-! ### Device writes, non-temporal units and drains (R230, R250, R264) -/

/-- A unit written outside the timetable is no unit of its STNT any more. -/
def StntUnit.doneIn (u : StntUnit) (r : StntRec) : StntRec :=
  if r.issue = u.issue then { r with units := r.units.filter (· != u.phys) } else r

theorem StntUnit.not_mem_doneIn (u : StntUnit) {r : StntRec} (h : (u.doneIn r).issue = u.issue) :
    u.phys ∉ (u.doneIn r).units := by
  by_cases hi : r.issue = u.issue
  · simp [StntUnit.doneIn, hi]
  · rw [StntUnit.doneIn, if_neg hi] at h
    exact absurd h hi

/-- The machine in which a non-temporal unit has been written. -/
def State.unitDone (s : State) (u : StntUnit) : State :=
  ((s.writeUnit (s.keyOf ((s.part u.part).elim 0 (·.tenant)) u.key) (u.phys / 64) u.data).noteServed u.phys true true).modCore
    u.core fun k => { k with stnts := k.stnts.map u.doneIn }

theorem State.exec_stntUnitWrite (s : State) (u : StntUnit) :
    exec .stntUnitWrite (s.doing (.stntUnitWrite u)) = .next ((s.doing (.stntUnitWrite u)).unitDone u) := rfl

@[simp] theorem State.noteServed_dram (s : State) (p : Nat) (w n : Bool) : (s.noteServed p w n).dram = s.dram := rfl
@[simp] theorem State.noteServed_poison (s : State) (p : Nat) (w n : Bool) : (s.noteServed p w n).poison = s.poison := rfl
@[simp] theorem State.noteServed_parts (s : State) (p : Nat) (w n : Bool) : (s.noteServed p w n).parts = s.parts := rfl
@[simp] theorem State.noteServed_core (s : State) (p : Nat) (w n : Bool) (c : Nat) : (s.noteServed p w n).core c = s.core c := rfl
@[simp] theorem State.writeUnit_parts (s : State) (key : BitVec 512) (unit : Nat) (data : List Byte) :
    (s.writeUnit key unit data).parts = s.parts := by rw [State.writeUnit]
@[simp] theorem State.writeUnit_core (s : State) (key : BitVec 512) (unit : Nat) (data : List Byte) (c : Nat) :
    (s.writeUnit key unit data).core c = s.core c := by rw [State.core, State.core, State.writeUnit]

/-- The unit goes to device memory under the key of its partition's tenant. -/
theorem State.unitDone_dram (s : State) (u : StntUnit) : (s.unitDone u).dram =
    (s.writeUnit (s.keyOf ((s.part u.part).elim 0 (·.tenant)) u.key) (u.phys / 64) u.data).dram := by
  rw [State.unitDone, State.modCore_dram, State.noteServed_dram]

theorem State.unitDone_poison (s : State) (u : StntUnit) : (s.unitDone u).poison =
    (s.writeUnit (s.keyOf ((s.part u.part).elim 0 (·.tenant)) u.key) (u.phys / 64) u.data).poison := by
  rw [State.unitDone, State.modCore_poison, State.noteServed_poison]

theorem State.unitDone_parts (s : State) (u : StntUnit) : (s.unitDone u).parts = s.parts := by
  rw [State.unitDone, State.modCore_parts, State.noteServed_parts, State.writeUnit_parts]

theorem State.unitDone_core (s : State) {u : StntUnit} (hc : u.core < 384) :
    (s.unitDone u).core u.core = { s.core u.core with stnts := (s.core u.core).stnts.map u.doneIn } := by
  rw [State.unitDone, State.core_modCore_self hc, State.noteServed_core, State.writeUnit_core]

theorem State.unitDone_core_ne (s : State) (u : StntUnit) {k : Nat} (hk : k ≠ u.core) : (s.unitDone u).core k = s.core k := by
  rw [State.unitDone, State.core_modCore_ne hk, State.noteServed_core, State.writeUnit_core]

/-- What a unit decrypts to turns on device memory alone. -/
theorem State.plainUnit_congr {s t : State} (h : t.dram = s.dram) (key : BitVec 512) (unit : Nat) :
    t.plainUnit key unit = s.plainUnit key unit := by rw [State.plainUnit, State.plainUnit, h]

/-- R250, R251: the unit holds its data, its STNT has it no more, and nothing else of a core changes. -/
theorem State.unitDone_holds (s : State) (u : StntUnit) (hc : u.core < 384) : let t := s.unitDone u
    (∀ q, s.dram.wf = true → s.part u.part = some q → u.data.length = 64 →
      t.plainUnit (s.keyOf q.tenant u.key) (u.phys / 64) = u.data) ∧
    (∀ a, a / 64 ≠ u.phys / 64 → t.dram.read a = s.dram.read a) ∧ (∀ p ∈ t.poison, p.1 ≠ u.phys / 64) ∧
    (∀ r ∈ (t.core u.core).stnts, r.issue = u.issue → u.phys ∉ r.units) ∧ t.ctx u.core = s.ctx u.core ∧
    (∀ k, k ≠ u.core → t.core k = s.core k) ∧ t.parts = s.parts := by
  intro t
  have hcore : t.core u.core = { s.core u.core with stnts := (s.core u.core).stnts.map u.doneIn } := s.unitDone_core hc
  refine ⟨fun q hwf hq hlen => ?_, fun a ha => ?_, fun p hp => ?_, fun r hr hi => ?_, ?_,
    fun k hk => s.unitDone_core_ne u hk, s.unitDone_parts u⟩
  · have hkey : (s.part u.part).elim 0 (·.tenant) = q.tenant := by rw [hq]; rfl
    rw [State.plainUnit_congr (s.unitDone_dram u), hkey, State.plainUnit_writeUnit hwf _ _ hlen]
  · rw [s.unitDone_dram u, s.writeUnit_elsewhere _ ha]
  · rw [s.unitDone_poison u] at hp
    exact State.writeUnit_poison _ _ _ _ p hp
  · rw [hcore] at hr
    obtain ⟨r', -, rfl⟩ := List.mem_map.1 hr
    exact u.not_mem_doneIn hi
  · rw [State.ctx, State.ctx, hcore]

/-- A drain's completion ends the STNTs that it covers, where every unit of them has been written (R250). -/
theorem State.drainCompletion_ends {s : State} {c upto : Nat} (hc : c < 384)
    (h : ∀ r ∈ (s.core c).stnts, r.covered = some upto → r.units = []) :
    s.Does .drainCompletion (.drainCompletion c upto) fun t =>
      (t.core c).stnts = ((s.core c).stnts.filter fun r => r.covered ≠ some upto) ∧ t.ctx c = s.ctx c ∧
      (∀ k, k ≠ c → t.core k = s.core k) ∧ t.parts = s.parts ∧ t.dram = s.dram := by
  let d : State := s.doing (.drainCompletion c upto)
  let rest : List StntRec := ((s.core c).stnts.partition fun r => r.covered == some upto).2
  let t : State := d.modCore c fun k => { k with stnts := rest }
  have hlate (r : StntRec) (hr : r ∈ ((s.core c).stnts.partition fun r => r.covered == some upto).1) : r.units = [] := by
    rw [List.partition_eq_filter_filter] at hr
    obtain ⟨hmem, hcov⟩ := List.mem_filter.1 hr
    exact h r hmem (by simpa using hcov)
  have hexec : exec .drainCompletion d = .next t := by
    have he : exec .drainCompletion d = .next (match s.part (s.partOf c) with
      | none => t
      | some q => ((s.core c).stnts.partition fun r => r.covered == some upto).1.foldl (fun s' r =>
          match sortBy (fun a b => decide (chanOf a < chanOf b)) (d.lateUnits c r) with
          | [] => s'
          | p :: _ =>
            let n := (q.chanNo (stackOf p) (chanOf p)).getD 0
            let kw : Word := match slotAt upto with
              | some k => BitVec.ofNat 32 (k % (d.timelineOf q n).slots)
              | none => 0xFFFFFFFF
            s'.raiseAt c 0x18 12 r.bundle (some r.issue)
              [chanWord 10 (stackOf p) (chanOf p) n, kw, sourceWord 0 (d.rankOf c), lo32 r.issue,
                BitVec.ofNat 32 (p / 64 % 16)]) t) := rfl
    rw [he]
    split
    · rfl
    · refine congrArg _ (foldl_eq_self fun r hr => ?_)
      have hnone : d.lateUnits c r = [] := by rw [State.lateUnits, hlate r hr]; rfl
      rw [hnone]
      rfl
  have hcore : t.core c = { s.core c with stnts := rest } := State.core_modCore_self (s := d) hc _
  refine ⟨t, hexec, ?_, ?_, fun k hk => State.core_modCore_ne (s := d) hk _, rfl, rfl⟩
  · rw [hcore]
    show rest = _
    rw [show rest = _ from congrArg Prod.snd (List.partition_eq_filter_filter ..)]
    refine List.filter_congr fun r _ => ?_
    by_cases hr : r.covered = some upto <;> simp [hr]
  · rw [State.ctx, hcore]
    rfl

end Sys2Proof.Machine
end

section
/-! Device writes, units of open slots and pigeonhole writes (O40). -/
namespace Sys2Proof.Machine

/-! ### A device write performs (R230, R238) -/

theorem State.exec_deviceWrite (s : State) (tenant : Nat) (u : UnitWrite) :
    exec .deviceWritePerform (s.doing (.deviceWritePerform tenant [u])) =
      .next ((s.doing (.deviceWritePerform tenant [u])).writeUnit (s.keyOf tenant u.key) (u.phys / 64) u.data) := rfl

@[simp] theorem State.writeUnit_cores (s : State) (key : BitVec 512) (unit : Nat) (data : List Byte) :
    (s.writeUnit key unit data).cores = s.cores := by rw [State.writeUnit]
@[simp] theorem State.writeUnit_due (s : State) (key : BitVec 512) (unit : Nat) (data : List Byte) :
    (s.writeUnit key unit data).due = s.due := by rw [State.writeUnit]
@[simp] theorem State.writeUnit_out (s : State) (key : BitVec 512) (unit : Nat) (data : List Byte) :
    (s.writeUnit key unit data).out = s.out := by rw [State.writeUnit]

/-- R230, R238, R267: the unit reads back under its key, the other bytes stay, and its mark is gone. -/
theorem State.deviceWrite_holds (s : State) (tenant : Nat) (u : UnitWrite) :
    s.Does .deviceWritePerform (.deviceWritePerform tenant [u]) fun t =>
      (s.dram.wf = true → u.data.length = 64 → t.plainUnit (s.keyOf tenant u.key) (u.phys / 64) = u.data) ∧
      (∀ a, a / 64 ≠ u.phys / 64 → t.dram.read a = s.dram.read a) ∧ (∀ p ∈ t.poison, p.1 ≠ u.phys / 64) ∧
      t.cores = s.cores ∧ t.parts = s.parts ∧ t.due = s.due :=
  ⟨_, s.exec_deviceWrite tenant u, fun hwf hlen => State.plainUnit_writeUnit hwf _ _ hlen,
    fun _ ha => State.writeUnit_elsewhere _ _ ha _, State.writeUnit_poison _ _ _ _, State.writeUnit_cores ..,
    State.writeUnit_parts .., State.writeUnit_due ..⟩

theorem State.stntWrite_holds (s : State) (u : StntUnit) (hc : u.core < 384) : s.Does .stntUnitWrite (.stntUnitWrite u) fun t =>
    (∀ q, s.dram.wf = true → s.part u.part = some q → u.data.length = 64 →
      t.plainUnit (s.keyOf q.tenant u.key) (u.phys / 64) = u.data) ∧
    (∀ a, a / 64 ≠ u.phys / 64 → t.dram.read a = s.dram.read a) ∧ (∀ p ∈ t.poison, p.1 ≠ u.phys / 64) ∧
    (∀ r ∈ (t.core u.core).stnts, r.issue = u.issue → u.phys ∉ r.units) ∧ t.ctx u.core = s.ctx u.core ∧
    (∀ k, k ≠ u.core → t.core k = s.core k) ∧ t.parts = s.parts :=
  ⟨_, s.exec_stntUnitWrite u, (s.doing _).unitDone_holds u hc⟩

/-! ### What the errors of a unit come to (R267) -/

/-- In a memory without errors a read counts nothing, and is poisoned by the unit's mark alone. -/
theorem State.unitErrors_sound {s : State} (hbad : s.dramBad = []) (hsoft : s.dramSoft = []) (unit : Nat) :
    s.unitErrors unit = (s, (s.poison.find? fun p => p.1 == unit).map (·.2)) := by
  simp [State.unitErrors, hbad, hsoft]

theorem poisonMark_isSome {ps : List (Nat × ErrUnit)} {unit : Nat} (h : ∃ p ∈ ps, p.1 = unit) :
    ((ps.find? fun p => p.1 == unit).map (·.2)).isSome = true := by
  rw [Option.isSome_map, List.find?_isSome]
  simpa using h

theorem poisonMark_isNone {ps : List (Nat × ErrUnit)} {unit : Nat} (h : ∀ p ∈ ps, p.1 ≠ unit) :
    ((ps.find? fun p => p.1 == unit).map (·.2)).isSome = false := by
  rw [Option.isSome_map, Bool.eq_false_iff, Ne, List.find?_isSome]
  rintro ⟨p, hp, he⟩
  exact h p hp (by simpa using he)

/-! ### Units of the host and of the ports in open slots (R265, R267) -/

/-- The two uses whose accesses come from outside the package. -/
def OpenUse.Outer (u : OpenUse) : Prop := u = .host ∨ ∃ p, u = .peer p

theorem State.exec_openSlotService (s : State) {a : OpenAccess} {k : Nat} (h : a.slot = some k) :
    exec .openSlotService (s.doing (.openSlotService a)) =
      .next (((s.doing (.openSlotService a)).noteServed a.phys a.write false).serveOpen a) := by
  show execOpenSlotService (s.doing (.openSlotService a)) = _
  simp only [execOpenSlotService, State.doing, h, Option.isSome_some, if_true]

theorem State.openKey_outer (s : State) {a : OpenAccess} (h : a.use.Outer) : s.openKey a = s.keyOf a.tenant a.key := by
  unfold State.openKey
  rcases h with h | ⟨p, h⟩ <;> rw [h]

theorem State.serveOpen_write (s : State) {a : OpenAccess} (hw : a.write = true) (h : a.use.Outer) :
    s.serveOpen a = s.serveWrite a := by
  unfold State.serveOpen State.written
  rw [if_pos hw]
  rcases h with h | ⟨p, h⟩ <;> rw [h]

section
variable {s : State} {a : OpenAccess}

/-- The bytes of a unit that an access of an open slot reads. -/
def State.openBytes (s : State) (a : OpenAccess) : List Byte :=
  ((s.plainUnit (s.keyOf a.tenant a.key) (a.phys / 64)).drop a.first).take a.data.length

theorem State.serveOpen_read_host (hw : a.write = false) (hbad : s.dramBad = []) (hsoft : s.dramSoft = [])
    (hu : a.use = .host) {bad : Bool} (hm : ((s.poison.find? fun p => p.1 == a.phys / 64).map (·.2)).isSome = bad) :
    s.serveOpen a = s.reply (if bad then .poisoned a.fn else .data a.fn (s.openBytes a)) := by
  rw [State.serveOpen, if_neg (by simp [hw]), State.serveRead, State.unitErrors_sound hbad hsoft]
  simp only [hu, hm, s.openKey_outer (.inl hu)]
  rfl

theorem State.serveOpen_read_peer (hw : a.write = false) (hbad : s.dramBad = []) (hsoft : s.dramSoft = []) {port : Nat}
    (hu : a.use = .peer port) {bad : Bool} (hm : ((s.poison.find? fun p => p.1 == a.phys / 64).map (·.2)).isSome = bad) :
    s.serveOpen a = s.reply (.peer port (if bad then none else some (s.openBytes a))) := by
  rw [State.serveOpen, if_neg (by simp [hw]), State.serveRead, State.unitErrors_sound hbad hsoft]
  simp only [hu, hm, s.openKey_outer (.inr ⟨port, hu⟩)]
  rfl

/-- A unit with the bytes of a partial write in their place. -/
def State.mergedUnit (s : State) (a : OpenAccess) : List Byte :=
  let held := s.plainUnit (s.keyOf a.tenant a.key) (a.phys / 64)
  held.take a.first ++ a.data ++ held.drop (a.first + a.data.length)

theorem State.length_mergedUnit (h : a.first + a.data.length ≤ 64) : (s.mergedUnit a).length = 64 := by
  simp only [State.mergedUnit, List.length_append, List.length_take, List.length_drop, State.length_plainUnit]
  omega

theorem State.serveOpen_whole (hw : a.write = true) (hu : a.use.Outer) (hlen : a.data.length = 64) :
    s.serveOpen a = s.writeUnit (s.keyOf a.tenant a.key) (a.phys / 64) a.data := by
  rw [State.serveOpen_write s hw hu, State.serveWrite, if_pos hlen, s.openKey_outer hu]

theorem State.serveOpen_merge (hw : a.write = true) (hu : a.use.Outer) (hlen : a.data.length < 64) (hbad : s.dramBad = [])
    (hsoft : s.dramSoft = []) (hm : ∀ p ∈ s.poison, p.1 ≠ a.phys / 64) :
    s.serveOpen a = s.writeUnit (s.keyOf a.tenant a.key) (a.phys / 64) (s.mergedUnit a) := by
  rw [State.serveOpen_write s hw hu, State.serveWrite, if_neg (by omega), State.unitErrors_sound hbad hsoft]
  simp only [poisonMark_isNone hm, s.openKey_outer hu, Bool.false_eq_true, if_false]
  rfl

theorem State.serveOpen_poisoned (hw : a.write = true) (hu : a.use.Outer) (hlen : a.data.length < 64) (hbad : s.dramBad = [])
    (hsoft : s.dramSoft = []) (hm : ∃ p ∈ s.poison, p.1 = a.phys / 64) :
    s.serveOpen a = if a.use = .host then s.modFn a.fn fun f => { f with aer := f.aer + 1 } else s := by
  rw [State.serveOpen_write s hw hu, State.serveWrite, if_neg (by omega), State.unitErrors_sound hbad hsoft]
  simp only [poisonMark_isSome hm, if_true]

end

/-- Logging an error at a function of the host (R267). -/
theorem State.modFn_aer (s : State) (n : Nat) (i : Fin 64) : (s.modFn n fun f => { f with aer := f.aer + 1 }).fns[i] =
    { s.fns[i] with aer := s.fns[i].aer + if n = i.val then 1 else 0 } := by
  rw [State.modFn]
  by_cases h : n = i.val
  · subst h
    simp [State.fn]
  · simp [h, Vector.getElem_setIfInBounds_ne]

/-- R265, R267: the answers and the writes of a unit served in its open slot. -/
theorem State.openSlot_holds (s : State) (a : OpenAccess) (k : Nat) (hslot : a.slot = some k) :
    let unit := a.phys / 64
    let held := s.plainUnit (s.keyOf a.tenant a.key) unit
    let bytes := (held.drop a.first).take a.data.length
    let does (P : State → Prop) : Prop := s.Does .openSlotService (.openSlotService a) P
    (a.write = false → s.dramBad = [] → s.dramSoft = [] →
      ((∀ p ∈ s.poison, p.1 ≠ unit) →
        (a.use = .host → does fun t => s.Same t ∧ t.out = s.out ++ [.data a.fn bytes]) ∧
        ∀ p, a.use = .peer p → does fun t => s.Same t ∧ t.out = s.out ++ [.peer p (some bytes)]) ∧
      ((∃ p ∈ s.poison, p.1 = unit) →
        (a.use = .host → does fun t => s.Same t ∧ t.out = s.out ++ [.poisoned a.fn]) ∧
        ∀ p, a.use = .peer p → does fun t => s.Same t ∧ t.out = s.out ++ [.peer p none])) ∧
    (a.write = true → a.use = .host ∨ (∃ p, a.use = .peer p) →
      (a.data.length = 64 → does fun t =>
        (s.dram.wf = true → t.plainUnit (s.keyOf a.tenant a.key) unit = a.data) ∧
        (∀ b, b / 64 ≠ unit → t.dram.read b = s.dram.read b) ∧ (∀ p ∈ t.poison, p.1 ≠ unit) ∧
        t.cores = s.cores ∧ t.parts = s.parts ∧ t.out = s.out) ∧
      (a.data.length < 64 → a.first + a.data.length ≤ 64 → s.dramBad = [] → s.dramSoft = [] →
        ((∀ p ∈ s.poison, p.1 ≠ unit) → does fun t =>
          (s.dram.wf = true → t.plainUnit (s.keyOf a.tenant a.key) unit =
            held.take a.first ++ a.data ++ held.drop (a.first + a.data.length)) ∧
          (∀ b, b / 64 ≠ unit → t.dram.read b = s.dram.read b) ∧ t.cores = s.cores ∧ t.parts = s.parts ∧ t.out = s.out) ∧
        ((∃ p ∈ s.poison, p.1 = unit) → does fun t => s.Same t ∧ t.poison = s.poison ∧ t.out = s.out ∧
          ∀ i : Fin 64, t.fns[i] = { s.fns[i] with aer := s.fns[i].aer + if a.use = .host ∧ a.fn = i.val then 1 else 0 }))) := by
  intro unit held bytes does
  let d : State := (s.doing (.openSlotService a)).noteServed a.phys a.write false
  have hdoes {P : State → Prop} {t : State} (ht : d.serveOpen a = t)
      (hp : P t) : does P := ⟨t, by rw [s.exec_openSlotService hslot, ht], hp⟩
  have hreply (r : Reply) : s.Same (d.reply r) :=
    ⟨rfl, rfl, rfl, rfl, rfl, rfl⟩
  refine ⟨fun hw hbad hsoft => ⟨fun hm => ⟨fun hu => ?_, fun p hu => ?_⟩, fun hm => ⟨fun hu => ?_, fun p hu => ?_⟩⟩,
    fun hw hu => ⟨fun hlen => ?_, fun hlen hfit hbad hsoft => ⟨fun hm => ?_, fun hm => ?_⟩⟩⟩
  · exact hdoes (State.serveOpen_read_host (s := d) hw hbad hsoft hu (poisonMark_isNone hm)) ⟨hreply _, rfl⟩
  · exact hdoes (State.serveOpen_read_peer (s := d) hw hbad hsoft hu (poisonMark_isNone hm)) ⟨hreply _, rfl⟩
  · exact hdoes (State.serveOpen_read_host (s := d) hw hbad hsoft hu (poisonMark_isSome hm)) ⟨hreply _, rfl⟩
  · exact hdoes (State.serveOpen_read_peer (s := d) hw hbad hsoft hu (poisonMark_isSome hm)) ⟨hreply _, rfl⟩
  · exact hdoes (State.serveOpen_whole hw hu hlen) ⟨fun hwf => State.plainUnit_writeUnit hwf _ _ hlen,
      fun _ hb => State.writeUnit_elsewhere _ _ hb _, State.writeUnit_poison _ _ _ _, State.writeUnit_cores ..,
      State.writeUnit_parts .., State.writeUnit_out ..⟩
  · exact hdoes (State.serveOpen_merge hw hu hlen hbad hsoft hm)
      ⟨fun hwf => State.plainUnit_writeUnit hwf _ _ (State.length_mergedUnit hfit),
        fun _ hb => State.writeUnit_elsewhere _ _ hb _, State.writeUnit_cores .., State.writeUnit_parts .., State.writeUnit_out ..⟩
  · refine hdoes (State.serveOpen_poisoned hw hu hlen hbad hsoft hm) ?_
    by_cases hh : a.use = .host
    · simp only [hh, if_true, true_and]
      exact ⟨⟨rfl, rfl, rfl, rfl, rfl, rfl⟩, rfl, rfl, fun i => State.modFn_aer _ a.fn i⟩
    · simp only [hh, if_false, false_and]
      exact ⟨⟨rfl, rfl, rfl, rfl, rfl, rfl⟩, rfl, rfl, fun _ => rfl⟩

/-! ### A pigeonhole is written (R80, R245) -/

/-- Without another write to come, the word is written. -/
theorem State.exec_pigeonholeWrite (s : State) (p n : Nat) (w : Word)
    (h : ∀ x ∈ s.due, ∀ p k v, x.what ≠ .pigeonholeWrite p k v) :
    exec .pigeonholeWrite (s.doing (.pigeonholeWrite p n w)) = .next ((s.doing (.pigeonholeWrite p n w)).pigWrite p n w) := by
  show execPigeonholeWrite (s.doing (.pigeonholeWrite p n w)) = _
  simp only [execPigeonholeWrite, State.doing]
  rw [List.filter_eq_nil_iff.2 fun x hx => ?_]
  · rfl
  · have hx := h x hx
    split
    next p' k v hw => exact absurd hw (hx p' k v)
    · simp

theorem State.pigeonholeWrite_holds (s : State) (q : Part) (n : Nat) (w : Word) (hq : s.part q.num = some q)
    (h : ∀ x ∈ s.due, ∀ p k v, x.what ≠ .pigeonholeWrite p k v) :
    s.Does .pigeonholeWrite (.pigeonholeWrite q.num n w) fun t =>
      (∃ r, t.part q.num = some r ∧ r.pigLive = q.pigLive.setIfInBounds n w ∧ r.pigLatched = q.pigLatched) ∧
      (∀ p, p ≠ q.num → t.part p = s.part p) ∧ t.cores = s.cores ∧ t.dram = s.dram ∧ t.due = s.due :=
  ⟨_, s.exec_pigeonholeWrite q.num n w h, ⟨_, State.part_modPart_self (fun _ => rfl) hq, rfl, rfl⟩,
    fun _ hp => State.part_modPart_ne (fun _ => rfl) hp, rfl, rfl, rfl⟩

end Sys2Proof.Machine
end

section
/-! The rules of the memory slots: column words, open rows, the units of a request by channel (R261 to R264, O40). -/
namespace Sys2Proof.Machine

/-! ### Sorting by a number -/

theorem insertBy_key {α : Type} (f : α → Nat) (x : α) {xs : List α} (h : xs.Pairwise fun a b => f a ≤ f b) :
    (insertBy (fun a b => decide (f a < f b)) x xs).Pairwise fun a b => f a ≤ f b := by
  induction xs with
  | nil => exact List.pairwise_singleton ..
  | cons y ys ih =>
    obtain ⟨hy, hys⟩ := List.pairwise_cons.1 h
    unfold insertBy
    split
    case isTrue hxy =>
      have hxy : f x < f y := by simpa using hxy
      refine List.pairwise_cons.2 ⟨fun z hz => ?_, h⟩
      rcases List.mem_cons.1 hz with rfl | hz
      · exact hxy.le
      · exact hxy.le.trans (hy z hz)
    case isFalse hxy =>
      have hxy : f y ≤ f x := by simpa using hxy
      refine List.pairwise_cons.2 ⟨fun z hz => ?_, ih hys⟩
      rcases List.mem_cons.1 ((insertBy_perm _ x ys).mem_iff.1 hz) with rfl | hz
      · exact hxy
      · exact hy z hz

/-- A list sorted by a number rises in it, elements of one number side by side. -/
theorem sortBy_key {α : Type} (f : α → Nat) (xs : List α) :
    (sortBy (fun a b => decide (f a < f b)) xs).Pairwise fun a b => f a ≤ f b := by
  induction xs with
  | nil => exact .nil
  | cons x xs ih => exact insertBy_key f x ih

/-! ### The words of a slot (R261) -/

theorem Timeline.colAt_toNat (t : Timeline) (k : Nat) :
    (t.colAt k).toNat = (wordAt t.colSpans (k % t.slots)).elim 0 fun x => x.2.2.toNat := by
  unfold Timeline.colAt
  cases wordAt t.colSpans (k % t.slots) <;> rfl

/-- Whether a row word opens or closes a bank: it names the bank, or is for all. -/
def rowNames (bank : Nat) (x : Nat × Nat × Word) : Bool :=
  decide (wordCode x.2.2 = 3) || (decide (wordCode x.2.2 = 1 ∨ wordCode x.2.2 = 2) && decide (wordBank x.2.2 = bank))

/-- The row that a word naming a bank leaves open in it. -/
def rowLeft (x : Nat × Nat × Word) : Option Nat := if wordCode x.2.2 = 1 then some (wordRow x.2.2) else none

theorem bankAfter_append (bank : Nat) (xs ys : List (Nat × Nat × Word)) (start : Option Nat) :
    bankAfter bank (xs ++ ys) start = bankAfter bank ys (bankAfter bank xs start) := List.foldl_append

theorem bankAfter_singleton (bank : Nat) (x : Nat × Nat × Word) (start : Option Nat) :
    bankAfter bank [x] start = if rowNames bank x then rowLeft x else start := by
  simp only [bankAfter, List.foldl_cons, List.foldl_nil]
  split
  case h_1 h => simp [rowNames, rowLeft, h]
  case h_2 h => simp [rowNames, rowLeft, h]
  case h_3 h => simp [rowNames, rowLeft, h]
  case h_4 h1 h2 h3 =>
    have hnone : rowNames bank x = false := by
      simp [rowNames, show wordCode x.2.2 ≠ 1 from h1, show wordCode x.2.2 ≠ 2 from h2, show wordCode x.2.2 ≠ 3 from h3]
    rw [hnone]
    rfl

/-- The last word that names a bank says what stands open in it. -/
theorem bankAfter_eq (bank : Nat) (xs : List (Nat × Nat × Word)) (start : Option Nat) :
    bankAfter bank xs start = (xs.filter (rowNames bank)).getLast?.elim start rowLeft := by
  induction xs using List.reverseRecOn with
  | nil => rfl
  | append_singleton xs x ih =>
    rw [bankAfter_append, bankAfter_singleton, List.filter_append, List.getLast?_append, ih]
    by_cases h : rowNames bank x <;> simp [h]

theorem Timeline.openRow_eq (t : Timeline) (bank k : Nat) : t.openRow bank k =
    ((((if k < t.slots then [] else t.rowSpans) ++ t.rowSpans.filter fun x => decide (x.1 ≤ k % t.slots)).filter
      (rowNames bank)).getLast?).bind rowLeft := by
  have hbefore : (if k < t.slots then none else bankAfter bank t.rowSpans none) =
      bankAfter bank (if k < t.slots then [] else t.rowSpans) none := by split <;> rfl
  rw [Timeline.openRow]
  simp only [hbefore]
  rw [← bankAfter_append, bankAfter_eq]
  cases (List.filter _ _).getLast? <;> rfl

/-! ### The units of a request, and the rule that one breaks (R264) -/

theorem MemReq.mem_units {r : MemReq} {p : Nat} : p ∈ r.units ↔ p / 64 ∈ unitsOf r.phys r.size ∧ p % 64 = 0 := by
  rw [MemReq.units, List.mem_map]
  constructor
  · rintro ⟨u, hu, rfl⟩
    exact ⟨by rwa [Nat.mul_div_cancel_left u (by decide)], by omega⟩
  · rintro ⟨hu, hp⟩
    exact ⟨p / 64, hu, by omega⟩

theorem MemReq.forall_units {r : MemReq} {P : Nat → Prop} : (∀ p ∈ r.units, P p) ↔ ∀ u ∈ unitsOf r.phys r.size, P (64 * u) := by
  simp [MemReq.units]

theorem MemReq.on_eq (r : MemReq) (stack chan : Nat) : r.on stack chan =
    (unitsOf r.phys r.size).any fun u => stackOf (64 * u) == stack && chanOf (64 * u) == chan := by
  rw [MemReq.on, MemReq.units, List.any_map]
  rfl

/-- The units of a request in the order of their pseudo-channels. -/
def MemReq.byChan (r : MemReq) : List Nat := sortBy (fun a b => decide (chanOf a < chanOf b)) r.units

theorem MemReq.mem_byChan {r : MemReq} {p : Nat} : p ∈ r.byChan ↔ p ∈ r.units := (sortBy_perm _ r.units).mem_iff

section
variable {s : State} {q : Part} {all : List MemReq} {r : MemReq} {k : Nat}

/-- A request breaks no rule exactly when no unit of it does. -/
theorem State.requestRule_none_iff : s.requestRule q all (some k) r = none ↔ ∀ p ∈ r.units, s.unitRule q all k r p = none := by
  show r.byChan.findSome? _ = none ↔ _
  simp only [List.findSome?_eq_none_iff, Option.map_eq_none_iff, MemReq.mem_byChan]

/-- The rule of a request is that of its unit on the lowest pseudo-channel that breaks one. -/
theorem State.requestRule_some {rule p : Nat} (h : s.requestRule q all (some k) r = some (rule, p)) :
    p ∈ r.units ∧ s.unitRule q all k r p = some rule ∧
      ∀ p' ∈ r.units, chanOf p' < chanOf p → s.unitRule q all k r p' = none := by
  change r.byChan.findSome? _ = _ at h
  obtain ⟨before, a, after, hsplit, ha, hbefore⟩ := List.findSome?_eq_some_iff.1 h
  obtain ⟨rule', hrule, heq⟩ := Option.map_eq_some_iff.1 ha
  obtain ⟨rfl, rfl⟩ := Prod.mk.inj heq
  have hrises : r.byChan.Pairwise fun a b => chanOf a ≤ chanOf b := sortBy_key chanOf r.units
  rw [hsplit, List.pairwise_append] at hrises
  obtain ⟨-, hafter, -⟩ := hrises
  refine ⟨MemReq.mem_byChan.1 (by simp [hsplit]), hrule, fun p' hp' hlt => ?_⟩
  rw [← MemReq.mem_byChan, hsplit] at hp'
  rcases List.mem_append.1 hp' with hp' | hp'
  · simpa using hbefore p' hp'
  · rcases List.mem_cons.1 hp' with rfl | hp'
    · omega
    · have := (List.pairwise_cons.1 hafter).1 p' hp'
      omega

/-- A cycle without a slot: rule 1, of the first unit by channel. -/
theorem State.requestRule_idle_none_iff : s.requestRule q all none r = none ↔ r.size = 0 := by
  have hlen : r.byChan.length = (r.size + 63) / 64 := by
    rw [MemReq.byChan, (sortBy_perm _ r.units).length_eq]
    simp [MemReq.units, unitsOf]
  show r.byChan.head?.map _ = none ↔ _
  rw [Option.map_eq_none_iff, List.head?_eq_none_iff, ← List.length_eq_zero_iff, hlen]
  omega

theorem State.requestRule_idle_some {rule p : Nat} (h : s.requestRule q all none r = some (rule, p)) :
    rule = 1 ∧ p ∈ r.units ∧ ∀ p' ∈ r.units, chanOf p ≤ chanOf p' := by
  change r.byChan.head?.map _ = _ at h
  obtain ⟨a, ha, heq⟩ := Option.map_eq_some_iff.1 h
  obtain ⟨rfl, rfl⟩ := Prod.mk.inj heq
  obtain ⟨rest, hrest⟩ := List.head?_eq_some_iff.1 ha
  have hrises : r.byChan.Pairwise fun a b => chanOf a ≤ chanOf b := sortBy_key chanOf r.units
  rw [hrest, List.pairwise_cons] at hrises
  refine ⟨rfl, MemReq.mem_byChan.1 (by simp [hrest]), fun p' hp' => ?_⟩
  rw [← MemReq.mem_byChan, hrest] at hp'
  rcases List.mem_cons.1 hp' with rfl | hp'
  · exact le_rfl
  · exact hrises.1 p' hp'

/-- The conditions of rules 2 and 4 to 8, on a unit that lies on the partition's channel n. -/
theorem State.unitRule_of_chan {p n : Nat} (hn : q.chanNo (stackOf p) (chanOf p) = some n) : s.unitRule q all k r p =
    let w := ((s.timelineOf q n).colAt k).toNat
    if w / 2 ^ 28 ≠ 8 ∧ w / 2 ^ 28 ≠ 9 then some 2
    else if 2 ≤ (all.filter fun x => x.on (stackOf p) (chanOf p)).length then some 8
    else if (r.write = true ∧ w / 2 ^ 28 = 8) ∨ (r.write = false ∧ w / 2 ^ 28 = 9) then some 4
    else if w / 2 ^ 18 % 2 ^ 2 ≠ r.kind ∨ w / 2 ^ 8 % 2 ^ 9 ≠ r.source then some 5
    else if w / 2 ^ 24 % 2 ^ 4 ≠ p / 2 ^ 14 % 2 ^ 4 ∨ w / 2 ^ 20 % 2 ^ 4 ≠ p / 2 ^ 10 % 2 ^ 4 then some 6
    else if (s.timelineOf q n).openRow (p / 2 ^ 14 % 2 ^ 4) k ≠ some (p / 2 ^ 18 % 2 ^ 16) then some 7
    else none := by
  extract_lets w
  rw [State.unitRule, hn]
  show (if w / 2 ^ 28 ≠ 8 ∧ w / 2 ^ 28 ≠ 9 then some 2 else _) = _
  by_cases hcode : w / 2 ^ 28 ≠ 8 ∧ w / 2 ^ 28 ≠ 9
  · rw [if_pos hcode, if_pos hcode]
  · have hdir : (r.write != (wordCode ((s.timelineOf q n).colAt k) == 9)) = true ↔
        (r.write = true ∧ w / 2 ^ 28 = 8) ∨ (r.write = false ∧ w / 2 ^ 28 = 9) := by
      have hcode' : w / 2 ^ 28 = 8 ∨ w / 2 ^ 28 = 9 := by omega
      show (r.write != (w / 2 ^ 28 == 9)) = true ↔ _
      generalize w / 2 ^ 28 = code at hcode'
      rcases hcode' with h | h <;> cases r.write <;> simp [h]
    rw [if_neg hcode, if_neg hcode]
    simp only [hdir]
    rfl

end

/-! ### The words that no request meets (R264) -/

theorem Part.mem_unmet {q : Part} {all : List MemReq} {k n : Nat} {w : Word} : (n, w) ∈ q.unmet all k ↔ ∃ tl ∈ q.timelines,
    tl.chan = n ∧ w = tl.colAt k ∧ (wordCode w = 8 ∨ wordCode w = 9) ∧ wordOpt w = false ∧
      ∀ x ∈ all, x.on (q.chanAt n).1 (q.chanAt n).2 = false := by
  rw [Part.unmet, List.mem_filterMap]
  refine exists_congr fun tl => and_congr_right fun _ => ?_
  simp only [Option.ite_none_right_eq_some, Option.some.injEq, Prod.mk.injEq, List.any_eq_true, not_exists, not_and,
    Bool.not_eq_true]
  constructor
  · rintro ⟨⟨hcode, hopt, hmet⟩, rfl, rfl⟩
    exact ⟨rfl, rfl, hcode, hopt, hmet⟩
  · rintro ⟨rfl, rfl, hcode, hopt, hmet⟩
    exact ⟨⟨hcode, hopt, hmet⟩, rfl, rfl⟩

end Sys2Proof.Machine
end

section
/-! What a read of device memory gives, and where its bytes go: counted errors, words of a row, deliveries (R230, R267, O40). -/
namespace Sys2Proof.Machine

/-! ### Words of bytes -/

/-- The little-endian word that stands k words into a list of bytes. -/
def wordVal (bs : List Byte) (k : Nat) : Nat := (bs.getD (4 * k) 0).toNat + 2 ^ 8 * (bs.getD (4 * k + 1) 0).toNat +
  2 ^ 16 * (bs.getD (4 * k + 2) 0).toNat + 2 ^ 24 * (bs.getD (4 * k + 3) 0).toNat

theorem exists_four {α : Type} {n : Nat} {bs : List α} (h : bs.length = 4 * (n + 1)) :
    ∃ a b c d rest, bs = a :: b :: c :: d :: rest ∧ rest.length = 4 * n := by
  rcases bs with _ | ⟨a, _ | ⟨b, _ | ⟨c, _ | ⟨d, rest⟩⟩⟩⟩ <;> simp only [List.length_nil, List.length_cons] at h
  case cons.cons.cons.cons => exact ⟨a, b, c, d, rest, rfl, by omega⟩
  all_goals omega

theorem toNat_leNat_four (a b c d : Byte) : (BitVec.ofNat 32 (leNat [a, b, c, d])).toNat =
    a.toNat + 2 ^ 8 * b.toNat + 2 ^ 16 * c.toNat + 2 ^ 24 * d.toNat := by
  have ha := a.isLt
  have hb := b.isLt
  have hc := c.isLt
  have hd := d.isLt
  simp only [leNat, BitVec.toNat_ofNat]
  omega

theorem wordVal_succ (a b c d : Byte) (rest : List Byte) (k : Nat) :
    wordVal (a :: b :: c :: d :: rest) (k + 1) = wordVal rest k := rfl

theorem length_wordsOf {n : Nat} {bs : List Byte} (h : bs.length = 4 * n) : (wordsOf bs).length = n := by
  induction n generalizing bs with
  | zero => rw [List.eq_nil_of_length_eq_zero h]; rfl
  | succ n ih =>
    obtain ⟨a, b, c, d, rest, rfl, hrest⟩ := exists_four h
    rw [wordsOf, List.length_cons, ih hrest]

/-- The words of a row are the little-endian words of its bytes. -/
theorem toNat_getD_wordsOf {n k : Nat} {bs : List Byte} (h : bs.length = 4 * n) (hk : k < n) :
    ((wordsOf bs).getD k 0).toNat = wordVal bs k := by
  induction n generalizing bs k with
  | zero => omega
  | succ n ih =>
    obtain ⟨a, b, c, d, rest, rfl, hrest⟩ := exists_four h
    cases k with
    | zero => exact toNat_leNat_four a b c d
    | succ k => exact (ih hrest (by omega) : ((wordsOf rest).getD k 0).toNat = wordVal rest k)

theorem wordVal_slice (bs : List Byte) {i k : Nat} (hk : k < 64) :
    wordVal ((bs.drop (256 * i)).take 256) k = wordVal bs (64 * i + k) := by
  have hbyte (j : Nat) (hj : j < 256) : ((bs.drop (256 * i)).take 256).getD j 0 = bs.getD (256 * i + j) 0 := by
    simp [List.getD_eq_getElem?_getD, List.getElem?_take_of_lt hj, List.getElem?_drop]
  simp only [wordVal, hbyte (4 * k) (by omega), hbyte (4 * k + 1) (by omega), hbyte (4 * k + 2) (by omega),
    hbyte (4 * k + 3) (by omega), show 256 * i + 4 * k = 4 * (64 * i + k) by omega, ← Nat.add_assoc]

theorem lane_lanesOf (ws : List Word) {k : Nat} (h : k < 256) : lane (lanesOf ws) k = ws.getD k 0 := by
  simp [lane, lanesOf, h]

/-! ### Errors are counted (R267, R408) -/

/-- Steps that hold no access of a near-memory command. -/
def Quiet (xs : List Timed) : Prop := ∀ (q : Part), ∀ x ∈ xs, q.nmUnits x.what = none

theorem Quiet.append {xs ys : List Timed} (hx : Quiet xs) (hy : Quiet ys) : Quiet (xs ++ ys) := fun q x h =>
  (List.mem_append.1 h).elim (hx q x) (hy q x)

/-- Events are counted, and what the prefect does about them is on its way; nothing else changes. -/
def State.Counts (s t : State) : Prop := ∃ es vs ds, t = { s with errs := es, svcs := vs, due := s.due ++ ds } ∧ Quiet ds

theorem State.Counts.refl (s : State) : s.Counts s := ⟨s.errs, s.svcs, [], by simp, by simp [Quiet]⟩

theorem State.Counts.trans {s t u : State} (h : s.Counts t) (h' : t.Counts u) : s.Counts u := by
  obtain ⟨_, _, ds, rfl, hds⟩ := h
  obtain ⟨es, vs, ds', rfl, hds'⟩ := h'
  exact ⟨es, vs, ds ++ ds', by simp, hds.append hds'⟩

theorem State.Counts.ite {s t u : State} {c : Prop} [Decidable c] (ht : s.Counts t) (hu : s.Counts u) :
    s.Counts (if c then t else u) := by
  split
  · exact ht
  · exact hu

theorem State.Notes.counts {s t : State} {v : Service} (h : s.Notes t v) (es : List ErrRec) : s.Counts { t with errs := es } := by
  obtain ⟨vs, ds, rfl, hds⟩ := h.rest
  refine ⟨es, vs, ds, rfl, fun q x hx => ?_⟩
  obtain ⟨v, hv⟩ := hds x hx
  rw [hv]
  rfl

theorem State.counts_schedG_lasting (s : State) (d : Nat) (key : List Nat) (u : ErrUnit) :
    s.Counts (s.schedG d key (.errorLasting u)) := by
  refine ⟨s.errs, s.svcs, _, rfl, fun q x hx => ?_⟩
  rw [List.mem_singleton.1 hx]
  rfl

theorem State.countErr_counts (s : State) (u : ErrUnit) (hard : Bool) : s.Counts (s.countErr u hard) := by
  have hjournal := (s.journal_notes .prefect .errorCount).counts
  unfold State.countErr
  extract_lets errs n _ s' port
  exact .ite ((hjournal errs).trans (s'.counts_schedG_lasting ..)) (hjournal errs)

theorem State.unitErrors_counts (s : State) (unit : Nat) : s.Counts (s.unitErrors unit).1 := by
  unfold State.unitErrors
  split
  · exact s.countErr_counts ..
  · exact .ite (s.countErr_counts ..) (.refl s)

theorem State.unitsErrors_counts (s : State) (us : List Nat) : s.Counts (s.unitsErrors us).1 := by
  induction us generalizing s with
  | nil => exact .refl s
  | cons u us ih => exact (s.unitErrors_counts u).trans (ih _)

/-- A block comes back good exactly when its unit has no uncorrectable error and no mark. -/
theorem State.unitErrors_none_iff (s : State) (unit : Nat) :
    (s.unitErrors unit).2 = none ↔ unit ∉ s.dramBad ∧ ∀ p ∈ s.poison, p.1 ≠ unit := by
  unfold State.unitErrors
  by_cases hbad : unit ∈ s.dramBad
  · simp [hbad]
  · simp [hbad, List.find?_eq_none]

theorem State.unitsErrors_none_iff (s : State) (us : List Nat) :
    (s.unitsErrors us).2 = none ↔ ∀ u ∈ us, u ∉ s.dramBad ∧ ∀ p ∈ s.poison, p.1 ≠ u := by
  induction us generalizing s with
  | nil => simp [State.unitsErrors]
  | cons u us ih =>
    obtain ⟨es, vs, ds, hs, -⟩ := s.unitErrors_counts u
    have hrest := ih (s.unitErrors u).1
    rw [hs] at hrest
    rw [State.unitsErrors]
    rw [Option.orElse_eq_none, s.unitErrors_none_iff u, hs, hrest, List.forall_mem_cons]

theorem State.unitsErrors_sound {s : State} (hbad : s.dramBad = []) (hsoft : s.dramSoft = []) (us : List Nat) :
    (s.unitsErrors us).1 = s := by
  induction us with
  | nil => rfl
  | cons u us ih =>
    show ((s.unitErrors u).1.unitsErrors us).1 = s
    rw [State.unitErrors_sound hbad hsoft, ih]

theorem length_flatMap_plainUnit (s : State) (key : BitVec 512) (us : List Nat) :
    (us.flatMap (s.plainUnit key)).length = 64 * us.length := by
  induction us with
  | nil => rfl
  | cons u us ih => rw [List.flatMap_cons, List.length_append, State.length_plainUnit, ih, List.length_cons]; omega

/-- A read of device memory gives the bytes of its units as they stand. -/
theorem State.readDevice_eq (s : State) (key : BitVec 512) (phys size : Nat) : s.readDevice key phys size =
    ((s.unitsErrors (unitsOf phys size)).1, (((unitsOf phys size).flatMap (s.plainUnit key)).drop (phys % 64)).take size,
      (s.unitsErrors (unitsOf phys size)).2) := by
  obtain ⟨es, vs, ds, hs, -⟩ := s.unitsErrors_counts (unitsOf phys size)
  have hplain : (s.unitsErrors (unitsOf phys size)).1.plainUnit key = s.plainUnit key :=
    funext fun u => State.plainUnit_congr (by rw [hs]) key u
  rw [State.readDevice]
  simp only [hplain]

/-! ### Deliveries -/

/-- The flit of one row of an answer to another package. -/
def State.answerFlit (s : State) (o : Origin) (at_ : Nat) (data : List Byte) (bad : Option ErrUnit) (i : Nat) : Flit :=
  { s.flit (s.route o.from_).2 at_ o.source o.start with
    from_ := o.from_, reply := true, rank := o.rank, elem := o.elem, idx := i,
    row := some (rowOfBytes ((data.drop (256 * i)).take 256) none bad) }

/-- The pending step at which a flit of the present access takes its slot. -/
def State.flitStep (s : State) (window : Nat) (f : Flit) : Timed :=
  s.pend window [70, if f.transit then 0 else 1, f.rank, f.source, f.start, f.elem, f.idx] (.flitSlotPlacement f)

/-- An answer leaves one flit for each of its rows. -/
theorem State.foldl_answer (s : State) (o : Origin) (at_ : Nat) (data : List Byte) (bad : Option ErrUnit) (is : List Nat) :
    is.foldl (fun s i => s.placeFlit at_ (s.answerFlit o at_ data bad i)) s =
      { s with due := s.due ++ is.map fun i => s.flitStep at_ (s.answerFlit o at_ data bad i) } := by
  induction is generalizing s with
  | nil => simp
  | cons i is ih =>
    rw [List.foldl_cons, ih]
    show { s with due := (s.due ++ [s.flitStep at_ (s.answerFlit o at_ data bad i)]) ++ _ } = _
    rw [List.append_assoc]
    rfl

theorem State.deliver_remote (s : State) (o : Origin) (at_ : Nat) (data : List Byte) (bad : Option ErrUnit) :
    let steps := (List.range (max 1 (data.length / 256))).map fun i => s.flitStep at_ (s.answerFlit o at_ data bad i)
    s.deliver (.remote o at_) data bad = { s with due := s.due ++ steps } := s.foldl_answer o at_ data bad _

end Sys2Proof.Machine
end

section
/-! A memory slot serves its request (R230, R264, R267): the deliveries, and the slots after them (O40). -/
namespace Sys2Proof.Machine

/-! ### What a delivery leaves as it is -/

theorem Part.nmUnits_none {q q' : Part} {w : Work} (h : q.nmUnits w = none) : q'.nmUnits w = none := by
  unfold Part.nmUnits at h ⊢
  split at h <;> simp_all

theorem Part.quiet {q : Part} {xs : List Timed} (h : ∀ x ∈ xs, q.nmUnits x.what = none) : Quiet xs :=
  fun _ x hx => Part.nmUnits_none (h x hx)

theorem Quiet.concat {xs : List Timed} {x : Timed} (h : Quiet xs) (hx : ∀ q : Part, q.nmUnits x.what = none) : Quiet (xs ++ [x]) :=
  h.append fun q y hy => by rw [List.mem_singleton.1 hy, hx]

/-- A delivery to a command's ancestry table changes that command's step alone. -/
theorem Quiet.map {xs : List Timed} {f : Timed → Timed} (h : Quiet xs)
    (hf : ∀ (q : Part) x, q.nmUnits x.what = none → q.nmUnits (f x).what = none) : Quiet (xs.map f) := by
  intro q y hy
  obtain ⟨x, hx, rfl⟩ := List.mem_map.1 hy
  exact hf q x (h q x hx)

section
variable (s : State) (c : Cmd)

theorem State.runEntry_reqs (i : Nat) (data : List Byte) : (s.runEntry c i data).reqs = s.reqs := by
  unfold State.runEntry
  extract_lets
  split_ifs <;> rfl

theorem State.runEntry_quiet (i : Nat) (data : List Byte) (h : Quiet s.due) : Quiet (s.runEntry c i data).due := by
  unfold State.runEntry
  extract_lets
  split_ifs
  · exact h
  · exact h
  · exact h
  · exact h
  · exact h.concat fun _ => rfl

theorem State.sendRow_reqs (e : Nat) (r : Row) : (s.sendRow c e r).reqs = s.reqs := by
  unfold State.sendRow State.toPort
  extract_lets
  split <;> rfl

theorem State.sendRow_quiet (e : Nat) (r : Row) (h : Quiet s.due) : Quiet (s.sendRow c e r).due := by
  unfold State.sendRow State.toPort
  extract_lets
  split <;> exact h.concat fun _ => rfl

end

section
variable (s : State) (sink : Sink) (data : List Byte) (bad : Option ErrUnit)

theorem State.deliver_reqs : (s.deliver sink data bad).reqs = s.reqs := by
  cases sink with
  | outbound c e at_ => simp only [State.deliver]; split <;> rfl
  | entry c i => exact s.runEntry_reqs c i data
  | send c e => exact s.sendRow_reqs c e _
  | remote o at_ => rw [s.deliver_remote]
  | _ => rfl

theorem State.deliver_quiet (h : Quiet s.due) : Quiet (s.deliver sink data bad).due := by
  cases sink with
  | outbound c e at_ => simp only [State.deliver]; split <;> exact h.concat fun _ => rfl
  | entry c i => exact s.runEntry_quiet c i data h
  | send c e => exact s.sendRow_quiet c e _ h
  | remote o at_ =>
    rw [s.deliver_remote]
    refine h.append fun q x hx => ?_
    obtain ⟨i, -, rfl⟩ := List.mem_map.1 hx
    rfl
  | parents c e =>
    refine h.map fun q x hx => ?_
    split
    · split
      · rfl
      · exact hx
    · exact hx
  | _ => exact h.concat fun _ => rfl

/-- A delivery that no command's core has to act on only leaves pending steps. -/
theorem State.deliver_same (h : ∀ c e, sink ≠ .entry c e ∧ sink ≠ .send c e) : s.Same (s.deliver sink data bad) := by
  cases sink with
  | outbound c e at_ => simp only [State.deliver]; split <;> exact ⟨rfl, rfl, rfl, rfl, rfl, rfl⟩
  | entry c i => exact absurd rfl (h c i).1
  | send c e => exact absurd rfl (h c e).2
  | remote o at_ => rw [s.deliver_remote]; exact ⟨rfl, rfl, rfl, rfl, rfl, rfl⟩
  | _ => exact ⟨rfl, rfl, rfl, rfl, rfl, rfl⟩

end

/-! ### A request is served (R230, R240) -/

/-- Every unit of a request is admitted by the access table of its stack's channel controllers. -/
def State.Open (s : State) (r : MemReq) : Prop := ∀ u ∈ unitsOf r.phys r.size, ∃ st e, s.hbm[stackOf (64 * u)]? = some st ∧
  e ∈ st.access ∧ e.part = r.part ∧ (if r.write then e.wr else e.rd) = true ∧ e.base ≤ chanOf (64 * u) ∧ chanOf (64 * u) ≤ e.limit

/-- The machine at work on a request. -/
def State.servingFor (s : State) (r : MemReq) : State := { s with cur := { s.cur with who := r.who } }

theorem State.Open.all {s : State} {r : MemReq} (h : s.Open r) : ((unitsOf r.phys r.size).all fun u =>
    admitted (s.hbm[stackOf (64 * u)]?.getD Stack.reset).access r.part r.write (chanOf (64 * u))) = true := by
  rw [List.all_eq_true]
  intro u hu
  obtain ⟨st, e, hst, he, hpart, hdir, hbase, hlimit⟩ := h u hu
  refine List.any_eq_true.2 ⟨e, by simpa [hst] using he, ?_⟩
  simp [AccessEntry.admits, hpart, hdir, hbase, hlimit]

theorem State.crossedBetween_sound {s : State} (h : s.linkErrs = []) (a b : Nat) : s.crossedBetween a b = none := by
  simp [State.crossedBetween, h]

section
variable {s : State} {q : Part} {r : MemReq} (hq : s.part r.part = some q) (hopen : s.Open r) (hlink : s.linkErrs = [])
include hq hopen hlink

/-- A write performs at its cycle. -/
theorem State.serve_write (hw : r.write = true) : s.serve r = { s.servingFor r with
    due := s.due ++ [{ clock := some r.part, due := r.performs, key := [90, 2], who := r.who,
                       what := .deviceWritePerform q.tenant (unitWrites r.phys r.key r.data) }] } := by
  have hall := hopen.all
  rw [hw] at hall
  have hcross := State.crossedBetween_sound (s := s.servingFor r) hlink
  simp only [State.serve]
  rw [if_neg (not_not.2 (by simpa only [hw] using hall))]
  simp only [State.servingFor] at hcross ⊢
  simp only [hcross, hw, if_true]
  rw [show State.part { s with cur := { s.cur with who := r.who } } r.part = some q from hq]
  rfl

/-- A read gives the bytes of its units to where they go. -/
theorem State.serve_read (hw : r.write = false) : s.serve r =
    ((s.servingFor r).unitsErrors (unitsOf r.phys r.size)).1.deliver r.sink
      ((((unitsOf r.phys r.size).flatMap (s.plainUnit (s.keyOf q.tenant r.key))).drop (r.phys % 64)).take r.size)
      ((s.servingFor r).unitsErrors (unitsOf r.phys r.size)).2 := by
  have hall := hopen.all
  rw [hw] at hall
  have hcross := State.crossedBetween_sound (s := s.servingFor r) hlink
  simp only [State.serve]
  rw [if_neg (not_not.2 (by simpa only [hw] using hall))]
  simp only [State.servingFor] at hcross ⊢
  simp only [hcross, hw, Bool.false_eq_true, if_false, State.readDevice_eq]
  rw [show State.part { s with cur := { s.cur with who := r.who } } r.part = some q from hq]
  rfl

end

end Sys2Proof.Machine
end

section
/-! Memory slots paired with their requests: one served, suppressed, or met by none (R264, O40). -/
namespace Sys2Proof.Machine

/-! ### The slot after the requests -/

/-- `t` is `s` with at most the partition's next memory slot added to what is pending. -/
def State.PairsNext (s t : State) (p : Nat) : Prop :=
  ∃ ds, t = { s with due := s.due ++ ds } ∧ ∀ x ∈ ds, x.what = .memorySlot p

theorem State.pairsNext_pairAt (s : State) (p c : Nat) : s.PairsNext (s.pairAt p c) p := by
  unfold State.pairAt
  split
  · exact ⟨[], by simp, by simp⟩
  · exact ⟨_, rfl, by simp⟩

theorem State.PairsNext.mono {s t : State} {p : Nat} (h : s.PairsNext t p) {c : Option Nat} {d : Nat} {w : Work}
    (hl : s.Later c d w) : t.Later c d w := by
  obtain ⟨ds, rfl, -⟩ := h
  exact hl.mono fun x hx => List.mem_append_left _ hx

/-- Where no near-memory access is pending, none meets a request. -/
theorem State.nmMet_quiet {s : State} (h : Quiet s.due) (q : Part) (all : List MemReq) : s.nmMet q all = [] := by
  refine List.filterMap_eq_nil_iff.2 fun x hx => ?_
  rw [h q x (List.mem_filter.1 hx).1]

/-- The state of a slot in which its requests have been taken. -/
def State.slotTaken (s : State) (q : Part) (rest : List MemReq) : State :=
  { s.doing (.memorySlot q.num) with reqs := rest }

/-- One request of a slot: served, or suppressed by the rule it breaks. -/
def State.pairStep (s : State) (q : Part) (all : List MemReq) (k : Nat) (s' : State) (r : MemReq) : State :=
  match s.requestRule q all (some k) r with
  | some (rule, p) => s'.suppress q all (some k) r rule p
  | none => s'.serve r

/-- The words of a slot that are recorded as met by no request: one of each source, on the lowest of its channels. -/
def Part.unmetFirst (q : Part) (all : List MemReq) (k : Nat) : List (Nat × Word) :=
  dedup (fun a b => wordKind a.2 == wordKind b.2 && wordSource a.2 == wordSource b.2)
    (sortBy (fun a b : Nat × Word => decide ((q.chanAt a.1).1 * 64 + (q.chanAt a.1).2 < (q.chanAt b.1).1 * 64 + (q.chanAt b.1).2))
      (q.unmet all k))

/-- Pairing a slot: its requests one after another, the records of the words that none met, the near-memory accesses that met
one, and the slot after it. -/
theorem State.pair_slot {s : State} {q : Part} {c k : Nat} (hk : slotAt c = some k) {all rest : List MemReq}
    (hall : s.reqs.filter (fun r => r.part == q.num && decide (r.cycle ≤ c)) = all)
    (hrest : s.reqs.filter (fun r => !(r.part == q.num && decide (r.cycle ≤ c))) = rest) {v : State}
    (hv : (q.unmetFirst all k).foldl (fun s x => s.unmetRecord q k x)
      (all.foldl (s.pairStep q all k) { s with reqs := rest }) = v) :
    let u := (v.nmMet q all).foldl (fun s m => s.nmSuppress q all k m) v
    s.pair q c = if q.timelines.isEmpty then u else u.pairAt q.num (slotCycle (k + 1)) := by
  subst hall hrest hv
  simp only [State.pair, hk]
  rfl

theorem State.exec_memorySlot (s : State) {q : Part} (hq : s.part q.num = some q) :
    exec .memorySlot (s.doing (.memorySlot q.num)) = .next ((s.doing (.memorySlot q.num)).pair q (q.ttc s.gtc)) := by
  show execMemorySlot (s.doing (.memorySlot q.num)) = _
  simp only [execMemorySlot, State.doing]
  rw [show State.part { s with cur := { s.cur with work := .memorySlot q.num } } q.num = some q from hq]

/-- What holds of the served, suppressed and recorded state, whatever slot comes next, holds after the step. -/
theorem State.memorySlot_does {s : State} {q : Part} {k : Nat} (hq : s.part q.num = some q)
    (hk : slotAt (q.ttc s.gtc) = some k) {all rest : List MemReq}
    (hall : s.reqs.filter (fun r => r.part == q.num && decide (r.cycle ≤ q.ttc s.gtc)) = all)
    (hrest : s.reqs.filter (fun r => !(r.part == q.num && decide (r.cycle ≤ q.ttc s.gtc))) = rest) {v : State}
    (hv : (q.unmetFirst all k).foldl (fun s x => s.unmetRecord q k x)
      (all.foldl (s.pairStep q all k) (s.slotTaken q rest)) = v) (hquiet : Quiet v.due) {P : State → Prop}
    (hP : ∀ t, v.PairsNext t q.num → P t) : s.Does .memorySlot (.memorySlot q.num) P := by
  have hpair := State.pair_slot (s := s.doing (.memorySlot q.num)) hk hall hrest hv
  rw [State.nmMet_quiet hquiet] at hpair
  refine ⟨_, s.exec_memorySlot hq, hP _ ?_⟩
  rw [hpair]
  split
  · exact ⟨[], by simp, by simp⟩
  · exact v.pairsNext_pairAt ..

end Sys2Proof.Machine
end

section
/-! Memory slots with one request: a write and a read served (R230, R264, R267, O40). -/
namespace Sys2Proof.Machine

theorem State.later_sched (s : State) (d : Nat) (key : List Nat) (w : Work) : (s.sched d key w).Later (some (s.partOf s.me)) d w :=
  ⟨_, List.mem_append_right _ (List.mem_singleton.2 rfl), rfl, rfl, rfl⟩

/-- The bytes that a request reads. -/
def State.readBytes (s : State) (q : Part) (r : MemReq) : List Byte :=
  (((unitsOf r.phys r.size).flatMap (s.plainUnit (s.keyOf q.tenant r.key))).drop (r.phys % 64)).take r.size

theorem State.length_readBytes (s : State) (q : Part) {r : MemReq} (h : r.phys % 64 + r.size ≤ 64 * ((r.size + 63) / 64)) :
    (s.readBytes q r).length = r.size := by
  rw [State.readBytes, List.length_take, List.length_drop, length_flatMap_plainUnit, unitsOf, List.length_map, List.length_range]
  omega

section
variable {s : State} {q : Part} {r : MemReq} {k : Nat}

/-- A slot whose one request breaks no rule that is not its own, and whose words all meet it. -/
theorem State.memorySlot_alone (hq : s.part q.num = some q) (hk : slotAt (q.ttc s.gtc) = some k) (hreqs : s.reqs = [r])
    (hpart : r.part = q.num) (hcycle : r.cycle = q.ttc s.gtc) (hunmet : q.unmet [r] k = []) {v : State}
    (hv : s.pairStep q [r] k (s.slotTaken q []) r = v) (hquiet : Quiet v.due) {P : State → Prop}
    (hP : ∀ t, v.PairsNext t q.num → P t) : s.Does .memorySlot (.memorySlot q.num) P := by
  have hfirst : q.unmetFirst [r] k = [] := by rw [Part.unmetFirst, hunmet]; rfl
  exact State.memorySlot_does hq hk (all := [r]) (rest := []) (by simp [hreqs, hpart, hcycle]) (by simp [hreqs, hpart, hcycle])
    (by rw [hfirst]; exact hv) hquiet hP

theorem State.pairStep_none {all : List MemReq} (h : s.requestRule q all (some k) r = none) (s' : State) :
    s.pairStep q all k s' r = s'.serve r := by rw [State.pairStep, h]

theorem State.pairStep_some {all : List MemReq} {rule p : Nat} (h : s.requestRule q all (some k) r = some (rule, p)) (s' : State) :
    s.pairStep q all k s' r = s'.suppress q all (some k) r rule p := by rw [State.pairStep, h]

/-- R230, R264: a write is served, and performs at its cycle. -/
theorem State.memorySlot_write (hq : s.part q.num = some q) (hk : slotAt (q.ttc s.gtc) = some k) (hreqs : s.reqs = [r])
    (hpart : r.part = q.num) (hcycle : r.cycle = q.ttc s.gtc) (hw : r.write = true) (hrule : s.requestRule q [r] (some k) r = none)
    (hlink : s.linkErrs = []) (hunmet : q.unmet [r] k = []) (hquiet : Quiet s.due) (hopen : s.Open r) :
    s.Does .memorySlot (.memorySlot q.num) fun t => t.reqs = [] ∧ s.Same t ∧
      t.Later (some q.num) r.performs (.deviceWritePerform q.tenant (unitWrites r.phys r.key r.data)) := by
  have hserve := State.serve_write (s := s.slotTaken q []) (r := r) (hpart ▸ hq) hopen hlink hw
  refine State.memorySlot_alone hq hk hreqs hpart hcycle hunmet ((State.pairStep_none hrule _).trans hserve)
    (hquiet.concat fun _ => rfl) fun t ht => ⟨?_, ?_, ht.mono ?_⟩
  · obtain ⟨ds, rfl, -⟩ := ht
    rfl
  · obtain ⟨ds, rfl, -⟩ := ht
    exact ⟨rfl, rfl, rfl, rfl, rfl, rfl⟩
  · exact ⟨_, List.mem_append_right _ (List.mem_singleton.2 rfl), congrArg some hpart, rfl, rfl⟩

end

/-! ### A read, by where it goes -/

section
variable {s u : State} {r : MemReq} {data : List Byte} {bad : Option ErrUnit}
  (hme : u.me = r.who.core) (hpart : u.partOf u.me = s.partOf r.who.core)
include hme hpart

theorem State.deliver_dreg_fault {n at_ : Nat} {b : ErrUnit} (hbad : bad = some b) :
    (u.deliver (.dreg n at_) data bad).Later (some (s.partOf r.who.core)) at_
      (.registerWrite r.who.core (.fault 0x30 (some b) [])) := by
  subst hbad
  rw [← hpart, ← hme]
  exact u.later_sched ..

theorem State.deliver_dreg_value {n at_ : Nat} (hbad : bad = none) :
    (u.deliver (.dreg n at_) data bad).Later (some (s.partOf r.who.core)) at_
      (.registerWrite r.who.core (.d n allLanes (lanesOf (wordsOf data)))) := by
  subst hbad
  rw [← hpart, ← hme]
  exact u.later_sched ..

theorem State.deliver_queue {n at_ : Nat} :
    (u.deliver (.queue n at_) data bad).Later (some (s.partOf r.who.core)) at_
      (.queueLoadAppend r.who.core n (rowOfBytes data none bad)) := by
  rw [← hpart, ← hme]
  exact u.later_sched ..

omit hme in
theorem State.deliver_inbound {c : Cmd} {e at_ : Nat} :
    (u.deliver (.inbound c e at_) data bad).Later (some (s.partOf r.who.core)) at_ (.engineElementArrival c e data bad) := by
  rw [← hpart]
  exact u.later_sched ..

omit hme in
theorem State.deliver_row {o : Origin} {at_ i : Nat} (hi : i < data.length / 256) :
    (u.deliver (.remote o at_) data bad).Later (some (s.partOf r.who.core)) at_
      (.flitSlotPlacement (u.answerFlit o at_ data bad i)) := by
  rw [u.deliver_remote, ← hpart]
  have hmem : i ∈ List.range (max 1 (data.length / 256)) := List.mem_range.2 (by omega)
  exact ⟨_, List.mem_append_right _ (List.mem_map.2 ⟨i, hmem, rfl⟩), rfl, rfl, rfl⟩

end

/-- The lanes of a register that bytes are loaded into hold their words, and 0 beyond them. -/
theorem lane_wordsOf {data : List Byte} {size : Nat} (hlen : data.length = size) (hsize : size % 4 = 0) {k : Nat} (hk : k < 256) :
    (lane (lanesOf (wordsOf data)) k).toNat = if 4 * k < size then wordVal data k else 0 := by
  have hfour : data.length = 4 * (size / 4) := by omega
  rw [lane_lanesOf _ hk]
  split
  · exact toNat_getD_wordsOf hfour (by omega)
  · rw [List.getD_eq_default _ _ (by rw [length_wordsOf hfour]; omega)]
    rfl

section
variable {s : State} {q : Part} {r : MemReq} {k : Nat}

/-- R230, R264, R267: a read is served: its bytes, poisoned or not, take their way. -/
theorem State.memorySlot_read (hq : s.part q.num = some q) (hk : slotAt (q.ttc s.gtc) = some k) (hreqs : s.reqs = [r])
    (hpart : r.part = q.num) (hcycle : r.cycle = q.ttc s.gtc) (hw : r.write = false)
    (hrule : s.requestRule q [r] (some k) r = none) (hlink : s.linkErrs = []) (hunmet : q.unmet [r] k = [])
    (hquiet : Quiet s.due) (hopen : s.Open r) {P : State → Prop}
    (hP : ∀ (u : State) (bad : Option ErrUnit) (t : State), u.me = r.who.core → u.partOf u.me = s.partOf r.who.core →
      u.route = s.route → (s.dramBad = [] → s.dramSoft = [] → s.Same u) → u.reqs = [] →
      (bad = none ↔ ∀ x ∈ unitsOf r.phys r.size, x ∉ s.dramBad ∧ ∀ p ∈ s.poison, p.1 ≠ x) →
      (u.deliver r.sink (s.readBytes q r) bad).PairsNext t q.num → P t) : s.Does .memorySlot (.memorySlot q.num) P := by
  let d : State := (s.slotTaken q []).servingFor r
  have hserve := State.serve_read (s := s.slotTaken q []) (r := r) (hpart ▸ hq) hopen hlink hw
  obtain ⟨es, vs, ds, hcount, hds⟩ := d.unitsErrors_counts (unitsOf r.phys r.size)
  have hdue : Quiet (d.unitsErrors (unitsOf r.phys r.size)).1.due := by
    rw [hcount]
    exact hquiet.append hds
  refine State.memorySlot_alone hq hk hreqs hpart hcycle hunmet ((State.pairStep_none hrule _).trans hserve)
    (State.deliver_quiet _ _ _ _ hdue) fun t ht => hP _ _ t ?_ ?_ ?_ (fun hbad hsoft => ?_) ?_ (d.unitsErrors_none_iff _) ht
  · rw [hcount]; rfl
  · rw [hcount]; rfl
  · rw [hcount]; rfl
  · rw [State.unitsErrors_sound (s := d) hbad hsoft]
    exact ⟨rfl, rfl, rfl, rfl, rfl, rfl⟩
  · rw [hcount]; rfl

end

end Sys2Proof.Machine
end

section
/-! The records of a memory slot: a rule broken, two requests that meet, a word that none meets (R264, R407, O40). -/
namespace Sys2Proof.Machine

theorem keyLt_asymm {a b : List Nat} (h : keyLt a b = true) : keyLt b a = false := by
  induction a generalizing b with
  | nil => cases b <;> simp_all [keyLt]
  | cons x xs ih =>
    cases b with
    | nil => simp [keyLt] at h
    | cons y ys =>
      simp only [keyLt] at h ⊢
      split_ifs at h ⊢ with h1 h2 h3
      · omega
      · rfl
      · exact ih h

/-- The words of one access concerned. -/
def Concern.words (c : Concern) : List Word := [sourceWord c.kind c.source, lo32 c.issue]

def Concern.key (c : Concern) : List Nat := [c.rank, c.kind, c.source]

/-- Two accesses concerned are named in the order of rank, kind and source (R407). -/
theorem concernWords_pair (a b : Concern) :
    concernWords [a, b] = if keyLt a.key b.key then a.words ++ b.words else b.words ++ a.words := by
  have hsort : sortBy (fun a b : Concern => keyLt [a.rank, a.kind, a.source] [b.rank, b.kind, b.source]) [a, b] =
      if keyLt a.key b.key then [a, b] else [b, a] := rfl
  rw [concernWords, hsort]
  split <;> rfl

/-- The record of a request that breaks a rule on channel n at slot k (R407). -/
def State.chanFault (s : State) (q : Part) (k n rule stack chan : Nat) (named : List MemReq) (r : MemReq) : FaultNow :=
  { code := 0x18, rank := s.rankOf r.who.core, src := 12, bundle := r.who.bundle, issue := some r.who.issue, blame := none,
    detail := [chanWord rule stack chan n, BitVec.ofNat 32 (k % (s.timelineOf q n).slots)] ++
      concernWords (named.map s.concern) }

section
variable {s : State} {q : Part} {all : List MemReq} {r : MemReq} {k n rule p : Nat}

/-- A request of a core that breaks a rule is recorded in its partition, and is not served. -/
theorem State.suppress_records (hn : q.chanNo (stackOf p) (chanOf p) = some n) (hkind : r.kind ≠ 2)
    (hcore : s.partOf r.who.core = q.num) : s.suppress q all (some k) r rule p = s.raisePart q.num
      (s.chanFault q k n rule (stackOf p) (chanOf p)
        (if rule = 8 then all.filter fun x => x.on (stackOf p) (chanOf p) else [r]) r) := by
  simp only [State.suppress, hn, Part.requester, if_neg hkind, State.raiseAt, State.raiseFor, hcore]
  rfl

theorem State.slotTaken_chanFault (rest named : List MemReq) (st ch : Nat) :
    (s.slotTaken q rest).chanFault q k n rule st ch named r = s.chanFault q k n rule st ch named r := rfl

theorem State.raisePart_chanFault (o : Nat) (f : FaultNow) (named : List MemReq) (st ch : Nat) :
    (s.raisePart o f).chanFault q k n rule st ch named r = s.chanFault q k n rule st ch named r := rfl

/-- R264: a request that breaks a rule is fault 0x18, and nothing else happens. -/
theorem State.memorySlot_breaks (hq : s.part q.num = some q) (hk : slotAt (q.ttc s.gtc) = some k) (hreqs : s.reqs = [r])
    (hpart : r.part = q.num) (hcycle : r.cycle = q.ttc s.gtc) (hrule : s.requestRule q [r] (some k) r = some (rule, p))
    (hunmet : q.unmet [r] k = []) (hquiet : Quiet s.due) (hn : q.chanNo (stackOf p) (chanOf p) = some n) (h8 : rule ≠ 8)
    (hkind : r.kind ≠ 2) (hcore : s.partOf r.who.core = q.num) :
    let f : FaultNow := s.chanFault q k n rule (stackOf p) (chanOf p) [r] r
    s.Does .memorySlot (.memorySlot q.num) fun t => t.reqs = [] ∧ t.cores = s.cores ∧ t.dram = s.dram ∧
      (∀ x ∈ t.due, x ∈ s.due ∨ x.what = .memorySlot q.num) ∧
      t.parts = (s.modPart q.num fun q => { q with faultsNow := q.faultsNow ++ [f] }).parts := by
  have hrecord := State.suppress_records (s := s.slotTaken q []) (all := [r]) (k := k) (rule := rule) hn hkind hcore
  rw [if_neg h8, State.slotTaken_chanFault] at hrecord
  refine State.memorySlot_alone hq hk hreqs hpart hcycle hunmet ((State.pairStep_some hrule _).trans hrecord) hquiet ?_
  rintro t ⟨ds, rfl, hds⟩
  exact ⟨rfl, rfl, rfl, fun x hx => (List.mem_append.1 hx).imp_right (hds x), rfl⟩

end

theorem State.modPart_modPart_parts (s : State) (p : Nat) {f : Part → Part} (g : Part → Part) (hf : ∀ q, (f q).num = q.num) :
    ((s.modPart p f).modPart p g).parts = (s.modPart p fun q => g (f q)).parts := by
  simp only [State.modPart, List.map_map]
  refine List.map_congr_left fun q _ => ?_
  by_cases h : q.num = p <;> simp [h, hf]

theorem State.raisePart_raisePart (s : State) (p : Nat) (f g : FaultNow) : ((s.raisePart p f).raisePart p g).parts =
    (s.modPart p fun q => { q with faultsNow := q.faultsNow ++ [f, g] }).parts := by
  refine (s.modPart_modPart_parts p (f := fun q => { q with faultsNow := q.faultsNow ++ [f] }) _ fun _ => rfl).trans ?_
  simp only [List.append_assoc]
  rfl

/-- A request has a unit on the pseudo-channel of a unit of it. -/
theorem MemReq.on_of_mem {r : MemReq} {p : Nat} (h : p / 64 ∈ unitsOf r.phys r.size) (hp : p % 64 = 0) :
    r.on (stackOf p) (chanOf p) = true :=
  List.any_eq_true.2 ⟨p, MemReq.mem_units.2 ⟨h, hp⟩, by simp⟩

section
variable {s : State} {q : Part} {r r' : MemReq} {k n p p' st ch : Nat}

/-- R264, rule 8: neither of two requests that meet is served, and each is a record that names both. -/
theorem State.memorySlot_meet (hq : s.part q.num = some q) (hk : slotAt (q.ttc s.gtc) = some k) (hreqs : s.reqs = [r, r'])
    (hown : ∀ x ∈ [r, r'], x.part = q.num ∧ x.cycle = q.ttc s.gtc ∧ x.kind ≠ 2 ∧ s.partOf x.who.core = q.num)
    (hrule : s.requestRule q [r, r'] (some k) r = some (8, p)) (hrule' : s.requestRule q [r, r'] (some k) r' = some (8, p'))
    (hp : stackOf p = st ∧ chanOf p = ch) (hp' : stackOf p' = st ∧ chanOf p' = ch) (hn : q.chanNo st ch = some n)
    (hon : r.on st ch = true) (hon' : r'.on st ch = true) (hunmet : q.unmet [r, r'] k = []) (hquiet : Quiet s.due) :
    let f (x : MemReq) : FaultNow := s.chanFault q k n 8 st ch [r, r'] x
    s.Does .memorySlot (.memorySlot q.num) fun t => t.reqs = [] ∧ t.cores = s.cores ∧ t.dram = s.dram ∧
      (∀ x ∈ t.due, x ∈ s.due ∨ x.what = .memorySlot q.num) ∧
      t.parts = (s.modPart q.num fun q => { q with faultsNow := q.faultsNow ++ [f r, f r'] }).parts := by
  intro f
  obtain ⟨rfl, rfl⟩ := hp
  obtain ⟨hst, hch⟩ := hp'
  obtain ⟨hpart, hcycle, hkind, hcore⟩ := hown r (by simp)
  obtain ⟨hpart', hcycle', hkind', hcore'⟩ := hown r' (by simp)
  have hfirst : q.unmetFirst [r, r'] k = [] := by rw [Part.unmetFirst, hunmet]; rfl
  have hmet : ([r, r'].filter fun x => x.on (stackOf p) (chanOf p)) = [r, r'] := by simp [hon, hon']
  have hone := State.suppress_records (s := s.slotTaken q []) (all := [r, r']) (k := k) (rule := 8) hn hkind hcore
  have htwo := State.suppress_records (s := (s.slotTaken q []).raisePart q.num (f r)) (all := [r, r']) (k := k) (rule := 8)
    (p := p') (by rw [hst, hch, hn]) hkind' hcore'
  rw [if_pos rfl, hmet, State.slotTaken_chanFault] at hone
  rw [if_pos rfl, State.raisePart_chanFault, State.slotTaken_chanFault, hst, hch, hmet] at htwo
  refine State.memorySlot_does hq hk (all := [r, r']) (rest := []) (by simp [hreqs, hpart, hcycle, hpart', hcycle'])
    (by simp [hreqs, hpart, hcycle, hpart', hcycle']) (v := ((s.slotTaken q []).raisePart q.num (f r)).raisePart q.num (f r'))
    ?_ hquiet ?_
  · rw [hfirst, List.foldl_nil, List.foldl_cons, State.pairStep_some hrule, hone, List.foldl_cons, State.pairStep_some hrule']
    exact htwo
  · rintro t ⟨ds, rfl, hds⟩
    exact ⟨rfl, rfl, rfl, fun x hx => (List.mem_append.1 hx).imp_right (hds x), State.raisePart_raisePart _ _ _ _⟩

/-- R264, rule 3: a word that no request meets is recorded at the rank that its source names, or at rank 0. -/
theorem State.memorySlot_unmet {w : Word} (hq : s.part q.num = some q) (hk : slotAt (q.ttc s.gtc) = some k)
    (hreqs : ∀ r ∈ s.reqs, r.part ≠ q.num) (hunmet : q.unmet [] k = [(n, w)]) (hquiet : Quiet s.due) :
    s.Does .memorySlot (.memorySlot q.num) fun t => t.reqs = s.reqs ∧ t.cores = s.cores ∧ t.dram = s.dram ∧
      t.parts = (s.unmetRecord q k (n, w)).parts := by
  have hfirst : q.unmetFirst [] k = [(n, w)] := by rw [Part.unmetFirst, hunmet]; rfl
  refine State.memorySlot_does hq hk (all := []) (rest := s.reqs) (List.filter_eq_nil_iff.2 fun r hr => by simp [hreqs r hr])
    (List.filter_eq_self.2 fun r hr => by simp [hreqs r hr]) (v := (s.slotTaken q s.reqs).unmetRecord q k (n, w))
    (by rw [hfirst]; rfl) hquiet ?_
  rintro t ⟨ds, rfl, -⟩
  exact ⟨rfl, rfl, rfl, rfl⟩

end

end Sys2Proof.Machine
end

section
/-! Pigeonhole writes, memory slots, drains and open slots: the statement of O40. -/
namespace Sys2Proof.Machine

/-- A unit that the access table of its stack admits to a partition, in one direction. -/
theorem State.open_of_entries {s : State} {q : Part} {r : MemReq} (hpart : r.part = q.num)
    (h : ∀ u ∈ unitsOf r.phys r.size, ∃ st e, s.hbm[stackOf (64 * u)]? = some st ∧ e ∈ st.access ∧ e.part = q.num ∧
      (if r.write then e.wr else e.rd) = true ∧ e.base ≤ chanOf (64 * u) ∧ chanOf (64 * u) ≤ e.limit) : s.Open r := by
  rw [← hpart] at h
  exact h

theorem State.Same.trans {s t u : State} (h : s.Same t) (h' : t.Same u) : s.Same u := by
  obtain ⟨hcores, hparts, hlaunches, hdram, hdies, hgtc⟩ := h
  obtain ⟨hcores', hparts', hlaunches', hdram', hdies', hgtc'⟩ := h'
  exact ⟨hcores'.trans hcores, hparts'.trans hparts, hlaunches'.trans hlaunches, hdram'.trans hdram, hdies'.trans hdies,
    hgtc'.trans hgtc⟩

theorem State.PairsNext.same {s t : State} {p : Nat} (h : s.PairsNext t p) : s.Same t := by
  obtain ⟨ds, rfl, -⟩ := h
  exact ⟨rfl, rfl, rfl, rfl, rfl, rfl⟩

/-- A row of an answer has its 64 words. -/
theorem length_answerRow {data : List Byte} {size i : Nat} (hlen : data.length = size) (hrows : size % 256 = 0)
    (hi : i < size / 256) : ((data.drop (256 * i)).take 256).length = 4 * 64 := by
  rw [List.length_take, List.length_drop, hlen]
  omega

/-- Two requests that meet are named in the order of their ranks, kinds and sources. -/
theorem State.named_pair (s : State) (r r' : MemReq) :
    (keyLt (s.concern r).key (s.concern r').key = true →
      concernWords [s.concern r, s.concern r'] = (s.concern r).words ++ (s.concern r').words) ∧
    (keyLt (s.concern r').key (s.concern r).key = true →
      concernWords [s.concern r, s.concern r'] = (s.concern r').words ++ (s.concern r).words) :=
  ⟨fun h => (concernWords_pair _ _).trans (if_pos h),
    fun h => (concernWords_pair _ _).trans (if_neg (Bool.eq_false_iff.1 (keyLt_asymm h)))⟩

/-- How a request is judged, where each of its units is judged by a relation: in a slot, and in a cycle without one. -/
theorem State.requestRule_judged {s : State} {q : Part} {all : List MemReq} {r : MemReq} {k : Nat}
    {broken : Nat → Option Nat → Prop} (hiff : ∀ p ∈ r.units, ∀ x, s.unitRule q all k r p = x ↔ broken p x) :
    (s.requestRule q all (some k) r = none ↔ ∀ u ∈ unitsOf r.phys r.size, broken (64 * u) none) ∧
      (∀ rule p, s.requestRule q all (some k) r = some (rule, p) → p / 64 ∈ unitsOf r.phys r.size ∧ p % 64 = 0 ∧
        broken p (some rule) ∧ ∀ u ∈ unitsOf r.phys r.size, chanOf (64 * u) < chanOf p → broken (64 * u) none) ∧
      (s.requestRule q all none r = none ↔ r.size = 0) ∧
      ∀ rule p, s.requestRule q all none r = some (rule, p) → rule = 1 ∧ p / 64 ∈ unitsOf r.phys r.size ∧ p % 64 = 0 ∧
        ∀ u ∈ unitsOf r.phys r.size, chanOf p ≤ chanOf (64 * u) := by
  have hunit (u : Nat) (hu : u ∈ unitsOf r.phys r.size) : 64 * u ∈ r.units := List.mem_map_of_mem hu
  refine ⟨State.requestRule_none_iff.trans ((forall₂_congr fun p hp => hiff p hp none).trans MemReq.forall_units),
    fun rule p h => ?_, State.requestRule_idle_none_iff, fun rule p h => ?_⟩
  · obtain ⟨hp, hrule, hlower⟩ := State.requestRule_some h
    obtain ⟨hu, h0⟩ := MemReq.mem_units.1 hp
    exact ⟨hu, h0, (hiff p hp _).1 hrule, fun u hu hlt => (hiff _ (hunit u hu) _).1 (hlower _ (hunit u hu) hlt)⟩
  · obtain ⟨rfl, hp, hlow⟩ := State.requestRule_idle_some h
    obtain ⟨hu, h0⟩ := MemReq.mem_units.1 hp
    exact ⟨rfl, hu, h0, fun u hu => hlow _ (hunit u hu)⟩

/-- Settles O40: every clause from what its step does, case by case. -/
theorem memorySteps : Obligations.MemorySteps := by
  unfold Obligations.MemorySteps
  refine ⟨fun s q n w hq _ h => s.pigeonholeWrite_holds q n w hq h,
    fun s q r k hq hk hreqs hpart hcycle hw hrule hlink hunmet hquiet hadmit =>
      State.memorySlot_write hq hk hreqs hpart hcycle hw hrule hlink hunmet (Part.quiet hquiet)
        (State.open_of_entries hpart (by simpa only [hw, if_true] using hadmit)),
    ?_, ?_, ?_, ?_, fun s tenant u => s.deviceWrite_holds tenant u, fun s u hc => s.stntWrite_holds u hc,
    fun s c upto hc h => State.drainCompletion_ends hc h, fun s a k hslot => s.openSlot_holds a k hslot⟩
  · intro s q r k hq hk hreqs hpart hcycle hw hrule hlink hunmet hquiet hfit hfour hadmit
    have hopen : s.Open r := State.open_of_entries hpart (by simpa only [hw, Bool.false_eq_true, if_false] using hadmit)
    refine State.memorySlot_read hq hk hreqs hpart hcycle hw hrule hlink hunmet (Part.quiet hquiet) hopen
      fun u bad t hme hpu hroute hsame hnone hbad ht => ?_
    intro units data word row core later
    have hlen : data.length = r.size := s.length_readBytes q hfit
    have hwords : data.length = 4 * (r.size / 4) := by omega
    refine ⟨?_, hlen, fun hb hs hsink => ?_, bad, hbad, fun n at_ hsink => ⟨fun b hb => ht.mono ?_, fun hb => ?_⟩,
      fun n at_ hsink => ⟨rowOfBytes data none bad, ⟨length_wordsOf hwords, fun j hj => ?_⟩, rfl, rfl, ht.mono ?_⟩,
      fun c e at_ hsink => ht.mono ?_, fun o at_ i hsink hrows hi => ⟨u.answerFlit o at_ data bad i, _, ht.mono ?_, rfl,
        ⟨length_wordsOf (n := 64) ?_, fun j hj => ?_⟩, rfl, rfl, rfl, rfl, rfl, rfl, rfl, rfl, ?_⟩⟩
    · obtain ⟨ds, rfl, -⟩ := ht
      exact (u.deliver_reqs ..).trans hnone
    · exact ((hsame hb hs).trans (u.deliver_same _ _ _ hsink)).trans ht.same
    · rw [hsink]; exact State.deliver_dreg_fault hme hpu hb
    · refine ⟨lanesOf (wordsOf data), fun j hj => lane_wordsOf hlen hfour hj, ht.mono ?_⟩
      rw [hsink]; exact State.deliver_dreg_value hme hpu hb
    · exact (toNat_getD_wordsOf hwords hj).trans (congrArg _ (Nat.zero_add j).symm)
    · rw [hsink]; exact State.deliver_queue hme hpu
    · rw [hsink]; exact State.deliver_inbound hpu
    · rw [hsink]; exact State.deliver_row hpu (by rw [show (s.readBytes q r).length = r.size from hlen]; exact hi)
    · exact length_answerRow hlen hrows hi
    · exact (toNat_getD_wordsOf (length_answerRow hlen hrows hi) hj).trans (wordVal_slice data hj)
    · exact congrArg (fun f => (f o.from_).2) hroute
  · intro s q r k rule p n hq hk hreqs hpart hcycle hrule hunmet hquiet hn h8 hkind hcore
    obtain ⟨t, hexec, hreq, hcores, hdram, hdue, hparts⟩ :=
      State.memorySlot_breaks hq hk hreqs hpart hcycle hrule hunmet (Part.quiet hquiet) hn h8 hkind hcore
    exact ⟨t, hexec, hreq, hcores, hdram, hdue, _, hparts, rfl, rfl, rfl, rfl⟩
  · intro s q r r' k p p' n hq hk hreqs hown hrule hrule' hstack hchan hn hp hp' h0 h0' hunmet hquiet key words
    have hon' := MemReq.on_of_mem hp' h0'
    rw [← hstack, ← hchan] at hon'
    obtain ⟨t, hexec, hreq, hcores, hdram, hdue, hparts⟩ := State.memorySlot_meet hq hk hreqs hown hrule hrule' ⟨rfl, rfl⟩
      ⟨hstack.symm, hchan.symm⟩ hn (MemReq.on_of_mem hp h0) hon' hunmet (Part.quiet hquiet)
    refine ⟨t, hexec, hreq, hcores, hdram, hdue, _, _, hparts, rfl, rfl, fun g hg => ?_⟩
    rcases List.mem_pair.1 hg with rfl | rfl <;> exact ⟨rfl, rfl, _, rfl, State.named_pair s r r'⟩
  · intro s q k colWord rowOpen meets breaks
    have hbreaks (all : List MemReq) (r : MemReq) (p n : Nat) (hn : q.chanNo (stackOf p) (chanOf p) = some n) :
        s.unitRule q all k r p = breaks all r p n := by
      rw [State.unitRule_of_chan hn]
      simp only [Timeline.colAt_toNat, Timeline.openRow_eq, MemReq.on_eq]
      rfl
    refine ⟨fun all r hchan => ?_, fun all n w => ?_, fun n w hq hk hreqs hunmet hquiet => ?_⟩
    · intro broken
      have hiff (p : Nat) (hp : p ∈ r.units) (x : Option Nat) : s.unitRule q all k r p = x ↔ broken p x := by
        have hsome : q.chanNo (stackOf p) (chanOf p) ≠ none :=
          MemReq.forall_units (P := fun p => q.chanNo (stackOf p) (chanOf p) ≠ none).2 hchan p hp
        obtain ⟨n, hn⟩ := Option.ne_none_iff_exists'.1 hsome
        rw [hbreaks all r p n hn]
        exact ⟨fun h m hm => by rwa [← Option.some.inj (hn.symm.trans hm)], fun h => h n hn⟩
      exact State.requestRule_judged hiff
    · have hcol (tl : Timeline) : w = tl.colAt k ↔ w.toNat = colWord tl := by
        rw [← BitVec.toNat_inj, Timeline.colAt_toNat]
        rfl
      simp only [Part.mem_unmet, hcol, MemReq.on_eq]
      rfl
    · obtain ⟨t, hexec, hreq, hcores, hdram, hparts⟩ := State.memorySlot_unmet hq hk hreqs hunmet (Part.quiet hquiet)
      exact ⟨t, hexec, hreq, hcores, hdram, _, hparts, rfl, rfl, rfl, rfl⟩

end Sys2Proof.Machine
end

section
/-! The memories of the machine keep their canonical form: after reset (O57), and under the shared operations (O56). -/
namespace Sys2Proof.Machine
set_option Elab.async false

/-! ### After reset (log entry 4) -/

theorem State.reset_core {c : Nat} (h : c < 384) : State.reset.core c = Core.reset := by
  simp [State.core, State.reset, h]

theorem State.reset_die {d : Nat} (h : d < 4) : State.reset.die d = Die.reset := by
  simp [State.die, State.reset, h]

theorem State.reset_memInv : State.reset.MemInv := by
  refine ⟨fun c => ?_, fun d => ?_, rfl, fun q hq => absurd hq List.not_mem_nil⟩
  · rw [show State.reset.cores[c] = Core.reset by simp [State.reset]]
    rfl
  · rw [show State.reset.dies[d] = Die.reset by simp [State.reset]]
    rfl

/-- Settles O57: no memory holds a byte after reset. -/
theorem resetMemoriesCanonical : Obligations.ResetMemoriesCanonical := by
  refine ⟨State.reset_memInv, fun _ => rfl, fun c a hc => ?_, fun d a hd => ?_⟩
  · rw [State.reset_core hc]
    rfl
  · rw [State.reset_die hd]
    rfl

end Sys2Proof.Machine
end

section
/-! Canonical memories under the shared operations and the slot instructions (O56). -/
namespace Sys2Proof.Machine
set_option Elab.async false

/-- Either branch of a choice keeps what both keep. -/
theorem State.MemInv.ite {s t : State} {c : Prop} [Decidable c] (hs : s.MemInv) (ht : t.MemInv) :
    (if c then s else t).MemInv := by
  split
  · exact hs
  · exact ht

theorem State.MemInv.elim {α : Type} {s : State} {o : Option α} {f : α → State} (hs : s.MemInv) (hf : ∀ a, (f a).MemInv) :
    (o.elim s f).MemInv := by
  cases o
  · exact hs
  · exact hf _

/-- A partition of the machine keeps canonical scratchpads in the office. -/
theorem State.MemInv.part {s : State} (h : s.MemInv) {p : Nat} {q : Part} (hq : s.part p = some q) : q.memOk :=
  h.2.2.2 q (List.mem_of_find?_eq_some hq)

section
variable {s : State} (h : s.MemInv)
include h

/-! ### Changes beside the memories -/

theorem State.MemInv.keep {t : State} (hc : t.cores = s.cores := by rfl) (hd : t.dies = s.dies := by rfl)
    (hm : t.dram = s.dram := by rfl) (hp : t.parts = s.parts := by rfl) : t.MemInv := h.congr hc hd hm hp
theorem State.MemInv.keepCore (c : Nat) {f : Core → Core} (hf : ∀ k, (f k).spad = k.spad := by exact fun _ => rfl) :
    (s.modCore c f).MemInv := h.modCore_keep c hf
theorem State.MemInv.keepPart (p : Nat) {f : Part → Part} (hf : ∀ q, (f q).parked = q.parked := by exact fun _ => rfl) :
    (s.modPart p f).MemInv := h.modPart_keep p hf
theorem State.MemInv.keepDie (d : Nat) {f : Die → Die} (hf : ∀ k, (f k).store = k.store := by exact fun _ => rfl) :
    (s.modDie d f).MemInv := h.modDie d fun k hk => by rwa [hf]
/-- One core is changed, and what stands beside the memories. -/
theorem State.MemInv.setsCore {t : State} {c : Nat} {k : Core} (hc : t.cores = s.cores.setIfInBounds c k)
    (hk : k.spad.wf = true) (hd : t.dies = s.dies := by rfl) (hm : t.dram = s.dram := by rfl)
    (hp : t.parts = s.parts := by rfl) : t.MemInv := (h.setCore c hk).congr hc hd hm hp
theorem State.MemInv.withFree (n : Nat) : State.MemInv { s with free := n } := h.keep
theorem State.MemInv.withDue (ds : List Timed) : State.MemInv { s with due := ds } := h.keep
theorem State.MemInv.withPorts (ps : Vector Port 6) : State.MemInv { s with ports := ps } := h.keep
theorem State.MemInv.withDuty (ds : List Duty) : State.MemInv { s with duty := ds } := h.keep
theorem State.MemInv.withPoison (us : List (Nat × ErrUnit)) : State.MemInv { s with poison := us } := h.keep
theorem State.MemInv.withLaunches (ls : List Launch) : State.MemInv { s with launches := ls } := h.keep
theorem State.MemInv.withHbm (ks : Vector Stack 8) : State.MemInv { s with hbm := ks } := h.keep
theorem State.MemInv.withReqs (rs : List MemReq) : State.MemInv { s with reqs := rs } := h.keep

/-! ### Pending steps, faults and queues -/

theorem State.MemInv.schedOn (p due : Nat) (key : List Nat) (w : Work) : (s.schedOn p due key w).MemInv :=
  h.keep
theorem State.MemInv.mxWrite (lat : Nat) (w : Work) : (s.mxWrite lat w).MemInv := h.sched ..
theorem State.MemInv.dropIssue (c : Nat) : (s.dropIssue c).MemInv := h.keep
theorem State.MemInv.dropExpansion (c : Nat) : (s.dropExpansion c).MemInv := h.keep
theorem State.MemInv.dropDue (f : Timed → Bool) : (s.dropDue f).MemInv := h.keep
theorem State.MemInv.issueFor (x : Ctx) (c due : Nat) : (s.issueFor x c due).MemInv := h.keep
theorem State.MemInv.issueAt (c due : Nat) : (s.issueAt c due).MemInv := h.issueFor ..
theorem State.MemInv.expandFor (x : Ctx) (c due : Nat) (half : Bool) (off : Nat) : (s.expandFor x c due half off).MemInv :=
  h.keep
theorem State.MemInv.expandAt (c due : Nat) (half : Bool) (off : Nat) : (s.expandAt c due half off).MemInv := h.expandFor ..

theorem State.MemInv.raisePart (p : Nat) (f : FaultNow) : (s.raisePart p f).MemInv := h.keepPart _
theorem State.MemInv.raiseAt (core code src : Nat) (b : Word) (i : Option Nat) (d : List Word) :
    (s.raiseAt core code src b i d).MemInv := h.raiseFor ..
theorem State.MemInv.raiseHolder (holder code : Nat) (d : List Word) : (s.raiseHolder holder code d).MemInv := h.raiseAt ..
theorem State.MemInv.raiseBlame (u : Option ErrUnit) (code : Nat) (d : List Word) : (s.raiseBlame u code d).MemInv :=
  h.raiseFor ..
theorem State.MemInv.raiseAs (src code : Nat) (d : List Word) : (s.raiseAs src code d).MemInv := h.raiseAt ..
theorem State.MemInv.faultAt (at_ code : Nat) (d : List Word) : (s.faultAt at_ code d).MemInv := h.sched ..

theorem State.MemInv.modMx (c : Nat) (f : Mx → Mx) : (s.modMx c f).MemInv := h.modCtx ..
theorem State.MemInv.modSeq (f : Seq → Seq) : (s.modSeq f).MemInv := h.modCtx ..
theorem State.MemInv.signOfLife : s.signOfLife.MemInv := h.keepPart _

theorem State.MemInv.append (c q cyc : Nat) (r : Row) : (s.append c q cyc r).MemInv := by
  unfold State.append
  exact .ite (h.setsCore rfl (h.core c)) (h.raise ..)
theorem State.MemInv.take (c q : Nat) (peek : Bool) : (s.take c q peek).MemInv :=
  .ite h (h.setsCore rfl (h.core c))

theorem State.MemInv.relive (q : Part) (a b : Life) : (s.relive q a b).MemInv := h.foldl _ fun _ _ hs => hs.modCtx ..

theorem State.MemInv.enterRecess (p : Nat) (c : Cause) (i : Option Nat) : (s.enterRecess p c i).MemInv := by
  unfold State.enterRecess
  split
  · exact h
  · exact ((h.keepPart p).relive ..).schedG ..

/-! ### Services and counted errors -/

theorem State.MemInv.setDeadline (v : Service) (n : Nat) : (s.setDeadline v n).MemInv := (h.modSvc v _).schedG ..
theorem State.MemInv.fallBack (v : Service) : (s.fallBack v).MemInv := (h.modSvc v _).setDeadline ..
theorem State.MemInv.journalEntry (v : Service) (e : JournalEntry) : (s.journalEntry v e).MemInv :=
  .ite h (.ite h (.ite (h.fallBack v) (h.modSvc v _)))
theorem State.MemInv.journal (v : Service) (f : Fact) : (s.journal v f).MemInv := h.journalEntry ..
theorem State.MemInv.stated (v : Service) (f : Fact) {act : State → State} (hact : ∀ t : State, t.MemInv → (act t).MemInv) :
    (s.stated v f act).MemInv := .ite (h.journal v f) (hact _ (h.journal v f))
theorem State.MemInv.later (v : Nat) : (s.later v).MemInv := h.keep
theorem State.MemInv.countErr (u : ErrUnit) (hard : Bool) : (s.countErr u hard).MemInv :=
  have hj := h.journal .prefect .errorCount
  .ite (hj.keep) (hj.keep)
theorem State.MemInv.coreSoft (c : Nat) : (s.coreSoft c).MemInv := (h.keepCore c).countErr ..

/-! ### The S slot -/

theorem State.MemInv.alu (f : SR) (lat : Nat) (op : Word → Word → Word) : (s.alu f lat op).MemInv := .ite (h.write ..) h
theorem State.MemInv.cmp (f : SR) (cond : Nat) : (s.cmp f cond).MemInv := .ite (h.write ..) h
theorem State.MemInv.guardOp (f : SR) (op : Bool → Bool → Bool) : (s.guardOp f op).MemInv := .ite (h.write ..) h

theorem State.MemInv.branch (f : SB) (target : Nat) (link : Bool) : (s.branch f target link).MemInv := by
  have hd := h.modSeq fun q => { q with delay := 2 }
  cases link
  · exact .ite (hd.modSeq _) hd
  · exact .ite ((hd.write ..).modSeq _) hd
theorem State.MemInv.segmentJump (off : Nat) : (s.segmentJump off).MemInv := ((h.dropExpansion _).modSeq _).expandAt ..
theorem State.MemInv.drainNow : s.drainNow.MemInv := by
  unfold State.drainNow
  exact .ite ((h.keepCore _).sched ..) h
theorem State.MemInv.latch (n : Nat) : (s.latch n).MemInv := by
  unfold State.latch
  split
  case h_7 => exact h
  all_goals exact h.modCtx ..
theorem State.MemInv.takePartLine (q : Part) (t : Nat) : (s.takePartLine q t).MemInv :=
  (h.keepPart _).foldl _ fun _ c hs => hs.modCore_keep c fun k => by split <;> rfl
theorem State.MemInv.toPort (port use : Nat) {f : State → State} (hf : (f s).MemInv) : (s.toPort port use f).MemInv := by
  unfold State.toPort
  split
  · exact h.faultAt ..
  · exact hf

end

end Sys2Proof.Machine
end

section
/-! Canonical memories under the accesses, the arrays and the steps of memory (O56). -/
namespace Sys2Proof.Machine
set_option Elab.async false

section
variable {s : State} (h : s.MemInv)
include h

/-! ### Device memory is read -/

theorem State.MemInv.unitErrors (u : Nat) : (s.unitErrors u).1.MemInv := by
  unfold State.unitErrors
  split
  · exact h.countErr ..
  · exact .ite (h.countErr ..) h
theorem State.MemInv.unitsErrors (us : List Nat) : (s.unitsErrors us).1.MemInv := by
  induction us generalizing s with
  | nil => exact h
  | cons u us ih => exact ih (h.unitErrors u)
theorem State.MemInv.readDevice (key : BitVec 512) (phys size : Nat) : (s.readDevice key phys size).1.MemInv :=
  h.unitsErrors _
theorem State.MemInv.pairAt (p c : Nat) : (s.pairAt p c).MemInv := .ite h (h.keep)
theorem State.MemInv.pairUnless (b : Prop) [Decidable b] (p c : Nat) : (if b then s else s.pairAt p c).MemInv :=
  .ite h (h.pairAt ..)
theorem State.MemInv.request (r : MemReq) : (s.request r).MemInv :=
  State.MemInv.pairAt (s := { s with reqs := s.reqs ++ [r] }) h ..

/-! ### Scratchpads are read and written -/

theorem State.MemInv.bank (due : Nat) (b : BankOp) : (s.bank due b).MemInv := h.sched ..
theorem State.MemInv.conflictRecord (c : Nat) (us : List BankUse) : (s.conflictRecord c us).MemInv := by
  unfold State.conflictRecord
  dsimp only
  split
  · exact h
  · split
    · exact h.raiseAt ..
    · exact h
theorem State.MemInv.enterUses (b : BankOp) : (s.enterUses b).MemInv := by
  unfold State.enterUses
  split
  · exact h
  · exact h.keep.conflictRecord ..
theorem State.MemInv.readErrors (c : Nat) (ws : List Nat) : (s.readErrors c ws).1.MemInv :=
  h.foldl _ fun _ _ hs => (hs.keepCore c).countErr ..
theorem State.MemInv.wordFault (c w : Nat) : (s.wordFault c w).MemInv := (h.countErr ..).raiseBlame ..
theorem State.MemInv.logWord (c w : Nat) : (s.logWord c w).MemInv := (h.readErrors c _).keepCore c
theorem State.MemInv.spadWrite (c : Nat) (req : Word) (ps : List (Nat × List Byte)) : (s.spadWrite c req ps).MemInv := by
  unfold State.spadWrite
  dsimp only
  split
  · exact h.raiseHolder ..
  · have hl := h.foldl ((dedup (· == ·) (ps.flatMap fun p => wordsTouched p.1 p.2.length)).filter fun w =>
      !(s.core c).undo.any fun u => u.word == w) (f := fun s w => s.logWord c w) fun _ w hs => hs.logWord c w
    exact hl.modCore c (Mem.foldl_writeBytes_wf (hl.core c) ps)
theorem State.MemInv.readBanks (c : Nat) (ws : List Nat) : (s.readBanks c ws).1.MemInv := by
  unfold State.readBanks
  dsimp only
  split
  · exact (h.readErrors ..).wordFault ..
  · exact h.readErrors ..
theorem State.MemInv.readOk (c a n : Nat) {f : State → List Byte → State} (hf : ∀ (t : State) bs, t.MemInv → (f t bs).MemInv) :
    (s.readOk c a n f).MemInv := by
  have hr := h.readBanks c (wordNos a n)
  unfold State.readOk
  split <;> rename_i t heq <;> rw [heq] at hr
  · exact hf _ _ hr
  · exact hr

/-! ### Where the bytes of a read go -/

theorem State.MemInv.startCmd (c : Cmd) : (s.startCmd c).MemInv := h.setsCore rfl (h.core s.me)
theorem State.MemInv.runEntry (c : Cmd) (i : Nat) (data : List Byte) : (s.runEntry c i data).MemInv :=
  .ite (h.raiseAs ..) (.ite h (.ite (h.raiseAs ..) (.ite (h.raiseAs ..) (h.startCmd _))))
theorem State.MemInv.placeFlit (w : Nat) (f : Flit) : (s.placeFlit w f).MemInv := h.sched ..
theorem State.MemInv.sendAway (e p f : Nat) : (s.sendAway e p f).MemInv := h.keepCore _
theorem State.MemInv.sendRow (c : Cmd) (e : Nat) (r : Row) : (s.sendRow c e r).MemInv :=
  h.toPort _ _ ((h.sendAway ..).placeFlit ..)
theorem State.MemInv.deliver (sink : Sink) (data : List Byte) (bad : Option ErrUnit) : (s.deliver sink data bad).MemInv := by
  cases sink with
  | dreg n at_ => exact h.sched ..
  | queue q at_ => exact h.sched ..
  | shape n at_ => exact h.sched ..
  | inbound c e at_ => exact h.sched ..
  | outbound c e at_ => exact .ite (h.sched ..) (h.sched ..)
  | config at_ => exact h.sched ..
  | parents c e => exact h.keep
  | entry c i => exact h.runEntry ..
  | send c e => exact h.sendRow ..
  | remote o at_ => exact h.foldl _ fun _ _ hs => hs.placeFlit ..
theorem State.MemInv.deliverFrom (die : Nat) (sink : Sink) (data : List Byte) (bad : Option ErrUnit) :
    (s.deliverFrom die sink data bad).MemInv := by
  unfold State.deliverFrom
  split
  · exact h.faultAt ..
  · exact h.deliver ..
theorem State.MemInv.serve (r : MemReq) : (s.serve r).MemInv := by
  have hs : State.MemInv { s with cur := { s.cur with who := r.who } } := h
  have hfault (use : Option Nat) (code : Nat) (d : List Word) : State.MemInv (use.elim
      { s with cur := { s.cur with who := r.who } } fun t =>
        State.faultAt { s with cur := { s.cur with who := r.who } } t code d) := hs.elim fun _ => hs.faultAt ..
  unfold State.serve
  dsimp only
  split
  · exact hfault ..
  · split
    · exact hfault ..
    · exact .ite (h.keep) ((hs.readDevice ..).deliver ..)

/-! ### The issue of a bundle, and what falls due inside a core -/

theorem State.MemInv.judge (q : Part) (c t : Nat) : (s.judge q c t).MemInv := by
  refine State.MemInv.modPart_keep (h.foldl _ fun _ f hs => ?_) _ fun _ => rfl
  exact .ite (hs.elim fun _ => hs.countErr ..) hs
theorem State.MemInv.startSuccessor (c t : Nat) : (s.startSuccessor c t).MemInv := by
  unfold State.startSuccessor
  dsimp only
  split
  · exact h
  · exact .ite (h.modCtx ..) ((h.modCtx ..).expandAt ..)
theorem State.MemInv.correctReads (c : Nat) (x : Ctx) : (s.correctReads c x).MemInv :=
  h.foldl _ fun _ _ hs => hs.coreSoft c
theorem State.MemInv.renewLatches (c : Nat) (x : Ctx) : (s.renewLatches c x).MemInv := h.keepCore _
theorem State.MemInv.startBundle (c t : Nat) : (s.startBundle c t).MemInv := by
  have ha : (s.modCtx c fun x => { x with seqBefore := x.seq, seq := x.seq.advance t }).MemInv := h.modCtx ..
  have he : State.MemInv (if (s.ctx c).seq.next = .enter then
      (s.modCtx c fun x => { x with seqBefore := x.seq, seq := x.seq.advance t }).startSuccessor c t
      else s.modCtx c fun x => { x with seqBefore := x.seq, seq := x.seq.advance t }) := .ite (ha.startSuccessor ..) ha
  exact (((he.correctReads c _).renewLatches c _).issueAt c (t + 1)).keep
theorem State.MemInv.joinAtLine (q : Part) (t : Nat) : (s.joinAtLine q t).MemInv :=
  .ite ((h.dropDue _).keepPart _) h
theorem State.MemInv.writeFault (c code : Nat) (u : Option ErrUnit) (d : List Word) : (s.writeFault c code u d).MemInv :=
  .ite (h.raiseFor ..) (h.raiseBlame ..)
theorem State.MemInv.pigWrite (p n : Nat) (w : Word) : (s.pigWrite p n w).MemInv :=
  State.MemInv.modPart_keep (s := { s with pigWrites := _ }) h _ fun _ => rfl
theorem State.MemInv.stageFault (who : Meta) (k : Nat) (x : StageSlot) : (s.stageFault who k x).MemInv := h.raiseAt ..
theorem State.MemInv.spawnOn (c off : Nat) (args : List Word) : (s.spawnOn c off args).MemInv :=
  (((h.dropExpansion c).modCtx c _).expandAt ..).issueAt ..
theorem State.MemInv.deliverSpawn (who : Meta) (rank off : Nat) (args : List Word) (others : List Nat) :
    (s.deliverSpawn who rank off args others).MemInv := by
  unfold State.deliverSpawn
  dsimp only
  split
  · exact h.raiseAt ..
  · split
    · exact h.raiseAt ..
    · split
      · exact h.raiseAt ..
      · exact h.spawnOn ..

/-! ### The arrays -/

theorem State.MemInv.renewMx (c : Nat) (f : Nat × Nat × Nat → Bool) : (s.renewMx c f).MemInv := h.keepCore _
theorem State.MemInv.readMx (f : Nat × Nat × Nat → Bool) : (s.readMx f).MemInv := by
  have hf := h.foldl ((s.core s.me).mxSoft.filter f) (f := fun s _ => s.coreSoft s.me) fun _ _ hs => hs.coreSoft _
  unfold State.readMx
  dsimp only
  split
  · exact hf
  · exact (hf.countErr ..).raiseBlame ..
theorem State.MemInv.oRow (lat : Nat) (what : List Word → Work) (ws : List Word) : (s.oRow lat what ws).MemInv := h.mxWrite ..
theorem State.MemInv.beat (b : Beat) : (s.beat b).MemInv := by
  have hb := (h.modMx s.me fun m => m.addBeat b).write 1 .keyCounter
  exact .ite ((hb.modMx ..).dropDue _) hb

/-! ### Open slots, and the accesses of the LD slot -/

theorem State.MemInv.noteServed (phys : Nat) (w stnt : Bool) : (s.noteServed phys w stnt).MemInv := h.keep
theorem State.MemInv.faultUnit (at_ code : Nat) (d : List Word) : (s.faultUnit at_ code d).MemInv := by
  unfold State.faultUnit
  dsimp only
  split
  · exact h.faultAt ..
  · exact .ite ((h.dropDue _).faultAt ..) h
theorem State.MemInv.placeUnit (q : Part) (ea : Nat) (u : StntUnit) : (s.placeUnit q ea u).MemInv := by
  unfold State.placeUnit
  split
  · exact h
  · dsimp only
    split
    · exact h
    · split
      · exact h.faultUnit ..
      · split
        · exact h.faultUnit ..
        · exact h.sched ..
theorem State.MemInv.access (g : Nat) (neg : Bool) (a : Access) : (s.access g neg a).MemInv := .ite (h.sched ..) h
theorem State.MemInv.toSpad (a : Access) (sp c : Nat) : (s.toSpad a sp c).MemInv := by
  unfold State.toSpad
  dsimp only
  split
  any_goals exact h.bank ..
  · exact h
  · refine (h.sched ..).foldl _ fun t k ht => ?_
    split
    · exact ht
    · exact ht.bank ..
  · refine h.foldl _ fun t k ht => ?_
    split
    · exact ht
    · exact ht.bank ..
theorem State.MemInv.toDevice (a : Access) (phys key : Nat) : (s.toDevice a phys key).MemInv := h.request _
theorem State.MemInv.toRemote (a : Access) : (s.toRemote a).MemInv := by
  unfold State.toRemote
  dsimp only
  refine h.toPort _ _ ?_
  have hflits {t : State} (ht : t.MemInv) (n : Nat) (w : State → Nat → Nat) (f : State → Nat → Flit) :
      ((List.range n).foldl (fun t i => t.placeFlit (w t i) (f t i)) t).MemInv := ht.foldl _ fun _ _ hu => hu.placeFlit ..
  split
  · exact hflits (h.sendAway ..) ..
  · exact ((hflits (h.sendAway ..) ..).withFree _).deliver ..
theorem State.MemInv.toOpen (a : Access) (q : Part) (phys key : Nat) : (s.toOpen a q phys key).MemInv := by
  unfold State.toOpen
  refine State.MemInv.foldl ?_ _ fun _ _ ht => ht.placeUnit ..
  exact .ite (State.MemInv.sched (h.keepCore _) ..) (h.keepCore _)
theorem State.MemInv.dispatchAccess (a : Access) : (s.dispatchAccess a).MemInv := by
  unfold State.dispatchAccess
  dsimp only
  split
  · exact h.toSpad ..
  · split
    · exact h.toSpad ..
    · exact h.bank ..
  · split
    · exact h.toSpad ..
    · exact h.bank ..
  · exact h.toRemote a
  · exact .ite (h.bank ..) (.ite (h.sched ..) (h.bank ..))
  · split
    · exact h
    · split
      · exact h
      · exact .ite (h.toOpen ..) (h.toDevice ..)

/-! ### The steps of memory -/

theorem State.MemInv.wordResult (tg at_ : Nat) (w : Word) : (s.wordResult tg at_ w).MemInv := h.sched ..
theorem State.MemInv.performBank (b : BankOp) : (s.performBank b).MemInv := by
  unfold State.performBank
  dsimp only
  split
  · exact h.readOk _ _ _ fun _ _ ht => ht.deliverFrom ..
  · split
    · exact h.raise ..
    · exact h
    · exact h.spadWrite ..
  · rename_i els _ tg at_ _
    have hr := h.readBanks b.holder (dedup (· == ·) (els.map fun e => e.2 / 4))
    split <;> rename_i heq <;> rw [heq] at hr
    · exact hr
    · exact hr.sched ..
  · rename_i els half _
    have hbad {ws : List Nat} : (match ws with | [] => s | w :: _ => s.wordFault b.holder w).MemInv := by
      cases ws
      · exact h
      · exact h.wordFault ..
    split
    · exact .ite (hbad.readErrors ..) hbad
    · exact State.MemInv.spadWrite (.ite (hbad.readErrors ..) hbad) ..
  · exact (State.MemInv.ite h (h.raise ..)).readOk _ _ _ fun _ _ ht => .ite (ht.deliver ..) ht
  · exact h.readOk _ _ _ fun _ _ ht => (ht.bank ..).wordResult ..
  · exact h.wordResult ..
  · exact h.raise ..
theorem State.MemInv.suppress (q : Part) (all : List MemReq) (k : Option Nat) (r : MemReq) (rule p : Nat) :
    (s.suppress q all k r rule p).MemInv := h.raiseAt ..
theorem State.MemInv.nmSuppress (q : Part) (all : List MemReq) (k : Nat) (m : Timed × NmCmd × Nat) :
    (s.nmSuppress q all k m).MemInv := (h.dropDue _).raiseAt ..
theorem State.MemInv.unmetRecord (q : Part) (k : Nat) (x : Nat × Word) : (s.unmetRecord q k x).MemInv := h.raisePart ..
theorem State.MemInv.pair (q : Part) (c : Nat) : (s.pair q c).MemInv := by
  have hmet (all : List MemReq) (k : Nat) (ms : List (Timed × NmCmd × Nat)) {t : State} (ht : t.MemInv) :
      (ms.foldl (fun t m => t.nmSuppress q all k m) t).MemInv := ht.foldl _ fun _ _ hu => hu.nmSuppress ..
  have hunmet (k : Nat) (xs : List (Nat × Word)) {t : State} (ht : t.MemInv) :
      (xs.foldl (fun t x => t.unmetRecord q k x) t).MemInv := ht.foldl _ fun _ _ hu => hu.unmetRecord ..
  have hserved (u : State) (all : List MemReq) (k : Option Nat) {t : State} (ht : t.MemInv) :
      (all.foldl (fun t r => match u.requestRule q all k r with
        | some (rule, p) => t.suppress q all k r rule p
        | none => t.serve r) t).MemInv := ht.foldl _ fun t r ht => by
    split
    · exact ht.suppress ..
    · exact ht.serve r
  have hreqs : State.MemInv { s with reqs := s.reqs.filter fun r => !(r.part == q.num && decide (r.cycle ≤ c)) } := h.withReqs _
  unfold State.pair
  dsimp only
  split
  · exact hserved _ _ _ hreqs
  · exact (hmet _ _ _ (hunmet _ _ (hserved _ _ _ hreqs))).pairUnless ..

end

end Sys2Proof.Machine
end

section
/-! Canonical memories under the transfer engines, the near-memory units, open slots and the links (O56). -/
namespace Sys2Proof.Machine
set_option Elab.async false

section
variable {s : State} (h : s.MemInv)
include h

/-! ### Transfer engines -/

theorem State.MemInv.setLast (c : Cmd) (n : Nat) : (s.setLast c n).MemInv := h.keepCore _
theorem State.MemInv.windowFault (c w : Nat) (is : List Nat) : (s.windowFault c w is).MemInv := by
  cases is with
  | nil => exact h
  | cons i is => exact .ite ((h.countErr ..).raiseFor ..) ((h.countErr ..).raiseBlame ..)
theorem State.MemInv.meetWindow (c w : Nat) (reads : Nat → Bool) : (s.meetWindow c w reads).MemInv :=
  (h.foldl _ fun _ _ hs => hs.coreSoft c).windowFault ..
theorem State.MemInv.renewWindow (c w : Nat) (f : Nat → Bool) : (s.renewWindow c w f).MemInv := h.keepCore _
theorem State.MemInv.readWindow (c : Cmd) : (s.readWindow c).MemInv := by
  unfold State.readWindow
  dsimp only
  split
  · refine State.MemInv.renewWindow (State.MemInv.modCtx ?_ ..) ..
    exact (h.meetWindow ..).foldl _ fun _ _ ht => .ite ht (ht.sched ..)
  · exact (h.meetWindow ..).foldl _ fun _ _ ht => .ite ht (ht.sched ..)
theorem State.MemInv.tagWrites (c : Cmd) : (s.tagWrites c).MemInv := h.foldl _ fun _ _ ht => ht.sched ..
theorem State.MemInv.issueElement (c : Cmd) (e : Nat) : (s.issueElement c e).MemInv := by
  unfold State.issueElement
  split <;> exact h.sched ..
theorem State.MemInv.startElements (c : Cmd) : (s.startElements c).MemInv := by
  have hl := h.setLast c (s.lastOf c)
  refine State.MemInv.foldl ?_ _ fun _ _ ht => ht.issueElement ..
  split
  · exact .ite (hl.tagWrites c) hl
  · exact hl.readWindow c
  · exact hl.sched ..
  · exact hl
theorem State.MemInv.collide (c : Cmd) (e : Nat) : (s.collide c e).MemInv := by
  unfold State.collide
  dsimp only
  split
  · exact (h.dropDue _).raise ..
  · exact h.dropDue _
theorem State.MemInv.ownBank (c : Cmd) (due : Nat) (act : BankAct) : (s.ownBank c due act).MemInv := h.bank ..
theorem State.MemInv.peerBank (k due : Nat) (act : BankAct) : (s.peerBank k due act).MemInv := h.bank ..
theorem State.MemInv.engineRequest (c : Cmd) (e cycle phys key : Nat) (write : Bool) (data : List Byte) (sink : Sink) :
    (s.engineRequest c e cycle phys key write data sink).MemInv := h.request _
theorem State.MemInv.engineFlits (c : Cmd) (e window port last : Nat) (data : Option (List Byte)) :
    (s.engineFlits c e window port last data).MemInv := (h.sendAway ..).foldl _ fun _ _ ht => ht.placeFlit ..
theorem State.MemInv.fetchElement (c : Cmd) (e : Nat) (far : FarSide) : (s.fetchElement c e far).MemInv := by
  cases far with
  | own => exact h.ownBank ..
  | peer k r => exact h.peerBank ..
  | device phys key => exact h.engineRequest ..
  | remote hops port =>
    exact h.toPort _ _ ((State.MemInv.engineFlits (s := { s with free := s.free + 1 }) h ..).deliver ..)
  | absent => exact h

/-! ### Near-memory units -/

theorem State.MemInv.modStack (n : Nat) (f : Stack → Stack) : (s.modStack n f).MemInv := h.keep
theorem State.MemInv.modPort (p : Nat) (f : Port → Port) : (s.modPort p f).MemInv := h.keep
theorem State.MemInv.nmSource (q : Part) (c : NmCmd) (r : NmRange) (k : Nat) : (s.nmSource q c r k).1.MemInv := by
  unfold State.nmSource
  split
  · exact h.readDevice ..
  · exact h
theorem State.MemInv.nmBuffer (c : NmCmd) (g k : Nat) : (s.nmBuffer c g k).1.MemInv := by
  unfold State.nmBuffer
  dsimp only
  split
  · exact (h.modStack ..).countErr ..
  · split
    · exact (h.modStack ..).countErr ..
    · exact h

/-! ### Open slots -/

theorem State.MemInv.presentReads (use : OpenUse) (tenant key : Nat) (phys : Nat → Nat) (len : Nat) :
    (s.presentReads use tenant key phys len).MemInv := h.foldl _ fun _ _ ht => ht.present _
theorem State.MemInv.imageRead (l : Launch) : (s.imageRead l).MemInv :=
  State.MemInv.schedG (s := { s with free := s.free + 1 }) h ..
theorem State.MemInv.gotPiece (sub : Nat) (bs : Option (List Byte)) : (s.gotPiece sub bs).MemInv := h.modLaunch ..
theorem State.MemInv.askImage (l : Launch) (i : Nat) : (s.askImage l i).MemInv := by
  unfold State.askImage
  split
  · exact h.imageRead l
  · split
    · exact (h.gotPiece ..).imageRead l
    · exact .ite (h.present _) ((h.gotPiece ..).imageRead l)
theorem State.MemInv.imagePiece (sub i : Nat) (data : List Byte) (bad : Bool) : (s.imagePiece sub i data bad).MemInv := by
  unfold State.imagePiece
  split
  · exact h
  · exact .ite ((h.gotPiece ..).imageRead _) ((h.gotPiece ..).askImage ..)
theorem State.MemInv.presentTest (st ch b i : Nat) (restore pass write : Bool) (data : List Byte) :
    (s.presentTest st ch b i restore pass write data).MemInv := h.present _
theorem State.MemInv.testUnit (st ch b i : Nat) (restore pass : Bool) : (s.testUnit st ch b i restore pass).MemInv := by
  have hj := h.journal .prefect .withheld
  unfold State.testUnit
  dsimp only
  refine .ite (h.presentTest ..) ?_
  split
  · exact .ite (hj.keep) (hj.keep)
  · exact h.keep
theorem State.MemInv.dropUse (u : OpenUse) : (s.dropUse u).MemInv := h.dropDue _
theorem State.MemInv.written (a : OpenAccess) : (s.written a).MemInv := by
  unfold State.written
  split
  · exact .ite h (h.schedG ..)
  · exact h.testUnit ..
  · exact h
theorem State.MemInv.serveWrite (a : OpenAccess) : (s.serveWrite a).MemInv := by
  have hu := h.unitErrors (a.phys / 64)
  unfold State.serveWrite
  dsimp only
  refine .ite (h.writeUnit ..) (.ite (.ite (hu.modFn ..) hu) (hu.writeUnit ..))
theorem State.MemInv.serveRead (a : OpenAccess) : (s.serveRead a).MemInv := by
  have hu := h.unitErrors (a.phys / 64)
  unfold State.serveRead
  dsimp only
  split
  · exact hu.imagePiece ..
  · exact hu.presentTest ..
  · exact hu.reply _
  · exact (hu.journal ..).keepPart _
  · exact hu.reply _
theorem State.MemInv.serveOpen (a : OpenAccess) : (s.serveOpen a).MemInv := .ite ((h.serveWrite a).written a) (h.serveRead a)
theorem State.MemInv.wait (a : OpenAccess) : (s.wait a).MemInv := h.schedG ..
theorem State.MemInv.commit (a : OpenAccess) : (s.commit a).MemInv := by
  unfold State.commit
  split
  · split
    · exact h.schedG ..
    · exact h.wait a
  · split
    · exact h.schedOn ..
    · exact h.wait a

/-! ### The links -/

theorem State.MemInv.sendHead (c : Cmd) (e q : Nat) (peek : Bool) (mark : Row → Option Nat) :
    (s.sendHead c e q peek mark).MemInv := by
  unfold State.sendHead
  split
  · exact h.raise ..
  · exact (h.take ..).sendRow ..
theorem State.MemInv.flitFault (f : Flit) (code : Nat) (d : List Word) : (s.flitFault f code d).MemInv :=
  .ite (h.raiseAs ..) (h.keepPart _)
theorem State.MemInv.asPort (p issue : Nat) : (s.asPort p issue).MemInv := by
  unfold State.asPort
  split <;> exact h
theorem State.MemInv.deliverInward (port c : Nat) (who : Meta) (sink : Sink) (data : List Byte) (bad : Option ErrUnit) :
    (s.deliverInward port c who sink data bad).MemInv := by
  have hw : State.MemInv { s with cur := { s.cur with who := who } } := h
  unfold State.deliverInward
  dsimp only
  split
  · exact hw.faultAt ..
  · exact hw.deliver ..
theorem State.MemInv.landRow (port c start : Nat) (r : Row) : (s.landRow port c start r).MemInv := by
  unfold State.landRow
  dsimp only
  split
  · exact h.raiseAt ..
  · exact .ite (h.setsCore rfl (h.core c)) (h.raiseAt ..)
theorem State.MemInv.landAddition (port p c w i : Nat) (words : List Word) : (s.landAddition port p c w i words).MemInv := by
  have hl : (s.landedOn c).MemInv := h
  unfold State.landAddition
  dsimp only
  split
  · exact hl.faultAt ..
  · exact hl.sched ..
theorem State.MemInv.landAccess (port g p : Nat) (write : Bool) (v size cycle : Nat) (data : List Byte) (o : Origin) :
    (s.landAccess port g p write v size cycle data o).MemInv := by
  unfold State.landAccess
  split
  · exact h
  · split
    · exact h
    · exact (h.asPort ..).request _
theorem State.MemInv.landReply (port c issue : Nat) (data : List Byte) (bad : Option ErrUnit) :
    (s.landReply port c issue data bad).MemInv := by
  unfold State.landReply
  dsimp only
  split
  · exact h
  · split
    · exact (h.withDue _).deliverInward ..
    · exact h
theorem State.MemInv.landElement (port k : Nat) (c : Cmd) (e : Nat) (data : List Byte) (bad : Option ErrUnit) :
    (s.landElement port k c e data bad).MemInv := by
  unfold State.landElement
  dsimp only
  split
  · exact h
  · rename_i x _
    have hd := (h.withDue (s.due.erase x)).deliverInward port k x.who (.inbound c e (s.ttc (s.partOf k) + 64)) data bad
    exact hd.setsCore rfl (hd.core k)
theorem State.MemInv.landFault (c issue src e code : Nat) (at_ : Option Nat) (d : List Word) :
    (s.landFault c issue src e code at_ d).MemInv := by
  unfold State.landFault
  split
  · exact h
  · exact State.MemInv.faultAt (s := { s.dropDue _ with cur := _ }) h ..
theorem State.MemInv.landBad (port p rank : Nat) (a : Option (Nat × Nat × Nat)) : (s.landBad port p rank a).MemInv := by
  have hc := h.countErr (.port port) true
  unfold State.landBad
  dsimp only
  split
  · exact hc
  · split
    · exact (hc.dropDue _).raiseFor ..
    · exact hc.raiseFor ..
theorem State.MemInv.landTransit (dst : Nat × Nat × Nat) (f : Flit) : (s.landTransit dst f).MemInv := by
  unfold State.landTransit
  split
  · exact h
  · exact (h.asPort ..).placeFlit ..

end

end Sys2Proof.Machine
end

section
/-! Canonical memories under the placing and the release of a partition, its recess and its return (O56). -/
namespace Sys2Proof.Machine
set_option Elab.async false

/-! ### Values that hold memories -/

/-- Every core of a list has a canonical scratchpad. -/
def CoresOk (ks : List Core) : Prop := ∀ k ∈ ks, k.spad.wf = true

theorem Part.memOk_iff (q : Part) : q.memOk ↔ ∀ ks, q.parked = some ks → CoresOk ks := .rfl

theorem Part.memOk.of_parked {q r : Part} (hq : q.memOk) (h : r.parked = q.parked) : r.memOk :=
  fun ks hk => hq ks (h ▸ hk)

theorem Part.memOk.getD {q : Part} (hq : q.memOk) (r : Nat) : ((q.parked.getD []).getD r Core.reset).spad.wf = true := by
  cases hp : q.parked with
  | none => rfl
  | some ks =>
    by_cases hr : r < ks.length
    · simpa [hr] using hq ks hp ks[r] (List.getElem_mem hr)
    · simp [List.getElem?_eq_none (Nat.le_of_not_lt hr), Core.reset, Mem.wf]

theorem Variant.spadOf_wf (v : Variant) (r : Nat) : (v.spadOf r).wf = true := by
  unfold Variant.spadOf
  generalize v.data.filter _ = ds
  have (m : Mem) (hm : m.wf = true) : (ds.foldl (fun m d => m.writeBytes (d.ptr % 2 ^ 20) d.bytes) m).wf = true := by
    induction ds generalizing m with
    | nil => exact hm
    | cons d ds ih => exact ih _ (Mem.writeBytes_wf hm ..)
  exact this [] rfl

theorem Core.replay_spad_wf {k : Core} (hk : k.spad.wf = true) : k.replay.spad.wf = true := by
  have (us : List Undo) (k : Core) (hk : k.spad.wf = true) : (us.foldl Core.unlog k).spad.wf = true := by
    induction us generalizing k with
    | nil => exact hk
    | cons u us ih => exact ih _ (Mem.writeBytes_wf hk ..)
  exact this _ k hk

theorem Core.rollback_spad_wf {k : Core} (hk : k.spad.wf = true) (syn : List Word) : (k.rollback syn).spad.wf = true :=
  Core.replay_spad_wf hk

section
variable {s : State} (h : s.MemInv)
include h

/-- A change of every die that leaves its program store. -/
theorem State.MemInv.dies {t : State} (hc : t.cores = s.cores) (hd : ∀ i : Fin 4, t.dies[i].store = s.dies[i].store)
    (hm : t.dram = s.dram) (hp : t.parts = s.parts) : t.MemInv := by
  obtain ⟨hcores, hdies, hdram, hparts⟩ := h
  refine ⟨by simpa only [hc] using hcores, fun i => (hd i).symm ▸ hdies i, hm ▸ hdram, ?_⟩
  simpa only [hp] using hparts

/-- A change of every core that leaves its scratchpad. -/
theorem State.MemInv.cores {t : State} (hc : ∀ i : Fin 384, t.cores[i].spad = s.cores[i].spad) (hd : t.dies = s.dies)
    (hm : t.dram = s.dram) (hp : t.parts = s.parts) : t.MemInv := by
  obtain ⟨hcores, hdies, hdram, hparts⟩ := h
  refine ⟨fun i => (hc i).symm ▸ hcores i, by simpa only [hd] using hdies, hm ▸ hdram, ?_⟩
  simpa only [hp] using hparts

/-- A change of the partitions to such as keep canonical scratchpads in the office. -/
theorem State.MemInv.parts {t : State} (hc : t.cores = s.cores) (hd : t.dies = s.dies) (hm : t.dram = s.dram)
    (hp : ∀ q ∈ t.parts, q.memOk) : t.MemInv := by
  obtain ⟨hcores, hdies, hdram, -⟩ := h
  exact ⟨by simpa only [hc] using hcores, by simpa only [hd] using hdies, hm ▸ hdram, hp⟩

theorem State.MemInv.filterParts (f : Part → Bool) : State.MemInv { s with parts := s.parts.filter f } :=
  h.parts rfl rfl rfl fun x hx => h.2.2.2 x (List.mem_of_mem_filter hx)

theorem State.MemInv.memOk {q : Part} (hq : q ∈ s.parts) : q.memOk := h.2.2.2 q hq

theorem State.MemInv.store (d : Nat) : (s.die d).store.wf = true := by
  by_cases hd : d < 4
  · simpa [State.die, hd] using h.2.1 ⟨d, hd⟩
  · simp [State.die, hd, Die.reset, Mem.wf]

/-! ### Placing -/

theorem State.MemInv.placeBlocks (q : Part) (v : Variant) : (s.placeBlocks q v).MemInv :=
  h.foldl _ fun _ _ ht => .ite ht (ht.modDie _ fun _ hk => Mem.writeBytes_wf hk ..)
theorem State.MemInv.takeSlots (q : Part) (n : Nat) : (s.takeSlots q n).MemInv :=
  h.foldl _ fun _ _ ht => ht.keepDie _
theorem State.MemInv.dropSlots (p : Nat) : (s.dropSlots p).MemInv :=
  h.dies rfl (fun i => by simp [State.dropSlots]) rfl rfl
theorem State.MemInv.loadCores (q : Part) (v : Variant) : (s.loadCores q v).MemInv :=
  h.foldl _ fun _ _ ht => ht.setCore _ (v.spadOf_wf _)
theorem State.MemInv.claimAll (q : Part) : (s.claimAll q).MemInv := by
  unfold State.claimAll
  split
  · exact h
  · exact h.foldl _ fun _ _ ht => ht.modPort ..
theorem State.MemInv.presentImage (q : Part) (d : DataImage) : (s.presentImage q d).MemInv := by
  refine h.foldl _ fun t x ht => ?_
  split
  · exact ht
  · exact ht.present _
theorem State.MemInv.presentImages (q : Part) (v : Variant) : (s.presentImages q v).MemInv :=
  h.foldl _ fun _ _ ht => ht.presentImage ..
theorem State.MemInv.admission (l : Launch) (vn : Nat) (v : Variant) (bell : Nat) : (s.admission l vn v bell).MemInv := by
  unfold State.admission
  dsimp only
  split
  · refine State.MemInv.schedG (State.MemInv.modLaunch ?_ ..) ..
    refine ((((State.MemInv.placeBlocks ?_ ..).takeSlots ..).loadCores ..).claimAll _ |>.grant _).presentImages ..
    refine h.parts rfl rfl rfl fun q hq => ?_
    rcases List.mem_append.1 hq with hq | hq
    · exact h.memOk hq
    · obtain rfl := List.mem_singleton.1 hq
      exact fun ks hk => absurd hk (by simp [Part.fresh])
  · exact h

/-! ### Release -/

theorem State.MemInv.dropPart (p : Nat) : (s.dropPart p).MemInv :=
  State.MemInv.foldl (s := { s.dropDue _ with reqs := _, hbm := _ }) h _ fun _ _ ht => ht.schedG ..
theorem State.MemInv.dropShadows (p : Nat) : (s.dropShadows p).MemInv :=
  h.cores (fun i => by simp [State.dropShadows, Core.dropShadow]) rfl rfl rfl
theorem State.MemInv.release (q : Part) : (s.release q).MemInv := by
  have hd := (((h.dropUse (.place q.num)).dropUse (.park q.num)).dropPart q.num).dropSlots q.num
  have hc := hd.foldl q.cores (f := fun s c => s.modCore c Core.release) fun _ _ ht => ht.keepCore _
  exact ((State.MemInv.revoke (hc.withPorts _) q.num).dropShadows q.num).filterParts _

/-! ### The roll call and parking -/

theorem State.MemInv.poisonReturns (p : Nat) : (s.poisonReturns p).MemInv :=
  (h.dropDue _).foldl _ fun _ _ ht => ht.raiseFor ..
theorem State.MemInv.park (q : Part) (bs : List Byte) : ∀ t ∈ s.park q bs, t.MemInv := by
  intro t ht
  unfold State.park at ht
  obtain ⟨a, -, rfl⟩ := Option.map_eq_some_iff.1 ht
  have hp : (s.parkPlace bs.length).2.MemInv := h
  exact ((hp.journal ..).presentBytes ..).keepPart _
theorem State.MemInv.unpark (q : Part) : (s.unpark q).MemInv := h.foldl _ fun _ _ ht => ht.presentReads ..
theorem State.MemInv.evict (q : Part) : (s.evict q).MemInv := by
  refine h.foldl _ fun t c ht => ?_
  split
  · exact ht
  · refine .ite ht ?_
    split
    · exact ht.keepCore _
    · split
      · exact ht
      · rename_i u hu
        exact (ht.park _ _ u hu).keepCore _
theorem State.MemInv.stopMove (q : Part) : (s.stopMove q).MemInv :=
  .ite (h.dropDue _) ((((h.dropDue _).dropUse _).dropShadows _).keepPart _)

/-! ### Rollback -/

theorem State.MemInv.reawait (c : Nat) (x : Ctx) : (s.reawait c x).MemInv := by
  have one (t : State) (half : Bool) (ht : t.MemInv) : State.MemInv (match x.seq.half half with
      | some k => if k.seg.isNone then t.expandFor x c k.ready half k.off else t
      | none => t) := by
    split
    · exact .ite (ht.expandFor ..) ht
    · exact ht
  exact one _ true (one _ false (.ite (h.issueFor ..) h))
theorem State.MemInv.putSlots (q : Part) (kept : List StageSlot) : (s.putSlots q kept).MemInv :=
  h.foldl _ fun _ _ ht => ht.keepDie _

theorem State.MemInv.rollback (q : Part) : (s.rollback q).MemInv := by
  unfold State.rollback
  dsimp only
  generalize markRet _ = syn
  have hs : State.MemInv (if q.parked.isNone then s.stopMove q else s) := .ite (h.stopMove q) h
  have hc := (hs.dropPart q.num).foldl q.cores (f := fun s c => s.modCore c (Core.rollback · syn)) fun t c ht =>
    ht.modCore c (Core.rollback_spad_wf (ht.core c) syn)
  refine State.MemInv.pairUnless (State.MemInv.foldl ?_ _ fun _ _ ht => ht.reawait ..) ..
  refine (hc.putSlots q q.dupSlots).modPart q.num fun x hx ks hks => ?_
  obtain ⟨old, hold, rfl⟩ := Option.map_eq_some_iff.1 hks
  intro k hk
  obtain ⟨k', hk', rfl⟩ := List.mem_map.1 hk
  exact Core.rollback_spad_wf (hx old hold k' hk') syn

/-! ### Giving cores away, and taking them back -/

theorem State.MemInv.grantPorts (q : Part) : (s.grantPorts q).MemInv := h.keep
theorem State.MemInv.revokePorts (p : Nat) : (s.revokePorts p).MemInv := h.keep
theorem State.MemInv.grantCores (q : Part) : (s.grantCores q).MemInv :=
  h.dies rfl (fun i => by simp [State.grantCores]) rfl rfl
theorem State.MemInv.revokeCores (p : Nat) : (s.revokeCores p).MemInv :=
  h.dies rfl (fun i => by simp [State.revokeCores]) rfl rfl
theorem State.MemInv.renumber (q : Part) (onto : List Nat) : (s.renumber q onto).MemInv := by
  refine h.parts rfl rfl rfl fun x hx => ?_
  obtain ⟨y, hy, rfl⟩ := List.mem_map.1 hx
  split
  · exact (h.memOk hy).of_parked rfl
  · exact h.memOk hy
theorem State.MemInv.moveBlocks (q : Part) (v : Variant) (offs : List Nat) : (s.moveBlocks q v offs).MemInv := by
  refine State.MemInv.modPart (s := { s with due := _ }) h _ fun x hx ks hks => ?_
  obtain ⟨old, hold, rfl⟩ := Option.map_eq_some_iff.1 hks
  intro k hk
  obtain ⟨⟨c, i⟩, hc, rfl⟩ := List.mem_map.1 hk
  exact hx old hold c (List.fst_mem_of_mem_zipIdx hc)
theorem State.MemInv.takeBack (q : Part) (v : Variant) (dies quads : List Nat) : (s.takeBack q v dies quads).MemInv := by
  unfold State.takeBack
  dsimp only
  refine State.MemInv.schedG (State.MemInv.unpark (State.MemInv.grantCores ?_ _) _) ..
  refine State.MemInv.putSlots (State.MemInv.takeSlots (State.MemInv.placeBlocks (State.MemInv.keepPart ?_ _) ..) ..) ..
  exact State.MemInv.foldl (((h.moveBlocks ..).withFree _).renumber ..) _ fun _ c ht => ht.setCore c rfl

/-! ### Moving to another variant -/

theorem State.MemInv.applyItem (cores : List Nat) (old : List Core) (e : EquivLine) : (s.applyItem cores old e).MemInv := by
  unfold State.applyItem
  dsimp only
  split
  · exact h.modCore _ (Mem.writeBytes_wf (h.core _) ..)
  · exact h.modCtx ..
  · exact h.modCtx ..
  · exact h
theorem State.MemInv.enterPoint (y : Syllabus) (n w line off c r : Nat) : (s.enterPoint y n w line off c r).MemInv := by
  unfold State.enterPoint
  split
  · exact (h.keepCore c).issueAt ..
  · exact h.keepCore c
theorem State.MemInv.reshape (q : Part) (y : Syllabus) (n w : Nat) (v : Variant) (dies quads : List Nat) :
    (s.reshape q y n w v dies quads).MemInv := by
  unfold State.reshape
  dsimp only
  refine State.MemInv.pairUnless (State.MemInv.keepPart ?_ _) ..
  refine State.MemInv.foldl (State.MemInv.foldl ?_ _ fun _ _ ht => ht.applyItem ..) _ fun _ _ ht => ht.enterPoint ..
  refine State.MemInv.loadCores (State.MemInv.takeSlots (State.MemInv.placeBlocks (State.MemInv.grantCores ?_ _) ..) ..) ..
  refine ((State.MemInv.claimAll (State.MemInv.withPorts ?_ _) _).grantPorts _).revokeCores _
  refine State.MemInv.revokePorts (State.MemInv.dropShadows (State.MemInv.modPart ?_ _ fun _ _ _ hks => ?_) _) _
  · exact (((h.unpark q).dropPart q.num).dropSlots q.num).withFree _
  · exact nomatch hks

theorem State.MemInv.tryReturn (q : Part) : (s.tryReturn q).MemInv := by
  unfold State.tryReturn
  dsimp only
  split
  · have hf : State.MemInv { s with free := s.free + 1 } := h
    split
    · exact hf.stated _ _ fun t ht => ht.takeBack ..
    · split
      · refine .ite ?_ ?_
        · exact .ite hf (hf.journal ..)
        · exact State.MemInv.stated (.ite hf (hf.journal ..)) _ _ fun t ht => ht.reshape ..
      · exact hf
  · exact h
theorem State.MemInv.resume (q : Part) : (s.resume q).MemInv := by
  unfold State.resume
  split
  · exact h
  · exact (h.keepPart _).relive ..

end

end Sys2Proof.Machine
end

section
/-! Canonical memories under the end of a cycle, the bell and the registrar (O56). -/
namespace Sys2Proof.Machine
set_option Elab.async false

/-! ### The records of a cycle leave what the office keeps -/

theorem Part.record_parked (q : Part) (g : Nat) (u : Nat → Nat) (fs : List FaultNow) : (q.record g u fs).parked = q.parked := by
  induction fs generalizing q with
  | nil => rfl
  | cons f fs ih =>
    refine (ih _).trans ?_
    split <;> rfl

theorem Part.faulted_parked (q : Part) (i : Option Nat) : (q.faulted i).parked = q.parked := by
  unfold Part.faulted
  split
  · rfl
  · split <;> rfl

section
variable {s : State} (h : s.MemInv)
include h

/-! ### The end of a cycle -/

theorem State.MemInv.closePart {q : Part} (hq : q.memOk) : (s.closePart q).MemInv := by
  unfold State.closePart
  split
  · split
    · have hj := h.keepPart q.num (f := fun x => { x.faulted none with joining := false })
        fun x => Part.faulted_parked x none
      exact .ite (hj.enterRecess ..) hj
    · exact h
  · have hf (p : Part) (hp : p.parked = q.parked) : (s.modPart q.num fun _ => p).MemInv :=
      h.modPart _ fun _ _ => hq.of_parked hp
    have hr := hf _ ((Part.faulted_parked { q.record s.gtc (s.ulog q) (orderFaults q.faultsNow) with faultsNow := [] }
      (some q.faults.length)).trans (Part.record_parked ..))
    exact .ite hr (hr.enterRecess ..)

theorem State.MemInv.closeFaults : s.closeFaults.MemInv := by
  have hall (qs : List Part) (hqs : ∀ q ∈ qs, q.memOk) {t : State} (ht : t.MemInv) : (qs.foldl State.closePart t).MemInv := by
    induction qs generalizing t with
    | nil => exact ht
    | cons q qs ih =>
      exact ih (fun r hr => hqs r (List.mem_cons_of_mem _ hr)) (ht.closePart (hqs q List.mem_cons_self))
  exact hall s.parts h.2.2.2 h

theorem State.MemInv.turn : s.turn.MemInv := h.closeFaults.keep

/-! ### Launches and postings -/

theorem State.MemInv.postEntry (fn : Nat) (w : Word) (reason part : Nat) : (s.postEntry fn w reason part).MemInv :=
  (h.modFn ..).reply _
theorem State.MemInv.refuse (l : Launch) (reason : Nat) : (s.refuse l reason).MemInv :=
  h.stated _ _ fun _ ht => (ht.modLaunch ..).postEntry ..
theorem State.MemInv.checkSubmission (l : Launch) : (s.checkSubmission l).MemInv := by
  unfold State.checkSubmission
  split
  · rename_i bs _ _
    have hs : State.MemInv (if imageOk bs l.len then
        s.modLaunch l.sub fun x => { x with syl := some (readSyllabus bs), level := (readSyllabus bs).level } else s) :=
      .ite (h.modLaunch ..) h
    dsimp only
    split
    · exact hs.refuse ..
    · exact .ite (hs.refuse ..) (hs.stated _ _ fun _ ht => ht.modLaunch ..)
  · exact h.refuse ..
theorem State.MemInv.orLater : s.orLater.MemInv := .ite (h.later 1) h

theorem State.MemInv.refuseSuccessors : s.refuseSuccessors.MemInv := by
  refine h.foldl _ fun t k ht => ?_
  split
  · exact ht
  · exact .ite (ht.refuse ..) ht
theorem State.MemInv.joinQueues : s.joinQueues.MemInv :=
  h.foldl _ fun _ _ ht => ht.stated _ _ fun _ hu => hu.modLaunch ..
theorem State.MemInv.timeHeads (held : Bool) : (s.timeHeads held).MemInv := h.keep
theorem State.MemInv.orderPromotions : s.orderPromotions.MemInv := by
  refine h.foldl _ fun t l ht => ?_
  split
  · exact .ite (ht.schedG ..) ht
  · exact ht
theorem State.MemInv.preempt : s.preempt.MemInv := by
  unfold State.preempt
  split
  · exact h
  · dsimp only
    split
    · exact h
    · split
      · exact h
      · exact h.stated _ _ fun _ ht => ht.foldl _ fun _ _ hu => hu.keepPart _
theorem State.MemInv.admitAt (l : Launch) (vn : Nat) (v : Variant) (bell : Nat) : (s.admitAt l vn v bell).MemInv := by
  have hj : State.MemInv (if v.links.isEmpty then s else s.journal .porter .slotTable) := .ite h (h.journal ..)
  have ha := hj.stated .registrar .admission (act := (·.admission l vn v bell)) fun _ ht => ht.admission ..
  exact .ite hj (.ite ha.keep ha)
theorem State.MemInv.admitHead (l : Launch) : (s.admitHead l).MemInv := by
  unfold State.admitHead
  split
  · exact h
  · split
    · exact h
    · exact h.admitAt ..
theorem State.MemInv.admitLevel (level : Nat) : (s.admitLevel level).MemInv :=
  State.MemInv.foldl (h.foldl _ fun _ _ ht => ht.tryReturn _) _ fun _ _ ht => ht.admitHead _

/-! ### Thermal duty -/

theorem State.MemInv.orderDuty (first : Nat) (hbm ds : List Nat) : (s.orderDuty first hbm ds).MemInv :=
  .ite h (h.journal .prefect .duty).keep
theorem State.MemInv.thermalBell : s.thermalBell.MemInv := by
  have hcool : State.MemInv { s with hbm := s.hbm.map Stack.atBell, dies := s.dies.map Die.atBell } :=
    h.dies rfl (fun i => by simp [Die.atBell]) rfl rfl
  have hduty (t : State) (ht : t.MemInv) : State.MemInv
      (let u := { t with duty := t.duty.filter fun d => decide (t.gtc / Config.period < d.first + 8) }
       if (t.gtc / Config.period + 1) % 8 = 0 then u.orderDuty (t.gtc / Config.period + 1) u.hotStacks u.hotDies else u) :=
    .ite ((ht.withDuty _).orderDuty ..) (ht.withDuty _)
  unfold State.thermalBell
  refine hduty _ ?_
  split
  · exact hcool
  · exact hcool.reply _

/-! ### Courses -/

theorem State.MemInv.latchAll : s.latchAll.MemInv := by
  refine h.parts rfl rfl rfl fun q hq => ?_
  obtain ⟨x, hx, rfl⟩ := List.mem_map.1 hq
  exact (h.memOk hx).of_parked rfl
theorem State.MemInv.unhold : s.unhold.MemInv := h.keep
theorem State.MemInv.postCompletions : s.postCompletions.MemInv := by
  refine h.foldl _ fun t q ht => ?_
  split
  · split
    · exact ht
    · exact State.MemInv.stated (s := t.drawNat.2) ht _ _ fun _ hu => ((hu.modLaunch ..).postEntry ..).schedG ..
  · exact ht
theorem State.MemInv.fail (q : Part) : (s.fail q).MemInv := by
  have hd : s.drawNat.2.MemInv := h
  exact State.MemInv.schedG (State.MemInv.keepPart (hd.stopMove q) _) ..
theorem State.MemInv.keepCores (q : Part) : (s.keepCores q).MemInv := (h.stopMove q).keepPart _
theorem State.MemInv.gather {q : Part} (hq : q.memOk) : (s.gather q).MemInv := by
  have hj : { q with joining := q.joining || s.due.any (Timed.follows q.num) }.memOk := hq
  exact State.MemInv.closePart ((h.dropDue _).modPart _ fun _ _ => hj) hj
theorem State.MemInv.takeCourse (q : Part) (r : Recess) : (s.takeCourse q r).MemInv := by
  have hf : State.MemInv { s with free := s.free + 1 } := h
  refine .ite hf (hf.stated _ _ fun t ht => ?_)
  split
  · exact ht.fail q
  · exact ht.rollback q
  · exact ht.keepCores q
theorem State.MemInv.decideCourse {q : Part} (hq : q.memOk) : (s.decideCourse q).MemInv := by
  have hg := h.gather hq
  unfold State.decideCourse
  split
  · exact h
  · dsimp only
    split
    · exact hg
    · split
      · exact hg
      · exact .ite hg (hg.takeCourse ..)
theorem State.MemInv.resumeDue (q : Part) : (s.resumeDue q).MemInv := by
  have hf : State.MemInv { s with free := s.free + 1 } := h
  unfold State.resumeDue
  split
  · exact h
  · exact .ite ((hf.journal ..).resume q) hf
theorem State.MemInv.bellEntry (ordered : List Nat) (q : Part) : (State.bellEntry ordered s q).MemInv :=
  .ite (State.MemInv.enterRecess (h.keepPart _) ..) h
theorem State.MemInv.watch (q : Part) : (s.watch q).MemInv := .ite (h.schedG ..) h
theorem State.MemInv.waitOn (q : Part) : (s.waitOn q).MemInv := .ite (h.keepPart _) h
theorem State.MemInv.eachPart {f : State → Part → State} (hf : ∀ (t : State) q, t.MemInv → q.memOk → (f t q).MemInv) :
    (s.eachPart f).MemInv := by
  refine h.foldl _ fun t p ht => ?_
  split
  · rename_i q hq
    exact hf t q ht (ht.part hq)
  · exact ht
theorem State.MemInv.receive : s.receive.MemInv := by
  refine h.foldl _ fun t l ht => ?_
  exact .ite (.ite ((ht.modLaunch ..).imageRead l) ((ht.modLaunch ..).askImage ..)) ht
theorem State.MemInv.registrarBell : s.registrarBell.MemInv := by
  refine List.foldlRecOn _ _ h fun t ht f hf => .ite ht ?_
  simp only [List.mem_cons, List.not_mem_nil, or_false] at hf
  rcases hf with rfl | rfl | rfl | rfl | rfl | rfl | rfl | rfl
  · exact ht.postCompletions
  · exact ht.eachPart fun _ _ hu hq => hu.decideCourse hq
  · exact ht.refuseSuccessors
  · exact ht.joinQueues
  · exact ht.timeHeads false
  · exact ht.orderPromotions
  · exact ht.preempt
  · exact ht.foldl _ fun _ l hu => hu.admitLevel l

/-! ### Start and retirement -/

theorem State.MemInv.postAdmission (q : Part) : (s.postAdmission q).MemInv := .ite (h.later 1) (h.postEntry ..)
theorem State.MemInv.letGo (q : Part) : (s.letGo q).MemInv := by
  have hj : State.MemInv (if q.claims.isEmpty then s else s.journal .porter .slotTable) := .ite h (h.journal ..)
  have hr := hj.journal .registrar .release
  exact .ite (hj.later 2) (.ite (hr.later 1) (hr.release q))
theorem State.MemInv.presentCard (p key : Nat) (t : Tenant) (bs : List Byte) : (s.presentCard p key t bs).MemInv :=
  h.presentBytes ..

end

end Sys2Proof.Machine
end

section
/-! Canonical memories after the steps of the cores, the arrays, memory, the engines and the links (O56). -/
namespace Sys2Proof.Machine
set_option Elab.async false

/-- The state that an outcome gives, when it gives one, has canonical memories. -/
def Canonical (o : Outcome) : Prop := ∀ t, o = .next t → t.MemInv

theorem Canonical.next {t : State} (h : t.MemInv) : Canonical (.next t) := fun _ e => Host.Outcome.next.inj e ▸ h

theorem Canonical.ite {c : Prop} [Decidable c] {o o' : Outcome} (h : Canonical o) (h' : Canonical o') :
    Canonical (if c then o else o') := by
  split
  · exact h
  · exact h'

section
variable {s : State} (h : s.MemInv)
include h

/-! ### The steps of a core (01, 03, 08, 09) -/

theorem execBundleIssue_canonical : Canonical (execBundleIssue s) := by
  unfold execBundleIssue
  split
  · split
    · exact .next h
    · rename_i c _ _ q _
      have hj : State.MemInv (if q.judged = some (q.ttc s.gtc) then s
          else (s.joinAtLine q (q.ttc s.gtc)).judge q c (q.ttc s.gtc)) := .ite h ((h.joinAtLine ..).judge ..)
      exact .ite (.next hj) (.next (hj.startBundle ..))
  · exact .next h
theorem execSegmentExpansion_canonical : Canonical (execSegmentExpansion s) := by
  unfold execSegmentExpansion
  split
  · exact .next (h.modCtx ..)
  · exact .next h
theorem execRegisterWrite_canonical : Canonical (execRegisterWrite s) := by
  unfold execRegisterWrite
  split
  · exact .next (h.writeFault ..)
  · exact .next (h.keepCore _)
  · exact .next h
theorem execPigeonholeWrite_canonical : Canonical (execPigeonholeWrite s) := by
  unfold execPigeonholeWrite
  split
  · dsimp only
    split
    · exact .next (h.pigWrite ..)
    · exact .next ((h.dropDue _).raise ..)
  · exact .next h
theorem execBarrierArrival_canonical : Canonical (execBarrierArrival s) := by
  unfold execBarrierArrival
  split
  · split
    · exact .next (h.sched ..)
    · exact .next (h.modCtx ..)
  · exact .next h
theorem execDeliveryFault_canonical : Canonical (execDeliveryFault s) := by
  unfold execDeliveryFault
  split
  · exact .next (h.raiseAs ..)
  · exact .next h
theorem execStagePerform_canonical : Canonical (execStagePerform s) := by
  unfold execStagePerform
  split
  · dsimp only
    split
    · exact .next (State.MemInv.foldl ((h.dropDue _).stageFault ..) _ fun _ _ ht => ht.stageFault ..)
    · split
      · exact .next (h.keepDie _)
      · exact .next (h.stageFault ..)
  · exact .next h
theorem execSpawnDelivery_canonical : Canonical (execSpawnDelivery s) := by
  unfold execSpawnDelivery
  split
  · exact .next (State.MemInv.foldl ((h.dropDue _).deliverSpawn ..) _ fun _ _ ht => ht.deliverSpawn ..)
  · exact .next h
theorem execTwaitEnd_canonical : Canonical (execTwaitEnd s) := by
  unfold execTwaitEnd
  split
  · exact .next (h.modCtx ..)
  · exact .next h

/-! ### The arrays (08) -/

theorem execShadowRowWrite_canonical : Canonical (execShadowRowWrite s) := by
  unfold execShadowRowWrite
  split
  · exact .next ((h.modMx ..).renewMx ..)
  · exact .next h
theorem execPlaneExchange_canonical : Canonical (execPlaneExchange s) := by
  unfold execPlaneExchange
  split
  · exact .next (State.MemInv.keepCore (h.modMx ..) _)
  · exact .next h
theorem execScoreRowAppend_canonical : Canonical (execScoreRowAppend s) := by
  unfold execScoreRowAppend
  split
  · exact .next (h.append ..)
  · exact .next h
theorem execAccumulatorUpdate_canonical : Canonical (execAccumulatorUpdate s) := by
  unfold execAccumulatorUpdate
  split
  · exact .next (State.MemInv.keepCore ((h.readMx _).modMx ..) _)
  · exact .next h
theorem execAccumulatorClear_canonical : Canonical (execAccumulatorClear s) := by
  unfold execAccumulatorClear
  split
  · exact .next ((h.modMx ..).renewMx ..)
  · exact .next h
theorem execDrainRowAppend_canonical : Canonical (execDrainRowAppend s) := by
  unfold execDrainRowAppend
  split
  · exact .next (h.append ..)
  · exact .next h
theorem execCodebookWrite_canonical : Canonical (execCodebookWrite s) := by
  unfold execCodebookWrite
  split
  · exact .next ((h.modMx ..).renewMx ..)
  · exact .next h
theorem execChainReset_canonical : Canonical (execChainReset s) := by
  unfold execChainReset
  split
  · exact .next ((h.modMx ..).renewMx ..)
  · exact .next h
theorem execChainValueRead_canonical : Canonical (execChainValueRead s) := by
  have hw : State.MemInv { s with cur := { s.cur with who := { s.cur.who with src := 9 } } } := h
  unfold execChainValueRead
  split
  · split
    · exact .next h
    · split
      · exact .next h
      · dsimp only
        split
        · exact .next ((hw.raiseBlame ..).modMx ..)
        · exact .next ((h.take ..).sched ..)
  · exact .next h
theorem execChainUpdate_canonical : Canonical (execChainUpdate s) := by
  unfold execChainUpdate
  split
  · split
    · exact .next h
    · exact .next (((h.readMx _).modMx ..).renewMx ..)
  · exact .next h
theorem execNormalisedRowAppend_canonical : Canonical (execNormalisedRowAppend s) := by
  unfold execNormalisedRowAppend
  split
  · exact .next (.ite ((h.append ..).modMx ..) (h.append ..))
  · exact .next h
theorem execRowStateSaveAppend_canonical : Canonical (execRowStateSaveAppend s) := by
  unfold execRowStateSaveAppend
  split
  · exact .next (h.append ..)
  · exact .next h
theorem execRowStateLoad_canonical : Canonical (execRowStateLoad s) := by
  unfold execRowStateLoad
  split
  · exact .next ((h.modMx ..).renewMx ..)
  · exact .next h

/-! ### Memory (04, 11, 12) -/

theorem execLdAddressCheck_canonical : Canonical (execLdAddressCheck s) := by
  unfold execLdAddressCheck
  split
  · split
    · exact .next (h.raise ..)
    · exact .next (h.dispatchAccess _)
  · exact .next h
theorem execBankAccess_canonical : Canonical (execBankAccess s) := by
  unfold execBankAccess
  split
  · split
    · exact .next (h.raiseHolder ..)
    · exact .next ((h.enterUses _).performBank _)
  · exact .next h
theorem execQueueLoadAppend_canonical : Canonical (execQueueLoadAppend s) := by
  unfold execQueueLoadAppend
  split
  · exact .next (h.append ..)
  · exact .next h
theorem execQueuePushAppend_canonical : Canonical (execQueuePushAppend s) := by
  unfold execQueuePushAppend
  split
  · exact .next (h.append ..)
  · exact .next h
theorem execMemorySlot_canonical : Canonical (execMemorySlot s) := by
  unfold execMemorySlot
  split
  · split
    · exact .next (h.pair ..)
    · exact .next h
  · exact .next h
theorem execDeviceWritePerform_canonical : Canonical (execDeviceWritePerform s) := by
  unfold execDeviceWritePerform
  split
  · exact .next (h.foldl _ fun _ _ ht => ht.writeUnit ..)
  · exact .next h
theorem execStntUnitWrite_canonical : Canonical (execStntUnitWrite s) := by
  unfold execStntUnitWrite
  split
  · exact .next (State.MemInv.keepCore ((h.writeUnit ..).noteServed ..) _)
  · exact .next h
theorem execDrainCompletion_canonical : Canonical (execDrainCompletion s) := by
  unfold execDrainCompletion
  split
  · refine .next ?_
    dsimp only
    split
    · exact h.keepCore _
    · refine State.MemInv.foldl (h.keepCore _) _ fun t r ht => ?_
      split
      · exact ht
      · exact ht.raiseAt ..
  · exact .next h
theorem execOpenSlotService_canonical : Canonical (execOpenSlotService s) := by
  unfold execOpenSlotService
  split
  · exact .next (.ite ((h.noteServed ..).serveOpen _) (.ite (h.wait _) (h.commit _)))
  · exact .next h

/-! ### The transfer engine and near-memory units (15, 16) -/

theorem execWindowAddition_canonical : Canonical (execWindowAddition s) := by
  unfold execWindowAddition
  split
  · exact .next (State.MemInv.renewWindow (State.MemInv.modCtx (State.MemInv.meetWindow ((h.withFree _).dropDue _) ..) ..) ..)
  · exact .next h
theorem execTeCommandStart_canonical : Canonical (execTeCommandStart s) := by
  unfold execTeCommandStart
  split
  · split
    · exact .next ((h.raise ..).setLast ..)
    · exact .next (h.startElements _)
  · exact .next h
theorem execEngineElementIssue_canonical : Canonical (execEngineElementIssue s) := by
  unfold execEngineElementIssue
  split
  · split
    · exact .next (h.collide ..)
    · refine .next ?_
      split
      any_goals exact h.ownBank ..
      · exact h
      · split
        · exact h.peerBank ..
        · exact h.ownBank ..
      · exact h.fetchElement ..
  · exact .next h
theorem execTlistEntryRead_canonical : Canonical (execTlistEntryRead s) := by
  unfold execTlistEntryRead
  split
  · split
    · exact .next (h.collide ..)
    · exact .next (h.ownBank ..)
  · exact .next h
theorem execEngineElementArrival_canonical : Canonical (execEngineElementArrival s) := by
  unfold execEngineElementArrival
  split
  · refine .next (.ite (h.append ..) ?_)
    split
    · exact h.raiseBlame ..
    · exact .ite ((h.modMx ..).renewMx ..) (h.ownBank ..)
  · exact .next h
theorem execEngineFarWrite_canonical : Canonical (execEngineFarWrite s) := by
  unfold execEngineFarWrite
  split
  · refine .next ?_
    dsimp only
    split
    · exact h.sched ..
    · split
      · split
        · exact h.raise ..
        · exact h.sched ..
      · exact h.peerBank ..
    · exact h.engineRequest ..
    · exact h.toPort _ _ (h.engineFlits ..)
    · exact h
  · exact .next h
theorem execMulticastDelivery_canonical : Canonical (execMulticastDelivery s) := by
  unfold execMulticastDelivery
  split
  · split
    · refine .next (h.foldl _ fun t f ht => ?_)
      split
      · exact ht.append ..
      · exact ht
    · exact .next (h.foldl _ fun _ _ ht => ht.raise ..)
  · exact .next h
theorem execConfigWrite_canonical : Canonical (execConfigWrite s) := by
  unfold execConfigWrite
  split
  · exact .next (h.modMx ..)
  · exact .next h
theorem execAncestryReplace_canonical : Canonical (execAncestryReplace s) := by
  unfold execAncestryReplace
  split
  · exact .next (.ite ((h.modMx ..).renewMx ..) h)
  · exact .next h
theorem execNmcStart_canonical : Canonical (execNmcStart s) := by
  unfold execNmcStart
  split
  · split
    · exact .next h
    · split
      · exact .next (State.MemInv.keepCore (h.raise ..) _)
      · exact .next ((h.modStack ..).sched ..)
  · exact .next h
theorem execNmBlockRead_canonical : Canonical (execNmBlockRead s) := by
  unfold execNmBlockRead
  split
  · split
    · exact .next h
    · rename_i c k _ _ q _
      have ha := h.nmSource q c .a k
      have hb : State.MemInv (if (nmUses c.op).contains .b then (s.nmSource q c .a k).1.nmSource q c .b k
          else ((s.nmSource q c .a k).1, List.replicate 64 0, none)).1 := by
        split
        · exact ha.nmSource ..
        · exact ha
      exact .next (.ite (((hb.nmBuffer ..).sched ..).sched ..) ((hb.nmBuffer ..).sched ..))
  · exact .next h
theorem execNmBlockWrite_canonical : Canonical (execNmBlockWrite s) := by
  unfold execNmBlockWrite
  split
  · split
    · refine .next ?_
      split
      · exact h.writeUnit ..
      · exact State.MemInv.sched ((h.writeUnit ..).withPoison _) ..
    · exact .next h
  · exact .next h
theorem execNmDataFault_canonical : Canonical (execNmDataFault s) := by
  unfold execNmDataFault
  split
  · exact .next (h.raiseBlame ..)
  · exact .next h
theorem execSelfTest_canonical : Canonical (execSelfTest s) := by
  have hd : s.drawNat.2.MemInv := h
  unfold execSelfTest
  split
  · dsimp only
    split
    · exact .next (h.testUnit ..)
    · split
      · exact .next h
      · split
        · exact .next (h.later 0)
        · split
          · exact .next hd
          · split
            · exact .next ((hd.journal ..).later 0)
            · exact .next (State.MemInv.testUnit (hd.journal ..).keep ..)
  · exact .next h

/-! ### The links (22) -/

theorem execLinkSendElement_canonical : Canonical (execLinkSendElement s) := by
  unfold execLinkSendElement
  split
  · exact .next (.ite (h.ownBank ..) (h.sendHead ..))
  · exact .next h
theorem execLinkForwardElement_canonical : Canonical (execLinkForwardElement s) := by
  unfold execLinkForwardElement
  split
  · exact .next (h.sendHead ..)
  · exact .next h
theorem execFlitSlotPlacement_canonical : Canonical (execFlitSlotPlacement s) := by
  have hsent (xs : List (Nat × Flit)) : State.MemInv { s with sent := xs } := h
  unfold execFlitSlotPlacement
  split
  · dsimp only
    split
    · exact .next (((hsent _).dropDue _).flitFault ..)
    · split
      · exact .next ((h.dropDue _).flitFault ..)
      · split
        · exact .next (h.keep)
        · exact .next ((h.dropDue _).sched ..)
  · exact .next h
theorem execFlitLanding_canonical : Canonical (execFlitLanding s) := by
  have core (o : Option Nat) (f : Nat → State) (hf : ∀ c, (f c).MemInv) :
      State.MemInv (match o with | some c => f c | none => s) := by
    cases o
    · exact h
    · exact hf _
  unfold execFlitLanding
  split
  · refine .next ?_
    split
    · exact core _ _ fun _ => h.landRow ..
    · exact h.landAccess ..
    · exact core _ _ fun _ => h.landAddition ..
    · exact core _ _ fun _ => h.landReply ..
    · exact core _ _ fun _ => h.landElement ..
    · exact core _ _ fun _ => h.landFault ..
    · exact h.landTransit ..
    · exact h.landBad ..
    · exact (h.modPort ..).countErr ..
    · exact h.present _
  · exact .next h
theorem execElasticOverrun_canonical : Canonical (execElasticOverrun s) := by
  unfold execElasticOverrun
  split
  · exact .next ((h.countErr ..).foldl _ fun _ _ ht => .ite (ht.raisePart ..) ht)
  · exact .next h
theorem execGroupRecess_canonical : Canonical (execGroupRecess s) := by
  unfold execGroupRecess
  split
  · split
    · exact .next (h.keepPart _)
    · split
      · exact .next (h.schedOn ..)
      · exact .next (h.keepPart _)
  · exact .next h

end

end Sys2Proof.Machine
end

section
/-! Canonical memories after the steps of the office and of the host (O56). -/
namespace Sys2Proof.Machine
set_option Elab.async false

section
variable {s : State} (h : s.MemInv)
include h

/-! ### The registrar (19, 23) -/

theorem execSubmissionCheck_canonical : Canonical (execSubmissionCheck s) := by
  unfold execSubmissionCheck
  split
  · split
    · exact .next h
    · refine .ite (.next h) (.ite (.next (h.later 1)) (.ite (.next (h.schedG ..)) (.next (State.MemInv.orLater ?_))))
      exact .ite (h.refuse ..) (h.checkSubmission _)
  · exact .next h
theorem execQueuePromotion_canonical : Canonical (execQueuePromotion s) := by
  unfold execQueuePromotion
  split
  · split
    · exact .next h
    · exact .ite (.next (h.stated _ _ fun _ ht => (ht.withLaunches _).modLaunch ..)) (.next h)
  · exact .next h
theorem execBell_canonical : Canonical (execBell s) := by
  have hu := h.latchAll.thermalBell.unhold
  have hr : State.MemInv (if s.latchAll.thermalBell.unhold.holds 1 then s.latchAll.thermalBell.unhold.timeHeads true
      else s.latchAll.thermalBell.unhold.registrarBell) := .ite (hu.timeHeads true) hu.registrarBell
  have he := (hr.eachPart fun _ q ht _ => ht.resumeDue q).eachPart fun _ q ht _ => ht.bellEntry
    ((s.latchAll.thermalBell.unhold.parts.filter fun q => q.order.isSome).map (·.num)) q
  refine .next (State.MemInv.schedG (State.MemInv.eachPart ?_ fun _ _ ht _ => .ite (ht.keepPart _) ht) ..)
  exact .ite (he.eachPart fun _ q ht _ => ht.waitOn q) (he.eachPart fun _ q ht _ => ht.watch q).receive
theorem execHangDetected_canonical : Canonical (execHangDetected s) := by
  unfold execHangDetected
  split
  · exact .next (State.MemInv.orLater (h.stated _ _ fun _ ht => ht.keepPart _))
  · exact .next h
theorem execPartitionStart_canonical : Canonical (execPartitionStart s) := by
  unfold execPartitionStart
  split
  · split
    · exact .next h
    · refine .ite (.next (h.postAdmission _)) (.ite (.next (State.MemInv.schedG (h.keepPart _) ..)) (.next ?_))
      have hstart {t : State} (ht : t.MemInv) (cs : List Nat) : (cs.foldl (fun s c => s.modCore c Core.start) t).MemInv :=
        ht.foldl _ fun _ _ hu => hu.keepCore _
      have hissue {t : State} (ht : t.MemInv) (cs : List Nat) :
          (cs.foldl (fun s c => if (s.ctx c).life = .running then s.issueAt c 0 else s) t).MemInv :=
        ht.foldl _ fun _ _ hu => .ite (hu.issueAt ..) hu
      have hmatch {t : State} (ht : t.MemInv) (o : Option Part) : State.MemInv (match o with
          | some q => State.bellEntry [] t q
          | none => t) := by
        cases o
        · exact ht
        · exact ht.bellEntry ..
      refine hmatch (State.MemInv.schedOn (State.MemInv.postAdmission (State.MemInv.pairUnless ?_ ..) _) ..) _
      exact hissue (State.MemInv.keepPart (hstart h _) _) _
  · exact .next h
theorem execLaunchRetirement_canonical : Canonical (execLaunchRetirement s) := by
  have hpost (p : Nat) {t : State} (ht : t.MemInv) : State.MemInv (if t.holds 1 then t.later 1
      else t.modPart p fun q => { q with pigLive := q.pigLive.setIfInBounds 126 (completion 1 q.variant q.sub) }) :=
    .ite (ht.later 1) (ht.keepPart _)
  unfold execLaunchRetirement
  split
  · split
    · exact .next h
    · refine .ite (.next (.ite (hpost _ h) (.ite (h.letGo _) h))) (.ite (.next h) ?_)
      split
      · exact .next (hpost _ (State.MemInv.keepPart (h.dropDue _) _))
      · exact .ite (.next h) (.next (h.schedOn ..))
  · exact .next h
theorem execRollCallComplete_canonical : Canonical (execRollCallComplete s) := by
  unfold execRollCallComplete
  split
  · rename_i p _
    split
    · exact .next h
    · split
      · exact .next h
      · have hcalled (r : Option Recess) (es : List Engine) : ((es.foldl (fun s e => s.schedG s.gtc [95] (.errorLasting e.unit))
            (s.modPart p fun q => { q with recess := r })).poisonReturns p).MemInv :=
          (State.MemInv.foldl (h.keepPart p) es fun _ _ ht => ht.schedG ..).poisonReturns p
        exact .ite (.next (((hcalled ..).evict _).schedG ..)) (.next (hcalled ..))
  · exact .next h
theorem execLaunchFailure_canonical : Canonical (execLaunchFailure s) := by
  have hsettle (p : Nat) (c : Option (Nat × Nat)) : (s.modPart p fun q =>
      { q with card := c, pigLive := q.pigLive.setIfInBounds 126 (completion 2 q.variant q.sub) }).MemInv := h.keepPart _
  unfold execLaunchFailure
  split
  · split
    · exact .next h
    · refine .ite (.next h) (.ite (.next (h.letGo _)) (.ite (.next (h.later 1)) ?_))
      split
      · exact .next (hsettle ..)
      · exact .ite (.next (hsettle ..))
          (.next (State.MemInv.presentCard (State.MemInv.keepPart (.ite (h.unpark _) h) _) ..))
      · exact .next (hsettle ..)
  · exact .next h
theorem execContextMove_canonical : Canonical (execContextMove s) := by
  unfold execContextMove
  split
  · split
    · exact .next h
    · rename_i p out _ _ q _
      have hc := h.foldl q.cores (f := fun s c => s.modCore c fun k => { k with shadow := some (p, k.ctx) })
        fun _ _ ht => ht.keepCore _
      refine .ite (.next ((h.evict q).schedG ..)) (.ite (.next ?_) (.next ?_))
      · split
        · exact hc.schedG ..
        · rename_i u hu
          exact (hc.park _ _ u hu).schedG ..
      · refine State.MemInv.modPart (State.MemInv.foldl (h.dropShadows _) _ fun _ _ ht => ht.modCtx ..) _ ?_
        exact fun _ _ _ hks => nomatch hks
  · exact .next h
theorem execStorePark_canonical : Canonical (execStorePark s) := by
  unfold execStorePark
  split
  · split
    · exact .next h
    · rename_i p out _ _ q hq
      refine .ite (.next ?_) (.next ?_)
      · refine State.MemInv.modPart (State.MemInv.renumber (State.MemInv.revokeCores (State.MemInv.dropSlots
          (h.foldl _ fun _ _ ht => ht.keepCore _) _) _) ..) _ fun x hx ks hks k hk => ?_
        obtain rfl := Option.some.inj hks
        obtain ⟨c, -, rfl⟩ := List.mem_map.1 hk
        exact h.core c
      · refine State.MemInv.schedG (h.foldl _ fun t r ht => ht.setCore _ ?_) ..
        exact Part.memOk.getD (h.part hq) r
  · exact .next h

/-! ### The services (20) -/

theorem State.MemInv.officeEvent (kind : Nat) (v : Service) : (s.officeEvent kind v).MemInv := by
  refine State.MemInv.foldl ?_ _ fun _ _ ht => ht.reply _
  refine (h.journal .prefect .event).parts rfl rfl rfl fun q hq => ?_
  obtain ⟨x, hx, rfl⟩ := List.mem_map.1 hq
  exact (h.memOk hx).of_parked rfl
theorem State.MemInv.extendLog (v : Service) : (s.extendLog v).MemInv := (h.journal .prefect .measurement).keep
theorem execImageStage_canonical : Canonical (execImageStage s) := by
  unfold execImageStage
  split
  · exact .ite (.next (h.modSvc ..)) (.next h)
  · exact .next h
theorem State.MemInv.startImport (v : Service) (r : List Byte) : (s.startImport v r).MemInv := (h.modSvc ..).setDeadline ..
theorem execHandoverOrder_canonical : Canonical (execHandoverOrder s) := by
  unfold execHandoverOrder
  split
  · exact .ite (.next h) (.ite (.next ((h.modSvc ..).schedG ..)) (.ite (.next ((h.modSvc ..).startImport ..)) (.next h)))
  · exact .next h
theorem execHandoverRecordComplete_canonical : Canonical (execHandoverRecordComplete s) := by
  unfold execHandoverRecordComplete
  split
  · exact .ite (.next ((h.dropDue _).startImport ..)) (.next h)
  · exact .next h
theorem execQuiesceTimeout_canonical : Canonical (execQuiesceTimeout s) := by
  unfold execQuiesceTimeout
  split
  · exact .ite (.next ((h.modSvc ..).officeEvent ..)) (.next h)
  · exact .next h
theorem State.MemInv.replayJournal (v : Service) : (s.replayJournal v).MemInv := h.keep
theorem execHeartbeat_canonical : Canonical (execHeartbeat s) := by
  unfold execHeartbeat
  split
  · exact .next (h.modSvc ..)
  · dsimp only
    split
    · exact .ite (.next (((h.modSvc ..).setDeadline ..).schedG ..)) (.next h)
    · exact .next (h.setDeadline ..)
    · exact .next ((State.MemInv.extendLog ((h.replayJournal _).modSvc ..) _).officeEvent ..)
    · exact .next h
  · exact .next h
theorem execHeartbeatDeadline_canonical : Canonical (execHeartbeatDeadline s) := by
  unfold execHeartbeatDeadline
  split
  · refine .ite (.next h) ?_
    dsimp only
    split
    · exact .next ((h.modSvc ..).fallBack _)
    · exact .next ((h.modSvc ..).fallBack _)
    · exact .next (((h.modSvc ..).modSvc ..).officeEvent ..)
    · exact .next (h.modSvc ..)
  · exact .next h
theorem execAbandonRequest_canonical : Canonical (execAbandonRequest s) := by
  unfold execAbandonRequest
  split
  · exact .next (.ite (h.fallBack _) h)
  · exact .next h
theorem execJournalAppend_canonical : Canonical (execJournalAppend s) := by
  unfold execJournalAppend
  split
  · exact .next (h.journalEntry ..)
  · exact .next h
theorem execProbationCommit_canonical : Canonical (execProbationCommit s) := by
  unfold execProbationCommit
  split
  · exact .ite (.next (h.modSvc ..))
      (.ite (.next (((State.MemInv.extendLog (h.modSvc ..) _).officeEvent ..).schedG ..)) (.next h))
  · exact .next h
theorem execQuoteRequest_canonical : Canonical (execQuoteRequest s) := by
  unfold execQuoteRequest
  split
  · split
    · exact .next h
    · split
      · exact .next (h.later _)
      · exact .next (h.reply _)
  · exact .next h

/-! ### Bring-up and the management port (23) -/

theorem execBringUp_canonical : Canonical (execBringUp s) := by
  unfold execBringUp
  split
  · exact .ite (.next h) (.ite (.next h.keep) (.next (State.MemInv.keep (h.dropDue fun x => x.what == .bell))))
  · exact .next h
theorem State.MemInv.manage {f : State → State} (hf : ∀ t : State, t.MemInv → (f t).MemInv) : (s.manage f).MemInv :=
  .ite (.ite h.keep (.ite (hf s h).keep (hf s h))) h
theorem State.MemInv.classify {f : State → State} (hf : ∀ t : State, t.MemInv → (f t).MemInv) : (s.classify f).MemInv :=
  .ite h.keep (.ite (hf s h).keep (hf s h))
theorem State.MemInv.newTenant (t : Nat) : (s.newTenant t).MemInv := h.keep
theorem execCreateTenant_canonical : Canonical (execCreateTenant s) := by
  unfold execCreateTenant
  split
  · exact .next (h.manage fun _ ht => .ite ht (ht.stated _ _ fun _ hu => hu.newTenant _))
  · exact .next h
theorem execAssignFunction_canonical : Canonical (execAssignFunction s) := by
  unfold execAssignFunction
  split
  · exact .next (h.manage fun _ ht => .ite ht (ht.stated _ _ fun _ hu => hu.modFn ..))
  · exact .next h
theorem execSetHostMap_canonical : Canonical (execSetHostMap s) := by
  unfold execSetHostMap
  split
  · exact .next (h.manage fun _ ht => .ite (ht.stated _ _ fun _ hu => hu.modFn ..) ht)
  · exact .next h
theorem execProvisionKeySlot_canonical : Canonical (execProvisionKeySlot s) := by
  unfold execProvisionKeySlot
  split
  · exact .next (h.manage fun _ ht => .ite ht (ht.stated _ _ fun _ hu => hu.keep))
  · exact .next h
theorem execAssignChannelGroups_canonical : Canonical (execAssignChannelGroups s) := by
  unfold execAssignChannelGroups
  split
  · exact .next (h.manage fun _ ht => ht.stated _ _ fun _ hu => hu.keep)
  · exact .next h
theorem execReadTelemetry_canonical : Canonical (execReadTelemetry s) := by
  unfold execReadTelemetry
  split
  · exact .next (h.reply _)
  · exact .next (h.manage fun _ ht => ht.reply _)
  · exact .next h
theorem execReadFlashLog_canonical : Canonical (execReadFlashLog s) := by
  unfold execReadFlashLog
  split
  · exact .next (h.manage fun _ ht => ht.reply _)
  · exact .next h
theorem execSetIdeKeys_canonical : Canonical (execSetIdeKeys s) := by
  unfold execSetIdeKeys
  split
  · exact .next (h.manage fun _ ht => ht.stated _ _ fun _ hu => hu.keep)
  · exact .next h

/-! ### Temperature, lasting units and cores (13, 18, 23) -/

theorem State.MemInv.shutDown (e : FlashEntry) : (s.shutDown e).MemInv := h.keep
theorem State.MemInv.banded {c : Prop} [Decidable c] : State.MemInv (if c then s else s.reply .bandChange) :=
  .ite h (h.reply _)
theorem State.MemInv.dutied {c : Prop} [Decidable c] (n : Nat) (hs ds : List Nat) :
    State.MemInv (if c then s.orderDuty n hs ds else s) := .ite (h.orderDuty ..) h
theorem execStackBandChange_canonical : Canonical (execStackBandChange s) := by
  unfold execStackBandChange
  split
  · rename_i i tmax duty _
    have hd : State.MemInv (if duty.isSome then s.journal .prefect .duty else s) := .ite (h.journal ..) h
    exact .next (.ite (((hd.withHbm _).banded.dutied ..).shutDown _) ((hd.withHbm _).banded.dutied ..))
  · exact .next h
theorem execDieBandChange_canonical : Canonical (execDieBandChange s) := by
  unfold execDieBandChange
  split
  · rename_i d tmax duty _
    have hd (w : Word) : State.MemInv ((if duty.isSome then s.journal .prefect .duty else s).modDie d
        fun x => { x with tdie := w }) := State.MemInv.keepDie (.ite (h.journal ..) h) _
    exact .next (.ite (((hd _).banded.dutied ..).shutDown _) ((hd _).banded.dutied ..))
  · exact .next h
theorem execUndervoltage_canonical : Canonical (execUndervoltage s) := by
  unfold execUndervoltage
  split
  · exact .next (h.shutDown _)
  · exact .next h
theorem execErrorLasting_canonical : Canonical (execErrorLasting s) := by
  unfold execErrorLasting
  split
  · refine .next (h.classify fun t ht => .ite ht (ht.stated _ _ fun u hu => ?_))
    dsimp only
    split
    · refine hu.parts rfl rfl rfl fun q hq => ?_
      obtain ⟨x, hx, rfl⟩ := List.mem_map.1 hq
      split
      · exact (hu.memOk hx).of_parked rfl
      · exact hu.memOk hx
    · exact hu.keep
  · exact .next h
theorem execCoreReset_canonical : Canonical (execCoreReset s) := by
  unfold execCoreReset
  split
  · exact .ite (.next h) (.next (State.MemInv.keepCore (h.journal ..) _))
  · exact .next h
theorem execCoreGating_canonical : Canonical (execCoreGating s) := by
  unfold execCoreGating
  split
  · exact .next ((h.journal ..).modCtx ..)
  · exact .next h

/-! ### The host (23) -/

theorem State.MemInv.hostNext : s.hostNext.MemInv := by
  unfold State.hostNext
  split
  · exact h
  · exact h.keep
theorem State.MemInv.applying : s.applying.MemInv := by
  unfold State.applying
  split
  · exact h
  · exact h.keep
theorem State.MemInv.inOrder {f : State → State} (hf : ∀ t : State, t.MemInv → (f t).MemInv) : (s.inOrder f).MemInv := by
  have hq (ws : List Work) : State.MemInv { s with hostQueue := ws } := h
  exact .ite h (.ite (State.MemInv.hostNext (.ite h (hf _ (hq _).applying))) (.ite (hq _) (.ite (hq _).hostNext
    (hf _ h.applying))))
theorem State.MemInv.submit (fn : Nat) (v : Word) : (s.submit fn v).MemInv := by
  unfold State.submit
  split
  · exact h
  · exact .ite (State.MemInv.refuse h.keep ..) h.keep
theorem State.MemInv.setTail (fn : Nat) (v : Word) : (s.setTail fn v).MemInv := h.modFn ..
theorem State.MemInv.pageWrite (fn p n : Nat) (v : Word) : (s.pageWrite fn p n v).MemInv := by
  unfold State.pageWrite
  split
  · exact .ite (h.keepPart _) h
  · exact h
theorem State.MemInv.windowWrite (fn off : Nat) (v : Word) : (s.windowWrite fn off v).MemInv :=
  .ite (h.modFn ..) (.ite (h.modFn ..) (.ite (h.modFn ..) (.ite (.ite (h.submit ..) (h.modFn ..))
    (.ite (h.setTail ..) (.ite (h.pageWrite ..) h)))))
theorem State.MemInv.openPiece (fn : Nat) (w : Bool) (x : List Byte × Nat × MapEntry) : (s.openPiece fn w x).MemInv :=
  h.present _
theorem State.MemInv.deviceRead (fn off len : Nat) : (s.deviceRead fn off len).MemInv := by
  unfold State.deviceRead
  split
  · exact h.reply _
  · exact .ite (h.foldl _ fun _ _ ht => ht.openPiece ..) (h.reply _)
theorem State.MemInv.deviceWrite (fn off : Nat) (data : List Byte) : (s.deviceWrite fn off data).MemInv := by
  unfold State.deviceWrite
  split
  · exact h.reply _
  · exact .ite (h.foldl _ fun _ _ ht => ht.openPiece ..) (h.modFn ..)
theorem execSubmissionGo_canonical : Canonical (execSubmissionGo s) := by
  unfold execSubmissionGo
  split
  · exact .next (h.inOrder fun _ ht => ht.submit ..)
  · exact .next h
theorem execEvtailWrite_canonical : Canonical (execEvtailWrite s) := by
  unfold execEvtailWrite
  split
  · exact .next (h.inOrder fun _ ht => ht.setTail ..)
  · exact .next h
theorem execPigeonholePageWrite_canonical : Canonical (execPigeonholePageWrite s) := by
  unfold execPigeonholePageWrite
  split
  · exact .next (h.inOrder fun _ ht => ht.pageWrite ..)
  · exact .next h
theorem execHostRegisterWrite_canonical : Canonical (execHostRegisterWrite s) := by
  unfold execHostRegisterWrite
  split
  · exact .next (h.inOrder fun _ ht => ht.windowWrite ..)
  · exact .next h
theorem execDeviceWindowRead_canonical : Canonical (execDeviceWindowRead s) := by
  unfold execDeviceWindowRead
  split
  · exact .next (h.inOrder fun _ ht => ht.deviceRead ..)
  · exact .next h
theorem execDeviceWindowWrite_canonical : Canonical (execDeviceWindowWrite s) := by
  unfold execDeviceWindowWrite
  split
  · exact .next (h.inOrder fun _ ht => ht.deviceWrite ..)
  · exact .next h
theorem State.MemInv.admitMember (l : Launch) (bell : Nat) (facing : List (Nat × Nat × Nat)) :
    (s.admitMember l bell facing).MemInv := by
  unfold State.admitMember
  split
  · exact h
  · exact .ite ((h.admitAt ..).later 2) (h.admitAt ..).orLater
theorem State.MemInv.loseMember (l : Launch) : (s.loseMember l).MemInv := by
  refine .ite (h.stated _ _ fun t ht => ?_) (h.refuse ..)
  refine ht.parts rfl rfl rfl fun q hq => ?_
  obtain ⟨x, hx, rfl⟩ := List.mem_map.1 hq
  split
  · exact (ht.memOk hx).of_parked rfl
  · exact ht.memOk hx
theorem execGroupAgreement_canonical : Canonical (execGroupAgreement s) := by
  unfold execGroupAgreement
  split
  · refine .ite (.next (h.later 1)) (.ite (.next (State.MemInv.orLater (h.foldl _ fun _ _ ht => ht.loseMember _))) ?_)
    split
    · exact .next (h.admitMember ..)
    · exact .next h
  · exact .next h

end

end Sys2Proof.Machine
end

section
/-! Every instruction and every step keeps the memories in their canonical form (O56). -/
namespace Sys2Proof.Machine
set_option Elab.async false

section
variable {s : State} (h : s.MemInv)
include h

/-! ### The instructions of the slots -/

theorem State.MemInv.issues (i : Instr) {f : State → State} (hf : (f s).MemInv) : Canonical (.next (s.issue i f)) :=
  .next (h.issue i hf)
theorem State.MemInv.queueRead (f : XC) (peek : Bool) : (s.queueRead f peek).MemInv := by
  unfold State.queueRead
  dsimp only
  split
  · exact (h.take ..).write ..
  · exact h
theorem execWrsr_canonical (f : SY) : Canonical (execWrsr f s) := by
  refine .next ?_
  split
  · exact h.sched ..
  · exact h.write ..
  · exact h
theorem execBarr_canonical (f : SY) : Canonical (execBarr f s) := by
  refine h.issues _ ?_
  dsimp only
  split
  · split
    · exact h.faultAt ..
    · exact h.sched ..
  · exact h.sched ..
theorem execEndI_canonical (f : SY) : Canonical (execEndI f s) :=
  h.issues _ (((State.MemInv.drainNow ((h.dropIssue _).modCtx ..)).signOfLife.sched ..).sched ..)
theorem execCkpt_canonical (f : SY) : Canonical (execCkpt f s) := by
  have hk : (s.modCore s.me (Core.takeLine · true)).MemInv := h.keepCore _ fun k => by unfold Core.takeLine; rfl
  refine h.issues _ ?_
  dsimp only
  split
  · exact .ite (hk.takePartLine ..) hk
  · exact hk
theorem execChb_canonical (f : MXF) : Canonical (execChb f s) := h.issues _ (((h.take ..).sched ..).beat _)
theorem execNmc_canonical (f : TEF) : Canonical (execNmc f s) := h.issues _ (h.setsCore rfl (h.core s.me))

/-- Every instruction of a slot, and every pending step, keeps the memories canonical. -/
theorem exec_canonical (i : Instr) : Canonical (exec i s) := by
  cases i with
  -- the S slot
  | nop => exact .next h
  | add f | sub f | and f | or f | xor f | shl f | shr f | sar f | min f | max f | minu f | maxu f | clz f | popc f
  | mul f | mulh f | mulhu f | div f | divu f | rem f | remu f => exact .next (h.alu ..)
  | addi f | andi f | ori f | xori f | shli f | shri f | sari f | cmpiEq f | cmpiNe f | cmpiLt f | cmpiGe f | cmpiLtu f
  | cmpiGeu f | sel f | lui f | binit f | trd f | fsyn f => exact .next (h.write ..)
  | cmpEq f | cmpNe f | cmpLt f | cmpGe f | cmpLtu f | cmpGeu f => exact .next (h.cmp ..)
  | gand f | gor f | gxor f => exact .next (h.guardOp ..)
  | gtos f | stog f => exact .next (.ite (h.write ..) h)
  | br f | call f | ret f => exact h.issues _ (h.branch ..)
  | segj f => exact h.issues _ (.ite ((h.modSeq _).segmentJump _) (h.modSeq _))
  | loop f | loopi f => exact h.issues _ (h.modSeq _)
  | rdsr f => exact .next ((h.latch _).write ..)
  | wrsr f => exact execWrsr_canonical h f
  | pgrd f => exact .next (.ite (h.write ..) (h.faultAt ..))
  | pgwr f => exact h.issues _ (.ite (h.sched ..) (h.faultAt ..))
  | trap f => exact h.issues _ h
  | endI f => exact execEndI_canonical h f
  | twait f => exact h.issues _ (.ite ((((h.dropIssue _).modSeq _).issueAt ..).sched ..) h)
  | tchk f => exact State.MemInv.issues (.ite h.signOfLife h) _ (.ite h.signOfLife h)
  | solo f => exact h.issues _ (h.write ..)
  | barr f => exact execBarr_canonical h f
  | bchk f => exact h.issues _ (h.modCtx ..)
  | spawn f | acqsW f | acqsR f | relsW f | relsR f => exact h.issues _ (h.sched ..)
  | ckpt f => exact execCkpt_canonical h f
  -- the LD slot
  | plil f | plih f | padd f | paddi f | pmov f => exact .next (h.write ..)
  | ldw f | ldr f | ldh f | ldv f | stw f | str f | sth f | stv f | ldq f | stnt f => exact .next (h.access ..)
  | ldt f | amoAdd f | amoMin f | amoMax f | amoSwap f | amoCas f => exact .next (h.access ..)
  | ldg f | stg f | stg16 f => exact .next (h.access ..)
  | lda f | sta f => exact .next (h.access ..)
  | agset f | agadv f => exact .next (.ite (h.write ..) h)
  | drain f => exact .next (.ite h.drainNow h)
  -- the vector slots
  | fadd f | fsub f | fmul f | fmin f | fmax f | fcmpEq f | fcmpNe f | fcmpLt f | fcmpLe f | fcmpUn f
  | vrsum f | vrmax f | vrmin f | vrsumg f | vstat f | cvtBf16F32 f | cvtF32Bf16 f | cvtE4m3F32 f | cvtF32E4m3 f
  | cvtE5m2F32 f | cvtF32E5m2 f | cvtI32F32 f | cvtF32I32 f | cvtmx8 f | cvtmx4 f | unmx f | cb4dec f | cb4enc f
  | exp f | log f | rcp f | rsq f | tiev f | vrng f => exact .next ((h.write ..).write ..)
  | fma f | fms f | fnma f => exact .next ((h.write ..).write ..)
  | icmpEq f | icmpNe f | icmpLt f | icmpGe f | icmpLtu f | icmpGeu f => exact .next ((h.write ..).write ..)
  | fabs f | fneg f | fcps f | fclass f | fsel f | iadd f | isub f | imul f | imulh f | imin f | imax f | iand f | ior f
  | ixor f | ishl f | ishr f | isar f | viota f | vperm f | mand f | mor f | mnot f | mpop f | tiel f | vrngk f
  | vrngc f | vskip f => exact .next (h.write ..)
  | iaddi f | iandi f | iori f | ixori f | ishli f | ishri f | isari f | vli f | vrot f | vbcastl f =>
    exact .next (h.write ..)
  -- the copy slots
  | cpy f | cpyl f | cbc f | cpm f | cpyp f => exact .next (h.write ..)
  | qpop f | qpeek f => exact h.issues _ (h.queueRead ..)
  | qpush f => exact .next (h.sched ..)
  -- the MX slot
  | slatch f | cbld f | chld f | spush f => exact h.issues _ ((h.take ..).mxWrite ..)
  | vopa f => exact h.issues _ (((h.take ..).take ..).mxWrite ..)
  | svpair f => exact h.issues _ (((((h.take ..).take ..).take ..).mxWrite ..).oRow ..)
  | sswap f | vzero f | chsv f => exact h.issues _ (h.mxWrite ..)
  | vdrain f | chn f => exact h.issues _ ((h.oRow ..).write ..)
  | chs f => exact h.issues _ ((h.modMx ..).mxWrite ..)
  | chb f => exact execChb_canonical h f
  | sshift f => exact h.issues _ (.ite (h.beat _) h)
  -- the TE slot
  | shp f => exact h.issues _ (h.bank ..)
  | tagset f => exact h.issues _ (h.write ..)
  | xfer f | xferq f | xstore f | tlist f | xred f | xacc f | xmc f | mkcfg f | pptld f | vbmld f | lsend f | lfwd f =>
    exact h.issues _ (h.startCmd _)
  | nmc f => exact execNmc_canonical h f
  | nmfence f => exact h.issues _ h
  -- the pending steps
  | bundleIssue => exact execBundleIssue_canonical h
  | segmentExpansion => exact execSegmentExpansion_canonical h
  | registerWrite => exact execRegisterWrite_canonical h
  | ldAddressCheck => exact execLdAddressCheck_canonical h
  | bankAccess => exact execBankAccess_canonical h
  | queueLoadAppend => exact execQueueLoadAppend_canonical h
  | queuePushAppend => exact execQueuePushAppend_canonical h
  | pigeonholeWrite => exact execPigeonholeWrite_canonical h
  | memorySlot => exact execMemorySlot_canonical h
  | deviceWritePerform => exact execDeviceWritePerform_canonical h
  | stntUnitWrite => exact execStntUnitWrite_canonical h
  | drainCompletion => exact execDrainCompletion_canonical h
  | openSlotService => exact execOpenSlotService_canonical h
  | barrierArrival => exact execBarrierArrival_canonical h
  | deliveryFault => exact execDeliveryFault_canonical h
  | spawnDelivery => exact execSpawnDelivery_canonical h
  | stagePerform => exact execStagePerform_canonical h
  | twaitEnd => exact execTwaitEnd_canonical h
  | teCommandStart => exact execTeCommandStart_canonical h
  | engineElementIssue => exact execEngineElementIssue_canonical h
  | engineElementArrival => exact execEngineElementArrival_canonical h
  | engineFarWrite => exact execEngineFarWrite_canonical h
  | tlistEntryRead => exact execTlistEntryRead_canonical h
  | windowAddition => exact execWindowAddition_canonical h
  | multicastDelivery => exact execMulticastDelivery_canonical h
  | configWrite => exact execConfigWrite_canonical h
  | ancestryReplace => exact execAncestryReplace_canonical h
  | nmcStart => exact execNmcStart_canonical h
  | nmBlockRead => exact execNmBlockRead_canonical h
  | nmBlockWrite => exact execNmBlockWrite_canonical h
  | nmDataFault => exact execNmDataFault_canonical h
  | shadowRowWrite => exact execShadowRowWrite_canonical h
  | planeExchange => exact execPlaneExchange_canonical h
  | scoreRowAppend => exact execScoreRowAppend_canonical h
  | accumulatorUpdate => exact execAccumulatorUpdate_canonical h
  | accumulatorClear => exact execAccumulatorClear_canonical h
  | drainRowAppend => exact execDrainRowAppend_canonical h
  | codebookWrite => exact execCodebookWrite_canonical h
  | chainReset => exact execChainReset_canonical h
  | chainValueRead => exact execChainValueRead_canonical h
  | chainUpdate => exact execChainUpdate_canonical h
  | normalisedRowAppend => exact execNormalisedRowAppend_canonical h
  | rowStateSaveAppend => exact execRowStateSaveAppend_canonical h
  | rowStateLoad => exact execRowStateLoad_canonical h
  | linkSendElement => exact execLinkSendElement_canonical h
  | linkForwardElement => exact execLinkForwardElement_canonical h
  | flitSlotPlacement => exact execFlitSlotPlacement_canonical h
  | flitLanding => exact execFlitLanding_canonical h
  | elasticOverrun => exact execElasticOverrun_canonical h
  | groupRecess => exact execGroupRecess_canonical h
  | bell => exact execBell_canonical h
  | hangDetected => exact execHangDetected_canonical h
  | queuePromotion => exact execQueuePromotion_canonical h
  | partitionStart => exact execPartitionStart_canonical h
  | submissionCheck => exact execSubmissionCheck_canonical h
  | launchRetirement => exact execLaunchRetirement_canonical h
  | rollCallComplete => exact execRollCallComplete_canonical h
  | launchFailure => exact execLaunchFailure_canonical h
  | contextMove => exact execContextMove_canonical h
  | storePark => exact execStorePark_canonical h
  | stackBandChange => exact execStackBandChange_canonical h
  | dieBandChange => exact execDieBandChange_canonical h
  | undervoltage => exact execUndervoltage_canonical h
  | errorLasting => exact execErrorLasting_canonical h
  | selfTest => exact execSelfTest_canonical h
  | coreReset => exact execCoreReset_canonical h
  | coreGating => exact execCoreGating_canonical h
  | imageStage => exact execImageStage_canonical h
  | handoverOrder => exact execHandoverOrder_canonical h
  | handoverRecordComplete => exact execHandoverRecordComplete_canonical h
  | quiesceTimeout => exact execQuiesceTimeout_canonical h
  | heartbeat => exact execHeartbeat_canonical h
  | heartbeatDeadline => exact execHeartbeatDeadline_canonical h
  | abandonRequest => exact execAbandonRequest_canonical h
  | journalAppend => exact execJournalAppend_canonical h
  | probationCommit => exact execProbationCommit_canonical h
  | quoteRequest => exact execQuoteRequest_canonical h
  | submissionGo => exact execSubmissionGo_canonical h
  | evtailWrite => exact execEvtailWrite_canonical h
  | pigeonholePageWrite => exact execPigeonholePageWrite_canonical h
  | deviceWindowRead => exact execDeviceWindowRead_canonical h
  | deviceWindowWrite => exact execDeviceWindowWrite_canonical h
  | hostRegisterWrite => exact execHostRegisterWrite_canonical h
  | groupAgreement => exact execGroupAgreement_canonical h
  | bringUp => exact execBringUp_canonical h
  | createTenant => exact execCreateTenant_canonical h
  | assignFunction => exact execAssignFunction_canonical h
  | setHostMap => exact execSetHostMap_canonical h
  | provisionKeySlot => exact execProvisionKeySlot_canonical h
  | assignChannelGroups => exact execAssignChannelGroups_canonical h
  | readTelemetry => exact execReadTelemetry_canonical h
  | readFlashLog => exact execReadFlashLog_canonical h
  | setIdeKeys => exact execSetIdeKeys_canonical h

end

/-! ### The step -/

/-- Settles O56: a step enters a slot, raises an illegal instruction, takes up a pending step or ends the cycle, and each
keeps the memories canonical. -/
theorem stepKeepsMemoriesCanonical : Obligations.StepKeepsMemoriesCanonical := by
  intro s t h hstep
  have hslot (slot : Nat) (rest : List Nat) : (s.enterSlot slot rest).MemInv := h
  unfold step at hstep
  split at hstep
  · split at hstep
    · split at hstep
      · exact exec_canonical (hslot ..) _ t hstep
      · exact Canonical.next ((hslot ..).raise ..) t hstep
    · split at hstep
      · have hb (x : Timed) : (s.begin_ x).MemInv := h
        exact exec_canonical (hb _) _ t hstep
      · exact Canonical.next h.turn t hstep
  · exact nomatch hstep

end Sys2Proof.Machine
end

section
/-! The pointer instructions, the address generators and the accesses that the LD slot leaves (O14, O15). -/
namespace Sys2Proof.Machine
set_option Elab.async false

/-! ### Pointers (R89) -/

theorem insertHalf_getLsbD {p : Ptr} {k n i : Nat} (hn : n < 2 ^ 16) (hi : i < 64) :
    (insertHalf p k n).getLsbD i = if i / 16 = k then n.testBit (i % 16) else p.getLsbD i := by
  have hones (j : Nat) : (0xFFFF : Nat).testBit j = decide (j < 16) := Nat.testBit_two_pow_sub_one 16 j
  have hhigh (j : Nat) (hj : 16 ≤ j) : n.testBit j = false :=
    Nat.testBit_lt_two_pow (hn.trans_le (Nat.pow_le_pow_right two_pos hj))
  have hmask : ((0xFFFF : Ptr) <<< (16 * k)).getLsbD i = decide (i / 16 = k) := by
    rw [BitVec.getLsbD_shiftLeft, show (0xFFFF : Ptr) = BitVec.ofNat 64 0xFFFF from rfl, BitVec.getLsbD_ofNat, hones]
    rw [Bool.eq_iff_iff]
    simp only [Bool.and_eq_true, Bool.not_eq_true', decide_eq_true_eq, decide_eq_false_iff_not]
    omega
  have hhalf : ((BitVec.ofNat 64 n) <<< (16 * k)).getLsbD i = (decide (i / 16 = k) && n.testBit (i % 16)) := by
    rw [BitVec.getLsbD_shiftLeft, BitVec.getLsbD_ofNat]
    by_cases h : i / 16 = k
    · have hsub : i - 16 * k = i % 16 := by omega
      have hge : ¬ i < 16 * k := by omega
      have hlt : i % 16 < 64 := by omega
      simp [h, hsub, hge, hlt, hi]
    · by_cases hl : i < 16 * k
      · simp [h, hl]
      · simp [h, hhigh (i - 16 * k) (by omega)]
  rw [insertHalf, BitVec.getLsbD_or, BitVec.getLsbD_and, BitVec.getLsbD_not, hmask, hhalf]
  by_cases h : i / 16 = k <;> simp [h, hi]

theorem sextPtr_toNat (b n : Nat) : ((sextPtr b n).toNat : Int) = sext b n % 2 ^ 64 := by
  rw [sextPtr, BitVec.toNat_ofInt]
  exact Int.toNat_of_nonneg (Int.emod_nonneg _ (by norm_num))

/-- An address is a pointer with a sign-extended offset, scaled, modulo 2^64 (R84, R89). -/
theorem toNat_add_sextPtr_mul (p : Ptr) (b n z : Nat) :
    ((p + sextPtr b n * BitVec.ofNat 64 z).toNat : Int) = ((p.toNat : Int) + sext b n * z) % 2 ^ 64 := by
  have hs := sextPtr_toNat b n
  rw [BitVec.toNat_add, BitVec.toNat_mul, BitVec.toNat_ofNat]
  push_cast
  rw [hs]
  simp [Int.add_emod, Int.mul_emod]

/-- A pointer instruction writes one pointer at t+1. -/
theorem State.pointer_answers {s : State} {i : Instr} {n : Nat} {v : Ptr} {P : Ptr → Prop}
    (he : exec i s = .next (s.pointer n v)) (hv : P v) : s.Answers i fun t => ∃ v, P v ∧ s.Writes t [(1, .p n v)] :=
  ⟨_, he, v, hv, s.writes_write ..⟩

/-! ### Guarded instructions of the LD slot -/

/-- An instruction that acts under its guard, and is else without effect. -/
theorem State.guarded_answers {s u : State} {i : Instr} {g : Nat} {neg : Bool} {P : State → Prop}
    (he : exec i s = .next (if s.myCtx.guard g neg then u else s)) (hu : P u) :
    s.Answers i fun t => (s.Takes g neg → P t) ∧ (¬ s.Takes g neg → t = s) :=
  ⟨_, he, State.takes_ite (P := P) (Q := (· = s)) hu rfl⟩

/-- An access left, under its guard, to be checked at t+1. -/
theorem State.access_answers {s : State} {i : Instr} {g : Nat} {neg : Bool} {a : Access} {P : State → Prop}
    (he : exec i s = .next (s.access g neg a)) (hP : ∀ t, s.Defers t [(s.t + 1, .ldAddressCheck a)] → P t) :
    s.Answers i fun t => (s.Takes g neg → P t) ∧ (¬ s.Takes g neg → t = s) :=
  State.guarded_answers he (hP _ (s.defers_sched ..))

/-! ### Generators (R298, R299) -/

theorem leNat_bytesOf_cons (w : Word) (ws : List Word) : leNat (bytesOf (w :: ws)) = w.toNat + 2 ^ 32 * leNat (bytesOf ws) := by
  have hw := w.isLt
  simp only [bytesOf, List.flatMap_cons, wordBytes, leBytes, List.cons_append, List.nil_append, leNat, BitVec.toNat_ofNat]
  omega

/-- Words laid end to end, lowest first, are read back one by one. -/
theorem leNat_bytesOf_word (ws : List Word) (k : Nat) :
    leNat (bytesOf ws) / 2 ^ (32 * k) % 2 ^ 32 = (ws.getD k 0).toNat := by
  induction ws generalizing k with
  | nil => simp [bytesOf, leNat]
  | cons w ws ih =>
    rw [leNat_bytesOf_cons]
    have hw := w.isLt
    cases k with
    | zero => simpa using hw
    | succ k =>
      rw [Nat.mul_succ, Nat.add_comm (32 * k), pow_add, ← Nat.div_div_eq_div_mul, Nat.add_mul_div_left _ _ (by norm_num),
        Nat.div_eq_of_lt hw, Nat.zero_add, ih]
      rfl

/-- A field of the lowest 256 bits is one of the number. -/
theorem mod_field {n k : Nat} (hk : k < 8) : n % 2 ^ 256 / 2 ^ (32 * k) % 2 ^ 32 = n / 2 ^ (32 * k) % 2 ^ 32 := by
  rw [show 2 ^ 256 = 2 ^ (32 * k) * 2 ^ (256 - 32 * k) by rw [← pow_add]; congr 1; omega, Nat.mod_mul_right_div_self,
    Nat.mod_mod_of_dvd _ (pow_dvd_pow 2 (by omega))]

theorem agsetValue_word (x : Lanes) {k : Nat} (hk : k < 8) :
    (BitVec.ofNat 256 (leNat (bytesOf (x.toList.take 8)))).toNat / 2 ^ (32 * k) % 2 ^ 32 = (lane x k).toNat := by
  rw [BitVec.toNat_ofNat, mod_field hk, leNat_bytesOf_word]
  simp [List.getD_eq_getElem?_getD, List.getElem?_take_of_lt hk, lane]

theorem posMask_getLsbD (i : Nat) : (BitVec.ofNat 256 (0xFFFFFFFF * 2 ^ 192)).getLsbD i = decide (192 ≤ i ∧ i < 224) := by
  have hones (j : Nat) : (0xFFFFFFFF : Nat).testBit j = decide (j < 32) := Nat.testBit_two_pow_sub_one 32 j
  rw [BitVec.getLsbD_ofNat, Nat.testBit_mul_two_pow, hones, Bool.eq_iff_iff]
  simp only [Bool.and_eq_true, decide_eq_true_eq]
  omega

theorem posValue_field (w : Word) : (BitVec.ofNat 256 (w.toNat * 2 ^ 192)).toNat / 2 ^ 192 % 2 ^ 32 = w.toNat := by
  have hw := w.isLt
  rw [BitVec.toNat_ofNat]
  omega

theorem toNat_add_sextWord (n b m : Nat) :
    ((BitVec.ofNat 32 n + sextWord b m).toNat : Int) = ((n : Int) + sext b m) % 2 ^ 32 := by
  have hs : ((sextWord b m).toNat : Int) = sext b m % 2 ^ 32 := by
    rw [sextWord, BitVec.toNat_ofInt]
    exact Int.toNat_of_nonneg (Int.emod_nonneg _ (by norm_num))
  rw [BitVec.toNat_add, BitVec.toNat_ofNat]
  push_cast
  rw [hs]
  simp [Int.add_emod]

theorem sizeOf_eq (n : Nat) : sizeOf_ n = [4, 256, 512, 1024].getD n 1024 := by
  match n with
  | 0 | 1 | 2 | 3 => rfl
  | _ + 4 => rfl

theorem genFault_none (k : Nat) (v : BitVec 256) : genFault k v = none ↔ field v.toNat 223 192 < field v.toNat 255 224 := by
  unfold genFault agPos
  split
  case isTrue h => simp [h]
  case isFalse h => simpa using h

/-- LDA and STA leave the access that their generator gives (R300). -/
theorem State.generated_answers {s : State} {i : Instr} {f : LG} {kind : AccessKind} {data : Lanes}
    (he : exec i s = .next (s.generated f kind data)) (hd : kind = .store → data = s.myCtx.rd f.tg) :
    let v := (s.myCtx.rag f.ag).toNat
    let part (hi lo : Nat) : Nat := v / 2 ^ lo % 2 ^ (hi + 1 - lo)
    s.Answers i fun t => (s.Takes f.g f.neg → ∃ a : Access,
      a.kind = kind ∧ a.tg = f.tg ∧ a.size = [4, 256, 512, 1024].getD f.size 1024 ∧
      a.ea.toNat = (part 63 0 + part 191 160 * part 127 64 + part 223 192 * part 159 128) % 2 ^ 64 ∧
      (a.gen = none ↔ part 223 192 < part 255 224) ∧ (kind = .store → a.data = s.myCtx.rd f.tg) ∧
      s.Defers t [(s.t + 1, .ldAddressCheck a)]) ∧ (¬ s.Takes f.g f.neg → t = s) :=
  State.access_answers he fun _ ht => ⟨_, rfl, rfl, sizeOf_eq _, BitVec.toNat_ofNat .., genFault_none .., hd, ht⟩

/-- Settles O14: each instruction writes or leaves exactly the value that its fields give. -/
theorem pointersAndGenerators : Obligations.PointersAndGenerators := by
  refine ⟨fun s f => ⟨fun hi ha => ?_, fun hi => ?_, ?_, fun hi => ?_, ?_⟩, fun s f => ⟨?_, ?_, ?_, ?_⟩⟩
  · refine State.pointer_answers rfl fun i h => ?_
    rw [Nat.mod_eq_of_lt ha]
    exact insertHalf_getLsbD hi h
  · exact State.pointer_answers rfl (by rw [BitVec.toNat_ofNat, Nat.mod_eq_of_lt (by omega)])
  · exact State.pointer_answers rfl (BitVec.toNat_add ..)
  · exact State.pointer_answers rfl (by simpa using toNat_add_sextPtr_mul (s.myCtx.rp f.pa) 16 f.imm 1)
  · exact State.pointer_answers rfl rfl
  · exact State.guarded_answers rfl ⟨_, fun _ hk => agsetValue_word _ hk, s.writes_write ..⟩
  · refine State.guarded_answers rfl ⟨_, _, fun i _ => posMask_getLsbD i, ?_, s.writes_write ..⟩
    rw [posValue_field, toNat_add_sextWord]
    rfl
  · exact State.generated_answers rfl (by simp)
  · exact State.generated_answers rfl fun _ => rfl

/-! ### Accesses (R84, R90 to R96, R249) -/

theorem mem_laneAddrs {x : Ctx} {f : LX} {w k : Nat} {ea : Ptr} : (k, ea) ∈ x.laneAddrs f w ↔
    k < 256 ∧ (x.rl f.lm).getLsbD k = true ∧ ea = x.rp f.ptr + BitVec.ofNat 64 (w * (lane (x.rd f.idx) k).toNat) := by
  unfold Ctx.laneAddrs
  simp only [List.mem_filterMap, List.mem_range, Option.ite_none_right_eq_some, Option.some.injEq, Prod.mk.injEq]
  constructor
  · rintro ⟨i, hi, hm, rfl, rfl⟩
    exact ⟨hi, hm, rfl⟩
  · rintro ⟨hk, hm, rfl⟩
    exact ⟨k, hk, hm, rfl, rfl⟩

/-- LDG, STG and STG16 leave one access of the lanes that their mask selects. -/
theorem State.indexed_answers {s : State} {i : Instr} {f : LX} {kind : AccessKind} {w : Nat} {data : Lanes} {P : Access → Prop}
    (he : exec i s = .next (s.indexed f kind w data)) (hP : ∀ a : Access, a.data = data → P a) :
    s.Answers i fun t => (s.Takes f.g f.neg → ∃ a, P a ∧ a.kind = kind ∧ a.tg = f.tg ∧ a.size = w ∧ a.solo = s.myCtx.solo ∧
      (∀ k ea, (k, ea) ∈ a.lanes ↔ k < 256 ∧ (s.myCtx.rl f.lm).getLsbD k = true ∧
        ea.toNat = ((s.myCtx.rp f.ptr).toNat + w * (lane (s.myCtx.rd f.idx) k).toNat) % 2 ^ 64) ∧
      s.Defers t [(s.t + 1, .ldAddressCheck a)]) ∧ (¬ s.Takes f.g f.neg → t = s) := by
  refine State.access_answers he fun t ht => ⟨_, hP _ rfl, rfl, rfl, rfl, rfl, fun k ea => ?_, ht⟩
  rw [mem_laneAddrs, ← BitVec.toNat_inj, BitVec.toNat_add, BitVec.toNat_ofNat, Nat.add_mod_mod]

/-- An instruction of format L.M or L.A leaves its access at its address (R84, R90 to R93, R96, R249). -/
theorem State.plain_answers {s : State} {i : Instr} {g p b n z : Nat} {neg : Bool} {kind : AccessKind} {tg : Nat} {data : Lanes}
    {P : Access → Prop}
    (he : exec i s = .next (s.access g neg (Access.plain s.myCtx kind tg
      (s.myCtx.rp p + sextPtr b n * BitVec.ofNat 64 z) z data)))
    (hP : ∀ a : Access, a.kind = kind ∧ a.tg = tg ∧ a.size = z ∧
      (a.ea.toNat : Int) = (((s.myCtx.rp p).toNat : Int) + sext b n * z) % 2 ^ 64 → a.data = data → P a) :
    s.Answers i fun t => (s.Takes g neg → ∃ a, P a ∧ a.lanes = [] ∧ a.gen = none ∧ a.solo = s.myCtx.solo ∧
      s.Defers t [(s.t + 1, .ldAddressCheck a)]) ∧ (¬ s.Takes g neg → t = s) :=
  State.access_answers he fun _ ht =>
    ⟨_, hP _ ⟨rfl, rfl, rfl, toNat_add_sextPtr_mul ..⟩ rfl, rfl, rfl, rfl, ht⟩

/-- Settles O15: each instruction leaves the one access that its fields and operands give. -/
theorem accessesLeftToCheck : Obligations.AccessesLeftToCheck := by
  refine ⟨fun s => ⟨fun f => ?_, fun f => ?_⟩, fun s f => ?_⟩
  · exact ⟨State.plain_answers rfl fun _ h _ => h, State.plain_answers rfl fun _ h _ => h,
      State.plain_answers rfl fun _ h _ => h, State.plain_answers rfl fun _ h _ => h,
      State.plain_answers rfl fun _ h hd => ⟨h, hd⟩, State.plain_answers rfl fun _ h hd => ⟨h, hd⟩,
      State.plain_answers rfl fun _ h hd => ⟨h, hd⟩, State.plain_answers rfl fun _ h hd => ⟨h, hd⟩,
      State.plain_answers rfl fun _ h _ => h, State.plain_answers rfl fun _ h hd => ⟨h, hd⟩⟩
  · exact ⟨State.plain_answers rfl fun _ h _ => h, State.plain_answers rfl fun _ h hd => ⟨h, hd⟩,
      State.plain_answers rfl fun _ h hd => ⟨h, hd⟩, State.plain_answers rfl fun _ h hd => ⟨h, hd⟩,
      State.plain_answers rfl fun _ h hd => ⟨h, hd⟩, State.plain_answers rfl fun _ h hd => ⟨h, hd⟩⟩
  · exact ⟨State.indexed_answers rfl fun _ _ => trivial, State.indexed_answers rfl fun _ h => h,
      State.indexed_answers rfl fun _ h => h⟩

end Sys2Proof.Machine
end

section
/-! The bank accesses (O55): an empty entry of a transfer list enters its banks among the uses of its cycle. -/
namespace Sys2Proof.Machine
set_option Elab.async false

/-- An entry of a transfer list that core 0 reads at address 0. -/
def emptyEntry : BankOp :=
  { holder := 0, req := 0, cyc := 0,
    act := .load 0 32 (.entry { op := 0x0B, start := 0, issue := 0, shape := 0, tag := 0 } 0) }

/-- The entry of a package after reset, where it is read as empty. -/
def entryAtReset : State := State.reset.doing (.bankAccess emptyEntry)

/-- The entry is alone on its bank, and stands among the uses of its cycle. -/
theorem entryAtReset_bankUses : ((entryAtReset.enterUses emptyEntry).performBank emptyEntry).bankUses.length = 1 := by
  rfl

theorem exec_entryAtReset : exec .bankAccess entryAtReset = .next ((entryAtReset.enterUses emptyEntry).performBank emptyEntry) := by
  rfl

/-- Refutes O55: after reset, core 0 reads an empty entry of a transfer list, which fits and has a KIND of 0. The statement has
the machine as it was before the step; but the entry, alone on its bank, has entered that bank among the uses of its cycle
(R86), of which there were none. -/
theorem not_bankAccesses : ¬ Obligations.BankAccesses := by
  intro h
  obtain ⟨halone, -, -⟩ := h State.reset 0 0 0 (by decide) (Or.inl rfl) (Or.inl rfl) rfl rfl
  have hunused : ∀ u ∈ State.reset.bankUses, u.holder ≠ 0 := fun _ hu => absurd hu List.not_mem_nil
  have hdue : ∀ x ∈ State.reset.due, State.reset.isDue x = true → ∀ b, x.what = .bankAccess b → b.holder ≠ 0 := by
    intro x hx _ b hb
    obtain rfl := List.mem_singleton.1 hx
    exact nomatch hb
  obtain ⟨-, -, -, -, -, -, -, -, -, hentry, -⟩ := halone hunused hdue
  obtain ⟨-, hempty, -⟩ := hentry 0 { op := 0x0B, start := 0, issue := 0, shape := 0, tag := 0 } 0 rfl
  obtain ⟨t, he, ht⟩ := hempty ⟨rfl, rfl, rfl, by decide, by decide⟩ rfl
  have hsame : (entryAtReset.enterUses emptyEntry).performBank emptyEntry = entryAtReset :=
    (Host.Outcome.next.inj (exec_entryAtReset.symm.trans he)).trans ht
  exact absurd (hsame ▸ entryAtReset_bankUses : entryAtReset.bankUses.length = 1) (by decide)

end Sys2Proof.Machine
end

section
/-! The check of an access at t+1: its faults, and the region that covers an address (O39). -/
namespace Sys2Proof.Machine
set_option Elab.async false

/-! ### The check (R84, R236) -/

theorem State.check_passes {s : State} {a : Access} {P : State → Prop} (h : s.accessFault a = none)
    (hP : P ((s.doing (.ldAddressCheck a)).dispatchAccess a)) : s.Does .ldAddressCheck (.ldAddressCheck a) P := by
  have h' : (s.doing (.ldAddressCheck a)).accessFault a = none := h
  refine ⟨_, ?_, hP⟩
  show execLdAddressCheck (s.doing (.ldAddressCheck a)) = _
  simp only [execLdAddressCheck, State.doing] at h' ⊢
  rw [h']

theorem State.check_raises {s : State} {a : Access} {code : Nat} {d : List Word} (h : s.accessFault a = some (code, d)) :
    s.Does .ldAddressCheck (.ldAddressCheck a) fun t =>
      (s.doing (.ldAddressCheck a)).Raises t s.me code s.cur.who.src d := by
  have h' : (s.doing (.ldAddressCheck a)).accessFault a = some (code, d) := h
  refine ⟨(s.doing (.ldAddressCheck a)).raise code d, ?_, ⟨_, rfl, rfl, rfl, rfl, rfl⟩⟩
  show execLdAddressCheck (s.doing (.ldAddressCheck a)) = _
  simp only [execLdAddressCheck, State.doing] at h' ⊢
  rw [h']

/-- The two words of an address, as the detail of a fault gives them. -/
def addrWords (n : Nat) : List Word := [BitVec.ofNat 32 n, BitVec.ofNat 32 (n / 2 ^ 32)]

/-- An access of one element, none of whose faults is that of a solo region, faults as its element does. -/
theorem State.accessFault_single {s : State} {a : Access} (hgen : a.gen = none) (he : a.elements = [(none, a.ea)]) :
    s.accessFault a = (s.elementFault a a.ea).map fun x =>
      if x.1 = 0x19 then (x.1, [3] ++ addrWords a.ea.toNat ++ [0xFFFFFFFF]) else (x.1, addrWords a.ea.toNat ++ x.2) := by
  simp only [State.accessFault, hgen, he, List.findSome?_cons, List.findSome?_nil]
  cases s.elementFault a a.ea <;> rfl

/-! ### The conditions of an element, one after another -/

section
variable {s : State} {a : Access} {ea : Ptr}

/-- The space and the fields of an element are ones that its access may have (R228, R229). -/
def State.reaches (s : State) (a : Access) (ea : Ptr) : Prop :=
  accepts a.kind a.size (space ea) = true ∧ s.fieldsOk ea.toNat = true

theorem Access.outside_of_solo_none (h : a.solo = none) : a.outside ea = false := by simp [Access.outside, h]

theorem State.elementFault_outside (h : a.outside ea = true) : s.elementFault a ea = some (0x19, []) := by
  simp [State.elementFault, h]

variable (hout : a.outside ea = false)
include hout

theorem State.elementFault_unreached (h : ¬ s.reaches a ea) : s.elementFault a ea = some (0x23, []) := by
  have h' : accepts a.kind a.size (space ea) = false ∨ s.fieldsOk ea.toNat = false := by
    simpa [State.reaches, Classical.or_iff_not_imp_left] using h
  simp [State.elementFault, hout, h']

variable (hreach : s.reaches a ea)
include hreach

theorem State.elementFault_misaligned (h : ea.toNat % a.size ≠ 0) : s.elementFault a ea = some (0x22, []) := by
  simp [State.elementFault, hout, hreach.1, hreach.2, h]

variable (halign : ea.toNat % a.size = 0)
include halign

/-- An element that reaches its space, aligned, has the conditions of its space left. -/
theorem State.elementFault_aligned : s.elementFault a ea =
    if space ea = 0xC ∧ a.kind = .store ∧ ¬ (64 ≤ field ea.toNat 11 2 ∧ field ea.toNat 11 2 ≤ 125) then some (0x21, [])
    else if space ea = 4 ∨ space ea = 5 then
      match translate ((s.part (s.partOf s.me)).elim [] (·.regions)) (a.kind == .store || a.kind == .stnt)
        (ea.toNat % 2 ^ 48) with
      | .error (code, idx) => some (code, [BitVec.ofNat 32 idx])
      | .ok _ => if a.kind = .stnt ∧ 32 ≤ (s.core s.me).stnts.length then some (0x14, [32]) else none
    else none := by
  simp only [State.elementFault, hout, hreach.1, hreach.2, halign]
  simp <;> rfl

theorem State.elementFault_plain (hsp : space ea ∉ [4, 5, 0xC]) : s.elementFault a ea = none := by
  rw [State.elementFault_aligned hout hreach halign]
  simp at hsp
  simp [hsp]

end
end Sys2Proof.Machine
end

section
/-! The faults of an access at its check, and the region that covers an address (R228, R229, R236, R249, O39). -/
namespace Sys2Proof.Machine
set_option Elab.async false

/-! ### Regions (R234, R236) -/

/-- An entry of a region table covers a virtual address. -/
def RegionCovers (e : BitVec 128) (a : Nat) : Prop :=
  e.getLsbD 127 = true ∧ 2 ^ 21 * regionField e 47 21 ≤ a ∧ a < 2 ^ 21 * regionField e 47 21 + 2 ^ regionField e 105 100

/-- A field of one bit. -/
theorem regionField_bit (e : BitVec 128) (i : Nat) : regionField e i i = if e.getLsbD i = true then 1 else 0 := by
  have hbit : e.getLsbD i = decide (e.toNat / 2 ^ i % 2 = 1) := Nat.testBit_eq_decide_div_mod_eq
  rw [regionField, field, hbit, Nat.sub_self, Nat.zero_add, pow_one]
  split
  case isTrue h => simpa using h
  case isFalse h => simpa using h

theorem regionCovers_iff {e : BitVec 128} {a : Nat} : RegionCovers e a ↔
    regionField e 127 127 = 1 ∧ regionField e 47 21 * 2 ^ 21 ≤ a ∧
      a < regionField e 47 21 * 2 ^ 21 + 2 ^ regionField e 105 100 := by
  rw [RegionCovers, regionField_bit, Nat.mul_comm (2 ^ 21)]
  simp

theorem findRegion_none {a : Nat} {rs : List (BitVec 128)} (h : ∀ e ∈ rs, ¬ RegionCovers e a) (i : Nat) :
    findRegion a i rs = none := by
  induction rs generalizing i with
  | nil => rfl
  | cons e rs ih =>
    obtain ⟨he, hrs⟩ := List.forall_mem_cons.1 h
    rw [regionCovers_iff] at he
    rw [findRegion, if_neg he, ih hrs]

theorem findRegion_first {a k : Nat} {e : BitVec 128} {rs : List (BitVec 128)} (hk : rs[k]? = some e) (he : RegionCovers e a)
    (hfirst : ∀ j d, j < k → rs[j]? = some d → ¬ RegionCovers d a) (i : Nat) : findRegion a i rs = some (i + k, e) := by
  induction rs generalizing k i with
  | nil => simp at hk
  | cons d rs ih =>
    cases k with
    | zero =>
      obtain rfl : d = e := by simpa using hk
      rw [findRegion, if_pos (regionCovers_iff.1 he), Nat.add_zero]
    | succ k =>
      have hd := hfirst 0 d (Nat.succ_pos k) rfl
      rw [regionCovers_iff] at hd
      rw [findRegion, if_neg hd, ih hk fun j d hj h => hfirst (j + 1) d (Nat.succ_lt_succ hj) h]
      rw [Nat.add_assoc, Nat.add_comm 1]

theorem translate_uncovered {rs : List (BitVec 128)} {a : Nat} (h : ∀ e ∈ rs, ¬ RegionCovers e a) (write : Bool) :
    translate rs write a = .error (0x20, 0xFF) := by
  rw [translate, findRegion_none h]

theorem translate_covered {rs : List (BitVec 128)} {a k : Nat} {e : BitVec 128} (hk : rs[k]? = some e) (he : RegionCovers e a)
    (hfirst : ∀ j d, j < k → rs[j]? = some d → ¬ RegionCovers d a) (write : Bool) :
    translate rs write a = if e.getLsbD (if write then 107 else 106) = true
      then .ok (2 ^ 21 * regionField e 81 64 + (a - 2 ^ 21 * regionField e 47 21), regionField e 113 108) else .error (0x21, k) := by
  rw [translate, findRegion_first hk he hfirst, Nat.zero_add]
  simp only [regionField_bit, Nat.mul_comm (2 ^ 21)]
  cases e.getLsbD (if write then 107 else 106) <;> simp

theorem translate_error_code {rs : List (BitVec 128)} {write : Bool} {a code i : Nat}
    (h : translate rs write a = .error (code, i)) : code = 0x20 ∨ code = 0x21 := by
  cases hf : findRegion a 0 rs with
  | none =>
    simp only [translate, hf, Except.error.injEq, Prod.mk.injEq] at h
    exact .inl h.1.symm
  | some x =>
    simp only [translate, hf] at h
    by_cases hr : regionField x.2 (if write then 107 else 106) (if write then 107 else 106) = 0
    · simp only [hr, if_true, Except.error.injEq, Prod.mk.injEq] at h
      exact .inr h.1.symm
    · simp [hr] at h

/-! ### An access of one element -/

section
variable {s : State} {a : Access} (hgen : a.gen = none) (hone : a.elements = [(none, a.ea)])
include hgen hone

theorem State.check_passes_single (h : s.elementFault a a.ea = none) : s.accessFault a = none := by
  rw [State.accessFault_single hgen hone, h]
  rfl

theorem State.check_raises_single {code : Nat} {d : List Word} (h : s.elementFault a a.ea = some (code, d)) (hc : code ≠ 0x19) :
    s.Does .ldAddressCheck (.ldAddressCheck a) fun t =>
      (s.doing (.ldAddressCheck a)).Raises t s.me code s.cur.who.src (addrWords a.ea.toNat ++ d) := by
  refine State.check_raises ?_
  rw [State.accessFault_single hgen hone, h, Option.map_some, if_neg hc]

variable (hsolo : a.solo = none)
include hsolo

/-- The space and the alignment of an access of one element, judged by what it means that its address reaches its space. -/
theorem State.check_judged {reaches : Prop} (hr : s.reaches a a.ea ↔ reaches) :
    let raises (code : Nat) : Prop := s.Does .ldAddressCheck (.ldAddressCheck a) fun t =>
      (s.doing (.ldAddressCheck a)).Raises t s.me code s.cur.who.src (addrWords a.ea.toNat)
    (¬ reaches → raises 0x23) ∧ (reaches → a.ea.toNat % a.size ≠ 0 → raises 0x22) ∧
      (reaches → a.ea.toNat % a.size = 0 → space a.ea ∉ [4, 5, 0xC] → s.accessFault a = none) := by
  have hout := Access.outside_of_solo_none (ea := a.ea) hsolo
  refine ⟨fun h => ?_, fun h hal => ?_, fun h hal hsp => ?_⟩
  · exact State.check_raises_single hgen hone (State.elementFault_unreached hout (hr.not.2 h)) (by decide)
  · exact State.check_raises_single hgen hone (State.elementFault_misaligned hout (hr.2 h) hal) (by decide)
  · exact State.check_passes_single hgen hone (State.elementFault_plain hout (hr.2 h) hal hsp)

end

/-! ### Sized accesses (R228, R229) -/

/-- The kinds of access of one element that reach every space but that of open slots. -/
def Access.Sized (a : Access) : Prop := a.kind = .load ∨ a.kind = .ldq ∨ a.kind = .store

theorem Access.Sized.elements {a : Access} (h : a.Sized) : a.elements = [(none, a.ea)] := by
  obtain h | h | h := h <;> simp [Access.elements, h]

theorem Access.Sized.accepts {a : Access} (h : a.Sized) (sp : Nat) : accepts a.kind a.size sp = true ↔
    sp ∈ [0, 1, 2, 4, 8, 0xC] ∧ (sp = 0xC → a.kind ≠ .ldq ∧ a.size = 4) ∧ (sp = 4 ∨ sp = 8 → ¬ (a.kind = .store ∧ a.size = 4)) := by
  obtain h | h | h := h <;> simp [Machine.accepts, h] <;> omega

/-- The bits that R229 and R382 require of an address, space by space. -/
theorem State.fieldsOk_iff {s : State} {n : Nat} (hsp : n / 2 ^ 60 ∈ [0, 1, 2, 4, 8, 0xC]) :
    let there := (n / 2 ^ 57 % 8, n / 2 ^ 54 % 8, n / 2 ^ 51 % 8)
    s.fieldsOk n = true ↔ (n / 2 ^ 60 = 0 → n / 2 ^ 20 % 2 ^ 40 = 0) ∧ (n / 2 ^ 60 = 1 → n / 2 ^ 23 % 2 ^ 37 = 0) ∧
     (n / 2 ^ 60 = 2 → n / 2 ^ 29 % 2 ^ 31 = 0) ∧ (n / 2 ^ 60 = 4 → n / 2 ^ 48 % 2 ^ 12 = 0) ∧
     (n / 2 ^ 60 = 8 → n / 2 ^ 48 % 2 ^ 3 = 0 ∧ there ≠ s.coords ∧ there.1 < s.extents.1 ∧ there.2.1 < s.extents.2.1 ∧
       there.2.2 < s.extents.2.2) ∧ (n / 2 ^ 60 = 0xC → n / 2 ^ 12 % 2 ^ 48 = 0 ∧ n % 2 ^ 12 < 0x200) := by
  intro there
  simp only [List.mem_cons, List.not_mem_nil, or_false] at hsp
  obtain h | h | h | h | h | h := hsp
  all_goals rw [State.fieldsOk, h]
  case inr.inr.inr.inr.inl =>
    have hc : coordsOf n = there := rfl
    simp only [hc, Bool.and_eq_true, decide_eq_true_eq, bne_iff_ne, beq_iff_eq, field]
    simp [and_assoc]
  all_goals simp [field]

theorem Access.Sized.reaches_iff {s : State} {a : Access} (h : a.Sized) {n : Nat} (hn : n = a.ea.toNat) :
    s.reaches a a.ea ↔ (n / 2 ^ 60 ∈ [0, 1, 2, 4, 8, 0xC] ∧ (n / 2 ^ 60 = 0xC → a.kind ≠ .ldq ∧ a.size = 4) ∧
      (n / 2 ^ 60 = 4 ∨ n / 2 ^ 60 = 8 → ¬ (a.kind = .store ∧ a.size = 4))) ∧ s.fieldsOk n = true := by
  subst hn
  exact and_congr_left fun _ => h.accepts _

end Sys2Proof.Machine
end

section
/-! The space, alignment and region faults of each kind of access (R84, R228, R236, R249, O39). -/
namespace Sys2Proof.Machine
set_option Elab.async false

theorem Access.elements_amo {a : Access} {o : AmoOp} (h : a.kind = .amo o) : a.elements = [(none, a.ea)] := by
  simp [Access.elements, h]
theorem Access.elements_ldt {a : Access} {e : Nat} (h : a.kind = .ldt e) : a.elements = [(none, a.ea)] := by
  simp [Access.elements, h]
theorem Access.elements_stnt {a : Access} (h : a.kind = .stnt) : a.elements = [(none, a.ea)] := by
  simp [Access.elements, h]

/-! ### Which addresses each kind reaches -/

theorem State.fieldsOk_local {s : State} {n : Nat} (h : n / 2 ^ 60 = 0) : s.fieldsOk n = true ↔ n / 2 ^ 20 % 2 ^ 40 = 0 := by
  rw [State.fieldsOk, h]
  simp [field]
theorem State.fieldsOk_cluster {s : State} {n : Nat} (h : n / 2 ^ 60 = 1) : s.fieldsOk n = true ↔ n / 2 ^ 23 % 2 ^ 37 = 0 := by
  rw [State.fieldsOk, h]
  simp [field]
theorem State.fieldsOk_open {s : State} {n : Nat} (h : n / 2 ^ 60 = 5) : s.fieldsOk n = true ↔ n / 2 ^ 48 % 2 ^ 12 = 0 := by
  rw [State.fieldsOk, h]
  simp [field]

section
variable {s : State} {a : Access} {ea : Ptr}

/-- An access that has only space 0x0 reaches the 2^20 bytes of its scratchpad. -/
theorem State.reaches_local (hacc : ∀ sp, accepts a.kind a.size sp = (sp == 0)) : s.reaches a ea ↔ ea.toNat / 2 ^ 20 = 0 := by
  have hlt := ea.isLt
  have hiff : s.reaches a ea ↔ ea.toNat / 2 ^ 60 = 0 ∧ s.fieldsOk ea.toNat = true := by
    rw [State.reaches, hacc, space, beq_iff_eq]
  constructor
  · intro h
    obtain ⟨hsp, hf⟩ := hiff.1 h
    have := (State.fieldsOk_local hsp).1 hf
    omega
  · intro h
    have hsp : ea.toNat / 2 ^ 60 = 0 := by omega
    exact hiff.2 ⟨hsp, (State.fieldsOk_local hsp).2 (by omega)⟩

/-- An atomic reaches its own scratchpad and those of its cluster. -/
theorem State.reaches_amo {o : AmoOp} (hk : a.kind = .amo o) :
    s.reaches a ea ↔ ea.toNat / 2 ^ 20 = 0 ∨ ea.toNat / 2 ^ 23 = 2 ^ 37 := by
  have hlt := ea.isLt
  have hiff : s.reaches a ea ↔ (ea.toNat / 2 ^ 60 = 0 ∨ ea.toNat / 2 ^ 60 = 1) ∧ s.fieldsOk ea.toNat = true := by
    simp [State.reaches, hk, accepts, space]
  constructor
  · intro h
    obtain ⟨hsp | hsp, hf⟩ := hiff.1 h
    · have := (State.fieldsOk_local hsp).1 hf
      omega
    · have := (State.fieldsOk_cluster hsp).1 hf
      omega
  · rintro (h | h)
    · have hsp : ea.toNat / 2 ^ 60 = 0 := by omega
      exact hiff.2 ⟨.inl hsp, (State.fieldsOk_local hsp).2 (by omega)⟩
    · have hsp : ea.toNat / 2 ^ 60 = 1 := by omega
      exact hiff.2 ⟨.inr hsp, (State.fieldsOk_cluster hsp).2 (by omega)⟩

theorem State.reaches_stnt (hk : a.kind = .stnt) :
    s.reaches a ea ↔ ea.toNat / 2 ^ 60 = 5 ∧ ea.toNat / 2 ^ 48 % 2 ^ 12 = 0 := by
  have hiff : s.reaches a ea ↔ ea.toNat / 2 ^ 60 = 5 ∧ s.fieldsOk ea.toNat = true := by
    simp [State.reaches, hk, accepts, space]
  rw [hiff]
  exact and_congr_right fun h => State.fieldsOk_open h

/-- The spaces that an aligned access reaches without a further condition. -/
theorem space_notMem (h : ea.toNat / 2 ^ 60 ∈ [0, 1, 2, 8]) : space ea ∉ [4, 5, 0xC] := by
  rw [space]
  generalize ea.toNat / 2 ^ 60 = sp at h ⊢
  simp only [List.mem_cons, List.not_mem_nil, or_false] at h ⊢
  omega

end

/-! ### Lanes (R91) -/

section
variable {s : State} {a : Access}

/-- A gather or scatter faults as the first lane that has a fault does. -/
theorem State.accessFault_lanes (hgen : a.gen = none) (hsolo : a.solo = none)
    (hk : a.kind = .gather ∨ ∃ half, a.kind = .scatter half) : s.accessFault a = a.lanes.findSome? fun x =>
      if x.2.toNat / 2 ^ 20 = 0 ∧ x.2.toNat % a.size = 0 then none
      else some (if x.2.toNat / 2 ^ 20 = 0 then 0x22 else 0x23, addrWords x.2.toNat ++ [BitVec.ofNat 32 x.1]) := by
  have he : a.elements = a.lanes.map fun l => (some l.1, l.2) := by
    obtain h | ⟨half, h⟩ := hk <;> simp [Access.elements, h]
  have hacc (sp : Nat) : accepts a.kind a.size sp = (sp == 0) := by
    obtain h | ⟨half, h⟩ := hk <;> simp [accepts, h]
  simp only [State.accessFault, hgen, he, List.findSome?_map]
  congr 1
  funext x
  have hout := Access.outside_of_solo_none (ea := x.2) hsolo
  have hr := State.reaches_local (s := s) (ea := x.2) hacc
  simp only [Function.comp_apply]
  by_cases hsp : x.2.toNat / 2 ^ 20 = 0
  · by_cases hal : x.2.toNat % a.size = 0
    · have hwell : x.2.toNat / 2 ^ 20 = 0 ∧ x.2.toNat % a.size = 0 := ⟨hsp, hal⟩
      have hzero : x.2.toNat / 2 ^ 60 = 0 := by omega
      have hmem : x.2.toNat / 2 ^ 60 ∈ [0, 1, 2, 8] := by rw [hzero]; decide
      rw [State.elementFault_plain hout (hr.2 hsp) hal (space_notMem hmem), if_pos hwell]
      rfl
    · have hill : ¬ (x.2.toNat / 2 ^ 20 = 0 ∧ x.2.toNat % a.size = 0) := fun h => hal h.2
      rw [State.elementFault_misaligned hout (hr.2 hsp) hal, if_neg hill, if_pos hsp]
      rfl
  · have hill : ¬ (x.2.toNat / 2 ^ 20 = 0 ∧ x.2.toNat % a.size = 0) := fun h => hsp h.1
    rw [State.elementFault_unreached hout (hr.not.2 hsp), if_neg hill, if_neg hsp]
    rfl

end

/-! ### Regions and open slots (R236, R249) -/

section
variable {s : State} {a : Access} {q : Part} (hgen : a.gen = none) (hone : a.elements = [(none, a.ea)])
  (hout : a.outside a.ea = false) (hreach : s.reaches a a.ea) (halign : a.ea.toNat % a.size = 0)
  (hsp : space a.ea = 4 ∨ space a.ea = 5) (hq : s.part (s.partOf s.me) = some q) {write : Bool}
  (hw : (a.kind == .store || a.kind == .stnt) = write)

include hout hreach halign hsp hq hw

theorem State.elementFault_translated : s.elementFault a a.ea = match translate q.regions write (a.ea.toNat % 2 ^ 48) with
    | .error (code, idx) => some (code, [BitVec.ofNat 32 idx])
    | .ok _ => if a.kind = .stnt ∧ 32 ≤ (s.core s.me).stnts.length then some (0x14, [32]) else none := by
  have hpig : ¬ (space a.ea = 0xC ∧ a.kind = .store ∧ ¬ (64 ≤ field a.ea.toNat 11 2 ∧ field a.ea.toNat 11 2 ≤ 125)) := by omega
  rw [State.elementFault_aligned hout hreach halign, if_neg hpig, if_pos hsp, hq, hw]
  rfl

include hgen hone in
/-- An address that its region table refuses is the fault that the table names. -/
theorem State.check_region {code i : Nat} (h : translate q.regions write (a.ea.toNat % 2 ^ 48) = .error (code, i)) :
    s.Does .ldAddressCheck (.ldAddressCheck a) fun t => (s.doing (.ldAddressCheck a)).Raises t s.me code s.cur.who.src
      (addrWords a.ea.toNat ++ [BitVec.ofNat 32 i]) := by
  refine State.check_raises_single hgen hone (code := code) ?_ ?_
  · rw [State.elementFault_translated hout hreach halign hsp hq hw, h]
  · have := translate_error_code h
    omega

end

end Sys2Proof.Machine
end

section
/-! Bytes of words, steps added to those pending, and the accesses to a scratchpad (R83, R91, R230, R231, O39). -/
namespace Sys2Proof.Machine
set_option Elab.async false

/-! ### The bytes of words -/

theorem getD_leBytes {n k : Nat} (h : k < n) (v : Nat) : (leBytes n v).getD k 0 = BitVec.ofNat 8 (v / 2 ^ (8 * k)) := by
  induction n generalizing k v with
  | zero => omega
  | succ n ih =>
    cases k with
    | zero => simp [leBytes]
    | succ k =>
      rw [leBytes, List.getD_cons_succ, ih (by omega), Nat.div_div_eq_div_mul, Nat.mul_succ, pow_add, Nat.mul_comm (2 ^ (8 * k))]
      rfl

theorem bytesOf_cons (w : Word) (ws : List Word) : bytesOf (w :: ws) = wordBytes w ++ bytesOf ws := List.flatMap_cons

theorem length_wordBytes (w : Word) : (wordBytes w).length = 4 := length_leBytes 4 _

theorem length_bytesOf (ws : List Word) : (bytesOf ws).length = 4 * ws.length := by
  induction ws with
  | nil => rfl
  | cons w ws ih => rw [bytesOf_cons, List.length_append, length_wordBytes, ih, List.length_cons]; omega

/-- Byte k of words laid end to end is byte k mod 4 of word k / 4. -/
theorem getD_bytesOf {ws : List Word} {k : Nat} (h : k < 4 * ws.length) :
    (bytesOf ws).getD k 0 = BitVec.ofNat 8 ((ws.getD (k / 4) 0).toNat / 2 ^ (8 * (k % 4))) := by
  induction ws generalizing k with
  | nil => simp at h
  | cons w ws ih =>
    rw [List.length_cons] at h
    rw [bytesOf_cons]
    by_cases hk : k < 4
    · have hz : k / 4 = 0 := by omega
      have hm : k % 4 = k := by omega
      rw [List.getD_append _ _ _ _ (by rwa [length_wordBytes]), hz, hm]
      exact getD_leBytes hk _
    · obtain ⟨j, rfl⟩ := Nat.exists_eq_add_of_le (Nat.le_of_not_lt hk)
      have hz : (4 + j) / 4 = j / 4 + 1 := by omega
      have hm : (4 + j) % 4 = j % 4 := by omega
      rw [List.getD_append_right _ _ _ _ (by rw [length_wordBytes]; omega), length_wordBytes, Nat.add_sub_cancel_left,
        ih (by omega), hz, hm, List.getD_cons_succ]

theorem wordsOf_bytesOf (ws : List Word) : wordsOf (bytesOf ws) = ws := by
  induction ws with
  | nil => rfl
  | cons w ws ih =>
    have hw := w.isLt
    simp only [bytesOf_cons, wordBytes, leBytes, List.cons_append, List.nil_append, wordsOf, ih, leNat, BitVec.toNat_ofNat]
    congr 1
    apply BitVec.eq_of_toNat_eq
    rw [BitVec.toNat_ofNat]
    omega

theorem lane_eq_getD (x : Lanes) (k : Nat) : x.toList.getD k 0 = lane x k := by
  simp [lane, List.getD_eq_getElem?_getD]

/-- The sizes of a sized access, in bytes (R90). -/
def accessSizes : List Nat := [4, 256, 512, 1024]

theorem accessSizes_bound {n : Nat} (h : n ∈ accessSizes) : n % 4 = 0 ∧ n ≤ 1024 := by
  simp only [accessSizes, List.mem_cons, List.not_mem_nil, or_false] at h
  omega

theorem length_takeLanes {x : Lanes} {n : Nat} (h : n ≤ 256) : (x.toList.take n).length = n := by
  rw [List.length_take, Vector.length_toList]
  omega

theorem getD_takeLanes {x : Lanes} {n k : Nat} (h : k < n) : (x.toList.take n).getD k 0 = lane x k := by
  rw [← lane_eq_getD, List.getD_eq_getElem?_getD, List.getElem?_take_of_lt h, List.getD_eq_getElem?_getD]

/-- The bytes that a store of a register writes are those of its lowest lanes. -/
theorem storeBytes_spec {a : Access} (h : a.size ∈ accessSizes) : (storeBytes a).length = a.size ∧
    ∀ k, k < a.size → (storeBytes a).getD k 0 = BitVec.ofNat 8 ((lane a.data (k / 4)).toNat / 2 ^ (8 * (k % 4))) := by
  obtain ⟨hfour, hmax⟩ := accessSizes_bound h
  have hlen : (a.data.toList.take (a.size / 4)).length = a.size / 4 := length_takeLanes (by omega)
  constructor
  · rw [storeBytes, length_bytesOf, hlen]
    omega
  · intro k hk
    rw [storeBytes, getD_bytesOf (by omega), getD_takeLanes (by omega)]

/-! ### Steps added to those pending -/

/-- `t` is `s` with steps added to those pending. -/
def State.Adds (s t : State) : Prop := ∃ ds : List Timed, t = { s with due := s.due ++ ds }

theorem State.Adds.refl (s : State) : s.Adds s := ⟨[], by simp⟩

theorem State.Adds.trans {s t u : State} (h : s.Adds t) (h' : t.Adds u) : s.Adds u := by
  obtain ⟨ds, rfl⟩ := h
  obtain ⟨es, rfl⟩ := h'
  exact ⟨ds ++ es, by simp⟩

theorem State.adds_sched (s : State) (d : Nat) (key : List Nat) (w : Work) : s.Adds (s.sched d key w) := ⟨_, rfl⟩

theorem State.Adds.same {s t : State} (h : s.Adds t) : s.Same t := by
  obtain ⟨ds, rfl⟩ := h
  exact ⟨rfl, rfl, rfl, rfl, rfl, rfl⟩

theorem State.Adds.later {s t : State} (h : s.Adds t) {c : Option Nat} {d : Nat} {w : Work} (hl : s.Later c d w) :
    t.Later c d w := by
  obtain ⟨ds, rfl⟩ := h
  exact hl.mono fun _ hx => List.mem_append_left _ hx

theorem State.Adds.foldl {α : Type} {f : State → α → State} (hf : ∀ (u : State) y, u.Adds (f u y)) (xs : List α) (s : State) :
    s.Adds (xs.foldl f s) := by
  induction xs generalizing s with
  | nil => exact .refl s
  | cons x xs ih => exact (hf s x).trans (ih _)

/-- What one turn of a fold leaves is there at its end. -/
theorem State.foldl_later {α : Type} {f : State → α → State} (hf : ∀ (u : State) y, u.Adds (f u y)) {x : α} {c : Option Nat} {d : Nat}
    {w : Work} {s : State} (hx : ∀ u, s.Adds u → (f u x).Later c d w) {xs : List α} (hmem : x ∈ xs) :
    (xs.foldl f s).Later c d w := by
  obtain ⟨before, after, rfl⟩ := List.append_of_mem hmem
  rw [List.foldl_append, List.foldl_cons]
  exact (State.Adds.foldl hf after _).later (hx _ (State.Adds.foldl hf before s))

/-! ### The cycles of R230 -/

theorem spadCycles_own (c : Nat) : spadCycles 0 (reach c c) = (3, 6, 4, 8) := by simp [reach, spadCycles]

theorem spadCycles_peer {sp : Nat} (hsp : sp ≠ 0) {a b lp lw st : Nat}
    (h : (b / 8 = a / 8 ∧ (lp, lw, st) = (8, 14, 10)) ∨ (b / 8 ≠ a / 8 ∧ b / 96 = a / 96 ∧ (lp, lw, st) = (18, 28, 20)) ∨
      (b / 96 ≠ a / 96 ∧ (lp, lw, st) = (34, 60, 44))) : spadCycles sp (reach a b) = (lp, lw, st, lw) := by
  simp only [Prod.mk.injEq] at h
  unfold reach
  obtain ⟨hc, rfl, rfl, rfl⟩ | ⟨hc, hd, rfl, rfl, rfl⟩ | ⟨hd, rfl, rfl, rfl⟩ := h
  · by_cases hab : a = b
    · rw [if_pos hab, spadCycles, if_neg hsp]
    · rw [if_neg hab, if_pos hc.symm, spadCycles]
  · rw [if_neg (by rintro rfl; exact hc rfl), if_neg (Ne.symm hc), if_pos hd.symm, spadCycles]
  · have hc : ¬ a / 8 = b / 8 := by omega
    rw [if_neg (by rintro rfl; exact hd rfl), if_neg hc, if_neg (Ne.symm hd), spadCycles]

/-! ### An access at its bank cycle -/

/-- An access leaves one bank access, at its cycle. -/
def State.LeavesBank (s t : State) (due holder : Nat) (act : BankAct) : Prop :=
  ∃ req, s.Defers t [(due, .bankAccess { holder := holder, req := req, cyc := s.t, act := act })]

theorem State.leaves_bank (s : State) (due holder : Nat) (req : Word) (act : BankAct) :
    s.LeavesBank (s.bank due { holder := holder, req := req, cyc := s.t, act := act }) due holder act :=
  ⟨req, s.defers_sched ..⟩

section
variable {s : State} {a : Access} {sp c lp lw st aw : Nat} (hc : spadCycles sp (reach s.me c) = (lp, lw, st, aw))
include hc

theorem State.toSpad_load (hk : a.kind = .load) : s.LeavesBank (s.toSpad a sp c) (s.t + lp) c
    (.load (a.ea.toNat % 2 ^ 20) a.size (.dreg a.tg (s.t + lw))) := by
  simp only [State.toSpad, hc, hk]
  exact s.leaves_bank ..

theorem State.toSpad_ldq (hk : a.kind = .ldq) : s.LeavesBank (s.toSpad a sp c) (s.t + lp) c
    (.load (a.ea.toNat % 2 ^ 20) 256 (.queue a.tg (s.t + lw))) := by
  simp only [State.toSpad, hc, hk]
  exact s.leaves_bank ..

theorem State.toSpad_store (hk : a.kind = .store) : s.LeavesBank (s.toSpad a sp c) (s.t + st) c
    (.store (a.ea.toNat % 2 ^ 20) (storeBytes a)) := by
  simp only [State.toSpad, hc, hk]
  exact s.leaves_bank ..

theorem State.toSpad_ldt {e : Nat} (hk : a.kind = .ldt e) : s.LeavesBank (s.toSpad a sp c) (s.t + lp) c
    (.tagged (a.ea.toNat % 2 ^ 20) e a.tg (s.t + lw)) := by
  simp only [State.toSpad, hc, hk]
  exact s.leaves_bank ..

theorem State.toSpad_amo {o : AmoOp} (hk : a.kind = .amo o) : s.LeavesBank (s.toSpad a sp c) (s.t + lp) c
    (.amoRead (a.ea.toNat % 2 ^ 20) o (lane a.data 0) (lane a.data 1) a.tg (s.t + aw)) := by
  simp only [State.toSpad, hc, hk]
  exact s.leaves_bank ..

end

/-! ### Groups of lanes (R91) -/

/-- A group of a gather or scatter that has lanes leaves its bank access. -/
def State.bankGroup (s : State) (ls : List (Nat × Ptr)) (due : Nat) (op : List (Nat × Ptr) → BankOp) : State := match ls with
  | [] => s
  | ls => s.bank due (op ls)

theorem State.bankGroup_adds (s : State) (ls : List (Nat × Ptr)) (due : Nat) (op : List (Nat × Ptr) → BankOp) :
    s.Adds (s.bankGroup ls due op) := by
  cases ls with
  | nil => exact .refl s
  | cons l ls => exact s.adds_sched ..

theorem State.bankGroup_later (s : State) {ls : List (Nat × Ptr)} (h : ls ≠ []) (due : Nat) (op : List (Nat × Ptr) → BankOp) :
    (s.bankGroup ls due op).Later (some (s.partOf s.me)) due (.bankAccess (op ls)) := by
  cases ls with
  | nil => exact absurd rfl h
  | cons l ls => exact s.later_sched ..

theorem groupLanes_ne_nil {lanes : List (Nat × Ptr)} {k : Nat} (h : ∃ l ∈ lanes, l.1 / 64 = k) : groupLanes lanes k ≠ [] := by
  obtain ⟨l, hl, hk⟩ := h
  exact List.ne_nil_of_mem (List.mem_filter.2 ⟨hl, by simpa using hk⟩)

/-- The bank accesses of the groups, each in a cycle of its own from `first` on. -/
def State.bankGroups (s : State) (lanes : List (Nat × Ptr)) (first : Nat) (op : Nat → Nat → List (Nat × Ptr) → BankOp) : State :=
  (List.range 4).foldl (fun u k => u.bankGroup (groupLanes lanes k) (u.t + first + k) (op u.t k)) s

theorem State.bankGroups_adds (s : State) (lanes : List (Nat × Ptr)) (first : Nat) (op : Nat → Nat → List (Nat × Ptr) → BankOp) :
    s.Adds (s.bankGroups lanes first op) := State.Adds.foldl (fun u _ => u.bankGroup_adds ..) _ s

theorem State.bankGroups_later (s : State) {lanes : List (Nat × Ptr)} (first : Nat) (op : Nat → Nat → List (Nat × Ptr) → BankOp) {k : Nat}
    (hk : k < 4) (h : ∃ l ∈ lanes, l.1 / 64 = k) :
    (s.bankGroups lanes first op).Later (some (s.partOf s.me)) (s.t + first + k) (.bankAccess (op s.t k (groupLanes lanes k))) := by
  refine State.foldl_later (fun u _ => u.bankGroup_adds ..) (fun u hu => ?_) (List.mem_range.2 hk)
  obtain ⟨ds, rfl⟩ := hu
  exact State.bankGroup_later _ (groupLanes_ne_nil h) ..

/-- The lanes that a gather does not select become 0 with its result. -/
def Access.unselected (a : Access) : Lanes := Vector.ofFn fun i => if a.lanes.any fun l => l.1 == i.val then 0 else 0xFFFFFFFF

theorem Access.lane_unselected (a : Access) {k : Nat} (hk : k < 256) :
    lane a.unselected k = if ∃ l ∈ a.lanes, l.1 = k then 0 else 0xFFFFFFFF := by
  simp [lane, Access.unselected, hk]

section
variable {s : State} {a : Access}

/-- The bank access of a group of a gather. -/
def State.gatherOp (s : State) (a : Access) (t k : Nat) (ls : List (Nat × Ptr)) : BankOp :=
  { holder := s.me, req := reqWord 0 0 (s.rankOf s.me), cyc := s.t,
    act := .gather (ls.map fun l => (l.1, l.2.toNat % 2 ^ 20)) k a.tg (t + 8) }

/-- The bank access of a group of a scatter. -/
def State.scatterOp (s : State) (a : Access) (half : Bool) (ls : List (Nat × Ptr)) : BankOp :=
  { holder := s.me, req := reqWord 0 0 (s.rankOf s.me), cyc := s.t,
    act := .scatter (ls.map fun l => (l.1, l.2.toNat % 2 ^ 20, (wordBytes (lane a.data l.1)).take (if half then 2 else 4))) half }

theorem State.toSpad_gather (hk : a.kind = .gather) : s.toSpad a 0 s.me =
    (s.sched (s.t + 8) [10, s.t, 1] (.registerWrite s.me (.d a.tg a.unselected zeroLanes))).bankGroups a.lanes 3 (s.gatherOp a) := by
  simp only [State.toSpad, hk]
  rfl

theorem State.toSpad_scatter {half : Bool} (hk : a.kind = .scatter half) :
    s.toSpad a 0 s.me = s.bankGroups a.lanes 4 fun _ _ => s.scatterOp a half := by
  simp only [State.toSpad, hk]
  rfl

/-- An element of a scatter is the lowest bytes of its lane. -/
theorem scatterElement {x : Lanes} (half : Bool) (k : Nat) :
    let bs := (wordBytes (lane x k)).take (if half then 2 else 4)
    bs.length = (if half then 2 else 4) ∧ ∀ b, b < bs.length → bs.getD b 0 = BitVec.ofNat 8 ((lane x k).toNat / 2 ^ (8 * b)) := by
  intro bs
  have hlen : bs.length = (if half then 2 else 4) := by
    rw [List.length_take, length_wordBytes]
    cases half <;> rfl
  refine ⟨hlen, fun b hb => ?_⟩
  have hb' : b < if half then 2 else 4 := hlen ▸ hb
  have hfour : b < 4 := by split at hb' <;> omega
  rw [List.getD_eq_getElem?_getD, List.getElem?_take_of_lt hb', ← List.getD_eq_getElem?_getD]
  exact getD_leBytes hfour _

end
end Sys2Proof.Machine
end

section
/-! Where an access goes from its check: scratchpads, pigeonholes, device memory, another package (R228 to R231, R378, R383, O39). -/
namespace Sys2Proof.Machine
set_option Elab.async false

/-! ### The space decides -/

/-- A gather or scatter, whose lanes all lie in space 0x0. -/
def Access.indexed (a : Access) : Bool := a.kind == .gather || a.kind == .scatter false || a.kind == .scatter true

section
variable {s : State} {a : Access}

theorem State.dispatch_local (h : a.indexed = true ∨ space a.ea = 0) : s.dispatchAccess a = s.toSpad a 0 s.me := by
  have hsp : (if a.indexed then 0 else space a.ea) = 0 := by
    obtain h | h := h <;> simp [h]
  rw [Access.indexed] at hsp
  rw [State.dispatchAccess, hsp]
  rfl

variable (hl : a.indexed = false)
include hl

theorem Access.space_of_not_indexed :
    (if a.kind == .gather || a.kind == .scatter false || a.kind == .scatter true then 0 else space a.ea) = space a.ea :=
  if_neg (by rw [Access.indexed] at hl; simp [hl])

theorem State.dispatch_peer (hsp : space a.ea = 1 ∨ space a.ea = 2) {c : Nat}
    (ht : s.target a.writes (rankNamed (s.rankOf s.me) a.ea.toNat) = some c) : s.dispatchAccess a = s.toSpad a (space a.ea) c := by
  rw [State.dispatchAccess, Access.space_of_not_indexed hl]
  obtain hsp | hsp := hsp <;> simp only [hsp, ht]

/-- The cycle at which an access to a rank that names no core is refused. -/
def Access.refusedAt (a : Access) (lw st aw : Nat) : Nat := match a.kind with
  | .store => st
  | .amo _ => aw
  | _ => lw

theorem State.dispatch_nobody (hsp : space a.ea = 1 ∨ space a.ea = 2)
    (ht : s.target a.writes (rankNamed (s.rankOf s.me) a.ea.toNat) = none) {lp lw st aw : Nat}
    (hc : spadCycles (space a.ea) (reach (s.rankOf s.me) (rankNamed (s.rankOf s.me) a.ea.toNat)) = (lp, lw, st, aw)) :
    s.dispatchAccess a = s.bank (s.t + a.refusedAt lw st aw)
      { holder := s.me, req := 0, cyc := s.t, act := .refused (addrWords a.ea.toNat) } := by
  rw [State.dispatchAccess, Access.space_of_not_indexed hl]
  obtain hsp | hsp := hsp
  all_goals
    rw [hsp] at hc
    simp only [hsp, ht, hc]
    rfl

theorem State.dispatch_pigeonhole (hsp : space a.ea = 0xC) (hopen : s.pigOpen a.writes = true) :
    s.dispatchAccess a = if a.kind = .store
      then s.sched (s.t + 4) [60, s.rankOf s.me] (.pigeonholeWrite (s.partOf s.me) (field a.ea.toNat 11 2) (lane a.data 0))
      else s.bank (s.t + 3) { holder := s.me, req := 0, cyc := s.t, act := .pigeonhole (field a.ea.toNat 11 2) a.tg (s.t + 6) } := by
  rw [State.dispatchAccess, Access.space_of_not_indexed hl]
  simp [hsp, hopen]

theorem State.dispatch_remote (hsp : space a.ea = 8) : s.dispatchAccess a = s.toRemote a := by
  rw [State.dispatchAccess, Access.space_of_not_indexed hl]
  simp only [hsp]

theorem State.dispatch_translated (hsp : space a.ea = 4 ∨ space a.ea = 5) {q : Part} (hq : s.part (s.partOf s.me) = some q) {phys key : Nat}
    (ht : translate q.regions (a.kind == .store || a.kind == .stnt) (a.ea.toNat % 2 ^ 48) = .ok (phys, key)) :
    s.dispatchAccess a = if a.kind = .stnt then s.toOpen a q phys key else s.toDevice a phys key := by
  rw [State.dispatchAccess, Access.space_of_not_indexed hl]
  obtain hsp | hsp := hsp <;> simp only [hsp, hq, ht]

end

/-! ### The kinds -/

theorem Access.Sized.indexed {a : Access} (h : a.Sized) : a.indexed = false := by
  obtain h | h | h := h <;> simp [Access.indexed, h]
theorem Access.indexed_amo {a : Access} {o : AmoOp} (h : a.kind = .amo o) : a.indexed = false := by simp [Access.indexed, h]
theorem Access.indexed_ldt {a : Access} {e : Nat} (h : a.kind = .ldt e) : a.indexed = false := by simp [Access.indexed, h]
theorem Access.indexed_stnt {a : Access} (h : a.kind = .stnt) : a.indexed = false := by simp [Access.indexed, h]
theorem Access.indexed_scatter {a : Access} {half : Bool} (h : a.kind = .scatter half) : a.indexed = true := by
  cases half <;> simp [Access.indexed, h]

/-! ### Cores named by their rank (R231, R240) -/

theorem admitted_iff (es : List AccessEntry) (part : Nat) (write : Bool) (unit : Nat) : admitted es part write unit = true ↔
    ∃ e ∈ es, e.part = part ∧ (if write then e.wr else e.rd) = true ∧ e.base ≤ unit ∧ unit ≤ e.limit := by
  simp [admitted, AccessEntry.admits, and_assoc]

section
variable {s : State} {q : Part} {rank : Nat} {write : Bool} (hq : s.part (s.partOf s.me) = some q)
include hq

theorem State.target_admitted {c : Nat} (hc : q.cores[rank]? = some c) (h : s.Admits c write) : s.target write rank = some c := by
  simp only [State.target, State.coreOfRank, hq, Option.bind_some, Part.coreAt, hc]
  exact Option.filter_some_pos ((admitted_iff ..).2 h)

theorem State.target_nobody (hc : q.cores[rank]? = none) : s.target write rank = none := by
  simp [State.target, State.coreOfRank, hq, Part.coreAt, hc]

end

/-- The rank that an address of space 0x1 or 0x2 names. -/
theorem rankNamed_eq {sp n : Nat} (hn : n / 2 ^ 60 = sp) (hsp : sp = 1 ∨ sp = 2) (own : Nat) :
    rankNamed own n = if sp = 1 then own / 8 * 8 + n / 2 ^ 20 % 8 else n / 2 ^ 20 % 2 ^ 9 := by
  rw [rankNamed, hn]
  obtain rfl | rfl := hsp <;> rfl

/-! ### Device memory (R230, R264) -/

theorem State.pairAt_later (s : State) (p c : Nat) : (s.pairAt p c).Later (some p) c (.memorySlot p) := by
  unfold State.pairAt
  split
  case isTrue h =>
    obtain ⟨x, hx, hw⟩ := List.any_eq_true.1 h
    simp only [Bool.and_eq_true, beq_iff_eq] at hw
    exact ⟨x, hx, hw.1.1, hw.1.2, hw.2⟩
  case isFalse => exact ⟨_, List.mem_append_right _ (List.mem_singleton.2 rfl), rfl, rfl, rfl⟩

theorem State.request_same (s : State) (r : MemReq) : s.Same (s.request r) := by
  unfold State.request State.pairAt
  split <;> exact ⟨rfl, rfl, rfl, rfl, rfl, rfl⟩

theorem State.request_reqs (s : State) (r : MemReq) : (s.request r).reqs = s.reqs ++ [r] := by
  unfold State.request State.pairAt
  split <;> rfl

/-- The request that a sized access makes of its channel controllers. -/
def State.deviceRequest (s : State) (a : Access) (phys key : Nat) : MemReq :=
  let own := stackOf phys / 2 = dieOf s.me
  let write := a.kind == .store
  let cyc := s.t + (if write then (if own then 200 else 224) else (if own then 256 else 280))
  let w := s.t + (if own then 360 else 408)
  { part := s.partOf s.me, cycle := cyc, write := write, phys := phys, ea := a.ea.toNat, size := a.size, kind := 0,
    source := s.rankOf s.me, key := key, who := s.cur.who, data := if write then storeBytes a else [], performs := cyc + 100,
    sink := if a.kind = AccessKind.ldq then .queue a.tg w else .dreg a.tg w }

theorem State.toDevice_eq (s : State) (a : Access) (phys key : Nat) :
    s.toDevice a phys key = s.request (s.deviceRequest a phys key) := rfl

theorem State.deviceRequest_cycle (s : State) (a : Access) (phys key : Nat) : (s.deviceRequest a phys key).cycle =
    s.t + (if a.kind = .store then 200 else 256) + (if stackOf phys / 2 = dieOf s.me then 0 else 24) := by
  by_cases hk : a.kind = .store <;> by_cases ho : stackOf phys / 2 = dieOf s.me <;> simp [State.deviceRequest, hk, ho]

end Sys2Proof.Machine
end

section
/-! Accesses to another package (R378, R383, O39). -/
namespace Sys2Proof.Machine
set_option Elab.async false

/-! ### Slices of a list -/

theorem slice_eq_map {α : Type} {l : List α} {d : α} {i n : Nat} (h : i + n ≤ l.length) {f : Nat → α}
    (hf : ∀ k, k < n → l.getD (i + k) d = f k) : (l.drop i).take n = (List.range n).map f := by
  refine List.ext_getElem ?_ fun k hk _ => ?_
  · simp
    omega
  · have hn : k < n := by
      rw [List.length_take] at hk
      omega
    have hval := hf k hn
    rw [List.getD_eq_getElem _ _ (by omega)] at hval
    simpa using hval

theorem drop_bytesOf (ws : List Word) (k : Nat) : (bytesOf ws).drop (4 * k) = bytesOf (ws.drop k) := by
  induction k generalizing ws with
  | zero => rfl
  | succ k ih =>
    cases ws with
    | nil => simp [bytesOf]
    | cons w ws =>
      rw [bytesOf_cons, List.drop_succ_cons, ← ih ws, Nat.mul_succ, Nat.add_comm, ← List.drop_drop,
        List.drop_left' (length_wordBytes w)]

theorem take_bytesOf (ws : List Word) (k : Nat) : (bytesOf ws).take (4 * k) = bytesOf (ws.take k) := by
  induction k generalizing ws with
  | zero => rfl
  | succ k ih =>
    cases ws with
    | nil => simp [bytesOf]
    | cons w ws =>
      rw [bytesOf_cons, List.take_succ_cons, bytesOf_cons, ← ih ws, Nat.mul_succ, Nat.add_comm, List.take_append,
        length_wordBytes, List.take_of_length_le (by rw [length_wordBytes]; omega), Nat.add_sub_cancel_left]

/-- Row i of a stored register is its lanes 64i and on. -/
theorem flitRow_storeBytes {a : Access} {i : Nat} (hi : 64 * i + 64 ≤ a.size / 4) (hmax : a.size / 4 ≤ 256) :
    flitRow (storeBytes a) i = { words := (List.range 64).map fun k => lane a.data (64 * i + k), mark := none, poison := none } := by
  have hlen : (a.data.toList.take (a.size / 4)).length = a.size / 4 := length_takeLanes hmax
  have hrow : ((a.data.toList.take (a.size / 4)).drop (64 * i)).take 64 = (List.range 64).map fun k => lane a.data (64 * i + k) :=
    slice_eq_map (d := 0) (by omega) fun k hk => getD_takeLanes (by omega)
  rw [flitRow, storeBytes, show 256 * i = 4 * (64 * i) by omega, drop_bytesOf]
  have htake := take_bytesOf ((a.data.toList.take (a.size / 4)).drop (64 * i)) 64
  rw [htake, wordsOf_bytesOf, hrow]

/-! ### What sending leaves as it was -/

theorem State.ctx_modCore_keep {s : State} {c : Nat} {f : Core → Core} (h : ∀ k, (f k).ctx = k.ctx) (k : Nat) :
    (s.modCore c f).ctx k = s.ctx k := by
  by_cases e : k = c
  · subst e
    by_cases hk : k < 384
    · rw [State.ctx, State.core_modCore_self hk, h]
      rfl
    · rw [State.modCore_absent (Nat.le_of_not_lt hk)]
  · rw [State.ctx, State.core_modCore_ne e]
    rfl

/-- The partitions, device memory and contexts are as they were. -/
def State.Kept (s t : State) : Prop := t.parts = s.parts ∧ t.dram = s.dram ∧ ∀ k, t.ctx k = s.ctx k

theorem State.Adds.kept {s t u : State} (h : t.Adds u) (hk : s.Kept t) : s.Kept u := by
  obtain ⟨ds, rfl⟩ := h
  exact hk

section
variable (s : State) (e p f : Nat)

theorem State.sendAway_kept : s.Kept (s.sendAway e p f) := ⟨rfl, rfl, State.ctx_modCore_keep fun _ => rfl⟩

theorem State.sendAway_ctx (c : Nat) : (s.sendAway e p f).ctx c = s.ctx c := (s.sendAway_kept e p f).2.2 c

theorem State.sendAway_partOf (c : Nat) : (s.sendAway e p f).partOf c = s.partOf c := congrArg Ctx.part (s.sendAway_ctx e p f c)

theorem State.sendAway_rankOf (c : Nat) : (s.sendAway e p f).rankOf c = s.rankOf c := congrArg Ctx.rank (s.sendAway_ctx e p f c)

theorem State.sendAway_record (h : s.me < 384) :
    { who := s.cur.who, elem := e, performs := p, faultAt := f } ∈ ((s.sendAway e p f).core s.me).away := by
  rw [State.sendAway, State.core_modCore_self h]
  exact List.mem_append_right _ (List.mem_singleton.2 rfl)

end

/-! ### Flits -/

/-- A flit of an access, of one row or of none. -/
def State.accessFlit (s : State) (a : Access) (port i : Nat) (row : Option Row) : Flit :=
  { s.flit port (s.t + 8) 0 s.t with idx := i, addr := a.ea.toNat, row := row }

/-- The flits of an access, each in the window of t+8. -/
def State.placeFlits (s : State) (a : Access) (port count : Nat) (row : Nat → Option Row) : State :=
  (List.range count).foldl (fun u i => u.placeFlit (u.t + 8) (u.accessFlit a port i (row i))) s

theorem State.placeFlits_adds (s : State) (a : Access) (port count : Nat) (row : Nat → Option Row) :
    s.Adds (s.placeFlits a port count row) := State.Adds.foldl (fun u _ => u.adds_sched ..) _ s

theorem State.placeFlits_later (s : State) (a : Access) (port : Nat) {count i : Nat} (row : Nat → Option Row) (hi : i < count) :
    (s.placeFlits a port count row).Later (some (s.partOf s.me)) (s.t + 8) (.flitSlotPlacement (s.accessFlit a port i (row i))) := by
  refine State.foldl_later (fun u _ => u.adds_sched ..) (fun u hu => ?_) (List.mem_range.2 hi)
  obtain ⟨ds, rfl⟩ := hu
  exact State.later_sched ..

/-- A flit of an access is pending for the window of t+8. -/
def State.SendsFlit (s : State) (a : Access) (port : Nat) (t : State) (i : Nat) (row : Option Row) : Prop :=
  ∃ f : Flit, t.Later (some (s.partOf s.me)) (s.t + 8) (.flitSlotPlacement f) ∧ f.port = port ∧ f.window = s.t + 8 ∧
    f.addr = a.ea.toNat ∧ f.idx = i ∧ f.row = row ∧ f.transit = false ∧ f.reply = false ∧ f.from_ = s.coords ∧
    f.rank = s.rankOf s.me ∧ f.source = 0 ∧ f.start = s.t

theorem State.placeFlits_sends (s : State) (a : Access) (port p e : Nat) {count i : Nat} (row : Nat → Option Row) (hi : i < count) :
    s.SendsFlit a port ((s.sendAway 0 p e).placeFlits a port count row) i (row i) := by
  have hl := (s.sendAway 0 p e).placeFlits_later a port row hi
  have hme : (s.sendAway 0 p e).me = s.me := rfl
  rw [hme, State.sendAway_partOf] at hl
  exact ⟨_, hl, rfl, rfl, rfl, rfl, rfl, rfl, rfl, rfl, s.sendAway_rankOf .., rfl, rfl⟩

theorem State.SendsFlit.later {s t u : State} {a : Access} {port i : Nat} {row : Option Row} (h : s.SendsFlit a port t i row)
    (hu : t.Adds u) : s.SendsFlit a port u i row := by
  obtain ⟨f, hl, hf⟩ := h
  exact ⟨f, hu.later hl, hf⟩

/-- What a read of another package leaves, before its answer is awaited. -/
def State.askRemote (s : State) (a : Access) (port h : Nat) : State :=
  let u := (s.sendAway 0 (s.t + 256 + 190 * h) (s.t + 360 + 380 * h)).placeFlits a port 1 fun _ => none
  { u with free := u.free + 1 }

section
variable (s : State) (a : Access) (port h : Nat)

theorem State.askRemote_sends : s.SendsFlit a port (s.askRemote a port h) 0 none :=
  s.placeFlits_sends a port _ _ (fun _ => none) Nat.one_pos

theorem State.askRemote_kept : s.Kept (s.askRemote a port h) := (State.placeFlits_adds ..).kept (s.sendAway_kept ..)

theorem State.askRemote_partOf : (s.askRemote a port h).partOf s.me = s.partOf s.me :=
  congrArg Ctx.part ((s.askRemote_kept a port h).2.2 s.me)

end

/-! ### An access to another package -/

section
variable {s : State} {a : Access} {h port : Nat} (hr : s.route (coordsOf a.ea.toNat) = (h, port))
include hr

theorem State.toRemote_crossed {d : List Word} (hx : s.crossed (dieOfPort port) = some d) : s.toRemote a =
    s.faultAt (if a.kind = .store then s.t + 300 + 190 * h else s.t + 360 + 380 * h) 0x33 d := by
  simp only [State.toRemote, hr, State.toPort_crossed hx]
  by_cases hk : a.kind = .store <;> simp [hk]

variable (hx : s.crossed (dieOfPort port) = none)
include hx

theorem State.toRemote_store (hk : a.kind = .store) : s.toRemote a =
    (s.sendAway 0 (s.t + 300 + 190 * h) (s.t + 360 + 380 * h)).placeFlits a port (((storeBytes a).length + 255) / 256)
      fun i => some (flitRow (storeBytes a) i) := by
  simp only [State.toRemote, hr, State.toPort_clear hx, hk]
  rfl

theorem State.toRemote_read (hk : a.kind ≠ .store) : ∃ free : List Byte, s.toRemote a = (s.askRemote a port h).deliver
    (if a.kind = AccessKind.ldq then .queue a.tg (s.t + 360 + 380 * h) else .dreg a.tg (s.t + 360 + 380 * h)) free none := by
  have hw : (a.kind == .store) = false := by simp [hk]
  simp only [State.toRemote, hr, State.toPort_clear hx, hw]
  exact ⟨_, rfl⟩

end

/-! ### What a sized access to another package leaves (R383) -/

section
variable {s : State} {a : Access} {h port : Nat} (hr : s.route (coordsOf a.ea.toNat) = (h, port))
  (hx : s.crossed (dieOfPort port) = none)
include hr hx

theorem State.toRemote_load_spec (hk : a.kind = .load) : s.SendsFlit a port (s.toRemote a) 0 none ∧
    (∃ val : Lanes, (s.toRemote a).Later (some (s.partOf s.me)) (s.t + 360 + 380 * h)
      (.registerWrite s.me (.d a.tg allLanes val))) ∧ s.Kept (s.toRemote a) := by
  obtain ⟨free, he⟩ := State.toRemote_read hr hx (by simp [hk])
  rw [if_neg (by simp [hk])] at he
  have hadd : (s.askRemote a port h).Adds (s.toRemote a) := he ▸ State.adds_sched ..
  refine ⟨(s.askRemote_sends a port h).later hadd, ⟨lanesOf (wordsOf free), ?_⟩, hadd.kept (s.askRemote_kept a port h)⟩
  rw [he, ← s.askRemote_partOf a port h]
  exact State.later_sched ..

theorem State.toRemote_ldq_spec (hk : a.kind = .ldq) : s.SendsFlit a port (s.toRemote a) 0 none ∧
    (∃ row : Row, row.mark = none ∧ row.poison = none ∧ (s.toRemote a).Later (some (s.partOf s.me)) (s.t + 360 + 380 * h)
      (.queueLoadAppend s.me a.tg row)) ∧ s.Kept (s.toRemote a) := by
  obtain ⟨free, he⟩ := State.toRemote_read hr hx (by simp [hk])
  rw [if_pos hk] at he
  have hadd : (s.askRemote a port h).Adds (s.toRemote a) := he ▸ State.adds_sched ..
  refine ⟨(s.askRemote_sends a port h).later hadd, ⟨rowOfBytes free none none, rfl, rfl, ?_⟩, hadd.kept (s.askRemote_kept a port h)⟩
  rw [he, ← s.askRemote_partOf a port h]
  exact State.later_sched ..

theorem State.toRemote_store_spec (hk : a.kind = .store) (hsize : a.size ∈ [256, 512, 1024]) :
    (∀ i, i < a.size / 256 → s.SendsFlit a port (s.toRemote a) i
      (some { words := (List.range 64).map fun k => lane a.data (64 * i + k), mark := none, poison := none })) ∧
    (s.me < 384 → ∃ r ∈ ((s.toRemote a).core s.me).away,
      r.who = s.cur.who ∧ r.performs = s.t + 300 + 190 * h ∧ r.faultAt = s.t + 360 + 380 * h) ∧
    s.Kept (s.toRemote a) := by
  have hmem : a.size ∈ accessSizes := List.mem_cons_of_mem _ hsize
  have hbound : a.size % 256 = 0 ∧ a.size ≤ 1024 := by
    simp only [List.mem_cons, List.not_mem_nil, or_false] at hsize
    omega
  have he := State.toRemote_store hr hx hk
  have hadd := State.placeFlits_adds (s.sendAway 0 (s.t + 300 + 190 * h) (s.t + 360 + 380 * h)) a port
    (((storeBytes a).length + 255) / 256) fun i => some (flitRow (storeBytes a) i)
  rw [← he] at hadd
  refine ⟨fun i hi => ?_, fun hme => ?_, hadd.kept (s.sendAway_kept ..)⟩
  · rw [← flitRow_storeBytes (i := i) (by omega) (by omega), he]
    exact s.placeFlits_sends a port _ _ (fun i => some (flitRow (storeBytes a) i)) (by rw [(storeBytes_spec hmem).1]; omega)
  · obtain ⟨ds, hds⟩ := hadd
    rw [hds]
    exact ⟨_, s.sendAway_record _ _ _ hme, rfl, rfl, rfl⟩

end
end Sys2Proof.Machine
end

section
/-! The units of a non-temporal store and the open slots they take (R249 to R252, R265, O39). -/
namespace Sys2Proof.Machine
set_option Elab.async false

/-! ### Slots -/

theorem slotFrom_le_iff (c k : Nat) : slotFrom c ≤ k ↔ c ≤ slotCycle k := by
  unfold slotFrom slotCycle
  omega

theorem le_foldl_max_slot (placed : List Placed) (m : Nat) : m ≤ placed.foldl (fun m p => max m p.slot) m ∧
    ∀ p ∈ placed, p.slot ≤ placed.foldl (fun m p => max m p.slot) m := by
  induction placed generalizing m with
  | nil => simp
  | cons p placed ih =>
    obtain ⟨hm, hp⟩ := ih (max m p.slot)
    rw [List.foldl_cons]
    refine ⟨(Nat.le_max_left ..).trans hm, fun r hr => ?_⟩
    obtain rfl | hr := List.mem_cons.1 hr
    · exact (Nat.le_max_right ..).trans hm
    · exact hp r hr

/-- The search takes in two repetitions of the timeline past its start and past every unit placed. -/
theorem State.searchLen_reaches {s : State} {q : Part} {n from_ k : Nat} {placed : List Placed}
    (h : ∃ f, (f = from_ ∨ ∃ p ∈ placed, f = p.slot) ∧ k < f + 2 * (s.timelineOf q n).slots) :
    k < from_ + s.searchLen q n from_ placed := by
  obtain ⟨f, hf, hk⟩ := h
  obtain ⟨hfrom, hplaced⟩ := le_foldl_max_slot placed from_
  have hle : f ≤ placed.foldl (fun m p => max m p.slot) from_ := by
    obtain rfl | ⟨p, hp, rfl⟩ := hf
    · exact hfrom
    · exact hplaced p hp
  unfold State.searchLen
  omega

/-- The search finds the first slot that is available, when it takes it in. -/
theorem State.earliest_eq {s : State} {q : Part} {n bank k : Nat} {placed : List Placed}
    (hk : s.available q n k bank true placed = true) {from_ fuel : Nat} (hle : from_ ≤ k) (hlt : k < from_ + fuel)
    (hfirst : ∀ j, from_ ≤ j → s.available q n j bank true placed = true → k ≤ j) :
    s.earliest q n bank placed fuel from_ = some k := by
  induction fuel generalizing from_ with
  | zero => omega
  | succ fuel ih =>
    rw [State.earliest]
    by_cases h : from_ = k
    · subst h
      rw [if_pos hk]
    · have hnot : ¬ s.available q n from_ bank true placed = true := fun ha => h (Nat.le_antisymm hle (hfirst _ le_rfl ha))
      rw [if_neg hnot]
      exact ih (by omega) (by omega) fun j hj => hfirst j (by omega)

/-! ### The channel of a unit -/

theorem Part.chanNo_mod {q : Part} {stack chan no : Nat} (h : q.chanNo stack chan = some no) : no % 16 = chan % 16 := by
  obtain ⟨j, -, rfl⟩ := Option.map_eq_some_iff.1 h
  omega

/-- Two units of one STNT lie on two channels. -/
theorem Part.chanNo_unit_ne {q : Part} {phys u v no : Nat} (hu : u < 16) (hv : v < 16) (hne : v ≠ u)
    (h : q.chanNo (stackOf (phys + 64 * u)) (chanOf (phys + 64 * u)) = some no) :
    q.chanNo (stackOf (phys + 64 * v)) (chanOf (phys + 64 * v)) ≠ some no := by
  intro h'
  have hmod := (Part.chanNo_mod h).symm.trans (Part.chanNo_mod h')
  unfold chanOf at hmod
  omega

/-! ### What placing a unit keeps -/

/-- A unit of an STNT that is pending on a partition's pseudo-channel. -/
def Part.pendingUnit (q : Part) (no : Nat) (x : Timed) : Option Placed := match x.what with
  | .stntUnitWrite u => if u.part = q.num ∧ q.chanNo (stackOf u.phys) (chanOf u.phys) = some no
      then some { slot := slotFrom x.due, bank := bankOf u.phys, write := true } else none
  | _ => none

theorem State.placedUnits_eq (s : State) (q : Part) (no : Nat) :
    s.placedUnits q no = s.servedUnits q no true ++ s.due.filterMap (q.pendingUnit no) := rfl

/-- Only pending steps change, and of those that are there only register writes go. -/
def State.OnlyDue (s t : State) : Prop :=
  ∃ ds, t = { s with due := ds } ∧ ∀ x ∈ s.due, (∀ c w, x.what ≠ .registerWrite c w) → x ∈ ds

theorem State.OnlyDue.refl (s : State) : s.OnlyDue s := ⟨s.due, rfl, fun _ hx _ => hx⟩

theorem State.OnlyDue.trans {s t u : State} (h : s.OnlyDue t) (h' : t.OnlyDue u) : s.OnlyDue u := by
  obtain ⟨ds, rfl, hd⟩ := h
  obtain ⟨es, rfl, he⟩ := h'
  exact ⟨es, rfl, fun x hx hw => he x (hd x hx hw) hw⟩

theorem State.OnlyDue.later {s t : State} (h : s.OnlyDue t) {c : Option Nat} {d : Nat} {w : Work}
    (hw : ∀ c v, w ≠ .registerWrite c v) (hl : s.Later c d w) : t.Later c d w := by
  obtain ⟨ds, rfl, hd⟩ := h
  obtain ⟨x, hx, hc, hdue, rfl⟩ := hl
  exact ⟨x, hd x hx hw, hc, hdue, rfl⟩

/-- Only pending steps change, and the units placed on a pseudo-channel stay. -/
def State.Beside (s t : State) (q : Part) (no : Nat) : Prop := s.OnlyDue t ∧ t.placedUnits q no = s.placedUnits q no

theorem State.Beside.refl (s : State) (q : Part) (no : Nat) : s.Beside s q no := ⟨.refl s, rfl⟩

theorem State.Beside.trans {s t u : State} {q : Part} {no : Nat} (h : s.Beside t q no) (h' : t.Beside u q no) : s.Beside u q no :=
  ⟨h.1.trans h'.1, h'.2.trans h.2⟩

theorem State.beside_sched (s : State) {q : Part} {no d : Nat} {key : List Nat} {w : Work}
    (h : q.pendingUnit no (s.pend d key w) = none) : s.Beside (s.sched d key w) q no := by
  refine ⟨⟨_, rfl, fun x hx _ => List.mem_append_left _ hx⟩, ?_⟩
  rw [State.placedUnits_eq, State.placedUnits_eq]
  have hdue : (s.sched d key w).due.filterMap (q.pendingUnit no) = s.due.filterMap (q.pendingUnit no) := by
    show (s.due ++ [s.pend d key w]).filterMap _ = _
    rw [List.filterMap_append, List.filterMap_cons_none h, List.filterMap_nil, List.append_nil]
  rw [hdue]
  rfl

theorem State.beside_dropDue (s : State) (q : Part) (no : Nat) {f : Timed → Bool}
    (h : ∀ x, f x = true → ∃ c w, x.what = .registerWrite c w) : s.Beside (s.dropDue f) q no := by
  refine ⟨⟨_, rfl, fun x hx hw => List.mem_filter.2 ⟨hx, ?_⟩⟩, ?_⟩
  · cases hf : f x
    · rfl
    · obtain ⟨c, w, he⟩ := h x hf
      exact absurd he (hw c w)
  · have hnone (x : Timed) (hf : f x = true) : q.pendingUnit no x = none := by
      obtain ⟨c, w, he⟩ := h x hf
      rw [Part.pendingUnit, he]
    rw [State.placedUnits_eq, State.placedUnits_eq]
    have hdue : (s.dropDue f).due.filterMap (q.pendingUnit no) = s.due.filterMap (q.pendingUnit no) := by
      show (s.due.filter fun x => !f x).filterMap _ = _
      rw [List.filterMap_filter]
      refine List.filterMap_congr fun x _ => ?_
      cases hf : f x
      · rfl
      · exact (hnone x hf).symm
    rw [hdue]
    rfl

theorem State.beside_faultUnit (s : State) (q : Part) (no at_ code : Nat) (d : List Word) :
    s.Beside (s.faultUnit at_ code d) q no := by
  have hfault (u : State) : u.Beside (u.faultAt at_ code d) q no := u.beside_sched rfl
  unfold State.faultUnit
  dsimp only
  split
  · exact hfault s
  · split
    · refine (s.beside_dropDue q no fun x hx => ?_).trans (hfault _)
      simp only [Bool.and_eq_true, beq_iff_eq] at hx
      exact ⟨_, _, hx.2⟩
    · exact .refl ..

/-- Placing a unit keeps those of every other pseudo-channel. -/
theorem State.beside_placeUnit (s : State) (q : Part) (ea : Nat) {u : StntUnit} {no : Nat}
    (h : q.chanNo (stackOf u.phys) (chanOf u.phys) ≠ some no) : s.Beside (s.placeUnit q ea u) q no := by
  unfold State.placeUnit
  split
  · exact .refl ..
  · dsimp only
    split
    · exact .refl ..
    · split
      · exact s.beside_faultUnit ..
      · split
        · exact s.beside_faultUnit ..
        · exact s.beside_sched (if_neg fun hu => h hu.2)

/-- Placing a unit changes only pending steps. -/
theorem State.onlyDue_placeUnit (s : State) (q : Part) (ea : Nat) (u : StntUnit) : s.OnlyDue (s.placeUnit q ea u) := by
  obtain ⟨no, hno⟩ : ∃ no, q.chanNo (stackOf u.phys) (chanOf u.phys) ≠ some no := by
    cases h : q.chanNo (stackOf u.phys) (chanOf u.phys) with
    | none => exact ⟨0, by simp⟩
    | some k => exact ⟨k + 1, by simp⟩
  exact (s.beside_placeUnit q ea hno).1

theorem State.crossed_none {s : State} {die : Nat} (h : s.linkErrs = [] ∨ die = dieOf s.me) : s.crossed die = none := by
  obtain h | rfl := h
  · exact State.crossedBetween_sound h ..
  · simp [State.crossed, State.crossedBetween]

/-- A unit that its table admits takes the earliest available slot of its pseudo-channel (R251). -/
theorem State.placeUnit_eq {s : State} {q : Part} {u : StntUnit} {no k : Nat} (ea : Nat)
    (hno : q.chanNo (stackOf u.phys) (chanOf u.phys) = some no)
    (hk : s.available q no k (bankOf u.phys) true (s.placedUnits q no) = true) (hfrom : u.issue + 300 ≤ slotCycle k)
    (hreach : ∃ f, (f = slotFrom (u.issue + 300) ∨ ∃ p ∈ s.placedUnits q no, f = p.slot) ∧
      k < f + 2 * (s.timelineOf q no).slots)
    (hfirst : ∀ j, u.issue + 300 ≤ slotCycle j →
      s.available q no j (bankOf u.phys) true (s.placedUnits q no) = true → k ≤ j)
    (hadm : admitted (s.hbm[stackOf u.phys]?.getD Stack.reset).access u.part true (chanOf u.phys) = true)
    (hx : s.crossed (stackOf u.phys / 2) = none) :
    s.placeUnit q ea u = s.sched (slotCycle k) [90, 1, u.issue, u.rank, u.unit] (.stntUnitWrite u) := by
  have hearliest := State.earliest_eq hk ((slotFrom_le_iff ..).2 hfrom) (State.searchLen_reaches hreach)
    fun j hj => hfirst j ((slotFrom_le_iff ..).1 hj)
  simp only [State.placeUnit, hno, hearliest, hadm, hx]
  simp

/-! ### An STNT (R249, R252) -/

/-- What an STNT leaves on its core. -/
def State.withStnt (s : State) (phys : Nat) : State := s.modCore s.me fun k => { k with stnts := k.stnts ++
  [{ issue := s.t, bundle := s.cur.who.bundle, covered := if (s.ctx s.me).life = .ended then some (s.t + 2048) else none,
     units := (List.range 16).map fun u => phys + 64 * u }] }

/-- The machine before the units of an STNT are placed: where its core has ended, its drain is awaited. -/
def State.openStnt (s : State) (phys : Nat) : State :=
  let s' := s.withStnt phys
  if (s.ctx s.me).life = .ended then s'.sched (s'.t + 2048) [60, s'.rankOf s'.me, 1] (.drainCompletion s'.me (s'.t + 2048))
  else s'

/-- A unit of an STNT. -/
def State.stntUnit (s : State) (a : Access) (q : Part) (phys key u : Nat) : StntUnit :=
  { part := q.num, core := s.me, rank := s.rankOf s.me, issue := s.t, unit := u, phys := phys + 64 * u, key := key,
    data := ((bytesOf a.data.toList).drop (64 * u)).take 64 }

/-- Units of an STNT, placed one after another. -/
def State.placeUnits (s : State) (a : Access) (q : Part) (phys key : Nat) (us : List Nat) : State :=
  us.foldl (fun v u => v.placeUnit q a.ea.toNat (v.stntUnit a q phys key u)) s

theorem State.toOpen_eq (s : State) (a : Access) (q : Part) (phys key : Nat) :
    s.toOpen a q phys key = (s.openStnt phys).placeUnits a q phys key (List.range 16) := rfl

section
variable (s : State) (a : Access) (q : Part) (phys key : Nat)

theorem State.onlyDue_placeUnits (us : List Nat) : s.OnlyDue (s.placeUnits a q phys key us) := by
  induction us generalizing s with
  | nil => exact .refl s
  | cons u us ih => exact (s.onlyDue_placeUnit ..).trans (ih _)

theorem State.beside_placeUnits {no : Nat} {us : List Nat}
    (h : ∀ v ∈ us, q.chanNo (stackOf (phys + 64 * v)) (chanOf (phys + 64 * v)) ≠ some no) :
    s.Beside (s.placeUnits a q phys key us) q no := by
  induction us generalizing s with
  | nil => exact .refl ..
  | cons u us ih =>
    obtain ⟨hu, hus⟩ := List.forall_mem_cons.1 h
    exact (s.beside_placeUnit q _ (u := s.stntUnit a q phys key u) hu).trans (ih _ hus)

theorem State.placeUnits_append (us vs : List Nat) :
    s.placeUnits a q phys key (us ++ vs) = (s.placeUnits a q phys key us).placeUnits a q phys key vs := List.foldl_append ..

theorem stntUnit_data {u : Nat} (hu : u < 16) : (s.stntUnit a q phys key u).data = (List.range 64).map fun b =>
    BitVec.ofNat 8 ((lane a.data (16 * u + b / 4)).toNat / 2 ^ (8 * (b % 4))) := by
  have hlen : (bytesOf a.data.toList).length = 1024 := by rw [length_bytesOf, Vector.length_toList]
  rw [State.stntUnit]
  refine slice_eq_map (l := bytesOf a.data.toList) (d := 0) (by rw [hlen]; omega) fun b hb => ?_
  have hdiv : (64 * u + b) / 4 = 16 * u + b / 4 := by omega
  have hmod : (64 * u + b) % 4 = b % 4 := by omega
  rw [getD_bytesOf (by rw [Vector.length_toList]; omega), lane_eq_getD, hdiv, hmod]

theorem stntUnit_eq {u : Nat} (hu : u < 16) : s.stntUnit a q phys key u =
    { part := q.num, core := s.me, rank := s.rankOf s.me, issue := s.t, unit := u, phys := phys + 64 * u, key := key,
      data := (List.range 64).map fun b => BitVec.ofNat 8 ((lane a.data (16 * u + b / 4)).toNat / 2 ^ (8 * (b % 4))) } := by
  rw [← stntUnit_data s a q phys key hu]
  rfl

/-- A unit whose slot is free beside what stood before the STNT takes it, the other units lying on other channels. -/
theorem State.placeUnits_later {u no k : Nat} (hu : u < 16)
    (hno : q.chanNo (stackOf (phys + 64 * u)) (chanOf (phys + 64 * u)) = some no)
    (hk : s.available q no k (bankOf (phys + 64 * u)) true (s.placedUnits q no) = true) (hfrom : s.t + 300 ≤ slotCycle k)
    (hreach : ∃ f, (f = slotFrom (s.t + 300) ∨ ∃ p ∈ s.placedUnits q no, f = p.slot) ∧
      k < f + 2 * (s.timelineOf q no).slots)
    (hfirst : ∀ j, s.t + 300 ≤ slotCycle j →
      s.available q no j (bankOf (phys + 64 * u)) true (s.placedUnits q no) = true → k ≤ j)
    (hadm : admitted (s.hbm[stackOf (phys + 64 * u)]?.getD Stack.reset).access q.num true (chanOf (phys + 64 * u)) = true)
    (hx : s.crossed (stackOf (phys + 64 * u) / 2) = none) :
    (s.placeUnits a q phys key (List.range 16)).Later (some (s.partOf s.me)) (slotCycle k)
      (.stntUnitWrite (s.stntUnit a q phys key u)) := by
  obtain ⟨before, after, hsplit⟩ := List.append_of_mem (List.mem_range.2 hu)
  have hnodup : (before ++ u :: after).Nodup := hsplit ▸ List.nodup_range
  have hbefore : ∀ v ∈ before, q.chanNo (stackOf (phys + 64 * v)) (chanOf (phys + 64 * v)) ≠ some no := by
    intro v hv
    have hne : v ≠ u := by
      rintro rfl
      exact (List.nodup_append.1 hnodup).2.2 v hv v List.mem_cons_self rfl
    have hlt : v < 16 := List.mem_range.1 (hsplit ▸ List.mem_append_left _ hv)
    exact Part.chanNo_unit_ne hu hlt hne hno
  obtain ⟨hdue, hplaced⟩ := s.beside_placeUnits a q phys key hbefore
  obtain ⟨ds, he, -⟩ := hdue
  rw [he] at hplaced
  have hunit := State.placeUnit_eq (s := { s with due := ds }) (u := s.stntUnit a q phys key u) a.ea.toNat hno
    (hplaced ▸ hk) hfrom (hplaced ▸ hreach) (hplaced ▸ hfirst) hadm hx
  have hturn : (s.placeUnits a q phys key (before ++ [u])) = _ :=
    (State.placeUnits_append ..).trans ((congrArg (State.placeUnits · a q phys key [u]) he).trans hunit)
  rw [hsplit, List.append_cons, State.placeUnits_append, hturn]
  refine (State.onlyDue_placeUnits _ a q phys key after).later (by simp) ?_
  exact State.later_sched ..

end

/-! ### The core of an STNT -/

section
variable (s : State) (phys : Nat)

theorem State.withStnt_ctx (c : Nat) : (s.withStnt phys).ctx c = s.ctx c := by
  unfold State.withStnt
  refine State.ctx_modCore_keep ?_ c
  exact fun _ => rfl

theorem State.withStnt_stnts (h : s.me < 384) : ((s.withStnt phys).core s.me).stnts = (s.core s.me).stnts ++
    [{ issue := s.t, bundle := s.cur.who.bundle, covered := if s.myCtx.life = .ended then some (s.t + 2048) else none,
       units := (List.range 16).map fun u => phys + 64 * u }] := by
  rw [State.withStnt, State.core_modCore_self h]
  rfl

theorem State.withStnt_partOf (c : Nat) : (s.withStnt phys).partOf c = s.partOf c := congrArg Ctx.part (s.withStnt_ctx phys c)

theorem State.withStnt_rankOf (c : Nat) : (s.withStnt phys).rankOf c = s.rankOf c := congrArg Ctx.rank (s.withStnt_ctx phys c)

theorem State.openStnt_beside (q : Part) (no : Nat) : (s.withStnt phys).Beside (s.openStnt phys) q no := by
  unfold State.openStnt
  dsimp only
  split
  · exact State.beside_sched _ rfl
  · exact .refl ..

theorem State.openStnt_ended (h : s.myCtx.life = .ended) :
    (s.openStnt phys).Later (some (s.partOf s.me)) (s.t + 2048) (.drainCompletion s.me (s.t + 2048)) := by
  have h' : (s.ctx s.me).life = .ended := h
  rw [State.openStnt, if_pos h', ← s.withStnt_partOf phys]
  exact State.later_sched ..

variable (a : Access) (q : Part) (key : Nat)

theorem State.toOpen_onlyDue : (s.withStnt phys).OnlyDue (s.toOpen a q phys key) :=
  (s.openStnt_beside phys q 0).1.trans (State.onlyDue_placeUnits ..)

theorem State.toOpen_ended (h : s.myCtx.life = .ended) :
    (s.toOpen a q phys key).Later (some (s.partOf s.me)) (s.t + 2048) (.drainCompletion s.me (s.t + 2048)) :=
  (State.onlyDue_placeUnits ..).later (by simp) (s.openStnt_ended phys h)

theorem State.toOpen_stnts (h : s.me < 384) : ((s.toOpen a q phys key).core s.me).stnts = (s.core s.me).stnts ++
    [{ issue := s.t, bundle := s.cur.who.bundle, covered := if s.myCtx.life = .ended then some (s.t + 2048) else none,
       units := (List.range 16).map fun u => phys + 64 * u }] := by
  obtain ⟨ds, he, -⟩ := s.toOpen_onlyDue phys a q key
  rw [he]
  exact s.withStnt_stnts phys h

theorem State.toOpen_kept : s.Kept (s.toOpen a q phys key) := by
  obtain ⟨ds, he, -⟩ := s.toOpen_onlyDue phys a q key
  rw [he]
  exact ⟨rfl, rfl, s.withStnt_ctx phys⟩

/-- R251: each unit that its table admits is left for the earliest open slot free beside what stood before its STNT. -/
theorem State.toOpen_unit {u no k : Nat} (hu : u < 16)
    (hno : q.chanNo (stackOf (phys + 64 * u)) (chanOf (phys + 64 * u)) = some no)
    (hlink : s.linkErrs = [] ∨ stackOf (phys + 64 * u) / 2 = dieOf s.me)
    (hadm : admitted (s.hbm[stackOf (phys + 64 * u)]?.getD Stack.reset).access q.num true (chanOf (phys + 64 * u)) = true)
    (hk : s.available q no k (bankOf (phys + 64 * u)) true (s.placedUnits q no) = true) (hfrom : s.t + 300 ≤ slotCycle k)
    (hreach : ∃ f, (f = slotFrom (s.t + 300) ∨ ∃ p ∈ s.placedUnits q no, f = p.slot) ∧
      k < f + 2 * (s.timelineOf q no).slots)
    (hfirst : ∀ j, s.t + 300 ≤ slotCycle j →
      s.available q no j (bankOf (phys + 64 * u)) true (s.placedUnits q no) = true → k ≤ j) :
    (s.toOpen a q phys key).Later (some (s.partOf s.me)) (slotCycle k) (.stntUnitWrite (s.stntUnit a q phys key u)) := by
  obtain ⟨⟨ds, he, -⟩, hplaced⟩ := s.openStnt_beside phys q no
  rw [he] at hplaced
  have hsame : State.placedUnits { s.withStnt phys with due := ds } q no = s.placedUnits q no := hplaced
  have hunit : State.stntUnit { s.withStnt phys with due := ds } a q phys key u = s.stntUnit a q phys key u := by
    rw [State.stntUnit, State.stntUnit, ← s.withStnt_rankOf phys]
    rfl
  have hlater := State.placeUnits_later { s.withStnt phys with due := ds } a q phys key hu hno (hsame ▸ hk) hfrom (hsame ▸ hreach)
    (hsame ▸ hfirst) hadm (State.crossed_none hlink)
  rw [hunit] at hlater
  rw [State.toOpen_eq, he, ← s.withStnt_partOf phys]
  exact hlater

end
end Sys2Proof.Machine
end

section
/-! When accesses perform, and their faults (O39). -/
namespace Sys2Proof.Machine
set_option Elab.async false

/-! ### Sized accesses -/

theorem Access.Sized.kind_ne {a : Access} (h : a.Sized) : a.kind ≠ .stnt := by
  obtain h | h | h := h <;> simp [h]

theorem Access.Sized.writes_eq {a : Access} (h : a.Sized) : (a.kind == .store || a.kind == .stnt) = (a.kind == .store) := by
  simp [h.kind_ne]

section
variable {s : State} {a : Access} (hout : a.outside a.ea = false) (hreach : s.reaches a a.ea)
  (halign : a.ea.toNat % a.size = 0) (hpig : space a.ea = 0xC)
include hout hreach halign hpig

/-- A pigeonhole that may be written, or is read, is accessed without a fault; another is refused to a store (R80). -/
theorem State.elementFault_pigeonhole : s.elementFault a a.ea =
    if a.kind = .store ∧ ¬ (64 ≤ field a.ea.toNat 11 2 ∧ field a.ea.toNat 11 2 ≤ 125) then some (0x21, []) else none := by
  rw [State.elementFault_aligned hout hreach halign, hpig]
  simp

end

/-- A pigeonhole is read, or is one of those that may be written, or the store faults (R80). -/
theorem State.check_pigeonhole {s : State} {a : Access} (hgen : a.gen = none) (hone : a.elements = [(none, a.ea)])
    (hout : a.outside a.ea = false) (hreach : s.reaches a a.ea) (halign : a.ea.toNat % a.size = 0) (hpig : space a.ea = 0xC) :
    let k := a.ea.toNat / 4 % 2 ^ 10
    (a.kind ≠ .store ∨ (64 ≤ k ∧ k ≤ 125) → s.accessFault a = none) ∧
    (a.kind = .store → k < 64 ∨ 125 < k → s.Does .ldAddressCheck (.ldAddressCheck a) fun t =>
      (s.doing (.ldAddressCheck a)).Raises t s.me 0x21 s.cur.who.src (addrWords a.ea.toNat)) := by
  intro k
  have hfault := State.elementFault_pigeonhole hout hreach halign hpig
  refine ⟨fun h => State.check_passes_single hgen hone (hfault.trans (if_neg ?_)), fun hst h =>
    State.check_raises_single hgen hone (d := []) (hfault.trans (if_pos ⟨hst, fun hin => ?_⟩)) (by decide)⟩
  · rintro ⟨hst, hbad⟩
    exact h.elim (absurd hst) hbad
  · obtain ⟨hlow, hhigh⟩ : 64 ≤ k ∧ k ≤ 125 := hin
    omega

/-- An STNT whose region has the right faults where 32 are outstanding (R249). -/
theorem State.check_stnt {s : State} {a : Access} {q : Part} {r : Nat × Nat} (hgen : a.gen = none) (hk : a.kind = .stnt)
    (hout : a.outside a.ea = false) (hreach : s.reaches a a.ea) (halign : a.ea.toNat % a.size = 0)
    (hsp : space a.ea = 4 ∨ space a.ea = 5) (hq : s.part (s.partOf s.me) = some q)
    (hok : translate q.regions true (a.ea.toNat % 2 ^ 48) = .ok r) :
    (32 ≤ (s.core s.me).stnts.length → s.Does .ldAddressCheck (.ldAddressCheck a) fun t =>
      (s.doing (.ldAddressCheck a)).Raises t s.me 0x14 s.cur.who.src (addrWords a.ea.toNat ++ [32])) ∧
    ((s.core s.me).stnts.length < 32 → s.accessFault a = none) := by
  have hone := Access.elements_stnt hk
  have hfault := State.elementFault_translated hout hreach halign hsp hq (write := true) (by simp [hk])
  rw [hok] at hfault
  exact ⟨fun hfull => State.check_raises_single hgen hone (hfault.trans (if_pos ⟨hk, hfull⟩)) (by decide),
    fun hroom => State.check_passes_single hgen hone (hfault.trans (if_neg (by omega)))⟩

/-- A sized access to device memory reaches it, a store of one word apart (R228, R229). -/
theorem State.reaches_device {s : State} {a : Access} (hk : a.Sized) (hst : a.kind = .store → a.size ≠ 4)
    (h : a.ea.toNat / 2 ^ 48 = 0x4000) : s.reaches a a.ea := by
  have hsp : a.ea.toNat / 2 ^ 60 = 4 := by omega
  refine (hk.reaches_iff rfl).2 ⟨?_, (State.fieldsOk_iff (by rw [hsp]; decide)).2 ?_⟩
  · rw [hsp]
    exact ⟨by decide, by omega, fun _ h => hst h.1 h.2⟩
  · simp only [hsp]
    omega

/-- What an available slot of a timeline is (R251, R265). -/
theorem State.available_usable {s : State} {q : Part} {no k bank : Nat} {placed : List Placed}
    (h : s.available q no k bank true placed = true) : (∀ p ∈ placed, p.slot ≠ k) ∧ ∃ first len word,
      wordAt (s.timelineOf q no).colSpans (k % (s.timelineOf q no).slots) = some (first, len, word) ∧ word.toNat / 2 ^ 28 = 7 ∧
      first + 12 ≤ k % (s.timelineOf q no).slots ∧ k % (s.timelineOf q no).slots + 13 ≤ first + len := by
  simp only [State.available, Bool.and_eq_true, Bool.not_eq_true'] at h
  obtain ⟨⟨⟨huse, hplaced⟩, -⟩, -⟩ := h
  refine ⟨fun p hp e => ?_, ?_⟩
  · have := List.any_eq_false.1 hplaced p hp
    simp [e] at this
  · unfold Timeline.usable at huse
    split at huse
    case h_1 x hx =>
      obtain ⟨first, len, word⟩ := x
      simp only [Bool.and_eq_true, decide_eq_true_eq, beq_iff_eq] at huse
      obtain ⟨⟨hcode, hfirst⟩, hlast⟩ := huse
      exact ⟨_, _, _, hx, hcode, by omega, by omega⟩
    case h_2 => exact absurd huse Bool.false_ne_true

/-! ### Where an access is left -/

section
variable {s : State} {a : Access}

/-- An access that passes its check has the space and the fields that it may have. -/
theorem State.reaches_of_passes (h : s.accessFault a = none) (hone : a.elements = [(none, a.ea)]) : s.reaches a a.ea := by
  by_contra hr
  cases hgen : a.gen with
  | some d =>
    simp only [State.accessFault, hgen] at h
    split at h <;> exact absurd h (by simp)
  | none =>
    rw [State.accessFault_single hgen hone, Option.map_eq_none_iff] at h
    by_cases hout : a.outside a.ea = true
    · rw [State.elementFault_outside hout] at h
      exact absurd h (by simp)
    · rw [State.elementFault_unreached (by simpa using hout) hr] at h
      exact absurd h (by simp)

theorem State.check_goes {P : State → Prop} {t : State} (h : s.accessFault a = none)
    (he : (s.doing (.ldAddressCheck a)).dispatchAccess a = t) (hP : P t) : s.Does .ldAddressCheck (.ldAddressCheck a) P :=
  State.check_passes h (he ▸ hP)

/-- The peer's core that an access names, or that no core has its rank (R229, R231). -/
theorem State.target_named {q : Part} {c : Option Nat} (hq : s.part (s.partOf s.me) = some q)
    (hsp : a.ea.toNat / 2 ^ 60 = 1 ∨ a.ea.toNat / 2 ^ 60 = 2)
    (hc : q.cores[if a.ea.toNat / 2 ^ 60 = 1 then s.rankOf s.me / 8 * 8 + a.ea.toNat / 2 ^ 20 % 8
      else a.ea.toNat / 2 ^ 20 % 2 ^ 9]? = c) (hadm : ∀ k, c = some k → s.Admits k a.writes) :
    s.target a.writes (rankNamed (s.rankOf s.me) a.ea.toNat) = c := by
  rw [rankNamed_eq rfl hsp]
  cases c with
  | none => exact State.target_nobody hq hc
  | some k => exact State.target_admitted hq hc (hadm k rfl)

/-- The transfer of an access over a failed die link (R377, log entry 23). -/
theorem State.crossed_some {die : Nat} (h : (s.me, s.t, s.cur.who.src) ∈ s.linkErrs) (hne : dieOf s.me ≠ die) :
    s.crossed die = some [BitVec.ofNat 32 (min (dieOf s.me) die), BitVec.ofNat 32 (max (dieOf s.me) die)] :=
  if_pos ⟨hne, List.contains_iff_mem.2 h⟩

/-- The cycles of a distance, of which a refusal needs only two. -/
theorem rankCycles {own rank lw st : Nat} (h : (rank / 8 = own / 8 ∧ (lw, st) = (14, 10)) ∨
      (rank / 8 ≠ own / 8 ∧ rank / 96 = own / 96 ∧ (lw, st) = (28, 20)) ∨ (rank / 96 ≠ own / 96 ∧ (lw, st) = (60, 44))) :
    ∃ lp, (rank / 8 = own / 8 ∧ (lp, lw, st) = (8, 14, 10)) ∨
      (rank / 8 ≠ own / 8 ∧ rank / 96 = own / 96 ∧ (lp, lw, st) = (18, 28, 20)) ∨
      (rank / 96 ≠ own / 96 ∧ (lp, lw, st) = (34, 60, 44)) := by
  obtain ⟨hc, hp⟩ | ⟨hc, hd, hp⟩ | ⟨hd, hp⟩ := h
  · exact ⟨8, .inl ⟨hc, by rw [hp]⟩⟩
  · exact ⟨18, .inr (.inl ⟨hc, hd, by rw [hp]⟩)⟩
  · exact ⟨34, .inr (.inr ⟨hd, by rw [hp]⟩)⟩

end

/-- Settles O39: each access goes where its space sends it, and each fault is that of the first condition it meets. -/
theorem accessCyclesAndFaults : Obligations.AccessCyclesAndFaults := by
  refine ⟨fun s a hnone => ⟨fun hsp hk => ?_, fun hsp hk => ?_, fun hsp hk hsize => ?_, fun e hsp hk => ?_, fun o hsp hk => ?_,
      fun q c lp lw st hsp hq hc hadm hcyc => ?_, fun hk => ?_, fun half hk => ?_, fun q lw st hsp hq hc hcyc => ?_,
      fun hsp hopen => ?_, fun q phys key hsp hq hk ht => ?_, fun h port hsp hr => ?_, fun q phys key hk hme hq ht => ?_⟩,
    fun s a hsolo hgen hk hsize => ?_, fun s a hsolo => ⟨fun d hd => ?_, fun hgen => ⟨⟨fun o ho => ?_, fun e he => ?_⟩, fun hk => ?_⟩⟩,
    fun s a q hgen hk hsize hq => ?_, fun s a q code i hgen hsolo hq hk hsize hst => ?_, fun rs write n => ?_,
    fun s q no k bank placed h => ?_⟩
  -- an access to the core's own scratchpad
  · exact State.check_goes hnone (State.dispatch_local (.inr hsp)) (State.toSpad_load (spadCycles_own _) hk)
  · exact State.check_goes hnone (State.dispatch_local (.inr hsp)) (State.toSpad_ldq (spadCycles_own _) hk)
  · exact ⟨storeBytes a, storeBytes_spec hsize,
      State.check_goes hnone (State.dispatch_local (.inr hsp)) (State.toSpad_store (spadCycles_own _) hk)⟩
  · exact State.check_goes hnone (State.dispatch_local (.inr hsp)) (State.toSpad_ldt (spadCycles_own _) hk)
  · exact State.check_goes hnone (State.dispatch_local (.inr hsp)) (State.toSpad_amo (spadCycles_own _) hk)
  -- an access to the core that a rank names
  · have ht := State.target_named (s := s) (a := a) hq hsp hc fun k hk => by
      obtain rfl := Option.some.inj hk
      exact hadm
    have hne : space a.ea ≠ 0 := by
      have : space a.ea = 1 ∨ space a.ea = 2 := hsp
      omega
    have hto (hl : a.indexed = false) := State.dispatch_peer (s := s.doing (.ldAddressCheck a)) hl hsp ht
    have hcycles : spadCycles (space a.ea) (reach (s.doing (.ldAddressCheck a)).me c) = (lp, lw, st, lw) :=
      spadCycles_peer hne hcyc
    exact ⟨fun hk => State.check_goes hnone (hto (Access.Sized.indexed (.inl hk))) (State.toSpad_load hcycles hk),
      fun hk => State.check_goes hnone (hto (Access.Sized.indexed (.inr (.inl hk)))) (State.toSpad_ldq hcycles hk),
      fun hk hsize => ⟨storeBytes a, storeBytes_spec hsize,
        State.check_goes hnone (hto (Access.Sized.indexed (.inr (.inr hk)))) (State.toSpad_store hcycles hk)⟩,
      fun o hk => State.check_goes hnone (hto (Access.indexed_amo hk)) (State.toSpad_amo hcycles hk)⟩
  -- a gather, and a scatter
  · have hl : a.indexed = true := by simp [Access.indexed, hk]
    refine State.check_goes hnone ((State.dispatch_local (.inl hl)).trans (State.toSpad_gather hk)) ⟨?_, fun k hk4 hlane => ?_, ?_⟩
    · exact ((State.adds_sched ..).trans (State.bankGroups_adds ..)).same
    · exact ⟨_, State.bankGroups_later _ 3 _ hk4 hlane⟩
    · exact ⟨a.unselected, fun k hk => a.lane_unselected hk, (State.bankGroups_adds ..).later (State.later_sched ..)⟩
  · refine State.check_goes hnone ((State.dispatch_local (.inl (Access.indexed_scatter hk))).trans (State.toSpad_scatter hk))
      ⟨(State.bankGroups_adds ..).same, fun k hk4 hlane => ⟨_, _, State.bankGroups_later _ 4 _ hk4 hlane, ?_, fun l hl => ?_⟩⟩
    · rw [List.map_map]
      rfl
    · obtain ⟨e, -, rfl⟩ := List.mem_map.1 hl
      exact scatterElement half e.1
  -- a rank that names no core
  · have ht := State.target_named (s := s) (a := a) hq hsp hc fun k hk => by simp at hk
    have hne : space a.ea ≠ 0 := by
      have : space a.ea = 1 ∨ space a.ea = 2 := hsp
      omega
    obtain ⟨lp, hlp⟩ := rankCycles hcyc
    have hcycles := spadCycles_peer hne hlp
    rw [← rankNamed_eq rfl hsp] at hcycles
    have hto (hl : a.indexed = false) := State.dispatch_nobody (s := s.doing (.ldAddressCheck a)) hl hsp ht hcycles
    refine ⟨fun hk => State.check_goes hnone (hto ?_) ?_, fun hk => State.check_goes hnone (hto (Access.Sized.indexed (.inr (.inr hk)))) ?_⟩
    · obtain hk | hk | ⟨o, hk⟩ := hk <;> simp [Access.indexed, hk]
    · have hlw : a.refusedAt lw st lw = lw := by
        obtain hk | hk | ⟨o, hk⟩ := hk <;> simp [Access.refusedAt, hk]
      rw [hlw]
      exact State.defers_sched ..
    · have hst : a.refusedAt lw st lw = st := by simp [Access.refusedAt, hk]
      rw [hst]
      exact State.defers_sched ..
  -- a pigeonhole, device memory, another package
  · have hopen' : (s.doing (.ldAddressCheck a)).pigOpen a.writes = true := (State.pigOpen_iff ..).2 hopen
    have hto (hk : a.Sized) := State.dispatch_pigeonhole hk.indexed hsp hopen'
    exact ⟨fun hk => State.check_goes hnone ((hto (.inr (.inr hk))).trans (if_pos hk)) (State.defers_sched ..),
      fun hk => State.check_goes hnone ((hto (.inl hk)).trans (if_neg (by simp [hk]))) ⟨_, State.defers_sched ..⟩⟩
  · have hk' : a.Sized := hk
    rw [← hk'.writes_eq] at ht
    have hto := State.dispatch_translated (s := s.doing (.ldAddressCheck a)) hk'.indexed (.inl hsp) hq ht
    refine State.check_goes hnone (hto.trans (if_neg hk'.kind_ne)) ⟨State.request_same .., (s.doing _).deviceRequest a phys key,
      State.request_reqs .., State.pairAt_later .., rfl, rfl, rfl, rfl, rfl, rfl, rfl, rfl, rfl, State.deviceRequest_cycle .., rfl⟩
  · have hto := State.dispatch_remote (s := s.doing (.ldAddressCheck a)) (a := a)
    refine ⟨fun hlink => ?_, fun herr hdie hk => ?_⟩
    · have hx : (s.doing (.ldAddressCheck a)).crossed (dieOfPort port) = none := State.crossed_none hlink
      exact ⟨fun hk => State.check_goes hnone (hto (Access.Sized.indexed (.inl hk)) hsp) (State.toRemote_load_spec hr hx hk),
        fun hk => State.check_goes hnone (hto (Access.Sized.indexed (.inr (.inl hk))) hsp) (State.toRemote_ldq_spec hr hx hk),
        fun hk hsize => State.check_goes hnone (hto (Access.Sized.indexed (.inr (.inr hk))) hsp)
          (State.toRemote_store_spec hr hx hk hsize)⟩
    · have hx := State.crossed_some (s := s.doing (.ldAddressCheck a)) (die := dieOfPort port) herr (Ne.symm hdie)
      exact State.check_goes hnone ((hto (Access.Sized.indexed hk) hsp).trans (State.toRemote_crossed (s := s.doing (.ldAddressCheck a)) hr hx)) (State.defers_sched ..)
  -- the units of an STNT
  · have hsp : space a.ea = 5 := ((State.reaches_stnt hk).1 (State.reaches_of_passes hnone (Access.elements_stnt hk))).1
    have hw : (a.kind == .store || a.kind == .stnt) = true := by simp [hk]
    rw [← hw] at ht
    have hto := State.dispatch_translated (s := s.doing (.ldAddressCheck a)) (Access.indexed_stnt hk) (.inr hsp) hq ht
    obtain ⟨hparts, hdram, hctx⟩ := (s.doing (.ldAddressCheck a)).toOpen_kept phys a q key
    refine State.check_goes hnone (hto.trans (if_pos hk)) ⟨(s.doing (.ldAddressCheck a)).toOpen_stnts phys a q key hme,
      (s.doing (.ldAddressCheck a)).toOpen_ended phys a q key,
      fun u no k hu hno hlink hadm hfree hfrom hreach hfirst => ?_, hctx, hparts, hdram⟩
    have hunit := (s.doing (.ldAddressCheck a)).toOpen_unit phys a q key hu hno hlink ((admitted_iff ..).2 hadm) hfree hfrom hreach hfirst
    rw [stntUnit_eq (s.doing (.ldAddressCheck a)) a q phys key hu] at hunit
    exact hunit
  -- the faults of sized accesses
  · have hk' : a.Sized := hk
    have hone := hk'.elements
    have hout := Access.outside_of_solo_none (ea := a.ea) hsolo
    have hiff := (hk'.reaches_iff (s := s) rfl).trans (and_congr_right fun h => State.fieldsOk_iff h.1)
    have hlocal (hsp : a.ea.toNat / 2 ^ 60 = 0) (hz : a.ea.toNat / 2 ^ 20 % 2 ^ 40 = 0) : s.reaches a a.ea :=
      (hk'.reaches_iff rfl).2 ⟨by rw [hsp]; simp, (State.fieldsOk_local hsp).2 hz⟩
    obtain ⟨hunreached, hmisaligned, hpass⟩ := State.check_judged (s := s) hgen hone hsolo Iff.rfl
    refine ⟨fun h => hunreached fun hr => h (hiff.1 hr).1.1, fun hsp h => hunreached fun hr => ?_,
      fun hsp hst h4 => hunreached fun hr => (hiff.1 hr).1.2.2 hsp ⟨hst, h4⟩,
      fun hsp h => hunreached fun hr => h ((hiff.1 hr).2.1 hsp), fun hsp hz hal => hmisaligned (hlocal hsp hz) hal,
      fun hsp hz hal => hpass (hlocal hsp hz) hal (space_notMem (by rw [hsp]; decide)), fun h => hunreached (hiff.not.2 h),
      fun hacc hz hal => hmisaligned (hiff.2 ⟨hacc, hz⟩) hal, fun hacc hz hal => ⟨fun hsp => ?_, fun hsp h => ?_, fun hsp hst h => ?_,
        fun hsp q r hq hok => ?_⟩⟩
    · obtain ⟨hldq, h4⟩ := (hiff.1 hr).1.2.1 hsp
      exact h.elim hldq (absurd h4)
    · refine hpass (hiff.2 ⟨hacc, hz⟩) hal (space_notMem ?_)
      exact List.mem_cons_of_mem _ hsp
    · exact (State.check_pigeonhole hgen hone hout (hiff.2 ⟨hacc, hz⟩) hal hsp).1 (h.imp_left fun hload => by simp [hload])
    · exact (State.check_pigeonhole hgen hone hout (hiff.2 ⟨hacc, hz⟩) hal hsp).2 hst h
    · have hfault := State.elementFault_translated hout (hiff.2 ⟨hacc, hz⟩) hal (.inl hsp) hq hk'.writes_eq
      rw [hok] at hfault
      exact State.check_passes_single hgen hone (hfault.trans (if_neg fun h => hk'.kind_ne h.1))
  -- a generator's fault, atomics and LDT, gathers and scatters
  · refine State.check_raises ?_
    simp only [State.accessFault, hd, Access.outside_of_solo_none hsolo]
    rfl
  · obtain ⟨hunreached, hmisaligned, hpass⟩ :=
      State.check_judged (s := s) hgen (Access.elements_amo ho) hsolo (State.reaches_amo ho)
    exact ⟨hunreached, hmisaligned, fun hr hal => hpass hr hal (space_notMem (by simp; omega))⟩
  · obtain ⟨hunreached, hmisaligned, hpass⟩ :=
      State.check_judged (s := s) hgen (Access.elements_ldt he) hsolo (State.reaches_local fun sp => by simp [he, accepts])
    exact ⟨hunreached, hmisaligned, fun hr hal => hpass hr hal (space_notMem (by simp; omega))⟩
  · rw [State.accessFault_lanes hgen hsolo hk]
    refine ⟨fun h => List.findSome?_eq_none_iff.2 fun x hx => if_pos (h x hx), fun before x after hl hx hb => ?_⟩
    refine State.check_raises ((State.accessFault_lanes hgen hsolo hk).trans ?_)
    rw [hl, List.findSome?_append, List.findSome?_eq_none_iff.2 fun y hy => if_pos (hb y hy), Option.none_or,
      List.findSome?_cons_of_isSome (by rw [if_neg hx]; rfl), if_neg hx]
    rfl
  -- the faults of an STNT
  · have hone := Access.elements_stnt hk
    refine ⟨fun h => State.check_raises ?_, fun hsolo => ?_⟩
    · have hout : a.outside a.ea = true := by
        unfold Access.outside
        cases hm : a.solo with
        | none => exact absurd hm h
        | some m => simp [hk]
      rw [State.accessFault_single hgen hone, State.elementFault_outside hout]
      rfl
    · have hr := State.reaches_stnt (s := s) (ea := a.ea) hk
      have hlt := a.ea.isLt
      obtain ⟨hunreached, hmisaligned, -⟩ := State.check_judged (s := s) hgen hone hsolo hr
      refine ⟨fun h => hunreached (by omega), fun h => ?_⟩
      have hout := Access.outside_of_solo_none (ea := a.ea) hsolo
      have hfields : a.ea.toNat / 2 ^ 60 = 5 ∧ a.ea.toNat / 2 ^ 48 % 2 ^ 12 = 0 := by omega
      have hsp : space a.ea = 4 ∨ space a.ea = 5 := .inr hfields.1
      have hw : (a.kind == .store || a.kind == .stnt) = true := by simp [hk]
      rw [← hsize]
      refine ⟨fun hal => hmisaligned hfields hal, fun hal => ⟨fun code i he =>
        State.check_region hgen hone hout (hr.2 hfields) hal hsp hq hw he, fun r hok => ?_⟩⟩
      exact State.check_stnt hgen hk hout (hr.2 hfields) hal hsp hq hok
  -- device memory whose region refuses, regions, and open slots
  · intro n hn hal he
    have hsp : a.ea.toNat / 2 ^ 60 = 4 := by omega
    exact State.check_region hgen (Access.Sized.elements hk) (Access.outside_of_solo_none hsolo)
      (State.reaches_device hk hst hn) hal (.inl hsp) hq (Access.Sized.writes_eq hk) he
  · exact ⟨fun h => translate_uncovered h write, fun i e hi he hfirst => translate_covered hi he hfirst write⟩
  · exact State.available_usable h
end Sys2Proof.Machine
end

section
/-! The codes of a floating-point format as numbers: the value of a code, and the two codes beside a magnitude (R99, R100). -/
namespace Sys2Proof.Machine

/-! ### The value of a code -/

/-- How many binades a code lies above the lowest one with a spacing of its own. -/
def Fmt.step (F : Fmt) (c : Nat) : Nat := c / 2 ^ F.f - 1
/-- The integer that a code scales, and the exponent of its spacing. -/
def Fmt.sig (F : Fmt) (c : Nat) : Nat := c - F.step c * 2 ^ F.f
def Fmt.exp (F : Fmt) (c : Nat) : Int := F.emin - F.f + F.step c
/-- The magnitude of a code, the codes beyond the largest finite one continued alike. -/
def Fmt.value (F : Fmt) (c : Nat) : ℚ := (F.sig c : ℚ) * 2 ^ F.exp c

theorem Fmt.step_mul_le (F : Fmt) (c : Nat) : F.step c * 2 ^ F.f ≤ c := by
  refine le_trans (Nat.mul_le_mul_right _ (Nat.sub_le _ 1)) (Nat.div_mul_le_self ..)
theorem Fmt.sig_add_step (F : Fmt) (c : Nat) : F.sig c + F.step c * 2 ^ F.f = c :=
  Nat.sub_add_cancel (F.step_mul_le c)

theorem Fmt.sig_lt (F : Fmt) (c : Nat) : F.sig c < 2 ^ (F.f + 1) := by
  have hpos : 0 < 2 ^ F.f := by positivity
  have hdiv := Nat.div_add_mod c (2 ^ F.f)
  have hmod := Nat.mod_lt c hpos
  have hsig := F.sig_add_step c
  unfold Fmt.step at hsig
  rw [pow_succ]
  rcases hn : c / 2 ^ F.f with _ | n
  · simp only [hn, Nat.zero_sub, zero_mul, mul_zero] at hsig hdiv
    omega
  · simp only [hn, Nat.add_sub_cancel] at hsig hdiv
    have : 2 ^ F.f * (n + 1) = n * 2 ^ F.f + 2 ^ F.f := by ring
    omega
theorem Fmt.le_sig {F : Fmt} {c : Nat} (h : 0 < F.step c) : 2 ^ F.f ≤ F.sig c := by
  have hdiv := Nat.div_mul_le_self c (2 ^ F.f)
  have hsig := F.sig_add_step c
  unfold Fmt.step at hsig h
  have : c / 2 ^ F.f = (c / 2 ^ F.f - 1) + 1 := by omega
  rw [this, add_mul] at hdiv
  omega

/-- A significand and the number of its binade determine the code. -/
theorem Fmt.step_of_parts {F : Fmt} {k d : Nat} (hk : k < 2 ^ (F.f + 1)) (hd : 0 < d → 2 ^ F.f ≤ k) :
    F.step (k + d * 2 ^ F.f) = d := by
  have hpos : 0 < 2 ^ F.f := by positivity
  unfold Fmt.step
  rw [Nat.add_mul_div_right _ _ hpos]
  have hlt : k / 2 ^ F.f < 2 := Nat.div_lt_of_lt_mul (by rwa [pow_succ] at hk)
  rcases Nat.eq_zero_or_pos d with rfl | h
  · omega
  · have := (Nat.one_le_div_iff hpos).2 (hd h)
    omega
theorem Fmt.sig_of_parts {F : Fmt} {k d : Nat} (hk : k < 2 ^ (F.f + 1)) (hd : 0 < d → 2 ^ F.f ≤ k) :
    F.sig (k + d * 2 ^ F.f) = k := by
  unfold Fmt.sig
  rw [Fmt.step_of_parts hk hd, Nat.add_sub_cancel]

/-- The next code lies one spacing higher, the first one of a binade too. -/
theorem Fmt.value_succ (F : Fmt) (c : Nat) : F.value (c + 1) = (F.sig c + 1) * 2 ^ F.exp c := by
  have hsig := F.sig_add_step c
  rcases (Nat.succ_le_of_lt (F.sig_lt c)).eq_or_lt with htop | hlt
  · have hc : c + 1 = 2 ^ F.f + (F.step c + 1) * 2 ^ F.f := by
      rw [pow_succ] at htop
      rw [add_mul]
      omega
    have hlow : 2 ^ F.f < 2 ^ (F.f + 1) := Nat.pow_lt_pow_right one_lt_two (Nat.lt_succ_self _)
    have hs : (F.sig c : ℚ) + 1 = 2 ^ F.f * 2 := by exact_mod_cast htop.trans (pow_succ 2 F.f)
    unfold Fmt.value
    rw [hs, Fmt.exp, Fmt.exp, hc, Fmt.step_of_parts hlow fun _ => le_rfl, Fmt.sig_of_parts hlow fun _ => le_rfl]
    push_cast
    rw [← add_assoc, zpow_add_one₀ two_ne_zero]
    ring
  · have hc : c + 1 = (F.sig c + 1) + F.step c * 2 ^ F.f := by omega
    have hn : 0 < F.step c → 2 ^ F.f ≤ F.sig c + 1 := fun h => (Fmt.le_sig h).trans (Nat.le_succ _)
    unfold Fmt.value Fmt.exp
    rw [hc, Fmt.step_of_parts hlt hn, Fmt.sig_of_parts hlt hn, Nat.cast_add_one]

theorem Fmt.value_strictMono (F : Fmt) : StrictMono F.value := strictMono_nat_of_lt_succ fun c => by
  rw [F.value_succ]
  exact mul_lt_mul_of_pos_right (lt_add_one _) (by positivity)
theorem Fmt.value_zero (F : Fmt) : F.value 0 = 0 := by simp [Fmt.value, Fmt.sig]
theorem Fmt.value_nonneg (F : Fmt) (c : Nat) : 0 ≤ F.value c := by unfold Fmt.value; positivity

/-! ### The codes beside a magnitude -/

/-- The magnitude `v` lies at the code `c` or between it and the next one. -/
def Fmt.Beside (F : Fmt) (v : ℚ) (c : Nat) : Prop := F.value c ≤ v ∧ v < F.value (c + 1)

theorem Fmt.value_ge (F : Fmt) (c : Nat) : (c : ℚ) * 2 ^ (F.emin - F.f) ≤ F.value c := by
  induction c with
  | zero => simp [F.value_zero]
  | succ c ih =>
    have hstep : (2 : ℚ) ^ (F.emin - F.f) ≤ 2 ^ F.exp c := zpow_le_zpow_right₀ one_le_two (by unfold Fmt.exp; omega)
    rw [F.value_succ]
    unfold Fmt.value at ih
    push_cast
    linarith

theorem Fmt.exists_beside (F : Fmt) {v : ℚ} (hv : 0 ≤ v) : ∃ c, F.Beside v c := by
  have hex : ∃ n, v < F.value n := by
    obtain ⟨n, hn⟩ := exists_nat_gt (v / 2 ^ (F.emin - F.f))
    exact ⟨n, ((div_lt_iff₀ (by positivity)).1 hn).trans_le (F.value_ge n)⟩
  classical
  have hmin := Nat.find_spec hex
  rcases hn : Nat.find hex with _ | c
  · rw [hn, F.value_zero] at hmin
    exact absurd hmin hv.not_gt
  · rw [hn] at hmin
    exact ⟨c, not_lt.1 (Nat.find_min hex (by omega)), hmin⟩

theorem Fmt.Beside.eq_of_value {F : Fmt} {c d : Nat} (h : F.Beside (F.value d) c) : c = d :=
  le_antisymm (F.value_strictMono.le_iff_le.1 h.1) (Nat.lt_succ_iff.1 (F.value_strictMono.lt_iff_lt.1 h.2))
theorem Fmt.beside_value (F : Fmt) (c : Nat) : F.Beside (F.value c) c := ⟨le_rfl, F.value_strictMono (Nat.lt_succ_self c)⟩

section
variable {F : Fmt} {v : ℚ} {c : Nat} (h : F.Beside v c)
include h

/-- No code lies between the two. -/
theorem Fmt.Beside.le_of_value_le {d : Nat} (hd : F.value d ≤ v) : d ≤ c :=
  Nat.lt_succ_iff.1 (F.value_strictMono.lt_iff_lt.1 (hd.trans_lt h.2))
theorem Fmt.Beside.lt_iff {d : Nat} : c < d ↔ v < F.value d :=
  ⟨fun hd => h.2.trans_le (F.value_strictMono.monotone hd), fun hd => F.value_strictMono.lt_iff_lt.1 (h.1.trans_lt hd)⟩

/-- The place of the magnitude between the two, as a part of their distance. -/
theorem Fmt.Beside.frac_nonneg : 0 ≤ v / 2 ^ F.exp c - F.sig c :=
  sub_nonneg.2 ((le_div_iff₀ (by positivity)).2 h.1)
theorem Fmt.Beside.frac_lt_one : v / 2 ^ F.exp c - F.sig c < 1 := by
  have := (div_lt_iff₀ (by positivity)).2 (h.2.trans_eq (F.value_succ c))
  linarith

/-- The spacing is that of the magnitude's binade, or the lowest one. -/
theorem Fmt.Beside.exp_eq {t : Int} (hlo : (2 : ℚ) ^ t ≤ v) (hhi : v < 2 ^ (t + 1)) : F.exp c = Max.max t F.emin - F.f := by
  have hlt : v < 2 ^ (F.exp c + F.f + 1) := by
    have hs : (F.sig c : ℚ) + 1 ≤ 2 ^ (F.f + 1) := by exact_mod_cast F.sig_lt c
    calc v < (F.sig c + 1) * 2 ^ F.exp c := h.2.trans_eq (F.value_succ c)
      _ ≤ 2 ^ (F.f + 1) * 2 ^ F.exp c := by gcongr
      _ = 2 ^ (F.exp c + F.f + 1) := by
        rw [← zpow_natCast, ← zpow_add₀ two_ne_zero]
        congr 1
        push_cast
        ring
  have hup : t < F.exp c + F.f + 1 := (zpow_lt_zpow_iff_right₀ one_lt_two).1 (hlo.trans_lt hlt)
  rcases Nat.eq_zero_or_pos (F.step c) with h0 | hpos
  · simp only [Fmt.exp, h0] at hup ⊢
    omega
  · have hle : (2 : ℚ) ^ (F.exp c + F.f) ≤ v := by
      have hs : (2 : ℚ) ^ F.f ≤ F.sig c := by exact_mod_cast Fmt.le_sig hpos
      calc (2 : ℚ) ^ (F.exp c + F.f) = 2 ^ F.f * 2 ^ F.exp c := by
            rw [add_comm, zpow_add₀ two_ne_zero, zpow_natCast]
        _ ≤ F.sig c * 2 ^ F.exp c := by gcongr
        _ ≤ v := h.1
    have hdown : F.exp c + F.f < t + 1 := (zpow_lt_zpow_iff_right₀ one_lt_two).1 (hle.trans_lt hhi)
    unfold Fmt.exp at hup hdown ⊢
    omega
end

end Sys2Proof.Machine
end

section
/-! Rounding into a format, by the codes beside a magnitude (R106 to R109). -/
namespace Sys2Proof.Machine

/-! ### Dyadic magnitudes -/

theorem log2_le_dyadic {m : Nat} (hm : 0 < m) (e : Int) : (2 : ℚ) ^ ((Nat.log2 m : Int) + e) ≤ m * 2 ^ e := by
  have h : ((2 ^ Nat.log2 m : Nat) : ℚ) ≤ m := by exact_mod_cast Nat.log2_self_le hm.ne'
  rw [zpow_add₀ two_ne_zero, zpow_natCast]
  push_cast at h
  gcongr
theorem dyadic_lt_log2 (m : Nat) (e : Int) : (m : ℚ) * 2 ^ e < 2 ^ ((Nat.log2 m : Int) + e + 1) := by
  have h : (m : ℚ) < ((2 ^ (Nat.log2 m + 1) : Nat) : ℚ) := by exact_mod_cast Nat.lt_log2_self
  rw [show (Nat.log2 m : Int) + e + 1 = ((Nat.log2 m + 1 : Nat) : Int) + e by push_cast; ring, zpow_add₀ two_ne_zero,
    zpow_natCast]
  push_cast at h ⊢
  gcongr

/-- The binade of a magnitude is below that of 2^t exactly when the magnitude is. -/
theorem log2_add_lt_iff {m : Nat} (hm : 0 < m) (e t : Int) : (Nat.log2 m : Int) + e < t ↔ (m : ℚ) * 2 ^ e < 2 ^ t := by
  constructor
  · intro h
    exact (dyadic_lt_log2 m e).trans_le (zpow_le_zpow_right₀ one_le_two h)
  · intro h
    exact (zpow_lt_zpow_iff_right₀ one_lt_two).1 ((log2_le_dyadic hm e).trans_lt h)

/-- A magnitude whose exponent is not negative is a whole number. -/
theorem dyadic_of_nonneg (m : Nat) {e : Int} (h : 0 ≤ e) : (m : ℚ) * 2 ^ e = (m * 2 ^ e.toNat : Nat) := by
  push_cast
  rw [← zpow_natCast, Int.toNat_of_nonneg h]

/-- A magnitude in units of a greater power of two: the whole units, and the rest of one. -/
theorem dyadic_div_shift (m s : Nat) (e : Int) :
    (m : ℚ) * 2 ^ e / 2 ^ (e + s) = (m / 2 ^ s : Nat) + ((m % 2 ^ s : Nat) : ℚ) / 2 ^ s := by
  have h : (m : ℚ) = (m / 2 ^ s : Nat) * 2 ^ s + (m % 2 ^ s : Nat) := by exact_mod_cast (Nat.div_add_mod' m (2 ^ s)).symm
  rw [zpow_add₀ two_ne_zero, zpow_natCast]
  nth_rewrite 1 [h]
  field_simp
theorem floor_dyadic_div_shift (m s : Nat) (e : Int) : ⌊(m : ℚ) * 2 ^ e / 2 ^ (e + s)⌋₊ = m / 2 ^ s := by
  rw [show (m : ℚ) * 2 ^ e / 2 ^ (e + s) = (m : ℚ) / ((2 ^ s : Nat) : ℚ) by
    rw [zpow_add₀ two_ne_zero, zpow_natCast, mul_comm (m : ℚ), mul_div_mul_left _ _ (by positivity)]
    push_cast
    rfl, Nat.floor_div_eq_div]
theorem rem_div_eq_zero_iff (m s : Nat) : ((m % 2 ^ s : Nat) : ℚ) / 2 ^ s = 0 ↔ m % 2 ^ s = 0 := by simp

/-! ### The direction of a rounding -/

/-- Whether a magnitude that lies the part `x` of a spacing 2^q above the integer `k` is rounded up (R106, R108). -/
def Rnd.up (r : Rnd) (neg : Bool) (k : Nat) (x : ℚ) (q : Int) : Bool := match r with
  | .rne => decide (1 / 2 < x) || (decide (x = 1 / 2) && k % 2 == 1)
  | .rz => false
  | .ru => !neg
  | .rd => neg
  | .sr seed ulp =>
    let wd := min (q - ulp).toNat 32
    let dd := ⌊x * 2 ^ wd⌋.toNat
    decide (2 ^ wd ≤ dd + (mix seed dd).toNat / 2 ^ (32 - wd))

/-- The model's choice is the same of the exact remainder of a magnitude. -/
theorem roundsUp_eq_up (r : Rnd) (neg : Bool) (k rem : Nat) {shift : Nat} (hs : 0 < shift) (q : Int) :
    roundsUp r neg k rem shift false q = r.up neg k (rem / 2 ^ shift) q := by
  cases r with
  | rz | ru | rd => rfl
  | rne =>
    have hpow : (2 : ℚ) ^ shift = 2 * (2 ^ (shift - 1) : Nat) := by
      push_cast
      rw [← pow_succ', Nat.sub_add_cancel hs]
    have hlt : (1 / 2 : ℚ) < rem / 2 ^ shift ↔ 2 ^ (shift - 1) < rem := by
      rw [lt_div_iff₀ (by positivity), hpow, ← mul_assoc, one_div_mul_cancel two_ne_zero, one_mul, Nat.cast_lt]
    have heq : (rem / 2 ^ shift : ℚ) = 1 / 2 ↔ rem = 2 ^ (shift - 1) := by
      rw [div_eq_iff (by positivity), hpow, ← mul_assoc, one_div_mul_cancel two_ne_zero, one_mul, Nat.cast_inj]
    simp only [roundsUp, Rnd.up, hlt, heq, Bool.false_or]
    rfl
  | sr seed ulp =>
    have hdd : ∀ wd : Nat, ⌊(rem / 2 ^ shift : ℚ) * 2 ^ wd⌋.toNat = rem * 2 ^ wd / 2 ^ shift := by
      intro wd
      rw [div_mul_eq_mul_div, show (rem * 2 ^ wd / 2 ^ shift : ℚ) = ((rem * 2 ^ wd : Nat) : ℚ) / ((2 ^ shift : Nat) : ℚ) by push_cast; rfl,
        Int.floor_toNat, Nat.floor_div_eq_div]
    simp only [roundsUp, Rnd.up, hdd]

/-! ### The code that a magnitude is rounded to -/

/-- The sign of a code. -/
def Fmt.sign (F : Fmt) (neg : Bool) : Nat := if neg then 2 ^ (F.width - 1) else 0

/-- The code that the magnitude `v` beside `c` is rounded to, the range left out of account (R106). -/
def Fmt.choose (F : Fmt) (r : Rnd) (neg : Bool) (v : ℚ) (c : Nat) : Nat :=
  if v ≠ F.value c ∧ r.up neg (F.sig c) (v / 2 ^ F.exp c - F.sig c) (F.exp c) then c + 1 else c

/-- The flags of a code within the range for the magnitude `v`. -/
def Fmt.flags (F : Fmt) (v : ℚ) (c : Nat) : Flags :=
  if F.value c = v then 0 else if v < 2 ^ F.emin then fUNF ||| fINX else fINX

/-- A code within the range with its flags, and what stands for one beyond (R107). -/
def Fmt.settle (F : Fmt) (r : Rnd) (neg : Bool) (v : ℚ) (c : Nat) : Nat × Flags :=
  if F.max < c then F.beyond r neg else (c, F.flags v c)

/-- A chosen code has the value of the magnitude only when the code below it does. -/
theorem Fmt.Beside.value_choose_eq_iff {F : Fmt} {v : ℚ} {c : Nat} (h : F.Beside v c) (r : Rnd) (neg : Bool) :
    F.value (F.choose r neg v c) = v ↔ F.value c = v := by
  unfold Fmt.choose
  split_ifs with hup
  · exact iff_of_false h.2.ne' fun he => hup.1 he.symm
  · rfl

section
variable {F : Fmt} {m c : Nat} {e : Int}

/-- A magnitude with no bit below the spacing is the value of the code beside it. -/
theorem Fmt.Beside.exact_of_exp_le (h : F.Beside (m * 2 ^ e) c) (hle : F.exp c ≤ e) :
    m * 2 ^ (e - F.exp c).toNat = F.sig c ∧ F.value c = m * 2 ^ e := by
  have hv : (m : ℚ) * 2 ^ e = (m * 2 ^ (e - F.exp c).toNat : Nat) * 2 ^ F.exp c := by
    rw [← dyadic_of_nonneg m (sub_nonneg.2 hle), mul_assoc, ← zpow_add₀ two_ne_zero, sub_add_cancel]
  have hk : m * 2 ^ (e - F.exp c).toNat = F.sig c := by
    have hx := h.frac_nonneg
    have hx' := h.frac_lt_one
    rw [hv, mul_div_cancel_right₀ _ (by positivity)] at hx hx'
    refine le_antisymm (Nat.lt_succ_iff.1 ?_) ?_
    · exact_mod_cast sub_lt_iff_lt_add'.1 hx'
    · exact_mod_cast sub_nonneg.1 hx
  exact ⟨hk, by rw [hv, hk]; rfl⟩

/-- Of one with bits below the spacing, the code beside it holds the whole spacings. -/
theorem Fmt.Beside.shift_parts (h : F.Beside (m * 2 ^ e) c) {s : Nat} (hs : e + s = F.exp c) :
    m / 2 ^ s = F.sig c ∧ (m : ℚ) * 2 ^ e / 2 ^ F.exp c - F.sig c = ((m % 2 ^ s : Nat) : ℚ) / 2 ^ s := by
  have hk : m / 2 ^ s = F.sig c := by
    rw [← floor_dyadic_div_shift m s e, hs, Nat.floor_eq_iff (by positivity)]
    exact ⟨sub_nonneg.1 h.frac_nonneg, sub_lt_iff_lt_add'.1 h.frac_lt_one⟩
  refine ⟨hk, ?_⟩
  rw [← hs, dyadic_div_shift, hk, add_sub_cancel_left]

theorem Fmt.value_eq_iff {v : ℚ} : F.value c = v ↔ v / 2 ^ F.exp c - F.sig c = 0 := by
  rw [Fmt.value, sub_eq_zero, div_eq_iff (by positivity), eq_comm]

/-- What `keep` leaves of a magnitude: the integer and the exponent of the chosen code. -/
theorem Fmt.Beside.keep_eq (hm : 0 < m) (h : F.Beside (m * 2 ^ e) c) (r : Rnd) (neg : Bool) :
    keep F.f F.emin r neg m e false =
      (F.sig c + (F.choose r neg (m * 2 ^ e) c - c), F.exp c, decide (F.value c ≠ m * 2 ^ e)) := by
  unfold keep
  simp only [← h.exp_eq (log2_le_dyadic hm e) (dyadic_lt_log2 m e), Bool.or_false]
  by_cases hle : F.exp c ≤ e
  · obtain ⟨hk, hval⟩ := h.exact_of_exp_le hle
    simp [hle, hk, hval, Fmt.choose]
  · obtain ⟨hk, hx⟩ := h.shift_parts (s := (F.exp c - e).toNat) (by omega)
    have hbne : (m % 2 ^ (F.exp c - e).toNat != 0) = decide (F.value c ≠ m * 2 ^ e) := by
      rw [decide_not, decide_eq_decide.2 (Fmt.value_eq_iff.trans (hx ▸ rem_div_eq_zero_iff ..))]
      rfl
    rw [if_neg hle, roundsUp_eq_up _ _ _ _ (by omega), ← hx, hk, hbne]
    unfold Fmt.choose
    simp only [Bool.and_eq_true, decide_eq_true_eq, ne_comm (a := F.value c)]
    split_ifs <;> simp

/-- Rounding, by the code beside the magnitude (R106, R107). -/
theorem Fmt.Beside.round_eq (hm : 0 < m) (h : F.Beside (m * 2 ^ e) c) (r : Rnd) (neg : Bool) :
    F.round r neg m e =
      (F.sign neg + (F.settle r neg (m * 2 ^ e) (F.choose r neg (m * 2 ^ e) c)).1,
        (F.settle r neg (m * 2 ^ e) (F.choose r neg (m * 2 ^ e) c)).2) := by
  have hcode : F.sig c + (F.choose r neg (m * 2 ^ e) c - c) + (F.exp c - (F.emin - F.f)).toNat * 2 ^ F.f =
      F.choose r neg (m * 2 ^ e) c := by
    have hstep : (F.exp c - (F.emin - F.f)).toNat = F.step c := by unfold Fmt.exp; omega
    have hge : c ≤ F.choose r neg (m * 2 ^ e) c := by unfold Fmt.choose; split_ifs <;> omega
    have := F.sig_add_step c
    rw [hstep]
    omega
  unfold Fmt.round
  simp only [hm.ne', false_and, if_false, h.keep_eq hm, hcode, log2_add_lt_iff hm, Fmt.settle, Fmt.flags,
    h.value_choose_eq_iff, Fmt.sign]
  by_cases hbig : F.max < F.choose r neg (m * 2 ^ e) c <;> simp [hbig, ite_not]
end

end Sys2Proof.Machine
end

section
/-! Every rounding mode, by the codes beside a magnitude: which code is chosen, and when it lies beyond the range (R106 to
R109). -/
namespace Sys2Proof.Machine

/-! ### The largest code and the next one -/

/-- Fraction bits, and a largest code that is not the first of its binade: the code after it lies as far as the one before. -/
structure Fmt.Regular (F : Fmt) : Prop where
  f_pos : 0 < F.f
  max_inner : F.max % 2 ^ F.f ≠ 0

theorem fp32_regular : fp32.Regular := ⟨by decide, by decide⟩
theorem bf16_regular : bf16.Regular := ⟨by decide, by decide⟩
theorem e5m2_regular : e5m2.Regular := ⟨by decide, by decide⟩
theorem e4m3_regular : e4m3.Regular := ⟨by decide, by decide⟩
theorem e2m1_regular : e2m1.Regular := ⟨by decide, by decide⟩

theorem Fmt.value_succ_sub (F : Fmt) (c : Nat) : F.value (c + 1) - F.value c = 2 ^ F.exp c := by
  rw [F.value_succ, Fmt.value]
  ring

theorem Fmt.Regular.value_max_succ {F : Fmt} (hF : F.Regular) :
    F.value (F.max + 1) = F.value F.max + (F.value F.max - F.value (F.max - 1)) := by
  obtain ⟨p, hp⟩ := Nat.exists_eq_add_one_of_ne_zero (n := F.max) fun h => hF.max_inner (by rw [h, Nat.zero_mod])
  have hdiv : (p + 1) / 2 ^ F.f = p / 2 ^ F.f := by
    rw [Nat.succ_div, if_neg, add_zero]
    exact fun h => hF.max_inner (by rw [hp, Nat.mod_eq_zero_of_dvd h])
  have hexp : F.exp (p + 1) = F.exp p := by unfold Fmt.exp Fmt.step; rw [hdiv]
  have h1 := F.value_succ_sub p
  have h2 := F.value_succ_sub (p + 1)
  rw [hp, Nat.add_sub_cancel]
  rw [hexp] at h2
  linarith

/-! ### Which code is chosen -/

section
variable {F : Fmt} {v : ℚ} {c : Nat}

theorem Fmt.choose_of_up_false {r : Rnd} {neg : Bool} (h : ∀ k x q, r.up neg k x q = false) : F.choose r neg v c = c := by
  simp [Fmt.choose, h]
theorem Fmt.choose_of_up_true {r : Rnd} {neg : Bool} (h : ∀ k x q, r.up neg k x q = true) :
    F.choose r neg v c = if v = F.value c then c else c + 1 := by
  simp [Fmt.choose, h, ite_not]

/-- To nearest, the middle between the two codes decides, and on a tie the even one is chosen. -/
theorem Fmt.choose_rne (hF : F.Regular) (neg : Bool) :
    F.choose .rne neg v c =
      if (F.value c + F.value (c + 1)) / 2 < v ∨ (v = (F.value c + F.value (c + 1)) / 2 ∧ c % 2 = 1) then c + 1 else c := by
  have hpos : (0 : ℚ) < 2 ^ F.exp c := by positivity
  have hsub := F.value_succ_sub c
  have hsig : F.value c = F.sig c * 2 ^ F.exp c := rfl
  have hlt : (1 / 2 : ℚ) < v / 2 ^ F.exp c - F.sig c ↔ (F.value c + F.value (c + 1)) / 2 < v := by
    rw [lt_sub_iff_add_lt, lt_div_iff₀ hpos]
    constructor <;> intro h <;> linarith
  have heq : v / 2 ^ F.exp c - F.sig c = 1 / 2 ↔ v = (F.value c + F.value (c + 1)) / 2 := by
    rw [sub_eq_iff_eq_add, div_eq_iff hpos.ne']
    constructor <;> intro h <;> linarith
  have hodd : F.sig c % 2 = c % 2 := by
    obtain ⟨n, hn⟩ := Nat.exists_eq_add_one_of_ne_zero hF.f_pos.ne'
    have h := F.sig_add_step c
    rw [hn, pow_succ, ← mul_assoc] at h
    omega
  have hne : (F.value c + F.value (c + 1)) / 2 < v ∨ (v = (F.value c + F.value (c + 1)) / 2 ∧ c % 2 = 1) → v ≠ F.value c := by
    rintro (h | ⟨h, -⟩) <;> intro he <;> linarith
  unfold Fmt.choose
  refine if_congr ?_ rfl rfl
  simp only [Rnd.up, hodd, Bool.or_eq_true, Bool.and_eq_true, decide_eq_true_eq, beq_iff_eq, hlt, heq]
  exact and_iff_right_of_imp hne

/-- No code lies nearer than the one chosen to nearest, and one as near is even or the chosen one itself. -/
theorem Fmt.Beside.nearest (hF : F.Regular) (h : F.Beside v c) (neg : Bool) (d : Nat) :
    |v - F.value (F.choose .rne neg v c)| ≤ |v - F.value d| ∧
      (|v - F.value (F.choose .rne neg v c)| = |v - F.value d| →
        d = F.choose .rne neg v c ∨ F.choose .rne neg v c % 2 = 0) := by
  rw [Fmt.choose_rne hF]
  obtain ⟨hlo, hhi⟩ := h
  have hup : |v - F.value (c + 1)| = F.value (c + 1) - v := by rw [abs_sub_comm, abs_of_pos (sub_pos.2 hhi)]
  have hdown : |v - F.value c| = v - F.value c := abs_of_nonneg (sub_nonneg.2 hlo)
  rcases lt_trichotomy d c with hd | rfl | hd
  · have hlt := F.value_strictMono hd
    rw [abs_of_pos (sub_pos.2 (hlt.trans_le hlo))]
    split_ifs with hc
    · rw [hup]
      refine ⟨?_, fun he => absurd he ?_⟩
      · rcases hc with hc | ⟨hc, -⟩ <;> linarith
      · rcases hc with hc | ⟨hc, -⟩ <;> exact (by linarith : F.value (c + 1) - v < v - F.value d).ne
    · rw [hdown]
      exact ⟨by linarith, fun he => absurd he (by linarith : v - F.value c < v - F.value d).ne⟩
  · rw [hdown]
    split_ifs with hc
    · rw [hup]
      refine ⟨by rcases hc with hc | ⟨hc, -⟩ <;> linarith, fun he => .inr ?_⟩
      rcases hc with hc | ⟨-, hc⟩
      · exact absurd he (by linarith : F.value (d + 1) - v < v - F.value d).ne
      · omega
    · exact ⟨hdown.le, fun _ => .inl rfl⟩
  · have hge := F.value_strictMono.monotone (Nat.succ_le_of_lt hd)
    rw [abs_sub_comm v (F.value d), abs_of_pos (sub_pos.2 (hhi.trans_le hge))]
    split_ifs with hc
    · rw [hup]
      refine ⟨by linarith, fun he => .inl ?_⟩
      exact F.value_strictMono.injective (by linarith)
    · rw [hdown]
      rw [not_or, not_and', not_lt] at hc
      refine ⟨by linarith [hc.1], fun he => .inr ?_⟩
      by_contra hodd
      exact hc.2 (by omega) (by linarith [hc.1])

/-! ### The chosen code and the range -/

/-- Rounding within the range, and beyond it. -/
theorem Fmt.Beside.round_within {m : Nat} {e : Int} (hm : 0 < m) (h : F.Beside (m * 2 ^ e) c) {r : Rnd}
    (hle : F.choose r false (m * 2 ^ e) c ≤ F.max) :
    F.round r false m e = (F.choose r false (m * 2 ^ e) c, F.flags (m * 2 ^ e) (F.choose r false (m * 2 ^ e) c)) := by
  rw [h.round_eq hm, Fmt.settle, if_neg hle.not_gt]
  simp [Fmt.sign]
theorem Fmt.Beside.round_beyond {m : Nat} {e : Int} (hm : 0 < m) (h : F.Beside (m * 2 ^ e) c) {r : Rnd}
    (hlt : F.max < F.choose r false (m * 2 ^ e) c) : F.round r false m e = F.beyond r false := by
  rw [h.round_eq hm, Fmt.settle, if_pos hlt]
  simp [Fmt.sign]

theorem Fmt.Beside.le_max_iff (h : F.Beside v c) : c ≤ F.max ↔ v < F.value (F.max + 1) := by
  rw [← h.lt_iff, Nat.lt_succ_iff]

/-- Upwards, a code is chosen within the range exactly of a magnitude not above the largest. -/
theorem Fmt.Beside.up_le_max_iff (h : F.Beside v c) : (if v = F.value c then c else c + 1) ≤ F.max ↔ v ≤ F.value F.max := by
  split_ifs with he
  · rw [he, F.value_strictMono.le_iff_le]
  · rw [Nat.succ_le_iff, h.lt_iff]
    refine ⟨le_of_lt, fun hle => hle.lt_of_ne fun hv => he ?_⟩
    rw [hv] at h ⊢
    rw [h.eq_of_value]

/-- To nearest, one of a magnitude below the middle between the largest code and the next, or there with the largest even. -/
theorem Fmt.Beside.rne_le_max_iff (hF : F.Regular) (h : F.Beside v c) (neg : Bool) :
    F.choose .rne neg v c ≤ F.max ↔
      v < (F.value F.max + F.value (F.max + 1)) / 2 ∨ (v = (F.value F.max + F.value (F.max + 1)) / 2 ∧ F.max % 2 = 0) := by
  have hmid := F.value_strictMono (Nat.lt_succ_self F.max)
  rw [Fmt.choose_rne hF]
  rcases lt_trichotomy c F.max with hc | rfl | hc
  · have hv := h.lt_iff.1 hc
    refine iff_of_true ?_ (.inl (by linarith))
    split_ifs <;> omega
  · split_ifs with hup
    · refine iff_of_false (by omega) ?_
      rintro (hlt | ⟨heq, heven⟩)
      · rcases hup with hup | ⟨hup, -⟩ <;> linarith
      · rcases hup with hup | ⟨-, hodd⟩
        · linarith
        · omega
    · refine iff_of_true le_rfl ?_
      rw [not_or, not_and', not_lt] at hup
      refine hup.1.lt_or_eq.imp_right fun he => ⟨he, ?_⟩
      by_contra hodd
      exact hup.2 (by omega) he
  · have hv : F.value (F.max + 1) ≤ v := (F.value_strictMono.monotone hc).trans h.1
    refine iff_of_false ?_ ?_
    · split_ifs <;> omega
    · rintro (hlt | ⟨heq, -⟩) <;> linarith

/-- The code with a given significand and spacing. -/
theorem Fmt.exists_parts {F : Fmt} {v : ℚ} {q : Int} {K : Nat}
    (hq : (v < (2 : ℚ) ^ F.emin ∧ q = F.emin - F.f) ∨
      (F.emin ≤ q + F.f ∧ (2 : ℚ) ^ (q + F.f) ≤ v ∧ v < (2 : ℚ) ^ (q + F.f + 1)))
    (hle : (K : ℚ) * 2 ^ q ≤ v) (hlt : v < (K + 1 : ℚ) * 2 ^ q) :
    ∃ c, F.Beside v c ∧ F.sig c = K ∧ F.exp c = q := by
  have hpos : (0 : ℚ) < 2 ^ q := by positivity
  have hsplit : ∀ n : Nat, (2 : ℚ) ^ (q + n) = ((2 ^ n : Nat) : ℚ) * 2 ^ q := fun n => by
    rw [add_comm, zpow_add₀ two_ne_zero, zpow_natCast]
    push_cast
    rfl
  have hsmall : K < 2 ^ (F.f + 1) := by
    have hv : v < 2 ^ (q + (F.f + 1 : Nat)) := by
      rcases hq with ⟨hv, hq⟩ | ⟨-, -, hv⟩
      · exact hv.trans_le (zpow_le_zpow_right₀ one_le_two (by omega))
      · exact hv.trans_eq (by push_cast; rw [add_assoc])
    exact_mod_cast lt_of_mul_lt_mul_right (hle.trans_lt (hv.trans_eq (hsplit _))) hpos.le
  have hlow : F.emin - F.f ≤ q := by omega
  have hnormal : 0 < (q - (F.emin - F.f)).toNat → 2 ^ F.f ≤ K := by
    intro h
    rcases hq with ⟨-, hq⟩ | ⟨-, hv, -⟩
    · omega
    · rw [hsplit] at hv
      exact Nat.lt_succ_iff.1 (by exact_mod_cast lt_of_mul_lt_mul_right (hv.trans_lt hlt) hpos.le)
  have hexp : F.exp (K + (q - (F.emin - F.f)).toNat * 2 ^ F.f) = q := by
    unfold Fmt.exp
    rw [Fmt.step_of_parts hsmall hnormal]
    omega
  have hsig : F.sig (K + (q - (F.emin - F.f)).toNat * 2 ^ F.f) = K := Fmt.sig_of_parts hsmall hnormal
  refine ⟨_, ⟨?_, ?_⟩, hsig, hexp⟩
  · rwa [Fmt.value, hsig, hexp]
  · rwa [F.value_succ, hsig, hexp]

end

/-- A negative value is rounded as its magnitude in the mode that answers its own (R106). -/
theorem Fmt.round_neg (F : Fmt) {r r' : Rnd} (hup : ∀ k x q, r.up true k x q = r'.up false k x q)
    (hbeyond : F.beyond r true = F.beyond r' false) {m : Nat} (hm : 0 < m) (e : Int) :
    F.round r true m e = (2 ^ (F.width - 1) + (F.round r' false m e).1, (F.round r' false m e).2) := by
  obtain ⟨c, h⟩ := F.exists_beside (v := m * 2 ^ e) (by positivity)
  have hchoose : F.choose r true (m * 2 ^ e) c = F.choose r' false (m * 2 ^ e) c := by simp only [Fmt.choose, hup]
  rw [h.round_eq hm, h.round_eq hm, hchoose, Fmt.settle, Fmt.settle, hbeyond]
  simp [Fmt.sign]

end Sys2Proof.Machine
end

section
/-! The formats FP32, BF16, E5M2, E4M3 and E2M1 read as sign, significand and spacing (R99, R100). -/
namespace Sys2Proof.Machine

/-! ### Fields of a code -/

theorem Fmt.parts_subnormal {F : Fmt} {c : Nat} (h : c / 2 ^ F.f = 0) :
    F.sig c = c % 2 ^ F.f ∧ F.exp c = F.emin - F.f := by
  have hstep : F.step c = 0 := by unfold Fmt.step; omega
  have hlt : c < 2 ^ F.f := (Nat.div_eq_zero_iff.1 h).resolve_left (by positivity)
  exact ⟨by rw [Fmt.sig, hstep, zero_mul, Nat.sub_zero, Nat.mod_eq_of_lt hlt], by rw [Fmt.exp, hstep]; simp⟩
theorem Fmt.parts_normal {F : Fmt} {c : Nat} (h : c / 2 ^ F.f ≠ 0) :
    F.sig c = c % 2 ^ F.f + 2 ^ F.f ∧ F.exp c = F.emin - F.f + (c / 2 ^ F.f : Nat) - 1 := by
  obtain ⟨n, hn⟩ := Nat.exists_eq_add_one_of_ne_zero h
  have hdiv := Nat.div_add_mod c (2 ^ F.f)
  rw [hn, mul_add, mul_one, mul_comm] at hdiv
  constructor
  · unfold Fmt.sig Fmt.step
    rw [hn, Nat.add_sub_cancel]
    omega
  · unfold Fmt.exp Fmt.step
    rw [hn]
    push_cast
    omega

/-- A narrow code is its sign with the significand and the spacing of its magnitude. -/
theorem FV.narrow_eq (F : Fmt) (sb n : Nat) :
    FV.narrow F.f (1 - F.emin) sb n = .fin (n / 2 ^ sb % 2 == 1) (F.sig (n % 2 ^ sb)) (F.exp (n % 2 ^ sb)) := by
  unfold FV.narrow
  dsimp only
  split_ifs with h
  · obtain ⟨hs, he⟩ := Fmt.parts_subnormal h
    rw [hs, he]
    congr 1
    ring
  · obtain ⟨hs, he⟩ := Fmt.parts_normal h
    rw [hs, he]
    congr 1
    ring

theorem testBit_top (w : Word) : w.getLsbD 31 = decide (w.toNat / 2 ^ 31 = 1) := by
  have h := w.isLt
  rw [← BitVec.testBit_toNat, Nat.testBit_eq_decide_div_mod_eq]
  exact decide_eq_decide.2 (by omega)

/-- The kinds of FP32 codes, by their magnitude. -/
theorem FV.of32_fin {w : Word} (h : w.toNat % 2 ^ 31 ≤ fp32.max) :
    FV.of32 w = .fin (w.getLsbD 31) (fp32.sig (w.toNat % 2 ^ 31)) (fp32.exp (w.toNat % 2 ^ 31)) := by
  have hex : w.toNat / 2 ^ 23 % 256 = w.toNat % 2 ^ 31 / 2 ^ fp32.f := by simp only [fp32]; omega
  have hfr : w.toNat % 2 ^ 23 = w.toNat % 2 ^ 31 % 2 ^ fp32.f := by simp only [fp32]; omega
  have hlt : w.toNat % 2 ^ 31 / 2 ^ fp32.f ≠ 255 := by simp only [fp32] at h ⊢; omega
  unfold FV.of32
  simp only [hex, hfr, if_neg hlt]
  split_ifs with h0
  · obtain ⟨hs, he⟩ := Fmt.parts_subnormal h0
    rw [hs, he]
    rfl
  · obtain ⟨hs, he⟩ := Fmt.parts_normal h0
    rw [hs, he]
    simp only [fp32]
    congr 1
    omega
theorem FV.of32_inf {w : Word} (h : w.toNat % 2 ^ 31 = 0x7F800000) : FV.of32 w = .inf (w.getLsbD 31) := by
  unfold FV.of32
  have hex : w.toNat / 2 ^ 23 % 256 = 255 := by omega
  have hfr : w.toNat % 2 ^ 23 = 0 := by omega
  simp only [hex, hfr, if_true]
theorem FV.of32_nan {w : Word} (h : 0x7F800000 < w.toNat % 2 ^ 31) : FV.of32 w = .nan w (!w.getLsbD 22) := by
  unfold FV.of32
  have hex : w.toNat / 2 ^ 23 % 256 = 255 := by omega
  have hfr : w.toNat % 2 ^ 23 ≠ 0 := by omega
  simp only [hex, if_neg hfr, if_true]

/-- A number of FP32: neither a NaN nor an infinity. -/
theorem FV.of32_finite_iff (w : Word) :
    ((FV.of32 w).isNaN = false ∧ (FV.of32 w).isInf = false) ↔ w.toNat % 2 ^ 31 ≤ fp32.max := by
  rcases lt_trichotomy (w.toNat % 2 ^ 31) 0x7F800000 with h | h | h
  · have hle : w.toNat % 2 ^ 31 ≤ fp32.max := Nat.le_of_lt_succ h
    exact iff_of_true (by rw [FV.of32_fin hle]; exact ⟨rfl, rfl⟩) hle
  · exact iff_of_false (by rw [FV.of32_inf h]; simp [FV.isInf]) (by simp only [fp32]; omega)
  · exact iff_of_false (by rw [FV.of32_nan h]; simp [FV.isNaN]) (by simp only [fp32]; omega)

/-! ### Exact values -/

/-- The sign of a number as a factor. -/
theorem FV.real_fin (n : Bool) (m : Nat) (e : Int) : (FV.fin n m e).real = (if n then -1 else 1) * ((m : ℚ) * 2 ^ e) := by
  simp [FV.real]
theorem FV.abs_real_fin (n : Bool) (m : Nat) (e : Int) : |(FV.fin n m e).real| = (m : ℚ) * 2 ^ e := by
  rw [FV.real_fin, abs_mul, abs_of_nonneg (by positivity : (0 : ℚ) ≤ m * 2 ^ e)]
  cases n <;> simp

/-- A code of `F`, its sign before its magnitude, is read as a number of its value. -/
def Fmt.Reads (F : Fmt) (of : Nat → FV) : Prop := ∀ (s : Bool) (c : Nat), c ≤ F.max →
  ∃ (m : Nat) (e : Int), of (F.sign s + c) = .fin s m e ∧ (m : ℚ) * 2 ^ e = F.value c

theorem fp32_word {s : Bool} {c : Nat} (h : c < 2 ^ 31) :
    (BitVec.ofNat 32 (fp32.sign s + c)).getLsbD 31 = s ∧ (BitVec.ofNat 32 (fp32.sign s + c)).toNat % 2 ^ 31 = c := by
  rw [testBit_top, BitVec.toNat_ofNat]
  cases s <;> simp only [Fmt.sign, fp32, if_true, if_false, Bool.false_eq_true, decide_eq_true_eq, decide_eq_false_iff_not] <;>
    omega

theorem fp32_reads : fp32.Reads fun c => FV.of32 (BitVec.ofNat 32 c) := by
  intro s c hc
  obtain ⟨hs, hmag⟩ := fp32_word (s := s) (c := c) (hc.trans_lt (by decide))
  exact ⟨_, _, (FV.of32_fin (by rw [hmag]; exact hc)).trans (by rw [hs, hmag]), rfl⟩

/-- BF16 has the spacings of FP32 with sixteen bits fewer. -/
theorem fp32_value_shift (c : Nat) : fp32.value (c * 2 ^ 16) = bf16.value c := by
  have hdiv : c * 2 ^ 16 / 2 ^ fp32.f = c / 2 ^ bf16.f := by simp only [fp32, bf16]; omega
  have hstep : fp32.step (c * 2 ^ 16) = bf16.step c := by unfold Fmt.step; rw [hdiv]
  have hsig : fp32.sig (c * 2 ^ 16) = bf16.sig c * 2 ^ 16 := by
    unfold Fmt.sig
    rw [hstep, Nat.sub_mul]
    show c * 2 ^ 16 - bf16.step c * 2 ^ 23 = c * 2 ^ 16 - bf16.step c * 2 ^ 7 * 2 ^ 16
    omega
  have hexp : bf16.exp c = fp32.exp (c * 2 ^ 16) + 16 := by
    unfold Fmt.exp
    rw [hstep]
    simp only [fp32, bf16]
    ring
  rw [Fmt.value, Fmt.value, hsig, hexp, zpow_add₀ two_ne_zero]
  push_cast
  ring
theorem bf16_reads : bf16.Reads FV.ofBF16 := by
  intro s c hc
  have hcode : (bf16.sign s + c) % 65536 * 65536 = fp32.sign s + c * 2 ^ 16 := by
    cases s <;> simp only [Fmt.sign, bf16, fp32, if_true, if_false, Bool.false_eq_true] at hc ⊢ <;> omega
  obtain ⟨m, e, hof, hv⟩ := fp32_reads s (c * 2 ^ 16) (by simp only [bf16, fp32] at hc ⊢; omega)
  exact ⟨m, e, by rw [FV.ofBF16, hcode]; exact hof, hv.trans (fp32_value_shift c)⟩

theorem Fmt.sign_add_mod (F : Fmt) (s : Bool) {c : Nat} (h : c < 2 ^ (F.width - 1)) :
    (F.sign s + c) % 2 ^ (F.width - 1) = c := by
  cases s <;> simp [Fmt.sign, Nat.mod_eq_of_lt h]
theorem Fmt.sign_add_div (F : Fmt) (s : Bool) {c : Nat} (h : c < 2 ^ (F.width - 1)) :
    ((F.sign s + c) / 2 ^ (F.width - 1) % 2 == 1) = s := by
  cases s <;> simp [Fmt.sign, Nat.add_div_left, Nat.div_eq_of_lt h]

/-- A narrow code, its sign before its magnitude, is a number of its value. -/
theorem FV.narrow_sign (F : Fmt) (s : Bool) {c : Nat} (h : c < 2 ^ (F.width - 1)) :
    FV.narrow F.f (1 - F.emin) (F.width - 1) (F.sign s + c) = .fin s (F.sig c) (F.exp c) := by
  rw [FV.narrow_eq, F.sign_add_div s h, F.sign_add_mod s h]

theorem e5m2_reads : e5m2.Reads FV.ofE5M2 := by
  intro s c hc
  have hle : c ≤ 0x7B := hc
  have hmag : (e5m2.sign s + c) % 128 = c := e5m2.sign_add_mod s (Nat.lt_of_le_of_lt hle (by decide))
  have hsmall : (e5m2.sign s + c) % 256 = e5m2.sign s + c := by
    cases s <;> simp only [Fmt.sign, e5m2, if_true, if_false, Bool.false_eq_true] <;> omega
  refine ⟨_, _, ?_, rfl⟩
  rw [FV.ofE5M2, hmag, if_neg (by omega), if_neg (by omega), hsmall]
  exact FV.narrow_sign e5m2 s (Nat.lt_of_le_of_lt hle (by decide))
theorem e4m3_reads : e4m3.Reads FV.ofE4M3 := by
  intro s c hc
  have hle : c ≤ 0x7E := hc
  have hmag : (e4m3.sign s + c) % 128 = c := e4m3.sign_add_mod s (Nat.lt_of_le_of_lt hle (by decide))
  have hsmall : (e4m3.sign s + c) % 256 = e4m3.sign s + c := by
    cases s <;> simp only [Fmt.sign, e4m3, if_true, if_false, Bool.false_eq_true] <;> omega
  refine ⟨_, _, ?_, rfl⟩
  rw [FV.ofE4M3, hmag, if_neg (by omega), hsmall]
  exact FV.narrow_sign e4m3 s (Nat.lt_of_le_of_lt hle (by decide))
theorem e2m1_reads : e2m1.Reads FV.ofE2M1 := by
  intro s c hc
  have hle : c ≤ 0x7 := hc
  have hsmall : (e2m1.sign s + c) % 16 = e2m1.sign s + c := by
    cases s <;> simp only [Fmt.sign, e2m1, if_true, if_false, Bool.false_eq_true] <;> omega
  refine ⟨_, _, ?_, rfl⟩
  rw [FV.ofE2M1, hsmall]
  exact FV.narrow_sign e2m1 s (Nat.lt_of_le_of_lt hle (by decide))

theorem Fmt.Reads.real {F : Fmt} {of : Nat → FV} (h : F.Reads of) {c : Nat} (hc : c ≤ F.max) : (of c).real = F.value c := by
  obtain ⟨m, e, hof, hv⟩ := h false c hc
  rw [show c = F.sign false + c by simp [Fmt.sign], hof, FV.real_fin]
  simpa [Fmt.sign] using hv

end Sys2Proof.Machine
end

section
/-! The roundings of a format in every mode (O18). -/
namespace Sys2Proof.Machine

/-! ### Each mode (R106 to R109) -/

theorem Fmt.exists_beside_dyadic (F : Fmt) (m : Nat) (e : Int) : ∃ c, F.Beside (m * 2 ^ e) c :=
  F.exists_beside (by positivity)

section
variable {F : Fmt} {m : Nat} {e : Int} (hm : 0 < m)
include hm

theorem Fmt.round_rne_within (hF : F.Regular)
    (h : (m : ℚ) * 2 ^ e < (F.value F.max + F.value (F.max + 1)) / 2 ∨
      ((m : ℚ) * 2 ^ e = (F.value F.max + F.value (F.max + 1)) / 2 ∧ F.max % 2 = 0)) :
    ∃ c, c ≤ F.max ∧ (∀ d, |(m : ℚ) * 2 ^ e - F.value c| ≤ |(m : ℚ) * 2 ^ e - F.value d| ∧
      (|(m : ℚ) * 2 ^ e - F.value c| = |(m : ℚ) * 2 ^ e - F.value d| → d = c ∨ c % 2 = 0)) ∧
      F.round .rne false m e = (c, F.flags (m * 2 ^ e) c) := by
  obtain ⟨c, hc⟩ := F.exists_beside_dyadic m e
  have hle := (hc.rne_le_max_iff hF false).2 h
  exact ⟨_, hle, hc.nearest hF false, hc.round_within hm hle⟩
theorem Fmt.round_rne_beyond (hF : F.Regular)
    (h : ¬ ((m : ℚ) * 2 ^ e < (F.value F.max + F.value (F.max + 1)) / 2 ∨
      ((m : ℚ) * 2 ^ e = (F.value F.max + F.value (F.max + 1)) / 2 ∧ F.max % 2 = 0))) :
    F.round .rne false m e = F.beyond .rne false := by
  obtain ⟨c, hc⟩ := F.exists_beside_dyadic m e
  exact hc.round_beyond hm (not_le.1 ((hc.rne_le_max_iff hF false).not.2 h))

/-- Towards zero, and downwards of a positive value. -/
theorem Fmt.round_down_within {r : Rnd} (hr : r = .rz ∨ r = .rd) (h : (m : ℚ) * 2 ^ e < F.value (F.max + 1)) :
    ∃ c, c ≤ F.max ∧ (F.value c ≤ m * 2 ^ e ∧ ∀ d, F.value d ≤ m * 2 ^ e → F.value d ≤ F.value c) ∧
      F.round r false m e = (c, F.flags (m * 2 ^ e) c) := by
  obtain ⟨c, hc⟩ := F.exists_beside_dyadic m e
  have hchoose : F.choose r false (m * 2 ^ e) c = c := Fmt.choose_of_up_false (by rcases hr with rfl | rfl <;> simp [Rnd.up])
  have hle := hc.le_max_iff.2 h
  have hround := hc.round_within hm (r := r) (by rwa [hchoose])
  rw [hchoose] at hround
  exact ⟨c, hle, ⟨hc.1, fun d hd => F.value_strictMono.monotone (hc.le_of_value_le hd)⟩, hround⟩
theorem Fmt.round_down_beyond {r : Rnd} (hr : r = .rz ∨ r = .rd) (h : ¬ (m : ℚ) * 2 ^ e < F.value (F.max + 1)) :
    F.round r false m e = F.beyond r false := by
  obtain ⟨c, hc⟩ := F.exists_beside_dyadic m e
  have hchoose : F.choose r false (m * 2 ^ e) c = c := Fmt.choose_of_up_false (by rcases hr with rfl | rfl <;> simp [Rnd.up])
  exact hc.round_beyond hm (by rw [hchoose]; exact not_le.1 (hc.le_max_iff.not.2 h))

theorem Fmt.round_ru_within (h : (m : ℚ) * 2 ^ e ≤ F.value F.max) :
    ∃ c, c ≤ F.max ∧ ((m : ℚ) * 2 ^ e ≤ F.value c ∧ ∀ d, (m : ℚ) * 2 ^ e ≤ F.value d → F.value c ≤ F.value d) ∧
      F.round .ru false m e = (c, F.flags (m * 2 ^ e) c) := by
  obtain ⟨c, hc⟩ := F.exists_beside_dyadic m e
  have hchoose := Fmt.choose_of_up_true (F := F) (v := m * 2 ^ e) (c := c) (r := .ru) (neg := false) (fun _ _ _ => rfl)
  have hle := hc.up_le_max_iff.2 h
  rw [← hchoose] at hle
  refine ⟨_, hle, ?_, hc.round_within hm hle⟩
  rw [hchoose]
  split_ifs with hv
  · exact ⟨hv.le, fun d hd => hv ▸ hd⟩
  · refine ⟨hc.2.le, fun d hd => F.value_strictMono.monotone (hc.lt_iff.2 (hd.lt_of_ne fun he => hv ?_))⟩
    rw [he] at hc ⊢
    rw [hc.eq_of_value]
theorem Fmt.round_ru_beyond (h : ¬ (m : ℚ) * 2 ^ e ≤ F.value F.max) : F.round .ru false m e = F.beyond .ru false := by
  obtain ⟨c, hc⟩ := F.exists_beside_dyadic m e
  have hchoose := Fmt.choose_of_up_true (F := F) (v := m * 2 ^ e) (c := c) (r := .ru) (neg := false) (fun _ _ _ => rfl)
  exact hc.round_beyond hm (by rw [hchoose]; exact not_le.1 (hc.up_le_max_iff.not.2 h))

/-- Stochastic rounding takes the upper neighbour exactly when the dither carries (R108, R109). -/
theorem Fmt.round_sr {seed : BitVec 64} {src q : Int} {K : Nat}
    (hq : ((m : ℚ) * 2 ^ e < (2 : ℚ) ^ F.emin ∧ q = F.emin - F.f) ∨
      (F.emin ≤ q + F.f ∧ (2 : ℚ) ^ (q + F.f) ≤ m * 2 ^ e ∧ (m : ℚ) * 2 ^ e < (2 : ℚ) ^ (q + F.f + 1)))
    (hle : (K : ℚ) * 2 ^ q ≤ m * 2 ^ e) (hlt : (m : ℚ) * 2 ^ e < (K + 1 : ℚ) * 2 ^ q) {x : ℚ}
    (hup : (m : ℚ) * 2 ^ e ≠ K * 2 ^ q ∧ (Rnd.sr seed src).up false K (m * 2 ^ e / 2 ^ q - K) q → x = (K + 1 : ℚ) * 2 ^ q)
    (hdown : ¬ ((m : ℚ) * 2 ^ e ≠ K * 2 ^ q ∧ (Rnd.sr seed src).up false K (m * 2 ^ e / 2 ^ q - K) q) →
      x = (K : ℚ) * 2 ^ q) :
    (x ≤ F.value F.max → ∃ c, c ≤ F.max ∧ F.value c = x ∧ F.round (.sr seed src) false m e = (c, F.flags (m * 2 ^ e) c)) ∧
    (¬ x ≤ F.value F.max → F.round (.sr seed src) false m e = F.beyond (.sr seed src) false) := by
  obtain ⟨c, hc, rfl, rfl⟩ := Fmt.exists_parts hq hle hlt
  have hx : F.value (F.choose (.sr seed src) false (m * 2 ^ e) c) = x := by
    unfold Fmt.choose
    split_ifs with h
    · rw [F.value_succ, hup h]
    · rw [hdown h, Fmt.value]
  rw [← hx, F.value_strictMono.le_iff_le]
  exact ⟨fun h => ⟨_, h, rfl, hc.round_within hm h⟩, fun h => hc.round_beyond hm (not_le.1 h)⟩

end

/-! ### What the modes give beyond the range, and of a negative value -/

theorem Fmt.beyond_up (F : Fmt) {r : Rnd} (h : r = .rne ∨ r = .ru ∨ ∃ seed src, r = .sr seed src) :
    F.beyond r false = (F.inf.getD F.max, if F.inf = none then fSAT ||| fINX else fOVF ||| fINX) := by
  unfold Fmt.beyond
  rcases F.inf with _ | i
  · rfl
  · rcases h with rfl | rfl | ⟨seed, src, rfl⟩ <;> rfl
theorem Fmt.beyond_down (F : Fmt) {r : Rnd} (h : r = .rz ∨ r = .rd) :
    F.beyond r false = (F.max, if F.inf = none then fSAT ||| fINX else fOVF ||| fINX) := by
  unfold Fmt.beyond
  rcases F.inf with _ | i
  · rfl
  · rcases h with rfl | rfl <;> rfl

section
variable (F : Fmt) {m : Nat} (hm : 0 < m) (e : Int)
include hm

theorem Fmt.round_rne_neg :
    F.round .rne true m e = (2 ^ (F.width - 1) + (F.round .rne false m e).1, (F.round .rne false m e).2) :=
  F.round_neg (fun _ _ _ => rfl) (by unfold Fmt.beyond; rcases F.inf <;> rfl) hm e
theorem Fmt.round_rz_neg :
    F.round .rz true m e = (2 ^ (F.width - 1) + (F.round .rz false m e).1, (F.round .rz false m e).2) :=
  F.round_neg (fun _ _ _ => rfl) (by unfold Fmt.beyond; rcases F.inf <;> rfl) hm e
theorem Fmt.round_ru_neg :
    F.round .ru true m e = (2 ^ (F.width - 1) + (F.round .rd false m e).1, (F.round .rd false m e).2) :=
  F.round_neg (fun _ _ _ => rfl) (by unfold Fmt.beyond; rcases F.inf <;> rfl) hm e
theorem Fmt.round_rd_neg :
    F.round .rd true m e = (2 ^ (F.width - 1) + (F.round .ru false m e).1, (F.round .ru false m e).2) :=
  F.round_neg (fun _ _ _ => rfl) (by unfold Fmt.beyond; rcases F.inf <;> rfl) hm e
theorem Fmt.round_sr_neg (seed : BitVec 64) (src : Int) :
    F.round (.sr seed src) true m e =
      (2 ^ (F.width - 1) + (F.round (.sr seed src) false m e).1, (F.round (.sr seed src) false m e).2) :=
  F.round_neg (fun _ _ _ => rfl) (by unfold Fmt.beyond; rcases F.inf <;> rfl) hm e

end

theorem Fmt.round_zero (F : Fmt) (r : Rnd) (neg : Bool) (e : Int) : F.round r neg 0 e = (F.sign neg, 0) := by
  simp [Fmt.round, Fmt.sign]

/-! ### The dither function (R109) -/

theorem toNat_xor_shift (w : Word) (n : Nat) : (w ^^^ (w >>> n)).toNat = w.toNat ^^^ w.toNat / 2 ^ n := by
  rw [BitVec.toNat_xor, BitVec.toNat_ushiftRight, Nat.shiftRight_eq_div_pow]

/-- The dither, one step of the mixing after another. -/
theorem mix_eq (seed : BitVec 64) (dd : Nat) :
    ∃ a b c : Word, a = (BitVec.ofNat 32 dd ^^^ seed.truncate 32) * 0x4C957F2D ∧
      b = (a ^^^ (a >>> 15)) + (seed >>> 32).truncate 32 ∧ c = b * 0x3A8F05C5 ∧ mix seed dd = c ^^^ (c >>> 13) :=
  ⟨_, _, _, rfl, rfl, rfl, rfl⟩

theorem mix_toNat (seed : BitVec 64) {dd : Nat} (hdd : dd < 2 ^ 32) :
    let a := (dd ^^^ seed.toNat % 2 ^ 32) * 0x4C957F2D % 2 ^ 32
    let b := ((a ^^^ a / 2 ^ 15) + seed.toNat / 2 ^ 32) % 2 ^ 32
    let c := b * 0x3A8F05C5 % 2 ^ 32
    (mix seed dd).toNat = c ^^^ c / 2 ^ 13 := by
  obtain ⟨x, y, z, hx, hy, hz, hmix⟩ := mix_eq seed dd
  intro a b c
  have hseed : seed.toNat / 2 ^ 32 % 2 ^ 32 = seed.toNat / 2 ^ 32 := Nat.mod_eq_of_lt (by have := seed.isLt; omega)
  have ha : x.toNat = a := by
    rw [hx, BitVec.toNat_mul, BitVec.toNat_xor, BitVec.toNat_ofNat, Nat.mod_eq_of_lt hdd, BitVec.truncate_eq_setWidth,
      BitVec.toNat_setWidth]
    rfl
  have hb : y.toNat = b := by
    rw [hy, BitVec.toNat_add, toNat_xor_shift, ha, BitVec.truncate_eq_setWidth, BitVec.toNat_setWidth,
      BitVec.toNat_ushiftRight, Nat.shiftRight_eq_div_pow, hseed]
  have hc : z.toNat = c := by
    rw [hz, BitVec.toNat_mul, hb]
    rfl
  rw [hmix, toNat_xor_shift, hc]

/-! ### The statement (O18) -/

/-- What the statement says of one format whose codes `of` reads: its rounding in every mode. -/
def Fmt.RoundsInEveryMode (F : Fmt) (of : Nat → FV) : Prop :=
    let val (c : Nat) : ℚ := (of c).real
    let big : ℚ := val F.max
    let ulp : ℚ := big - val (F.max - 1)
    (∀ r, F.round r false 0 0 = (0, 0)) ∧
    ∀ (m : Nat) (e : Int), 0 < m →
      let v : ℚ := (m : ℚ) * (2 : ℚ) ^ e
      let beyond : Flags := if F.inf = none then fSAT ||| fINX else fOVF ||| fINX
      let tooBig (r : Rnd) : Prop := F.round r false m e = (F.inf.getD F.max, beyond)
      let capped (r : Rnd) : Prop := F.round r false m e = (F.max, beyond)
      let within (r : Rnd) (P : Nat → Prop) : Prop := ∃ c, c ≤ F.max ∧ P c ∧
        F.round r false m e = (c, if val c = v then 0 else if v < (2 : ℚ) ^ F.emin then fUNF ||| fINX else fINX)
      (if v < big + ulp / 2 ∨ (v = big + ulp / 2 ∧ F.max % 2 = 0)
        then within .rne fun c => ∀ d, d ≤ F.max → |v - val c| ≤ |v - val d| ∧ (|v - val c| = |v - val d| → d = c ∨ c % 2 = 0)
        else tooBig .rne) ∧
      (∀ r, r = .rz ∨ r = .rd → if v < big + ulp
        then within r fun c => val c ≤ v ∧ ∀ d, d ≤ F.max → val d ≤ v → val d ≤ val c
        else capped r) ∧
      (if v ≤ big then within .ru fun c => v ≤ val c ∧ ∀ d, d ≤ F.max → v ≤ val d → val c ≤ val d else tooBig .ru) ∧
      (∀ (seed : BitVec 64) (src q : Int) (K : Nat),
        (v < (2 : ℚ) ^ F.emin ∧ q = F.emin - F.f) ∨ (F.emin ≤ q + F.f ∧ (2 : ℚ) ^ (q + F.f) ≤ v ∧ v < (2 : ℚ) ^ (q + F.f + 1)) →
        (K : ℚ) * 2 ^ q ≤ v → v < (K + 1 : ℚ) * 2 ^ q →
        let wd := min (q - src).toNat 32
        let dd := ⌊(v / 2 ^ q - K) * 2 ^ wd⌋.toNat
        let up := v ≠ (K : ℚ) * 2 ^ q ∧ 2 ^ wd ≤ dd + (mix seed dd).toNat / 2 ^ (32 - wd)
        ∀ x : ℚ, (up → x = (K + 1 : ℚ) * 2 ^ q) → (¬ up → x = (K : ℚ) * 2 ^ q) →
          if x ≤ big then within (.sr seed src) fun c => val c = x else tooBig (.sr seed src)) ∧
      F.round .rne true m e = (2 ^ (F.width - 1) + (F.round .rne false m e).1, (F.round .rne false m e).2) ∧
      F.round .rz true m e = (2 ^ (F.width - 1) + (F.round .rz false m e).1, (F.round .rz false m e).2) ∧
      F.round .ru true m e = (2 ^ (F.width - 1) + (F.round .rd false m e).1, (F.round .rd false m e).2) ∧
      F.round .rd true m e = (2 ^ (F.width - 1) + (F.round .ru false m e).1, (F.round .ru false m e).2) ∧
      ∀ seed src, F.round (.sr seed src) true m e =
        (2 ^ (F.width - 1) + (F.round (.sr seed src) false m e).1, (F.round (.sr seed src) false m e).2)

theorem Fmt.roundsInEveryMode {F : Fmt} (hF : F.Regular) {of : Nat → FV} (hof : F.Reads of) : F.RoundsInEveryMode of := by
  unfold Fmt.RoundsInEveryMode
  intro val big ulp
  have hval : ∀ {c}, c ≤ F.max → val c = F.value c := hof.real
  have hbig : big = F.value F.max := hval le_rfl
  have hulp : big + ulp = F.value (F.max + 1) := by
    rw [hF.value_max_succ, ← hval le_rfl, ← hval (Nat.sub_le _ _)]
  have hmid : big + ulp / 2 = (F.value F.max + F.value (F.max + 1)) / 2 := by linarith
  refine ⟨fun r => F.round_zero r false 0, fun m e hm => ?_⟩
  intro v beyond tooBig capped within
  have hwithin : ∀ {r} {P : Nat → Prop}, (∃ c, c ≤ F.max ∧ P c ∧ F.round r false m e = (c, F.flags v c)) → within r P := by
    rintro r P ⟨c, hc, hP, hr⟩
    exact ⟨c, hc, hP, by rw [hr, Fmt.flags, hval hc]⟩
  refine ⟨?_, fun r hr => ?_, ?_, fun seed src q K hq hle hlt => ?_, F.round_rne_neg hm e, F.round_rz_neg hm e,
    F.round_ru_neg hm e, F.round_rd_neg hm e, F.round_sr_neg hm e⟩
  · rw [hmid]
    split_ifs with h
    · obtain ⟨c, hc, hnear, hround⟩ := Fmt.round_rne_within hm hF h
      exact hwithin ⟨c, hc, fun d hd => by rw [hval hc, hval hd]; exact hnear d, hround⟩
    · exact (Fmt.round_rne_beyond hm hF h).trans (F.beyond_up (.inl rfl))
  · rw [hulp]
    split_ifs with h
    · obtain ⟨c, hc, ⟨hle, hmax⟩, hround⟩ := Fmt.round_down_within hm hr h
      exact hwithin ⟨c, hc, ⟨by rw [hval hc]; exact hle, fun d hd => by rw [hval hc, hval hd]; exact hmax d⟩, hround⟩
    · exact (Fmt.round_down_beyond hm hr h).trans (F.beyond_down hr)
  · rw [hbig]
    split_ifs with h
    · obtain ⟨c, hc, ⟨hle, hmin⟩, hround⟩ := Fmt.round_ru_within hm h
      exact hwithin ⟨c, hc, ⟨by rw [hval hc]; exact hle, fun d hd => by rw [hval hc, hval hd]; exact hmin d⟩, hround⟩
    · exact (Fmt.round_ru_beyond hm h).trans (F.beyond_up (.inr (.inl rfl)))
  · intro wd dd up x hup hdown
    have hiff : up ↔ v ≠ K * 2 ^ q ∧ (Rnd.sr seed src).up false K (v / 2 ^ q - K) q := by simp [up, dd, wd, Rnd.up]
    obtain ⟨hin, hout⟩ := Fmt.round_sr hm hq hle hlt (fun h => hup (hiff.2 h)) (fun h => hdown (hiff.not.2 h))
    rw [hbig]
    split_ifs with h
    · obtain ⟨c, hc, hx, hround⟩ := hin h
      exact hwithin ⟨c, hc, (hval hc).trans hx, hround⟩
    · exact (hout h).trans (F.beyond_up (.inr (.inr ⟨seed, src, rfl⟩)))

/-- A finite magnitude rounded to FP32 within the range has no nearer number beside it, of m = 0 too. -/
theorem fp32_round_nearest {m : Nat} {e : Int} (hle : (fp32.round .rne false m e).1 ≤ fp32.max) (c : Nat) :
    |(m : ℚ) * 2 ^ e - fp32.value (fp32.round .rne false m e).1| ≤ |(m : ℚ) * 2 ^ e - fp32.value c| := by
  rcases Nat.eq_zero_or_pos m with rfl | hm
  · simp [Fmt.round_zero, Fmt.sign, fp32.value_zero]
  · obtain ⟨k, hk⟩ := fp32.exists_beside_dyadic m e
    by_cases hc : fp32.choose .rne false (m * 2 ^ e) k ≤ fp32.max
    · rw [hk.round_within hm hc]
      exact (hk.nearest fp32_regular false c).1
    · rw [hk.round_beyond hm (not_le.1 hc)] at hle
      exact absurd hle (by decide)
/-- Rounded towards zero, it is the greatest number not above it. -/
theorem fp32_round_towards_zero (m : Nat) (e : Int) :
    (fp32.round .rz false m e).1 ≤ fp32.max ∧ fp32.value (fp32.round .rz false m e).1 ≤ m * 2 ^ e ∧
      ∀ c, c ≤ fp32.max → fp32.value c ≤ m * 2 ^ e → fp32.value c ≤ fp32.value (fp32.round .rz false m e).1 := by
  rcases Nat.eq_zero_or_pos m with rfl | hm
  · have h0 : (fp32.round .rz false 0 e).1 = 0 := by rw [Fmt.round_zero]; rfl
    rw [h0, fp32.value_zero]
    exact ⟨Nat.zero_le _, by simp, fun c _ h => by simpa using h⟩
  · by_cases h : (m : ℚ) * 2 ^ e < fp32.value (fp32.max + 1)
    · obtain ⟨c, hc, ⟨hle, hmax⟩, hround⟩ := Fmt.round_down_within hm (.inl rfl) h
      rw [hround]
      exact ⟨hc, hle, fun d _ => hmax d⟩
    · rw [Fmt.round_down_beyond hm (.inl rfl) h, fp32.beyond_down (.inl rfl)]
      exact ⟨le_rfl, (fp32.value_strictMono (Nat.lt_succ_self _)).le.trans (not_lt.1 h),
        fun c hc _ => fp32.value_strictMono.monotone hc⟩

/-- Settles O18: the rounding takes one of the two codes beside a magnitude. -/
theorem nearestIsNearest : Obligations.NearestIsNearest := by
  refine ⟨fun m e => ?_, ⟨Fmt.roundsInEveryMode fp32_regular fp32_reads, Fmt.roundsInEveryMode bf16_regular bf16_reads,
    Fmt.roundsInEveryMode e5m2_regular e5m2_reads, Fmt.roundsInEveryMode e4m3_regular e4m3_reads,
    Fmt.roundsInEveryMode e2m1_regular e2m1_reads⟩, fun seed _ hdd => mix_toNat seed hdd, by decide +kernel⟩
  intro v value
  have hvalue : ∀ {c}, c ≤ fp32.max → value c = fp32.value c := by
    intro c hc
    obtain ⟨m, e, hof, hv⟩ := fp32_reads false c hc
    have hof' : FV.of32 (BitVec.ofNat 32 c) = .fin false m e := by rw [← hof, show fp32.sign false + c = c from Nat.zero_add c]
    simp only [value]
    rw [hof']
    exact hv
  obtain ⟨hle, hlow, hgreatest⟩ := fp32_round_towards_zero m e
  refine ⟨fun h c hc => ?_, hle, ?_, fun c hc hcv => ?_⟩
  · rw [hvalue h, hvalue hc]
    exact fp32_round_nearest h c
  · rwa [hvalue hle]
  · rw [hvalue hc] at hcv ⊢
    rw [hvalue hle]
    exact hgreatest c hc hcv

end Sys2Proof.Machine
end

section
/-! FP32 to INT32 (R107, R108, R114, O25). -/
namespace Sys2Proof.Machine

/-! ### A magnitude rounded to an integer -/

/-- The integer that a magnitude is rounded to (R114). -/
def Rnd.int (r : Rnd) (neg : Bool) (a : ℚ) : Nat :=
  if a ≠ ⌊a⌋₊ ∧ r.up neg ⌊a⌋₊ (a - ⌊a⌋₊) 0 then ⌊a⌋₊ + 1 else ⌊a⌋₊

section
variable {r : Rnd} {neg : Bool} {a : ℚ}

theorem Rnd.int_eq_iff : (r.int neg a : ℚ) = a ↔ a = ⌊a⌋₊ := by
  unfold Rnd.int
  split_ifs with h
  · refine iff_of_false (fun he => ?_) h.1
    have := Nat.lt_floor_add_one a
    push_cast at he
    linarith
  · exact eq_comm

theorem Rnd.int_near (ha : 0 ≤ a) : |a - r.int neg a| < 1 := by
  have hlo := Nat.floor_le ha
  have hhi := Nat.lt_floor_add_one a
  unfold Rnd.int
  split_ifs with h
  · have hne : (⌊a⌋₊ : ℚ) < a := hlo.lt_of_ne' h.1
    rw [abs_lt]
    push_cast
    constructor <;> linarith
  · rw [abs_lt]
    constructor <;> linarith

theorem Rnd.int_down (h : ∀ k x q, r.up neg k x q = false) : r.int neg a = ⌊a⌋₊ := by simp [Rnd.int, h]
theorem Rnd.int_up (ha : 0 ≤ a) (h : ∀ k x q, r.up neg k x q = true) : r.int neg a = ⌈a⌉₊ := by
  have hint : r.int neg a = if a = ⌊a⌋₊ then ⌊a⌋₊ else ⌊a⌋₊ + 1 := by simp [Rnd.int, h, ite_not]
  rw [hint]
  split_ifs with he
  · rw [he, Nat.floor_natCast, Nat.ceil_natCast]
  · refine ((Nat.ceil_eq_iff (Nat.succ_ne_zero _)).2 ⟨?_, ?_⟩).symm
    · exact (Nat.floor_le ha).lt_of_ne' he
    · exact_mod_cast (Nat.lt_floor_add_one a).le

/-- To nearest, and on a tie to the even integer. -/
theorem Rnd.int_rne (ha : 0 ≤ a) :
    |a - Rnd.rne.int neg a| ≤ 1 / 2 ∧ (|a - Rnd.rne.int neg a| = 1 / 2 → Rnd.rne.int neg a % 2 = 0) := by
  have hlo := Nat.floor_le ha
  have hhi := Nat.lt_floor_add_one a
  have hup : (a ≠ ⌊a⌋₊ ∧ Rnd.rne.up neg ⌊a⌋₊ (a - ⌊a⌋₊) 0 = true) ↔
      1 / 2 < a - ⌊a⌋₊ ∨ (a - ⌊a⌋₊ = 1 / 2 ∧ ⌊a⌋₊ % 2 = 1) := by
    simp only [Rnd.up, Bool.or_eq_true, Bool.and_eq_true, decide_eq_true_eq, beq_iff_eq]
    refine and_iff_right_of_imp ?_
    rintro (h | ⟨h, -⟩) <;> intro he <;> linarith
  unfold Rnd.int
  rw [if_congr hup rfl rfl]
  split_ifs with h
  · push_cast
    rw [abs_sub_comm, abs_of_nonneg (by linarith)]
    refine ⟨by rcases h with h | ⟨h, -⟩ <;> linarith, fun he => ?_⟩
    rcases h with h | ⟨-, h⟩
    · linarith
    · omega
  · rw [not_or, not_and, not_lt] at h
    rw [abs_of_nonneg (sub_nonneg.2 hlo)]
    exact ⟨h.1, fun he => Nat.mod_two_ne_one.1 (h.2 he)⟩

end

/-! ### What the conversion gives of a number -/

/-- A number held to the 32-bit range (R114). -/
def held (k : Int) : Int := max (-2 ^ 31) (min (2 ^ 31 - 1) k)

/-- An integer with its sign. -/
def signed (neg : Bool) (k : Int) : Int := if neg then -k else k

/-- The greatest magnitude of an INT32 of one sign. -/
def intLimit (neg : Bool) : Nat := if neg then 2 ^ 31 else 2 ^ 31 - 1

@[simp] theorem signed_false (k : Int) : signed false k = k := rfl
@[simp] theorem signed_true (k : Int) : signed true k = -k := rfl
@[simp] theorem intLimit_false : intLimit false = 2 ^ 31 - 1 := rfl
@[simp] theorem intLimit_true : intLimit true = 2 ^ 31 := rfl

theorem held_within {n : Bool} {k : Nat} (h : k ≤ intLimit n) : held (signed n k) = signed n k := by
  unfold held
  cases n <;> simp only [intLimit_false, intLimit_true, signed_false, signed_true] at h ⊢ <;> omega
theorem held_beyond {n : Bool} {k : Nat} (h : intLimit n < k) : held (signed n k) = signed n (intLimit n) := by
  unfold held
  cases n <;> simp only [intLimit_false, intLimit_true, signed_false, signed_true] at h ⊢ <;> omega

section
variable {w : Word} {n : Bool} {m : Nat} {e : Int}

theorem toInt32_of_fin (h : FV.of32 w = .fin n m e) (r : Rnd) :
    toInt32 r w =
      if intLimit n < r.int n (m * 2 ^ e) then (if n then 0x80000000 else 0x7FFFFFFF, fINV ||| fSAT)
      else (if n then -(BitVec.ofNat 32 (r.int n (m * 2 ^ e))) else BitVec.ofNat 32 (r.int n (m * 2 ^ e)),
        if (m : ℚ) * 2 ^ e = ⌊(m : ℚ) * 2 ^ e⌋₊ then 0 else fINX) := by
  unfold toInt32
  rw [h]
  dsimp only
  by_cases he : 0 ≤ e
  · have hv := dyadic_of_nonneg m he
    simp only [hv, Nat.floor_natCast, Rnd.int, he, if_true, ne_eq, not_true_eq_false, false_and, if_false, intLimit,
      Bool.false_eq_true]
  · have hs : e + (-e).toNat = 0 := by omega
    have hv := dyadic_div_shift m (-e).toNat e
    have hk := floor_dyadic_div_shift m (-e).toNat e
    rw [hs, zpow_zero, div_one] at hv hk
    have hx : (m : ℚ) * 2 ^ e - (m / 2 ^ (-e).toNat : Nat) = ((m % 2 ^ (-e).toNat : Nat) : ℚ) / 2 ^ (-e).toNat := by
      rw [hv, add_sub_cancel_left]
    have hexact : (m : ℚ) * 2 ^ e = (m / 2 ^ (-e).toNat : Nat) ↔ m % 2 ^ (-e).toNat = 0 := by
      rw [← sub_eq_zero, hx, rem_div_eq_zero_iff]
    simp only [he, if_false, Rnd.int, hk, roundsUp_eq_up _ _ _ _ (show 0 < (-e).toNat by omega), ← hx, hexact, ne_eq,
      Bool.and_eq_true, bne_iff_ne, ite_not, intLimit]

/-- A number of FP32 beyond the range of INT32 is an integer. -/
theorem int_of_beyond (h : FV.of32 w = .fin n m e) {r : Rnd} (hlim : intLimit n < r.int n (m * 2 ^ e)) :
    (m : ℚ) * 2 ^ e = r.int n (m * 2 ^ e) := by
  have ha : (0 : ℚ) ≤ m * 2 ^ e := by positivity
  by_cases he : 0 ≤ e
  · have hv := dyadic_of_nonneg m he
    exact (Rnd.int_eq_iff.2 (by rw [hv, Nat.floor_natCast])).symm
  · have hfin := (FV.of32_finite_iff w).1 (by rw [h]; exact ⟨rfl, rfl⟩)
    have hm : m < 2 ^ 24 := by
      rw [FV.of32_fin hfin] at h
      injection h with _ hm
      rw [← hm]
      exact fp32.sig_lt _
    have hsmall : (m : ℚ) * 2 ^ e < 2 ^ 24 := by
      have hm' : (m : ℚ) < 2 ^ 24 := by exact_mod_cast hm
      have hpow : (2 : ℚ) ^ e ≤ 1 := zpow_le_one_of_nonpos₀ one_le_two (by omega)
      nlinarith [(by positivity : (0 : ℚ) ≤ m)]
    have hnear := (abs_lt.1 (Rnd.int_near (r := r) (neg := n) ha)).1
    have hlim' : ((2 ^ 31 - 1 : Nat) : ℚ) < r.int n (m * 2 ^ e) := by
      have : 2 ^ 31 - 1 ≤ intLimit n := by cases n <;> simp
      exact_mod_cast this.trans_lt hlim
    have hnum : ((2 ^ 31 - 1 : Nat) : ℚ) = 2 ^ 31 - 1 := by norm_num
    linarith

theorem FV.real_eq_signed (n : Bool) (m : Nat) (e : Int) :
    (FV.fin n m e).real = if n then -((m : ℚ) * 2 ^ e) else m * 2 ^ e := by
  rw [FV.real_fin]
  cases n <;> simp

/-- The result is the rounded magnitude with its sign, held to the range. -/
theorem toInt32_toInt (h : FV.of32 w = .fin n m e) (r : Rnd) :
    (toInt32 r w).1.toInt = held (signed n (r.int n (m * 2 ^ e))) := by
  rw [toInt32_of_fin h]
  set k := r.int n (m * 2 ^ e)
  by_cases hlim : intLimit n < k
  · rw [if_pos hlim, held_beyond hlim]
    cases n <;> decide
  · rw [if_neg hlim, held_within (not_lt.1 hlim)]
    have hbv : (if n then -(BitVec.ofNat 32 k) else BitVec.ofNat 32 k) = BitVec.ofInt 32 (signed n k) := by
      cases n
      · exact (BitVec.ofInt_natCast ..).symm
      · rw [signed_true, BitVec.ofInt_neg, BitVec.ofInt_natCast]
        rfl
    rw [hbv, BitVec.toInt_ofInt]
    cases n <;> simp only [intLimit_false, intLimit_true, signed_false, signed_true] at hlim ⊢ <;>
      exact Int.bmod_eq_of_le (by omega) (by omega)

/-- INX alone of an inexact result within the range, INV and SAT beyond it. -/
theorem toInt32_flags (h : FV.of32 w = .fin n m e) (r : Rnd) :
    (toInt32 r w).2 =
      if ((toInt32 r w).1.toInt : ℚ) = (FV.of32 w).real then 0
      else if |(FV.of32 w).real - (toInt32 r w).1.toInt| < 1 then fINX else fINV ||| fSAT := by
  have ha : (0 : ℚ) ≤ m * 2 ^ e := by positivity
  have hiff := Rnd.int_eq_iff (r := r) (neg := n) (a := m * 2 ^ e)
  have hnear := Rnd.int_near (r := r) (neg := n) ha
  have hint := int_of_beyond h (r := r)
  rw [toInt32_toInt h, toInt32_of_fin h, h, FV.real_eq_signed]
  set k := r.int n (m * 2 ^ e)
  by_cases hlim : intLimit n < k
  · have hreal : (if n then -((m : ℚ) * 2 ^ e) else m * 2 ^ e) = (signed n k : Int) := by
      rw [hint hlim]
      cases n <;> simp
    have hfar : 1 ≤ |signed n k - signed n (intLimit n)| := by
      cases n <;> simp only [intLimit_false, intLimit_true, signed_false, signed_true] at hlim ⊢ <;>
        rw [le_abs] <;> omega
    have hne : ((signed n (intLimit n) : Int) : ℚ) ≠ (signed n k : Int) := by
      intro he
      rw [Int.cast_inj.1 he, sub_self, abs_zero] at hfar
      exact absurd hfar (by decide)
    have hfar' : ¬ |((signed n k : Int) : ℚ) - (signed n (intLimit n) : Int)| < 1 := not_lt.2 (by exact_mod_cast hfar)
    rw [if_pos hlim, held_beyond hlim, hreal, if_neg hne, if_neg hfar']
  · rw [if_neg hlim, held_within (not_lt.1 hlim)]
    cases n
    · simp only [signed_false, Bool.false_eq_true, if_false, Int.cast_natCast, hiff, if_pos hnear]
    · have hnear' : |-((m : ℚ) * 2 ^ e) - -(k : ℚ)| < 1 := by rwa [neg_sub_neg, abs_sub_comm]
      simp only [signed_true, if_true, Int.cast_neg, Int.cast_natCast, neg_inj, hiff, if_pos hnear']

end

/-! ### The modes -/

section
variable {w : Word} (hw : (FV.of32 w).isNaN = false ∧ (FV.of32 w).isInf = false)
include hw

/-- The model's result, of the value with its sign. -/
theorem toInt32_real : ∃ (n : Bool) (a : ℚ), 0 ≤ a ∧ (FV.of32 w).real = (if n then -a else a) ∧
    ∀ r : Rnd, (toInt32 r w).1.toInt = held (signed n (r.int n a)) := by
  have h := FV.of32_fin ((FV.of32_finite_iff w).1 hw)
  exact ⟨_, _, by positivity, by rw [h]; exact FV.real_eq_signed _ _ _, toInt32_toInt h⟩

theorem toInt32_rd : (toInt32 .rd w).1.toInt = held ⌊(FV.of32 w).real⌋ := by
  obtain ⟨n, a, ha, hv, h⟩ := toInt32_real hw
  rw [h, hv]
  cases n
  · rw [Rnd.int_down fun _ _ _ => rfl, signed, Int.natCast_floor_eq_floor ha]
    rfl
  · rw [Rnd.int_up ha fun _ _ _ => rfl, signed, Int.natCast_ceil_eq_ceil ha]
    simp only [if_true, Int.floor_neg]
theorem toInt32_ru : (toInt32 .ru w).1.toInt = held ⌈(FV.of32 w).real⌉ := by
  obtain ⟨n, a, ha, hv, h⟩ := toInt32_real hw
  rw [h, hv]
  cases n
  · rw [Rnd.int_up ha fun _ _ _ => rfl, signed, Int.natCast_ceil_eq_ceil ha]
    rfl
  · rw [Rnd.int_down fun _ _ _ => rfl, signed, Int.natCast_floor_eq_floor ha]
    simp only [if_true, Int.ceil_neg]
theorem toInt32_rz : (toInt32 .rz w).1.toInt =
    held (if (FV.of32 w).real < 0 then ⌈(FV.of32 w).real⌉ else ⌊(FV.of32 w).real⌋) := by
  obtain ⟨n, a, ha, hv, h⟩ := toInt32_real hw
  rw [h, hv, Rnd.int_down fun _ _ _ => rfl, signed, Int.natCast_floor_eq_floor ha]
  cases n
  · simp only [Bool.false_eq_true, if_false, if_neg ha.not_gt]
  · simp only [if_true, Int.ceil_neg]
    split_ifs with hneg
    · rfl
    · rw [show a = 0 by linarith]
      simp
theorem toInt32_rne : ∃ k : Int, (toInt32 .rne w).1.toInt = held k ∧ |(FV.of32 w).real - k| ≤ 1 / 2 ∧
    (|(FV.of32 w).real - k| = 1 / 2 → k % 2 = 0) := by
  obtain ⟨n, a, ha, hv, h⟩ := toInt32_real hw
  obtain ⟨hle, htie⟩ := Rnd.int_rne (neg := n) ha
  have habs : |(FV.of32 w).real - signed n (Rnd.rne.int n a)| = |a - Rnd.rne.int n a| := by
    rw [hv]
    cases n
    · simp [signed]
    · simp only [signed, if_true, Int.cast_neg, Int.cast_natCast]
      rw [neg_sub_neg, abs_sub_comm]
  refine ⟨_, h _, habs.trans_le hle, fun he => ?_⟩
  have := htie (habs ▸ he)
  cases n <;> simp only [signed, if_true, if_false, Bool.false_eq_true] <;> omega
theorem toInt32_sr (seed : BitVec 64) (src : Int) :
    let v := (FV.of32 w).real
    let wd := min (-src).toNat 32
    let dd := ⌊(|v| - ⌊|v|⌋) * 2 ^ wd⌋.toNat
    let k : Int := if |v| ≠ ⌊|v|⌋ ∧ 2 ^ wd ≤ dd + (mix seed dd).toNat / 2 ^ (32 - wd) then ⌊|v|⌋ + 1 else ⌊|v|⌋
    (toInt32 (.sr seed src) w).1.toInt = held (if v < 0 then -k else k) := by
  obtain ⟨n, a, ha, hv, h⟩ := toInt32_real hw
  intro v wd dd k
  have habs : |v| = a := by
    simp only [v, hv]
    cases n <;> simp [abs_of_nonneg ha]
  have hk : k = (Rnd.sr seed src).int n a := by
    simp only [k, dd, wd, habs, Rnd.int, Rnd.up, decide_eq_true_eq, ← Int.natCast_floor_eq_floor ha, Int.cast_natCast, zero_sub]
    push_cast
    rfl
  rw [h, ← hk]
  congr 1
  simp only [v, hv]
  cases n
  · simp only [signed, Bool.false_eq_true, if_false, if_neg ha.not_gt]
  · simp only [signed, if_true]
    split_ifs with hneg
    · rfl
    · have h0 : a = 0 := by linarith
      rw [hk, Rnd.int, h0]
      simp
end

end Sys2Proof.Machine
end

section
/-! Narrowing and widening (R114, R115), and the statement O25. -/
namespace Sys2Proof.Machine

/-! ### Values that a format holds exactly -/

theorem Fmt.round_exact (F : Fmt) (r : Rnd) (neg : Bool) {m c : Nat} {e : Int} (hv : (m : ℚ) * 2 ^ e = F.value c)
    (hc : c ≤ F.max) : F.round r neg m e = (F.sign neg + c, 0) := by
  rcases Nat.eq_zero_or_pos m with rfl | hm
  · have h0 : c = 0 := F.value_strictMono.injective (by rw [← hv, F.value_zero]; simp)
    rw [F.round_zero, h0, Nat.add_zero]
  · have hbeside : F.Beside (m * 2 ^ e) c := hv ▸ F.beside_value c
    have hchoose : F.choose r neg (m * 2 ^ e) c = c := if_neg fun h => h.1 hv
    rw [hbeside.round_eq hm, hchoose, Fmt.settle, if_neg hc.not_gt, Fmt.flags, if_pos hv.symm]

/-- Every value of `F` is one of `G`. -/
def Fmt.Embeds (F G : Fmt) : Prop := ∀ c, c ≤ F.max → ∃ d, d ≤ G.max ∧ G.value d = F.value c

/-- A format with fewer fraction bits, whose lowest spacing and whose range lie within those of another. -/
theorem Fmt.embeds_of_le {F G : Fmt} (hf : F.f ≤ G.f) (hlow : G.emin - G.f ≤ F.emin - F.f)
    (hhigh : F.value F.max < G.value (G.max + 1)) : F.Embeds G := by
  intro c hc
  obtain ⟨d, hd⟩ := G.exists_beside (F.value_nonneg c)
  refine ⟨d, hd.le_max_iff.2 ((F.value_strictMono.monotone hc).trans_lt hhigh), ?_⟩
  rcases Nat.eq_zero_or_pos (F.sig c) with h0 | hpos
  · have hv : F.value c = G.value 0 := by rw [Fmt.value, h0, G.value_zero]; simp
    rw [hv] at hd ⊢
    rw [hd.eq_of_value]
  · have hlog : Nat.log2 (F.sig c) < F.f + 1 := (Nat.log2_lt hpos.ne').2 (F.sig_lt c)
    have hq := hd.exp_eq (log2_le_dyadic hpos (F.exp c)) (dyadic_lt_log2 (F.sig c) (F.exp c))
    refine (hd.exact_of_exp_le (m := F.sig c) (e := F.exp c) ?_).2
    unfold Fmt.exp at hq ⊢
    omega

theorem bf16_embeds : bf16.Embeds fp32 := fun c hc =>
  ⟨c * 2 ^ 16, by simp only [bf16, fp32] at hc ⊢; omega, fp32_value_shift c⟩
theorem e4m3_embeds : e4m3.Embeds fp32 :=
  Fmt.embeds_of_le (by decide) (by decide) (by norm_num [Fmt.value, Fmt.sig, Fmt.exp, Fmt.step, e4m3, fp32])
theorem e5m2_embeds : e5m2.Embeds fp32 :=
  Fmt.embeds_of_le (by decide) (by decide) (by norm_num [Fmt.value, Fmt.sig, Fmt.exp, Fmt.step, e5m2, fp32])

/-! ### Narrowing and widening numbers -/

theorem narrowTo_fin (F : Fmt) (r : Rnd) {w : Word} {n : Bool} {m : Nat} {e : Int} (h : FV.of32 w = .fin n m e) :
    narrowTo F r w = F.round r n m e := by
  simp [narrowTo, h]

theorem widen_fin {s : Bool} {m c : Nat} {e : Int} (hv : (m : ℚ) * 2 ^ e = fp32.value c) (hc : c ≤ fp32.max) :
    widen (.fin s m e) = (BitVec.ofNat 32 (fp32.sign s + c), 0) := by
  simp [widen, fp32.round_exact .rne s hv hc]

/-- The codes below `n` that `of` reads as numbers are those of `F`. -/
def Fmt.Covers (F : Fmt) (of : Nat → FV) (n : Nat) : Prop := ∀ c, c < n → (of c).isNaN = false → (of c).isInf = false →
  ∃ s d, d ≤ F.max ∧ c = F.sign s + d

theorem bf16_covers : bf16.Covers FV.ofBF16 (2 ^ 16) := by
  intro c hc hnan hinf
  have hfin := (FV.of32_finite_iff _).1 ⟨hnan, hinf⟩
  rw [BitVec.toNat_ofNat] at hfin
  refine ⟨decide (2 ^ 15 ≤ c), c % 2 ^ 15, ?_, ?_⟩
  · simp only [fp32, bf16] at hfin ⊢
    omega
  · simp only [Fmt.sign, bf16, decide_eq_true_eq]
    split_ifs <;> omega
theorem e4m3_covers : e4m3.Covers FV.ofE4M3 (2 ^ 8) := by
  intro c hc hnan _
  have hne : c % 128 ≠ 0x7F := fun h => by simp [FV.ofE4M3, h, qnan, FV.isNaN] at hnan
  refine ⟨decide (2 ^ 7 ≤ c), c % 2 ^ 7, ?_, ?_⟩
  · simp only [e4m3]
    omega
  · simp only [Fmt.sign, e4m3, decide_eq_true_eq]
    split_ifs <;> omega
theorem e5m2_covers : e5m2.Covers FV.ofE5M2 (2 ^ 8) := by
  intro c hc hnan hinf
  have hne : c % 128 ≠ 0x7C := fun h => by simp [FV.ofE5M2, h, FV.isInf] at hinf
  have hle : ¬ 0x7C < c % 128 := fun h => by simp [FV.ofE5M2, h, hne, qnan, FV.isNaN] at hnan
  refine ⟨decide (2 ^ 7 ≤ c), c % 2 ^ 7, ?_, ?_⟩
  · simp only [e5m2]
    omega
  · simp only [Fmt.sign, e5m2, decide_eq_true_eq]
    split_ifs <;> omega

/-- A code of a number widens to its exact value, and that narrows back to the code, without a flag (R114). -/
theorem widen_narrow_exact {F : Fmt} {of : Nat → FV} {n : Nat} (hreads : F.Reads of) (hembeds : F.Embeds fp32)
    (hcovers : F.Covers of n) (c : Nat) (hc : c < n) (hnan : (of c).isNaN = false) (hinf : (of c).isInf = false) :
    (FV.of32 (widen (of c)).1).real = (of c).real ∧ (widen (of c)).2 = 0 ∧
      ∀ r : Rnd, narrowTo F r (widen (of c)).1 = (c, 0) := by
  obtain ⟨s, d, hd, rfl⟩ := hcovers c hc hnan hinf
  obtain ⟨m, e, hof, hv⟩ := hreads s d hd
  obtain ⟨d', hd', hv'⟩ := hembeds d hd
  obtain ⟨m', e', hof', hw⟩ := fp32_reads s d' hd'
  have hof'' : FV.of32 (BitVec.ofNat 32 (fp32.sign s + d')) = .fin s m' e' := hof'
  rw [hof, widen_fin (hv.trans hv'.symm) hd']
  refine ⟨?_, rfl, fun r => ?_⟩
  · rw [hof'', FV.real_fin, FV.real_fin, hw, hv', hv]
  · rw [narrowTo_fin F r hof'', F.round_exact r s (hw.trans hv') hd]

/-! ### INT32 to FP32 (R114) -/

theorem ofInt32_rounds (w : Word) : Rnd.rne.Rounds (w.toInt : ℚ) false (ofInt32 w) := by
  unfold ofInt32 round32
  dsimp only
  refine ⟨fun h0 => ?_, fun h0 => ⟨w.toInt.natAbs, 0, ?_, ?_⟩⟩
  · rw [if_pos (by exact_mod_cast h0)]
  · rw [zpow_zero, mul_one, Nat.cast_natAbs, Int.cast_abs]
  · rw [if_neg (by exact_mod_cast h0)]
    simp only [Int.cast_lt_zero]

/-! ### NaNs (R115) -/

theorem nan_fields {w : Word} (hex : w.toNat / 2 ^ 23 % 2 ^ 8 = 0xFF) (hfr : w.toNat % 2 ^ 23 ≠ 0) :
    FV.of32 w = .nan w (!w.getLsbD 22) := FV.of32_nan (by omega)

theorem narrowTo_nan (F : Fmt) (r : Rnd) {w : Word} (hex : w.toNat / 2 ^ 23 % 2 ^ 8 = 0xFF) (hfr : w.toNat % 2 ^ 23 ≠ 0) :
    narrowTo F r w =
      (if F.width = 16 then w.toNat / 65536 ||| 0x40
        else if F.f = 3 then F.sign (w.getLsbD 31) + 0x7F else F.sign (w.getLsbD 31) + 0x7E,
        if w.getLsbD 22 then 0 else fINV) := by
  simp only [narrowTo, nan_fields hex hfr, Fmt.sign]
  cases w.getLsbD 22 <;> rfl

theorem sign_getLsbD {F : Fmt} (hF : F.width = 8) (w : Word) : F.sign (w.getLsbD 31) = 2 ^ 7 * (w.toNat / 2 ^ 31) := by
  have h := w.isLt
  rw [Fmt.sign, testBit_top, hF]
  simp only [decide_eq_true_eq]
  split_ifs <;> omega

/-- The bits of a BF16 code stand above sixteen zeros. -/
theorem widen_bf16_nan {c : Nat} (hc : c < 2 ^ 16) (hex : c / 2 ^ 7 % 2 ^ 8 = 0xFF) (hfr : c % 2 ^ 7 ≠ 0) :
    widen (FV.ofBF16 c) = (BitVec.ofNat 32 (2 ^ 16 * c ||| 2 ^ 22), if c / 2 ^ 6 % 2 = 1 then 0 else fINV) := by
  have hw : c % 65536 * 65536 = 2 ^ 16 * c := by omega
  have hnat : (BitVec.ofNat 32 (2 ^ 16 * c)).toNat = 2 ^ 16 * c := by rw [BitVec.toNat_ofNat, Nat.mod_eq_of_lt (by omega)]
  have hbit : (BitVec.ofNat 32 (2 ^ 16 * c)).getLsbD 22 = decide (c / 2 ^ 6 % 2 = 1) := by
    rw [← BitVec.testBit_toNat, hnat, Nat.testBit_eq_decide_div_mod_eq]
    exact decide_eq_decide.2 (by omega)
  have hquiet : quiet (BitVec.ofNat 32 (2 ^ 16 * c)) = BitVec.ofNat 32 (2 ^ 16 * c ||| 2 ^ 22) := by
    rw [BitVec.ofNat_or]
    rfl
  rw [FV.ofBF16, hw, nan_fields (by rw [hnat]; omega) (by rw [hnat]; omega), widen, hbit, hquiet]
  by_cases h : c / 2 ^ 6 % 2 = 1
  · rw [decide_eq_true h, if_pos h]
    rfl
  · rw [decide_eq_false h, if_neg h]
    rfl

/-! ### The statement (O25) -/

/-- Settles O25: magnitudes rounded to integers, exact values of the narrow formats, and the table of R115. -/
theorem conversionValues : Obligations.ConversionValues := by
  refine ⟨fun w hnan hinf => ?_, ⟨widen_narrow_exact bf16_reads bf16_embeds bf16_covers,
    widen_narrow_exact e4m3_reads e4m3_embeds e4m3_covers, widen_narrow_exact e5m2_reads e5m2_embeds e5m2_covers⟩,
    ofInt32_rounds, fun w n m e r h => ⟨narrowTo_fin bf16 r h, narrowTo_fin e4m3 r h, narrowTo_fin e5m2 r h⟩,
    fun r => ⟨rfl, rfl, rfl, rfl, rfl, rfl, rfl, rfl⟩, fun w r hex hfr => ?_, fun c hc hex hfr => widen_bf16_nan hc hex hfr,
    rfl, rfl, rfl, rfl, rfl, rfl, fun c hlo hhi => ?_⟩
  · have hw := And.intro hnan hinf
    exact ⟨toInt32_rd hw, toInt32_ru hw, toInt32_rz hw, toInt32_rne hw, toInt32_sr hw,
      toInt32_flags (FV.of32_fin ((FV.of32_finite_iff w).1 hw))⟩
  · refine ⟨narrowTo_nan bf16 r hex hfr, ?_, ?_, ?_⟩
    · rw [narrowTo_nan e4m3 r hex hfr, sign_getLsbD rfl]
      rfl
    · rw [narrowTo_nan e5m2 r hex hfr, sign_getLsbD rfl]
      rfl
    · simp only [toInt32, nan_fields hex hfr]
  · have hc : c = 0x7D ∨ c = 0x7E ∨ c = 0x7F := by omega
    rcases hc with rfl | rfl | rfl <;> exact ⟨rfl, rfl⟩

end Sys2Proof.Machine
end

section
/-! Packed elements: the fields of a word, what a packing instruction writes, and the conversions (R105, R113, O24). -/
namespace Sys2Proof.Machine

/-! ### The fields of a packed word (R105) -/

theorem packWord_lt (w : Nat) (cs : List Nat) : packWord w cs < 2 ^ (w * cs.length) := by
  induction cs with
  | nil => simp [packWord]
  | cons c cs ih =>
    have hmod : c % 2 ^ w < 2 ^ w := Nat.mod_lt _ (by positivity)
    have hpow : 2 ^ (w * (cs.length + 1)) = 2 ^ w * 2 ^ (w * cs.length) := by rw [mul_add, mul_one, pow_add, mul_comm]
    simp only [packWord, List.length_cons, hpow]
    calc c % 2 ^ w + 2 ^ w * packWord w cs < 2 ^ w + 2 ^ w * packWord w cs := by omega
      _ = 2 ^ w * (packWord w cs + 1) := by ring
      _ ≤ 2 ^ w * 2 ^ (w * cs.length) := Nat.mul_le_mul_left _ ih

theorem packWord_field (w : Nat) (cs : List Nat) (j : Nat) :
    packWord w cs / 2 ^ (w * j) % 2 ^ w = cs.getD j 0 % 2 ^ w := by
  have hpos : 0 < 2 ^ w := by positivity
  induction cs generalizing j with
  | nil => simp [packWord]
  | cons c cs ih =>
    cases j with
    | zero => simp [packWord]
    | succ j =>
      have hdiv : (c % 2 ^ w + 2 ^ w * packWord w cs) / 2 ^ w = packWord w cs := by
        rw [Nat.add_mul_div_left _ _ hpos, Nat.div_eq_of_lt (Nat.mod_lt _ hpos), Nat.zero_add]
      rw [packWord, mul_add, mul_one, pow_add, mul_comm (2 ^ (w * j)), ← Nat.div_div_eq_div_mul, hdiv, ih,
        List.getD_cons_succ]

/-- A word that holds a list of elements keeps each of them. -/
theorem toNat_packWord {w : Nat} {cs : List Nat} (h : w * cs.length ≤ 32) :
    (BitVec.ofNat 32 (packWord w cs)).toNat = packWord w cs := by
  rw [BitVec.toNat_ofNat, Nat.mod_eq_of_lt ((packWord_lt w cs).trans_le (Nat.pow_le_pow_right two_pos h))]

/-- A bit of a packed word is one of the element that holds it. -/
theorem testBit_packWord {w : Nat} (hw : 0 < w) (cs : List Nat) (b : Nat) :
    (packWord w cs).testBit b = (cs.getD (b / w) 0).testBit (b % w) := by
  have hb : b % w < w := Nat.mod_lt _ hw
  have h := congrArg (fun n => n.testBit (b % w)) (packWord_field w cs (b / w))
  simp only [Nat.testBit_mod_two_pow, hb, decide_true, Bool.true_and, Nat.testBit_div_two_pow] at h
  rw [← h, Nat.mod_add_div]

/-! ### What a packing instruction answers -/

/-- Flags joined over a list are set exactly when an element sets them. -/
theorem foldl_flags_bit {α : Type} (g : α → Flags) (xs : List α) (fl : Flags) (b : Nat) :
    (xs.foldl (fun fl x => fl ||| g x) fl).getLsbD b = true ↔
      fl.getLsbD b = true ∨ ∃ x ∈ xs, (g x).getLsbD b = true := by
  induction xs generalizing fl with
  | nil => simp
  | cons x xs ih => simp [ih, or_assoc]

/-- Elements packed into the lanes, `k` to a lane in fields of `w` bits. -/
def packedLanes (w k : Nat) (g : Nat → Nat) : Lanes := Vector.ofFn fun l =>
  BitVec.ofNat 32 (packWord w ((List.range k).map fun j => if l.val * k + j < 256 then g (l.val * k + j) else 0))

section
variable {w k : Nat} (hw : k * w = 32) (g : Nat → Nat)
include hw

theorem toNat_lane_packedLanes {l : Nat} (hl : l < 256) : (lane (packedLanes w k g) l).toNat =
    packWord w ((List.range k).map fun j => if l * k + j < 256 then g (l * k + j) else 0) := by
  simp only [lane, packedLanes, Vector.getElem?_ofFn, hl, dif_pos, Option.getD_some]
  exact toNat_packWord (by simp [mul_comm w, hw])

theorem packedLanes_field {e : Nat} (he : e < 256) :
    (lane (packedLanes w k g) (e / k)).toNat / 2 ^ (w * (e % k)) % 2 ^ w = g e % 2 ^ w := by
  have hj : e % k < k := Nat.mod_lt _ (Nat.pos_of_ne_zero fun h => by simp [h] at hw)
  have hin : e / k * k + e % k < 256 := by rwa [Nat.div_add_mod']
  rw [toNat_lane_packedLanes hw g ((Nat.div_le_self e k).trans_lt he), packWord_field]
  simp [List.getD, hj, he, Nat.div_add_mod']

theorem packedLanes_bit {l b : Nat} (hl : l < 256) (hb : b < 32) : (lane (packedLanes w k g) l).getLsbD b =
    if l * k + b / w < 256 then (g (l * k + b / w)).testBit (b % w) else false := by
  have hw0 : 0 < w := Nat.pos_of_ne_zero fun h => by simp [h] at hw
  have hj : b / w < k := (Nat.div_lt_iff_lt_mul hw0).2 (hw ▸ hb)
  rw [← BitVec.testBit_toNat, toNat_lane_packedLanes hw g hl, testBit_packWord hw0]
  simp only [List.getD, List.getElem?_map, List.getElem?_range hj, Option.map_some, Option.getD_some]
  split_ifs <;> simp
end

/-- The results of the selected elements; those of the others are zero, without flags. -/
def selectedResults (m : Mask) (op : Nat → Nat × Flags) : Vector (Word × Flags) 256 := Vector.ofFn fun i =>
  if m.getLsbD i.val then (BitVec.ofNat 32 (op i.val).1, (op i.val).2) else (0, 0)

theorem State.vPack_eq (s : State) (vd mask lat w : Nat) (op : Nat → Nat × Flags) :
    s.vPack vd mask lat w op =
      (s.write lat (.v s.vslot vd
        (packedLanes w (32 / w) fun i => if (s.vunit.rm mask).getLsbD i then 2 ^ w - 1 else 0)
        (packedLanes w (32 / w) fun i => (((selectedResults (s.vunit.rm mask) op)[i]?.getD (0, 0)).1).toNat))).write lat
        (.flagsSet s.vslot (laneFlags (selectedResults (s.vunit.rm mask) op))) := rfl

/-- What `vPack` answers: the fields of the selected elements, and the flags that they raise. -/
theorem State.pack_result {s : State} {i : Instr} {vd mask lat w : Nat} {op : Nat → Nat × Flags} (hw : 32 / w * w = 32)
    (he : exec i s = .next (s.vPack vd mask lat w op)) : s.PackedResult i vd mask lat w op := by
  rw [State.vPack_eq] at he
  refine ⟨_, he, _, _, _, fun l b hl hb => ?_, fun e he hm => ?_, fun b hb => ?_, s.writes_two ..⟩
  · have hw0 : 0 < w := Nat.pos_of_ne_zero fun h => by simp [h] at hw
    rw [packedLanes_bit hw _ hl hb]
    split_ifs with hlt hm
    · rw [hm, Nat.testBit_two_pow_sub_one]
      exact decide_eq_true (Nat.mod_lt _ hw0)
    · rw [Nat.zero_testBit, Bool.eq_false_of_not_eq_true hm]
    · rw [BitVec.getLsbD_of_ge _ _ (not_lt.1 hlt)]
  · have hle : w ≤ 32 := by
      rw [← hw]
      exact Nat.le_mul_of_pos_left w (Nat.pos_of_ne_zero fun h => by simp [h] at hw)
    rw [packedLanes_field hw _ he]
    simp only [selectedResults, Vector.getElem?_ofFn, he, dif_pos, hm, if_true, Option.getD_some, BitVec.toNat_ofNat]
    exact Nat.mod_mod_of_dvd _ (pow_dvd_pow 2 hle)
  · rw [laneFlags_bit]
    constructor
    · rintro ⟨e, he, h⟩
      refine ⟨e, he, ?_⟩
      by_cases hm : (s.vunit.rm mask).getLsbD e = true <;> simp_all [selectedResults]
    · rintro ⟨e, he, hm, h⟩
      exact ⟨e, he, by simp [selectedResults, hm, h]⟩

/-! ### The statement (O24) -/

/-- Settles O24: the narrowing conversions pack their elements, the widening ones write whole lanes. -/
theorem conversions : Obligations.Conversions := fun _ _ =>
  ⟨State.pack_result rfl rfl, State.pack_result rfl rfl, State.pack_result rfl rfl, State.pack_result rfl rfl,
    State.arith_result rfl, State.arith_result rfl, State.arith_result rfl, State.arith_result rfl⟩

end Sys2Proof.Machine
end

section
/-! MX blocks and codebooks: the layout of a packed register, and the conversions from it (R105, R116 to R121, O26). -/
namespace Sys2Proof.Machine

/-! ### Lists cut into parts -/

theorem chunks_eq {α : Type} (n k : Nat) (xs : List α) :
    chunks n k xs = (List.range k).map fun i => (xs.drop (n * i)).take n := by
  induction k generalizing xs with
  | zero => rfl
  | succ k ih =>
    rw [chunks, ih, List.range_succ_eq_map, List.map_cons, List.map_map, mul_zero, List.drop_zero]
    congr 2
    funext i
    rw [Function.comp_apply, List.drop_drop, Nat.mul_succ, Nat.add_comm]

/-- A part of the list of the values of `g`. -/
theorem chunk_range_map {α : Type} (n k i : Nat) (g : Nat → α) (hi : i < k) :
    (((List.range (n * k)).map g).drop (n * i)).take n = (List.range n).map fun j => g (n * i + j) := by
  have hle : n * i + n ≤ n * k := by rw [← Nat.mul_succ]; exact Nat.mul_le_mul_left n hi
  refine List.ext_getElem (by simp; omega) fun j h1 h2 => ?_
  simp

/-- An element of lists of one length, one after another. -/
theorem getD_flatMap {α β : Type} {n j : Nat} (hj : j < n) {f : α → List β} (d : β) {xs : List α}
    (hlen : ∀ x ∈ xs, (f x).length = n) (b : Nat) : (xs.flatMap f).getD (n * b + j) d = ((xs.map f).getD b []).getD j d := by
  induction xs generalizing b with
  | nil => simp
  | cons x xs ih =>
    rw [List.forall_mem_cons] at hlen
    rw [List.flatMap_cons, List.map_cons]
    cases b with
    | zero => rw [List.getD_append _ _ _ _ (by omega), mul_zero, Nat.zero_add, List.getD_cons_zero]
    | succ b =>
      have hat : n * (b + 1) + j = n + (n * b + j) := by ring
      rw [hat, List.getD_append_right _ _ _ _ (by omega), hlen.1, Nat.add_sub_cancel_left, ih hlen.2, List.getD_cons_succ]

/-- Elements packed into words keep their fields: element j of word l is element `k * l + j` (R105). -/
theorem packedWords_field {w k n l j : Nat} (hw : w * k ≤ 32) (cs : List Nat) (hl : l < n) (hj : j < k) :
    (((chunks k n cs).map fun c => BitVec.ofNat 32 (packWord w c)).getD l 0).toNat / 2 ^ (w * j) % 2 ^ w =
      cs.getD (k * l + j) 0 % 2 ^ w := by
  have hfits : w * ((cs.drop (k * l)).take k).length ≤ 32 :=
    (Nat.mul_le_mul_left w (List.length_take_le ..)).trans hw
  have hword : ((chunks k n cs).map fun c => BitVec.ofNat 32 (packWord w c)).getD l 0 =
      BitVec.ofNat 32 (packWord w ((cs.drop (k * l)).take k)) := by
    simp [chunks_eq, List.getD, hl]
  rw [hword, toNat_packWord hfits, packWord_field]
  simp [List.getD, hj]

/-! ### The layout of an MX register (R116, R117) -/

theorem mxBlock_length (F : Fmt) (emax : Int) (code : Nat) (seed : BitVec 64) (xs : List Word) :
    (mxBlock F emax code seed xs).2.1.length = xs.length := by
  unfold mxBlock
  dsimp only
  split_ifs <;> simp

/-- The lanes of the register: the codes, two words of scales, zeros, and the width of a code. -/
theorem lane_mxWords {words scales : List Word} {n : Nat} (hwords : words.length = n) (hn : n + 2 < 256)
    (hscales : scales.length = 2) (x : Word) :
    let out := lanesOf (words ++ scales ++ zeroWords (255 - words.length - 2) ++ [x])
    (∀ l, l < n → lane out l = words.getD l 0) ∧ (∀ l, l < 2 → lane out (n + l) = scales.getD l 0) ∧
      (∀ l, n + 2 ≤ l → l < 255 → lane out l = 0) ∧ lane out 255 = x := by
  have hzeros : (zeroWords (255 - words.length - 2)).length = 255 - n - 2 := by rw [zeroWords, List.length_replicate, hwords]
  refine ⟨fun l hl => ?_, fun l hl => ?_, fun l hlo hl => ?_, ?_⟩
  · rw [lane_lanesOf _ (by omega), List.append_assoc, List.append_assoc, List.getD_append _ _ _ _ (by omega)]
  · rw [lane_lanesOf _ (by omega), List.append_assoc, List.append_assoc, List.getD_append_right _ _ _ _ (by omega), hwords,
      Nat.add_sub_cancel_left, List.getD_append _ _ _ _ (by omega)]
  · rw [lane_lanesOf _ (by omega), List.getD_append _ _ _ _ (by simp only [List.length_append]; omega),
      List.getD_append_right _ _ _ _ (by simp only [List.length_append]; omega), List.getD]
    simp [zeroWords, List.getElem?_replicate]
    split <;> rfl
  · rw [lane_lanesOf _ (by omega), List.getD_append_right _ _ _ _ (by simp only [List.length_append]; omega),
      show 255 - (words ++ scales ++ zeroWords (255 - words.length - 2)).length = 0 by simp only [List.length_append]; omega]
    rfl

/-- The words of the codes and of the scales of a register's blocks. -/
def mxCodeWords (w : Nat) (blocks : List (Nat × List Nat × Flags)) : List Word :=
  (chunks (32 / w) (256 / (32 / w)) (blocks.flatMap fun b => b.2.1)).map fun cs => BitVec.ofNat 32 (packWord w cs)
def mxScaleWords (blocks : List (Nat × List Nat × Flags)) : List Word :=
  (chunks 4 2 (blocks.map fun b => b.1)).map fun cs => BitVec.ofNat 32 (packWord 8 cs)

/-- A register of blocks, with the flags that they raise (R116). -/
def mxRegister (w : Nat) (blocks : List (Nat × List Nat × Flags)) : Lanes × Flags :=
  (lanesOf (mxCodeWords w blocks ++ mxScaleWords blocks ++ zeroWords (255 - (mxCodeWords w blocks).length - 2) ++
    [BitVec.ofNat 32 w]), blocks.foldl (fun fl b => fl ||| b.2.2) 0)

theorem cvtMx_eq (F : Fmt) (emax : Int) (code : Nat) (seed : BitVec 64) (xs : List Word) :
    cvtMx F emax code seed xs = mxRegister F.width ((chunks 32 8 xs).map (mxBlock F emax code seed)) := rfl

/-- Blocks of 32 lanes, each with its codes, its scale and its flags. -/
structure MxLayout (w : Nat) (blocks : List (Nat × List Nat × Flags)) (out : Lanes × Flags) : Prop where
  codes : ∀ k, k < 256 → (lane out.1 (k / (32 / w))).toNat / 2 ^ (w * (k % (32 / w))) % 2 ^ w =
    (blocks.getD (k / 32) (0, [], 0)).2.1.getD (k % 32) 0 % 2 ^ w
  scales : ∀ b, b < 8 → (lane out.1 ((32 * w + b) / 4)).toNat / 2 ^ (8 * ((32 * w + b) % 4)) % 2 ^ 8 =
    (blocks.getD b (0, [], 0)).1 % 2 ^ 8
  zeros : ∀ l, 8 * w + 2 ≤ l → l < 255 → lane out.1 l = 0
  width : (lane out.1 255).toNat = w
  flags : ∀ b, out.2.getLsbD b = true ↔ ∃ x ∈ blocks, x.2.2.getLsbD b = true

theorem mxRegister_layout {w : Nat} (hw : w = 8 ∨ w = 4) {blocks : List (Nat × List Nat × Flags)}
    (hlen : ∀ b ∈ blocks, b.2.1.length = 32) : MxLayout w blocks (mxRegister w blocks) := by
  have hwords : (mxCodeWords w blocks).length = 8 * w := by
    simp only [mxCodeWords, chunks_eq, List.length_map, List.length_range]
    rcases hw with rfl | rfl <;> rfl
  obtain ⟨hlow, hscale, hzero, hlast⟩ :=
    lane_mxWords (scales := mxScaleWords blocks) hwords (by omega) rfl (BitVec.ofNat 32 w)
  refine ⟨fun k hk => ?_, fun b hb => ?_, hzero, ?_, fun b => ?_⟩
  · have hl : k / (32 / w) < 8 * w ∧ k / (32 / w) < 256 / (32 / w) := by rcases hw with rfl | rfl <;> omega
    have hj : k % (32 / w) < 32 / w := Nat.mod_lt _ (by rcases hw with rfl | rfl <;> decide)
    have hcode := getD_flatMap (Nat.mod_lt k (by decide)) 0 hlen (k / 32)
    rw [Nat.div_add_mod, List.getD_map (d := ((0, [], 0) : Nat × List Nat × Flags))] at hcode
    rw [mxRegister, hlow _ hl.1, mxCodeWords, packedWords_field (Nat.mul_div_le 32 w) _ hl.2 hj, Nat.div_add_mod, hcode]
  · have hl : (32 * w + b) / 4 = 8 * w + b / 4 := by omega
    have hj : (32 * w + b) % 4 = b % 4 := by omega
    rw [mxRegister, hl, hj, hscale _ (by omega), mxScaleWords,
      packedWords_field (by decide) _ (by omega) (Nat.mod_lt _ (by decide)), Nat.div_add_mod]
    exact congrArg (· % 2 ^ 8) (List.getD_map (d := ((0, [], 0) : Nat × List Nat × Flags)) ..)
  · rw [mxRegister, hlast, BitVec.toNat_ofNat]
    rcases hw with rfl | rfl <;> rfl
  · rw [mxRegister, foldl_flags_bit (fun x : Nat × List Nat × Flags => x.2.2)]
    simp

/-- The register of the blocks of the values of `g`, 32 to a block. -/
theorem cvtMx_layout {F : Fmt} {w : Nat} (hF : F.width = w) (hw : w = 8 ∨ w = 4) (emax : Int) (code : Nat)
    (seed : BitVec 64) (g : Nat → Word) :
    MxLayout w ((List.range 8).map fun b => mxBlock F emax code seed ((List.range 32).map fun j => g (32 * b + j)))
      (cvtMx F emax code seed ((List.range 256).map g)) := by
  have hblocks : (chunks 32 8 ((List.range 256).map g)).map (mxBlock F emax code seed) =
      (List.range 8).map fun b => mxBlock F emax code seed ((List.range 32).map fun j => g (32 * b + j)) := by
    rw [chunks_eq, List.map_map]
    exact List.map_congr_left fun b hb => congrArg _ (chunk_range_map 32 8 b g (List.mem_range.1 hb))
  rw [cvtMx_eq, hblocks, hF]
  refine mxRegister_layout hw fun x hx => ?_
  obtain ⟨b, -, rfl⟩ := List.mem_map.1 hx
  rw [mxBlock_length, List.length_map, List.length_range]

/-- What CVTMX8 and CVTMX4 answer. -/
theorem State.mx_result {s : State} {i : Instr} {f : VR} {F : Fmt} {emax : Int} {w : Nat} (hF : F.width = w)
    (hw : w = 8 ∨ w = 4) (he : exec i s = .next (s.vMx f F emax)) :
    let block (b : Nat) : Nat × List Nat × Flags := mxBlock F emax f.rnd s.vunit.seed ((List.range 32).map fun j =>
      if (s.vunit.rm f.mask).getLsbD (32 * b + j) then lane (s.vunit.rv f.va) (32 * b + j) else 0)
    s.Answers i fun t => ∃ (val : Lanes) (fl : Flags),
      (∀ k, k < 256 → (lane val (k / (32 / w))).toNat / 2 ^ (w * (k % (32 / w))) % 2 ^ w =
        (block (k / 32)).2.1.getD (k % 32) 0 % 2 ^ w) ∧
      (∀ b, b < 8 → (lane val ((32 * w + b) / 4)).toNat / 2 ^ (8 * ((32 * w + b) % 4)) % 2 ^ 8 = (block b).1 % 2 ^ 8) ∧
      (∀ l, 8 * w + 2 ≤ l → l < 255 → lane val l = 0) ∧ (lane val 255).toNat = w ∧
      (∀ b, b < 6 → (fl.getLsbD b = true ↔ ∃ k, k < 8 ∧ (block k).2.2.getLsbD b = true)) ∧
      s.Writes t [(6, .v s.vslot f.vd allLanes val), (6, .flagsSet s.vslot fl)] := by
  intro block
  have h := cvtMx_layout hF hw emax f.rnd s.vunit.seed fun k =>
    if (s.vunit.rm f.mask).getLsbD k then lane (s.vunit.rv f.va) k else 0
  have hgetD : ∀ {b}, b < 8 → ((List.range 8).map block).getD b (0, [], 0) = block b := fun hb => by simp [List.getD, hb]
  refine ⟨_, he, _, _, fun k hk => ?_, fun b hb => ?_, h.zeros, h.width, fun b hb => ?_, s.writes_two ..⟩
  · rw [← hgetD (b := k / 32) (by omega)]
    exact h.codes k hk
  · rw [← hgetD hb]
    exact h.scales b hb
  · refine (h.flags b).trans ?_
    simp [block]

/-! ### The conversions from a register (R118, R120, O26) -/

/-- The byte and the code that UNMX reads. -/
theorem element_bytes (v : Lanes) (i : Nat) : element v 4 i = (lane v (i / 4)).toNat / 2 ^ (8 * (i % 4)) % 2 ^ 8 := rfl
theorem element_nibbles (v : Lanes) (i : Nat) : element v 8 i = (lane v (i / 8)).toNat / 2 ^ (4 * (i % 8)) % 2 ^ 4 := rfl

theorem unmx_eq (v : Lanes) (k : Nat) : unmx v k =
    let w := (lane v 255).toNat
    let sc : Nat := (lane v ((32 * w + k / 32) / 4)).toNat / 2 ^ (8 * ((32 * w + k / 32) % 4)) % 2 ^ 8
    if w ≠ 8 ∧ w ≠ 4 then (0x7FC00000, fINV)
    else if sc = 0xFF then (0x7FC00000, 0)
    else widen ((if w = 8 then FV.ofE4M3 ((lane v (k / 4)).toNat / 2 ^ (8 * (k % 4)) % 2 ^ 8)
      else FV.ofE2M1 ((lane v (k / 8)).toNat / 2 ^ (4 * (k % 8)) % 2 ^ 4)).scale ((sc : Int) - 127)) := by
  have hlast : v[255] = lane v 255 := by simp [lane]
  have hiff : ∀ n : Nat, n < 2 ^ 32 → (lane v 255 = BitVec.ofNat 32 n ↔ (lane v 255).toNat = n) := fun n hn => by
    rw [← BitVec.toNat_inj, BitVec.toNat_ofNat, Nat.mod_eq_of_lt hn]
  have h8 : lane v 255 = 8 ↔ (lane v 255).toNat = 8 := hiff 8 (by decide)
  have h4 : lane v 255 = 4 ↔ (lane v 255).toNat = 4 := hiff 4 (by decide)
  unfold unmx
  simp only [hlast, ne_eq, h8, h4]
  by_cases hw8 : (lane v 255).toNat = 8
  · simp only [hw8, if_true, element_bytes]
  · by_cases hw4 : (lane v 255).toNat = 4
    · simp only [hw4, element_bytes, element_nibbles]
      rfl
    · simp only [hw8, hw4, not_false_eq_true, and_self, if_true]

/-- Settles O26: the layout of the blocks, and the conversions of the selected elements. -/
theorem blocksAndCodebooks : Obligations.BlocksAndCodebooks := by
  refine fun s f => ⟨State.mx_result rfl (.inl rfl) rfl, State.mx_result rfl (.inr rfl) rfl, ?_, State.arith_result rfl,
    State.pack_result rfl rfl⟩
  exact (funext (unmx_eq (s.vunit.rv f.va))) ▸ State.arith_result rfl

end Sys2Proof.Machine
end

section
/-! The scale, the codes and the flags of an MX block (R108, R115, R117, O27). -/
namespace Sys2Proof.Machine

/-! ### The binade of a value -/

/-- The binade of a number other than zero. -/
def FV.top : FV → Option Int
  | .fin _ m e => if m = 0 then none else some ((Nat.log2 m : Int) + e)
  | _ => none

theorem FV.top_eq_none_iff (v : FV) : v.top = none ↔ v.real = 0 := by
  cases v with
  | nan w s => simp [FV.top, FV.real]
  | inf n => simp [FV.top, FV.real]
  | fin n m e =>
    have hpow : (2 : ℚ) ^ e ≠ 0 := by positivity
    rw [FV.real_fin]
    cases n <;> simp [FV.top, hpow]

theorem FV.top_bounds {v : FV} {t : Int} (h : v.top = some t) : (2 : ℚ) ^ t ≤ |v.real| ∧ |v.real| < 2 ^ (t + 1) := by
  cases v with
  | nan w s => simp [FV.top] at h
  | inf n => simp [FV.top] at h
  | fin n m e =>
    by_cases hm : m = 0
    · simp [FV.top, hm] at h
    · simp only [FV.top, hm, if_false, Option.some.injEq] at h
      rw [FV.abs_real_fin, ← h]
      exact ⟨log2_le_dyadic (Nat.pos_of_ne_zero hm) e, dyadic_lt_log2 m e⟩

/-- The greatest binade of a block. -/
def blockTop (xs : List Word) : Option Int := ((xs.map FV.of32).filterMap FV.top).max?

theorem blockTop_eq_none_iff (xs : List Word) : blockTop xs = none ↔ ∀ w ∈ xs, (FV.of32 w).real = 0 := by
  simp [blockTop, List.max?_eq_none_iff, FV.top_eq_none_iff]

theorem blockTop_bounds {xs : List Word} {t : Int} (h : blockTop xs = some t) :
    (∃ w ∈ xs, (2 : ℚ) ^ t ≤ |(FV.of32 w).real|) ∧ ∀ w ∈ xs, |(FV.of32 w).real| < 2 ^ (t + 1) := by
  obtain ⟨hmem, hmax⟩ := List.max?_eq_some_iff.1 h
  simp only [List.mem_filterMap, List.mem_map] at hmem hmax
  constructor
  · obtain ⟨_, ⟨w, hw, rfl⟩, htop⟩ := hmem
    exact ⟨w, hw, (FV.top_bounds htop).1⟩
  · intro w hw
    cases htop : (FV.of32 w).top with
    | none =>
      rw [(FV.top_eq_none_iff _).1 htop, abs_zero]
      positivity
    | some u =>
      refine (FV.top_bounds htop).2.trans_le (zpow_le_zpow_right₀ one_le_two ?_)
      have := hmax u ⟨_, ⟨w, hw, rfl⟩, htop⟩
      omega

/-! ### A block without a NaN (R117) -/

/-- The exponent of a block's scale. -/
def blockExp (emax : Int) (xs : List Word) : Int := match blockTop xs with
  | none => 0
  | some t => max (t - emax) (-127)

/-- The code and the flags of an element of a block with the exponent `e`. -/
def mxElement (F : Fmt) (code : Nat) (seed : BitVec 64) (e : Int) (w : Word) : Nat × Flags := match FV.of32 w with
  | .inf n => ((if n then 2 ^ (F.width - 1) else 0) + F.max, fSAT ||| fINX)
  | .fin n m ex => F.round (Rnd.ofCode code seed (ulp32 w - e)) n m (ex - e)
  | .nan _ _ => (0, 0)

section
variable (F : Fmt) (emax : Int) (code : Nat) (seed : BitVec 64) (xs : List Word)

theorem mxBlock_of_num (h : ∀ w ∈ xs, (FV.of32 w).isNaN = false) : mxBlock F emax code seed xs =
    ((blockExp emax xs + 127).toNat, xs.map fun w => (mxElement F code seed (blockExp emax xs) w).1,
      (xs.map (mxElement F code seed (blockExp emax xs))).foldl (fun fl c => fl ||| c.2) 0) := by
  have hany : (xs.map FV.of32).any FV.isNaN = false := by simpa using h
  have hany' : ¬ ((xs.map FV.of32).any FV.isNaN = true) := by simp [hany]
  unfold mxBlock
  dsimp only
  rw [if_neg hany', List.map_map]
  rfl

/-- A NaN signals when bit 22 of its code is clear. -/
theorem FV.sig_of32 (w : Word) : (FV.of32 w).sig = true ↔ (FV.of32 w).isNaN = true ∧ w.getLsbD 22 = false := by
  rcases lt_trichotomy (w.toNat % 2 ^ 31) 0x7F800000 with h | h | h
  · rw [FV.of32_fin (Nat.le_of_lt_succ h)]
    simp [FV.sig, FV.isNaN]
  · rw [FV.of32_inf h]
    simp [FV.sig, FV.isNaN]
  · rw [FV.of32_nan h]
    simp [FV.sig, FV.isNaN]

theorem mxBlock_of_nan (h : ∃ w ∈ xs, (FV.of32 w).isNaN = true) : mxBlock F emax code seed xs =
    (0xFF, List.replicate xs.length 0,
      if ∃ w ∈ xs, (FV.of32 w).isNaN = true ∧ w.getLsbD 22 = false then fINV else 0) := by
  have hany : (xs.map FV.of32).any FV.isNaN = true := by simpa using h
  have hsig : (xs.map FV.of32).any FV.sig = true ↔ ∃ w ∈ xs, (FV.of32 w).isNaN = true ∧ w.getLsbD 22 = false := by
    simp only [List.any_map, List.any_eq_true, Function.comp_apply, FV.sig_of32]
  unfold mxBlock
  simp only [hany, if_true, List.map_const', hsig]

/-! ### The scale (R117) -/

theorem blockExp_ge : -127 ≤ blockExp emax xs := by
  unfold blockExp
  rcases blockTop xs with _ | t
  · exact (by decide : (-127 : Int) ≤ 0)
  · exact le_max_right ..

theorem blockExp_of_top {t : Int} (h : blockTop xs = some t) : blockExp emax xs = max (t - emax) (-127) := by
  rw [blockExp, h]

theorem blockExp_of_zeros (h : ∀ w ∈ xs, (FV.of32 w).real = 0) : blockExp emax xs = 0 := by
  rw [blockExp, (blockTop_eq_none_iff xs).2 h]

theorem exists_blockTop (h : ∃ w ∈ xs, (FV.of32 w).real ≠ 0) : ∃ t, blockTop xs = some t := by
  refine Option.ne_none_iff_exists'.1 fun hnone => ?_
  obtain ⟨w, hw, hne⟩ := h
  exact hne ((blockTop_eq_none_iff xs).1 hnone w hw)

/-- Above its lower end, the scale puts the greatest magnitude in the binade of `emax` (R117). -/
theorem blockExp_bounds (hlow : -127 < blockExp emax xs) (h : ∃ w ∈ xs, (FV.of32 w).real ≠ 0) :
    (∀ w ∈ xs, |(FV.of32 w).real| < (2 : ℚ) ^ (blockExp emax xs + emax + 1)) ∧
      ∃ w ∈ xs, (2 : ℚ) ^ (blockExp emax xs + emax) ≤ |(FV.of32 w).real| := by
  obtain ⟨t, ht⟩ := exists_blockTop xs h
  have he : blockExp emax xs + emax = t := by
    rw [blockExp_of_top emax xs ht] at hlow ⊢
    omega
  rw [he]
  exact (blockTop_bounds ht).symm

/-- At its lower end it stands exactly where all magnitudes lie below its binade. -/
theorem blockExp_eq_low_iff : blockExp emax xs = -127 ↔
    (∃ w ∈ xs, (FV.of32 w).real ≠ 0) ∧ ∀ w ∈ xs, |(FV.of32 w).real| < (2 : ℚ) ^ (emax - 126) := by
  by_cases hne : ∃ w ∈ xs, (FV.of32 w).real ≠ 0
  · obtain ⟨t, ht⟩ := exists_blockTop xs hne
    obtain ⟨⟨w, hw, hle⟩, hlt⟩ := blockTop_bounds ht
    rw [blockExp_of_top emax xs ht]
    constructor
    · intro he
      exact ⟨hne, fun w hw => (hlt w hw).trans_le (zpow_le_zpow_right₀ one_le_two (by omega))⟩
    · rintro ⟨-, hall⟩
      have := (zpow_lt_zpow_iff_right₀ one_lt_two).1 (hle.trans_lt (hall w hw))
      omega
  · refine iff_of_false ?_ fun h => hne h.1
    push Not at hne
    rw [blockExp_of_zeros emax xs hne]
    decide

/-! ### Blocks, as the statement has them -/

theorem mxBlock_bounds (hnum : ∀ w ∈ xs, (FV.of32 w).isNaN = false) (hpos : 0 < (mxBlock F emax code seed xs).1)
    (h : ∃ w ∈ xs, (FV.of32 w).real ≠ 0) :
    let top : Int := (mxBlock F emax code seed xs).1 - 127 + emax
    (∀ w ∈ xs, |(FV.of32 w).real| < (2 : ℚ) ^ (top + 1)) ∧ ∃ w ∈ xs, (2 : ℚ) ^ top ≤ |(FV.of32 w).real| := by
  rw [mxBlock_of_num F emax code seed xs hnum] at hpos ⊢
  have hge := blockExp_ge emax xs
  have htop : ((blockExp emax xs + 127).toNat : Int) - 127 = blockExp emax xs := by omega
  dsimp only at hpos ⊢
  rw [htop]
  exact blockExp_bounds emax xs (by omega) h

/-- Scale, codes and flags of a block without a NaN. -/
theorem mxBlock_num (hnum : ∀ w ∈ xs, (FV.of32 w).isNaN = false) :
    let out := mxBlock F emax code seed xs
    ((∀ w ∈ xs, (FV.of32 w).real = 0) → out.1 = 0x7F) ∧
    (out.1 = 0 ↔ (∃ w ∈ xs, (FV.of32 w).real ≠ 0) ∧ ∀ w ∈ xs, |(FV.of32 w).real| < (2 : ℚ) ^ (emax - 126)) ∧
    out.2.1.length = xs.length ∧
    (∀ k, (hk : k < xs.length) → out.2.1.getD k 0 = (mxElement F code seed (out.1 - 127) xs[k]).1) ∧
    ∀ b, out.2.2.getLsbD b = true ↔ ∃ w ∈ xs, (mxElement F code seed (out.1 - 127) w).2.getLsbD b = true := by
  have hge := blockExp_ge emax xs
  have htop : ((blockExp emax xs + 127).toNat : Int) - 127 = blockExp emax xs := by omega
  intro out
  have hout : out = _ := mxBlock_of_num F emax code seed xs hnum
  rw [hout]
  dsimp only
  rw [htop]
  refine ⟨fun h => ?_, ?_, List.length_map _, fun k hk => ?_, fun b => ?_⟩
  · rw [blockExp_of_zeros emax xs h]
    rfl
  · rw [← blockExp_eq_low_iff]
    omega
  · simp [List.getD, hk]
  · rw [foldl_flags_bit (fun c : Nat × Flags => c.2)]
    simp

end

/-! ### The spacing of an element (R108) -/

/-- The exponent of a number's code is that of its spacing. -/
theorem ulp32_eq {w : Word} {n : Bool} {m : Nat} {ex : Int} (h : FV.of32 w = .fin n m ex) : ulp32 w = ex := by
  unfold FV.of32 at h
  unfold ulp32
  dsimp only at h ⊢
  split_ifs at h ⊢ <;> simp_all

theorem ulp32_spacing {w : Word} {n : Bool} {m : Nat} {ex : Int} (h : FV.of32 w = .fin n m ex) (hm : m ≠ 0) :
    (2 : ℚ) ^ ulp32 w ≤ |(FV.of32 w).real| ∧ ∃ k : Nat, |(FV.of32 w).real| = k * (2 : ℚ) ^ ulp32 w := by
  have hone : (1 : ℚ) ≤ m := by exact_mod_cast Nat.one_le_iff_ne_zero.2 hm
  rw [ulp32_eq h, h, FV.abs_real_fin]
  exact ⟨le_mul_of_one_le_left (by positivity) hone, m, rfl⟩

end Sys2Proof.Machine
end

section
/-! The index and the flags of a codebook encoding (R121, O27). -/
namespace Sys2Proof.Machine

/-! ### The order of values -/

/-- The place of a value in the order of R130: the infinities at the ends. -/
def FV.place : FV → WithBot (WithTop ℚ)
  | .inf true => ⊥
  | .inf false => ((⊤ : WithTop ℚ) : WithBot (WithTop ℚ))
  | v => ((v.real : WithTop ℚ) : WithBot (WithTop ℚ))

theorem FV.place_of_finite {v : FV} (h : v.isInf = false) : v.place = ((v.real : WithTop ℚ) : WithBot (WithTop ℚ)) := by
  cases v with
  | inf n => simp [FV.isInf] at h
  | nan | fin => rfl
theorem FV.place_lt_of_finite {u v : FV} (hu : u.isInf = false) (hv : v.isInf = false) :
    u.place < v.place ↔ u.real < v.real := by
  rw [FV.place_of_finite hu, FV.place_of_finite hv, WithBot.coe_lt_coe, WithTop.coe_lt_coe]

theorem FV.below_iff (u v : FV) : u.Below v ↔ u.place < v.place := by
  rcases u with _ | (_ | _) | _ <;> rcases v with _ | (_ | _) | _ <;>
    simp [FV.Below, FV.place, WithBot.coe_lt_coe, -WithBot.coe_top]
theorem FV.equal_iff (u v : FV) : (¬ u.Below v ∧ ¬ v.Below u) ↔ u.place = v.place := by
  rw [FV.below_iff, FV.below_iff, not_lt, not_lt, and_comm, le_antisymm_iff]

/-- The value of a dyadic number. -/
def Dy.val (d : Dy) : ℚ := (d.m : ℚ) * 2 ^ d.e

theorem FV.val_dy (v : FV) : v.dy.val = v.real := by
  cases v with
  | nan | inf => simp [FV.dy, Dy.val, FV.real]
  | fin n m e =>
    rw [FV.real_fin]
    cases n <;> simp [FV.dy, Dy.val]

theorem Dy.align_mul {d : Dy} {e : Int} (h : e ≤ d.e) : (d.align e : ℚ) * 2 ^ e = d.val := by
  unfold Dy.align Dy.val
  push_cast
  rw [mul_assoc, ← zpow_natCast, ← zpow_add₀ two_ne_zero, Int.toNat_of_nonneg (by omega), sub_add_cancel]
theorem Dy.lt_iff (a b : Dy) : a.lt b = true ↔ a.val < b.val := by
  rw [← Dy.align_mul (min_le_left a.e b.e), ← Dy.align_mul (min_le_right a.e b.e), mul_lt_mul_iff_left₀ (by positivity)]
  simp [Dy.lt]
theorem Dy.eq_iff (a b : Dy) : a.eq b = true ↔ a.val = b.val := by
  rw [← Dy.align_mul (min_le_left a.e b.e), ← Dy.align_mul (min_le_right a.e b.e),
    mul_left_inj' (by positivity : (2 : ℚ) ^ min a.e b.e ≠ 0)]
  simp [Dy.eq]
theorem Dy.val_sub (a b : Dy) : (a.sub b).val = a.val - b.val := by
  rw [← Dy.align_mul (min_le_left a.e b.e), ← Dy.align_mul (min_le_right a.e b.e), ← sub_mul]
  simp [Dy.sub, Dy.val]

theorem FV.lt_iff (u v : FV) : u.lt v = true ↔ u.place < v.place := by
  rcases u with _ | (_ | _) | _ <;> rcases v with _ | (_ | _) | _ <;>
    simp [FV.lt, FV.place, Dy.lt_iff, FV.val_dy, WithBot.coe_lt_coe, -WithBot.coe_top]
theorem FV.eq_iff (u v : FV) : u.eq v = true ↔ u.place = v.place := by
  rcases u with _ | (_ | _) | _ <;> rcases v with _ | (_ | _) | _ <;>
    simp [FV.eq, FV.place, Dy.eq_iff, FV.val_dy, WithBot.coe_inj, -WithBot.coe_top]

/-- The place of a value tells whether it is infinite, and its exact value. -/
theorem FV.isInf_eq_of_place {u v : FV} (h : u.place = v.place) : u.isInf = v.isInf := by
  rcases u with _ | (_ | _) | _ <;> rcases v with _ | (_ | _) | _ <;>
    simp_all [FV.place, FV.isInf, WithBot.coe_inj, -WithBot.coe_top]
theorem FV.real_eq_of_place {u v : FV} (h : u.place = v.place) : u.real = v.real := by
  have hinf := FV.isInf_eq_of_place h
  cases hu : u.isInf with
  | false =>
    rw [FV.place_of_finite hu, FV.place_of_finite (hinf ▸ hu), WithBot.coe_inj, WithTop.coe_inj] at h
    exact h
  | true =>
    rcases u with _ | _ | _ <;> rcases v with _ | _ | _ <;> simp_all [FV.isInf, FV.real]

/-! ### The entries of a codebook -/

/-- Entry `j` is the first of the entries at the place of `v` (R121: among equal entries the lowest index). -/
structure FirstAt (cb : BitVec 256) (v : FV) (j : Nat) : Prop where
  lt : j < 16
  num : (bookEntry cb j).isNaN = false
  place : (bookEntry cb j).place = v.place
  first : ∀ i, i < j → (bookEntry cb i).isNaN = false → (bookEntry cb i).place ≠ v.place

theorem FirstAt.unique {cb : BitVec 256} {v : FV} {i j : Nat} (hi : FirstAt cb v i) (hj : FirstAt cb v j) : i = j := by
  rcases lt_trichotomy i j with h | h | h
  · exact absurd hi.place (hj.first i h hi.num)
  · exact h
  · exact absurd hj.place (hi.first j h hj.num)

theorem FirstAt.of_place {cb : BitVec 256} {u v : FV} {j : Nat} (h : FirstAt cb u j) (hp : u.place = v.place) :
    FirstAt cb v j :=
  ⟨h.lt, h.num, h.place.trans hp, fun i hi hn he => h.first i hi hn (he.trans hp.symm)⟩

theorem bookFind_eq_some {cb : BitVec 256} {p : FV → Bool} {j : Nat} : bookFind cb p = some j ↔
    p (bookEntry cb j) = true ∧ j < 16 ∧ ∀ i, i < j → p (bookEntry cb i) = false := by
  simp [bookFind, List.find?_range_eq_some]
theorem bookFind_eq_none {cb : BitVec 256} {p : FV → Bool} :
    bookFind cb p = none ↔ ∀ j, j < 16 → p (bookEntry cb j) = false := by
  simp [bookFind]

/-- The index that the model looks up for an entry. -/
def bookIndex (cb : BitVec 256) (v : FV) : Nat := (bookFind cb fun u => !u.isNaN && u.eq v).getD 0

theorem firstAt_bookIndex {cb : BitVec 256} {v : FV}
    (h : ∃ j, j < 16 ∧ (bookEntry cb j).isNaN = false ∧ (bookEntry cb j).place = v.place) :
    FirstAt cb v (bookIndex cb v) := by
  cases hfind : bookFind cb fun u => !u.isNaN && u.eq v with
  | none =>
    obtain ⟨j, hj, hnum, hplace⟩ := h
    have := bookFind_eq_none.1 hfind j hj
    simp [hnum, (FV.eq_iff _ _).2 hplace] at this
  | some j =>
    obtain ⟨hp, hj, hfirst⟩ := bookFind_eq_some.1 hfind
    rw [Bool.and_eq_true, Bool.not_eq_true', FV.eq_iff] at hp
    rw [bookIndex, hfind]
    refine ⟨hj, hp.1, hp.2, fun i hi hnum hplace => ?_⟩
    have := hfirst i hi
    simp [hnum, (FV.eq_iff _ _).2 hplace] at this

/-- The entries that are not NaN. -/
def bookEntries (cb : BitVec 256) : List FV := ((List.range 16).map (bookEntry cb)).filter fun v => !v.isNaN

theorem mem_bookEntries {cb : BitVec 256} {v : FV} :
    v ∈ bookEntries cb ↔ ∃ j, j < 16 ∧ (bookEntry cb j).isNaN = false ∧ bookEntry cb j = v := by
  simp only [bookEntries, List.mem_filter, List.mem_map, List.mem_range, Bool.not_eq_true']
  constructor
  · rintro ⟨⟨j, hj, rfl⟩, hnum⟩
    exact ⟨j, hj, hnum, rfl⟩
  · rintro ⟨j, hj, hnum, rfl⟩
    exact ⟨⟨j, hj, rfl⟩, hnum⟩

/-! ### The neighbours of a value -/

/-- `bestEntry` finds none only in an empty list, and otherwise one that is greatest in an order that `better` decides. -/
theorem bestEntry_eq_none_iff {better : FV → FV → Bool} {vs : List FV} : bestEntry better vs = none ↔ vs = [] := by
  cases vs with
  | nil => simp [bestEntry]
  | cons v vs =>
    cases h : bestEntry better vs <;> simp [bestEntry, h]
theorem bestEntry_spec {α : Type} [LinearOrder α] {f : FV → α} {better : FV → FV → Bool}
    (hbetter : ∀ u v, better u v = true ↔ f v < f u) {vs : List FV} {u : FV} (h : bestEntry better vs = some u) :
    u ∈ vs ∧ ∀ v ∈ vs, f v ≤ f u := by
  induction vs generalizing u with
  | nil => simp [bestEntry] at h
  | cons v vs ih =>
    cases hb : bestEntry better vs with
    | none =>
      rw [bestEntry_eq_none_iff] at hb
      simp only [bestEntry, hb, Option.some.injEq] at h
      subst h hb
      simp
    | some w =>
      obtain ⟨hmem, hmax⟩ := ih hb
      simp only [bestEntry, hb, Option.some.injEq, hbetter] at h
      rw [List.forall_mem_cons]
      split_ifs at h with hlt
      · subst h
        exact ⟨List.mem_cons_of_mem v hmem, hlt.le, hmax⟩
      · subst h
        exact ⟨List.mem_cons_self, le_rfl, fun x hx => (hmax x hx).trans (not_lt.1 hlt)⟩

/-- Entry `j` is the nearest of those that come before `x` in the order of `f`, and the first of its place. -/
structure Neighbour {α : Type} [LinearOrder α] (f : FV → α) (cb : BitVec 256) (x : FV) (j : Nat) : Prop where
  first : FirstAt cb (bookEntry cb j) j
  before : f (bookEntry cb j) < f x
  nearest : ∀ i, i < 16 → (bookEntry cb i).isNaN = false → f (bookEntry cb i) < f x → f (bookEntry cb i) ≤ f (bookEntry cb j)

section
variable {α : Type} [LinearOrder α] {f : FV → α} (hf : ∀ u v : FV, f u = f v ↔ u.place = v.place)
  {better : FV → FV → Bool} (hbetter : ∀ u v, better u v = true ↔ f v < f u)
  {before : FV → Bool} {x : FV} (hbefore : ∀ v, before v = true ↔ f v < f x) {cb : BitVec 256}

include hf hbetter hbefore in
/-- The index of the entry that the model chooses is the neighbour. -/
theorem neighbour_of_bestEntry {u : FV} (h : bestEntry better ((bookEntries cb).filter before) = some u) :
    Neighbour f cb x (bookIndex cb u) ∧ (bookEntry cb (bookIndex cb u)).place = u.place := by
  obtain ⟨hmem, hmax⟩ := bestEntry_spec hbetter h
  rw [List.mem_filter, hbefore] at hmem
  obtain ⟨j, hj, hnum, rfl⟩ := mem_bookEntries.1 hmem.1
  have hfirst := firstAt_bookIndex (v := bookEntry cb j) ⟨j, hj, hnum, rfl⟩
  have hplace := (hf _ _).2 hfirst.place
  refine ⟨⟨hfirst.of_place hfirst.place.symm, hplace.trans_lt hmem.2, fun i hi hn hlt => ?_⟩, hfirst.place⟩
  rw [hplace]
  exact hmax _ (List.mem_filter.2 ⟨mem_bookEntries.2 ⟨i, hi, hn, rfl⟩, (hbefore _).2 hlt⟩)

include hf in
theorem Neighbour.unique {i j : Nat} (hi : Neighbour f cb x i) (hj : Neighbour f cb x j) : i = j := by
  have hplace : (bookEntry cb i).place = (bookEntry cb j).place := (hf _ _).1 <| le_antisymm
    (hj.nearest i hi.first.lt hi.first.num hi.before) (hi.nearest j hj.first.lt hj.first.num hj.before)
  exact hi.first.unique (hj.first.of_place hplace.symm)

include hf hbetter hbefore in
theorem exists_bestEntry {j : Nat} (hj : Neighbour f cb x j) : ∃ u,
    bestEntry better ((bookEntries cb).filter before) = some u ∧ bookIndex cb u = j ∧ u.place = (bookEntry cb j).place := by
  cases h : bestEntry better ((bookEntries cb).filter before) with
  | none =>
    rw [bestEntry_eq_none_iff, List.filter_eq_nil_iff] at h
    exact absurd ((hbefore _).2 hj.before) (h _ (mem_bookEntries.2 ⟨j, hj.first.lt, hj.first.num, rfl⟩))
  | some u =>
    obtain ⟨hu, hplace⟩ := neighbour_of_bestEntry hf hbetter hbefore h
    have hindex := hu.unique hf hj
    exact ⟨u, rfl, hindex, by rw [← hplace, hindex]⟩

include hf hbetter hbefore in
theorem bestEntry_eq_none (h : ∀ j, ¬ Neighbour f cb x j) : bestEntry better ((bookEntries cb).filter before) = none :=
  Option.eq_none_iff_forall_ne_some.2 fun _ hu => h _ (neighbour_of_bestEntry hf hbetter hbefore hu).1

include hf hbetter hbefore in
theorem exists_neighbour {i : Nat} (hi : i < 16) (hnum : (bookEntry cb i).isNaN = false) (hlt : f (bookEntry cb i) < f x) :
    ∃ j, Neighbour f cb x j := by
  by_contra hnone
  have h := bestEntry_eq_none hf hbetter hbefore (not_exists.1 hnone)
  rw [bestEntry_eq_none_iff, List.filter_eq_nil_iff] at h
  exact h _ (mem_bookEntries.2 ⟨i, hi, hnum, rfl⟩) ((hbefore _).2 hlt)
end

/-- The neighbour below, and the one above. -/
def LowerNeighbour (cb : BitVec 256) (x : FV) (j : Nat) : Prop := Neighbour FV.place cb x j
def UpperNeighbour (cb : BitVec 256) (x : FV) (j : Nat) : Prop := Neighbour (fun v => OrderDual.toDual v.place) cb x j

/-- The entries that the model chooses between. -/
def lowerEntry (cb : BitVec 256) (x : FV) : Option FV := bestEntry (fun u v => v.lt u) ((bookEntries cb).filter fun v => v.lt x)
def upperEntry (cb : BitVec 256) (x : FV) : Option FV := bestEntry (fun u v => u.lt v) ((bookEntries cb).filter fun v => x.lt v)

section
variable {cb : BitVec 256} {x : FV} {j : Nat}

theorem LowerNeighbour.entry (h : LowerNeighbour cb x j) :
    ∃ u, lowerEntry cb x = some u ∧ bookIndex cb u = j ∧ u.place = (bookEntry cb j).place :=
  exists_bestEntry (fun _ _ => Iff.rfl) (fun u v => FV.lt_iff v u) (fun v => FV.lt_iff v x) h
theorem UpperNeighbour.entry (h : UpperNeighbour cb x j) :
    ∃ u, upperEntry cb x = some u ∧ bookIndex cb u = j ∧ u.place = (bookEntry cb j).place :=
  exists_bestEntry (fun _ _ => OrderDual.toDual_inj) (fun u v => FV.lt_iff u v) (fun v => FV.lt_iff x v) h
theorem lowerEntry_eq_none (h : ∀ j, ¬ LowerNeighbour cb x j) : lowerEntry cb x = none :=
  bestEntry_eq_none (fun _ _ => Iff.rfl) (fun u v => FV.lt_iff v u) (fun v => FV.lt_iff v x) h
theorem upperEntry_eq_none (h : ∀ j, ¬ UpperNeighbour cb x j) : upperEntry cb x = none :=
  bestEntry_eq_none (fun _ _ => OrderDual.toDual_inj) (fun u v => FV.lt_iff u v) (fun v => FV.lt_iff x v) h

theorem exists_lowerNeighbour {i : Nat} (hi : i < 16) (hnum : (bookEntry cb i).isNaN = false)
    (hlt : (bookEntry cb i).place < x.place) : ∃ l, LowerNeighbour cb x l :=
  exists_neighbour (fun _ _ => Iff.rfl) (fun u v => FV.lt_iff v u) (fun v => FV.lt_iff v x) hi hnum hlt
theorem exists_upperNeighbour {i : Nat} (hi : i < 16) (hnum : (bookEntry cb i).isNaN = false)
    (hlt : x.place < (bookEntry cb i).place) : ∃ j, UpperNeighbour cb x j :=
  exists_neighbour (f := fun v => OrderDual.toDual v.place) (fun _ _ => OrderDual.toDual_inj) (fun u v => FV.lt_iff u v)
    (fun v => FV.lt_iff x v) hi hnum hlt
end

end Sys2Proof.Machine
end

section
/-! The choice between two codebook entries (R121), and the statement O27. -/
namespace Sys2Proof.Machine

/-! ### The choice between the neighbours -/

section
variable {x u v : FV} {seed : BitVec 64}

/-- A zero, and the sign of any other number. -/
theorem FV.isZero_iff (hnan : x.isNaN = false) (hinf : x.isInf = false) : x.isZero = true ↔ x.real = 0 := by
  cases x with
  | nan w s => simp [FV.isNaN] at hnan
  | inf n => simp [FV.isInf] at hinf
  | fin n m e =>
    have hpow : (2 : ℚ) ^ e ≠ 0 := by positivity
    rw [FV.real_fin]
    cases n <;> simp [FV.isZero, hpow]
theorem FV.neg_iff (hnan : x.isNaN = false) (hinf : x.isInf = false) (h0 : x.real ≠ 0) : x.neg = true ↔ x.real < 0 := by
  cases x with
  | nan w s => simp [FV.isNaN] at hnan
  | inf n => simp [FV.isInf] at hinf
  | fin n m e =>
    rw [FV.real_fin] at h0 ⊢
    have hpos : (0 : ℚ) ≤ m * 2 ^ e := by positivity
    cases n
    · simp [FV.neg, hpos]
    · have : (m : ℚ) * 2 ^ e ≠ 0 := by simpa using h0
      simpa [FV.neg] using lt_of_le_of_ne hpos this.symm

/-- With an infinite neighbour, the finite one is taken, and the lower of two infinities. -/
theorem cb4Choose_infinite {code : Nat} (hcode : code = 0 ∨ code = 4 ∨ (code = 1 ∧ x.isZero = true)) :
    (u.isInf = true → ¬ v.isInf = true → cb4Choose code seed x u v = v) ∧ (v.isInf = true → cb4Choose code seed x u v = u) := by
  have hinf (hor : u.isInf = true ∨ v.isInf = true) :
      cb4Choose code seed x u v = if u.isInf ∧ v.isInf then u else if u.isInf then v else u := by
    rcases hcode with rfl | rfl | ⟨rfl, hx⟩
    · simp [cb4Choose, hor]
    · simp [cb4Choose, hor]
    · simp [cb4Choose, hor, hx]
  refine ⟨fun hu hv => ?_, fun hv => ?_⟩
  · rw [hinf (.inl hu), if_neg fun h => hv h.2, if_pos hu]
  · rw [hinf (.inr hv)]
    by_cases hu : u.isInf = true
    · rw [if_pos ⟨hu, hv⟩]
    · rw [if_neg fun h => hu h.1, if_neg hu]

theorem cb4Choose_nearest (hu : u.isInf = false) (hv : v.isInf = false) :
    cb4Choose 0 seed x u v = if v.real - x.real < x.real - u.real then v else u := by
  simp [cb4Choose, hu, hv, Dy.lt_iff, Dy.val_sub, FV.val_dy]
theorem cb4Choose_zero (hx : x.isZero = true) (hu : u.isInf = false) (hv : v.isInf = false) :
    cb4Choose 1 seed x u v = if v.real < -u.real then v else u := by
  have hneg : (⟨-u.dy.m, u.dy.e⟩ : Dy).val = -u.real := by
    rw [← FV.val_dy, Dy.val, Dy.val]
    push_cast
    ring
  simp [cb4Choose, hx, hu, hv, Dy.lt_iff, hneg, FV.val_dy]
theorem cb4Choose_towards_zero (hx : x.isZero = false) : cb4Choose 1 seed x u v = if x.neg then v else u := by
  simp [cb4Choose, hx]

/-- The dither of a codebook is the whole part of 2^32 times the place of `x` between the neighbours (R121). -/
theorem cb4Choose_dither (hu : u.isInf = false) (hv : v.isInf = false) (huv : u.real < v.real) :
    let dd : Nat := ⌊(2 ^ 32 * (x.real - u.real) / (v.real - u.real) : ℚ)⌋.toNat
    cb4Choose 4 seed x u v = if 2 ^ 32 ≤ dd + (mix seed dd).toNat then v else u := by
  intro dd
  set a := x.dy.sub u.dy
  set whole := v.dy.sub u.dy
  set e := min a.e whole.e
  have ha : (a.align e : ℚ) * 2 ^ e = x.real - u.real := by
    rw [Dy.align_mul (min_le_left ..), Dy.val_sub, FV.val_dy, FV.val_dy]
  have hwhole : (whole.align e : ℚ) * 2 ^ e = v.real - u.real := by
    rw [Dy.align_mul (min_le_right ..), Dy.val_sub, FV.val_dy, FV.val_dy]
  have hpos : 0 < whole.align e := by
    have : (0 : ℚ) < whole.align e * 2 ^ e := by rw [hwhole]; linarith
    exact_mod_cast pos_of_mul_pos_left this (by positivity)
  have hdd : dd = (2 ^ 32 * a.align e / whole.align e).toNat := by
    obtain ⟨n, hn⟩ := Int.eq_ofNat_of_zero_le hpos.le
    have hratio : (2 ^ 32 * (x.real - u.real) / (v.real - u.real) : ℚ) = ((2 ^ 32 * a.align e : Int) : ℚ) / (n : ℚ) := by
      rw [← ha, ← hwhole, hn, ← mul_assoc, mul_div_mul_right _ _ (by positivity)]
      push_cast
      rfl
    simp only [dd]
    rw [hratio, Rat.floor_intCast_div_natCast, hn]
  rw [hdd]
  simp only [cb4Choose, hu, hv, Bool.false_eq_true, or_self, if_false, if_true]
  rfl

end

/-! ### What CB4ENC gives, by its neighbours -/

section
variable {cb : BitVec 256} {code : Nat} {seed : BitVec 64} {w : Word}

theorem cb4enc_nan (h : (FV.of32 w).isNaN = true) :
    (∀ j, bookFind cb FV.isNaN = some j → cb4enc cb code seed w = (j, 0)) ∧
      (bookFind cb FV.isNaN = none → cb4enc cb code seed w = (0, fINV)) := by
  unfold cb4enc
  exact ⟨fun j hj => by simp only [h, if_true, hj], fun hnone => by simp only [h, if_true, hnone]⟩

/-- The index and the flags by the entries on either side of the value. -/
def indexBetween (cb : BitVec 256) (code : Nat) (seed : BitVec 64) (x : FV) : Option FV → Option FV → Nat × Flags
  | some l, some h => (bookIndex cb (cb4Choose code seed x l h), fINX)
  | some l, none => (bookIndex cb l, fSAT ||| fINX)
  | none, some h => (bookIndex cb h, fSAT ||| fINX)
  | none, none => (0, fINV)

theorem cb4enc_num (h : (FV.of32 w).isNaN = false) : cb4enc cb code seed w =
    if (bookEntries cb).any fun v => v.eq (FV.of32 w) then (bookIndex cb (FV.of32 w), 0)
    else indexBetween cb code seed (FV.of32 w) (lowerEntry cb (FV.of32 w)) (upperEntry cb (FV.of32 w)) := by
  unfold cb4enc
  simp only [h, Bool.false_eq_true, if_false]
  rfl

theorem any_eq_iff (x : FV) : ((bookEntries cb).any fun v => v.eq x) = true ↔
    ∃ j, j < 16 ∧ (bookEntry cb j).isNaN = false ∧ (bookEntry cb j).place = x.place := by
  simp only [List.any_eq_true, FV.eq_iff]
  constructor
  · rintro ⟨v, hv, hplace⟩
    obtain ⟨j, hj, hnum, rfl⟩ := mem_bookEntries.1 hv
    exact ⟨j, hj, hnum, hplace⟩
  · rintro ⟨j, hj, hnum, hplace⟩
    exact ⟨_, mem_bookEntries.2 ⟨j, hj, hnum, rfl⟩, hplace⟩

/-- An entry equal to the input is taken, the lowest index of one, without a flag. -/
theorem cb4enc_equal (h : (FV.of32 w).isNaN = false) {j : Nat} (hj : FirstAt cb (FV.of32 w) j) :
    cb4enc cb code seed w = (j, 0) := by
  have hex : ∃ j, j < 16 ∧ (bookEntry cb j).isNaN = false ∧ (bookEntry cb j).place = (FV.of32 w).place :=
    ⟨j, hj.lt, hj.num, hj.place⟩
  rw [cb4enc_num h, if_pos ((any_eq_iff _).2 hex), (firstAt_bookIndex hex).unique hj]

section
variable (h : (FV.of32 w).isNaN = false)
  (hne : ∀ j, j < 16 → (bookEntry cb j).isNaN = false → (bookEntry cb j).place ≠ (FV.of32 w).place)
include h hne

theorem cb4enc_unequal : cb4enc cb code seed w =
    indexBetween cb code seed (FV.of32 w) (lowerEntry cb (FV.of32 w)) (upperEntry cb (FV.of32 w)) := by
  rw [cb4enc_num h, if_neg]
  rw [any_eq_iff]
  rintro ⟨j, hj, hnum, hplace⟩
  exact hne j hj hnum hplace

theorem cb4enc_above {l : Nat} (hl : LowerNeighbour cb (FV.of32 w) l) (hu : ∀ j, ¬ UpperNeighbour cb (FV.of32 w) j) :
    cb4enc cb code seed w = (l, fSAT ||| fINX) := by
  obtain ⟨u, he, hi, -⟩ := hl.entry
  rw [cb4enc_unequal h hne, he, upperEntry_eq_none hu, indexBetween, hi]
theorem cb4enc_below {j : Nat} (hj : UpperNeighbour cb (FV.of32 w) j) (hl : ∀ j, ¬ LowerNeighbour cb (FV.of32 w) j) :
    cb4enc cb code seed w = (j, fSAT ||| fINX) := by
  obtain ⟨u, he, hi, -⟩ := hj.entry
  rw [cb4enc_unequal h hne, he, lowerEntry_eq_none hl, indexBetween, hi]
theorem cb4enc_no_entry (hl : ∀ j, ¬ LowerNeighbour cb (FV.of32 w) j) (hu : ∀ j, ¬ UpperNeighbour cb (FV.of32 w) j) :
    cb4enc cb code seed w = (0, fINV) := by
  rw [cb4enc_unequal h hne, lowerEntry_eq_none hl, upperEntry_eq_none hu, indexBetween]

/-- Between two entries, the choice of the code decides; it depends on their exact values alone. -/
theorem cb4enc_between {l j : Nat} (hl : LowerNeighbour cb (FV.of32 w) l) (hj : UpperNeighbour cb (FV.of32 w) j) :
    ∃ u v : FV, u.place = (bookEntry cb l).place ∧ v.place = (bookEntry cb j).place ∧
      (cb4Choose code seed (FV.of32 w) u v = u → cb4enc cb code seed w = (l, fINX)) ∧
      (cb4Choose code seed (FV.of32 w) u v = v → cb4enc cb code seed w = (j, fINX)) := by
  obtain ⟨u, heu, hiu, hpu⟩ := hl.entry
  obtain ⟨v, hev, hiv, hpv⟩ := hj.entry
  have hout := cb4enc_unequal (code := code) (seed := seed) h hne
  rw [heu, hev, indexBetween] at hout
  exact ⟨u, v, hpu, hpv, fun hc => by rw [hout, hc, hiu], fun hc => by rw [hout, hc, hiv]⟩
end
end

/-! ### Between two entries, by the code (R121) -/

/-- Only a finite value has entries on both sides. -/
theorem isInf_of_between {cb : BitVec 256} {x : FV} {l j : Nat} (hl : LowerNeighbour cb x l) (hj : UpperNeighbour cb x j) :
    x.isInf = false := by
  rcases x with _ | (_ | _) | _
  · rfl
  · exact absurd (show (⊤ : WithBot (WithTop ℚ)) < (bookEntry cb j).place from hj.before) not_top_lt
  · exact absurd hl.before not_lt_bot
  · rfl

section
variable {cb : BitVec 256} {seed : BitVec 64} {w : Word} (h : (FV.of32 w).isNaN = false)
  (hne : ∀ j, j < 16 → (bookEntry cb j).isNaN = false → (bookEntry cb j).place ≠ (FV.of32 w).place)
  {l j : Nat} (hl : LowerNeighbour cb (FV.of32 w) l) (hj : UpperNeighbour cb (FV.of32 w) j)
include h hne hl hj

/-- The code takes the upper neighbour when `P` holds, and the lower one otherwise. -/
theorem cb4enc_takes {code : Nat} {P : Prop}
    (hchoose : ∀ u v : FV, u.isInf = (bookEntry cb l).isInf → u.real = (bookEntry cb l).real →
      v.isInf = (bookEntry cb j).isInf → v.real = (bookEntry cb j).real →
      (P → cb4Choose code seed (FV.of32 w) u v = v) ∧ (¬ P → cb4Choose code seed (FV.of32 w) u v = u)) :
    (P → cb4enc cb code seed w = (j, fINX)) ∧ (¬ P → cb4enc cb code seed w = (l, fINX)) := by
  obtain ⟨u, v, hu, hv, hlow, hhigh⟩ := cb4enc_between (code := code) (seed := seed) h hne hl hj
  obtain ⟨hup, hdown⟩ := hchoose u v (FV.isInf_eq_of_place hu) (FV.real_eq_of_place hu) (FV.isInf_eq_of_place hv)
    (FV.real_eq_of_place hv)
  exact ⟨fun p => hhigh (hup p), fun p => hlow (hdown p)⟩

/-- An infinite neighbour leaves the finite one, two infinite ones the lower. -/
theorem cb4enc_ends {code : Nat} (hcode : code = 0 ∨ code = 4 ∨ (code = 1 ∧ (FV.of32 w).isZero = true)) :
    ((bookEntry cb l).isInf = true → ¬ (bookEntry cb j).isInf = true → cb4enc cb code seed w = (j, fINX)) ∧
      ((bookEntry cb j).isInf = true → cb4enc cb code seed w = (l, fINX)) := by
  obtain ⟨u, v, hu, hv, hlow, hhigh⟩ := cb4enc_between (code := code) (seed := seed) h hne hl hj
  have hends := cb4Choose_infinite (u := u) (v := v) (seed := seed) hcode
  rw [← FV.isInf_eq_of_place hu, ← FV.isInf_eq_of_place hv]
  exact ⟨fun hlo hhi => hhigh (hends.1 hlo hhi), fun hhi => hlow (hends.2 hhi)⟩

variable (hlf : ¬ (bookEntry cb l).isInf = true) (hjf : ¬ (bookEntry cb j).isInf = true)

include hlf hjf in
theorem cb4enc_takes_nearest :
    ((bookEntry cb j).real - (FV.of32 w).real < (FV.of32 w).real - (bookEntry cb l).real → cb4enc cb 0 seed w = (j, fINX)) ∧
      (¬ (bookEntry cb j).real - (FV.of32 w).real < (FV.of32 w).real - (bookEntry cb l).real →
        cb4enc cb 0 seed w = (l, fINX)) := by
  rw [Bool.not_eq_true] at hlf hjf
  refine cb4enc_takes h hne hl hj fun u v hui hur hvi hvr => ?_
  rw [cb4Choose_nearest (hui.trans hlf) (hvi.trans hjf), hur, hvr]
  exact ⟨fun p => if_pos p, fun p => if_neg p⟩

include hlf hjf in
theorem cb4enc_takes_zero (hx : (FV.of32 w).isZero = true) :
    ((bookEntry cb j).real < -(bookEntry cb l).real → cb4enc cb 1 seed w = (j, fINX)) ∧
      (¬ (bookEntry cb j).real < -(bookEntry cb l).real → cb4enc cb 1 seed w = (l, fINX)) := by
  rw [Bool.not_eq_true] at hlf hjf
  refine cb4enc_takes h hne hl hj fun u v hui hur hvi hvr => ?_
  rw [cb4Choose_zero hx (hui.trans hlf) (hvi.trans hjf), hur, hvr]
  exact ⟨fun p => if_pos p, fun p => if_neg p⟩

include hlf hjf in
theorem cb4enc_takes_dither :
    let x := (FV.of32 w).real
    let L := (bookEntry cb l).real
    let H := (bookEntry cb j).real
    let dd : Nat := ⌊(2 ^ 32 * (x - L) / (H - L) : ℚ)⌋.toNat
    (2 ^ 32 ≤ dd + (mix seed dd).toNat → cb4enc cb 4 seed w = (j, fINX)) ∧
      (¬ 2 ^ 32 ≤ dd + (mix seed dd).toNat → cb4enc cb 4 seed w = (l, fINX)) := by
  rw [Bool.not_eq_true] at hlf hjf
  have hLH := (FV.place_lt_of_finite hlf hjf).1 (lt_trans hl.before hj.before)
  refine cb4enc_takes h hne hl hj fun u v hui hur hvi hvr => ?_
  rw [cb4Choose_dither (hui.trans hlf) (hvi.trans hjf) (by rwa [hur, hvr]), hur, hvr]
  exact ⟨fun p => if_pos p, fun p => if_neg p⟩

theorem cb4enc_takes_upper : cb4enc cb 2 seed w = (j, fINX) :=
  (cb4enc_takes h hne hl hj (P := True) fun _ _ _ _ _ _ => ⟨fun _ => rfl, fun p => absurd trivial p⟩).1 trivial
theorem cb4enc_takes_lower : cb4enc cb 3 seed w = (l, fINX) :=
  (cb4enc_takes h hne hl hj (P := False) fun _ _ _ _ _ _ => ⟨False.elim, fun _ => rfl⟩).2 id

theorem cb4enc_takes_towards_zero (hx : (FV.of32 w).real ≠ 0) :
    ((FV.of32 w).real < 0 → cb4enc cb 1 seed w = (j, fINX)) ∧ (¬ (FV.of32 w).real < 0 → cb4enc cb 1 seed w = (l, fINX)) := by
  have hinf := isInf_of_between hl hj
  have hzero : (FV.of32 w).isZero = false := by
    rw [← Bool.not_eq_true, FV.isZero_iff h hinf]
    exact hx
  refine cb4enc_takes h hne hl hj fun u v _ _ _ _ => ?_
  rw [cb4Choose_towards_zero hzero, if_congr (FV.neg_iff h hinf hx) rfl rfl]
  exact ⟨fun p => if_pos p, fun p => if_neg p⟩

end

/-! ### The nearest of finite entries (R121) -/

section
variable {cb : BitVec 256} {x : FV} (hx : x.isInf = false)
  (hcb : ∀ j, j < 16 → (bookEntry cb j).isNaN = false ∧ (bookEntry cb j).isInf = false)
include hx hcb

/-- A neighbour lies no farther from the value than any entry of its side. -/
theorem LowerNeighbour.near {l i : Nat} (hl : LowerNeighbour cb x l) (hi : i < 16) (hlt : (bookEntry cb i).place < x.place) :
    |x.real - (bookEntry cb l).real| = x.real - (bookEntry cb l).real ∧
      x.real - (bookEntry cb l).real ≤ |x.real - (bookEntry cb i).real| := by
  have hle := hl.nearest i hi (hcb i hi).1 hlt
  have hlow := (FV.place_lt_of_finite (hcb l hl.first.lt).2 hx).1 hl.before
  rw [← not_lt, FV.place_lt_of_finite (hcb l hl.first.lt).2 (hcb i hi).2, not_lt] at hle
  exact ⟨abs_of_nonneg (by linarith), le_abs.2 (.inl (by linarith))⟩
theorem UpperNeighbour.near {j i : Nat} (hj : UpperNeighbour cb x j) (hi : i < 16) (hlt : x.place < (bookEntry cb i).place) :
    |x.real - (bookEntry cb j).real| = (bookEntry cb j).real - x.real ∧
      (bookEntry cb j).real - x.real ≤ |x.real - (bookEntry cb i).real| := by
  have hle : (bookEntry cb j).place ≤ (bookEntry cb i).place := hj.nearest i hi (hcb i hi).1 hlt
  have hhigh : x.place < (bookEntry cb j).place := hj.before
  rw [FV.place_lt_of_finite hx (hcb j hj.first.lt).2] at hhigh
  rw [← not_lt, FV.place_lt_of_finite (hcb i hi).2 (hcb j hj.first.lt).2, not_lt] at hle
  exact ⟨by rw [abs_sub_comm, abs_of_nonneg (by linarith)], le_abs.2 (.inr (by linarith))⟩
end

/-- To nearest, the entry taken lies no farther from a number than any other of a codebook of numbers. -/
theorem cb4enc_nearest {cb : BitVec 256} {seed : BitVec 64} {w : Word} (hnan : (FV.of32 w).isNaN = false)
    (hinf : (FV.of32 w).isInf = false)
    (hcb : ∀ j, j < 16 → (bookEntry cb j).isNaN = false ∧ (bookEntry cb j).isInf = false) :
    (cb4enc cb 0 seed w).1 < 16 ∧ ∀ i, i < 16 →
      |(FV.of32 w).real - (bookEntry cb (cb4enc cb 0 seed w).1).real| ≤ |(FV.of32 w).real - (bookEntry cb i).real| := by
  by_cases hex : ∃ j, j < 16 ∧ (bookEntry cb j).isNaN = false ∧ (bookEntry cb j).place = (FV.of32 w).place
  · have hfirst := firstAt_bookIndex hex
    rw [cb4enc_equal hnan hfirst]
    refine ⟨hfirst.lt, fun i _ => ?_⟩
    rw [FV.real_eq_of_place hfirst.place, sub_self, abs_zero]
    exact abs_nonneg _
  · have hne : ∀ j, j < 16 → (bookEntry cb j).isNaN = false → (bookEntry cb j).place ≠ (FV.of32 w).place :=
      fun j hj hn he => hex ⟨j, hj, hn, he⟩
    have hside : ∀ i, i < 16 → (bookEntry cb i).place < (FV.of32 w).place ∨ (FV.of32 w).place < (bookEntry cb i).place :=
      fun i hi => lt_or_gt_of_ne (hne i hi (hcb i hi).1)
    by_cases hlow : ∃ l, LowerNeighbour cb (FV.of32 w) l <;> by_cases hhigh : ∃ j, UpperNeighbour cb (FV.of32 w) j
    · obtain ⟨l, hl⟩ := hlow
      obtain ⟨j, hj⟩ := hhigh
      have hl16 := hl.first.lt
      have hj16 := hj.first.lt
      have hlabs := (hl.near hinf hcb hl16 hl.before).1
      have hjabs := (hj.near hinf hcb hj16 hj.before).1
      obtain ⟨hup, hdown⟩ := cb4enc_takes_nearest (seed := seed) hnan hne hl hj (by simp [(hcb l hl16).2])
        (by simp [(hcb j hj16).2])
      by_cases hcloser : (bookEntry cb j).real - (FV.of32 w).real < (FV.of32 w).real - (bookEntry cb l).real
      · rw [hup hcloser]
        refine ⟨hj16, fun i hi => ?_⟩
        rcases hside i hi with hlt | hlt
        · linarith [(hl.near hinf hcb hi hlt).2]
        · linarith [(hj.near hinf hcb hi hlt).2]
      · rw [hdown hcloser]
        refine ⟨hl16, fun i hi => ?_⟩
        rcases hside i hi with hlt | hlt
        · linarith [(hl.near hinf hcb hi hlt).2]
        · linarith [(hj.near hinf hcb hi hlt).2]
    · obtain ⟨l, hl⟩ := hlow
      rw [cb4enc_above hnan hne hl (not_exists.1 hhigh)]
      refine ⟨hl.first.lt, fun i hi => ?_⟩
      obtain ⟨habs, hle⟩ := hl.near hinf hcb hi
        ((hside i hi).resolve_right fun hlt => hhigh (exists_upperNeighbour hi (hcb i hi).1 hlt))
      exact habs.trans_le hle
    · obtain ⟨j, hj⟩ := hhigh
      rw [cb4enc_below hnan hne hj (not_exists.1 hlow)]
      refine ⟨hj.first.lt, fun i hi => ?_⟩
      obtain ⟨habs, hle⟩ := hj.near hinf hcb hi
        ((hside i hi).resolve_left fun hlt => hlow (exists_lowerNeighbour hi (hcb i hi).1 hlt))
      exact habs.trans_le hle
    · rcases hside 0 (by decide) with hlt | hlt
      · exact absurd (exists_lowerNeighbour (by decide) (hcb 0 (by decide)).1 hlt) hlow
      · exact absurd (exists_upperNeighbour (by decide) (hcb 0 (by decide)).1 hlt) hhigh

end Sys2Proof.Machine
end

section
/-! The statement O27: blocks and codebooks. -/
namespace Sys2Proof.Machine

/-! ### The words of the statement -/

section
variable {cb : BitVec 256}

/-- An entry that is not a NaN. -/
def Entry (cb : BitVec 256) (j : Nat) : Prop := j < 16 ∧ (bookEntry cb j).isNaN = false

theorem firstAt_iff {v : FV} {j : Nat} : FirstAt cb v j ↔
    (Entry cb j ∧ (¬ (bookEntry cb j).Below v ∧ ¬ v.Below (bookEntry cb j))) ∧
      ∀ i, i < j → ¬ (Entry cb i ∧ (¬ (bookEntry cb i).Below v ∧ ¬ v.Below (bookEntry cb i))) := by
  simp only [FV.equal_iff]
  constructor
  · intro h
    exact ⟨⟨⟨h.lt, h.num⟩, h.place⟩, fun i hi hp => h.first i hi hp.1.2 hp.2⟩
  · rintro ⟨⟨⟨hlt, hnum⟩, hplace⟩, hfirst⟩
    exact ⟨hlt, hnum, hplace, fun i hi hn he => hfirst i hi ⟨⟨hi.trans hlt, hn⟩, he⟩⟩

/-- The first entry of its own place. -/
theorem firstAt_self_iff {j : Nat} : FirstAt cb (bookEntry cb j) j ↔ Entry cb j ∧ ∀ i, i < j → Entry cb i →
    ¬ (¬ (bookEntry cb i).Below (bookEntry cb j) ∧ ¬ (bookEntry cb j).Below (bookEntry cb i)) := by
  rw [firstAt_iff]
  simp only [FV.equal_iff, and_true, not_and]

theorem neighbour_iff {α : Type} [LinearOrder α] {f : FV → α} {B : FV → FV → Prop} (hB : ∀ u v, B u v ↔ f u < f v)
    {x : FV} {j : Nat} : Neighbour f cb x j ↔
      Entry cb j ∧ B (bookEntry cb j) x ∧ (∀ i, Entry cb i → B (bookEntry cb i) x → ¬ B (bookEntry cb j) (bookEntry cb i)) ∧
        ∀ i, i < j → Entry cb i →
          ¬ (¬ (bookEntry cb i).Below (bookEntry cb j) ∧ ¬ (bookEntry cb j).Below (bookEntry cb i)) := by
  simp only [hB, not_lt]
  constructor
  · intro h
    obtain ⟨hnum, hfirst⟩ := firstAt_self_iff.1 h.first
    exact ⟨hnum, h.before, fun i hi hlt => h.nearest i hi.1 hi.2 hlt, hfirst⟩
  · rintro ⟨hnum, hlt, hnear, hfirst⟩
    exact ⟨firstAt_self_iff.2 ⟨hnum, hfirst⟩, hlt, fun i hi hn hlt => hnear i ⟨hi, hn⟩ hlt⟩

theorem lowerNeighbour_iff {x : FV} {l : Nat} : LowerNeighbour cb x l ↔
    Entry cb l ∧ (bookEntry cb l).Below x ∧
      (∀ i, Entry cb i → (bookEntry cb i).Below x → ¬ (bookEntry cb l).Below (bookEntry cb i)) ∧
      ∀ i, i < l → Entry cb i →
        ¬ (¬ (bookEntry cb i).Below (bookEntry cb l) ∧ ¬ (bookEntry cb l).Below (bookEntry cb i)) :=
  neighbour_iff FV.below_iff
theorem upperNeighbour_iff {x : FV} {j : Nat} : UpperNeighbour cb x j ↔
    Entry cb j ∧ x.Below (bookEntry cb j) ∧
      (∀ i, Entry cb i → x.Below (bookEntry cb i) → ¬ (bookEntry cb i).Below (bookEntry cb j)) ∧
      ∀ i, i < j → Entry cb i →
        ¬ (¬ (bookEntry cb i).Below (bookEntry cb j) ∧ ¬ (bookEntry cb j).Below (bookEntry cb i)) :=
  neighbour_iff (B := fun u v => v.Below u) fun u v => FV.below_iff v u

theorem no_entry_neighbour (h : ∀ j, ¬ Entry cb j) (x : FV) :
    (∀ j, ¬ LowerNeighbour cb x j) ∧ ∀ j, ¬ UpperNeighbour cb x j :=
  ⟨fun j hj => h j ⟨hj.first.lt, hj.first.num⟩, fun j hj => h j ⟨hj.first.lt, hj.first.num⟩⟩

end

/-- A NaN takes the lowest NaN entry; where there is none, index 0 with INV. -/
theorem cb4enc_nan_first {cb : BitVec 256} {code : Nat} {seed : BitVec 64} {w : Word} (h : (FV.of32 w).isNaN = true) :
    (∀ j, ((j < 16 ∧ (bookEntry cb j).isNaN = true) ∧ ∀ i, i < j → ¬ (i < 16 ∧ (bookEntry cb i).isNaN = true)) →
      cb4enc cb code seed w = (j, 0)) ∧
    ((∀ j, j < 16 → (bookEntry cb j).isNaN = false) → cb4enc cb code seed w = (0, fINV)) := by
  obtain ⟨hsome, hnone⟩ := cb4enc_nan (cb := cb) (code := code) (seed := seed) h
  constructor
  · rintro j ⟨⟨hj, hnan⟩, hfirst⟩
    exact hsome j <| bookFind_eq_some.2
      ⟨hnan, hj, fun i hi => Bool.eq_false_iff.2 fun hn => hfirst i hi ⟨hi.trans hj, hn⟩⟩
  · intro hall
    exact hnone (bookFind_eq_none.2 hall)

/-- Settles O27: the scale is of the greatest binade, and a codebook's index is that of a neighbour. -/
theorem blockScaleAndNearestEntry : Obligations.BlockScaleAndNearestEntry := by
  refine ⟨fun F emax code seed xs hnum hpos _ h => mxBlock_bounds F emax code seed xs hnum hpos h,
    fun F emax code seed xs _ => ⟨fun h => ?_, fun hnum => ?_⟩, fun w n m ex h hm => ⟨rfl, ulp32_spacing h hm⟩,
    fun cb code seed w _ => ⟨fun hnan => ?_, fun hnum => ⟨fun j hj => cb4enc_equal hnum (firstAt_iff.2 hj), fun hno => ?_,
      fun hunequal => ?_⟩⟩, fun cb seed w hnan hinf hcb => cb4enc_nearest hnan hinf hcb⟩
  · rw [mxBlock_of_nan F emax code seed xs h]
    exact ⟨rfl, rfl, rfl⟩
  · obtain ⟨hzero, hlow, hlength, hcodes, hflags⟩ := mxBlock_num F emax code seed xs hnum
    refine ⟨hzero, hlow, ?_⟩
    intro e element
    have helement : ∀ w, mxElement F code seed e w = element w := by
      intro w
      cases h : FV.of32 w <;> simp [mxElement, element, Rnd.ofCode, h]
    simp only [← helement]
    exact ⟨hlength, hcodes, hflags⟩
  · obtain ⟨hfirst, hnone⟩ := cb4enc_nan_first (cb := cb) (code := code) (seed := seed) hnan
    exact ⟨hfirst, fun hall => hnone fun j hj => (hall j hj).2⟩
  · obtain ⟨hlower, hupper⟩ := no_entry_neighbour hno (FV.of32 w)
    exact cb4enc_no_entry hnum (fun j hj hn _ => hno j ⟨hj, hn⟩) hlower hupper
  · have hne : ∀ j, j < 16 → (bookEntry cb j).isNaN = false → (bookEntry cb j).place ≠ (FV.of32 w).place :=
      fun j hj hn he => hunequal j ⟨hj, hn⟩ ((FV.equal_iff _ _).2 he)
    refine ⟨fun l hl hno => ?_, fun j hj hno => ?_, fun l j hlo hhi => ?_⟩
    · exact cb4enc_above hnum hne (lowerNeighbour_iff.2 hl) fun j hj => hno j (upperNeighbour_iff.1 hj)
    · exact cb4enc_below hnum hne (upperNeighbour_iff.2 hj) fun l hl => hno l (lowerNeighbour_iff.1 hl)
    · have hl := lowerNeighbour_iff.2 hlo
      have hj := upperNeighbour_iff.2 hhi
      have hinf := isInf_of_between hl hj
      intro L H lowInf highInf ends takes dd
      refine ⟨?_, ?_, ?_, ?_, ?_⟩
      · rintro rfl
        exact ⟨cb4enc_ends hnum hne hl hj (.inl rfl), cb4enc_takes_nearest hnum hne hl hj⟩
      · rintro rfl
        refine ⟨fun hpos => ?_, fun hneg => ?_, fun hzero => ?_⟩
        · exact (cb4enc_takes_towards_zero hnum hne hl hj hpos.ne').2 hpos.not_gt
        · exact (cb4enc_takes_towards_zero hnum hne hl hj hneg.ne).1 hneg
        · have hx := (FV.isZero_iff hnum hinf).2 hzero
          exact ⟨cb4enc_ends hnum hne hl hj (.inr (.inr ⟨rfl, hx⟩)),
            fun hlf hjf => cb4enc_takes_zero hnum hne hl hj hlf hjf hx⟩
      · rintro rfl
        exact cb4enc_takes_upper hnum hne hl hj
      · rintro rfl
        exact cb4enc_takes_lower hnum hne hl hj
      · rintro rfl
        exact ⟨cb4enc_ends hnum hne hl hj (.inr (.inl rfl)), cb4enc_takes_dither hnum hne hl hj⟩

end Sys2Proof.Machine
end
